-- ==== Sys2Proof/Word.lean ====
section
/-! DEFINITION. The words of the Yilrek Y9 and the plainest arithmetic on them and the type of a sorted sparse map. -/

namespace Sys2Proof

abbrev Byte := BitVec 8
abbrev W16 := BitVec 16
abbrev W32 := BitVec 32
abbrev W64 := BitVec 64
abbrev W128 := BitVec 128
/-- A cluster register: 16 lanes of 32 bits (R136). -/
abbrev W512 := BitVec 512
/-- The components of an axis register: 128 of 16 bits (R84). -/
abbrev AxisBits := BitVec 2048
/-- A tile: 64 rows of 128 bytes (R152). -/
abbrev TileBits := BitVec 65536
/-- One plane of an accumulator: 64 × 64 FP32 (R152). -/
abbrev PlaneBits := BitVec 131072
/-- A bundle address: 60 bits (R101). -/
abbrev Addr := BitVec 60

/-- Sorted sparse maps with a default: keys strictly rising, no entry at the default. -/
abbrev AMap (α : Type) := List (Nat × α)

end Sys2Proof
end

