-- ==== Sys2Proof/Machine/Bits.lean ====
section
/-! DEFINITION. Bit fields, little-endian bytes (R79) and sorted sparse maps in one canonical form. -/

namespace Sys2Proof

/-- Element `i` of width `w` of a packed word, counted from bit 0 (R79). -/
@[inline] def elem {n : Nat} (w i : Nat) (x : BitVec n) : BitVec w := x.extractLsb' (w * i) w

/-- The word with element `i` of width `w` replaced. -/
def setElem {n : Nat} (w i : Nat) (x : BitVec n) (v : BitVec w) : BitVec n :=
  let m : BitVec n := (BitVec.allOnes w).setWidth n <<< (w * i)
  (x &&& ~~~m) ||| ((v.setWidth n) <<< (w * i))

/-- Pack a list of elements of width `w`, the first at bit 0. -/
def packNat (w : Nat) : List Nat → Nat
  | [] => 0
  | x :: xs => x % 2 ^ w + 2 ^ w * packNat w xs

/-- Pack a list of words of width `w` into `n` bits, the first at bit 0. -/
def packElems {w : Nat} (n : Nat) (xs : List (BitVec w)) : BitVec n :=
  BitVec.ofNat n (packNat w (xs.map BitVec.toNat))

/-- The little-endian bytes of a word's low `n` bytes (R79). -/
def bytesOf {k : Nat} (n : Nat) (x : BitVec k) : List Byte :=
  (List.range n).map fun i => elem 8 i x

/-- The word of `n` bits that little-endian bytes make (R79). -/
def ofBytes (n : Nat) (bs : List Byte) : BitVec n := packElems n bs

/-- Read a sparse map; an unlisted key reads the default. -/
def amGet {α : Type} (d : α) : AMap α → Nat → α
  | [], _ => d
  | (k, v) :: m, a => if k = a then v else if a < k then d else amGet d m a

/-- A sparse map with one more entry before its others, which the default is not. -/
def amCell {α : Type} [DecidableEq α] (d : α) (addr : Nat) (x : α) (rest : AMap α) : AMap α :=
  if x = d then rest else (addr, x) :: rest

/-- Write a sparse map, keeping the canonical form: writing the default removes the entry. -/
def amSet {α : Type} [DecidableEq α] (d : α) : AMap α → Nat → α → AMap α
  | [], addr, x => amCell d addr x []
  | cell :: rest, addr, x =>
    if addr < cell.1 then amCell d addr x (cell :: rest)
    else if addr = cell.1 then amCell d addr x rest
    else cell :: amSet d rest addr x

/-- Every key of a sparse map is above `b`. -/
def amAbove {α : Type} (b : Nat) : AMap α → Bool
  | [] => true
  | (k, _) :: _ => decide (b < k)

/-- The canonical form of a sparse map. -/
def amWf {α : Type} [DecidableEq α] (d : α) : AMap α → Bool
  | [] => true
  | (k, v) :: m => decide (v ≠ d) && amAbove k m && amWf d m

/-- Read `n` consecutive bytes from address `a`. -/
def amRead (m : AMap Byte) (a n : Nat) : List Byte :=
  (List.range n).map fun i => amGet 0 m (a + i)

/-- Write consecutive bytes from address `a`. -/
def amWrite (m : AMap Byte) (a : Nat) : List Byte → AMap Byte
  | [] => m
  | b :: bs => amWrite (amSet 0 m a b) (a + 1) bs

/-- Entry `i` of a vector, or a default outside it. -/
def vget {α : Type} {n : Nat} (d : α) (v : Vector α n) (i : Nat) : α := if h : i < n then v[i] else d

/-- Replace entry `i` of a vector; outside it nothing changes. -/
def vset {α : Type} {n : Nat} (v : Vector α n) (i : Nat) (x : α) : Vector α n := if h : i < n then v.set i x else v

/-- Replace element `i` of a list, if it exists. -/
def listSet {α : Type} (l : List α) (i : Nat) (v : α) : List α := l.set i v

/-- Signed value of a word. -/
abbrev sval {n : Nat} (x : BitVec n) : Int := x.toInt

end Sys2Proof
end

