-- ==== Sys2Proof/Machine/Flags.lean ====
section
/-! DEFINITION. The flags of a sticky record (R95, R238), in the order of its bits [63:55], and the saturating integer
forms (R83). -/

namespace Sys2Proof

/-- Nine flags: bit i of it is bit 55 + i of a sticky record (R238). -/
abbrev Flg := BitVec 9

namespace Flg
/-- invalid -/
def invalid : Flg := 0x001
/-- divide-by-zero -/
def divz : Flg := 0x002
/-- overflow -/
def ovf : Flg := 0x004
/-- underflow -/
def unf : Flg := 0x008
/-- inexact -/
def inexact : Flg := 0x010
/-- saturate -/
def sat : Flg := 0x020
/-- latch-lost -/
def latch : Flg := 0x040
/-- axis-unsettled -/
def axun : Flg := 0x080
/-- barrier-overrun -/
def bovr : Flg := 0x100
/-- A flag raised if a condition holds. -/
def iff (b : Bool) (f : Flg) : Flg := if b then f else 0
end Flg

/-- A sticky record after flags are raised by an operation of a bundle (R238, R239): FIRST is taken when the record's
flags were all clear. -/
def stickyRaise (rec : W64) (bundle : Addr) (f : Flg) : W64 :=
  if f = 0 then rec
  else
    let old : Flg := rec.extractLsb' 55 9
    let first : BitVec 54 := if old = 0 then bundle.extractLsb' 2 54 else rec.extractLsb' 0 54
    (old ||| f) ++ 0#1 ++ first

/-- The least value of a signed width (R83). -/
def sMin (w : Nat) : Int := -(2 ^ (w - 1) : Nat)
/-- The greatest value of a signed width (R83). -/
def sMax (w : Nat) : Int := (2 ^ (w - 1) : Nat) - 1

/-- The signed saturating form: the clamped value and its saturate flag (R83). -/
def satS (w : Nat) (x : Int) : BitVec w × Flg :=
  if x < sMin w then (BitVec.ofInt w (sMin w), .sat)
  else if sMax w < x then (BitVec.ofInt w (sMax w), .sat)
  else (BitVec.ofInt w x, 0)

/-- The natural saturating form (R83). -/
def satU (w : Nat) (x : Int) : BitVec w × Flg :=
  if x < 0 then (0, .sat)
  else if (2 ^ w : Nat) ≤ x then (.allOnes w, .sat)
  else (BitVec.ofInt w x, 0)

end Sys2Proof
end

