-- ==== Sys2Proof/Config.lean ====
section
/-! DEFINITION. What the module fixes (R1, R31) and the free values: constants without a body, of which nothing can be
proved, applied to a plain counter in State or to operands (log entries 3 to 28 and 81). -/

namespace Sys2Proof.Config

/-- Physical cores of the package (R31). -/
def nCores : Nat := 288
/-- Physical cores of a die (R31). -/
def coresPerDie : Nat := 72
/-- Compute dies (R1). -/
def nDies : Nat := 4
/-- Partitions (R1). -/
def nPartitions : Nat := 64
/-- Host work queues of the package (R1). -/
def nQueues : Nat := 65536
/-- Bytes of a scratchpad (R274). -/
def spadBytes : Nat := 2097152
/-- Bytes of hub queue SRAM (R320). -/
def queueSram : Nat := 33554432

/-- The die of a physical core (R31). -/
def dieOf (g : Nat) : Nat := g / coresPerDie
/-- The physical quad of a core on its die (R31). -/
def quadOf (g : Nat) : Nat := (g % coresPerDie) / 4

/-- FREE VALUE: which agent of the device moves next when State.agenda names none (R293, R424); log entry 3. -/
opaque freeChoice : Nat → Nat
/-- FREE VALUE: which cached translation an access uses; a number that names none walks (R273); log entry 7. -/
opaque freeStale : Nat → Nat
/-- FREE VALUE: whether an access uses the range entries of the last RELOAD before a FLUSH has completed (R273); log entry 7. -/
opaque freeRange : Nat → Bool
/-- FREE VALUE: the memory channel that holds a line: of tier 1 within its die, or of tier 2 (R1, R366), which the manual does not
state; log entry 26. -/
opaque channelOf : Nat → Nat
/-- FREE VALUE: the skew of a die's copy of the time counter, 0 to 2 ns behind the hub's (R382); log entry 8. -/
opaque freeSkew : Nat → Nat
/-- FREE VALUE: the clock step to which the module power limit lowers the dies (R416); log entry 28. -/
opaque freePower : Nat → Nat
/-- FREE VALUE: the device identity key, which never leaves the hub's security processor (R373); log entry 9. -/
opaque deviceKey : Nat
/-- FREE VALUE: the device's identity certificate (R365, R373); log entry 9. -/
opaque freeCert : Nat → Byte
/-- FREE VALUE: the cycles that a trap entry takes beyond 8 (R240, R424); log entry 81. -/
opaque freeEntry : Nat → Nat
/-- FREE VALUE: a correctly rounded function value that the model's interval evaluation did not certify (R147, R183);
log entry 10. -/
opaque freeRound : Nat → W32 → Nat

end Sys2Proof.Config
end

