-- ==== Sys2Proof/Syntax.lean ====
section
/-! DEFINITION. The operations of the Yilrek Y9: one constructor for each row of spec/opcode_table.json. The first
195 are the instructions of the slot kinds S, Y, D, V, A, M, L, W and X (R72 to R78); the others are the device's
steps and events (95_what_each_step_holds.md), which no bundle encodes. Field names are those of R60. -/

namespace Sys2Proof

/-- The twelve slots of a bundle, in mask order (R51). -/
inductive SlotKind where
  | s | d | v0 | v1 | v2 | v3 | a | m | l | w | x | y
  deriving DecidableEq, Repr

/-- A scalar source field: a register of the scalar file or a scalar latch (R58). -/
inductive SSrc where
  | reg (n : BitVec 6)
  | latch (k : BitVec 3)
  deriving DecidableEq, Repr

/-- A scalar destination field: a register, or with NW = 1 a scalar latch only (R58). -/
inductive SDst where
  | reg (n : BitVec 6)
  | latch (k : BitVec 3)
  deriving DecidableEq, Repr

/-- A vector source field: a register or latch of the executing cluster (R58). -/
inductive VSrc where
  | reg (n : BitVec 5)
  | latch (k : BitVec 3)
  deriving DecidableEq, Repr

/-- A vector destination field (R58). -/
inductive VDst where
  | reg (n : BitVec 5)
  | latch (k : BitVec 3)
  deriving DecidableEq, Repr

/-- A tile operand of format MF: a direct number, or the CUR of a matrix address register (R60, R165). -/
inductive TOp where
  | tile (n : BitVec 4)
  | ma (i : BitVec 2)
  deriving DecidableEq, Repr

/-- A block-tile operand of MMAQ (R165). -/
inductive WOp where
  | blk (n : BitVec 7)
  | ma (i : BitVec 2)
  deriving DecidableEq, Repr

/-- The rounding codes 0 to 3 of R71. -/
inductive Rm where
  | rne | rz | ru | rd
  deriving DecidableEq, Repr

/-- The rounding codes 0 to 4 of R71. -/
inductive Rm5 where
  | rne | rz | ru | rd | rs
  deriving DecidableEq, Repr

/-- The scalar floating-point types, t = 0 and t = 1 (R118). -/
inductive FTy where
  | f64 | f32
  deriving DecidableEq, Repr

/-- The vector integer types, e = 0, 1 and 2 (R74). -/
inductive ITy where
  | i32 | i16 | i8
  deriving DecidableEq, Repr

/-- The types of LDS (R281). -/
inductive LdTy where
  | i8 | n8 | i16 | n16 | i32 | n32 | i64
  deriving DecidableEq, Repr

/-- The types of STS (R282). -/
inductive StTy where
  | i8 | i16 | i32 | i64
  deriving DecidableEq, Repr

/-- The formats of MMA (R76). -/
inductive MmaFmt where
  | bf16 | e4m3 | e5m2 | f32 | f64
  deriving DecidableEq, Repr

/-- The formats of MCVT (R76). -/
inductive McvtFmt where
  | bf16 | e4m3 | e5m2
  deriving DecidableEq, Repr

/-- The modes of MTRS, codes 0 to 3 of the ACC field (R165). -/
inductive TrsMode where
  | full | fwd | diag | bwd
  deriving DecidableEq, Repr

/-- The SEL codes of MSETMA (R159). -/
inductive MaSel where
  | base | stride | count
  deriving DecidableEq, Repr

/-- The conversion forms of VCVT with the rounding code each pair takes (R74, R150). -/
inductive CvtForm where
  | f32i32 (m : Rm)    -- q = 0
  | i32f32 (m : Rm)    -- q = 1
  | bf16f32 (m : Rm5)  -- q = 2
  | f32bf16            -- q = 3
  | e4m3f32 (m : Rm5)  -- q = 4
  | e5m2f32 (m : Rm5)  -- q = 5
  | f32e4m3            -- q = 6
  | f32e5m2            -- q = 7
  | f32q4 (m : Rm)     -- q = 8
  deriving DecidableEq, Repr

/-- The reductions' element types (R148). -/
inductive RedTy where
  | f32 | i32
  deriving DecidableEq, Repr

/-- One comma-table entry (R246); the index of a comma is its place in the table. -/
structure CommaEntry where
  addr  : W64
  smask : W64
  cmask : W32
  amask : W16
  tmask : W16
  vmask : BitVec 256
  flags : W32
  deriving DecidableEq, Repr

/-- The code of one latency class of an image: its words by address, its comma table, and the bundles at which steps may enter it: entry i of one
variant's list answers entry i of the other's (R246, R342). -/
structure Variant where
  code   : List (Nat × List Byte)
  commas : List CommaEntry
  entries : List W64
  deriving DecidableEq, Repr

/-- A page of a segment declared local to a logical core (R340): the virtual page, the physical frame it is given, and the bits of its
page entry other than V, PLACE, HOME and the frame (R269). -/
structure LocalPage where
  core  : Nat
  page  : Nat
  frame : Nat
  attr  : W64
  deriving DecidableEq, Repr

/-- A Belha image as colmer receives it (R340, R341, R418). Every refusal is computed from the code. `data` is its memory segment, by virtual
address, and `scratch` the scratchpad image of each logical core, from offset 0 (R21). -/
structure Image where
  cores         : Nat
  classB        : Bool
  policyCompat  : Bool
  own           : Variant
  other         : Option Variant
  handlerImage  : Bool
  tvec          : W64
  pages         : List LocalPage
  data          : List (Nat × List Byte)
  scratch       : List (Nat × List Byte)
  deriving DecidableEq, Repr

/-- The power states of the module (R416). -/
inductive PowerState where
  | p0 | p1 | p3
  deriving DecidableEq, Repr

/-- The event messages and their companions of the time protocol (R384). -/
inductive PtpKind where
  | sync | followUp | delayReq | delayResp | pdelayReq | pdelayResp
  deriving DecidableEq, Repr

/-- Why the elision engine runs (R373 REASON). -/
inductive ScrubReason where
  | slice | reload | scrub | reset | watchdog
  deriving DecidableEq, Repr

/-- How the host reaches the device (R364, R365, R405): memory through the decoders, the register block of a virtual function's partition, the
physical function's window of every partition's block, and its own register block. -/
inductive HostVia where
  | memory | block (fn : Nat) | pfBlocks | pfRegs
  deriving DecidableEq, Repr

/-- A place that the host reads. -/
structure HostPlace where
  via  : HostVia
  addr : Nat
  deriving DecidableEq, Repr

/-- A turn of the elision engine for a partition: for each core that the read-back of its scrub finds fault with, the errors corrected and the
mismatches (R371, log entry 47). -/
structure ScrubTurn where
  part  : Nat
  found : List (Nat × Nat × Nat)
  deriving DecidableEq, Repr

/-- The removal of a module of the pod: whether each of its partitions is idle or has been reset, the pod groups that its partitions are
then bound into, and the groups from which they were cleared before, with the time of the clear (R408). -/
structure Removal where
  module : Nat
  idle   : Bool
  groups : List (BitVec 16)
  cleared : List (BitVec 16 × BitVec 64)
  deriving DecidableEq, Repr

/-- The operations and events of spec/opcode_table.json. -/
inductive Instr where
  -- S slot (R109 to R120)
  | add (d : SDst) (a b : SSrc) | sub (d : SDst) (a b : SSrc) | and (d : SDst) (a b : SSrc) | or (d : SDst) (a b : SSrc)
  | xor (d : SDst) (a b : SSrc) | andn (d : SDst) (a b : SSrc) | shl (d : SDst) (a b : SSrc) | shr (d : SDst) (a b : SSrc)
  | sar (d : SDst) (a b : SSrc) | min (d : SDst) (a b : SSrc) | max (d : SDst) (a b : SSrc) | minu (d : SDst) (a b : SSrc)
  | maxu (d : SDst) (a b : SSrc) | adds (d : SDst) (a b : SSrc) | subs (d : SDst) (a b : SSrc)
  | mul (d : SDst) (a b : SSrc) | mulh (d : SDst) (a b : SSrc) | mulhu (d : SDst) (a b : SSrc)
  | div (d : SDst) (a b : SSrc) | divu (d : SDst) (a b : SSrc) | rem (d : SDst) (a b : SSrc) | remu (d : SDst) (a b : SSrc)
  | addi (d : SDst) (a : SSrc) (imm : BitVec 12) | andi (d : SDst) (a : SSrc) (imm : BitVec 12)
  | ori (d : SDst) (a : SSrc) (imm : BitVec 12) | xori (d : SDst) (a : SSrc) (imm : BitVec 12)
  | shli (d : SDst) (a : SSrc) (n : BitVec 6) | shri (d : SDst) (a : SSrc) (n : BitVec 6) | sari (d : SDst) (a : SSrc) (n : BitVec 6)
  | movq (d : SDst) (h : BitVec 2) (keep : Bool) (imm : BitVec 16)
  | cmpeq (p : BitVec 3) (a b : SSrc) | cmpne (p : BitVec 3) (a b : SSrc) | cmplt (p : BitVec 3) (a b : SSrc)
  | cmple (p : BitVec 3) (a b : SSrc) | cmpltu (p : BitVec 3) (a b : SSrc) | cmpleu (p : BitVec 3) (a b : SSrc)
  | cmpeqi (p : BitVec 3) (a : SSrc) (imm : BitVec 12) | cmpnei (p : BitVec 3) (a : SSrc) (imm : BitVec 12)
  | cmplti (p : BitVec 3) (a : SSrc) (imm : BitVec 12) | cmplei (p : BitVec 3) (a : SSrc) (imm : BitVec 12)
  | cmpltui (p : BitVec 3) (a : SSrc) (imm : BitVec 12) | cmpleui (p : BitVec 3) (a : SSrc) (imm : BitVec 12)
  | pand (p : BitVec 3) (pa pb : BitVec 4) | por (p : BitVec 3) (pa pb : BitVec 4)
  | pxor (p : BitVec 3) (pa pb : BitVec 4) | pandn (p : BitVec 3) (pa pb : BitVec 4)
  | movps (d : SDst) | movsp (a : SSrc)
  | rdcnt (d : SDst) (a : SSrc) | rdtime (d : SDst) | rddesc (d : SDst) (a : SSrc)
  | fadd (t : FTy) (m : Rm) (d : SDst) (a b : SSrc) | fsub (t : FTy) (m : Rm) (d : SDst) (a b : SSrc)
  | fmul (t : FTy) (m : Rm) (d : SDst) (a b : SSrc) | fma (t : FTy) (m : Rm) (d : SDst) (a b : SSrc)
  | fcmpeq (t : FTy) (p : BitVec 3) (a b : SSrc) | fcmplt (t : FTy) (p : BitVec 3) (a b : SSrc)
  | fcmple (t : FTy) (p : BitVec 3) (a b : SSrc) | fcmpun (t : FTy) (p : BitVec 3) (a b : SSrc)
  | cvtF64I64 (m : Rm) (d : SDst) (a : SSrc) | cvtI64F64 (m : Rm) (d : SDst) (a : SSrc)
  | cvtF32I64 (m : Rm) (d : SDst) (a : SSrc) | cvtI64F32 (m : Rm) (d : SDst) (a : SSrc)
  | cvtF32F64 (m : Rm) (d : SDst) (a : SSrc) | cvtF64F32 (d : SDst) (a : SSrc)
  -- Y slot (R121 to R134)
  | br (ofs : BitVec 24) | call (ofs : BitVec 24) | brr (a : SSrc) | callr (a : SSrc) | ret
  | loop (body : BitVec 6) (count : BitVec 16) | loopr (body : BitVec 6) (a : SSrc)
  | wait (w : BitVec 3)
  | waitph (p : BitVec 3) (a b : SSrc) (tmo : BitVec 5) | waitbit (p : BitVec 3) (a b : SSrc) (tmo : BitVec 5)
  | bar (sc : BitVec 3) | fence (sc : BitVec 3)
  | endStep | trap (imm : BitVec 16) | trapack | tret
  | crrd (d : SDst) (cr : BitVec 12) | crwr (cr : BitVec 12) (a : SSrc)
  -- D slot (R213 to R221)
  | dadd (x y z : BitVec 5) (w : BitVec 3) | dsub (x y z : BitVec 5) (w : BitVec 3) | dmul (x y z : BitVec 5) (w : BitVec 3)
  | dmin (x y z : BitVec 5) (w : BitVec 3) | dmax (x y z : BitVec 5) (w : BitVec 3)
  | deq (x y : BitVec 5) (w : BitVec 3) | dne (x y : BitVec 5) (w : BitVec 3)
  | dlt (x y : BitVec 5) (w : BitVec 3) | dle (x y : BitVec 5) (w : BitVec 3)
  | deqi (c : BitVec 5) (imm : BitVec 16) (w : BitVec 3) | dnei (c : BitVec 5) (imm : BitVec 16) (w : BitVec 3)
  | dlti (c : BitVec 5) (imm : BitVec 16) (w : BitVec 3) | dlei (c : BitVec 5) (imm : BitVec 16) (w : BitVec 3)
  | dgti (c : BitVec 5) (imm : BitVec 16) (w : BitVec 3) | dgei (c : BitVec 5) (imm : BitVec 16) (w : BitVec 3)
  | din (c : BitVec 5) (map : BitVec 16) (o : BitVec 6) (w : BitVec 3)
  | dnotin (c : BitVec 5) (map : BitVec 16) (o : BitVec 6) (w : BitVec 3)
  | delem (z x : BitVec 5) (b : SSrc) (w : BitVec 3)
  | dset (c : BitVec 5) (a b : SSrc) (w : BitVec 3) | dseti (c : BitVec 5) (lo hi : BitVec 10)
  | dlab (d : SDst) (c : BitVec 5) (w : BitVec 3) | dval (d : SDst) (c : BitVec 5) (w : BitVec 3)
  | dsize (d : SDst) (c : BitVec 5) (w : BitVec 3) | dlo (d : SDst) (c : BitVec 5) (w : BitVec 3)
  | dhi (d : SDst) (c : BitVec 5) (w : BitVec 3)
  | dsettle (w : BitVec 3) | dclr | dopen (ofs : BitVec 26) | dclose
  -- V slots (R141 to R151)
  | vadd (t : ITy) (g : BitVec 4) (k : BitVec 3) (d : VDst) (a b : VSrc) | vsub (t : ITy) (g : BitVec 4) (k : BitVec 3) (d : VDst) (a b : VSrc)
  | vadds (t : ITy) (g : BitVec 4) (k : BitVec 3) (d : VDst) (a b : VSrc) | vaddsu (t : ITy) (g : BitVec 4) (k : BitVec 3) (d : VDst) (a b : VSrc)
  | vsubs (t : ITy) (g : BitVec 4) (k : BitVec 3) (d : VDst) (a b : VSrc) | vsubsu (t : ITy) (g : BitVec 4) (k : BitVec 3) (d : VDst) (a b : VSrc)
  | vmul (t : ITy) (g : BitVec 4) (k : BitVec 3) (d : VDst) (a b : VSrc) | vmin (t : ITy) (g : BitVec 4) (k : BitVec 3) (d : VDst) (a b : VSrc)
  | vmax (t : ITy) (g : BitVec 4) (k : BitVec 3) (d : VDst) (a b : VSrc) | vminu (t : ITy) (g : BitVec 4) (k : BitVec 3) (d : VDst) (a b : VSrc)
  | vmaxu (t : ITy) (g : BitVec 4) (k : BitVec 3) (d : VDst) (a b : VSrc) | vshl (t : ITy) (g : BitVec 4) (k : BitVec 3) (d : VDst) (a b : VSrc)
  | vshr (t : ITy) (g : BitVec 4) (k : BitVec 3) (d : VDst) (a b : VSrc) | vsar (t : ITy) (g : BitVec 4) (k : BitVec 3) (d : VDst) (a b : VSrc)
  | vand (g : BitVec 4) (k : BitVec 3) (d : VDst) (a b : VSrc) | vor (g : BitVec 4) (k : BitVec 3) (d : VDst) (a b : VSrc)
  | vxor (g : BitVec 4) (k : BitVec 3) (d : VDst) (a b : VSrc) | vandn (g : BitVec 4) (k : BitVec 3) (d : VDst) (a b : VSrc)
  | vmov (g : BitVec 4) (k : BitVec 3) (d : VDst) (a : VSrc) | vsel (g : BitVec 4) (k : BitVec 3) (d : VDst) (a b : VSrc)
  | vperm (g : BitVec 4) (k : BitVec 3) (d : VDst) (a b : VSrc) | vbcast (g : BitVec 4) (k : BitVec 3) (d : VDst) (s : BitVec 6)
  | vidx (g : BitVec 4) (k : BitVec 3) (d : VDst)
  | vcmpeq (g : BitVec 4) (k kd : BitVec 3) (a b : VSrc) | vcmplt (g : BitVec 4) (k kd : BitVec 3) (a b : VSrc)
  | vcmple (g : BitVec 4) (k kd : BitVec 3) (a b : VSrc) | vcmpltu (g : BitVec 4) (k kd : BitVec 3) (a b : VSrc)
  | vcmpleu (g : BitVec 4) (k kd : BitVec 3) (a b : VSrc)
  | vfcmpeq (g : BitVec 4) (k kd : BitVec 3) (a b : VSrc) | vfcmplt (g : BitVec 4) (k kd : BitVec 3) (a b : VSrc)
  | vfcmple (g : BitVec 4) (k kd : BitVec 3) (a b : VSrc) | vfcmpun (g : BitVec 4) (k kd : BitVec 3) (a b : VSrc)
  | kand (g : BitVec 4) (k kd ka kb : BitVec 3) | kor (g : BitVec 4) (k kd ka kb : BitVec 3)
  | kxor (g : BitVec 4) (k kd ka kb : BitVec 3) | kandn (g : BitVec 4) (k kd ka kb : BitVec 3)
  | vfadd (m : Rm) (g : BitVec 4) (k : BitVec 3) (d : VDst) (a b : VSrc) | vfsub (m : Rm) (g : BitVec 4) (k : BitVec 3) (d : VDst) (a b : VSrc)
  | vfmul (m : Rm) (g : BitVec 4) (k : BitVec 3) (d : VDst) (a b : VSrc) | vfma (m : Rm) (g : BitVec 4) (k : BitVec 3) (d : VDst) (a b : VSrc)
  | vfmin (g : BitVec 4) (k : BitVec 3) (d : VDst) (a b : VSrc) | vfmax (g : BitVec 4) (k : BitVec 3) (d : VDst) (a b : VSrc)
  | vfabs (g : BitVec 4) (k : BitVec 3) (d : VDst) (a : VSrc) | vfneg (g : BitVec 4) (k : BitVec 3) (d : VDst) (a : VSrc)
  | vrcp (g : BitVec 4) (k : BitVec 3) (d : VDst) (a : VSrc) | vrsqrt (g : BitVec 4) (k : BitVec 3) (d : VDst) (a : VSrc)
  | vexp2 (g : BitVec 4) (k : BitVec 3) (d : VDst) (a : VSrc) | vlog2 (g : BitVec 4) (k : BitVec 3) (d : VDst) (a : VSrc)
  | vradd (t : RedTy) (g : BitVec 4) (k : BitVec 3) (d : VDst) (a : VSrc) | vrmax (t : RedTy) (g : BitVec 4) (k : BitVec 3) (d : VDst) (a : VSrc)
  | vrmin (t : RedTy) (g : BitVec 4) (k : BitVec 3) (d : VDst) (a : VSrc)
  | vxc (g : BitVec 4) (k : BitVec 3) (d : VDst) (a : VSrc) (sc : BitVec 3)
  | vcvt (f : CvtForm) (g : BitVec 4) (k : BitVec 3) (d : VDst) (a b : VSrc)
  -- A slot (R184 to R194)
  | afromv (ad : BitVec 4) (vs : BitVec 5) | atov (vd : BitVec 5) (as : BitVec 4) | adot (d : SDst) (aa ab : BitVec 4)
  | adotm (vd : BitVec 5) (cl : BitVec 3) (aa : BitVec 4) (b : SSrc) | ascl (ad : BitVec 4) (b : SSrc)
  | ascli (ad : BitVec 4) (imm : BitVec 19) | amag (d : SDst) (as : BitVec 4) | aneg (ad as : BitVec 4)
  | aadd (ad aa ab : BitVec 4) | asub (ad aa ab : BitVec 4) | alerp (ad aa ab : BitVec 4) (t : SSrc)
  | azero (ad : BitVec 4) | asetn (ad : BitVec 4) (b : SSrc)
  -- M slot (R165 to R174)
  | mma (f : MmaFmt) (rep : BitVec 8) (acc : BitVec 2) (a b : TOp) (w : BitVec 3)
  | mmaq (rep : BitVec 8) (acc : BitVec 2) (a : TOp) (b : WOp) (w : BitVec 3)
  | msca (rep : BitVec 8) (acc : BitVec 2) (hi : Bool) (v : BitVec 5) (w : BitVec 3)
  | mzero (rep : BitVec 8) (acc : BitVec 2) (w : BitVec 3)
  | mret (rep : BitVec 8) (acc : BitVec 2) (d : TOp) (part : Bool) (w : BitVec 3)
  | mrets (rep : BitVec 8) (acc : BitVec 2) (part : Bool) (b : SSrc) (w : BitVec 3)
  | mcvt (f : McvtFmt) (m : Rm5) (rep : BitVec 8) (acc : BitVec 2) (d : TOp) (half : Bool) (w : BitVec 3)
  | mtr (rep : BitVec 8) (a d : TOp) (w : BitVec 3) | mldl (rep : BitVec 8) (a d : TOp) (w : BitVec 3)
  | mtrs (rep : BitVec 8) (mode : TrsMode) (a b : TOp) (w : BitVec 3)
  | msetma (ma : BitVec 2) (sel : MaSel) (a : SSrc)
  -- L slot (R281, R283, R177, R196)
  | lds (t : LdTy) (d : SDst) (a : SSrc) (ofs : BitVec 12) | ldv (g : BitVec 4) (d : VDst) (a : SSrc) (ofs : BitVec 9)
  | ald (ad : BitVec 4) (a : SSrc) (ofs : BitVec 12) | tld (t : BitVec 4) (a b : SSrc) (w : BitVec 3)
  | tldw (wb : BitVec 7) (a : SSrc) (w : BitVec 3)
  -- W slot (R282 to R287, R197)
  | sts (t : StTy) (a b : SSrc) (ofs : BitVec 12) | stv (g : BitVec 4) (a : VSrc) (b : SSrc) (ofs : BitVec 9)
  | ast (as : BitVec 4) (b : SSrc) (ofs : BitVec 12) | tst (t : BitVec 4) (a b : SSrc) (w : BitVec 3)
  | amoadd (d : SDst) (a b : SSrc) (w : BitVec 3) | amoswp (d : SDst) (a b : SSrc) (w : BitVec 3)
  | amocas (d : SDst) (a b : SSrc) (w : BitVec 3) | amomin (d : SDst) (a b : SSrc) (w : BitVec 3)
  | amomax (d : SDst) (a b : SSrc) (w : BitVec 3) | amoand (d : SDst) (a b : SSrc) (w : BitVec 3)
  | amoor (d : SDst) (a b : SSrc) (w : BitVec 3)
  | binit (d : SDst) (a b : SSrc) (w : BitVec 3) | arrive (d : SDst) (a : SSrc) (n : BitVec 4) (w : BitVec 3)
  -- X slot (R347 to R350)
  | xtld (pair : Bool) (t : BitVec 4) (a b : SSrc) (w : BitVec 3) | xtst (pair : Bool) (t : BitVec 4) (a b : SSrc) (w : BitVec 3)
  | xcpy (a b c : SSrc) (w : BitVec 3) | pput (a b c : SSrc) (w : BitVec 3) | pget (a b c : SSrc) (w : BitVec 3)
  | xset (cr : BitVec 3) (a : SSrc) | xgo (w : BitVec 3)
  -- What the device does of itself; g is a physical core number (R31). Steps of the ordering machine (R293); x = true is the next
  -- line of the core's copy engine (R295)
  | read (g : Nat) (x : Bool) | write (g : Nat) (x : Bool) | send (g : Nat) | arbitrate (i : Nat) | port (g : Nat) (x : Bool)
  | deposit (g : Nat) (x : Bool) | hostop (g : Nat) (x : Bool) | observe (i : Nat) | deliver (i j : Nat) | apply (j k : Nat)
  | drain (g : Nat)
  -- Copy engines (R295, R328) and barriers (R129)
  | copyCommandStart (g : Nat) | copyCommandComplete (g : Nat) | copyNodeRun (p : Nat) | barrierCompletion (g : Nat)
  -- Queues and the scheduler (R319 to R339), the elision engine (R370), repair (R411 to R414)
  | dequeue (q : Nat) | dispatch (p : Nat) (cores : List Nat) | gangReservationExpiry (p : Nat)
  | preemptionRequest (g : Nat) | yield (g : Nat)
  | restore (p : Nat) (slot : Nat) (cores : List Nat) (err : Bool) | sliceEnd (outgoing incoming : Nat)
  | deadlineExpiry (p : Nat) (node : W64) | watchdogExpiry (g : Nat) | hardCoreReset (g : Nat)
  | elisionScrub (p : ScrubTurn) | tokenDelivery (p : Nat) (node : W64)
  | quadRepair (die quad : Nat) | bankRepair (g : Nat) | channelRepair (die unit : Nat)
  -- What a cycle of a core performs (R53, R65, R127, R160, R211, R240, R248, R332, R35, R394)
  | groupFetch (g : Nat) | resultLanding (g : Nat)
  | matrixCommandStart (g : Nat) | matrixCommandComplete (g : Nat)
  | dOperationStart (g : Nat) | dOperationComplete (g : Nat)
  | waitTimeout (g : Nat) | launchAbiLoadEnd (g : Nat) | stepRetirement (g : Nat) | saveAtComma (g : Nat) | trapEntry (g : Nat)
  | breakpoint (g b : Nat) | watchHit (g r : Nat)
  -- What comes from outside. Errors and the debugger (R255, R367, R256 to R258, R394)
  | coreUncorrectableError (g : Nat) (kind : BitVec 4) (unit : Byte) (row col : W16)
  | sharedUncorrectableError (row inst : Nat) (pa : Nat) | correctableError (row inst : Nat)
  | stopreq (g : Nat) | debuggerResume (g : Nat)
  | debugStateWrite (g : Nat) (ofs : Nat) (data : List Byte) | latchPortWrite (g : Nat) (data : W512)
  -- The host and the partition commands (R298, R279, R318, R328, R362 to R364)
  | hostDoorbell (q : Nat) (tail : W32) (entries : List W64) | startVectorWrite (p : Nat) (va : W64)
  | copyNodeResume (p : Nat) (node : W64)
  | hostRead (a : HostPlace) (n : Nat) | hostWrite (p : Nat) (pa : Nat) (h : Bool) (data : List Byte)
  | vfMemoryAccess (fn : Nat) (va : Nat) (wr : Bool) (data : List Byte)
  | reload (p : Nat) | flush (p : Nat) | reset (p : Nat) | scrub (p : Nat)
  | logstart (p : Nat) | loground (p : Nat) | logstop (p : Nat)
  | bankClaim (die bank : Nat) (fn : Option Nat) | bankRelease (die bank : Nat) (fn : Option Nat)
  | counterLoRead (fn die bank c : Nat)
  -- Time, power and the fabric (R383, R384, R406, R408, R416, R417)
  | timestep (n : W64) | powerlimit (w : W64) | registerWrite (fn : Option Nat) (ofs : Nat) (v : W64)
  | clockStepDown (die : Nat) (temp : Nat) | clockStepUp (die : Nat) (temp : Nat)
  | laneFailure (port lane : Nat) | moduleRemoval (m : Removal) | parentClockLoss
  | ptpMessage (port : Nat) (kind : PtpKind) | deviceReset (powerOn : Bool)
  | colmerBind (p : Nat) (img : Image) | counterBankControlRead (fn die bank : Nat)
  | powerStateChange (st : PowerState)
  deriving DecidableEq, Repr

end Sys2Proof
end

