-- ==== Sys2Proof/WellFormed.lean ====
section
/-! DEFINITION. Which operations are well formed: the limits that R58, R60 and the instructions' own entries put on
operand fields beyond what the field types of Syntax.lean already say. An ill-formed operation has no legal word. -/

namespace Sys2Proof

/-- The control-register numbers of the map under R108 (R105). -/
def crLegal (n : BitVec 12) : Bool :=
  let k := n.toNat
  decide (k ≤ 0x008) || (decide (0x010 ≤ k) && decide (k ≤ 0x013)) || (decide (0x020 ≤ k) && decide (k ≤ 0x027)) ||
    (decide (0x030 ≤ k) && decide (k ≤ 0x03B))

/-- A predicate pair field: P = 0 is illegal (R60). -/
def pairLegal (p : BitVec 3) : Bool := p != 0

/-- A scope field outside FENCE: codes 5, 6 and 7 are illegal (R28). -/
def scopeLegal (sc : BitVec 3) : Bool := decide (sc.toNat < 5)

/-- A scope field of FENCE: codes 6 and 7 are illegal (R28). -/
def fenceScopeLegal (sc : BitVec 3) : Bool := decide (sc.toNat < 6)

/-- A direct destination pair of MRET is even (R165). -/
def evenTile : TOp → Bool
  | .tile n => decide (n.toNat % 2 = 0)
  | .ma _ => true

/-- A direct block tile is 0 to 123 (R60, R165). -/
def blockLegal : WOp → Bool
  | .blk n => decide (n.toNat ≤ 123)
  | .ma _ => true

/-- The scale operand B of VCVT is written only by pairs 2, 4, 5 and 8; elsewhere the field is zero (R150, R151). -/
def CvtForm.scaled : CvtForm → Bool
  | .bf16f32 _ | .e4m3f32 _ | .e5m2f32 _ | .f32q4 _ => true
  | .f32i32 _ | .i32f32 _ | .f32bf16 | .f32e4m3 | .f32e5m2 => false

/-- The operand limits of each operation (R28, R58, R60, R105, R143, R151, R165, R213, R349). -/
def Instr.wf : Instr → Bool
  | .cmpeq p _ _ | .cmpne p _ _ | .cmplt p _ _ | .cmple p _ _ | .cmpltu p _ _ | .cmpleu p _ _ => pairLegal p
  | .cmpeqi p _ _ | .cmpnei p _ _ | .cmplti p _ _ | .cmplei p _ _ | .cmpltui p _ _ | .cmpleui p _ _ => pairLegal p
  | .pand p _ _ | .por p _ _ | .pxor p _ _ | .pandn p _ _ => pairLegal p
  | .fcmpeq _ p _ _ | .fcmplt _ p _ _ | .fcmple _ p _ _ | .fcmpun _ p _ _ => pairLegal p
  | .waitph p _ _ _ | .waitbit p _ _ _ => pairLegal p
  | .bar sc => scopeLegal sc
  | .fence sc => fenceScopeLegal sc
  | .crrd _ cr => crLegal cr
  | .crwr cr _ => crLegal cr
  | .dseti _ lo hi => decide (lo.toInt ≤ hi.toInt)
  | .vcmpeq _ _ kd _ _ | .vcmplt _ _ kd _ _ | .vcmple _ _ kd _ _ | .vcmpltu _ _ kd _ _ | .vcmpleu _ _ kd _ _ => kd != 0
  | .vfcmpeq _ _ kd _ _ | .vfcmplt _ _ kd _ _ | .vfcmple _ _ kd _ _ | .vfcmpun _ _ kd _ _ => kd != 0
  | .kand _ _ kd _ _ | .kor _ _ kd _ _ | .kxor _ _ kd _ _ | .kandn _ _ kd _ _ => kd != 0
  | .vcvt f _ _ _ _ b => f.scaled || decide (b = .reg 0)
  | .mmaq _ _ _ b _ => blockLegal b
  | .mret _ _ d _ _ => evenTile d
  | .mcvt f _ _ _ _ half _ => decide (f ≠ .bf16) || !half
  | .tldw wb _ _ => decide (wb.toNat ≤ 123)
  | .arrive _ _ n _ => n != 0
  | .xtld pair t _ _ _ | .xtst pair t _ _ _ => !pair || decide (t.toNat % 2 = 0)
  | _ => true

end Sys2Proof
end

