-- ==== Sys2Proof/Decode.lean ====
section
/-! DEFINITION. Bundles and their slots as bits (R50 to R78): a decoder that is total on any bytes and refuses by the
offending field's index of R63, and after it the encoder written from the same formats. -/

namespace Sys2Proof

/-- Bits `lo + w - 1 … lo` of a field. -/
abbrev fld {n : Nat} (lo w : Nat) (x : BitVec n) : BitVec w := x.extractLsb' lo w

/-- A slot: its guard and its operation (R57). -/
structure Slot where
  gp : BitVec 4
  gs : Bool
  op : Instr
  deriving DecidableEq, Repr

/-- Why a slot is refused (R62, R63): the lowest offending field index, and, for an assigned opcode, the operation that the bits give with
the indices of all its offending fields: its other fields still name destinations and clusters. -/
structure SlotBad where
  index  : Nat
  op     : Option Instr
  fields : List Nat
  deriving DecidableEq, Repr

/-- The outcome of decoding one slot: the operation, or why it is refused. -/
abbrev DecodeRes (α : Type) := Except SlotBad α

/-- The lowest index among failed checks (R63: a slot with several offences records the lowest index). -/
def firstBad : List (Nat × Bool) → Option Nat
  | [] => none
  | (_, true) :: cs => firstBad cs
  | (i, false) :: cs => match firstBad cs with
    | none => some i
    | some j => some (Nat.min i j)

/-- An operation, if every check of its fields holds. -/
def checked (i : Instr) (cs : List (Nat × Bool)) : DecodeRes Instr :=
  match firstBad cs with
  | none => .ok i
  | some j => .error { index := j, op := some i, fields := (cs.filter fun c => !c.2).map fun c => c.1 }

/-- A scalar field with its X bit as a source (R58). -/
def srcOf (f : BitVec 6) (x : BitVec 1) : SSrc :=
  if f.getLsbD 5 then .latch (fld 0 3 f) else .reg (x ++ fld 0 5 f)
/-- A scalar field with its X bit as a destination (R58). -/
def dstOf (f : BitVec 6) (x : BitVec 1) : SDst :=
  if f.getLsbD 5 then .latch (fld 0 3 f) else .reg (x ++ fld 0 5 f)
/-- A scalar field is legal: a latch has bits [4:3] and its X bit zero (R58). -/
def sOk (f : BitVec 6) (x : BitVec 1) : Bool := !f.getLsbD 5 || (fld 3 2 f == 0 && x == 0)
/-- A vector field as a source (R58). -/
def vsrcOf (f : BitVec 6) : VSrc := if f.getLsbD 5 then .latch (fld 0 3 f) else .reg (fld 0 5 f)
/-- A vector field as a destination (R58). -/
def vdstOf (f : BitVec 6) : VDst := if f.getLsbD 5 then .latch (fld 0 3 f) else .reg (fld 0 5 f)
/-- A vector field is legal (R58). -/
def vOk (f : BitVec 6) : Bool := !f.getLsbD 5 || fld 3 2 f == 0
/-- A c field: bit 5 must be 0 (R58). -/
def cOk (f : BitVec 6) : Bool := !f.getLsbD 5
/-- An a field: bits 5 and 4 must be 0 (R58, R184). -/
def aOk (f : BitVec 6) : Bool := fld 4 2 f == 0
/-- A tile operand field A of format MF (R165). -/
def tA (f : BitVec 4) (i : BitVec 1) : TOp := if i == 1 then .ma (fld 0 2 f) else .tile f
/-- A tile operand field B of format MF (R165). -/
def tB (f : BitVec 7) (i : BitVec 1) : TOp := if i == 1 then .ma (fld 0 2 f) else .tile (fld 0 4 f)
/-- Legality of a tile operand field A (R60). -/
def tAOk (f : BitVec 4) (i : BitVec 1) : Bool := i == 0 || fld 2 2 f == 0
/-- Legality of a tile operand field B (R60, R165). -/
def tBOk (f : BitVec 7) (i : BitVec 1) : Bool := if i == 1 then fld 2 5 f == 0 else fld 4 3 f == 0

/-! ## The formats of R60 on bits [25:0] -/

/-- SR with three scalar operands. -/
def fSR (c : SDst → SSrc → SSrc → Instr) (x : BitVec 26) : DecodeRes Instr :=
  checked (c (dstOf (fld 20 6 x) (fld 19 1 x)) (srcOf (fld 13 6 x) (fld 12 1 x)) (srcOf (fld 6 6 x) (fld 5 1 x)))
    [(3, sOk (fld 20 6 x) (fld 19 1 x)), (4, sOk (fld 13 6 x) (fld 12 1 x)), (5, sOk (fld 6 6 x) (fld 5 1 x)), (9, fld 0 5 x == 0)]
/-- SR whose B field is unused and zero. -/
def fSR2 (c : SDst → SSrc → Instr) (x : BitVec 26) : DecodeRes Instr :=
  checked (c (dstOf (fld 20 6 x) (fld 19 1 x)) (srcOf (fld 13 6 x) (fld 12 1 x)))
    [(3, sOk (fld 20 6 x) (fld 19 1 x)), (4, sOk (fld 13 6 x) (fld 12 1 x)), (5, fld 5 7 x == 0), (9, fld 0 5 x == 0)]
/-- SR whose A and B fields are unused and zero. -/
def fSR1 (c : SDst → Instr) (x : BitVec 26) : DecodeRes Instr :=
  checked (c (dstOf (fld 20 6 x) (fld 19 1 x)))
    [(3, sOk (fld 20 6 x) (fld 19 1 x)), (4, fld 12 7 x == 0), (5, fld 5 7 x == 0), (9, fld 0 5 x == 0)]
/-- SR of MOVSP: only A is used (R115). -/
def fSRA (c : SSrc → Instr) (x : BitVec 26) : DecodeRes Instr :=
  checked (c (srcOf (fld 13 6 x) (fld 12 1 x)))
    [(3, fld 19 7 x == 0), (4, sOk (fld 13 6 x) (fld 12 1 x)), (5, fld 5 7 x == 0), (9, fld 0 5 x == 0)]
/-- SI with a 12-bit immediate. -/
def fSI (c : SDst → SSrc → BitVec 12 → Instr) (x : BitVec 26) : DecodeRes Instr :=
  checked (c (dstOf (fld 20 6 x) (fld 19 1 x)) (srcOf (fld 13 6 x) (fld 12 1 x)) (fld 0 12 x))
    [(3, sOk (fld 20 6 x) (fld 19 1 x)), (4, sOk (fld 13 6 x) (fld 12 1 x))]
/-- SI of a shift: IMM12[11:6] is reserved within the field (R111). -/
def fSIS (c : SDst → SSrc → BitVec 6 → Instr) (x : BitVec 26) : DecodeRes Instr :=
  checked (c (dstOf (fld 20 6 x) (fld 19 1 x)) (srcOf (fld 13 6 x) (fld 12 1 x)) (fld 0 6 x))
    [(3, sOk (fld 20 6 x) (fld 19 1 x)), (4, sOk (fld 13 6 x) (fld 12 1 x)), (5, fld 6 6 x == 0)]
/-- SK (MOVQ). -/
def fSK (x : BitVec 26) : DecodeRes Instr :=
  checked (.movq (dstOf (fld 20 6 x) (fld 19 1 x)) (fld 17 2 x) (x.getLsbD 16) (fld 0 16 x))
    [(3, sOk (fld 20 6 x) (fld 19 1 x))]
/-- SP. -/
def fSP (c : BitVec 3 → SSrc → SSrc → Instr) (x : BitVec 26) : DecodeRes Instr :=
  checked (c (fld 23 3 x) (srcOf (fld 13 6 x) (fld 12 1 x)) (srcOf (fld 6 6 x) (fld 5 1 x)))
    [(3, pairLegal (fld 23 3 x)), (4, sOk (fld 13 6 x) (fld 12 1 x)), (5, sOk (fld 6 6 x) (fld 5 1 x)), (9, fld 19 4 x == 0 && fld 0 5 x == 0)]
/-- SPI. -/
def fSPI (c : BitVec 3 → SSrc → BitVec 12 → Instr) (x : BitVec 26) : DecodeRes Instr :=
  checked (c (fld 23 3 x) (srcOf (fld 13 6 x) (fld 12 1 x)) (fld 0 12 x))
    [(3, pairLegal (fld 23 3 x)), (4, sOk (fld 13 6 x) (fld 12 1 x)), (9, fld 19 4 x == 0)]
/-- SQ. -/
def fSQ (c : BitVec 3 → BitVec 4 → BitVec 4 → Instr) (x : BitVec 26) : DecodeRes Instr :=
  checked (c (fld 23 3 x) (fld 15 4 x) (fld 11 4 x))
    [(3, pairLegal (fld 23 3 x)), (9, fld 19 4 x == 0 && fld 0 11 x == 0)]
/-- DT naming three c registers, X3 = 0 (R213). -/
def fDT (c : BitVec 5 → BitVec 5 → BitVec 5 → BitVec 3 → Instr) (x : BitVec 26) : DecodeRes Instr :=
  checked (c (fld 20 5 x) (fld 14 5 x) (fld 8 5 x) (fld 0 3 x))
    [(3, cOk (fld 20 6 x)), (4, cOk (fld 14 6 x)), (5, cOk (fld 8 6 x) && fld 7 1 x == 0), (9, fld 3 4 x == 0)]
/-- DT naming two c registers; F3 and X3 zero. -/
def fDT2 (c : BitVec 5 → BitVec 5 → BitVec 3 → Instr) (x : BitVec 26) : DecodeRes Instr :=
  checked (c (fld 20 5 x) (fld 14 5 x) (fld 0 3 x))
    [(3, cOk (fld 20 6 x)), (4, cOk (fld 14 6 x)), (5, fld 7 7 x == 0), (9, fld 3 4 x == 0)]
/-- DT of DELEM: F3 with X3 is a scalar source. -/
def fDTE (x : BitVec 26) : DecodeRes Instr :=
  checked (.delem (fld 20 5 x) (fld 14 5 x) (srcOf (fld 8 6 x) (fld 7 1 x)) (fld 0 3 x))
    [(3, cOk (fld 20 6 x)), (4, cOk (fld 14 6 x)), (5, sOk (fld 8 6 x) (fld 7 1 x)), (9, fld 3 4 x == 0)]
/-- DI. -/
def fDI (c : BitVec 5 → BitVec 16 → BitVec 3 → Instr) (x : BitVec 26) : DecodeRes Instr :=
  checked (c (fld 20 5 x) (fld 3 16 x) (fld 0 3 x)) [(3, cOk (fld 20 6 x)), (9, fld 19 1 x == 0)]
/-- DR. -/
def fDR (c : SDst → BitVec 5 → BitVec 3 → Instr) (x : BitVec 26) : DecodeRes Instr :=
  checked (c (dstOf (fld 20 6 x) (fld 19 1 x)) (fld 13 5 x) (fld 0 3 x))
    [(3, sOk (fld 20 6 x) (fld 19 1 x)), (4, cOk (fld 13 6 x)), (9, fld 3 10 x == 0)]
/-- DS. -/
def fDS (x : BitVec 26) : DecodeRes Instr :=
  checked (.dset (fld 20 5 x) (srcOf (fld 14 6 x) (fld 13 1 x)) (srcOf (fld 7 6 x) (fld 6 1 x)) (fld 0 3 x))
    [(3, cOk (fld 20 6 x)), (4, sOk (fld 14 6 x) (fld 13 1 x)), (5, sOk (fld 7 6 x) (fld 6 1 x)), (9, fld 3 3 x == 0)]
/-- DJ. -/
def fDJ (x : BitVec 26) : DecodeRes Instr :=
  checked (.dseti (fld 20 5 x) (fld 10 10 x) (fld 0 10 x))
    [(3, cOk (fld 20 6 x)), (5, decide ((fld 10 10 x).toInt ≤ (fld 0 10 x).toInt))]
/-- DW and the layout of YW: a token alone. -/
def fW (c : BitVec 3 → Instr) (x : BitVec 26) : DecodeRes Instr := checked (c (fld 0 3 x)) [(9, fld 3 23 x == 0)]
/-- DZ and YZ: no field. -/
def fZ (i : Instr) (x : BitVec 26) : DecodeRes Instr := checked i [(9, x == 0)]
/-- VR with D, A and B. -/
def fVR (c : BitVec 4 → BitVec 3 → VDst → VSrc → VSrc → Instr) (x : BitVec 26) : DecodeRes Instr :=
  checked (c (fld 22 4 x) (fld 19 3 x) (vdstOf (fld 13 6 x)) (vsrcOf (fld 7 6 x)) (vsrcOf (fld 1 6 x)))
    [(5, vOk (fld 13 6 x)), (6, vOk (fld 7 6 x)), (7, vOk (fld 1 6 x)), (9, fld 0 1 x == 0)]
/-- VR whose B field is zero. -/
def fVR2 (c : BitVec 4 → BitVec 3 → VDst → VSrc → Instr) (x : BitVec 26) : DecodeRes Instr :=
  checked (c (fld 22 4 x) (fld 19 3 x) (vdstOf (fld 13 6 x)) (vsrcOf (fld 7 6 x)))
    [(5, vOk (fld 13 6 x)), (6, vOk (fld 7 6 x)), (7, fld 1 6 x == 0), (9, fld 0 1 x == 0)]
/-- VR of VIDX: A and B zero. -/
def fVR1 (c : BitVec 4 → BitVec 3 → VDst → Instr) (x : BitVec 26) : DecodeRes Instr :=
  checked (c (fld 22 4 x) (fld 19 3 x) (vdstOf (fld 13 6 x)))
    [(5, vOk (fld 13 6 x)), (6, fld 7 6 x == 0), (7, fld 1 6 x == 0), (9, fld 0 1 x == 0)]
/-- VS (VBCAST): S bit 5 must be 0 (R142). -/
def fVS (x : BitVec 26) : DecodeRes Instr :=
  checked (.vbcast (fld 22 4 x) (fld 19 3 x) (vdstOf (fld 13 6 x)) (fld 6 1 x ++ fld 7 5 x))
    [(5, vOk (fld 13 6 x)), (6, cOk (fld 7 6 x)), (9, fld 0 6 x == 0)]
/-- VC of the compares. -/
def fVC (c : BitVec 4 → BitVec 3 → BitVec 3 → VSrc → VSrc → Instr) (x : BitVec 26) : DecodeRes Instr :=
  checked (c (fld 22 4 x) (fld 19 3 x) (fld 16 3 x) (vsrcOf (fld 7 6 x)) (vsrcOf (fld 1 6 x)))
    [(5, fld 16 3 x != 0), (6, vOk (fld 7 6 x)), (7, vOk (fld 1 6 x)), (9, fld 13 3 x == 0 && fld 0 1 x == 0)]
/-- VC of the mask logic: A and B name k registers (R144). -/
def fVCK (c : BitVec 4 → BitVec 3 → BitVec 3 → BitVec 3 → BitVec 3 → Instr) (x : BitVec 26) : DecodeRes Instr :=
  checked (c (fld 22 4 x) (fld 19 3 x) (fld 16 3 x) (fld 7 3 x) (fld 1 3 x))
    [(5, fld 16 3 x != 0), (6, fld 10 3 x == 0), (7, fld 4 3 x == 0), (9, fld 13 3 x == 0 && fld 0 1 x == 0)]
/-- VX. -/
def fVX (x : BitVec 26) : DecodeRes Instr :=
  checked (.vxc (fld 22 4 x) (fld 19 3 x) (vdstOf (fld 13 6 x)) (vsrcOf (fld 7 6 x)) (fld 4 3 x))
    [(5, vOk (fld 13 6 x)), (6, vOk (fld 7 6 x)), (9, fld 0 4 x == 0)]
/-- VCVT: B is the scale of pairs 2, 4, 5 and 8, and zero elsewhere (R150, R151). -/
def fVCvt (f : CvtForm) (x : BitVec 26) : DecodeRes Instr :=
  if f.scaled then fVR (.vcvt f) x else fVR2 (fun g k d a => .vcvt f g k d a (.reg 0)) x
/-- AF with a scalar third operand or none; the uses are those of R184. -/
def fAF (i : Instr) (cs : List (Nat × Bool)) : DecodeRes Instr := checked i cs
/-- MF checks on ACC and REP hold for every value; these are the fields A, IA, B, IB of R165. -/
def fMF (i : Instr) (a b : Bool) : DecodeRes Instr := checked i [(5, a), (6, b)]
/-- LS, WS and the scalar sources with a 12-bit byte offset. -/
def fLS (c : SDst → SSrc → BitVec 12 → Instr) (x : BitVec 26) : DecodeRes Instr := fSI c x
/-- WS: A and B scalar sources. -/
def fWS (c : SSrc → SSrc → BitVec 12 → Instr) (x : BitVec 26) : DecodeRes Instr :=
  checked (c (srcOf (fld 20 6 x) (fld 19 1 x)) (srcOf (fld 13 6 x) (fld 12 1 x)) (fld 0 12 x))
    [(3, sOk (fld 20 6 x) (fld 19 1 x)), (4, sOk (fld 13 6 x) (fld 12 1 x))]
/-- LT. -/
def fLT (c : BitVec 4 → SSrc → SSrc → BitVec 3 → Instr) (x : BitVec 26) : DecodeRes Instr :=
  checked (c (fld 22 4 x) (srcOf (fld 16 6 x) (fld 15 1 x)) (srcOf (fld 9 6 x) (fld 8 1 x)) (fld 0 3 x))
    [(4, sOk (fld 16 6 x) (fld 15 1 x)), (5, sOk (fld 9 6 x) (fld 8 1 x)), (9, fld 3 5 x == 0)]
/-- WM. -/
def fWM (c : SDst → SSrc → SSrc → BitVec 3 → Instr) (x : BitVec 26) : DecodeRes Instr :=
  checked (c (dstOf (fld 20 6 x) (fld 19 1 x)) (srcOf (fld 13 6 x) (fld 12 1 x)) (srcOf (fld 6 6 x) (fld 5 1 x)) (fld 0 3 x))
    [(3, sOk (fld 20 6 x) (fld 19 1 x)), (4, sOk (fld 13 6 x) (fld 12 1 x)), (5, sOk (fld 6 6 x) (fld 5 1 x)), (9, fld 3 2 x == 0)]
/-- WB (ARRIVE): N must be 1 to 15. -/
def fWB (x : BitVec 26) : DecodeRes Instr :=
  checked (.arrive (dstOf (fld 20 6 x) (fld 19 1 x)) (srcOf (fld 13 6 x) (fld 12 1 x)) (fld 8 4 x) (fld 0 3 x))
    [(3, sOk (fld 20 6 x) (fld 19 1 x)), (4, sOk (fld 13 6 x) (fld 12 1 x)), (5, fld 8 4 x != 0), (9, fld 3 5 x == 0)]
/-- XF with three scalar sources. -/
def fXF (c : SSrc → SSrc → SSrc → BitVec 3 → Instr) (x : BitVec 26) : DecodeRes Instr :=
  checked (c (srcOf (fld 20 6 x) (fld 19 1 x)) (srcOf (fld 13 6 x) (fld 12 1 x)) (srcOf (fld 6 6 x) (fld 5 1 x)) (fld 0 3 x))
    [(3, sOk (fld 20 6 x) (fld 19 1 x)), (4, sOk (fld 13 6 x) (fld 12 1 x)), (5, sOk (fld 6 6 x) (fld 5 1 x)), (9, fld 3 2 x == 0)]
/-- XF of XTLD and XTST: C[3:0] names the tile, XC the pair form (R349). -/
def fXT (c : Bool → BitVec 4 → SSrc → SSrc → BitVec 3 → Instr) (x : BitVec 26) : DecodeRes Instr :=
  checked (c (fld 5 1 x == 1) (fld 6 4 x) (srcOf (fld 20 6 x) (fld 19 1 x)) (srcOf (fld 13 6 x) (fld 12 1 x)) (fld 0 3 x))
    [(3, sOk (fld 20 6 x) (fld 19 1 x)), (4, sOk (fld 13 6 x) (fld 12 1 x)),
     (5, fld 10 2 x == 0 && (fld 5 1 x == 0 || fld 6 1 x == 0)), (9, fld 3 2 x == 0)]
/-- YR. -/
def fYR (c : SSrc → Instr) (x : BitVec 26) : DecodeRes Instr :=
  checked (c (srcOf (fld 13 6 x) (fld 12 1 x))) [(3, sOk (fld 13 6 x) (fld 12 1 x)), (9, fld 19 7 x == 0 && fld 0 12 x == 0)]
/-- YP: F must be zero (R127). -/
def fYP (c : BitVec 3 → SSrc → SSrc → BitVec 5 → Instr) (x : BitVec 26) : DecodeRes Instr :=
  checked (c (fld 23 3 x) (srcOf (fld 13 6 x) (fld 12 1 x)) (srcOf (fld 6 6 x) (fld 5 1 x)) (fld 0 5 x))
    [(3, pairLegal (fld 23 3 x)), (4, fld 19 4 x == 0), (5, sOk (fld 13 6 x) (fld 12 1 x)), (6, sOk (fld 6 6 x) (fld 5 1 x))]

/-- An unassigned opcode: the opcode field offends (R62, R63). -/
def unassigned : DecodeRes Instr := .error { index := 2, op := none, fields := [2] }

/-- The rounding code m of 0 to 3. -/
def rmOf (m : BitVec 2) : Rm :=
  if m == 0 then .rne else if m == 1 then .rz else if m == 2 then .ru else .rd
/-- The code of a rounding mode. -/
def rmCode : Rm → BitVec 2
  | .rne => 0 | .rz => 1 | .ru => 2 | .rd => 3
/-- The rounding code m of 0 to 4. -/
def rm5Of (m : Nat) : Option Rm5 :=
  match m with
  | 0 => some .rne | 1 => some .rz | 2 => some .ru | 3 => some .rd | 4 => some .rs | _ => none
/-- The code of a rounding mode of 0 to 4. -/
def rm5Code : Rm5 → Nat
  | .rne => 0 | .rz => 1 | .ru => 2 | .rd => 3 | .rs => 4

/-! ## The opcode maps -/

/-- The S slot (R72). -/
def decodeS (o : BitVec 9) (x : BitVec 26) : DecodeRes Instr :=
  let m := rmOf (fld 0 2 o)
  let t : FTy := if fld 2 1 o == 1 then .f32 else .f64
  match o.toNat with
  | 0x001 => fSR .add x | 0x002 => fSR .sub x | 0x003 => fSR .and x | 0x004 => fSR .or x | 0x005 => fSR .xor x
  | 0x006 => fSR .andn x | 0x007 => fSR .shl x | 0x008 => fSR .shr x | 0x009 => fSR .sar x | 0x00A => fSR .min x
  | 0x00B => fSR .max x | 0x00C => fSR .minu x | 0x00D => fSR .maxu x | 0x00E => fSR .adds x | 0x00F => fSR .subs x
  | 0x010 => fSR .mul x | 0x011 => fSR .mulh x | 0x012 => fSR .mulhu x | 0x013 => fSR .div x | 0x014 => fSR .divu x
  | 0x015 => fSR .rem x | 0x016 => fSR .remu x
  | 0x020 => fSI .addi x | 0x021 => fSI .andi x | 0x022 => fSI .ori x | 0x023 => fSI .xori x
  | 0x024 => fSIS .shli x | 0x025 => fSIS .shri x | 0x026 => fSIS .sari x
  | 0x030 => fSK x
  | 0x040 => fSP .cmpeq x | 0x041 => fSP .cmpne x | 0x042 => fSP .cmplt x | 0x043 => fSP .cmple x
  | 0x044 => fSP .cmpltu x | 0x045 => fSP .cmpleu x
  | 0x048 => fSPI .cmpeqi x | 0x049 => fSPI .cmpnei x | 0x04A => fSPI .cmplti x | 0x04B => fSPI .cmplei x
  | 0x04C => fSPI .cmpltui x | 0x04D => fSPI .cmpleui x
  | 0x050 => fSQ .pand x | 0x051 => fSQ .por x | 0x052 => fSQ .pxor x | 0x053 => fSQ .pandn x
  | 0x058 => fSR1 .movps x | 0x059 => fSRA .movsp x
  | 0x060 => fSR2 .rdcnt x | 0x061 => fSR1 .rdtime x | 0x062 => fSR2 .rddesc x
  | 0x080 | 0x081 | 0x082 | 0x083 | 0x084 | 0x085 | 0x086 | 0x087 => fSR (.fadd t m) x
  | 0x088 | 0x089 | 0x08A | 0x08B | 0x08C | 0x08D | 0x08E | 0x08F => fSR (.fsub t m) x
  | 0x090 | 0x091 | 0x092 | 0x093 | 0x094 | 0x095 | 0x096 | 0x097 => fSR (.fmul t m) x
  | 0x098 | 0x099 | 0x09A | 0x09B | 0x09C | 0x09D | 0x09E | 0x09F => fSR (.fma t m) x
  | 0x0A0 => fSP (.fcmpeq .f64) x | 0x0A1 => fSP (.fcmplt .f64) x | 0x0A2 => fSP (.fcmple .f64) x | 0x0A3 => fSP (.fcmpun .f64) x
  | 0x0A4 => fSP (.fcmpeq .f32) x | 0x0A5 => fSP (.fcmplt .f32) x | 0x0A6 => fSP (.fcmple .f32) x | 0x0A7 => fSP (.fcmpun .f32) x
  | 0x0C0 | 0x0C1 | 0x0C2 | 0x0C3 => fSR2 (.cvtF64I64 m) x
  | 0x0C4 | 0x0C5 | 0x0C6 | 0x0C7 => fSR2 (.cvtI64F64 m) x
  | 0x0C8 | 0x0C9 | 0x0CA | 0x0CB => fSR2 (.cvtF32I64 m) x
  | 0x0CC | 0x0CD | 0x0CE | 0x0CF => fSR2 (.cvtI64F32 m) x
  | 0x0D0 | 0x0D1 | 0x0D2 | 0x0D3 => fSR2 (.cvtF32F64 m) x
  | 0x0D4 => fSR2 .cvtF64F32 x
  | _ => unassigned

/-- The D slot (R73). -/
def decodeD (o : BitVec 9) (x : BitVec 26) : DecodeRes Instr :=
  if fld 6 3 o == 2 then fDI (fun c k w => .din c k (fld 0 6 o) w) x
  else if fld 6 3 o == 3 then fDI (fun c k w => .dnotin c k (fld 0 6 o) w) x
  else match o.toNat with
  | 0x001 => fDT .dadd x | 0x002 => fDT .dsub x | 0x003 => fDT .dmul x | 0x004 => fDT .dmin x | 0x005 => fDT .dmax x
  | 0x008 => fDT2 .deq x | 0x009 => fDT2 .dne x | 0x00A => fDT2 .dlt x | 0x00B => fDT2 .dle x
  | 0x010 => fDI .deqi x | 0x011 => fDI .dnei x | 0x012 => fDI .dlti x | 0x013 => fDI .dlei x
  | 0x014 => fDI .dgti x | 0x015 => fDI .dgei x
  | 0x018 => fDTE x | 0x020 => fDS x | 0x021 => fDJ x
  | 0x028 => fDR .dlab x | 0x029 => fDR .dval x | 0x02A => fDR .dsize x | 0x02B => fDR .dlo x | 0x02C => fDR .dhi x
  | 0x030 => fW .dsettle x | 0x031 => fZ .dclr x | 0x032 => fZ .dclose x
  | 0x033 => checked (.dopen x) []
  | _ => unassigned

/-- The type e of an integer family's opcode; e = 3 is unassigned (R74). -/
def ityOf (e : BitVec 2) : Option ITy :=
  if e == 0 then some .i32 else if e == 1 then some .i16 else if e == 2 then some .i8 else none
/-- The code of an integer type. -/
def ityCode : ITy → BitVec 2
  | .i32 => 0 | .i16 => 1 | .i8 => 2

/-- The integer families of the V map, by bits [8:2] of the opcode (R74, R141). -/
def vIntFamily (b : Nat) : Option (ITy → BitVec 4 → BitVec 3 → VDst → VSrc → VSrc → Instr) :=
  match b with
  | 1 => some .vadd | 2 => some .vsub | 3 => some .vadds | 4 => some .vaddsu | 5 => some .vsubs | 6 => some .vsubsu
  | 7 => some .vmul | 8 => some .vmin | 9 => some .vmax | 10 => some .vminu | 11 => some .vmaxu
  | 12 => some .vshl | 13 => some .vshr | 14 => some .vsar | _ => none

/-- The conversion pairs q with rounding code m (R74, R150). -/
def cvtOf (q : Nat) (m : BitVec 3) : Option CvtForm :=
  let r := rmOf (fld 0 2 m)
  let small := m.toNat < 4
  match q with
  | 0 => if small then some (.f32i32 r) else none
  | 1 => if small then some (.i32f32 r) else none
  | 2 => (rm5Of m.toNat).map .bf16f32
  | 3 => if m == 0 then some .f32bf16 else none
  | 4 => (rm5Of m.toNat).map .e4m3f32
  | 5 => (rm5Of m.toNat).map .e5m2f32
  | 6 => if m == 0 then some .f32e4m3 else none
  | 7 => if m == 0 then some .f32e5m2 else none
  | 8 => if small then some (.f32q4 r) else none
  | _ => none

/-- The V slots (R74). -/
def decodeV (o : BitVec 9) (x : BitVec 26) : DecodeRes Instr :=
  let m := rmOf (fld 0 2 o)
  if fld 8 1 o == 1 then
    match cvtOf (fld 3 5 o).toNat (fld 0 3 o) with
    | some f => fVCvt f x
    | none => unassigned
  else match vIntFamily (fld 2 7 o).toNat with
  | some c => match ityOf (fld 0 2 o) with
    | some t => fVR (c t) x
    | none => unassigned
  | none => match o.toNat with
  | 0x040 => fVR .vand x | 0x041 => fVR .vor x | 0x042 => fVR .vxor x | 0x043 => fVR .vandn x
  | 0x044 => fVR2 .vmov x | 0x045 => fVR .vsel x | 0x046 => fVR .vperm x | 0x047 => fVS x | 0x048 => fVR1 .vidx x
  | 0x050 => fVC .vcmpeq x | 0x051 => fVC .vcmplt x | 0x052 => fVC .vcmple x | 0x053 => fVC .vcmpltu x | 0x054 => fVC .vcmpleu x
  | 0x058 => fVC .vfcmpeq x | 0x059 => fVC .vfcmplt x | 0x05A => fVC .vfcmple x | 0x05B => fVC .vfcmpun x
  | 0x060 => fVCK .kand x | 0x061 => fVCK .kor x | 0x062 => fVCK .kxor x | 0x063 => fVCK .kandn x
  | 0x080 | 0x081 | 0x082 | 0x083 => fVR (.vfadd m) x | 0x084 | 0x085 | 0x086 | 0x087 => fVR (.vfsub m) x
  | 0x088 | 0x089 | 0x08A | 0x08B => fVR (.vfmul m) x | 0x08C | 0x08D | 0x08E | 0x08F => fVR (.vfma m) x
  | 0x090 => fVR .vfmin x | 0x091 => fVR .vfmax x | 0x092 => fVR2 .vfabs x | 0x093 => fVR2 .vfneg x
  | 0x0A0 => fVR2 .vrcp x | 0x0A1 => fVR2 .vrsqrt x | 0x0A2 => fVR2 .vexp2 x | 0x0A3 => fVR2 .vlog2 x
  | 0x0B0 => fVR2 (.vradd .f32) x | 0x0B1 => fVR2 (.vrmax .f32) x | 0x0B2 => fVR2 (.vrmin .f32) x
  | 0x0B4 => fVR2 (.vradd .i32) x | 0x0B5 => fVR2 (.vrmax .i32) x | 0x0B6 => fVR2 (.vrmin .i32) x
  | 0x0C0 => fVX x
  | _ => unassigned

/-- The A slot (R75) with the field use of R184. -/
def decodeA (o : BitVec 9) (x : BitVec 26) : DecodeRes Instr :=
  let f1 := fld 20 6 x
  let x1 := fld 19 1 x
  let f2 := fld 13 6 x
  let f3 : BitVec 6 := fld 7 6 x
  let x3 := fld 6 1 x
  let f4 := fld 0 6 x
  let n1 := fld 20 4 x
  let n2 := fld 13 4 x
  let n4 := fld 0 4 x
  let aD := (3, aOk f1 && x1 == 0)
  let z3 := (5, f3 == 0 && x3 == 0)
  let z4 := (6, f4 == 0)
  let s3 := (5, sOk f3 x3)
  match o.toNat with
  | 0x001 => fAF (.afromv n1 (fld 13 5 x)) [aD, (4, cOk f2), z3, z4]
  | 0x002 => fAF (.atov (fld 13 5 x) n1) [aD, (4, cOk f2), z3, z4]
  | 0x003 => fAF (.adot (dstOf f1 x1) n2 n4) [(3, sOk f1 x1), (4, aOk f2), z3, (6, aOk f4)]
  | 0x004 => fAF (.adotm (fld 20 5 x) (fld 0 3 x) n2 (srcOf f3 x3)) [(3, cOk f1 && x1 == 0), (4, aOk f2), s3, (6, fld 3 3 x == 0)]
  | 0x005 => fAF (.ascl n1 (srcOf f3 x3)) [aD, (4, f2 == 0), s3, z4]
  | 0x006 => checked (.ascli n1 (fld 0 19 x)) [(3, aOk f1), (9, x1 == 0)]
  | 0x007 => fAF (.amag (dstOf f1 x1) n2) [(3, sOk f1 x1), (4, aOk f2), z3, z4]
  | 0x008 => fAF (.aneg n1 n2) [aD, (4, aOk f2), z3, z4]
  | 0x009 => fAF (.aadd n1 n2 n4) [aD, (4, aOk f2), z3, (6, aOk f4)]
  | 0x00A => fAF (.asub n1 n2 n4) [aD, (4, aOk f2), z3, (6, aOk f4)]
  | 0x00B => fAF (.alerp n1 n2 n4 (srcOf f3 x3)) [aD, (4, aOk f2), s3, (6, aOk f4)]
  | 0x00C => fAF (.azero n1) [aD, (4, f2 == 0), z3, z4]
  | 0x00D => fAF (.asetn n1 (srcOf f3 x3)) [aD, (4, f2 == 0), s3, z4]
  | _ => unassigned

/-- The M slot (R76) with the field use of R165. -/
def decodeM (o : BitVec 9) (x : BitVec 26) : DecodeRes Instr :=
  let rep := fld 18 8 x
  let acc := fld 16 2 x
  let ia := fld 15 1 x
  let a := fld 11 4 x
  let ib := fld 10 1 x
  let b := fld 3 7 x
  let w := fld 0 3 x
  let mma (f : MmaFmt) := fMF (.mma f rep acc (tA a ia) (tB b ib) w) (tAOk a ia) (tBOk b ib)
  let two (i : Instr) := checked i [(4, acc == 0), (5, tAOk a ia), (6, tBOk b ib)]
  match o.toNat with
  | 0x001 => mma .bf16 | 0x002 => mma .e4m3 | 0x003 => mma .e5m2 | 0x008 => mma .f32 | 0x009 => mma .f64
  | 0x010 => fMF (.mmaq rep acc (tA a ia) (if ib == 1 then .ma (fld 3 2 x) else .blk b) w) (tAOk a ia)
      (if ib == 1 then fld 5 5 x == 0 else decide (b.toNat ≤ 123))
  | 0x018 => fMF (.msca rep acc (fld 11 1 x == 1) (fld 3 5 x) w) (ia == 0 && fld 12 3 x == 0) (ib == 0 && fld 8 2 x == 0)
  | 0x019 => fMF (.mzero rep acc w) (ia == 0 && a == 0) (ib == 0 && b == 0)
  | 0x020 => fMF (.mret rep acc (tA a ia) (fld 3 1 x == 1) w) (tAOk a ia && evenTile (tA a ia)) (ib == 0 && fld 4 6 x == 0)
  | 0x021 => fMF (.mrets rep acc (fld 11 1 x == 1) (srcOf (fld 3 6 x) (fld 9 1 x)) w) (ia == 0 && fld 12 3 x == 0)
      (ib == 0 && sOk (fld 3 6 x) (fld 9 1 x))
  | 0x040 => two (.mtr rep (tA a ia) (tB b ib) w)
  | 0x048 => two (.mldl rep (tA a ia) (tB b ib) w)
  | 0x049 => fMF (.mtrs rep (if acc == 0 then .full else if acc == 1 then .fwd else if acc == 2 then .diag else .bwd)
      (tA a ia) (tB b ib) w) (tAOk a ia) (tBOk b ib)
  | 0x050 => checked (.msetma (fld 24 2 x) (if fld 22 2 x == 0 then .base else if fld 22 2 x == 1 then .stride else .count)
      (srcOf (fld 16 6 x) (fld 15 1 x))) [(4, fld 22 2 x != 3), (5, sOk (fld 16 6 x) (fld 15 1 x)), (9, fld 0 15 x == 0)]
  | n =>
    let cvt (f : McvtFmt) (m : Nat) := match rm5Of m with
      | none => unassigned
      | some r => fMF (.mcvt f r rep acc (tA a ia) (fld 3 1 x == 1) w) (tAOk a ia)
          (ib == 0 && fld 4 6 x == 0 && (decide (f ≠ .bf16) || fld 3 1 x == 0))
    if 0x028 ≤ n ∧ n ≤ 0x02C then cvt .bf16 (n - 0x028)
    else if 0x030 ≤ n ∧ n ≤ 0x034 then cvt .e4m3 (n - 0x030)
    else if 0x038 ≤ n ∧ n ≤ 0x03C then cvt .e5m2 (n - 0x038)
    else unassigned

/-- The L slot (R77). -/
def decodeL (o : BitVec 9) (x : BitVec 26) : DecodeRes Instr :=
  match o.toNat with
  | 0x001 => fLS (.lds .i8) x | 0x002 => fLS (.lds .n8) x | 0x003 => fLS (.lds .i16) x | 0x004 => fLS (.lds .n16) x
  | 0x005 => fLS (.lds .i32) x | 0x006 => fLS (.lds .n32) x | 0x007 => fLS (.lds .i64) x
  | 0x010 => checked (.ldv (fld 16 4 x) (vdstOf (fld 20 6 x)) (srcOf (fld 10 6 x) (fld 9 1 x)) (fld 0 9 x))
      [(3, vOk (fld 20 6 x)), (5, sOk (fld 10 6 x) (fld 9 1 x))]
  | 0x018 => checked (.ald (fld 20 4 x) (srcOf (fld 13 6 x) (fld 12 1 x)) (fld 0 12 x))
      [(3, aOk (fld 20 6 x) && fld 19 1 x == 0), (4, sOk (fld 13 6 x) (fld 12 1 x))]
  | 0x020 => fLT .tld x
  | 0x021 => checked (.tldw (fld 19 7 x) (srcOf (fld 13 6 x) (fld 12 1 x)) (fld 0 3 x))
      [(3, decide ((fld 19 7 x).toNat ≤ 123)), (4, sOk (fld 13 6 x) (fld 12 1 x)), (9, fld 3 9 x == 0)]
  | _ => unassigned

/-- The W slot (R77). -/
def decodeW (o : BitVec 9) (x : BitVec 26) : DecodeRes Instr :=
  match o.toNat with
  | 0x001 => fWS (.sts .i8) x | 0x002 => fWS (.sts .i16) x | 0x003 => fWS (.sts .i32) x | 0x004 => fWS (.sts .i64) x
  | 0x010 => checked (.stv (fld 16 4 x) (vsrcOf (fld 20 6 x)) (srcOf (fld 10 6 x) (fld 9 1 x)) (fld 0 9 x))
      [(3, vOk (fld 20 6 x)), (5, sOk (fld 10 6 x) (fld 9 1 x))]
  | 0x018 => checked (.ast (fld 20 4 x) (srcOf (fld 13 6 x) (fld 12 1 x)) (fld 0 12 x))
      [(3, aOk (fld 20 6 x) && fld 19 1 x == 0), (4, sOk (fld 13 6 x) (fld 12 1 x))]
  | 0x020 => fLT .tst x
  | 0x030 => fWM .amoadd x | 0x031 => fWM .amoswp x | 0x032 => fWM .amocas x | 0x033 => fWM .amomin x
  | 0x034 => fWM .amomax x | 0x035 => fWM .amoand x | 0x036 => fWM .amoor x
  | 0x040 => fWM .binit x | 0x041 => fWB x
  | _ => unassigned

/-- The X slot (R78). -/
def decodeX (o : BitVec 9) (x : BitVec 26) : DecodeRes Instr :=
  match o.toNat with
  | 0x001 => fXT .xtld x | 0x002 => fXT .xtst x | 0x003 => fXF .xcpy x | 0x008 => fXF .pput x | 0x009 => fXF .pget x
  | 0x010 => checked (.xset (fld 22 3 x) (srcOf (fld 13 6 x) (fld 12 1 x)))
      [(3, fld 25 1 x == 0), (4, sOk (fld 13 6 x) (fld 12 1 x)), (9, fld 19 3 x == 0 && fld 0 12 x == 0)]
  | 0x011 => fW .xgo x
  | _ => unassigned

/-- The Y slot (R78). -/
def decodeY (o : BitVec 9) (x : BitVec 26) : DecodeRes Instr :=
  match o.toNat with
  | 0x001 => checked (.br (fld 0 24 x)) [(9, fld 24 2 x == 0)] | 0x002 => checked (.call (fld 0 24 x)) [(9, fld 24 2 x == 0)]
  | 0x003 => fYR .brr x | 0x004 => fYR .callr x | 0x005 => fZ .ret x
  | 0x008 => checked (.loop (fld 20 6 x) (fld 0 16 x)) [(9, fld 16 4 x == 0)]
  | 0x009 => checked (.loopr (fld 20 6 x) (srcOf (fld 13 6 x) (fld 12 1 x)))
      [(4, sOk (fld 13 6 x) (fld 12 1 x)), (9, fld 19 1 x == 0 && fld 0 12 x == 0)]
  | 0x010 => fW .wait x | 0x011 => fYP .waitph x | 0x012 => fYP .waitbit x
  | 0x018 => checked (.bar (fld 0 3 x)) [(3, scopeLegal (fld 0 3 x)), (9, fld 3 23 x == 0)]
  | 0x019 => checked (.fence (fld 0 3 x)) [(3, fenceScopeLegal (fld 0 3 x)), (9, fld 3 23 x == 0)]
  | 0x020 => fZ .endStep x | 0x021 => checked (.trap (fld 0 16 x)) [(9, fld 16 10 x == 0)]
  | 0x022 => fZ .trapack x | 0x023 => fZ .tret x
  | 0x028 => checked (.crrd (dstOf (fld 20 6 x) (fld 19 1 x)) (fld 0 12 x))
      [(3, sOk (fld 20 6 x) (fld 19 1 x)), (4, fld 12 7 x == 0), (5, crLegal (fld 0 12 x))]
  | 0x029 => checked (.crwr (fld 0 12 x) (srcOf (fld 13 6 x) (fld 12 1 x)))
      [(3, fld 19 7 x == 0), (4, sOk (fld 13 6 x) (fld 12 1 x)), (5, crLegal (fld 0 12 x))]
  | _ => unassigned

/-- Decode the operation of a slot of a kind (R57). -/
def decodeOp (k : SlotKind) (o : BitVec 9) (x : BitVec 26) : DecodeRes Instr :=
  match k with
  | .s => decodeS o x | .d => decodeD o x | .v0 | .v1 | .v2 | .v3 => decodeV o x | .a => decodeA o x | .m => decodeM o x
  | .l => decodeL o x | .w => decodeW o x | .x => decodeX o x | .y => decodeY o x

/-- Decode one 40-bit slot (R57). -/
def decodeSlot (k : SlotKind) (x : BitVec 40) : DecodeRes Slot :=
  match decodeOp k (fld 26 9 x) (fld 0 26 x) with
  | .ok i => .ok { gp := fld 36 4 x, gs := x.getLsbD 35, op := i }
  | .error e => .error e

/-- The slot kinds in mask order (R51). -/
def slotOrder : List SlotKind := [.s, .d, .v0, .v1, .v2, .v3, .a, .m, .l, .w, .x, .y]

/-- The number of a slot kind in mask order. -/
def SlotKind.num : SlotKind → Nat
  | .s => 0 | .d => 1 | .v0 => 2 | .v1 => 3 | .v2 => 4 | .v3 => 5 | .a => 6 | .m => 7 | .l => 8 | .w => 9 | .x => 10 | .y => 11

/-- A bundle's header word (R51). -/
structure Header where
  e      : BitVec 4
  window : Bool
  comma  : Bool
  stop   : Bool
  mask   : BitVec 12
  reservedZero : Bool
  deriving DecidableEq, Repr

/-- Read a header word (R51). -/
def headerOf (h : W32) : Header :=
  { e := fld 16 4 h, window := h.getLsbD 14, comma := h.getLsbD 13, stop := h.getLsbD 12, mask := fld 0 12 h,
    reservedZero := fld 20 12 h == 0 && !h.getLsbD 15 }

/-- The slot kinds a mask names, in mask order. -/
def maskKinds (m : BitVec 12) : List SlotKind := slotOrder.filter fun k => m.getLsbD k.num

/-- The bytes of a bundle with `n` slots: a header and the slots, padded to whole words (R50). -/
def bundleBytes (n : Nat) : Nat := 4 * ((32 + 40 * n + 31) / 32)

/-- A decoded bundle: its header, its length in bytes and its slots, each decoded or refused by field index. -/
structure Bundle where
  header : Header
  bytes  : Nat
  slots  : List (SlotKind × DecodeRes Slot)

/-- Decode the bundle at the head of a byte string; bytes beyond the string read as zero. -/
def decodeBundle (bs : List Byte) : Bundle :=
  let h := headerOf (ofBytes 32 (bs.take 4))
  let ks := maskKinds h.mask
  let body := bs.drop 4
  { header := h, bytes := bundleBytes ks.length,
    slots := (ks.zip (List.range ks.length)).map fun p => (p.1, decodeSlot p.1 (ofBytes 40 ((body.drop (5 * p.2)).take 5))) }

/-- The slot kind in which an operation stands alone: a V operation takes V0; an event stands in none. -/
def Instr.kind : Instr → Option SlotKind
  | .add .. | .sub .. | .and .. | .or .. | .xor .. | .andn .. | .shl .. | .shr .. | .sar .. | .min .. | .max .. | .minu ..
  | .maxu .. | .adds .. | .subs .. | .mul .. | .mulh .. | .mulhu .. | .div .. | .divu .. | .rem .. | .remu .. | .addi ..
  | .andi .. | .ori .. | .xori .. | .shli .. | .shri .. | .sari .. | .movq .. | .cmpeq .. | .cmpne .. | .cmplt .. | .cmple ..
  | .cmpltu .. | .cmpleu .. | .cmpeqi .. | .cmpnei .. | .cmplti .. | .cmplei .. | .cmpltui .. | .cmpleui .. | .pand .. | .por ..
  | .pxor .. | .pandn .. | .movps .. | .movsp .. | .rdcnt .. | .rdtime .. | .rddesc .. | .fadd .. | .fsub .. | .fmul .. | .fma ..
  | .fcmpeq .. | .fcmplt .. | .fcmple .. | .fcmpun .. | .cvtF64I64 .. | .cvtI64F64 .. | .cvtF32I64 .. | .cvtI64F32 ..
  | .cvtF32F64 .. | .cvtF64F32 .. => some .s
  | .br .. | .call .. | .brr .. | .callr .. | .ret | .loop .. | .loopr .. | .wait .. | .waitph .. | .waitbit .. | .bar ..
  | .fence .. | .endStep | .trap .. | .trapack | .tret | .crrd .. | .crwr .. => some .y
  | .dadd .. | .dsub .. | .dmul .. | .dmin .. | .dmax .. | .deq .. | .dne .. | .dlt .. | .dle .. | .deqi .. | .dnei .. | .dlti ..
  | .dlei .. | .dgti .. | .dgei .. | .din .. | .dnotin .. | .delem .. | .dset .. | .dseti .. | .dlab .. | .dval .. | .dsize ..
  | .dlo .. | .dhi .. | .dsettle .. | .dclr | .dopen .. | .dclose => some .d
  | .vadd .. | .vsub .. | .vadds .. | .vaddsu .. | .vsubs .. | .vsubsu .. | .vmul .. | .vmin .. | .vmax .. | .vminu .. | .vmaxu ..
  | .vshl .. | .vshr .. | .vsar .. | .vand .. | .vor .. | .vxor .. | .vandn .. | .vmov .. | .vsel .. | .vperm .. | .vbcast ..
  | .vidx .. | .vcmpeq .. | .vcmplt .. | .vcmple .. | .vcmpltu .. | .vcmpleu .. | .vfcmpeq .. | .vfcmplt .. | .vfcmple ..
  | .vfcmpun .. | .kand .. | .kor .. | .kxor .. | .kandn .. | .vfadd .. | .vfsub .. | .vfmul .. | .vfma .. | .vfmin .. | .vfmax ..
  | .vfabs .. | .vfneg .. | .vrcp .. | .vrsqrt .. | .vexp2 .. | .vlog2 .. | .vradd .. | .vrmax .. | .vrmin .. | .vxc ..
  | .vcvt .. => some .v0
  | .afromv .. | .atov .. | .adot .. | .adotm .. | .ascl .. | .ascli .. | .amag .. | .aneg .. | .aadd .. | .asub .. | .alerp ..
  | .azero .. | .asetn .. => some .a
  | .mma .. | .mmaq .. | .msca .. | .mzero .. | .mret .. | .mrets .. | .mcvt .. | .mtr .. | .mldl .. | .mtrs .. | .msetma .. => some .m
  | .lds .. | .ldv .. | .ald .. | .tld .. | .tldw .. => some .l
  | .sts .. | .stv .. | .ast .. | .tst .. | .amoadd .. | .amoswp .. | .amocas .. | .amomin .. | .amomax .. | .amoand .. | .amoor ..
  | .binit .. | .arrive .. => some .w
  | .xtld .. | .xtst .. | .xcpy .. | .pput .. | .pget .. | .xset .. | .xgo .. => some .x
  | _ => none

/-! ## The encoder, from the same formats -/

/-- A scalar source field and its X bit. -/
def encS : SSrc → BitVec 6 × BitVec 1
  | .reg n => (0#1 ++ fld 0 5 n, fld 5 1 n)
  | .latch k => (4#3 ++ k, 0)
/-- A scalar destination field and its X bit. -/
def encD : SDst → BitVec 6 × BitVec 1
  | .reg n => (0#1 ++ fld 0 5 n, fld 5 1 n)
  | .latch k => (4#3 ++ k, 0)
/-- A vector source field. -/
def encVS : VSrc → BitVec 6
  | .reg n => 0#1 ++ n
  | .latch k => 4#3 ++ k
/-- A vector destination field. -/
def encVD : VDst → BitVec 6
  | .reg n => 0#1 ++ n
  | .latch k => 4#3 ++ k
/-- Fields IA and A. -/
def encTA : TOp → BitVec 1 × BitVec 4
  | .tile n => (0, n)
  | .ma i => (1, 0#2 ++ i)
/-- Fields IB and B. -/
def encTB : TOp → BitVec 1 × BitVec 7
  | .tile n => (0, 0#3 ++ n)
  | .ma i => (1, 0#5 ++ i)
/-- Fields IB and B of MMAQ. -/
def encWB : WOp → BitVec 1 × BitVec 7
  | .blk n => (0, n)
  | .ma i => (1, 0#5 ++ i)
/-- One bit. -/
def bit1 (b : Bool) : BitVec 1 := BitVec.ofBool b

/-- The 6-bit field and the X bit that follows it. -/
def fx (p : BitVec 6 × BitVec 1) : BitVec 7 := p.1 ++ p.2

def eSR (d : SDst) (a b : SSrc) : BitVec 26 := fx (encD d) ++ fx (encS a) ++ fx (encS b) ++ 0#5
def eSR2 (d : SDst) (a : SSrc) : BitVec 26 := fx (encD d) ++ fx (encS a) ++ 0#12
def eSR1 (d : SDst) : BitVec 26 := fx (encD d) ++ 0#19
def eSI (d : SDst) (a : SSrc) (i : BitVec 12) : BitVec 26 := fx (encD d) ++ fx (encS a) ++ i
def eSP (p : BitVec 3) (a b : SSrc) : BitVec 26 := p ++ 0#4 ++ fx (encS a) ++ fx (encS b) ++ 0#5
def eSPI (p : BitVec 3) (a : SSrc) (i : BitVec 12) : BitVec 26 := p ++ 0#4 ++ fx (encS a) ++ i
def eSQ (p : BitVec 3) (a b : BitVec 4) : BitVec 26 := p ++ 0#4 ++ a ++ b ++ 0#11
def eDT (x y z : BitVec 5) (w : BitVec 3) : BitVec 26 := 0#1 ++ x ++ 0#1 ++ y ++ 0#1 ++ z ++ 0#5 ++ w
def eDI (c : BitVec 5) (i : BitVec 16) (w : BitVec 3) : BitVec 26 := 0#1 ++ c ++ 0#1 ++ i ++ w
def eDR (d : SDst) (c : BitVec 5) (w : BitVec 3) : BitVec 26 := fx (encD d) ++ 0#1 ++ c ++ 0#10 ++ w
def eW (w : BitVec 3) : BitVec 26 := 0#23 ++ w
def eVR (g : BitVec 4) (k : BitVec 3) (d : VDst) (a b : VSrc) : BitVec 26 := g ++ k ++ encVD d ++ encVS a ++ encVS b ++ 0#1
def eVR2 (g : BitVec 4) (k : BitVec 3) (d : VDst) (a : VSrc) : BitVec 26 := g ++ k ++ encVD d ++ encVS a ++ 0#7
def eVC (g : BitVec 4) (k kd : BitVec 3) (a b : VSrc) : BitVec 26 := g ++ k ++ kd ++ 0#3 ++ encVS a ++ encVS b ++ 0#1
def eVCK (g : BitVec 4) (k kd a b : BitVec 3) : BitVec 26 := g ++ k ++ kd ++ 0#6 ++ a ++ 0#3 ++ b ++ 0#1
def eA (f1 : BitVec 6) (x1 : BitVec 1) (f2 f3 : BitVec 6) (x3 : BitVec 1) (f4 : BitVec 6) : BitVec 26 := f1 ++ x1 ++ f2 ++ f3 ++ x3 ++ f4
def ax (n : BitVec 4) : BitVec 6 := 0#2 ++ n
def eMF (rep : BitVec 8) (acc : BitVec 2) (a : BitVec 1 × BitVec 4) (b : BitVec 1 × BitVec 7) (w : BitVec 3) : BitVec 26 :=
  rep ++ acc ++ a.1 ++ a.2 ++ b.1 ++ b.2 ++ w
def eWS (a b : SSrc) (i : BitVec 12) : BitVec 26 := fx (encS a) ++ fx (encS b) ++ i
def eLT (t : BitVec 4) (a b : SSrc) (w : BitVec 3) : BitVec 26 := t ++ fx (encS a) ++ fx (encS b) ++ 0#5 ++ w
def eWM (d : SDst) (a b : SSrc) (w : BitVec 3) : BitVec 26 := fx (encD d) ++ fx (encS a) ++ fx (encS b) ++ 0#2 ++ w
def eXF (a b c : SSrc) (w : BitVec 3) : BitVec 26 := fx (encS a) ++ fx (encS b) ++ fx (encS c) ++ 0#2 ++ w
def eXT (pair : Bool) (t : BitVec 4) (a b : SSrc) (w : BitVec 3) : BitVec 26 :=
  fx (encS a) ++ fx (encS b) ++ 0#2 ++ t ++ bit1 pair ++ 0#2 ++ w
def eYR (a : SSrc) : BitVec 26 := 0#7 ++ fx (encS a) ++ 0#12
def eYP (p : BitVec 3) (a b : SSrc) (t : BitVec 5) : BitVec 26 := p ++ 0#4 ++ fx (encS a) ++ fx (encS b) ++ t

/-- Opcode = base + 4t + m (R118). -/
def opF (base : Nat) (t : FTy) (m : Rm) : BitVec 9 :=
  BitVec.ofNat 9 (base + (match t with | .f64 => 0 | .f32 => 4) + (rmCode m).toNat)
/-- Opcode = base + m. -/
def opM (base : Nat) (m : Rm) : BitVec 9 := BitVec.ofNat 9 (base + (rmCode m).toNat)
/-- Opcode = base + m, m 0 to 4. -/
def opM5 (base : Nat) (m : Rm5) : BitVec 9 := BitVec.ofNat 9 (base + rm5Code m)
/-- Opcode = base + e of an integer family. -/
def opI (base : Nat) (t : ITy) : BitVec 9 := BitVec.ofNat 9 (base + (ityCode t).toNat)
/-- Opcode of a conversion: 0x100 + 8q + m (R150). -/
def opCvt : CvtForm → BitVec 9
  | .f32i32 m => opM 0x100 m | .i32f32 m => opM 0x108 m | .bf16f32 m => opM5 0x110 m | .f32bf16 => 0x118
  | .e4m3f32 m => opM5 0x120 m | .e5m2f32 m => opM5 0x128 m | .f32e4m3 => 0x130 | .f32e5m2 => 0x138 | .f32q4 m => opM 0x140 m
/-- Opcode of a scalar compare of `.f64` (+4 for `.f32`). -/
def opFC (base : Nat) (t : FTy) : BitVec 9 := BitVec.ofNat 9 (base + match t with | .f64 => 0 | .f32 => 4)
/-- Opcode of a reduction. -/
def opRed (i : Nat) (t : RedTy) : BitVec 9 := BitVec.ofNat 9 (i + match t with | .f32 => 0x0B0 | .i32 => 0x0B4)

/-- Opcode and bits [25:0] of an instruction; an event has none. -/
def encodeOp : Instr → Option (BitVec 9 × BitVec 26)
  | .add d a b => some (0x001, eSR d a b) | .sub d a b => some (0x002, eSR d a b) | .and d a b => some (0x003, eSR d a b)
  | .or d a b => some (0x004, eSR d a b) | .xor d a b => some (0x005, eSR d a b) | .andn d a b => some (0x006, eSR d a b)
  | .shl d a b => some (0x007, eSR d a b) | .shr d a b => some (0x008, eSR d a b) | .sar d a b => some (0x009, eSR d a b)
  | .min d a b => some (0x00A, eSR d a b) | .max d a b => some (0x00B, eSR d a b) | .minu d a b => some (0x00C, eSR d a b)
  | .maxu d a b => some (0x00D, eSR d a b) | .adds d a b => some (0x00E, eSR d a b) | .subs d a b => some (0x00F, eSR d a b)
  | .mul d a b => some (0x010, eSR d a b) | .mulh d a b => some (0x011, eSR d a b) | .mulhu d a b => some (0x012, eSR d a b)
  | .div d a b => some (0x013, eSR d a b) | .divu d a b => some (0x014, eSR d a b) | .rem d a b => some (0x015, eSR d a b)
  | .remu d a b => some (0x016, eSR d a b)
  | .addi d a i => some (0x020, eSI d a i) | .andi d a i => some (0x021, eSI d a i) | .ori d a i => some (0x022, eSI d a i)
  | .xori d a i => some (0x023, eSI d a i) | .shli d a n => some (0x024, eSI d a (0#6 ++ n))
  | .shri d a n => some (0x025, eSI d a (0#6 ++ n)) | .sari d a n => some (0x026, eSI d a (0#6 ++ n))
  | .movq d h k i => some (0x030, fx (encD d) ++ h ++ bit1 k ++ i)
  | .cmpeq p a b => some (0x040, eSP p a b) | .cmpne p a b => some (0x041, eSP p a b) | .cmplt p a b => some (0x042, eSP p a b)
  | .cmple p a b => some (0x043, eSP p a b) | .cmpltu p a b => some (0x044, eSP p a b) | .cmpleu p a b => some (0x045, eSP p a b)
  | .cmpeqi p a i => some (0x048, eSPI p a i) | .cmpnei p a i => some (0x049, eSPI p a i) | .cmplti p a i => some (0x04A, eSPI p a i)
  | .cmplei p a i => some (0x04B, eSPI p a i) | .cmpltui p a i => some (0x04C, eSPI p a i) | .cmpleui p a i => some (0x04D, eSPI p a i)
  | .pand p a b => some (0x050, eSQ p a b) | .por p a b => some (0x051, eSQ p a b) | .pxor p a b => some (0x052, eSQ p a b)
  | .pandn p a b => some (0x053, eSQ p a b)
  | .movps d => some (0x058, eSR1 d) | .movsp a => some (0x059, 0#7 ++ fx (encS a) ++ 0#12)
  | .rdcnt d a => some (0x060, eSR2 d a) | .rdtime d => some (0x061, eSR1 d) | .rddesc d a => some (0x062, eSR2 d a)
  | .fadd t m d a b => some (opF 0x080 t m, eSR d a b) | .fsub t m d a b => some (opF 0x088 t m, eSR d a b)
  | .fmul t m d a b => some (opF 0x090 t m, eSR d a b) | .fma t m d a b => some (opF 0x098 t m, eSR d a b)
  | .fcmpeq t p a b => some (opFC 0x0A0 t, eSP p a b) | .fcmplt t p a b => some (opFC 0x0A1 t, eSP p a b)
  | .fcmple t p a b => some (opFC 0x0A2 t, eSP p a b) | .fcmpun t p a b => some (opFC 0x0A3 t, eSP p a b)
  | .cvtF64I64 m d a => some (opM 0x0C0 m, eSR2 d a) | .cvtI64F64 m d a => some (opM 0x0C4 m, eSR2 d a)
  | .cvtF32I64 m d a => some (opM 0x0C8 m, eSR2 d a) | .cvtI64F32 m d a => some (opM 0x0CC m, eSR2 d a)
  | .cvtF32F64 m d a => some (opM 0x0D0 m, eSR2 d a) | .cvtF64F32 d a => some (0x0D4, eSR2 d a)
  | .br o => some (0x001, 0#2 ++ o) | .call o => some (0x002, 0#2 ++ o) | .brr a => some (0x003, eYR a) | .callr a => some (0x004, eYR a)
  | .ret => some (0x005, 0) | .loop b c => some (0x008, b ++ 0#4 ++ c) | .loopr b a => some (0x009, b ++ 0#1 ++ fx (encS a) ++ 0#12)
  | .wait w => some (0x010, eW w) | .waitph p a b t => some (0x011, eYP p a b t) | .waitbit p a b t => some (0x012, eYP p a b t)
  | .bar sc => some (0x018, eW sc) | .fence sc => some (0x019, eW sc) | .endStep => some (0x020, 0)
  | .trap i => some (0x021, 0#10 ++ i) | .trapack => some (0x022, 0) | .tret => some (0x023, 0)
  | .crrd d cr => some (0x028, fx (encD d) ++ 0#7 ++ cr) | .crwr cr a => some (0x029, 0#7 ++ fx (encS a) ++ cr)
  | .dadd x y z w => some (0x001, eDT x y z w) | .dsub x y z w => some (0x002, eDT x y z w) | .dmul x y z w => some (0x003, eDT x y z w)
  | .dmin x y z w => some (0x004, eDT x y z w) | .dmax x y z w => some (0x005, eDT x y z w)
  | .deq x y w => some (0x008, eDT x y 0 w) | .dne x y w => some (0x009, eDT x y 0 w) | .dlt x y w => some (0x00A, eDT x y 0 w)
  | .dle x y w => some (0x00B, eDT x y 0 w)
  | .deqi c i w => some (0x010, eDI c i w) | .dnei c i w => some (0x011, eDI c i w) | .dlti c i w => some (0x012, eDI c i w)
  | .dlei c i w => some (0x013, eDI c i w) | .dgti c i w => some (0x014, eDI c i w) | .dgei c i w => some (0x015, eDI c i w)
  | .din c k o w => some (2#3 ++ o, eDI c k w) | .dnotin c k o w => some (3#3 ++ o, eDI c k w)
  | .delem z x b w => some (0x018, 0#1 ++ z ++ 0#1 ++ x ++ fx (encS b) ++ 0#4 ++ w)
  | .dset c a b w => some (0x020, 0#1 ++ c ++ fx (encS a) ++ fx (encS b) ++ 0#3 ++ w)
  | .dseti c l h => some (0x021, 0#1 ++ c ++ l ++ h)
  | .dlab d c w => some (0x028, eDR d c w) | .dval d c w => some (0x029, eDR d c w) | .dsize d c w => some (0x02A, eDR d c w)
  | .dlo d c w => some (0x02B, eDR d c w) | .dhi d c w => some (0x02C, eDR d c w)
  | .dsettle w => some (0x030, eW w) | .dclr => some (0x031, 0) | .dopen o => some (0x033, o) | .dclose => some (0x032, 0)
  | .vadd t g k d a b => some (opI 0x004 t, eVR g k d a b) | .vsub t g k d a b => some (opI 0x008 t, eVR g k d a b)
  | .vadds t g k d a b => some (opI 0x00C t, eVR g k d a b) | .vaddsu t g k d a b => some (opI 0x010 t, eVR g k d a b)
  | .vsubs t g k d a b => some (opI 0x014 t, eVR g k d a b) | .vsubsu t g k d a b => some (opI 0x018 t, eVR g k d a b)
  | .vmul t g k d a b => some (opI 0x01C t, eVR g k d a b) | .vmin t g k d a b => some (opI 0x020 t, eVR g k d a b)
  | .vmax t g k d a b => some (opI 0x024 t, eVR g k d a b) | .vminu t g k d a b => some (opI 0x028 t, eVR g k d a b)
  | .vmaxu t g k d a b => some (opI 0x02C t, eVR g k d a b) | .vshl t g k d a b => some (opI 0x030 t, eVR g k d a b)
  | .vshr t g k d a b => some (opI 0x034 t, eVR g k d a b) | .vsar t g k d a b => some (opI 0x038 t, eVR g k d a b)
  | .vand g k d a b => some (0x040, eVR g k d a b) | .vor g k d a b => some (0x041, eVR g k d a b)
  | .vxor g k d a b => some (0x042, eVR g k d a b) | .vandn g k d a b => some (0x043, eVR g k d a b)
  | .vmov g k d a => some (0x044, eVR2 g k d a) | .vsel g k d a b => some (0x045, eVR g k d a b)
  | .vperm g k d a b => some (0x046, eVR g k d a b)
  | .vbcast g k d s => some (0x047, g ++ k ++ encVD d ++ 0#1 ++ fld 0 5 s ++ fld 5 1 s ++ 0#6)
  | .vidx g k d => some (0x048, g ++ k ++ encVD d ++ 0#13)
  | .vcmpeq g k kd a b => some (0x050, eVC g k kd a b) | .vcmplt g k kd a b => some (0x051, eVC g k kd a b)
  | .vcmple g k kd a b => some (0x052, eVC g k kd a b) | .vcmpltu g k kd a b => some (0x053, eVC g k kd a b)
  | .vcmpleu g k kd a b => some (0x054, eVC g k kd a b)
  | .vfcmpeq g k kd a b => some (0x058, eVC g k kd a b) | .vfcmplt g k kd a b => some (0x059, eVC g k kd a b)
  | .vfcmple g k kd a b => some (0x05A, eVC g k kd a b) | .vfcmpun g k kd a b => some (0x05B, eVC g k kd a b)
  | .kand g k kd a b => some (0x060, eVCK g k kd a b) | .kor g k kd a b => some (0x061, eVCK g k kd a b)
  | .kxor g k kd a b => some (0x062, eVCK g k kd a b) | .kandn g k kd a b => some (0x063, eVCK g k kd a b)
  | .vfadd m g k d a b => some (opM 0x080 m, eVR g k d a b) | .vfsub m g k d a b => some (opM 0x084 m, eVR g k d a b)
  | .vfmul m g k d a b => some (opM 0x088 m, eVR g k d a b) | .vfma m g k d a b => some (opM 0x08C m, eVR g k d a b)
  | .vfmin g k d a b => some (0x090, eVR g k d a b) | .vfmax g k d a b => some (0x091, eVR g k d a b)
  | .vfabs g k d a => some (0x092, eVR2 g k d a) | .vfneg g k d a => some (0x093, eVR2 g k d a)
  | .vrcp g k d a => some (0x0A0, eVR2 g k d a) | .vrsqrt g k d a => some (0x0A1, eVR2 g k d a)
  | .vexp2 g k d a => some (0x0A2, eVR2 g k d a) | .vlog2 g k d a => some (0x0A3, eVR2 g k d a)
  | .vradd t g k d a => some (opRed 0 t, eVR2 g k d a) | .vrmax t g k d a => some (opRed 1 t, eVR2 g k d a)
  | .vrmin t g k d a => some (opRed 2 t, eVR2 g k d a)
  | .vxc g k d a sc => some (0x0C0, g ++ k ++ encVD d ++ encVS a ++ sc ++ 0#4)
  | .vcvt f g k d a b => some (opCvt f, eVR g k d a b)
  | .afromv ad vs => some (0x001, eA (ax ad) 0 (0#1 ++ vs) 0 0 0) | .atov vd as => some (0x002, eA (ax as) 0 (0#1 ++ vd) 0 0 0)
  | .adot d aa ab => some (0x003, eA (encD d).1 (encD d).2 (ax aa) 0 0 (ax ab))
  | .adotm vd cl aa b => some (0x004, eA (0#1 ++ vd) 0 (ax aa) (encS b).1 (encS b).2 (0#3 ++ cl))
  | .ascl ad b => some (0x005, eA (ax ad) 0 0 (encS b).1 (encS b).2 0)
  | .ascli ad i => some (0x006, ax ad ++ 0#1 ++ i)
  | .amag d as => some (0x007, eA (encD d).1 (encD d).2 (ax as) 0 0 0) | .aneg ad as => some (0x008, eA (ax ad) 0 (ax as) 0 0 0)
  | .aadd ad aa ab => some (0x009, eA (ax ad) 0 (ax aa) 0 0 (ax ab)) | .asub ad aa ab => some (0x00A, eA (ax ad) 0 (ax aa) 0 0 (ax ab))
  | .alerp ad aa ab t => some (0x00B, eA (ax ad) 0 (ax aa) (encS t).1 (encS t).2 (ax ab))
  | .azero ad => some (0x00C, eA (ax ad) 0 0 0 0 0) | .asetn ad b => some (0x00D, eA (ax ad) 0 0 (encS b).1 (encS b).2 0)
  | .mma f rep acc a b w => some ((match f with | .bf16 => 0x001 | .e4m3 => 0x002 | .e5m2 => 0x003 | .f32 => 0x008 | .f64 => 0x009),
      eMF rep acc (encTA a) (encTB b) w)
  | .mmaq rep acc a b w => some (0x010, eMF rep acc (encTA a) (encWB b) w)
  | .msca rep acc hi v w => some (0x018, eMF rep acc (0, 0#3 ++ bit1 hi) (0, 0#2 ++ v) w)
  | .mzero rep acc w => some (0x019, eMF rep acc (0, 0) (0, 0) w)
  | .mret rep acc d part w => some (0x020, eMF rep acc (encTA d) (0, 0#6 ++ bit1 part) w)
  | .mrets rep acc part b w => some (0x021, eMF rep acc (0, 0#3 ++ bit1 part) (0, (encS b).2 ++ (encS b).1) w)
  | .mcvt f m rep acc d half w => some (opM5 (match f with | .bf16 => 0x028 | .e4m3 => 0x030 | .e5m2 => 0x038) m,
      eMF rep acc (encTA d) (0, 0#6 ++ bit1 half) w)
  | .mtr rep a d w => some (0x040, eMF rep 0 (encTA a) (encTB d) w) | .mldl rep a d w => some (0x048, eMF rep 0 (encTA a) (encTB d) w)
  | .mtrs rep mode a b w => some (0x049,
      eMF rep (match mode with | .full => 0 | .fwd => 1 | .diag => 2 | .bwd => 3) (encTA a) (encTB b) w)
  | .msetma i sel a => some (0x050, i ++ (match sel with | .base => 0#2 | .stride => 1#2 | .count => 2#2) ++ fx (encS a) ++ 0#15)
  | .lds t d a o => some ((match t with | .i8 => 1 | .n8 => 2 | .i16 => 3 | .n16 => 4 | .i32 => 5 | .n32 => 6 | .i64 => 7), eSI d a o)
  | .ldv g d a o => some (0x010, encVD d ++ g ++ fx (encS a) ++ o) | .ald ad a o => some (0x018, ax ad ++ 0#1 ++ fx (encS a) ++ o)
  | .tld t a b w => some (0x020, eLT t a b w) | .tldw wb a w => some (0x021, wb ++ fx (encS a) ++ 0#9 ++ w)
  | .sts t a b o => some ((match t with | .i8 => 1 | .i16 => 2 | .i32 => 3 | .i64 => 4), eWS a b o)
  | .stv g a b o => some (0x010, encVS a ++ g ++ fx (encS b) ++ o) | .ast as b o => some (0x018, ax as ++ 0#1 ++ fx (encS b) ++ o)
  | .tst t a b w => some (0x020, eLT t a b w)
  | .amoadd d a b w => some (0x030, eWM d a b w) | .amoswp d a b w => some (0x031, eWM d a b w) | .amocas d a b w => some (0x032, eWM d a b w)
  | .amomin d a b w => some (0x033, eWM d a b w) | .amomax d a b w => some (0x034, eWM d a b w) | .amoand d a b w => some (0x035, eWM d a b w)
  | .amoor d a b w => some (0x036, eWM d a b w) | .binit d a b w => some (0x040, eWM d a b w)
  | .arrive d a n w => some (0x041, fx (encD d) ++ fx (encS a) ++ n ++ 0#5 ++ w)
  | .xtld p t a b w => some (0x001, eXT p t a b w) | .xtst p t a b w => some (0x002, eXT p t a b w)
  | .xcpy a b c w => some (0x003, eXF a b c w) | .pput a b c w => some (0x008, eXF a b c w) | .pget a b c w => some (0x009, eXF a b c w)
  | .xset cr a => some (0x010, 0#1 ++ cr ++ 0#3 ++ fx (encS a) ++ 0#12) | .xgo w => some (0x011, eW w)
  | _ => none

/-- The 40 bits of a slot (R57). -/
def encodeSlot (s : Slot) : Option (BitVec 40) :=
  (encodeOp s.op).map fun p => s.gp ++ bit1 s.gs ++ p.1 ++ p.2

/-- The header word of a bundle (R51). -/
def encodeHeader (e : BitVec 4) (window comma stop : Bool) (mask : BitVec 12) : W32 :=
  0#12 ++ e ++ 0#1 ++ bit1 window ++ bit1 comma ++ bit1 stop ++ mask

/-- The words of a well-formed instruction: the bundle that holds it alone, unguarded, with STOP set (R50, R242). -/
def encode (i : Instr) : Option (List Byte) :=
  match i.kind, encodeSlot { gp := 0, gs := false, op := i } with
  | some k, some x => some (bytesOf 12 (x ++ encodeHeader 0 false false true (1#12 <<< k.num)))
  | _, _ => none

/-- The instruction the decoder reads from a bundle's bits, bit 0 the least significant bit of its header word:
the operation of the bundle's first slot, where that slot decodes and the reserved bits of the header are zero. -/
def decodeTableWord (nbits w : Nat) : Option Instr :=
  let b := decodeBundle (bytesOf 64 (BitVec.ofNat 512 (w % 2 ^ nbits)))
  match b.header.reservedZero, b.slots with
  | true, (_, .ok s) :: _ => some s.op
  | _, _ => none

end Sys2Proof
end

