-- ==== Sys2Proof/Machine/State.lean ====
section
/-! DEFINITION. The state of the device as plain data: 288 cores, the ordering machine, the hub's queues and tables,
the host and the package (INVENTORY.md, '## State'), and its value after reset. -/

namespace Sys2Proof.Machine

/-- Why a step stops with a fault. -/
inductive Fault where
  /-- Raised by the events that name a physical core above 287, which the device does not have (R31). Safe. -/
  | noSuchCore (g : Nat)
  deriving DecidableEq, Repr

/-- Why an operation is refused. -/
inductive Refusal where
  /-- Raised by an arm of exec whose operation has no meaning yet. Safe. -/
  | notModelled (mnemonic : String)
  /-- Raised by an event of the device whose condition does not hold: the machine "takes no other step" (R293). Safe:
  `step` passes such an entry of the agenda by. -/
  | notEnabled (mnemonic : String)
  deriving DecidableEq, Repr

/-- A vector clock or stamp: four 64-bit entries (R290, R291). -/
abbrev Clock := Vector W64 4

/-- A cached translation (R260, R273): its partition, the page, the level it was found at, the address of the leaf entry and the entry. -/
structure Cached where
  part : Nat
  page : Nat
  level : Nat
  addr : Nat
  leaf : W64
  deriving DecidableEq, Repr

/-! ## The register files of a core -/

/-- A vector cluster (R135). Mask k0 is constant and is not read from `k`. -/
structure Cluster where
  v     : Vector W512 32
  k     : Vector W16 8
  latch : Vector W512 8
  lost  : BitVec 8
  deriving DecidableEq, Repr

/-- A matrix address register (R157). -/
structure MaReg where
  left   : Byte
  count  : Byte
  stride : Byte
  base   : Byte
  cur    : Byte
  deriving DecidableEq, Repr

/-- The register files and the scratchpad of a core (R101, R135, R152, R178, R200, R274). -/
structure Files where
  s        : Vector W64 64
  sl       : Vector W64 8
  slLost   : BitVec 8
  p        : W16
  cl       : Vector Cluster 8
  t        : Vector TileBits 16
  accMain  : Vector PlaneBits 4
  accPart  : Vector PlaneBits 4
  openAcc  : BitVec 4
  wbCodes  : Vector (BitVec 16384) 124
  wbScales : Vector W512 124
  ma       : Vector MaReg 4
  a        : Vector AxisBits 16
  n        : Vector W32 16
  c        : Vector W128 32
  spad     : AMap Byte
  deriving DecidableEq, Repr

/-- The control registers (R108) with the trap, halt and sticky records (R231). cr.lc0–cr.lc3 are read from the loop
levels. -/
structure Ctrl where
  tvec      : W64
  handler   : Bool
  seed      : W64
  compat    : Bool
  dbudget   : BitVec 13
  unsettled : Bool
  pivflags  : W32
  solvtau   : W64
  solvdelta : W64
  trec      : Vector W64 8
  frozen    : Bool
  halt      : Vector W64 8
  sticky    : Vector W64 12
  deriving DecidableEq, Repr

/-- The copy engine's shadow command registers (R346). -/
structure XcRegs where
  kind : W64
  dst : W64
  src : W64
  len : W64
  rows : W64
  dstride : W64
  sstride : W64
  node : W64
  deriving DecidableEq, Repr

/-! ## Timing, tokens and queues of a core -/

/-- A destination of a result or a token operation (R62, R66, R67). -/
inductive Dest where
  | s (n : Nat) | sl (k : Nat) | pair (p : Nat)
  | v (c n : Nat) | vl (c k : Nat) | k (c n : Nat)
  | a (i : Nat) | n (i : Nat) | ma (i sel : Nat) | cr (n : Nat)
  | tile (n : Nat) | blk (n : Nat) | acc (n : Nat) | c (n : Nat) | xc (n : Nat)
  deriving DecidableEq, Repr

/-- One register write of a landing result (R65). -/
inductive Write where
  | sreg (n : Nat) (x : W64) | slatch (k : Nat) (x : W64)
  | pair (p : Nat) (b : Bool) | preds (x : W16)
  | vreg (c n : Nat) (x mask : W512) | vlatch (c k : Nat) (x : W512) | kreg (c n : Nat) (x : W16)
  | axis (i : Nat) (u : AxisBits) (n : W32) | norm (i : Nat) (n : W32) | setn (i : Nat) (n : W32)
  | aload (i : Nat) (u : AxisBits) (n : W32)
  | ma (i : Nat) (sel : MaSel) (x : Byte) | cr (n : Nat) (x : W64)
  | xc (i : Nat) (x : W64)
  | spad (x : Nat) (bs : List Byte)
  deriving DecidableEq, Repr

/-- A scratchpad read still to be performed at issue + 1 (R65): what it reads and where it lands. -/
inductive Load where
  | lds (t : LdTy) (d : SDst) (x : Nat)
  | ldv (cs : List Nat) (d : VDst) (x : Nat)
  | ald (i : Nat) (x : Nat)
  | adotm (cl vd : Nat) (u : AxisBits) (n : W32) (x : Nat)
  deriving DecidableEq, Repr

/-- A fixed-latency result in flight (R65): `load` is performed in the cycle after issue, `writes` in cycle `due`; `loadAt` is
the schedule cycle at which a scratchpad load issued, and `lag` by how many cycles its latency outlasts its place in the landing order of a class-A
core, at which it takes effect under cr.compat (R70). -/
structure InFlight where
  due    : Nat
  issued : Nat
  slot   : Nat
  bundle : Addr
  dests  : List Dest
  load   : Option Load
  loadAt : Option Nat
  lag    : Nat
  writes : List Write
  flags  : BitVec 9
  deriving DecidableEq, Repr

/-- Which in-order queue performs a token operation (R67). -/
inductive QueueId where
  | mem | m | d | x
  deriving DecidableEq, Repr

/-- A destination pending under a token (R67). -/
structure Pending where
  dest  : Dest
  tok   : Nat
  queue : QueueId
  deriving DecidableEq, Repr

/-- A wait token: the operations outstanding on it and the outcome so far (R67, R212). -/
structure Token where
  out      : Nat
  failed   : Bool
  unsettled : Bool
  target   : Addr
  deriving DecidableEq, Repr

/-- The causes of a trap record (R236). -/
inductive Cause where
  | illop | landcoll | tokhaz | priv | loopform | align | perm | xlate | engine
  | domainEmpty | clauseFull | parenDepth | swtrap | breakpt | watch | uncorrectable | handlerLost | watchdog
  deriving DecidableEq, Repr

/-- What a trap record holds besides the fields taken from the core at entry (R235, R237). -/
structure TrapInfo where
  cause   : Cause
  hdr     : Bool
  token   : Bool
  restart : Bool
  slots   : BitVec 12
  fetch   : Bool
  ended   : Bool
  info    : W16
  fields  : BitVec 48
  bundle  : Addr
  resume  : Addr
  va      : Addr
  sched   : W64
  kind    : BitVec 4
  unit    : Byte
  row     : W16
  col     : W16
  tok     : BitVec 3
  deriving DecidableEq, Repr

/-- An operation of the memory-order queue (R280). `done` counts the lines performed; `got` collects what a read has
read; `vc` is the issuing die's clock when the operation reached the head of the queue (R293); one that met an uncorrectable error is `stuck`: it does not complete (R288). -/
structure QOp where
  op     : Instr
  slot   : Nat
  bundle : Addr
  sched  : W64
  tok    : Option Nat
  seq    : Nat
  issued : Nat
  addr   : W64
  stride : W64
  rows   : Nat
  snap   : BitVec 131072
  got    : BitVec 131072
  done   : Nat
  b      : W64
  c      : W64
  sent   : Bool
  served : Option Clock
  vc     : Option Clock
  portAt : Option Nat
  lost   : Bool
  stuck  : Bool
  fault  : Option TrapInfo
  deriving DecidableEq, Repr

/-- A command of the matrix unit (R160, R161): `left` executions have not started and `k` is the number of the next one.
`flags` collects those of
its executions. A command in the queue with `fault` set is held with everything behind it (R175). -/
structure MCmd where
  op     : Instr
  bundle : Addr
  sched  : W64
  tok    : Nat
  seq    : Nat
  left   : Nat
  k      : Nat
  scales : BitVec 2048
  b      : W64
  tau    : W64
  delta  : W64
  seed   : W64
  flags  : BitVec 9
  lost   : Bool
  fault  : Option TrapInfo
  deriving DecidableEq, Repr

/-- The running command of the matrix unit with its operands as read at its start (R158, R160), and tile A as it stood then (R172). -/
structure MRun where
  cmd   : MCmd
  start : Nat
  a     : Nat
  b     : Nat
  tileA : TileBits
  deriving DecidableEq, Repr

/-- An operation of the domain unit (R211), with the scalars and the budget it read at issue. -/
structure DOp where
  op     : Instr
  bundle : Addr
  group  : Addr
  sched  : W64
  tok    : Option Nat
  seq    : Nat
  a      : W64
  b      : W64
  budget : Nat
  lost   : Bool
  fault  : Option TrapInfo
  deriving DecidableEq, Repr

/-- The performing operation of the domain unit (R209): the re-executions done, the cycle its present execution ends,
whether it failed with a parenthesis open and has restored the snapshot, and the flags and result it will write at completion. -/
structure DRun where
  op     : DOp
  n      : Nat
  until_ : Nat
  failed : Bool
  restored : Bool
  target : Addr
  result : W64
  flags  : BitVec 9
  fault  : Option TrapInfo
  deriving DecidableEq, Repr

/-- A snapshot of the parenthesis stack (R220). -/
structure Snapshot where
  c         : Vector W128 32
  len       : Nat
  queue     : List Nat
  unsettled : Bool
  target    : Addr
  deriving DecidableEq, Repr

/-- The domain unit (R200). `cancel` is the failed token whose WAIT ends cancellation (R222). -/
structure Domain where
  table  : List W64
  queue  : List Nat
  stack  : List Snapshot
  ops    : List DOp
  run    : Option DRun
  cancel : Option Nat
  held   : List DOp
  deriving DecidableEq, Repr

/-- A command of the copy engine (R345, R346, R350). `bytes` is the progress; `buf` a source line read and not yet
written; `peer` the consumer's core of a PPUT; `served` and `wrote` the clocks of the ports that served its reads and its writes (R293), and
`moved` says that the atomic on its pipe's descriptor has performed. -/
structure XCmd where
  op      : Instr
  bundle  : Addr
  sched   : W64
  tok     : Nat
  seq     : Nat
  fill    : Bool
  dst     : W64
  src     : W64
  len     : Nat
  rows    : Nat
  dstride : W64
  sstride : W64
  node    : W64
  desc    : W64
  started : Bool
  bytes   : Nat
  buf     : Option W512
  peer    : Nat
  served  : Option Clock
  wrote   : Option Clock
  moved   : Bool
  vc      : Option Clock
  portAt  : Option Nat
  lost    : Bool
  stuck   : Bool
  fault   : Option TrapInfo
  deriving DecidableEq, Repr

/-- A fetched issue group (R52). `bad` holds an illegal group's header flag, slot mask and field indices (R63). -/
structure Group where
  addr   : Addr
  len    : Nat
  comma  : Bool
  window : Bool
  e      : Nat
  slots  : List (SlotKind × Slot × Addr)
  bad    : Option (Bool × BitVec 12 × BitVec 48)
  deriving DecidableEq, Repr

/-- A hardware loop level (R123): the addresses of its body's groups that have been found, the address after these, the groups of
the body not yet found, the address after the body once it is known, the iterations still to begin, the groups issued in this activation as the
loop buffer holds them (R53, R122, R124), whether the
body's first group has issued (R387), and whether the level was opened in handler mode (R241). `after` counts the groups of the body that follow the group
reached, where earlier ones have not been found (R124). -/
structure Loop where
  addrs  : List Addr
  found  : Addr
  left   : Nat
  endA   : Option Addr
  remain : W64
  buf    : List Group
  begun : Bool
  inHandler : Bool
  after : Option Nat
  deriving DecidableEq, Repr

/-- What the core has done so far for the group it has reached: fetch stalls, the window drain, the comma and the wait
in progress: the polling instruction, a poll served at a port whose value has not yet returned, and one that met an uncorrectable error
(`stuck`, which a fetch may have met too); `touched` is the axis registers that the entries of its window have written (R53, R56, R127, R129, R181, R288, R293). -/
structure Reached where
  grp       : Option Group
  fetchLeft : Nat
  comma     : Bool
  drain     : Option Nat
  since     : Option W64
  polling   : Option Instr
  polled    : Option Bool
  pollAt    : Option (Bool × Clock)
  pollPort  : Option Nat
  pollFault : Option TrapInfo
  stuck : Bool
  arrived   : Bool
  released  : Bool
  broke     : Bool
  bankHeld  : Bool
  touched   : W16
  deriving DecidableEq, Repr

/-- Where a core stands (R33, R35, R240, R244, R248, R332); a step that restarts while the ready list is full stays on its core as `restarting`
until there is room (R255, R317; log entry 84). -/
inductive Status where
  | free
  | loading (cycles : Nat)
  | running
  | ended
  | trapping (t : TrapInfo)
  | saving (cycles : Nat)
  | restoring (cycles : Nat)
  | halted
  | restarting
  deriving DecidableEq, Repr

/-- The step resident on a core (R33, R39, R94, R395), with the stamps of its writes made before it was last saved and the
cores it then ran on (R297); `order` is its place in the order of dispatch (R334, R335), and `place` the core it last ran on, under which it
counts as a member of a barrier's scope while it is saved (R129, log entry 85); `orphan` says that its BAR waits for a member on a module
that has been removed (R408). -/
structure StepInfo where
  part    : Nat
  node    : W64
  number  : W64
  q       : Nat
  entry   : Addr
  member  : Option (Nat × Nat)
  isStatic : Bool
  elapsed : Nat
  limit   : Nat
  gated   : Bool
  order   : Nat
  args    : Vector W64 8
  coords  : Vector W64 6
  need    : Clock
  prior   : List Nat
  place   : Nat
  orphan  : Bool
  deriving DecidableEq, Repr

/-- The requests a core has received (R248, R334, R368, R394). -/
structure Requests where
  preempt : Bool
  yield   : Bool
  drop    : Bool
  stop    : Bool
  reset   : Option Nat
  deriving DecidableEq, Repr

/-- A watch hit of a group that has issued (R394): the range, the first byte hit, the slots that accessed it, the group, and the
schedule cycle at which it issued (R235). -/
structure WatchHit where
  range : Nat
  va    : Addr
  slots : BitVec 12
  group : Addr
  sched : W64
  deriving DecidableEq, Repr

/-- The debug block (R394), and a watch hit that has still to act. -/
structure Debug where
  trtrap  : Bool
  trstep  : Bool
  trace   : Bool
  owned   : Bool
  stopped : Bool
  bp      : Vector W64 8
  wbase   : Vector W64 4
  wlimit  : Vector W64 4
  latch   : BitVec 3
  domain  : BitVec 4
  hit     : Option WatchHit
  deriving DecidableEq, Repr

/-- The timing state of a core: its cycle, what is in flight, and its unit queues. While a group issues, `slotIdx`,
`bundleA`, `groupA` and `groupEnd` say which slot of which bundle and group is issuing, and `checked` says that the
whole group has passed its precise faults (R233). `need` and `xneed` hold the stamps that a fence and the retirement wait
for (R297, R299): those of queue operations and those of copy commands; `before` holds those of the core's operations for steps that have
left it, for which a fence waits too (R299). `steps` counts schedule cycles for the COMPAT hold, in
handler mode too (R70). -/
structure Flow where
  cyc       : Nat
  sched     : W64
  steps     : Nat
  empty     : Nat
  flight    : List InFlight
  tokens    : Vector Token 8
  pending   : List Pending
  mem       : List QOp
  memHeld   : List QOp
  mrun      : Option MRun
  mq        : List MCmd
  mheld     : List MCmd
  xq        : List XCmd
  xheld     : List XCmd
  loops     : List Loop
  suspended : List Loop
  seq       : Nat
  need      : Clock
  xneed     : Clock
  before    : Clock
  bankClaim : W16
  portBusy  : W16
  portQ     : List (Nat × Nat)
  checked   : Bool
  slotIdx   : Nat
  bundleA   : Addr
  groupA    : Addr
  groupEnd  : Addr
  deriving DecidableEq, Repr

/-- A physical core. `next` is a control transfer of the issuing group; `pcHigh` holds bits [63:60] of a branch target,
which make its fetch take XLATE (R266); `tlb` is the core's translation cache (R260, R273); `ahead` is the clock time that its cycles have taken and
that has still to pass, in 1/1008 ns (R31, R416; log entry 3). -/
structure CoreSt where
  files   : Files
  ctrl    : Ctrl
  xc      : XcRegs
  dom     : Domain
  flow    : Flow
  pc      : Addr
  pcHigh  : BitVec 4
  next    : Option W64
  reached : Reached
  status  : Status
  step    : Option StepInfo
  req     : Requests
  dbg     : Debug
  classB  : Bool
  banks   : Vector (Vector W64 32) 5
  resvCyc : Nat
  logical : Nat
  throttleNs : Nat
  tlb     : List Cached
  ahead   : Nat
  deriving DecidableEq, Repr

/-! ## The ordering machine (R289) -/

/-- A performed write (R291): its die, its stamp and the bytes of its mask. -/
structure Wr where
  die   : Nat
  stamp : Clock
  bytes : List (Nat × Byte)
  deriving DecidableEq, Repr

/-- The key of the write that placed a byte (R291), with the writing die's own stamp entry. Sum 0 is the initial key. -/
structure ByteKey where
  sum : Nat
  die : Nat
  own : Nat
  deriving DecidableEq, Repr

/-- A decrement of a node's PREDS (R326, R346): the node, the queue of the predecessor, the die on whose behalf it is made
(R296), and the predecessor whose successor edge it belongs to; none for one that a copy command makes. -/
structure HubDec where
  part  : Nat
  node  : W64
  queue : Nat
  die   : Nat
  pred  : Option W64
  deriving DecidableEq, Repr

/-- An atomic waiting at a home arbiter (R293): that of a core, or a decrement by the hub. -/
structure Waiting where
  core : Nat
  line : Nat
  dec  : Option HubDec
  deriving DecidableEq, Repr

/-- A host write sent and not yet observable (R293), of a queue operation or of a copy command (`copy`, R299). -/
structure Sent where
  core  : Nat
  copy  : Bool
  line  : Nat
  bytes : List (Nat × Byte)
  deriving DecidableEq, Repr

/-- An ingress entry (R278); a host write carries the virtual address of its page, under which it is logged (R375); one that an uncorrectable
error met is `stuck` and is never applied (R367). -/
structure Entry where
  core  : Nat
  host  : Bool
  addr  : Nat
  bytes : List Byte
  part  : Nat
  va    : Option W64
  stuck : Bool
  deriving DecidableEq, Repr

/-- The ordering machine: clocks, logs, channels, apply buffers, views, arbiters and the ingress buffers. -/
structure Order where
  vc      : Vector Clock 4
  log     : Vector (List Wr) 4
  chan    : Vector (List Wr) 16
  buf     : Vector (List Wr) 4
  mem     : Vector (AMap Byte) 4
  keys    : Vector (AMap ByteKey) 4
  lclock  : AMap Clock
  waiting : List Waiting
  ingress : Vector (List Entry) 4
  host    : AMap Byte
  sent    : List Sent
  hostRead : List Byte
  deriving DecidableEq, Repr

/-! ## The hub -/

/-- A partition entry (R360); `resv` holds its reserved bytes. -/
structure PartEntry where
  state    : W64
  cores    : BitVec 320
  ptroot   : W64
  qfirst   : W32
  qcount   : W32
  weight   : W16
  wdog     : W32
  slice    : W64
  savearea : W64
  logbase  : W64
  logcount : W32
  nonce    : BitVec 256
  lastseq  : W64
  extents  : Vector W64 16
  ranges   : Vector W64 256
  resv     : AMap Byte
  deriving DecidableEq, Repr

/-- A block with TOKENREQ (R374): its nonce, and the stamps of the hub's writes of the token once they are made. -/
structure Gate where
  nonce : BitVec 256
  sent  : Option Clock
  deriving DecidableEq, Repr

/-- A node that the hub has read and that is not final (R319, R321, R326, R328): its 256 bytes as read, its successors,
the next step to dispatch and the step count, the running gang instances (R331) with
their steps, the token gate, the progress of a copy node (R351), the stamps of a substitution's writes (R339), and the stamps and the cores
of its steps' writes, which its completion record waits for (R319). -/
structure Node where
  addr     : W64
  part     : Nat
  queue    : Nat
  block    : List Byte
  succs    : List W64
  copy     : Bool
  next     : Nat
  total    : Nat
  instances : List (Nat × Nat)
  gate     : Option Gate
  progress : Nat
  parked   : Bool
  subst    : Option Clock
  need     : Clock
  prior    : List Nat
  deriving DecidableEq, Repr

/-- A saved step in its save slot (R334, R248); `yielded` says that it returned behind its block's missing step (R335). -/
structure Saved where
  slot : Nat
  step : StepInfo
  yielded : Bool
  deriving DecidableEq, Repr

/-- An entry of a ready list (R317): a node, a saved step or gang named by a save slot, or a step to restart named by its place in
the order of dispatch. -/
inductive Key where
  | node (va : W64) | saved (slot : Nat) | restart (order : Nat)
  deriving DecidableEq, Repr

/-- A run of the elision engine (R369 to R371): its reason, the cores named, whether they are cleared, what the read-back found on
them (CORR and MISMATCH of a core), and the partition that leaves them, with its virtual function (R370). -/
structure Scrub where
  reason  : ScrubReason
  cores   : List Nat
  cleared : Bool
  found   : List (Nat × Nat × Nat)
  outgoing : Option (Nat × Nat)
  deriving DecidableEq, Repr

/-- A slice of a partition (R336): its start, its length and the time lost to a lowered clock in ninths of a ns. -/
structure SliceRun where
  start  : W64
  len    : Nat
  ninths : Nat
  deriving DecidableEq, Repr

/-- The copy node that the hub copy engine runs (R328): a line read and not yet written, the clock of its die at its start,
the clocks of the ports that served its reads and its writes, and the stamps of its writes; one that met an uncorrectable error is `stuck` (R288). -/
structure HubCopy where
  part   : Nat
  node   : W64
  buf    : Option W512
  vc     : Clock
  served : Option Clock
  wrote  : Option Clock
  need   : Clock
  portAt : Option Nat
  stuck  : Bool
  deriving DecidableEq, Repr

/-- A closed round of the dirty log (R376): its pages, whether it turned coarse, and its bitmap. -/
structure LogRound where
  pages  : List W64
  coarse : Bool
  bitmap : List Byte
  deriving DecidableEq, Repr

/-- The fault record of a parked copy node (R351): the node, the cause, the address it met and the bytes performed. -/
structure CopyFault where
  node  : W64
  cause : Cause
  va    : Addr
  progress : Nat
  deriving DecidableEq, Repr

/-- A partition command that waits for writes to be applied at every die: its code, their stamps, and the closed round that it hands over
(R362, R376, R399). -/
structure PendCmd where
  code  : Nat
  need  : Clock
  round : Option LogRound
  deriving DecidableEq, Repr

/-- A trace record that has still to be written: it waits here for the A and D updates that it needs (R271, R393). -/
structure Owed where
  part  : Nat
  die   : Nat
  va    : W64
  bytes : List Byte
  deriving DecidableEq, Repr

/-- A host work queue's descriptor (R318) with its ring. -/
structure Queue where
  part    : Nat
  prio    : Nat
  weight  : Nat
  size    : W32
  head    : W32
  tail    : W32
  wdog    : Nat
  state   : W32
  lastuse : W64
  deficit : Int
  cring   : W64
  csize   : W32
  ctail   : W32
  ring    : AMap W64
  deriving DecidableEq, Repr

/-- A partition's scheduler and register block (R317, R332, R364); `restarts` holds the steps requeued for a restart
(R255); `held` is the cores it holds, `newRanges` the range entries of a RELOAD that no FLUSH has followed (R273, R361), `missing` the blocks whose missing steps come first, in the
order of their yields (R335), `rr` the queue of each
priority that a round stopped at (R333), `orders` the steps dispatched, and `expired` the nodes whose watchdog expired (R396). `handed` is the log that the last LOGROUND handed to the physical function (R376),
`signals` counts the signals to its virtual function (R367), `copyFaults` is what its supervisor has been told of copy nodes (R351), and
`resetNeed` and `resetPrior` are the stamps and the cores whose writes a reset's completion records wait for (R319). `finals` are the nodes
that are final while predecessors of theirs are not (R322, R339), `yieldDue` gives the time by
which the next yield of each set of blocks is made (R46), and
`pend` is the command that waits for writes (R362, R399). `code` holds 256 and the byte for each address of the code that colmer has bound (R5),
and `bindNeed` the stamps of its writes, which have to be applied before a step starts (R340). -/
structure Part where
  entry    : PartEntry
  loaded   : Option PartEntry
  held     : BitVec 320
  slice    : Option SliceRun
  ranges   : Vector W64 256
  newRanges : Option (Vector W64 256)
  ptroot   : W64
  bound    : Vector (Option Nat) 256
  image    : Option Image
  tvec     : W64
  refusal  : Option Nat
  nodes    : List Node
  ready    : List Key
  saved    : List Saved
  restarts : List StepInfo
  slots    : List Nat
  reserve  : Option (W64 × W64)
  rr       : Vector (Option Nat) 8
  missing  : List W64
  orders   : Nat
  expired  : List W64
  debt     : W64
  cmdstat  : Nat
  cmdRun   : Bool
  resetting : Option ScrubReason
  resetAt  : W64
  purged   : Bool
  scrub    : Option Scrub
  svstat   : W64
  staticRun : Bool
  trbase   : W64
  trsize   : W64
  trhead   : W64
  trtail   : W64
  trdrop   : W64
  blast    : List (List Byte)
  blastcount : W64
  qsel     : W64
  token    : List Byte
  logPages : List (Nat × Nat)
  handed   : Option LogRound
  podgroup : W16
  signals  : Nat
  copyFaults : List CopyFault
  resetNeed : Clock
  resetPrior : List Nat
  finals : List W64
  yieldDue : List (List W64 × W64)
  pend : Option PendCmd
  code : AMap (BitVec 9)
  bindNeed : Clock
  deriving DecidableEq, Repr

/-- A counter bank (R378, R380, R391). -/
structure Bank where
  holder : Nat
  guest  : Nat
  stolen : Bool
  cnt    : Vector W64 8
  saveArea : Vector W64 8
  sel    : Vector W64 8
  ofs    : Vector W64 8
  deriving DecidableEq, Repr

/-- The counters of a partition on a die (R381). -/
structure DieCount where
  localReq  : W64
  remoteReq : W64
  deriving DecidableEq, Repr

/-- The hub: partitions, queues, counters and the physical function's registers (R358, R365, R381); the fields with which the running
repair started (R411); the ownership bitmaps of the fabric buffers and of the memory channels (R366), the signals to the physical function
(R367), and the copies of evicted queues in their owners' tier-1 memory (R320, log entry 83). -/
structure Hub where
  parts     : Vector Part 64
  queues    : AMap Queue
  counts    : Vector (Vector DieCount 64) 4
  ingressHigh : Vector W64 4
  evictions : Vector W64 64
  corrErr   : AMap W64
  coreErr   : AMap W64
  banks     : Vector (Vector Bank 16) 4
  hiLatch   : Vector W32 64
  seq       : W64
  repair    : W64
  ready     : Bool
  holdover  : Bool
  ptpdomain : Nat
  powerlimit : Nat
  lanethresh : W32
  hubCopy   : Option HubCopy
  owed      : List Owed
  fabricOwn : Vector W64 5
  chanOwn   : AMap W64
  pfSignals : Nat
  copies    : AMap (List Byte)
  repairRun : W64
  deriving DecidableEq, Repr

/-- The package: quads, spares, clocks, fabric and power (R406, R410, R416), the other modules of the pod that have been removed, and the pod groups that
their partitions were bound into then (R408).
Clock steps count 3.6, 3.2, 2.8, 2.0 GHz and
stopped as 0 to 4. -/
structure Package where
  quadActive : Vector (Vector Bool 18) 4
  quadRetired : Vector (Vector Bool 18) 4
  chanSpare  : List Nat
  clockStep  : Vector Nat 4
  coolSince  : Vector (Option W64) 4
  powerStep  : Nat
  lanes      : Vector (BitVec 5) 12
  removed    : List Nat
  lost       : List W16
  ptpStamps  : List (Nat × W64)
  power      : PowerState
  firmwareOk : Bool
  deriving DecidableEq, Repr

/-- Which agent moves next: a core runs one clock cycle, an event of the device happens, or time passes. -/
inductive Turn where
  | core (g : Nat)
  | act (i : Instr)
  | elapse (ns : Nat)
  deriving DecidableEq, Repr

/-- The device. `dieTlb` holds the dies' translation caches (R260); `cur` is the core whose group is issuing; `agenda` says which agents move next; `tick` counts the free
values used (log entry 3). -/
structure State where
  cores  : Vector CoreSt 288
  ord    : Order
  hub    : Hub
  pkg    : Package
  time   : W64
  dieTime : Vector W64 4
  dieTlb : Vector (List Cached) 4
  cur    : Fin 288
  agenda : List Turn
  tick   : Nat
  deriving DecidableEq, Repr

/-! ## Reset (R370, R417)

Where the manual states no value, the value is 0, the empty list or none (log entry 4). -/

/-- A cluster after a scrub (R370). -/
def Cluster.reset : Cluster :=
  { v := .replicate 32 0, k := .replicate 8 0, latch := .replicate 8 0, lost := .allOnes 8 }

/-- A matrix address register after a scrub (R157). -/
def MaReg.reset : MaReg := { left := 0, count := 0, stride := 0, base := 0, cur := 0 }

/-- The domain {0}: lo 0, hi 0, map 1 (R201, R202). -/
def domZero : W128 := 1#128 <<< 64

/-- The files of a core after a scrub (R179, R201, R370). -/
def Files.reset : Files :=
  { s := .replicate 64 0, sl := .replicate 8 0, slLost := .allOnes 8, p := 0, cl := .replicate 8 .reset,
    t := .replicate 16 0, accMain := .replicate 4 0, accPart := .replicate 4 0, openAcc := 0,
    wbCodes := .replicate 124 0, wbScales := .replicate 124 0, ma := .replicate 4 .reset,
    a := .replicate 16 0, n := .replicate 16 0x80000000#32, c := .replicate 32 domZero, spad := [] }

/-- The control registers after a scrub (R108, R370). -/
def Ctrl.reset : Ctrl :=
  { tvec := 0, handler := false, seed := 0, compat := false, dbudget := 1024, unsettled := false, pivflags := 0,
    solvtau := 0x3D70000000000000, solvdelta := 0x3E10000000000000, trec := .replicate 8 0, frozen := false,
    halt := .replicate 8 0, sticky := .replicate 12 0 }

/-- The copy engine's shadow registers after a scrub (R346). -/
def XcRegs.reset : XcRegs :=
  { kind := 0, dst := 0, src := 0, len := 0, rows := 1, dstride := 0, sstride := 0, node := 0 }

/-- An idle token (R370). -/
def Token.idle : Token := { out := 0, failed := false, unsettled := false, target := 0 }

/-- The domain unit after a scrub (R370). -/
def Domain.reset : Domain :=
  { table := [], queue := [], stack := [], ops := [], run := none, cancel := none, held := [] }

/-- No group reached. -/
def Reached.none : Reached :=
  { grp := .none, fetchLeft := 0, comma := false, drain := .none, since := .none, polling := .none, polled := .none, pollAt := .none, pollPort := .none,
    pollFault := .none, stuck := false, arrived := false, released := false, broke := false, bankHeld := false, touched := 0 }

/-- Nothing in flight and every queue empty (R370). -/
def Flow.reset : Flow :=
  { cyc := 0, sched := 0, steps := 0, empty := 0, flight := [], tokens := .replicate 8 .idle, pending := [], mem := [], memHeld := [],
    mrun := none, mq := [], mheld := [], xq := [], xheld := [], loops := [], suspended := [],
    seq := 0, need := .replicate 4 0, xneed := .replicate 4 0, before := .replicate 4 0, bankClaim := 0, portBusy := 0, portQ := [], checked := false, slotIdx := 0, bundleA := 0, groupA := 0,
    groupEnd := 0 }

/-- No request pending. -/
def Requests.none : Requests := { preempt := false, yield := false, drop := false, stop := false, reset := .none }

/-- The debug block after reset (R394). -/
def Debug.reset : Debug :=
  { trtrap := false, trstep := false, trace := false, owned := false, stopped := false, bp := .replicate 8 0,
    wbase := .replicate 4 0, wlimit := .replicate 4 0, latch := 0, domain := 0, hit := none }

/-- A core after bring-up: scrubbed, free and of class A (R69, R370, R417; log entries 4 and 5). -/
def CoreSt.reset : CoreSt :=
  { files := .reset, ctrl := .reset, xc := .reset, dom := .reset, flow := .reset, pc := 0, pcHigh := 0, next := none,
    reached := .none, status := .free, step := none, req := .none, dbg := .reset, classB := false,
    banks := .replicate 5 (.replicate 32 0), resvCyc := 0, logical := 0, throttleNs := 0, tlb := [], ahead := 0 }

/-- The ordering machine at the start (R290; memory log entry 2). -/
def Order.reset : Order :=
  { vc := .replicate 4 (.replicate 4 0), log := .replicate 4 [], chan := .replicate 16 [], buf := .replicate 4 [],
    mem := .replicate 4 [], keys := .replicate 4 [], lclock := [], waiting := [], ingress := .replicate 4 [],
    host := [], sent := [], hostRead := [] }

/-- A partition entry after the table is zeroed (R417). -/
def PartEntry.reset : PartEntry :=
  { state := 0, cores := 0, ptroot := 0, qfirst := 0, qcount := 0, weight := 0, wdog := 0, slice := 0, savearea := 0,
    logbase := 0, logcount := 0, nonce := 0, lastseq := 0, extents := .replicate 16 0, ranges := .replicate 256 0,
    resv := [] }

/-- A queue descriptor after it is zeroed (R417). -/
def Queue.reset : Queue :=
  { part := 0, prio := 0, weight := 0, size := 0, head := 0, tail := 0, wdog := 0, state := 0, lastuse := 0, deficit := 0,
    cring := 0, csize := 0, ctail := 0, ring := [] }

/-- An undefined partition (R417). -/
def Part.reset : Part :=
  { entry := .reset, loaded := none, held := 0, slice := none, ranges := .replicate 256 0, newRanges := none, ptroot := 0, bound := .replicate 256 none,
    image := none, tvec := 0, refusal := none, nodes := [], ready := [], saved := [], restarts := [], slots := [], reserve := none, rr := .replicate 8 none, missing := [],
    orders := 0, expired := [], debt := 0,
    cmdstat := 0, cmdRun := false, resetting := none, resetAt := 0, purged := false, scrub := none, svstat := 0, staticRun := false, trbase := 0,
    trsize := 0, trhead := 0, trtail := 0, trdrop := 0, blast := [], blastcount := 0, qsel := 0, token := [],
    logPages := [], handed := none, podgroup := 0, signals := 0, copyFaults := [], resetNeed := .replicate 4 0, resetPrior := [], finals := [],
    yieldDue := [], pend := none, code := [], bindNeed := .replicate 4 0 }

/-- A counter bank after reset (R378, R391). -/
def Bank.reset : Bank :=
  { holder := 0, guest := 0, stolen := false, cnt := .replicate 8 0, saveArea := .replicate 8 0, sel := .replicate 8 0,
    ofs := .replicate 8 0 }

/-- The request counts of a partition on a die after reset (R381). -/
def DieCount.reset : DieCount := { localReq := 0, remoteReq := 0 }

/-- The hub after bring-up (R365, R381, R417). -/
def Hub.reset : Hub :=
  { parts := .replicate 64 .reset, queues := [], counts := .replicate 4 (.replicate 64 .reset),
    ingressHigh := .replicate 4 0, evictions := .replicate 64 0, corrErr := [], coreErr := [], banks := .replicate 4 (.replicate 16 .reset),
    hiLatch := .replicate 64 0, seq := 0, repair := 0, ready := true, holdover := false, ptpdomain := 0,
    powerlimit := 2800, lanethresh := 1024, hubCopy := none, owed := [], fabricOwn := .replicate 5 0, chanOwn := [], pfSignals := 0,
    copies := [], repairRun := 0 }

/-- The package after bring-up: quads 0 to 15 of each die active (R31), clocks at 3.6 GHz (R416). -/
def Package.reset : Package :=
  { quadActive := .replicate 4 (Vector.mk ((List.replicate 16 true ++ [false, false]).toArray) rfl),
    quadRetired := .replicate 4 (.replicate 18 false), chanSpare := [], clockStep := .replicate 4 0,
    coolSince := .replicate 4 none, powerStep := 0, lanes := .replicate 12 0, removed := [], lost := [], ptpStamps := [], power := .p0,
    firmwareOk := true }

/-- The device right after reset (R370, R417). -/
def State.reset : State :=
  { cores := .replicate 288 .reset, ord := .reset, hub := .reset, pkg := .reset, time := 0, dieTime := .replicate 4 0,
    dieTlb := .replicate 4 [], cur := 0, agenda := [], tick := 0 }

end Sys2Proof.Machine
end

