-- ==== Sys2Proof/Machine/Regs.lean ====
section
/-! DEFINITION. Reading and writing the files of a core: constants, latches and their lost bits, predicates, axis
registers and the landing of fixed-latency results (R65, R101, R102, R139, R180, R181, R245). -/

namespace Sys2Proof.Machine

/-- A physical core of the device. -/
def State.core (s : State) (g : Nat) : CoreSt := vget .reset s.cores g
/-- Replace a physical core. -/
def State.setCore (s : State) (g : Nat) (c : CoreSt) : State := { s with cores := vset s.cores g c }
/-- The core whose group is issuing. -/
def State.cc (s : State) : CoreSt := s.core s.cur
/-- Change the core whose group is issuing. -/
def State.onCur (s : State) (f : CoreSt → CoreSt) : State := s.setCore s.cur (f s.cc)
/-- Change a core. -/
def State.onCore (s : State) (g : Nat) (f : CoreSt → CoreSt) : State := s.setCore g (f (s.core g))

namespace CoreSt

/-! ## Scalar file -/

/-- A scalar register; s0 reads zero (R102). -/
def sreg (c : CoreSt) (n : Nat) : W64 := if n = 0 then 0 else vget 0 c.files.s n
/-- A scalar latch; a lost latch reads zero (R245). -/
def slatch (c : CoreSt) (k : Nat) : W64 := if c.files.slLost.getLsbD k then 0 else vget 0 c.files.sl k
/-- A scalar source (R58). -/
def src (c : CoreSt) : SSrc → W64
  | .reg n => c.sreg n.toNat
  | .latch k => c.slatch k.toNat
/-- Reading a scalar source raises latch-lost (R245). -/
def srcFlag (c : CoreSt) : SSrc → Flg
  | .reg _ => 0
  | .latch k => .iff (c.files.slLost.getLsbD k.toNat) .latch
/-- The value a destination field names before it is written (R112, R118). -/
def old (c : CoreSt) : SDst → W64
  | .reg n => c.sreg n.toNat
  | .latch k => c.slatch k.toNat
/-- Reading a destination field raises latch-lost (R245). -/
def oldFlag (c : CoreSt) : SDst → Flg
  | .reg _ => 0
  | .latch k => .iff (c.files.slLost.getLsbD k.toNat) .latch
/-- Write a scalar register; writes to s0 are discarded (R102). -/
def setSreg (c : CoreSt) (n : Nat) (x : W64) : CoreSt :=
  if n = 0 then c else { c with files := { c.files with s := vset c.files.s n x } }
/-- Write a scalar latch and clear its lost bit (R245). -/
def setSlatch (c : CoreSt) (k : Nat) (x : W64) : CoreSt :=
  { c with files := { c.files with sl := vset c.files.sl k x, slLost := c.files.slLost &&& ~~~(1#8 <<< k) } }

/-! ## Predicates -/

/-- A predicate: p0 is true and p1 false (R101). -/
def pred (c : CoreSt) (n : Nat) : Bool := if n = 0 then true else if n = 1 then false else c.files.p.getLsbD n
/-- All predicates with the constants in place (R115). -/
def predWord (c : CoreSt) : W16 := (c.files.p &&& 0xFFFC#16) ||| 1
/-- Write a pair: the result and its complement (R104). -/
def setPair (c : CoreSt) (p : Nat) (b : Bool) : CoreSt :=
  let m : W16 := 3#16 <<< (2 * p)
  let v : W16 := (if b then 1#16 else 2#16) <<< (2 * p)
  { c with files := { c.files with p := (c.files.p &&& ~~~m) ||| v } }
/-- Whether a slot's guard holds (R61). -/
def guardOk (c : CoreSt) (gp : BitVec 4) (gs : Bool) : Bool := c.pred gp.toNat != gs

/-! ## Clusters -/

/-- A cluster. -/
def clus (c : CoreSt) (i : Nat) : Cluster := vget .reset c.files.cl i
/-- Replace a cluster. -/
def setClus (c : CoreSt) (i : Nat) (x : Cluster) : CoreSt := { c with files := { c.files with cl := vset c.files.cl i x } }
/-- A vector register of a cluster. -/
def vreg (c : CoreSt) (i n : Nat) : W512 := vget 0 (c.clus i).v n
/-- A latch of a cluster; a lost latch reads zero (R245). -/
def vlatch (c : CoreSt) (i k : Nat) : W512 := if (c.clus i).lost.getLsbD k then 0 else vget 0 (c.clus i).latch k
/-- A vector source of a cluster (R58). -/
def vsrc (c : CoreSt) (i : Nat) : VSrc → W512
  | .reg n => c.vreg i n.toNat
  | .latch k => c.vlatch i k.toNat
/-- Reading a vector source raises latch-lost (R245). -/
def vsrcFlag (c : CoreSt) (i : Nat) : VSrc → Flg
  | .reg _ => 0
  | .latch k => .iff ((c.clus i).lost.getLsbD k.toNat) .latch
/-- The value a vector destination names before it is written (R145). -/
def vold (c : CoreSt) (i : Nat) : VDst → W512
  | .reg n => c.vreg i n.toNat
  | .latch k => c.vlatch i k.toNat
/-- Reading a vector destination raises latch-lost (R145, R245). -/
def voldFlag (c : CoreSt) (i : Nat) : VDst → Flg
  | .reg _ => 0
  | .latch k => .iff ((c.clus i).lost.getLsbD k.toNat) .latch
/-- A lane mask; k0 is all ones (R135). -/
def kmask (c : CoreSt) (i n : Nat) : W16 := if n = 0 then 0xFFFF else vget 0 (c.clus i).k n
/-- Write the masked bits of a vector register (R139). -/
def setVreg (c : CoreSt) (i n : Nat) (x mask : W512) : CoreSt :=
  let cl := c.clus i
  c.setClus i { cl with v := vset cl.v n ((vget 0 cl.v n &&& ~~~mask) ||| (x &&& mask)) }
/-- Write a whole latch and clear its lost bit (R139, R245). -/
def setVlatch (c : CoreSt) (i k : Nat) (x : W512) : CoreSt :=
  let cl := c.clus i
  c.setClus i { cl with latch := vset cl.latch k x, lost := cl.lost &&& ~~~(1#8 <<< k) }
/-- Write a lane mask; k0 is constant. -/
def setK (c : CoreSt) (i n : Nat) (x : W16) : CoreSt :=
  let cl := c.clus i
  if n = 0 then c else c.setClus i { cl with k := vset cl.k n x }

/-! ## Axis registers -/

/-- The norm codes ZERO, INVALID and SATURATED (R85). -/
def nZero : W32 := 0x80000000
def nInvalid : W32 := 0x80000001
def nSat : W32 := 0x7FFFFFFF

/-- A norm register. -/
def norm (c : CoreSt) (i : Nat) : W32 := vget nZero c.files.n i
/-- The components as held. -/
def axisHeld (c : CoreSt) (i : Nat) : AxisBits := vget 0 c.files.a i
/-- The components as read: a ZERO register reads as zero (R180). -/
def axis (c : CoreSt) (i : Nat) : AxisBits := if c.norm i = nZero then 0 else c.axisHeld i
/-- Component k as a signed integer. -/
def comp (u : AxisBits) (k : Nat) : Int := sval (elem 16 k u)
/-- The sum of the squares of the components. -/
def sumSq (u : AxisBits) : Int := (List.range 128).foldl (fun x k => x + comp u k * comp u k) 0
/-- The invariant of a register (R181): it binds where N is ordinary or SATURATED. -/
def axisOk (u : AxisBits) (n : W32) : Bool :=
  n = nZero || n = nInvalid || decide ((sumSq u - 2 ^ 28).natAbs ≤ 2 ^ 18)
/-- Write the components. -/
def setAxis (c : CoreSt) (i : Nat) (u : AxisBits) : CoreSt := { c with files := { c.files with a := vset c.files.a i u } }
/-- Write the norm. -/
def setNorm (c : CoreSt) (i : Nat) (n : W32) : CoreSt := { c with files := { c.files with n := vset c.files.n i n } }
/-- Check a register written from outside the unit: its N becomes INVALID if it fails (R181). -/
def checkAxis (c : CoreSt) (i : Nat) : CoreSt := if axisOk (c.axisHeld i) (c.norm i) then c else c.setNorm i nInvalid
/-- Check the axis registers of a bitmap (R181). -/
def checkAxes (c : CoreSt) (m : W16) : CoreSt := (List.range 16).foldl (fun c i => if m.getLsbD i then c.checkAxis i else c) c
/-- The check of a landing norm, repeated in its landing cycle (R181): one that the open window has touched is checked after its last entry. -/
def checkLanding (c : CoreSt) (i : Nat) : CoreSt := if c.reached.touched.getLsbD i then c else c.checkAxis i

/-! ## Other files -/

/-- A tile. -/
def tile (c : CoreSt) (n : Nat) : TileBits := vget 0 c.files.t n
/-- Write a tile. -/
def setTile (c : CoreSt) (n : Nat) (x : TileBits) : CoreSt := { c with files := { c.files with t := vset c.files.t n x } }
/-- A matrix address register. -/
def mareg (c : CoreSt) (i : Nat) : MaReg := vget .reset c.files.ma i
/-- Write a matrix address register. -/
def setMareg (c : CoreSt) (i : Nat) (x : MaReg) : CoreSt := { c with files := { c.files with ma := vset c.files.ma i x } }
/-- A domain register. -/
def creg (c : CoreSt) (i : Nat) : W128 := vget domZero c.files.c i
/-- Write a domain register. -/
def setCreg (c : CoreSt) (i : Nat) (x : W128) : CoreSt := { c with files := { c.files with c := vset c.files.c i x } }
/-- Read scratchpad bytes. -/
def spadRead (c : CoreSt) (x n : Nat) : List Byte := amRead c.files.spad x n
/-- Write scratchpad bytes; nothing lies beyond the 2 MiB (R274). -/
def spadWrite (c : CoreSt) (x : Nat) (bs : List Byte) : CoreSt :=
  if x + bs.length ≤ Config.spadBytes then { c with files := { c.files with spad := amWrite c.files.spad x bs } } else c

/-! ## Sticky records -/

/-- Raise flags in the record of a slot kind for an operation of a bundle (R239). -/
def raise (c : CoreSt) (slot : Nat) (bundle : Addr) (f : Flg) : CoreSt :=
  { c with ctrl := { c.ctrl with sticky := vset c.ctrl.sticky slot (stickyRaise (vget 0 c.ctrl.sticky slot) bundle f) } }

/-! ## Control registers (R108) -/

/-- The loop level L, counted over the suspended levels and the handler's own (R123, R241). -/
def level (c : CoreSt) (l : Nat) : Option Loop := (c.flow.suspended ++ c.flow.loops)[l]?

/-- A control register as CRRD reads it. -/
def crRead (c : CoreSt) (n : Nat) : W64 :=
  if n = 0 then c.ctrl.tvec
  else if n = 1 then (if c.ctrl.handler then 1 else 0)
  else if n = 2 then c.ctrl.seed
  else if n = 3 then (if c.ctrl.compat then 1 else 0)
  else if n = 4 then c.ctrl.dbudget.setWidth 64
  else if n = 5 then (if c.ctrl.unsettled then 1 else 0)
  else if n = 6 then c.ctrl.pivflags.setWidth 64
  else if n = 7 then c.ctrl.solvtau
  else if n = 8 then c.ctrl.solvdelta
  else if 0x10 ≤ n ∧ n ≤ 0x13 then (match c.level (n - 0x10) with | some l => l.remain | none => 0)
  else if 0x20 ≤ n ∧ n ≤ 0x27 then vget 0 c.ctrl.trec (n - 0x20)
  else if 0x30 ≤ n ∧ n ≤ 0x3B then vget 0 c.ctrl.sticky (n - 0x30)
  else 0

/-- BUDGET as a write leaves it: bits [63:13] dropped, then clamped into 1 to 4,096 (R108). -/
def clampBudget (x : W64) : BitVec 13 :=
  let v := x.toNat % 8192
  if v = 0 then 1 else if 4096 < v then 4096 else BitVec.ofNat 13 v

/-- A control register written by CRWR where the access is allowed (R105, R108, R134). -/
def crWrite (c : CoreSt) (n : Nat) (x : W64) : CoreSt :=
  if n = 0 then { c with ctrl := { c.ctrl with tvec := x &&& ~~~(3 : W64) } }
  else if n = 2 then { c with ctrl := { c.ctrl with seed := x } }
  else if n = 3 then { c with ctrl := { c.ctrl with compat := x.getLsbD 0 } }
  else if n = 4 then { c with ctrl := { c.ctrl with dbudget := clampBudget x } }
  else if n = 6 then { c with ctrl := { c.ctrl with pivflags := 0 } }
  else if n = 7 then { c with ctrl := { c.ctrl with solvtau := x } }
  else if n = 8 then { c with ctrl := { c.ctrl with solvdelta := x } }
  else if 0x30 ≤ n ∧ n ≤ 0x3B then { c with ctrl := { c.ctrl with sticky := vset c.ctrl.sticky (n - 0x30) 0 } }
  else c

/-- CRWR takes PRIV: an RO register, or an RH register in step mode (R105). -/
def crPriv (c : CoreSt) (n : Nat) : Bool :=
  n = 1 || n = 5 || (decide (0x10 ≤ n) && decide (n ≤ 0x13)) || (decide (0x20 ≤ n) && decide (n ≤ 0x27)) ||
    ((n = 0 || n = 3) && !c.ctrl.handler)

/-- A write of a shadow register of the copy engine (R346, R347). -/
def setXc (c : CoreSt) (i : Nat) (x : W64) : CoreSt :=
  { c with xc := match i with
    | 0 => { c.xc with kind := x } | 1 => { c.xc with dst := x } | 2 => { c.xc with src := x }
    | 3 => { c.xc with len := x } | 4 => { c.xc with rows := x } | 5 => { c.xc with dstride := x }
    | 6 => { c.xc with sstride := x } | 7 => { c.xc with node := x } | _ => c.xc }

/-! ## Latches and group switches -/

/-- A write of a latch. -/
def isLatch : Write → Bool
  | .slatch _ _ | .vlatch _ _ _ => true
  | _ => false

/-- A scratchpad load still to be performed whose result lands on a latch. -/
def toLatch : Load → Bool
  | .lds _ (.latch _) _ | .ldv _ (.latch _) _ => true
  | _ => false

/-- Every latch of the core becomes lost once every result in flight has landed: one that is still to land on a latch leaves it lost (R245). -/
def loseLatches (c : CoreSt) : CoreSt :=
  { c with
    flow := { c.flow with flight := c.flow.flight.map fun f =>
      { f with load := f.load.filter fun l => !toLatch l, writes := f.writes.filter fun w => !isLatch w } }
    files := { c.files with
      slLost := .allOnes 8,
      cl := (List.range 8).foldl (fun v i => vset v i { vget Cluster.reset v i with lost := .allOnes 8 }) c.files.cl } }

/-! ## Landing (R65) -/

/-- One write of a landing result. -/
def applyWrite (c : CoreSt) : Write → CoreSt × Flg
  | .sreg n x => (c.setSreg n x, 0)
  | .slatch k x => (c.setSlatch k x, 0)
  | .pair p b => (c.setPair p b, 0)
  | .preds x => ({ c with files := { c.files with p := x &&& 0xFFFC#16 } }, 0)
  | .vreg i n x m => (c.setVreg i n x m, 0)
  | .vlatch i k x => (c.setVlatch i k x, 0)
  | .kreg i n x => (c.setK i n x, 0)
  | .axis i u n => ((c.setAxis i u).setNorm i n, 0)
  | .norm i n => ((c.setNorm i n).checkLanding i, 0)
  | .setn i n =>
    if c.norm i = nInvalid then (c, 0)
    else if c.norm i = nZero && n ≠ nZero && n ≠ nInvalid then (c.setNorm i nInvalid, .invalid)
    else ((c.setNorm i n).checkLanding i, 0)
  | .aload i u n => ((c.setAxis i u).setNorm i (if axisOk u n then n else nInvalid), .iff (!axisOk u n) .invalid)
  | .ma i sel x =>
    let m := c.mareg i
    (c.setMareg i (match sel with
      | .base => { m with base := x, cur := x }
      | .stride => { m with stride := x }
      | .count => { m with count := x, left := x }), 0)
  | .cr n x => (c.crWrite n x, 0)
  | .xc i x => (c.setXc i x, 0)
  | .spad x bs => (c.spadWrite x bs, 0)

/-- Land one result: its writes in order, then its flags (R65, R239). -/
def land (c : CoreSt) (f : InFlight) : CoreSt :=
  let r := f.writes.foldl (fun (x : CoreSt × Flg) w => let y := x.1.applyWrite w; (y.1, x.2 ||| y.2)) (c, f.flags)
  r.1.raise f.slot f.bundle r.2

end CoreSt

end Sys2Proof.Machine
end

