-- ==== Sys2Proof/Machine/Float.lean ====
section
/-! DEFINITION. The floating-point formats and their arithmetic (R80 to R100): a value is a NaN, an infinity or an exact
dyadic number, and every result is the exact one rounded once. -/

namespace Sys2Proof.FP

/-- A format: exponent bits, stored significand bits, and whether it is E4M3, which has no infinity (R80, R81). -/
structure Fmt where
  eb   : Nat
  mb   : Nat
  e4m3 : Bool
  deriving DecidableEq, Repr

/-- binary64 -/
def f64 : Fmt := ⟨11, 52, false⟩
/-- binary32 -/
def f32 : Fmt := ⟨8, 23, false⟩
/-- BF16 -/
def bf16 : Fmt := ⟨8, 7, false⟩
/-- OCP E4M3 -/
def e4m3 : Fmt := ⟨4, 3, true⟩
/-- OCP E5M2 -/
def e5m2 : Fmt := ⟨5, 2, false⟩

/-- Bias of a format. -/
def Fmt.bias (f : Fmt) : Nat := 2 ^ (f.eb - 1) - 1
/-- Width of a format. -/
def Fmt.width (f : Fmt) : Nat := 1 + f.eb + f.mb
/-- Exponent of the least normal number. -/
def Fmt.emin (f : Fmt) : Int := 1 - (f.bias : Int)
/-- Exponent of the last place of subnormals. -/
def Fmt.qmin (f : Fmt) : Int := f.emin - (f.mb : Int)
/-- Significand and last-place exponent of the largest finite value. -/
def Fmt.top (f : Fmt) : Nat × Int :=
  if f.e4m3 then (14, 5) else (2 ^ (f.mb + 1) - 1, (f.bias : Int) - (f.mb : Int))

/-- A value: a NaN, an infinity, or (−1)^neg × m × 2^e. -/
inductive FVal where
  | nan
  | inf (neg : Bool)
  | fin (neg : Bool) (m : Nat) (e : Int)
  deriving DecidableEq, Repr

/-- The pattern with a sign bit put before its other bits. -/
def Fmt.signed (f : Fmt) (neg : Bool) (bits : Nat) : Nat := (if neg then 2 ^ (f.width - 1) else 0) + bits

/-- The canonical NaN of a format (R81). -/
def Fmt.nan (f : Fmt) : Nat :=
  if f.e4m3 then 0x7F else (2 ^ f.eb - 1) * 2 ^ f.mb + 2 ^ (f.mb - 1)
/-- The infinity of a format that has one. -/
def Fmt.infBits (f : Fmt) (neg : Bool) : Nat := f.signed neg ((2 ^ f.eb - 1) * 2 ^ f.mb)
/-- The largest finite pattern. -/
def Fmt.maxBits (f : Fmt) (neg : Bool) : Nat :=
  f.signed neg (if f.e4m3 then 0x7E else (2 ^ f.eb - 1) * 2 ^ f.mb - 1)

/-- The value of a bit pattern (R80, R81, R82). -/
def unpack (f : Fmt) (x : Nat) : FVal :=
  let neg := x / 2 ^ (f.width - 1) % 2 == 1
  let ex := x / 2 ^ f.mb % 2 ^ f.eb
  let sig := x % 2 ^ f.mb
  if f.e4m3 && ex == 15 && sig == 7 then .nan
  else if !f.e4m3 && ex == 2 ^ f.eb - 1 then (if sig = 0 then .inf neg else .nan)
  else if ex = 0 then .fin neg sig f.qmin
  else .fin neg (2 ^ f.mb + sig) (f.qmin + (ex : Int) - 1)

/-- Bits of a magnitude. -/
def bitLen (m : Nat) : Nat := if m = 0 then 0 else Nat.log2 m + 1

/-- Round m × 2^e to a multiple n × 2^q under a mode, with the 16 random bits of `.rs` (R91, R94): n and whether it is
inexact. -/
def roundAt (mode : Rm5) (rnd : Nat) (neg : Bool) (m : Nat) (e q : Int) : Nat × Bool :=
  if q ≤ e then (m * 2 ^ (e - q).toNat, false)
  else
    let k := (q - e).toNat
    let n := m / 2 ^ k
    let rem := m % 2 ^ k
    let up : Bool := match mode with
      | .rne => decide (2 ^ k < 2 * rem) || (decide (2 * rem = 2 ^ k) && n % 2 == 1)
      | .rz => false
      | .ru => decide (rem ≠ 0) && !neg
      | .rd => decide (rem ≠ 0) && neg
      | .rs => decide (rnd < rem * 65536 / 2 ^ k)
    (n + (if up then 1 else 0), decide (rem ≠ 0))

/-- The value written for a magnitude beyond the largest finite one (R92). -/
def overflowBits (f : Fmt) (mode : Rm5) (neg : Bool) : Nat :=
  if f.e4m3 then f.maxBits neg
  else match mode with
    | .rne | .rs => f.infBits neg
    | .rz => f.maxBits neg
    | .ru => if neg then f.maxBits true else f.infBits false
    | .rd => if neg then f.infBits true else f.maxBits false

/-- Tininess after rounding (R95): the exact result rounded to the format's precision with an unbounded exponent range is
below the smallest normal. -/
def tiny (f : Fmt) (mode : Rm5) (rnd : Nat) (neg : Bool) (m : Nat) (e : Int) : Bool :=
  let ex := e + (bitLen m : Int) - 1
  if f.emin ≤ ex then false
  else if ex < f.emin - 1 then true
  else decide ((roundAt mode rnd neg m e (ex - (f.mb : Int))).1 < 2 ^ (f.mb + 1))

/-- Round a nonzero magnitude m × 2^e into a format (R91, R92, R94, R95): the bits and the flags. -/
def roundMag (f : Fmt) (mode : Rm5) (rnd : Nat) (neg : Bool) (m : Nat) (e : Int) : Nat × Flg :=
  let ex := e + (bitLen m : Int) - 1
  let q0 := max (ex - (f.mb : Int)) f.qmin
  let r := roundAt mode rnd neg m e q0
  let big := decide (r.1 = 2 ^ (f.mb + 1))
  let n := if big then 2 ^ f.mb else r.1
  let q := if big then q0 + 1 else q0
  if f.top.2 < q ∨ (q = f.top.2 ∧ f.top.1 < n) then
    (overflowBits f mode neg, .ovf ||| .inexact ||| .iff f.e4m3 .sat)
  else
    let bits := if n < 2 ^ f.mb then n else ((q - f.qmin).toNat + 1) * 2 ^ f.mb + (n - 2 ^ f.mb)
    (f.signed neg bits, .iff r.2 .inexact ||| .iff (r.2 && tiny f mode rnd neg m e) .unf)

/-- Round a value into a format; an exact zero keeps the sign it carries. -/
def roundVal (f : Fmt) (mode : Rm5) (rnd : Nat) : FVal → Nat × Flg
  | .nan => (f.nan, 0)
  | .inf neg => if f.e4m3 then (f.maxBits neg, .sat) else (f.infBits neg, 0)
  | .fin neg m e => if m = 0 then (f.signed neg 0, 0) else roundMag f mode rnd neg m e

/-- A product of two values, exact, with invalid for 0 × ∞ (R95). -/
def mulV : FVal → FVal → FVal × Flg
  | .nan, _ => (.nan, 0)
  | _, .nan => (.nan, 0)
  | .inf a, .inf b => (.inf (xor a b), 0)
  | .inf a, .fin b m _ => if m = 0 then (.nan, .invalid) else (.inf (xor a b), 0)
  | .fin a m _, .inf b => if m = 0 then (.nan, .invalid) else (.inf (xor a b), 0)
  | .fin a m e, .fin b n d => (.fin (xor a b) (m * n) (e + d), 0)

/-- Whether a value is a NaN. -/
def FVal.isNan : FVal → Bool
  | .nan => true
  | _ => false
/-- Whether a value is the infinity of a sign. -/
def FVal.isInf (neg : Bool) : FVal → Bool
  | .inf n => n == neg
  | _ => false
/-- Whether a value is −0. -/
def FVal.isNegZero : FVal → Bool
  | .fin true m _ => m == 0
  | _ => false
/-- Negation. -/
def FVal.neg : FVal → FVal
  | .nan => .nan
  | .inf a => .inf (!a)
  | .fin a m e => .fin (!a) m e

/-- The signed significand of a finite value. -/
def FVal.sig : FVal → Int
  | .fin neg m _ => if neg then -(m : Int) else m
  | _ => 0
/-- The exponent of a finite value. -/
def FVal.ex : FVal → Int
  | .fin _ _ e => e
  | _ => 0

/-- Add a finite value to an exact dyadic sum. -/
def addDyadic (x : Int × Int) (v : FVal) : Int × Int :=
  if v.sig = 0 then x
  else if x.1 = 0 then (v.sig, v.ex)
  else
    let e := min x.2 v.ex
    (x.1 * (2 ^ (x.2 - e).toNat : Nat) + v.sig * (2 ^ (v.ex - e).toNat : Nat), e)

/-- The exact sum of a list of addends with its zero sign under a mode (R91), and invalid for ∞ − ∞ (R95, R96). -/
def sumV (mode : Rm5) (vs : List FVal) : FVal × Flg :=
  let p := vs.any (FVal.isInf false)
  let n := vs.any (FVal.isInf true)
  if p && n then (.nan, .invalid)
  else if vs.any FVal.isNan then (.nan, 0)
  else if p then (.inf false, 0)
  else if n then (.inf true, 0)
  else
    let s := vs.foldl addDyadic (0, 0)
    if s.1 = 0 then (.fin (vs.all FVal.isNegZero || mode == .rd) 0 0, 0)
    else (.fin (decide (s.1 < 0)) s.1.natAbs s.2, 0)

/-- The rounding modes 0 to 3 among the five (R71). -/
def ofRm : Rm → Rm5
  | .rne => .rne | .rz => .rz | .ru => .ru | .rd => .rd

/-- Round a sum of addends (R91, R100), with the flags of forming the addends. -/
def sumRound (f : Fmt) (mode : Rm5) (vs : List FVal) (fl : Flg) : Nat × Flg :=
  let s := sumV mode vs
  let r := roundVal f mode 0 s.1
  (r.1, fl ||| s.2 ||| r.2)

/-- a + b rounded once (R100). -/
def add (f : Fmt) (m : Rm5) (a b : Nat) : Nat × Flg := sumRound f m [unpack f a, unpack f b] 0
/-- a − b rounded once (R100). -/
def sub (f : Fmt) (m : Rm5) (a b : Nat) : Nat × Flg := sumRound f m [unpack f a, (unpack f b).neg] 0
/-- a × b rounded once (R100). -/
def mul (f : Fmt) (m : Rm5) (a b : Nat) : Nat × Flg :=
  let p := mulV (unpack f a) (unpack f b)
  let r := roundVal f m 0 p.1
  (r.1, p.2 ||| r.2)
/-- c + a × b, fused (R100). A NaN addend gives the canonical NaN and no flag (R95). -/
def fma (f : Fmt) (m : Rm5) (c a b : Nat) : Nat × Flg :=
  let p := mulV (unpack f a) (unpack f b)
  if (unpack f c).isNan then (f.nan, 0) else sumRound f m [unpack f c, p.1] p.2

/-- Order of two values that are not NaNs: whether a < b; −0 equals +0. -/
def ltV : FVal → FVal → Bool
  | .nan, _ => false
  | _, .nan => false
  | .inf a, .inf b => a && !b
  | .inf a, .fin _ _ _ => a
  | .fin _ _ _, .inf b => !b
  | .fin a m e, .fin b n d =>
    let x := addDyadic (addDyadic (0, 0) (.fin a m e)) (FVal.neg (.fin b n d))
    decide (x.1 < 0)
/-- Equality of two values that are not NaNs. -/
def eqV (a b : FVal) : Bool := !a.isNan && !b.isNan && !ltV a b && !ltV b a
/-- a ≤ b, false on a NaN. -/
def leV (a b : FVal) : Bool := !a.isNan && !b.isNan && !ltV b a
/-- Unordered. -/
def unV (a b : FVal) : Bool := a.isNan || b.isNan

/-- Round a value to an integer under a mode: the integer and whether rounding changed it (R93). -/
def toInt (mode : Rm5) (neg : Bool) (m : Nat) (e : Int) : Int × Bool :=
  let r := roundAt mode 0 neg m e 0
  (if neg then -(r.1 : Int) else r.1, r.2)

/-- A conversion from a floating-point value to a signed integer of width w (R93). -/
def cvtToInt (w : Nat) (mode : Rm5) : FVal → BitVec w × Flg
  | .nan => (0, .invalid)
  | .inf neg => (BitVec.ofInt w (if neg then sMin w else sMax w), .invalid)
  | .fin neg m e =>
    let r := toInt mode neg m e
    if r.1 < sMin w then (BitVec.ofInt w (sMin w), .invalid)
    else if sMax w < r.1 then (BitVec.ofInt w (sMax w), .invalid)
    else (BitVec.ofInt w r.1, .iff r.2 .inexact)

/-- An integer as a value. -/
def ofInt (x : Int) : FVal := .fin (decide (x < 0)) x.natAbs 0

/-- A conversion from an integer (R93). -/
def cvtOfInt (f : Fmt) (mode : Rm5) (x : Int) : Nat × Flg := roundVal f mode 0 (ofInt x)

/-- x × s rounded once into a narrow format (R90), with the 16 random bits of `.rs`. -/
def scaleTo (f : Fmt) (mode : Rm5) (rnd : Nat) (x s : FVal) : Nat × Flg :=
  let p := mulV x s
  let r := roundVal f mode rnd p.1
  (r.1, p.2 ||| r.2)

/-- The larger of two values as minNum and maxNum of R99 and R146 order them: −0 counts as less than +0. -/
def lessTotal (a b : FVal) : Bool :=
  ltV a b || (eqV a b && a.isNegZero && !b.isNegZero)

/-- The BF16 patterns of the codebook (R86). -/
def codebook : List Nat :=
  [0xBF80, 0xBF35, 0xBF0B, 0xBED5, 0xBE9F, 0xBE5D, 0xBE02, 0xBD2C,
   0x3D2C, 0x3E02, 0x3E5D, 0x3E9F, 0x3ED5, 0x3F0B, 0x3F35, 0x3F80]
/-- The level L[c] (R86). -/
def level (c : Nat) : FVal := unpack bf16 (codebook.getD c 0)

/-- The random bits of deterministic stochastic rounding (R94). -/
def randomBits (seed : W64) (q lambda : Nat) (e : W64) : Nat :=
  let x : W64 := seed ^^^ (BitVec.ofNat 64 q <<< 56) ^^^ (BitVec.ofNat 64 lambda <<< 48) ^^^ e
  let x := x ^^^ (x >>> 33)
  let x := x * 0xA3B195C64F2D8E17
  let x := x ^^^ (x >>> 29)
  let x := x * 0x6C8E9CF570932BD5
  let x := x ^^^ (x >>> 32)
  x.toNat % 65536
/-- The element index e of R94. -/
def elementIndex (cyc : Nat) (j : Nat) : W64 := BitVec.ofNat 64 (cyc % 2 ^ 41 * 128 + j)

end Sys2Proof.FP
end

