-- ==== Sys2Proof/Machine/Trans.lean ====
section
/-! DEFINITION. Correctly rounded reciprocals, square roots, powers of two and logarithms (R147, R183): exact integer
bounds of the real value, rounded when both bounds round alike (log entry 10). -/

namespace Sys2Proof.FP

/-- Bits of the integer square root, most significant first. -/
def isqrtLoop : Nat → Nat → Nat → Nat
  | 0, _, r => r
  | b + 1, n, r => if (r + 2 ^ b) * (r + 2 ^ b) ≤ n then isqrtLoop b n (r + 2 ^ b) else isqrtLoop b n r
/-- Floor of the square root. -/
def isqrt (n : Nat) : Nat := isqrtLoop ((bitLen n + 1) / 2) n 0

/-- Bounds of 2^(num / 2^k) at scale 2^p, from the square roots of 2: `j` bits of `num` are left. -/
def pow2Loop (p : Nat) : Nat → Nat → Nat × Nat → Nat × Nat → Nat × Nat
  | 0, _, _, acc => acc
  | j + 1, num, root, acc =>
    let r := (isqrt (root.1 * 2 ^ p), isqrt (root.2 * 2 ^ p) + 1)
    pow2Loop p j num r (if num.testBit j then (acc.1 * r.1 / 2 ^ p, acc.2 * r.2 / 2 ^ p + 1) else acc)
/-- Bounds of 2^(num / 2^k), num < 2^k, at scale 2^p. -/
def pow2Bounds (p k num : Nat) : Nat × Nat := pow2Loop p k num (2 * 2 ^ p, 2 * 2 ^ p) (2 ^ p, 2 ^ p)

/-- Fraction bits of log2 of a number in [1, 2) with bounds at scale 2^p, by repeated squaring; none where the bounds
cannot tell a bit. -/
def log2Loop (p : Nat) : Nat → Nat × Nat → Nat → Option Nat
  | 0, _, k => some k
  | n + 1, y, k =>
    let s := (y.1 * y.1 / 2 ^ p, y.2 * y.2 / 2 ^ p + 1)
    if 2 * 2 ^ p ≤ s.1 then log2Loop p n (s.1 / 2, s.2 / 2 + 1) (2 * k + 1)
    else if s.2 < 2 * 2 ^ p then log2Loop p n s (2 * k)
    else none
/-- The first `n` fraction bits of log2(m / 2^(bitLen m − 1)). -/
def log2Bits (p n m : Nat) : Option Nat :=
  let l := bitLen m - 1
  let y := m * 2 ^ p / 2 ^ l
  log2Loop p n (y, if y * 2 ^ l = m * 2 ^ p then y else y + 1) 0

/-- The precisions tried, in order. -/
def precisions : List Nat := [192, 512, 2048]

/-- A reciprocal of m × 2^e rounded to nearest even: quotient bits with a sticky bit (R147). -/
def recip (f : Fmt) (neg : Bool) (m : Nat) (e : Int) : Nat × Flg :=
  let k := f.mb + 4 + bitLen m
  let q := 2 ^ k / m
  roundMag f .rne 0 neg (2 * q + (if 2 ^ k % m = 0 then 0 else 1)) (-e - (k : Int) - 1)

/-- 1/√(m × 2^e) rounded to nearest even (R147). -/
def rsqrt (f : Fmt) (m : Nat) (e : Int) : Nat × Flg :=
  let odd := decide (e % 2 = 1)
  let m := if odd then 2 * m else m
  let e := if odd then e - 1 else e
  let k := f.mb + 4 + bitLen m
  let q := 2 ^ (2 * k) / m
  let r := isqrt q
  let exact := decide (r * r = q) && decide (2 ^ (2 * k) % m = 0)
  roundMag f .rne 0 false (2 * r + (if exact then 0 else 1)) (-(k : Int) - e / 2 - 1)

/-- 2^(n + num / 2^k) rounded to nearest even at one of the precisions, none where no precision decides. -/
def exp2At (f : Fmt) (n : Int) (k num : Nat) : List Nat → Option (Nat × Flg)
  | [] => none
  | p :: ps =>
    let b := pow2Bounds p k num
    let lo := roundMag f .rne 0 false (2 * b.1 + 1) (n - (p : Int) - 1)
    let hi := roundMag f .rne 0 false (2 * b.2 - 1) (n - (p : Int) - 1)
    if lo = hi then some lo else exp2At f n k num ps

/-- log2 of m × 2^e, m not a power of two, rounded to nearest even. -/
def log2At (f : Fmt) (m : Nat) (e : Int) : List Nat → Option (Nat × Flg)
  | [] => none
  | p :: ps =>
    match log2Bits p 96 m with
    | none => log2At f m e ps
    | some k =>
      let v : Int := (e + (bitLen m : Int) - 1) * (2 ^ 96 : Nat) + k
      some (if 0 ≤ v then roundMag f .rne 0 false (2 * v.natAbs + 1) (-97)
        else roundMag f .rne 0 true (2 * v.natAbs - 1) (-97))

/-- VRCP of an FP32 pattern (R147). -/
def vrcp (x : W32) : Nat × Flg :=
  match unpack f32 x.toNat with
  | .nan => (f32.nan, 0)
  | .inf neg => (f32.signed neg 0, 0)
  | .fin neg m e => if m = 0 then (f32.infBits neg, .divz) else recip f32 neg m e

/-- VRSQRT of an FP32 pattern (R147). -/
def vrsqrt (x : W32) : Nat × Flg :=
  match unpack f32 x.toNat with
  | .nan => (f32.nan, 0)
  | .inf neg => if neg then (f32.nan, .invalid) else (0, 0)
  | .fin neg m e =>
    if m = 0 then (f32.infBits neg, .divz)
    else if neg then (f32.nan, .invalid) else rsqrt f32 m e

/-- VEXP2 of an FP32 pattern; `tick` numbers the free value (R147, log entry 10). -/
def vexp2 (tick : Nat) (x : W32) : Nat × Flg :=
  match unpack f32 x.toNat with
  | .nan => (f32.nan, 0)
  | .inf neg => (if neg then 0 else f32.infBits false, 0)
  | .fin neg m e =>
    let k := (-e).toNat
    let a : Nat := if 0 ≤ e then m * 2 ^ e.toNat else m
    let v : Int := if neg then -(a : Int) else a
    let n : Int := v / (2 ^ k : Nat)
    let num : Nat := (v % (2 ^ k : Nat)).toNat
    if m = 0 then (f32.signed false 0x3F800000, 0)
    else if 200 < n then roundMag f32 .rne 0 false 1 200
    else if n < -200 then roundMag f32 .rne 0 false 1 (-200)
    else if num = 0 then roundMag f32 .rne 0 false 1 n
    else match exp2At f32 n k num precisions with
      | some r => r
      | none => (Config.freeRound tick x % 2 ^ 32, .inexact)

/-- VLOG2 of an FP32 pattern; `tick` numbers the free value (R147, log entry 10). -/
def vlog2 (tick : Nat) (x : W32) : Nat × Flg :=
  match unpack f32 x.toNat with
  | .nan => (f32.nan, 0)
  | .inf neg => if neg then (f32.nan, .invalid) else (f32.infBits false, 0)
  | .fin neg m e =>
    if m = 0 then (f32.infBits true, .divz)
    else if neg then (f32.nan, .invalid)
    else if m = 2 ^ (bitLen m - 1) then cvtOfInt f32 .rne (e + (bitLen m : Int) - 1)
    else match log2At f32 m e precisions with
      | some r => r
      | none => (Config.freeRound tick x % 2 ^ 32, .inexact)

end Sys2Proof.FP
end

