-- ==== Sys2Proof/Machine/AxisArith.lean ====
section
/-! DEFINITION. The arithmetic of the axis unit: renormalisation (R183), norm arithmetic (R182), conversion to FP32 lanes
(R187) and cosines (R188). Values are exact or enclosed between exact integer bounds (log entry 10). -/

namespace Sys2Proof.Axis

open Sys2Proof.FP

/-- A direction and its norm with the flags raised. -/
structure AxRes where
  u  : AxisBits
  n  : W32
  fl : Flg
  deriving DecidableEq, Repr

/-- Pack 128 components. -/
def packComps (us : List Int) : AxisBits := packElems 2048 (us.map fun x => BitVec.ofInt 16 x)
/-- The components of a direction. -/
def comps (u : AxisBits) : List Int := (List.range 128).map fun k => Machine.CoreSt.comp u k

/-- The largest and smallest ordinary norms (R85). -/
def nMax : Int := 2147483646
def nMin : Int := -2147483646

/-- A norm result confined to the ordinary range (R182). -/
def confine (n : Int) : W32 × Flg :=
  if nMax < n then (Machine.CoreSt.nSat, .sat) else if n < nMin then (Machine.CoreSt.nZero, .unf) else (BitVec.ofInt 32 n, 0)

/-- A renormalised register (R182, R183): a norm below the range writes the components as zero. -/
def finish (us : List Int) (n : Int) : AxRes :=
  let c := confine n
  { u := if c.1 = Machine.CoreSt.nZero then 0 else packComps us, n := c.1, fl := c.2 }

/-- The result INVALID of a renormalising operation (R194). -/
def invalidRes (fl : Flg) : AxRes := { u := 0, n := Machine.CoreSt.nInvalid, fl := fl }
/-- The result ZERO. -/
def zeroRes : AxRes := { u := 0, n := Machine.CoreSt.nZero, fl := 0 }

/-- rne(65536 × ½ log2 S) for S = m × 2^e, where precision p decides it (R183). A tie arises only at an exact power of two, where the value
is an integer, so that the floor of 65536 × log2 S gives it. -/
def halfLog (p m : Nat) (e : Int) : Option Int :=
  let l := bitLen m - 1
  let w := p + l
  if m = 0 then none
  else (log2Loop w 16 (m * 2 ^ w / 2 ^ l, m * 2 ^ w / 2 ^ l) 0).map fun k => ((e + (l : Int)) * 65536 + (k : Int) + 1) / 2

/-- Round a component lying between lo and hi, times 2^(m / 65536) × 2^e, to an integer (R183): none where the bounds
round apart. -/
def roundComp (p : Nat) (b : Nat × Nat) (exact : Bool) (lo hi : Int) (e : Int) : Option Int :=
  let r (x : Int) (w : Nat) (e : Int) : Int :=
    let n := (roundAt .rne 0 (decide (x < 0)) (x.natAbs * w) e 0).1
    if x < 0 then -(n : Int) else n
  let a := if exact then r lo 1 e else if lo < 0 then r lo b.2 (e - p) else r lo b.1 (e - p)
  let c := if exact then r hi 1 e else if hi < 0 then r hi b.1 (e - p) else r hi b.2 (e - p)
  if a = c then some a else none

/-- All of a list, or none. -/
def allSome : List (Option Int) → Option (List Int)
  | [] => some []
  | none :: _ => none
  | some x :: xs => (allSome xs).map fun ys => x :: ys

/-- A vector at a precision: bounds of its components times 2^e, and, for a norm n, its components divided by 2^(n / 65536) and rounded. -/
structure VecAt where
  ws    : List (Int × Int)
  e     : Int
  round : Int → List (Option Int)

/-- Components lying between bounds, times 2^e, over 2^(n / 65536), in units of 2^-14, rounded (R183). -/
def scaledComp (p : Nat) (e : Int) (n : Int) : Int × Int → Option Int :=
  let r := ((-n) % 65536).toNat
  let b := pow2Bounds p 16 r
  fun w => roundComp p b (decide (r = 0)) w.1 w.2 (e + 14 + (-n) / 65536)

/-- Renormalise a vector times 2^(base / 65536) at one precision (R183): none where the bounds of its length or of a component round
apart. -/
def renormAt (p : Nat) (v : VecAt) (base : Int) : Option AxRes :=
  let sq (w : Int × Int) : Nat × Nat :=
    if w.1 ≤ 0 ∧ 0 ≤ w.2 then (0, (max w.1.natAbs w.2.natAbs) ^ 2)
    else ((min w.1.natAbs w.2.natAbs) ^ 2, (max w.1.natAbs w.2.natAbs) ^ 2)
  let lo := v.ws.foldl (fun x w => x + (sq w).1) 0
  let hi := v.ws.foldl (fun x w => x + (sq w).2) 0
  match halfLog p lo (2 * v.e), halfLog p hi (2 * v.e) with
  | some n, some n' => if n = n' then (allSome (v.round n)).map fun us => finish us (base + n) else none
  | _, _ => none

/-- Renormalise at the first precision that decides; `mk` gives the vector at a precision. -/
def renormLoop (mk : Nat → VecAt) (base : Int) (tick : Nat) : List Nat → AxRes
  | [] => { u := packComps ((List.range 128).map fun (i : Nat) => (Config.freeRound tick (BitVec.ofNat 32 i) : Int)),
            n := BitVec.ofNat 32 (Config.freeRound tick 0xFFFF), fl := 0 }
  | p :: ps => match renormAt p (mk p) base with
    | some r => r
    | none => renormLoop mk base tick ps

/-- Renormalise an exact dyadic vector w × 2^e × 2^(base / 65536). -/
def renorm (tick : Nat) (ws : List Int) (e base : Int) : AxRes :=
  if ws.all (fun x => x == 0) then zeroRes
  else
    let bs := ws.map fun x => (x, x)
    renormLoop (fun p => { ws := bs, e := e, round := fun n => bs.map (scaledComp p e n) }) base tick precisions

/-- AFROMV: gather FP32 elements and renormalise (R186). -/
def fromLanes (tick : Nat) (xs : List W32) : AxRes :=
  let vs := xs.map fun x => unpack f32 x.toNat
  if vs.any (fun v => v.isNan || v.isInf false || v.isInf true) then invalidRes .invalid
  else renorm tick (vs.map fun v => v.sig * (2 ^ (v.ex + 149).toNat : Nat)) (-149) 0

/-- a + b for ordinary registers of different norms (R192): `na` and `nb` are the norms. With c = 2^((ny − nx) / 65536) irrational, a component
x + y × c is rational only where x or y is 0: one with x = 0 is scaled as y alone, so that every rational value is rounded exactly. The
length is rational where c² is and Σ x × y = 0; it is never a tie. -/
def addVec (tick : Nat) (a b : List Int) (na nb : Int) : AxRes :=
  -- the operand of larger norm comes first
  let (x, y, nx, ny) := if nb ≤ na then (a, b, na, nb) else (b, a, nb, na)
  let d := nx - ny
  let q := (d / 65536).toNat
  let r := (d % 65536).toNat
  if r = 0 then
    renorm tick ((x.zip y).map fun v => v.1 * (2 ^ q : Nat) + v.2) (-14 - (q : Int)) nx
  else if (x ++ y).all (fun v => v == 0) then zeroRes
  else
    -- c = 2^(−d / 65536) = 2^(−q − 1) × 2^((65536 − r) / 65536)
    let mk (p : Nat) : VecAt :=
      let c := pow2Bounds p 16 (65536 - r)
      let lo : Nat := c.1 / 2 ^ (q + 1)
      let hi : Nat := c.2 / 2 ^ (q + 1) + 1
      let bound (v : Int × Int) : Int × Int :=
        let t : Int := v.1 * ((2 ^ p : Nat) : Int)
        if v.2 = 0 then (t, t)
        else if v.2 < 0 then (t + v.2 * (hi : Int), t + v.2 * (lo : Int))
        else (t + v.2 * (lo : Int), t + v.2 * (hi : Int))
      let e : Int := -14 - (p : Int)
      { ws := (x.zip y).map bound, e := e
        round := fun n =>
          let one := scaledComp p e n
          let alone := scaledComp p (-14) (n + d)
          (x.zip y).map fun v => if v.1 = 0 then alone (v.2, v.2) else one (bound v) }
    renormLoop mk nx tick (precisions ++ [q + 512])

/-- The class of a norm code. -/
inductive NKind where
  | zero | invalid | sat | ord
  deriving DecidableEq, Repr

/-- Classify a norm code (R85). -/
def nKind (n : W32) : NKind :=
  if n = Machine.CoreSt.nZero then .zero else if n = Machine.CoreSt.nInvalid then .invalid
  else if n = Machine.CoreSt.nSat then .sat else .ord

/-- AADD and ASUB with the special operands of R194. -/
def addSub (tick : Nat) (sub : Bool) (ua : AxisBits) (na : W32) (ub : AxisBits) (nb : W32) : AxRes :=
  let a := comps ua
  let b := if sub then (comps ub).map fun x => -x else comps ub
  match nKind na, nKind nb with
  | .invalid, _ => invalidRes .invalid
  | _, .invalid => invalidRes .invalid
  | .sat, .sat => invalidRes .invalid
  | .sat, _ => { u := packComps a, n := Machine.CoreSt.nSat, fl := .sat }
  | _, .sat => { u := packComps b, n := Machine.CoreSt.nSat, fl := .sat }
  | .zero, .zero => zeroRes
  | .zero, .ord => renorm tick b (-14) (sval nb)
  | .ord, .zero => renorm tick a (-14) (sval na)
  | .ord, .ord => addVec tick a b (sval na) (sval nb)

/-- ALERP (R193, R194). -/
def lerp (tick : Nat) (ua : AxisBits) (na : W32) (ub : AxisBits) (nb : W32) (t : W32) : AxRes :=
  if nKind na = .invalid || nKind nb = .invalid then invalidRes .invalid
  else
    match unpack f32 t.toNat with
    | .nan => invalidRes .invalid
    | .inf _ => invalidRes .invalid
    | .fin neg m e =>
      let t : Int := if neg then -(m : Int) else m
      let k := (e + 149).toNat
      let a := if nKind na = .zero then List.replicate 128 0 else comps ua
      let b := if nKind nb = .zero then List.replicate 128 0 else comps ub
      renorm tick ((a.zip b).map fun v => v.1 * (2 ^ 149 : Nat) + t * v.2 * (2 ^ k : Nat)) (-14 - 149) 0

/-- 2^(N / 65536) × u × 2^-14 rounded into FP32 at one of the precisions (R187). -/
def laneAt (n : Int) (u : Int) : List Nat → Option (Nat × Flg)
  | [] => none
  | p :: ps =>
    let q := n / 65536
    let r := (n % 65536).toNat
    let neg := decide (u < 0)
    let m := u.natAbs
    if r = 0 then some (roundMag f32 .rne 0 neg m (q - 14))
    else
      let b := pow2Bounds p 16 r
      let lo := roundMag f32 .rne 0 neg (2 * (m * b.1) + 1) (q - 14 - (p : Int) - 1)
      let hi := roundMag f32 .rne 0 neg (2 * (m * b.2) - 1) (q - 14 - (p : Int) - 1)
      if lo = hi then some lo else laneAt n u ps

/-- One lane of ATOV (R187, R194). -/
def lane (tick : Nat) (u : AxisBits) (n : W32) (k : Nat) : Nat × Flg :=
  let x := Machine.CoreSt.comp u k
  match nKind n with
  | .zero => (0, 0)
  | .invalid => (f32.nan, .invalid)
  | .sat => if x = 0 then (0, 0) else (f32.infBits (decide (x < 0)), .ovf ||| .inexact)
  | .ord =>
    if x = 0 then (0, 0)
    else match laneAt (sval n) x precisions with
      | some r => r
      | none => (Config.freeRound tick (BitVec.ofNat 32 k) % 2 ^ 32, .inexact)

/-- The cosine of two registers as FP32 (R188, R194). -/
def cosine (ua : AxisBits) (na : W32) (ub : AxisBits) (nb : W32) : Nat × Flg :=
  if nKind na = .invalid || nKind nb = .invalid then (f32.nan, .invalid)
  else if nKind na = .zero || nKind nb = .zero then (0, .axun)
  else
    let s := ((comps ua).zip (comps ub)).foldl (fun x v => x + v.1 * v.2) 0
    if s = 0 then (0, 0) else roundMag f32 .rne 0 (decide (s < 0)) s.natAbs (-28)

/-- ASCL and ASCLI: add to a norm (R190, R194). -/
def scale (n : W32) (k : Int) : W32 × Flg :=
  match nKind n with
  | .ord => confine (sval n + k)
  | _ => (n, 0)

end Sys2Proof.Axis
end

