-- ==== Sys2Proof/Machine/Memory.lean ====
section
/-! DEFINITION. Memory: the physical map (R261), the core windows (R262, R263), translation (R266 to R273) and the parts
of the ordering machine that every step shares (R289 to R293, R301). -/

namespace Sys2Proof.Machine

/-! ## Clocks, views and writes -/

/-- Entry k of a clock, as the natural number it is (R290). -/
def clk (v : Clock) (k : Nat) : Nat := (vget 0 v k).toNat
/-- A clock with entry k set. -/
def clkPut (v : Clock) (k x : Nat) : Clock := vset v k (BitVec.ofNat 64 x)
/-- A clock at least another in every entry. -/
def clkGe (a b : Clock) : Bool := (List.range 4).all fun k => decide (clk b k ≤ clk a k)
/-- The join of two clocks. -/
def clkMax (a b : Clock) : Clock := (List.range 4).foldl (fun v k => clkPut v k (max (clk a k) (clk b k))) a
/-- The zero clock (R290). -/
def clkZero : Clock := .replicate 4 0
/-- The sum of a stamp's entries (R291). -/
def clkSum (v : Clock) : Nat := clk v 0 + clk v 1 + clk v 2 + clk v 3

namespace Order

/-- A die's clock. -/
def dieClock (o : Order) (d : Nat) : Clock := vget clkZero o.vc d
/-- A die's view. -/
def view (o : Order) (d : Nat) : AMap Byte := vget [] o.mem d
/-- The keys of a die's view. -/
def viewKeys (o : Order) (d : Nat) : AMap ByteKey := vget [] o.keys d

/-- The initial key (R290). -/
def keyZero : ByteKey := { sum := 0, die := 0, own := 0 }
/-- Order of keys: first by sum, then by die (R291). -/
def keyLt (a b : ByteKey) : Bool := decide (a.sum < b.sum) || (a.sum == b.sum && decide (a.die < b.die))

/-- Place the bytes of a write in a view where its key is greater (R293 APPLY). -/
def place (k : ByteKey) : List (Nat × Byte) → AMap Byte × AMap ByteKey → AMap Byte × AMap ByteKey
  | [], v => v
  | (a, b) :: bs, v =>
    place k bs (if keyLt (amGet keyZero v.2 a) k then (amSet 0 v.1 a b, amSet keyZero v.2 a k) else v)

/-- Take a write into a die's view. -/
def intoView (o : Order) (j : Nat) (w : Wr) : Order :=
  let k : ByteKey := { sum := clkSum w.stamp, die := w.die, own := clk w.stamp w.die }
  let v := place k w.bytes (o.view j, o.viewKeys j)
  { o with mem := vset o.mem j v.1, keys := vset o.keys j v.2 }

/-- WRITE: a die performs a write (R291, R293): the clock, the log, the view, and a copy onto every channel. -/
def perform (o : Order) (d : Nat) (bytes : List (Nat × Byte)) : Order :=
  let v := o.dieClock d
  let stamp := clkPut v d (clk v d + 1)
  let w : Wr := { die := d, stamp := stamp, bytes := bytes }
  let o := { o with vc := vset o.vc d stamp, log := vset o.log d (vget [] o.log d ++ [w]) }
  let o := o.intoView d w
  (List.range 4).foldl (fun o j =>
    if j = d then o else { o with chan := vset o.chan (4 * d + j) (vget [] o.chan (4 * d + j) ++ [w]) }) o

/-- The line clock of a memory line (R289). -/
def lineClock (o : Order) (line : Nat) : Clock := amGet clkZero o.lclock line

/-- DELIVER: the oldest write of a channel into the apply buffer. -/
def deliver (o : Order) (i j : Nat) : Option Order :=
  if i < 4 ∧ j < 4 ∧ i ≠ j then
    match vget [] o.chan (4 * i + j) with
    | [] => none
    | w :: ws => some { o with chan := vset o.chan (4 * i + j) ws, buf := vset o.buf j (vget [] o.buf j ++ [w]) }
  else none

/-- Whether a write is deliverable at a die (R292). -/
def deliverable (o : Order) (j : Nat) (w : Wr) : Bool :=
  (List.range 4).all fun k =>
    if k = w.die then decide (clk w.stamp k = clk (o.dieClock j) k + 1) else decide (clk w.stamp k ≤ clk (o.dieClock j) k)

/-- APPLY: entry k of the apply buffer of die j (R293). -/
def applyAt (o : Order) (j k : Nat) : Option Order :=
  if j < 4 then
    match (vget [] o.buf j)[k]? with
    | none => none
    | some w =>
      if o.deliverable j w then
        let o := { o with buf := vset o.buf j ((vget [] o.buf j).eraseIdx k),
                          vc := vset o.vc j (clkPut (o.dieClock j) w.die (clk w.stamp w.die)) }
        some (o.intoView j w)
      else none
  else none

/-- Read bytes of a view. -/
def readView (o : Order) (d a n : Nat) : List Byte := amRead (o.view d) a n
/-- The largest stamp entries of the writes that placed some bytes, by die (R293 READ, R299). -/
def readNeed (o : Order) (d a n : Nat) (need : Clock) : Clock :=
  (List.range n).foldl (fun v i =>
    let k := amGet keyZero (o.viewKeys d) (a + i)
    clkPut v k.die (max (clk v k.die) k.own)) need

/-- Every write up to these stamp entries has been applied at every die (R299). -/
def appliedAll (o : Order) (need : Clock) : Bool :=
  (List.range 4).all fun j => (List.range 4).all fun d => decide (clk need d ≤ clk (o.dieClock j) d)

end Order

/-- Bytes at consecutive addresses. -/
def cellsAt (a : Nat) : List Byte → List (Nat × Byte)
  | [] => []
  | b :: bs => (a, b) :: cellsAt (a + 1) bs

/-! ## The physical map (R261, R264) -/

/-- The path of an access: a memory line with its home die (none for tier 2), a host line, a scratchpad byte of a core, or
a register-file window of a core. -/
inductive Loc where
  | mem (home : Option Nat)
  | host
  | port (g off : Nat)
  | reg (g off : Nat)
  deriving DecidableEq, Repr

/-- The die whose stacks hold a tier-1 line (R264). -/
def tierDie (pa : Nat) : Nat := (pa / 4096 % 4) ^^^ (pa / 2 ^ 20 % 4) ^^^ (pa / 2 ^ 28 % 4)
/-- Tier 1 (R261). -/
def inTier1 (pa : Nat) : Bool := decide (pa < 0xC000000000)
/-- Tier 2 (R261). -/
def inTier2 (pa : Nat) : Bool := decide (0x100000000000 ≤ pa) && decide (pa < 0x118000000000)
/-- The host window (R261). -/
def inHost (pa : Nat) : Bool := decide (0x200000000000 ≤ pa) && decide (pa < 0x300000000000)
/-- The on-chip map: core and offset (R261). -/
def onChip (pa : Nat) : Option (Nat × Nat) :=
  if 0xF00000000000 ≤ pa ∧ pa < 0xF00120000000 then
    some ((pa - 0xF00000000000) / 2 ^ 24, (pa - 0xF00000000000) % 2 ^ 24)
  else none
/-- The address of a core's window. -/
def windowBase (g : Nat) : Nat := 0xF00000000000 + g * 2 ^ 24

/-- The path of an address under a placement, where the table of R264 allows it. -/
def placed (pa place home : Nat) : Option Loc :=
  match place with
  | 0 => if inTier1 pa then some (.mem (some (tierDie pa))) else none
  | 1 =>
    if inTier1 pa then (if tierDie pa = home then some (.mem (some home)) else none)
    else match onChip pa with
      | some (g, off) =>
        if Config.dieOf g = home then some (if off < Config.spadBytes then .port g off else .reg g off) else none
      | none => none
  | 2 => if inTier2 pa then some (.mem none) else none
  | 3 => if inHost pa then some .host else none
  | _ => none

/-- The die on whose behalf the hub acts for a memory line (R296, R298). -/
def homeDie (pa : Nat) : Nat := if inTier1 pa then tierDie pa else 0

/-! ## Page tables (R266 to R270) -/

/-- A 64-bit word from bytes. -/
def word64 (bs : List Byte) : W64 := ofBytes 64 bs

/-- The levels of the page table: index shift and index count (R268). -/
def ptLevels : List (Nat × Nat) := [(48, 4096), (39, 512), (30, 512), (21, 512), (12, 512)]

/-- Bit of an entry. -/
def pteBit (e : W64) (b : Nat) : Bool := e.getLsbD b
/-- The frame or next table of an entry. -/
def ptePA (e : W64) : Nat := e.toNat / 4096 % 2 ^ 40 * 4096
/-- PLACE of an entry (R269). -/
def ptePlace (e : W64) : Nat := e.toNat / 2 ^ 58 % 4
/-- HOME of an entry (R269). -/
def pteHome (e : W64) : Nat := e.toNat / 2 ^ 56 % 4
/-- The reserved fields of a leaf are zero (R269). -/
def pteReservedOk (e : W64) : Bool :=
  e.toNat / 2 ^ 60 = 0 && e.toNat / 2 ^ 52 % 16 = 0 && e.toNat / 2 ^ 9 % 8 = 0

/-- A leaf found by a walk: its level, the address of the entry, and the entry. -/
structure Leaf where
  level : Nat
  addr  : Nat
  entry : W64
  deriving DecidableEq, Repr

/-- A table lies in tier 1 or tier 2 (R260). -/
def inMemory (pa : Nat) : Bool := inTier1 pa || inTier2 pa

/-- The 16 entries of a run with C = 1 agree (R270). -/
def runOk (rd : Nat → W64) (addr : Nat) (e : W64) : Bool :=
  let base := addr / 128 * 128
  let norm (x : W64) : W64 := x &&& ~~~(0xF030#64)
  (List.range 16).all fun i =>
    let x := rd (base + 8 * i)
    pteBit x 6 && x.toNat / 4096 % 16 = i && norm x = norm e

/-- Walk the page table from a table at a level (R268, R269, R270); none is XLATE. -/
def walkFrom (rd : Nat → W64) (va : Nat) : Nat → List (Nat × Nat) → Nat → Option Leaf
  | _, [], _ => none
  | l, (sh, n) :: ls, table =>
    let addr := table + 8 * (va / 2 ^ sh % n)
    if !inMemory addr then none else
    let e := rd addr
    let leaf := l = 4 || pteBit e 8
    if !pteBit e 0 then none
    else if leaf then
      if l < 2 || !pteReservedOk e then none
      else if ptePA e % 2 ^ sh ≠ 0 then none
      else if l = 4 && pteBit e 6 && !runOk rd addr e then none
      else some { level := l, addr := addr, entry := e }
    else walkFrom rd va (l + 1) ls (ptePA e)

/-- Walk from the partition's root. -/
def walk (rd : Nat → W64) (root : W64) (va : Nat) : Option Leaf :=
  walkFrom rd va 0 ptLevels (root.toNat / 4096 % 2 ^ 40 * 4096)

/-- Bytes that one leaf of a level covers. -/
def pageSize (level : Nat) : Nat := if level = 2 then 2 ^ 30 else if level = 3 then 2 ^ 21 else 4096

/-- A range entry: base page, limit page, offset and attributes (R267). -/
def rangeMatch (r : Vector W64 256) (i va : Nat) : Option (W64 × W64) :=
  let w0 := vget 0 r (4 * i)
  let base := w0.toNat / 4096 % 2 ^ 48
  let limit := (vget 0 r (4 * i + 1)).toNat / 4096 % 2 ^ 48
  let page := va / 4096
  if w0.getLsbD 0 && decide (base ≤ page) && decide (page ≤ limit) then
    some (vget 0 r (4 * i + 2), vget 0 r (4 * i + 3))
  else none

/-- The first matching range entry (R266). -/
def rangeFind (r : Vector W64 256) (va : Nat) : List Nat → Option (W64 × W64)
  | [] => none
  | i :: is => match rangeMatch r i va with
    | some x => some x
    | none => rangeFind r va is

/-- What an access needs of its page (R272). -/
structure Need where
  r : Bool
  w : Bool
  x : Bool
  deriving DecidableEq, Repr

/-- The permissions an access needs are given. -/
def permOk (e : W64) (n : Need) : Bool := (!n.r || pteBit e 1) && (!n.w || pteBit e 2) && (!n.x || pteBit e 3)

/-- A translation: an address with its path and attributes, and the A and D bits still to be set in a page entry. -/
structure Xlated where
  pa     : Nat
  loc    : Loc
  attr   : W64
  update : Option (Nat × W64)
  page   : Option (Nat × Leaf)
  deriving DecidableEq, Repr

/-- The outcome of translating an address: a fault may owe the A bit of the leaf that its walk found (R271). -/
inductive XlRes where
  | ok (x : Xlated)
  | fault (c : Cause) (update : Option (Nat × W64))
  deriving DecidableEq, Repr

/-- The hub region (R359). -/
def hubRegion (pa : Nat) : Bool := decide (0x100000000000 ≤ pa) && decide (pa < 0x100004000000)

/-- What an access that is not allowed still owes: A where its walk found it clear, and never D (R271). -/
def oweA (e : W64) (update : Option (Nat × W64)) : Option (Nat × W64) :=
  if pteBit e 4 then none else update.map fun u => (u.1, 0x10)

/-- Finish a translation: the hub region, placement, then permissions (R264, R272, R359). -/
def finishXl (pa : Nat) (e : W64) (need : Need) (update : Option (Nat × W64)) (page : Option (Nat × Leaf)) : XlRes :=
  if hubRegion pa then .fault .perm (oweA e update) else
  match placed pa (ptePlace e) (pteHome e) with
  | none => .fault .xlate (oweA e update)
  | some loc =>
    if permOk e need then .ok { pa := pa, loc := loc, attr := e, update := update, page := page } else .fault .perm (oweA e update)

/-- The A and D bits that an access finds clear in a leaf and sets (R271). -/
def leafOwes (l : Leaf) (wr : Bool) : Option (Nat × W64) :=
  let bits : W64 := (if pteBit l.entry 4 then 0 else 0x10) ||| (if wr && !pteBit l.entry 5 then 0x20 else 0)
  if bits = 0 then none else some (l.addr, bits)

/-- Translate an address through the leaf of its page (R269, R271, R272). -/
def leafXl (l : Leaf) (a : Nat) (need : Need) : XlRes :=
  finishXl (ptePA l.entry + a % pageSize l.level) l.entry need (leafOwes l need.w) (some (a / pageSize l.level, l))

/-- Translate under given range entries, root and word reader (R266 to R272). A walk that finds A = 0, or a write that
finds D = 0, owes an update (R271). In a matching range entry V, C and the reserved bits of ATTR are not examined, as PA and LEAF are not:
R267 ignores these two and does not speak of the others (DESIGN CHOICE, log entry 94). -/
def translateWith (ranges : Vector W64 256) (root : W64) (rd : Nat → W64) (va : W64) (need : Need) : XlRes :=
  if va.toNat / 2 ^ 60 ≠ 0 then .fault .xlate none else
  let a := va.toNat
  match rangeFind ranges a (List.range 64) with
  | some (ofs, attr) =>
    let pa := (a + ofs.toNat / 4096 * 4096) % 2 ^ 64
    if 2 ^ 52 ≤ pa then .fault .xlate none
    else finishXl pa attr need none none
  | none =>
    match walk rd root a with
    | none => .fault .xlate none
    | some l => leafXl l a need

/-- A partition's scheduler state. -/
def State.part (s : State) (p : Nat) : Part := vget .reset s.hub.parts p
/-- Replace it. -/
def State.setPart (s : State) (p : Nat) (x : Part) : State := { s with hub := { s.hub with parts := vset s.hub.parts p x } }
/-- Change it. -/
def State.onPart (s : State) (p : Nat) (f : Part → Part) : State := s.setPart p (f (s.part p))
/-- Change the ordering machine. -/
def State.onOrd (s : State) (f : Order → Order) : State := { s with ord := f s.ord }

/-- The partition of the step on a core. -/
def State.partOf (s : State) (g : Nat) : Nat :=
  match (s.core g).step with
  | some st => st.part
  | none => 0

/-- A cached translation of a 64 KiB run serves every page of it (R270); another serves its own page. -/
def Cached.run (e : Cached) : Bool := e.level == 4 && pteBit e.leaf 6
def Cached.serves (e : Cached) (a : Nat) : Bool := if e.run then e.page / 16 == a / 65536 else e.page == a / pageSize e.level
/-- The leaf that a cached translation gives for an address that it serves. -/
def Cached.leafAt (e : Cached) (a : Nat) : Leaf :=
  if e.run then
    { level := 4, addr := e.addr / 128 * 128 + 8 * (a / 4096 % 16)
      entry := (e.leaf &&& ~~~(0xF000 : W64)) ||| BitVec.ofNat 64 (a / 4096 % 16 * 4096) }
  else { level := e.level, addr := e.addr, entry := e.leaf }

/-- The translations that a core, or a die, has cached for an address of a partition (R260, R273). -/
def State.cachedFor (s : State) (p : Nat) (core die : Option Nat) (a : Nat) : List Cached :=
  ((match core with | some g => (s.core g).tlb | none => []) ++ (match die with | some d => vget [] s.dieTlb d | none => [])).filter fun e =>
    e.part == p && e.serves a

/-- The range entries that an access uses: until a FLUSH those of the last RELOAD or those before it, by a free value (R273). -/
def State.rangesUsed (s : State) (p : Nat) : Vector W64 256 :=
  let pt := s.part p
  match pt.newRanges with | some r => if Config.freeRange s.tick then r else pt.ranges | none => pt.ranges
/-- No range entry in use gives an address its translation: a page does (R266). -/
def State.isPaged (s : State) (p : Nat) (va : W64) : Bool :=
  decide (va.toNat / 2 ^ 60 = 0) && (rangeFind (s.rangesUsed p) va.toNat (List.range 64)).isNone
/-- The word of a page table that a walk reads: from the view of a die, or, where none is given, of the home die of its line (R296, R298). -/
def State.walkRead (s : State) (die : Option Nat) (a : Nat) : W64 := word64 (s.ord.readView (die.getD (homeDie a)) a 8)
/-- The current translation of an address for a partition (R266 to R272). -/
def State.freshXl (s : State) (p : Nat) (die : Option Nat) (va : W64) (need : Need) : XlRes :=
  translateWith (s.rangesUsed p) (s.part p).ptroot (s.walkRead die) va need
/-- The cached translations that differ from the current one, of an address to which a page gives its translation (R266, R273). -/
def State.staleFor (s : State) (p : Nat) (core die : Option Nat) (va : W64) (need : Need) : List Cached :=
  if !s.isPaged p va then []
  else (s.cachedFor p core die va.toNat).filter fun e => !(leafXl (e.leafAt va.toNat) va.toNat need == s.freshXl p die va need)

/-- Translate for a partition (R266 to R273). Until a FLUSH, an access of a core, or of a die, may use a cached entry in place of
the current one, by a free value (R273). -/
def State.translate (s : State) (p : Nat) (core die : Option Nat) (va : W64) (need : Need) : XlRes :=
  match s.staleFor p core die va need with
  | [] => s.freshXl p die va need
  | es => match es[Config.freeStale s.tick]? with
    | some e => leafXl (e.leafAt va.toNat) va.toNat need
    | none => s.freshXl p die va need
/-- An access walks the tables: a page gives the translation, and no cached one serves, be it that none is there, be it that the one chosen is
not among those that differ from the current one (R268, R273). -/
def State.walks (s : State) (p : Nat) (core die : Option Nat) (va : W64) (need : Need) : Bool :=
  s.isPaged p va && ((s.cachedFor p core die va.toNat).isEmpty ||
    match s.staleFor p core die va need with
    | [] => false
    | es => es[Config.freeStale s.tick]?.isNone)

/-- Two cached translations are of one entry but for its A and D bits. -/
def Cached.same (x e : Cached) : Bool :=
  x.part == e.part && x.page == e.page && x.level == e.level && x.addr == e.addr && (x.leaf ||| 0x30#64) == (e.leaf ||| 0x30#64)
/-- A cache with an entry, which takes the place of one that only its A and D bits tell from it. -/
def addCached (l : List Cached) (e : Cached) : List Cached := (l.filter fun x => !x.same e) ++ [e]

/-- Remember the translation used, in the caches of the core and of the die, and the free values taken (R273). -/
def State.remember (s : State) (p : Nat) (core die : Option Nat) (x : Xlated) : State :=
  let s := { s with tick := s.tick + 1 }
  match x.page with
  | none => s
  | some (pg, l) =>
    let c : Cached := { part := p, page := pg, level := l.level, addr := l.addr
                        leaf := l.entry ||| (match x.update with | some u => u.2 | none => 0) }
    let s := match core with | some g => s.onCore g fun k => { k with tlb := addCached k.tlb c } | none => s
    match die with | some d => { s with dieTlb := vset s.dieTlb d (addCached (vget [] s.dieTlb d) c) } | none => s

/-- Perform a read-modify-write of memory bytes on behalf of a die as an arbitrated operation (R293 ARBITRATE); the caller
has checked the line clock. -/
def Order.arbitrated (o : Order) (d pa : Nat) (new : List Byte) : Order :=
  let o := o.perform d (cellsAt pa new)
  { o with lclock := amSet clkZero o.lclock (pa / 64) (o.dieClock d) }

/-- The clock of a die covers the line clock of an address (R293 ARBITRATE). -/
def Order.mayArbitrate (o : Order) (d pa : Nat) : Bool := clkGe (o.dieClock d) (o.lineClock (pa / 64))

/-! ## Ownership of shared structures (R366) -/

/-- The memory channel of a line, within its die for tier 1 (a free value): tier 1 counts 51 to a die, tier 2 from 1024 (R1, R366). -/
def chanOf (pa : Nat) : Nat :=
  if inTier1 pa then 51 * tierDie pa + Config.channelOf (pa / 64) % 51 else 1024 + Config.channelOf (pa / 64) % 32

/-- A request of a partition on behalf of a die enters the fabric buffers of that die and of the line's home die, those of the hub where it
leaves the compute dies, and the controller of its line's channel (R366). -/
def State.enterAt (s : State) (p d : Nat) (loc : Loc) (pa : Nat) : State :=
  let bit (w : W64) : W64 := w ||| (1#64 <<< p)
  let own (k : Nat) (v : Vector W64 5) : Vector W64 5 := vset v k (bit (vget 0 v k))
  let h := s.hub
  { s with hub := match loc with
    | .mem home => { h with
        fabricOwn := own (home.getD 4) (own d h.fabricOwn)
        chanOwn := amSet 0 h.chanOwn (chanOf pa) (bit (amGet 0 h.chanOwn (chanOf pa))) }
    | .host => { h with fabricOwn := own 4 (own d h.fabricOwn) }
    | .port g _ | .reg g _ => { h with fabricOwn := own (Config.dieOf g) (own d h.fabricOwn) } }
/-- A request of a partition to a memory line enters (R366). -/
def State.enterMem (s : State) (p d pa : Nat) : State :=
  s.enterAt p d (.mem (if inTier1 pa then some (tierDie pa) else none)) pa
/-- Requests of a partition for the lines of some bytes enter, each at its home die (R296, R366). -/
def State.enterRange (s : State) (p pa n : Nat) : State :=
  (List.range ((pa % 64 + n + 63) / 64)).foldl (fun s i => s.enterMem p (homeDie (pa / 64 * 64 + 64 * i)) (pa / 64 * 64 + 64 * i)) s
/-- The request of a translated access enters. -/
def State.enter (s : State) (p d : Nat) (x : Xlated) : State := s.enterAt p d x.loc x.pa

/-- The addresses of the entries that a walk reads (R268). -/
def walkPath (rd : Nat → W64) (va : Nat) : List (Nat × Nat) → Nat → List Nat
  | [], _ => []
  | (sh, n) :: ls, table =>
    let addr := table + 8 * (va / 2 ^ sh % n)
    if !inMemory addr then []
    else addr :: (if pteBit (rd addr) 0 && !pteBit (rd addr) 8 then walkPath rd va ls (ptePA (rd addr)) else [])
/-- The reads of a walk enter (R366): an address that a range entry or a cached translation serves is not walked. -/
def State.enterWalk (s : State) (p : Nat) (core die : Option Nat) (va : W64) (need : Need) : State :=
  if s.walks p core die va need then
    (walkPath (s.walkRead die) va.toNat ptLevels ((s.part p).ptroot.toNat / 4096 % 2 ^ 40 * 4096)).foldl
      (fun s a => s.enterMem p (die.getD (homeDie a)) a) s
  else s

/-- Perform the A and D update that a translation owes as an ARBITRATE of the die, or of the home die of the entry, if its
clock covers the line clock (R271, R296); none: it must wait. -/
def State.pteUpdate (s : State) (p : Nat) (die : Option Nat) (update : Option (Nat × W64)) : Option State :=
  match update with
  | none => some s
  | some (addr, bits) =>
    let d := die.getD (homeDie addr)
    if s.ord.mayArbitrate d addr then
      let old := word64 (s.ord.readView d addr 8)
      some ((s.onOrd fun o => o.arbitrated d addr (bytesOf 8 (old ||| bits))).enterMem p d addr)
    else none
/-- An update sets D where memory holds it clear (R375). -/
def State.setsD (s : State) (die : Option Nat) (update : Option (Nat × W64)) : Bool :=
  match update with
  | none => false
  | some (addr, bits) => bits.getLsbD 5 && !pteBit (word64 (s.ord.readView (die.getD (homeDie addr)) addr 8)) 5

/-! ## Core windows (R262) -/

/-- A byte of a word. -/
def byteAt {n : Nat} (x : BitVec n) (i : Nat) : Byte := elem 8 i x
/-- A word with one byte replaced. -/
def putByte {n : Nat} (x : BitVec n) (i : Nat) (b : Byte) : BitVec n := setElem 8 i x b

namespace CoreSt

/-- A byte of a core's window as the debugger reads it (R232, R262). -/
def windowByte (c : CoreSt) (off : Nat) : Byte :=
  if off < 0x200000 then amGet 0 c.files.spad off
  else if off < 0x220000 then byteAt (c.tile ((off - 0x200000) / 0x2000)) (off % 0x2000)
  else if off < 0x240000 then
    let n := (off - 0x220000) / 0x8000
    if off % 0x8000 < 0x4000 then byteAt (vget 0 c.files.accMain n) (off % 0x4000)
    else byteAt (vget 0 c.files.accPart n) (off % 0x4000)
  else if off < 0x280000 then
    let o := off - 0x240000
    if o < 0x3E000 then byteAt (vget 0 c.files.wbCodes (o / 2048)) (o % 2048)
    else if o < 0x3FF00 then byteAt (vget 0 c.files.wbScales ((o - 0x3E000) / 64)) (o % 64)
    else 0
  else if off < 0x284000 then byteAt (c.vreg ((off - 0x280000) / 0x800) (off / 0x40 % 32)) (off % 0x40)
  else if off < 0x285000 then byteAt (c.axis ((off - 0x284000) / 0x100)) (off % 0x100)
  else if off < 0x285040 then byteAt (c.norm ((off - 0x285000) / 4)) (off % 4)
  else if 0x286000 ≤ off ∧ off < 0x286200 then byteAt (c.creg ((off - 0x286000) / 16)) (off % 16)
  else if 0x287000 ≤ off ∧ off < 0x287200 then byteAt (c.sreg ((off - 0x287000) / 8)) (off % 8)
  else if 0x287200 ≤ off ∧ off < 0x287208 then byteAt (c.predWord.setWidth 64) (off % 8)
  else if 0x287400 ≤ off ∧ off < 0x287440 then byteAt (vget 0 c.ctrl.trec ((off - 0x287400) / 8)) (off % 8)
  else if 0x287440 ≤ off ∧ off < 0x287480 then byteAt (vget 0 c.ctrl.halt ((off - 0x287440) / 8)) (off % 8)
  else 0

/-- Write a byte of the accumulators' window: each accumulator's main plane and then its partial plane (R262). -/
def setAccByte (c : CoreSt) (o : Nat) (b : Byte) : CoreSt :=
  if o % 0x8000 < 0x4000 then
    { c with files := { c.files with
        accMain := vset c.files.accMain (o / 0x8000) (putByte (vget 0 c.files.accMain (o / 0x8000)) (o % 0x4000) b) } }
  else
    { c with files := { c.files with
        accPart := vset c.files.accPart (o / 0x8000) (putByte (vget 0 c.files.accPart (o / 0x8000)) (o % 0x4000) b) } }

/-- Write a byte of the weight buffer's window: the codes and then the scales (R262). -/
def setWeightByte (c : CoreSt) (o : Nat) (b : Byte) : CoreSt :=
  if o < 0x3E000 then
    { c with files := { c.files with
        wbCodes := vset c.files.wbCodes (o / 2048) (putByte (vget 0 c.files.wbCodes (o / 2048)) (o % 2048) b) } }
  else if o < 0x3FF00 then
    { c with files := { c.files with
        wbScales := vset c.files.wbScales (o / 64 % 128) (putByte (vget 0 c.files.wbScales (o / 64 % 128)) (o % 64) b) } }
  else c

/-- Write a byte of a core's window; reserved offsets and the records ignore it (R262, R232). -/
def setWindowByte (c : CoreSt) (off : Nat) (b : Byte) : CoreSt :=
  if off < 0x200000 then c.spadWrite off [b]
  else if off < 0x220000 then
    c.setTile (off % 0x20000 / 0x2000) (putByte (c.tile (off % 0x20000 / 0x2000)) (off % 0x2000) b)
  else if off < 0x240000 then c.setAccByte (off % 0x20000) b
  else if off < 0x280000 then c.setWeightByte (off % 0x40000) b
  else if off < 0x284000 then
    c.setVreg (off % 0x4000 / 0x800) (off / 0x40 % 32)
      (putByte (c.vreg (off % 0x4000 / 0x800) (off / 0x40 % 32)) (off % 0x40) b) (.allOnes 512)
  else if off < 0x285000 then
    c.setAxis (off % 0x1000 / 0x100) (putByte (c.axisHeld (off % 0x1000 / 0x100)) (off % 0x100) b)
  else if off < 0x285040 then
    c.setNorm (off % 0x40 / 4) (putByte (c.norm (off % 0x40 / 4)) (off % 4) b)
  else if 0x286000 ≤ off ∧ off < 0x286200 then
    c.setCreg (off % 0x200 / 16) (putByte (c.creg (off % 0x200 / 16)) (off % 16) b)
  else if 0x287000 ≤ off ∧ off < 0x287200 then
    c.setSreg (off % 0x200 / 8) (putByte (c.sreg (off % 0x200 / 8)) (off % 8) b)
  else if 0x287200 ≤ off ∧ off < 0x287202 then
    { c with files := { c.files with p := (putByte c.files.p (off % 8) b) &&& 0xFFFC#16 } }
  else c

/-- Write bytes of a core's window. -/
def setWindow (c : CoreSt) (off : Nat) : List Byte → CoreSt
  | [] => c
  | b :: bs => (c.setWindowByte off b).setWindow (off + 1) bs

/-- Read bytes of a core's window. -/
def windowBytes (c : CoreSt) (off n : Nat) : List Byte := (List.range n).map fun i => c.windowByte (off + i)

end CoreSt

/-- Split consecutive bytes at 64-byte boundaries, in address order (R278). -/
def splitLines : Nat → Nat → List Byte → List (Nat × List Byte)
  | 0, _, _ => []
  | _, _, [] => []
  | n + 1, a, bs => (a, bs.take (64 - a % 64)) :: splitLines n (a + (64 - a % 64)) (bs.drop (64 - a % 64))

/-- Room for an entry of a core in its die's ingress buffer (R277). -/
def State.ingressRoom (s : State) (g : Nat) : Bool :=
  let q := vget [] s.ord.ingress (Config.dieOf g)
  decide (q.length < 4096) && decide ((q.filter fun e => e.core == g).length < 64)
/-- Add an entry behind the others (R293 DEPOSIT). -/
def State.ingressPush (s : State) (e : Entry) : State :=
  let d := Config.dieOf e.core
  s.onOrd fun o => { o with ingress := vset o.ingress d (vget [] o.ingress d ++ [e]) }
/-- The entries of a core present in its die's buffer, in arrival order. -/
def State.ingressOf (s : State) (g : Nat) : List Entry :=
  (vget [] s.ord.ingress (Config.dieOf g)).filter fun e => e.core == g

/-- A hub write on behalf of a die to a memory address (R296). -/
def State.hubWrite (s : State) (d pa : Nat) (bs : List Byte) : State := s.onOrd fun o => o.perform d (cellsAt pa bs)
/-- One that belongs to a partition (R366). -/
def State.hubWriteOf (s : State) (p d pa : Nat) (bs : List Byte) : State := (s.hubWrite d pa bs).enterMem p d pa
/-- A hub read on behalf of a die. -/
def State.hubRead (s : State) (d pa n : Nat) : List Byte := s.ord.readView d pa n

end Sys2Proof.Machine
end

