-- ==== Sys2Proof/Machine/Access.lean ====
section
/-! DEFINITION. One access of memory for a partition: blast records (R367), the partition's cores, the dirty log (R375 to
R377), rights (R263) with the A and D updates (R271), and the accesses of the hub (R296). -/

namespace Sys2Proof.Machine

/-! ## Blast records -/

/-- Bytes of a natural number, little-endian. -/
def natBytes (n x : Nat) : List Byte := bytesOf n (BitVec.ofNat (8 * n) x)

/-- A blast record (R367). -/
def blastRecord (kind struct inst : Nat) (time owners : W64) (addr : Nat) : List Byte :=
  natBytes 1 kind ++ natBytes 1 struct ++ natBytes 2 inst ++ natBytes 4 0 ++ bytesOf 8 time ++ bytesOf 8 owners ++
    natBytes 8 addr

/-- Deliver a blast record to a partition: ring, BLASTCOUNT and FAULT, and the signals to its function and to the physical one (R367). -/
def State.deliverBlast (s : State) (p : Nat) (rec : List Byte) : State :=
  let s : State := { s with hub := { s.hub with pfSignals := s.hub.pfSignals + 1 } }
  s.onPart p fun pt =>
    let i := pt.blastcount.toNat % 16
    let ring := if pt.blast.length < 16 then pt.blast ++ List.replicate (16 - pt.blast.length) (List.replicate 32 0) else pt.blast
    { pt with blast := ring.set i rec, blastcount := pt.blastcount + 1, signals := pt.signals + 1,
              entry := { pt.entry with state := pt.entry.state ||| 0x10 } }

/-! ## Cores of a partition -/

/-- The core bitmap in force: that of the entry last loaded, as slice changes have passed it on (R336, R361). -/
def Part.coreBits (pt : Part) : BitVec 320 := pt.held
/-- A physical core is one of a partition's. -/
def State.partHas (s : State) (p g : Nat) : Bool := decide (g < Config.nCores) && (s.part p).coreBits.getLsbD g
/-- The partition that holds a core. -/
def State.ownerOf (s : State) (g : Nat) : Option Nat := (List.range 64).find? fun p => s.partHas p g
/-- A partition's physical cores, ascending. -/
def State.partCores (s : State) (p : Nat) : List Nat := (List.range Config.nCores).filter fun g => s.partHas p g
/-- The entry in force: the hub reads an entry only at a RELOAD (R361). -/
def Part.inForce (pt : Part) : PartEntry := pt.loaded.getD .reset
/-- The cores that an entry gives its partition: none unless it is defined (R360). -/
def PartEntry.want (e : PartEntry) : BitVec 320 := if e.state.getLsbD 0 then e.cores else 0
/-- The extents in force (R360). -/
def Part.extents (pt : Part) : Vector W64 16 := pt.inForce.extents

/-- The virtual function that serves a partition (R360, R363). -/
def State.vfOf (s : State) (p : Nat) : Nat := (s.part p).inForce.state.toNat / 256 % 64
/-- The partition that a virtual function serves (R363). -/
def State.partOfVf (s : State) (f : Nat) : Option Nat :=
  (List.range 64).find? fun p => (s.part p).loaded.isSome && s.vfOf p == f

/-- A core is under scrub (R372). -/
def State.underScrub (s : State) (g : Nat) : Bool :=
  (List.range 64).any fun p => match (s.part p).scrub with | some x => x.cores.contains g | none => false

/-! ## The repair in progress (R411, R412) -/

/-- The fields of a repair, as REPAIR holds them. -/
def repKind (w : W64) : Nat := w.toNat / 2 ^ 28 % 4
def repDie (w : W64) : Nat := w.toNat / 2 ^ 16 % 4
def repQuad (w : W64) : Nat := w.toNat / 2 ^ 11 % 32
def repUnit (w : W64) : Nat := w.toNat / 4 % 512
def State.repStatus (s : State) : Nat := s.hub.repair.toNat / 2 ^ 30 % 4
/-- A repair of a kind, on a die, runs. -/
def State.repairs (s : State) (kind : Nat) : Bool := s.repStatus = 1 && repKind s.hub.repairRun = kind
/-- Set STATUS. -/
def State.setRepair (s : State) (st : Nat) : State :=
  let set (h : Hub) : Hub := { h with repair := (h.repair &&& ~~~(0xC0000000 : W64)) ||| BitVec.ofNat 64 (st * 2 ^ 30) }
  { s with hub := set s.hub }

/-- A quad of a die is active; retired. -/
def State.quadOn (s : State) (d q : Nat) : Bool := vget false (vget (.replicate 18 false) s.pkg.quadActive d) q
def State.quadGone (s : State) (d q : Nat) : Bool := vget false (vget (.replicate 18 false) s.pkg.quadRetired d) q
/-- The free stand-in quad of a die. -/
def State.standIn (s : State) (d : Nat) : Option Nat := (List.range 18).find? fun q => !s.quadOn d q && !s.quadGone d q
/-- The physical cores of a quad. -/
def quadCores (d q : Nat) : List Nat := (List.range 4).map fun k => 72 * d + 4 * q + k

/-- A core that a running repair drains: it takes no step until the stand-in quad, or the spare bank, is mapped in (R412, R413). -/
def State.drains (s : State) (g : Nat) : Bool :=
  (s.repairs 0 && (quadCores (repDie s.hub.repairRun) (repQuad s.hub.repairRun)).contains g) || (s.repairs 1 && repUnit s.hub.repairRun == g)

/-! ## The dirty log (R375 to R377) -/

/-- The number of the 2 MiB region of EXTENTS that holds an address (R377). -/
def regionOf (ex : Vector W64 16) (pa : Nat) : List Nat → Nat → Option Nat
  | [], _ => none
  | i :: is, n0 =>
    let b := (vget 0 ex (2 * i)).toNat
    let n := (vget 0 ex (2 * i + 1)).toNat
    if n = 0 then none
    else if b ≤ pa ∧ pa < b + n then some (n0 + (pa - b) / 2 ^ 21)
    else regionOf ex pa is (n0 + n / 2 ^ 21)

/-- The coarse bit of a written address; outside every extent a host-access violation is delivered (R377). -/
def State.setCoarse (s : State) (p pa : Nat) : State :=
  let pt := s.part p
  match regionOf pt.extents pa (List.range 8) 0 with
  | none => s.deliverBlast p (blastRecord 3 0xFF 0 s.time (1#64 <<< p) (pa / 64 * 64))
  | some k =>
    let a := pt.inForce.logbase.toNat + 2 ^ 19 + k / 8
    let old : Byte := (s.hubRead (homeDie a) a 1).headD 0
    s.hubWriteOf p (homeDie a) a [old ||| (1#8 <<< (k % 8))]

/-- Log one page of a partition (R375, R377). -/
def State.logPage (s : State) (p vpage pa : Nat) : State :=
  let pt := s.part p
  let s := s.setPart p { pt with logPages := pt.logPages ++ [(vpage, pa)] }
  if pt.entry.state.getLsbD 3 then s.setCoarse p pa
  else if pt.entry.logcount.toNat = 65536 then
    let s := s.onPart p fun pt => { pt with entry := { pt.entry with state := pt.entry.state ||| 8 } }
    ((s.part p).logPages).foldl (fun s x => s.setCoarse p x.2) s
  else
    let a := pt.inForce.logbase.toNat + 8 * pt.entry.logcount.toNat
    let s := s.hubWriteOf p (homeDie a) a (natBytes 8 (vpage % 2 ^ 48))
    s.onPart p fun pt => { pt with entry := { pt.entry with logcount := pt.entry.logcount + 1 } }

/-- A page that keeps no D of its own: of a range entry, or of a 64 KiB run (R375). -/
def Xlated.paged (x : Xlated) : Bool := match x.page with | some (_, l) => l.level == 4 && pteBit l.entry 6 | none => true

/-- What a write through a translation logs: a page whose D it sets, and once per round each page of a range entry or of
a 64 KiB run (R375). -/
def State.logAccess (s : State) (p : Nat) (va : W64) (x : Xlated) (setsD : Bool) : State :=
  let pt := s.part p
  let vp := va.toNat / 4096
  if !pt.entry.state.getLsbD 2 then s
  else if x.paged then (if pt.logPages.any fun y => y.1 == vp then s else s.logPage p vp x.pa)
  else if setsD then s.logPage p vp x.pa else s

/-- The translation of a host write through a partition's page, whatever its permissions, with the D bit that it owes (R271, R375). -/
def State.hostXl (s : State) (p : Nat) (va : W64) : Option Xlated :=
  let pt := s.part p
  match rangeFind pt.ranges va.toNat (List.range 64) with
  | some (ofs, attr) =>
    some { pa := (va.toNat + ofs.toNat / 4096 * 4096) % 2 ^ 64, loc := .host, attr := attr, update := none, page := none }
  | none => (walk (fun a => word64 (s.ord.readView (homeDie a) a 8)) pt.ptroot va.toNat).map fun l =>
    { pa := ptePA l.entry + va.toNat % pageSize l.level, loc := .host, attr := l.entry
      update := leafOwes l true, page := some (va.toNat / pageSize l.level, l) }
/-- A host write through a page performs: its page's D is set and it is logged like a core's (R375); none: the update must wait. -/
def State.logHost (s : State) (p : Nat) (va : W64) : Option State :=
  match s.hostXl p va with
  | none => some s
  | some x => (s.pteUpdate p none x.update).map fun t => t.logAccess p va x (s.setsD none x.update)

/-! ## What is no longer in transit (R366) -/

/-- Time has passed: what holds no request in transit is owned no more. How long a request stays is left to the implementation (R424, log
entry 26); a write on a channel or in an apply buffer, a host write not yet observable and an atomic at its arbiter are still there. -/
def State.leave (s : State) : State :=
  let o := s.ord
  let busy (d : Nat) : Bool :=
    if d = 4 then decide (o.sent ≠ [])
    else (List.range 4).any fun j => decide (vget [] o.chan (4 * d + j) ≠ []) || (vget [] o.buf j).any fun w => w.die == d
  { s with hub := { s.hub with
      fabricOwn := (List.range 5).foldl (fun v d => if busy d then v else vset v d 0) s.hub.fabricOwn
      chanOwn := if o.waiting = [] then [] else s.hub.chanOwn.filter fun x => o.waiting.any fun w => chanOf (64 * w.line) == x.1 } }

/-! ## Accesses of a core -/

/-- The outcome of preparing an access: its A or D update has to wait, the update has performed and the access of the core is still to come
(R271), a fault, or the state with the log made, and the translation. -/
inductive Access where
  | wait
  | updated (s : State)
  | fault (s : State) (k : Cause)
  | ok (s : State) (x : Xlated)

/-- What an access may reach beside memory and host lines (R263): nothing of the on-chip map, scratchpads, or register-file windows too,
whose writes become deposits. -/
inductive Reach where
  | memory | scratchpads | windows
  deriving DecidableEq, Repr

/-- The rights of R263 over a location. -/
def State.allowed (s : State) (p : Nat) (wr : Bool) (reach : Reach) (loc : Loc) : Bool :=
  match loc with
  | .mem _ | .host => true
  | .port g _ => s.partHas p g && reach != .memory
  | .reg g _ => s.partHas p g && wr && reach == .windows

/-- An A or D update that an access owes: whose access it is, the update, and the translation, if the access is to perform (R271). -/
structure PteOwed where
  part   : Nat
  core   : Option Nat
  die    : Option Nat
  va     : W64
  need   : Need
  update : Nat × W64
  xl     : Option Xlated
  deriving DecidableEq, Repr

/-- An owed update performs as a step of its own, an ARBITRATE (R271, R293, R296); where it sets D the page is logged (R375). None: it must wait. -/
def State.payPte (s : State) (w : PteOwed) : Option State :=
  let sets := s.setsD w.die (some w.update)
  ((s.enterWalk w.part w.core w.die w.va w.need).pteUpdate w.part w.die (some w.update)).map fun t => match w.xl with
    | some x => (if sets then t.logAccess w.part w.va x true else t).remember w.part w.core w.die x
    | none => t

/-- What preparing an access gives: an A or D update that has to perform first, a fault, or the state with the log made, and the translation. -/
inductive Prepared where
  | owes (w : PteOwed)
  | fault (s : State) (k : Cause)
  | ok (s : State) (x : Xlated)

/-- Prepare an access on behalf of a core's die, a die, or the home die of the line, for a partition (R263, R271, R272, R296). The access
performs only after the update that it owes, which is a step of its own (R271, R293). -/
def State.accessFor (s : State) (p : Nat) (core die : Option Nat) (va : W64) (need : Need) (reach : Reach) : Prepared :=
  let w := s.enterWalk p core die va need
  let owed (u : Nat × W64) (x : Option Xlated) : PteOwed := { part := p, core := core, die := die, va := va, need := need, update := u, xl := x }
  match s.translate p core die va need with
  | .fault _ (some u) => .owes (owed u none)
  | .fault k none => .fault w k
  | .ok x =>
    if !s.allowed p need.w reach x.loc then (match oweA x.attr x.update with
      | some u => .owes (owed u none)
      | none => .fault w .perm)
    else match x.update with
      | some u => .owes (owed u (some x))
      | none => .ok (((if need.w then w.logAccess p va x false else w).remember p core die x).enter p (die.getD (homeDie x.pa)) x) x

/-- Prepare an access of a core: the update that it owes performs in place of the access, where it may. -/
def State.access (s : State) (g : Nat) (va : W64) (need : Need) (reach : Reach) : Access :=
  match s.accessFor (s.partOf g) (some g) (some (Config.dieOf g)) va need reach with
  | .owes w => (match s.payPte w with
    | some t => .updated t
    | none => .wait)
  | .fault t k => .fault t k
  | .ok t x => .ok t x

/-- What a read, a write and an atomic need. -/
def needR : Need := { r := true, w := false, x := false }
def needW : Need := { r := false, w := true, x := false }
def needRW : Need := { r := true, w := true, x := false }
/-- What a fetch needs. -/
def needX : Need := { r := false, w := false, x := true }

/-- The A update of a fetch from a page, if it is owed (R271); none: it must wait. -/
def State.touchX (s : State) (g : Nat) (va : W64) : Option State :=
  let p := s.partOf g
  let d := Config.dieOf g
  let w := s.enterWalk p (some g) (some d) va needX
  match s.translate p (some g) (some d) va needX with
  | .fault _ u => w.pteUpdate p (some d) u
  | .ok x => (w.pteUpdate p (some d) x.update).map fun t => (t.remember p (some g) (some d) x).enter p d x
/-- A fetch from a page still owes its A update. -/
def State.owesX (s : State) (g : Nat) (va : W64) : Bool :=
  match s.translate (s.partOf g) (some g) (some (Config.dieOf g)) va needX with
  | .fault _ u => u.isSome
  | .ok x => x.update.isSome

/-! ## Accesses of the hub (R296) -/

/-- A host write is sent on behalf of a core, by a queue operation or a copy command, or of the hub, which has the number 288 (R293). -/
def State.sendHost (s : State) (g : Nat) (copy : Bool) (pa : Nat) (bs : List Byte) : State :=
  s.onOrd fun o => { o with sent := o.sent ++ [{ core := g, copy := copy, line := pa / 64, bytes := cellsAt pa bs }] }

/-- Why an access of the hub does not perform now: an atomic has to wait for the clock of its die, an A or D update has to perform before it, or
it faults. -/
inductive HubStop where
  | wait
  | owes (w : PteOwed)
  | fault (s : State) (k : Cause)
  deriving DecidableEq, Repr

/-- What an access of the hub gives. -/
abbrev HubRes (α : Type) := Except HubStop (α × State)

/-- What the hub's next step is when an event begins in a state: the event, where every access of it performs; else the A or D update that its
first such access owes, a step of its own (R271, R293); none where it must wait. -/
def State.hubNext (s : State) (r : Except HubStop State) : Option State :=
  match r with
  | .ok t => some t
  | .error (.owes w) => s.payPte w
  | .error _ => none

/-- The bytes of a memory or host line as a die sees them; the on-chip map is not the hub's to read (R263). -/
def State.locRead (s : State) (die : Option Nat) (x : Xlated) (n : Nat) : HubRes (List Byte) :=
  match x.loc with
  | .mem _ => .ok (s.hubRead (die.getD (homeDie x.pa)) x.pa n, s)
  | .host => .ok (amRead s.ord.host x.pa n, s)
  | .port _ _ | .reg _ _ => .error (.fault s .perm)

/-- A write of the hub to a memory or host line. -/
def State.locWrite (s : State) (die : Option Nat) (x : Xlated) (bs : List Byte) : State :=
  match x.loc with
  | .mem _ => s.hubWrite (die.getD (homeDie x.pa)) x.pa bs
  | .host => s.sendHost Config.nCores false x.pa bs
  | .port _ _ | .reg _ _ => s

/-- Read bytes at a partition virtual address, line by line. -/
def State.hubGet (s : State) (p : Nat) (die : Option Nat) : Nat → W64 → Nat → HubRes (List Byte)
  | 0, _, _ => .ok ([], s)
  | f + 1, va, n =>
    if n = 0 then .ok ([], s) else
    let k := min n (64 - va.toNat % 64)
    match s.accessFor p none die va needR .memory with
    | .owes w => .error (.owes w)
    | .fault t k => .error (.fault t k)
    | .ok s x => match s.locRead die x k with
      | .error e => .error e
      | .ok (a, s) => match s.hubGet p die f (va + BitVec.ofNat 64 k) (n - k) with
        | .error e => .error e
        | .ok (b, s) => .ok (a ++ b, s)

/-- Write bytes at a partition virtual address, line by line. -/
def State.hubPut (s : State) (p : Nat) (die : Option Nat) : Nat → W64 → List Byte → Except HubStop State
  | 0, _, _ => .ok s
  | f + 1, va, bs =>
    if bs = [] then .ok s else
    let k := min bs.length (64 - va.toNat % 64)
    match s.accessFor p none die va needW .memory with
    | .owes w => .error (.owes w)
    | .fault t k => .error (.fault t k)
    | .ok s x => (s.locWrite die x (bs.take k)).hubPut p die f (va + BitVec.ofNat 64 k) (bs.drop k)

/-- Replace bytes within a line as an atomic at the line's home (R293 ARBITRATE, R296): the old bytes. -/
def State.hubAtomic (s : State) (p : Nat) (die : Option Nat) (va : W64) (n : Nat) (f : List Byte → List Byte) :
    HubRes (List Byte) :=
  match s.accessFor p none die va needRW .memory with
  | .owes w => .error (.owes w)
  | .fault t k => .error (.fault t k)
  | .ok s x =>
    let d := die.getD (homeDie x.pa)
    match s.locRead die x n with
    | .error e => .error e
    | .ok (old, s) => match x.loc with
      | .mem _ =>
        if s.ord.mayArbitrate d x.pa then .ok (old, s.onOrd fun o => o.arbitrated d x.pa (f old)) else .error .wait
      | .host => .ok (old, s.onOrd fun (o : Order) => { o with host := amWrite o.host x.pa (f old) })
      | _ => .ok (old, s.locWrite die x (f old))

/-! ## Trace records that wait their turn (R271, R393) -/

/-- The first of the hub's owed trace records is written, once its A and D updates have performed, and those behind it in turn; TRHEAD moves on
with each. One that faults is dropped. -/
def State.settleOwed (s : State) : Nat → State
  | 0 => s
  | f + 1 => match s.hub.owed with
    | [] => s
    | w :: ws =>
      let take (t : State) : State :=
        ({ t with hub := { t.hub with owed := ws } } : State).onPart w.part fun pt => { pt with trhead := pt.trhead + 1 }
      match s.hubPut w.part (some w.die) 2 w.va w.bytes with
      | .ok t => (take t).settleOwed f
      | .error (.fault t _) => (take t).settleOwed f
      | .error (.owes w) => (s.payPte w).getD s
      | .error .wait => s

/-- A trace record takes its place behind those already owed (log entry 15). -/
def State.owe (s : State) (p die : Nat) (va : W64) (bs : List Byte) : State :=
  let w : Owed := { part := p, die := die, va := va, bytes := bs }
  let s : State := { s with hub := { s.hub with owed := s.hub.owed ++ [w] } }
  s.settleOwed s.hub.owed.length

end Sys2Proof.Machine
end

