-- ==== Sys2Proof/Machine/Count.lean ====
section
/-! DEFINITION. The slot and stall counters of a core and of its loop levels (R385 to R387), and the events that the
counter banks of a die select (R391). -/

namespace Sys2Proof.Machine

/-! ## Indices of a core's bank (R385) -/

/-- Held cycles under the wait forms, under COMPAT, the matrix shadow, a bank conflict, fetch and window drain; gang
reservation and throttle. -/
def cWait : Nat := 0x18
def cCompat : Nat := 0x19
def cShadow : Nat := 0x1A
def cBank : Nat := 0x1B
def cFetch : Nat := 0x1C
def cWindow : Nat := 0x1D
def cGang : Nat := 0x1E
def cThrottle : Nat := 0x1F

namespace CoreSt

/-- A counter of a bank: bank 0 is the step bank, bank L + 1 that of loop level L. -/
def counter (c : CoreSt) (b i : Nat) : W64 := vget 0 (vget (.replicate 32 0) c.banks b) i
/-- Add to a counter. -/
def addCounter (c : CoreSt) (b i n : Nat) : CoreSt :=
  { c with banks := vset c.banks b (vset (vget (.replicate 32 0) c.banks b) i (c.counter b i + BitVec.ofNat 64 n)) }
/-- The banks that count: the step bank, and each level whose body's first group has issued (R387). -/
def liveBanks (c : CoreSt) : List Nat :=
  0 :: ((List.range 4).filter fun l => match c.level l with | some x => x.begun | none => false).map (· + 1)
/-- Count in every bank that counts; nothing is counted in handler mode (R386). -/
def count (c : CoreSt) (i n : Nat) : CoreSt :=
  if c.ctrl.handler then c else c.liveBanks.foldl (fun c b => c.addCounter b i n) c
/-- Count an issued group with its slot mask (R386). -/
def countIssue (c : CoreSt) (mask : BitVec 12) : CoreSt :=
  (List.range 12).foldl (fun c k => c.count (if mask.getLsbD k then k else 12 + k) 1) c
/-- Count empty schedule cycles (R386). -/
def countEmpty (c : CoreSt) (n : Nat) : CoreSt := (List.range 12).foldl (fun c k => c.count (12 + k) n) c
/-- Zero a bank. -/
def zeroBank (c : CoreSt) (b : Nat) : CoreSt := { c with banks := vset c.banks b (.replicate 32 0) }

end CoreSt

/-- Whether a select register counts an event of a partition; a guest counts its own partition (R391). -/
def selects (b : Bank) (c p vf ev : Nat) : Bool :=
  let w := vget 0 b.sel c
  decide (w.toNat % 256 = ev) &&
    (if b.holder = 1 then decide (b.guest = vf) && !(ev == 9) else w.getLsbD 14 || decide (w.toNat / 256 % 64 = p))

/-- Count an event of a partition on a die in the counter banks (R391). -/
def State.dieEvent (s : State) (d p ev n : Nat) : State :=
  if n = 0 then s else
  { s with hub := { s.hub with banks := vset s.hub.banks d ((vget (.replicate 16 .reset) s.hub.banks d).map fun b =>
      { b with cnt := (List.range 8).foldl (fun v c =>
          if selects b c p (s.vfOf p) ev then vset v c (vget 0 v c + BitVec.ofNat 64 n) else v) b.cnt }) } }

/-- Count correctable errors on a die for the partitions that own the structure (R391). -/
def State.dieError (s : State) (d : Nat) (owners : W64) (n : Nat) : State :=
  if 4 ≤ d then s else
  { s with hub := { s.hub with banks := vset s.hub.banks d ((vget (.replicate 16 .reset) s.hub.banks d).map fun b =>
      { b with cnt := (List.range 8).foldl (fun v c =>
          let w := vget 0 b.sel c
          if w.toNat % 256 = 9 ∧ b.holder ≠ 1 ∧ (w.getLsbD 14 || owners.getLsbD (w.toNat / 256 % 64)) then
            vset v c (vget 0 v c + BitVec.ofNat 64 n)
          else v) b.cnt }) } }
/-- Correctable errors of a core's own state: they count at the core, and on its die for the partition that owns it (R381, R391). -/
def State.coreErrors (s : State) (g n : Nat) : State :=
  { s with hub := { s.hub with coreErr := amSet 0 s.hub.coreErr g (amGet 0 s.hub.coreErr g + BitVec.ofNat 64 n) } }.dieError
    (Config.dieOf g) (match s.ownerOf g with | some p => 1#64 <<< p | none => 0) n

/-- Count an event of the step on a core, on the core's die. -/
def State.coreDieEvent (s : State) (g ev n : Nat) : State := s.dieEvent (Config.dieOf g) (s.partOf g) ev n

/-- A stall cycle of a core under a cause (R386, R391). -/
def State.stall (s : State) (g i : Nat) : State :=
  if (s.core g).ctrl.handler then s
  else
    let s := (s.onCore g fun c => c.count i 1).coreDieEvent g 4 1
    if i = cWindow then s.coreDieEvent g 8 1 else s

end Sys2Proof.Machine
end

