-- ==== Sys2Proof/Machine/Operands.lean ====
section
/-! DEFINITION. The operand forms: which registers each instruction names as a source and as a destination, with the
field index of R63; its fixed latency (R65, R69), its wait token and its in-order queue (R67). -/

namespace Sys2Proof

open Sys2Proof.Machine (Dest QueueId CoreSt)

/-- The clusters that a group code names, ascending (R15). -/
def clustersOf (g : BitVec 4) : List Nat :=
  match g.toNat with
  | 8 => [0, 1, 2, 3]
  | 9 => [4, 5, 6, 7]
  | 10 => [0, 2, 4, 6]
  | 11 => [1, 3, 5, 7]
  | 12 => [0, 1]
  | 13 => [2, 3]
  | 14 => [4, 5]
  | 15 => [0, 1, 2, 3, 4, 5, 6, 7]
  | n => [n]

/-- A register that a slot names, with the index of the field that names it (R63). -/
abbrev Named := Nat × Dest

/-- A scalar source. -/
def SSrc.named (f : Nat) : SSrc → List Named
  | .reg n => [(f, .s n.toNat)]
  | .latch k => [(f, .sl k.toNat)]
/-- A scalar destination; s0 is none (R102). -/
def SDst.named (f : Nat) : SDst → List Named
  | .reg n => if n.toNat = 0 then [] else [(f, .s n.toNat)]
  | .latch k => [(f, .sl k.toNat)]
/-- A vector destination in each cluster of a list. -/
def VDst.named (f : Nat) (cs : List Nat) : VDst → List Named
  | .reg n => cs.map fun c => (f, .v c n.toNat)
  | .latch k => cs.map fun c => (f, .vl c k.toNat)
/-- A lane mask in each cluster. -/
def kNamed (f : Nat) (cs : List Nat) (k : BitVec 3) : List Named := cs.map fun c => (f, .k c k.toNat)
/-- A tile operand: through an ma register it counts as every tile (R163). -/
def TOp.named (f : Nat) : TOp → List Named
  | .tile n => [(f, .tile n.toNat)]
  | .ma _ => (List.range 16).map fun t => (f, .tile t)
/-- A tile pair operand (R170). -/
def TOp.pairNamed (f : Nat) : TOp → List Named
  | .tile n => [(f, .tile n.toNat), (f, .tile (n.toNat + 1))]
  | .ma _ => (List.range 16).map fun t => (f, .tile t)
/-- A block-tile operand (R163). -/
def WOp.named (f : Nat) : WOp → List Named
  | .blk n => [(f, .blk n.toNat)]
  | .ma _ => (List.range 124).map fun t => (f, .blk t)
/-- An accumulator. -/
def accNamed (a : BitVec 2) : List Named := [(4, .acc a.toNat)]
/-- The tiles of XTLD and XTST. -/
def xTiles (pair : Bool) (t : BitVec 4) : List Named :=
  if pair then [(5, .tile t.toNat), (5, .tile (t.toNat + 1))] else [(5, .tile t.toNat)]
/-- A predicate pair. -/
def pairNamed (p : BitVec 3) : List Named := [(3, .pair p.toNat)]

/-- The destinations an instruction names: of a fixed-latency result (R66) or of a token operation (R67). The model's choices: the link s63
of CALL and CALLR, which no field names, has field index 0 and counts as a destination for R62, R66 and R67, and the pairs that
MOVSP writes have the index of its A field, 4 (DESIGN CHOICE, log entry 60). -/
def Instr.dests : Instr → List Named
  | .add d _ _ | .sub d _ _ | .and d _ _ | .or d _ _ | .xor d _ _ | .andn d _ _ | .shl d _ _ | .shr d _ _ | .sar d _ _ | .min d _ _ | .max d _ _ | .minu d _ _ | .maxu d _ _ | .adds d _ _ | .subs d _ _ | .mul d _ _ | .mulh d _ _ | .mulhu d _ _ | .div d _ _ | .divu d _ _ | .rem d _ _ | .remu d _ _ => d.named 3
  | .addi d _ _ | .andi d _ _ | .ori d _ _ | .xori d _ _ | .shli d _ _ | .shri d _ _ | .sari d _ _ => d.named 3
  | .movq d _ _ _ => d.named 3
  | .cmpeq p _ _ | .cmpne p _ _ | .cmplt p _ _ | .cmple p _ _ | .cmpltu p _ _ | .cmpleu p _ _ | .cmpeqi p _ _ | .cmpnei p _ _ | .cmplti p _ _ | .cmplei p _ _ | .cmpltui p _ _ | .cmpleui p _ _ => pairNamed p
  | .pand p _ _ | .por p _ _ | .pxor p _ _ | .pandn p _ _ => pairNamed p
  | .movps d => d.named 3
  | .movsp _ => (List.range 7).map fun k => (4, .pair (k + 1))
  | .rdcnt d _ | .rddesc d _ => d.named 3
  | .rdtime d => d.named 3
  | .fadd _ _ d _ _ | .fsub _ _ d _ _ | .fmul _ _ d _ _ | .fma _ _ d _ _ => d.named 3
  | .fcmpeq _ p _ _ | .fcmplt _ p _ _ | .fcmple _ p _ _ | .fcmpun _ p _ _ => pairNamed p
  | .cvtF64I64 _ d _ | .cvtI64F64 _ d _ | .cvtF32I64 _ d _ | .cvtI64F32 _ d _ | .cvtF32F64 _ d _ => d.named 3
  | .cvtF64F32 d _ => d.named 3
  | .call _ => [(0, .s 63)]
  | .callr _ => [(0, .s 63)]
  | .waitph p _ _ _ | .waitbit p _ _ _ => pairNamed p
  | .crrd d _ => d.named 3
  | .crwr cr _ => [(5, .cr cr.toNat)]
  | .dlab d _ _ | .dval d _ _ | .dsize d _ _ | .dlo d _ _ | .dhi d _ _ => d.named 3
  | .vadd _ g _ d _ _ | .vsub _ g _ d _ _ | .vadds _ g _ d _ _ | .vaddsu _ g _ d _ _ | .vsubs _ g _ d _ _ | .vsubsu _ g _ d _ _ | .vmul _ g _ d _ _ | .vmin _ g _ d _ _ | .vmax _ g _ d _ _ | .vminu _ g _ d _ _ | .vmaxu _ g _ d _ _ | .vshl _ g _ d _ _ | .vshr _ g _ d _ _ | .vsar _ g _ d _ _ => d.named 5 (clustersOf g)
  | .vand g _ d _ _ | .vor g _ d _ _ | .vxor g _ d _ _ | .vandn g _ d _ _ | .vsel g _ d _ _ | .vperm g _ d _ _ | .vfmin g _ d _ _ | .vfmax g _ d _ _ => d.named 5 (clustersOf g)
  | .vmov g _ d _ | .vfabs g _ d _ | .vfneg g _ d _ | .vrcp g _ d _ | .vrsqrt g _ d _ | .vexp2 g _ d _ | .vlog2 g _ d _ => d.named 5 (clustersOf g)
  | .vbcast g _ d _ => d.named 5 (clustersOf g)
  | .vidx g _ d => d.named 5 (clustersOf g)
  | .vcmpeq g _ kd _ _ | .vcmplt g _ kd _ _ | .vcmple g _ kd _ _ | .vcmpltu g _ kd _ _ | .vcmpleu g _ kd _ _ | .vfcmpeq g _ kd _ _ | .vfcmplt g _ kd _ _ | .vfcmple g _ kd _ _ | .vfcmpun g _ kd _ _ => kNamed 5 (clustersOf g) kd
  | .kand g _ kd _ _ | .kor g _ kd _ _ | .kxor g _ kd _ _ | .kandn g _ kd _ _ => kNamed 5 (clustersOf g) kd
  | .vfadd _ g _ d _ _ | .vfsub _ g _ d _ _ | .vfmul _ g _ d _ _ | .vfma _ g _ d _ _ => d.named 5 (clustersOf g)
  | .vradd _ g _ d _ | .vrmax _ g _ d _ | .vrmin _ g _ d _ => d.named 5 (clustersOf g)
  | .vxc g _ d _ _ => d.named 5 (clustersOf g)
  | .vcvt _ g _ d _ _ => d.named 5 (clustersOf g)
  | .afromv ad _ => [(3, .a ad.toNat), (3, .n ad.toNat)]
  | .atov vd _ => (List.range 8).map fun c => (4, .v c vd.toNat)
  | .adot d _ _ => d.named 3
  | .adotm vd cl _ _ => [(3, .v cl.toNat vd.toNat)]
  | .ascl ad _ => [(3, .n ad.toNat)]
  | .ascli ad _ => [(3, .n ad.toNat)]
  | .amag d _ => d.named 3
  | .aneg ad _ => [(3, .a ad.toNat), (3, .n ad.toNat)]
  | .aadd ad _ _ | .asub ad _ _ => [(3, .a ad.toNat), (3, .n ad.toNat)]
  | .alerp ad _ _ _ => [(3, .a ad.toNat), (3, .n ad.toNat)]
  | .azero ad => [(3, .n ad.toNat)]
  | .asetn ad _ => [(3, .n ad.toNat)]
  | .mma _ _ acc _ _ _ => accNamed acc
  | .mmaq _ acc _ _ _ => accNamed acc
  | .msca _ acc _ _ _ => accNamed acc
  | .mzero _ acc _ => accNamed acc
  | .mret _ acc d _ _ => accNamed acc ++ d.pairNamed 5
  | .mrets _ acc _ _ _ => accNamed acc
  | .mcvt _ _ _ acc d _ _ => accNamed acc ++ d.named 5
  | .mtr _ _ d _ | .mldl _ _ d _ => d.named 6
  | .mtrs _ _ _ b _ => b.named 6
  | .msetma ma sel _ => [(3, .ma ma.toNat (match sel with | .base => 0 | .stride => 1 | .count => 2))]
  | .lds _ d _ _ => d.named 3
  | .ldv g d _ _ => d.named 3 (clustersOf g)
  | .ald ad _ _ => [(3, .a ad.toNat), (3, .n ad.toNat)]
  | .tld t _ _ _ => [(3, .tile t.toNat)]
  | .tldw wb _ _ => [(3, .blk wb.toNat)]
  | .amoadd d _ _ _ | .amoswp d _ _ _ | .amocas d _ _ _ | .amomin d _ _ _ | .amomax d _ _ _ | .amoand d _ _ _ | .amoor d _ _ _ | .binit d _ _ _ => d.named 3
  | .arrive d _ _ _ => d.named 3
  | .xtld pair t _ _ _ => xTiles pair t
  | .xset cr _ => [(3, .xc cr.toNat)]
  | _ => []

/-- The sources an instruction names among the registers that can be pending (R67): scalars, tiles, block tiles and
accumulators. The source s63 of RET, which no field names, has field index 0 (DESIGN CHOICE, log entry 60). MMAQ only writes its
accumulator (R167). -/
def Instr.srcs : Instr → List Named
  | .add _ a b | .sub _ a b | .and _ a b | .or _ a b | .xor _ a b | .andn _ a b | .shl _ a b | .shr _ a b | .sar _ a b | .min _ a b | .max _ a b | .minu _ a b | .maxu _ a b | .adds _ a b | .subs _ a b | .mul _ a b | .mulh _ a b | .mulhu _ a b | .div _ a b | .divu _ a b | .rem _ a b | .remu _ a b => a.named 4 ++ b.named 5
  | .addi _ a _ | .andi _ a _ | .ori _ a _ | .xori _ a _ | .shli _ a _ | .shri _ a _ | .sari _ a _ => a.named 4
  | .movq d _ keep _ => if keep then d.named 3 else []
  | .cmpeq _ a b | .cmpne _ a b | .cmplt _ a b | .cmple _ a b | .cmpltu _ a b | .cmpleu _ a b => a.named 4 ++ b.named 5
  | .cmpeqi _ a _ | .cmpnei _ a _ | .cmplti _ a _ | .cmplei _ a _ | .cmpltui _ a _ | .cmpleui _ a _ => a.named 4
  | .movsp a => a.named 4
  | .rdcnt _ a | .rddesc _ a => a.named 4
  | .fadd _ _ _ a b | .fsub _ _ _ a b | .fmul _ _ _ a b => a.named 4 ++ b.named 5
  | .fma _ _ d a b => d.named 3 ++ a.named 4 ++ b.named 5
  | .fcmpeq _ _ a b | .fcmplt _ _ a b | .fcmple _ _ a b | .fcmpun _ _ a b => a.named 4 ++ b.named 5
  | .cvtF64I64 _ _ a | .cvtI64F64 _ _ a | .cvtF32I64 _ _ a | .cvtI64F32 _ _ a | .cvtF32F64 _ _ a => a.named 4
  | .cvtF64F32 _ a => a.named 4
  | .brr a | .callr a => a.named 3
  | .ret => [(0, .s 63)]
  | .loopr _ a => a.named 4
  | .waitph _ a b _ | .waitbit _ a b _ => a.named 5 ++ b.named 6
  | .crwr _ a => a.named 4
  | .delem _ _ b _ => b.named 5
  | .dset _ a b _ => a.named 4 ++ b.named 5
  | .vbcast _ _ _ s => [(6, .s s.toNat)]
  | .adotm _ _ _ b => b.named 5
  | .ascl _ b | .asetn _ b => b.named 5
  | .alerp _ _ _ t => t.named 5
  | .mma _ _ acc a b _ => accNamed acc ++ a.named 5 ++ b.named 6
  | .mmaq _ _ a b _ => a.named 5 ++ b.named 6
  | .msca _ acc _ _ _ => accNamed acc
  | .mret _ acc _ _ _ => accNamed acc
  | .mrets _ acc _ b _ => accNamed acc ++ b.named 6
  | .mcvt _ _ _ acc _ _ _ => accNamed acc
  | .mtr _ a _ _ | .mldl _ a _ _ => a.named 5
  | .mtrs _ _ a b _ => a.named 5 ++ b.named 6
  | .msetma _ _ a => a.named 5
  | .lds _ _ a _ => a.named 4
  | .ldv _ _ a _ => a.named 5
  | .ald _ a _ => a.named 4
  | .tld _ a b _ => a.named 4 ++ b.named 5
  | .tldw _ a _ => a.named 4
  | .sts _ a b _ => a.named 3 ++ b.named 4
  | .stv _ _ b _ => b.named 5
  | .ast _ b _ => b.named 4
  | .tst t a b _ => [(3, .tile t.toNat)] ++ a.named 4 ++ b.named 5
  | .amocas d a b _ => d.named 3 ++ a.named 4 ++ b.named 5
  | .amoadd _ a b _ | .amoswp _ a b _ | .amomin _ a b _ | .amomax _ a b _ | .amoand _ a b _ | .amoor _ a b _ | .binit _ a b _ => a.named 4 ++ b.named 5
  | .arrive _ a _ _ => a.named 4
  | .xtld _ _ a b _ => a.named 3 ++ b.named 4
  | .xtst pair t a b _ => a.named 3 ++ b.named 4 ++ xTiles pair t
  | .xcpy a b c _ | .pput a b c _ | .pget a b c _ => a.named 3 ++ b.named 4 ++ c.named 5
  | .xset _ a => a.named 4
  | _ => []

/-- The fixed latency of an instruction's results (R65, R69); 0 for one that lands none. -/
def Instr.latency (classB : Bool) : Instr → Nat
  | .add _ _ _ | .sub _ _ _ | .and _ _ _ | .or _ _ _ | .xor _ _ _ | .andn _ _ _ | .shl _ _ _ | .shr _ _ _ | .sar _ _ _ | .min _ _ _ | .max _ _ _ | .minu _ _ _ | .maxu _ _ _ | .adds _ _ _ | .subs _ _ _ => 1
  | .mul _ _ _ | .mulh _ _ _ | .mulhu _ _ _ => 3
  | .div _ _ _ | .divu _ _ _ | .rem _ _ _ | .remu _ _ _ => 18
  | .addi _ _ _ | .andi _ _ _ | .ori _ _ _ | .xori _ _ _ | .shli _ _ _ | .shri _ _ _ | .sari _ _ _ => 1
  | .movq _ _ _ _ => 1
  | .cmpeq _ _ _ | .cmpne _ _ _ | .cmplt _ _ _ | .cmple _ _ _ | .cmpltu _ _ _ | .cmpleu _ _ _ | .cmpeqi _ _ _ | .cmpnei _ _ _ | .cmplti _ _ _ | .cmplei _ _ _ | .cmpltui _ _ _ | .cmpleui _ _ _ => 2
  | .pand _ _ _ | .por _ _ _ | .pxor _ _ _ | .pandn _ _ _ => 1
  | .movps _ | .movsp _ => 1
  | .rdcnt _ _ | .rddesc _ _ => 2
  | .rdtime _ => 2
  | .fadd _ _ _ _ _ | .fsub _ _ _ _ _ | .fmul _ _ _ _ _ => 3
  | .fma _ _ _ _ _ => 4
  | .fcmpeq _ _ _ _ | .fcmplt _ _ _ _ | .fcmple _ _ _ _ | .fcmpun _ _ _ _ => 2
  | .cvtF64I64 _ _ _ | .cvtI64F64 _ _ _ | .cvtF32I64 _ _ _ | .cvtI64F32 _ _ _ | .cvtF32F64 _ _ _ => 3
  | .cvtF64F32 _ _ => 3
  | .call _ | .callr _ => 1
  | .waitph _ _ _ _ | .waitbit _ _ _ _ => 2
  | .crrd _ _ => 2
  | .crwr _ _ => 1
  | .vadd _ _ _ _ _ _ | .vsub _ _ _ _ _ _ | .vadds _ _ _ _ _ _ | .vaddsu _ _ _ _ _ _ | .vsubs _ _ _ _ _ _ | .vsubsu _ _ _ _ _ _ | .vmul _ _ _ _ _ _ | .vmin _ _ _ _ _ _ | .vmax _ _ _ _ _ _ | .vminu _ _ _ _ _ _ | .vmaxu _ _ _ _ _ _ | .vshl _ _ _ _ _ _ | .vshr _ _ _ _ _ _ | .vsar _ _ _ _ _ _ => 2
  | .vand _ _ _ _ _ | .vor _ _ _ _ _ | .vxor _ _ _ _ _ | .vandn _ _ _ _ _ | .vsel _ _ _ _ _ | .vperm _ _ _ _ _ | .vfmin _ _ _ _ _ | .vfmax _ _ _ _ _ => 2
  | .vmov _ _ _ _ | .vfabs _ _ _ _ | .vfneg _ _ _ _ | .vbcast _ _ _ _ => 2
  | .vidx _ _ _ => 2
  | .vcmpeq _ _ _ _ _ | .vcmplt _ _ _ _ _ | .vcmple _ _ _ _ _ | .vcmpltu _ _ _ _ _ | .vcmpleu _ _ _ _ _ | .vfcmpeq _ _ _ _ _ | .vfcmplt _ _ _ _ _ | .vfcmple _ _ _ _ _ | .vfcmpun _ _ _ _ _ | .kand _ _ _ _ _ | .kor _ _ _ _ _ | .kxor _ _ _ _ _ | .kandn _ _ _ _ _ => 2
  | .vfadd _ _ _ _ _ _ | .vfsub _ _ _ _ _ _ | .vfmul _ _ _ _ _ _ | .vfma _ _ _ _ _ _ => 4
  | .vrcp _ _ _ _ | .vrsqrt _ _ _ _ | .vexp2 _ _ _ _ | .vlog2 _ _ _ _ => 8
  | .vradd _ _ _ _ _ | .vrmax _ _ _ _ _ | .vrmin _ _ _ _ _ => 6
  | .vxc _ _ _ _ _ => 1
  | .vcvt _ _ _ _ _ _ => 3
  | .afromv _ _ => 8
  | .atov _ _ => 4
  | .adot _ _ _ => 5
  | .adotm _ _ _ _ => 21
  | .ascl _ _ | .asetn _ _ => 1
  | .ascli _ _ => 1
  | .amag _ _ => 1
  | .aneg _ _ => 1
  | .azero _ => 1
  | .aadd _ _ _ | .asub _ _ _ => 8
  | .alerp _ _ _ _ => 8
  | .msetma _ _ _ => 1
  | .lds _ _ _ _ => if classB then 6 else 4
  | .ldv _ _ _ _ => if classB then 6 else 4
  | .ald _ _ _ => if classB then 6 else 4
  | .xset _ _ => 1
  | _ => 0

/-- The wait token an operation names (R67). -/
def Instr.token : Instr → Option Nat
  | .dadd _ _ _ w | .dsub _ _ _ w | .dmul _ _ _ w | .dmin _ _ _ w | .dmax _ _ _ w => some w.toNat
  | .deq _ _ w | .dne _ _ w | .dlt _ _ w | .dle _ _ w => some w.toNat
  | .deqi _ _ w | .dnei _ _ w | .dlti _ _ w | .dlei _ _ w | .dgti _ _ w | .dgei _ _ w => some w.toNat
  | .din _ _ _ w | .dnotin _ _ _ w => some w.toNat
  | .delem _ _ _ w | .dset _ _ _ w => some w.toNat
  | .dlab _ _ w | .dval _ _ w | .dsize _ _ w | .dlo _ _ w | .dhi _ _ w => some w.toNat
  | .dsettle w => some w.toNat
  | .mma _ _ _ _ _ w => some w.toNat
  | .mmaq _ _ _ _ w | .msca _ _ _ _ w => some w.toNat
  | .mzero _ _ w => some w.toNat
  | .mret _ _ _ _ w | .mrets _ _ _ _ w => some w.toNat
  | .mcvt _ _ _ _ _ _ w => some w.toNat
  | .mtr _ _ _ w | .mldl _ _ _ w => some w.toNat
  | .mtrs _ _ _ _ w => some w.toNat
  | .tld _ _ _ w | .tst _ _ _ w => some w.toNat
  | .tldw _ _ w => some w.toNat
  | .amoadd _ _ _ w | .amoswp _ _ _ w | .amocas _ _ _ w | .amomin _ _ _ w | .amomax _ _ _ w | .amoand _ _ _ w | .amoor _ _ _ w | .binit _ _ _ w => some w.toNat
  | .arrive _ _ _ w => some w.toNat
  | .xtld _ _ _ _ w | .xtst _ _ _ _ w => some w.toNat
  | .xcpy _ _ _ w | .pput _ _ _ w | .pget _ _ _ w => some w.toNat
  | .xgo w => some w.toNat
  | _ => none

/-- The in-order queue an operation enters (R67, R211, R280, R345). -/
def Instr.queue : Instr → Option QueueId
  | .dadd _ _ _ _ | .dsub _ _ _ _ | .dmul _ _ _ _ | .dmin _ _ _ _ | .dmax _ _ _ _ => some .d
  | .deq _ _ _ | .dne _ _ _ | .dlt _ _ _ | .dle _ _ _ => some .d
  | .deqi _ _ _ | .dnei _ _ _ | .dlti _ _ _ | .dlei _ _ _ | .dgti _ _ _ | .dgei _ _ _ => some .d
  | .din _ _ _ _ | .dnotin _ _ _ _ | .delem _ _ _ _ | .dset _ _ _ _ => some .d
  | .dseti _ _ _ => some .d
  | .dlab _ _ _ | .dval _ _ _ | .dsize _ _ _ | .dlo _ _ _ | .dhi _ _ _ => some .d
  | .dsettle _ => some .d
  | .dclr => some .d
  | .dopen _ => some .d
  | .dclose => some .d
  | .mma _ _ _ _ _ _ => some .m
  | .mmaq _ _ _ _ _ | .msca _ _ _ _ _ | .mret _ _ _ _ _ | .mrets _ _ _ _ _ | .mtrs _ _ _ _ _ => some .m
  | .mzero _ _ _ => some .m
  | .mcvt _ _ _ _ _ _ _ => some .m
  | .mtr _ _ _ _ | .mldl _ _ _ _ => some .m
  | .tld _ _ _ _ | .tst _ _ _ _ => some .mem
  | .tldw _ _ _ => some .mem
  | .amoadd _ _ _ _ | .amoswp _ _ _ _ | .amocas _ _ _ _ | .amomin _ _ _ _ | .amomax _ _ _ _ | .amoand _ _ _ _ | .amoor _ _ _ _ | .binit _ _ _ _ | .arrive _ _ _ _ => some .mem
  | .xtld _ _ _ _ _ | .xtst _ _ _ _ _ => some .mem
  | .xcpy _ _ _ _ | .pput _ _ _ _ | .pget _ _ _ _ => some .x
  | .xgo _ => some .x
  | _ => none

/-- The clusters whose ports a V slot takes (R59, R137). -/
def Instr.ports (i : Instr) : List Nat :=
  if i.kind = some .v0 then (i.dests.filterMap fun d => match d.2 with
    | .v c _ => some c
    | .vl c _ => some c
    | .k c _ => some c
    | _ => none)
  else []

/-- The clusters in which an instruction counts a landing to v registers or latches (R66, R138). -/
def Instr.clusterLandings (i : Instr) : List Nat :=
  i.dests.filterMap fun d => match d.2 with
    | .v c _ => some c
    | .vl c _ => some c
    | _ => none

end Sys2Proof
end

