-- ==== Sys2Proof/Machine/Fetch.lean ====
section
/-! DEFINITION. Fetching an issue group and its legality (R50 to R64, R266, R272, R288), and the bodies of hardware loops
(R123 to R125). -/

namespace Sys2Proof.Machine

/-- A fetch fault: its cause and the address. -/
abbrev FetchRes (α : Type) := Except (Cause × Addr) α

/-- Fetch one word for a core: X permission, addresses below 2^56, never the on-chip map (R238, R272, R288). -/
def State.fetchWord (s : State) (g : Nat) (va : W64) : FetchRes W32 :=
  let a : Addr := va.setWidth 60
  if 2 ^ 56 ≤ va.toNat then .error (.xlate, a)
  else match s.translate (s.partOf g) (some g) (some (Config.dieOf g)) va needX with
    | .fault k _ => .error (k, a)
    | .ok x => match x.loc with
      | .mem _ => .ok (ofBytes 32 (s.ord.readView (Config.dieOf g) x.pa 4))
      | .host => .ok (ofBytes 32 (amRead s.ord.host x.pa 4))
      | .port _ _ | .reg _ _ => .error (.perm, a)

/-- Fetch consecutive words. -/
def State.fetchWords (s : State) (g : Nat) : Nat → W64 → FetchRes (List Byte)
  | 0, _ => .ok []
  | n + 1, va => match s.fetchWord g va with
    | .error e => .error e
    | .ok w => match s.fetchWords g n (va + 4) with
      | .error e => .error e
      | .ok bs => .ok (bytesOf 4 w ++ bs)

/-- Fetch one bundle: its header word says how long it is (R50, R51). -/
def State.fetchBundle (s : State) (g : Nat) (va : W64) : FetchRes Bundle :=
  match s.fetchWord g va with
  | .error e => .error e
  | .ok h => match s.fetchWords g (bundleBytes (maskKinds (headerOf h).mask).length / 4) va with
    | .error e => .error e
    | .ok bs => .ok (decodeBundle bs)

/-- Fetch the bundles of a group: up to and with the first whose STOP is 1, at most 12 (R52). -/
def State.fetchBundles (s : State) (g : Nat) : Nat → W64 → FetchRes (List (Addr × Bundle))
  | 0, _ => .ok []
  | n + 1, va => match s.fetchBundle g va with
    | .error e => .error e
    | .ok b =>
      if b.header.stop then .ok [(va.setWidth 60, b)]
      else match s.fetchBundles g n (va + BitVec.ofNat 64 b.bytes) with
        | .error e => .error e
        | .ok bs => .ok ((va.setWidth 60, b) :: bs)

/-! ## Legality (R52, R62, R63) -/

/-- The header of bundle i of a group of n is illegal (R51, R52). -/
def headerBad (n i : Nat) (b : Bundle) : Bool :=
  !b.header.reservedZero || ((b.header.comma || b.header.window) && decide (i ≠ 0)) ||
    (decide (b.header.e ≠ 0) && decide (i + 1 ≠ n)) || (decide (b.header.mask = 0) && !b.header.stop)

/-- A matrix command whose destination tiles are named through an ma register. -/
def maDest : Instr → Bool
  | .mret _ _ (.ma _) _ _ | .mcvt _ _ _ _ (.ma _) _ _ | .mtr _ _ (.ma _) _ | .mldl _ _ (.ma _) _ | .mtrs _ _ _ (.ma _) _ => true
  | _ => false

/-- The destinations an encoding names for R62: an ma register names no tile of its own. The link s63 of CALL and CALLR counts, so that CALL
beside another writer of s63 is an illegal group (DESIGN CHOICE, log entry 60). -/
def namedDests (i : Instr) : List Named :=
  if maDest i then i.dests.filter fun n => match n.2 with | .tile _ => false | _ => true else i.dests

/-- The clusters whose port a slot takes (R59). -/
def portsOf (k : SlotKind) (i : Instr) : List Nat :=
  match k with
  | .v0 | .v1 | .v2 | .v3 => i.ports
  | _ => []

/-- The operation that a slot's bits give, with the indices of its offending fields; none for an unassigned opcode. -/
def slotOp (r : DecodeRes Slot) : Option (Instr × List Nat) :=
  match r with
  | .ok s => some (s.op, [])
  | .error e => e.op.map fun i => (i, e.fields)

/-- The offences of a group's slots: slot number and field index. A slot with an offending field still counts for the destinations that
its other fields name and for its clusters (R62, R63). -/
def slotOffences (xs : List (SlotKind × DecodeRes Slot)) : List (Nat × Nat) :=
  let errs := xs.filterMap fun x => match x.2 with | .error e => some (x.1.num, e.index) | .ok _ => none
  let oks : List (SlotKind × Instr × List Nat) := xs.filterMap fun x => (slotOp x.2).map fun o => (x.1, o)
  let twice := (xs.filter fun x => decide (1 < (xs.filter fun y => y.1 == x.1).length)).map fun x => (x.1.num, 0)
  let crowd := (oks.filter fun x => (portsOf x.1 x.2.1).any fun c =>
    decide (2 < (oks.filter fun y => (portsOf y.1 y.2.1).contains c).length)).map fun x => (x.1.num, 0)
  let ds := oks.zipIdx.flatMap fun x =>
    ((namedDests x.1.2.1).filter fun n => !x.1.2.2.contains n.1).map fun n => (x.2, x.1.1.num, n)
  let dup := (ds.filter fun x => ds.any fun y => y.1 != x.1 && y.2.2.2 == x.2.2.2).map fun x => (x.2.1, x.2.2.1)
  errs ++ twice ++ crowd ++ dup

/-- The mask of the offending slots, and for each the lowest offending field index (R63). -/
def offenceWords (os : List (Nat × Nat)) : BitVec 12 × BitVec 48 :=
  (os.foldl (fun m o => m ||| (1#12 <<< o.1)) 0,
   (List.range 12).foldl (fun m k =>
     match (os.filter fun o => o.1 == k).map fun o => o.2 with
     | [] => m
     | i :: is => m ||| (BitVec.ofNat 48 (is.foldl min i) <<< (4 * k))) 0)

/-- A group from its bundles (R52, R62). -/
def groupOf (a : Addr) (bs : List (Addr × Bundle)) : Group :=
  let n := bs.length
  let hdr := (bs.zipIdx.any fun x => headerBad n x.2 x.1.2) || !(match bs.getLast? with | some b => b.2.header.stop | none => false)
  let xs := bs.flatMap fun b => b.2.slots
  let os := slotOffences xs
  let w := offenceWords os
  { addr := a
    len := bs.foldl (fun k b => k + b.2.bytes) 0
    comma := match bs.head? with | some b => b.2.header.comma | none => false
    window := match bs.head? with | some b => b.2.header.window | none => false
    e := match bs.getLast? with | some b => b.2.header.e.toNat | none => 0
    slots := bs.flatMap fun b => b.2.slots.filterMap fun x => match x.2 with | .ok s => some (x.1, s, b.1) | .error _ => none
    bad := if hdr || decide (os ≠ []) then some (hdr, w.1, w.2) else none }

/-- Fetch a group at an address (R52, R53). -/
def State.fetchGroup (s : State) (g : Nat) (va : W64) : FetchRes Group :=
  match s.fetchBundles g 12 va with
  | .error e => .error e
  | .ok bs => .ok (groupOf (va.setWidth 60) bs)

/-- The slot mask of a group. -/
def Group.mask (x : Group) : BitVec 12 := x.slots.foldl (fun m y => m ||| (1#12 <<< y.1.num)) 0

/-! ## Loop bodies (R123 to R125) -/

/-- The bytes of the group at an address, from its headers alone. -/
def State.groupLen (s : State) (g : Nat) : Nat → W64 → Option Nat
  | 0, _ => some 0
  | n + 1, va => match s.fetchWord g va with
    | .error _ => none
    | .ok h =>
      let k := bundleBytes (maskKinds (headerOf h).mask).length
      if (headerOf h).stop then some k
      else (s.groupLen g n (va + BitVec.ofNat 64 k)).map fun m => k + m

/-- The group at an address in the loop buffer: it has issued in the current activation of an active level (R53, R123, R124). -/
def CoreSt.buffered (c : CoreSt) (a : Addr) : Option Group := c.flow.loops.findSome? fun l => l.buf.find? fun x => x.addr == a

/-- The bytes of the group at an address as a core would issue it: from the loop buffer, else from memory (R123). -/
def State.lenAt (s : State) (g : Nat) (a : Addr) : Option Nat :=
  match (s.core g).buffered a with
  | some x => some x.len
  | none => s.groupLen g 12 (a.setWidth 64)

/-- The addresses of up to n consecutive groups that can be found, the address after them, and how many were not found. -/
def State.groupsFrom (s : State) (g : Nat) : Nat → Addr → List Addr × Addr × Nat
  | 0, a => ([], a, 0)
  | n + 1, a => match s.lenAt g a with
    | none => ([], a, n + 1)
    | some k =>
      let r := s.groupsFrom g n (a + BitVec.ofNat 60 k)
      (a :: r.1, r.2.1, r.2.2)

/-- The address of a loop body's first group. -/
def Loop.start (l : Loop) : Addr := l.addrs.headD l.found

namespace CoreSt

/-- The trip count and body length of a loop instruction (R123). -/
def trips (c : CoreSt) : Instr → Option (Nat × Nat)
  | .loop b n => some (b.toNat + 1, n.toNat)
  | .loopr b a => some (b.toNat + 1, (c.src a).toNat)
  | _ => none

/-- The groups of the enclosing body that follow an address (R124): those found beyond it and those not yet found, or, where the group at the
address lies beyond groups that could not be found, those from it to the known end of the body. -/
def bodyLeft (c : CoreSt) (a : Addr) : Option Nat :=
  (c.flow.loops.getLast?).map fun l => match l.after with
    | some k => k
    | none => (l.addrs.filter fun x => decide (a.toNat < x.toNat)).length + l.left

/-- A loop's body lies within the enclosing one (R124). -/
def loopFits (c : CoreSt) (a : Addr) (n : Nat) : Bool :=
  match c.bodyLeft a with
  | some k => decide (n ≤ k)
  | none => true

/-- Open a loop level (R123, R387). -/
def openLoop (c : CoreSt) (addrs : List Addr) (found : Addr) (left trips : Nat) : CoreSt :=
  let lv := c.flow.suspended.length + c.flow.loops.length
  let l : Loop := { addrs := addrs, found := found, left := left, endA := if left = 0 then some found else none, remain := BitVec.ofNat 64 (trips - 1), buf := [], begun := false,
                    inHandler := c.ctrl.handler, after := none }
  let c := { c with flow := { c.flow with loops := c.flow.loops ++ [l] } }
  c.zeroBank (lv + 1)

/-- A target lies in a loop's body, from its first group to the end of its last (R125). Groups that have not been found take at most
twelve bundles of 64 bytes each (R50, R52). -/
def inBody (l : Loop) (t : W64) : Bool :=
  decide (l.start.toNat ≤ t.toNat) && decide (t.toNat < (match l.endA with | some e => e.toNat | none => l.found.toNat + 768 * l.left))

end CoreSt

/-- How many groups stand from one address to another, where each can be read. -/
def State.groupsTo (s : State) (g : Nat) : Nat → Addr → Addr → Option Nat
  | 0, a, e => if a = e then some 0 else none
  | f + 1, a, e =>
    if a = e then some 0
    else match s.lenAt g a with
      | none => none
      | some k => (s.groupsTo g f (a + BitVec.ofNat 60 k) e).map (· + 1)

/-- A level finds groups of its body that could not be read before (R123), and, where some still cannot be, counts those that follow the group
reached up to the body's known end (R124). -/
def State.findBody (s : State) (g : Nat) (pc : Addr) (l : Loop) : Loop :=
  if l.left = 0 then l
  else
    let r := s.groupsFrom g l.left l.found
    let m : Loop := { l with addrs := l.addrs ++ r.1, found := r.2.1, left := r.2.2, endA := l.endA.or (if r.2.2 = 0 then some r.2.1 else none) }
    { m with after := if m.left = 0 ∨ pc.toNat < m.found.toNat then none
                      else m.endA.bind fun e => (s.groupsTo g m.left pc e).map (· - 1) }

/-- A group that begins at an address may be one of a loop's body: the first of the groups not found begins where those found end, and each
before it takes at most twelve bundles of 64 bytes (R50, R52). -/
def mayHold (l : Loop) (a : Addr) : Bool :=
  CoreSt.inBody l (a.setWidth 64) && (l.endA.isSome || decide (a.toNat ≤ l.found.toNat + 768 * (l.left - 1)))

/-- As a group is reached, the levels with groups not yet found look for them: a level whose body proves not to contain the group has ended
with the branch that led here (R125). -/
def State.findBodies (s : State) (g : Nat) (pc : Addr) : State :=
  let find (l : Loop) : Option Loop :=
    let m := s.findBody g pc l
    if l.left = 0 || mayHold m pc then some m else none
  s.onCore g fun c => { c with flow := { c.flow with loops := c.flow.loops.filterMap find } }

end Sys2Proof.Machine
end

