-- ==== Sys2Proof/Machine/Ops.lean ====
section
/-! DEFINITION. The operations that every instruction shares: results in flight and their landing (R65), wait tokens
(R67), precise faults and their order (R233), taking a trap and returning from it (R240, R243, R244), blast records (R367)
and trace records (R392, R393). -/

namespace Sys2Proof.Machine

namespace CoreSt

/-! ## Results in flight -/

/-- The core runs class-A code with cr.compat set on class-B loads (R70). -/
def compatible (c : CoreSt) : Bool := c.ctrl.compat && c.classB

/-- Put a result in flight: it lands `lat` cycles after the issuing cycle (R65). A scratchpad load under cr.compat lands 2 cycles after its
place in the landing order of a class-A core (R70). -/
def fly (c : CoreSt) (lat : Nat) (dests : List Dest) (writes : List Write) (flags : Flg) (load : Option Load := none) :
    CoreSt :=
  { c with flow := { c.flow with flight := c.flow.flight ++
      [{ due := c.flow.cyc + lat, issued := c.flow.cyc, slot := c.flow.slotIdx, bundle := c.flow.bundleA, dests := dests,
         load := load, loadAt := (match load with | none => none | some (.adotm _ _ _ _ _) => none | some _ => some c.flow.steps)
         lag := (match load with | none => 0 | some (.adotm _ _ _ _ _) => 0 | some _ => if c.compatible then 2 else 0), writes := writes, flags := flags }] } }

/-- The write of a scalar result (R58, R102). -/
def wS (d : SDst) (x : W64) : List Write :=
  match d with
  | .reg n => [.sreg n.toNat x]
  | .latch k => [.slatch k.toNat x]
/-- The write of a vector result in a cluster under a bit mask (R139). -/
def wV (d : VDst) (c : Nat) (x mask : W512) : Write :=
  match d with
  | .reg n => .vreg c n.toNat x mask
  | .latch k => .vlatch c k.toNat (x &&& mask)

/-- The sign- or zero-extended value of scratchpad bytes (R281). -/
def loadValue (t : LdTy) (bs : List Byte) : W64 :=
  match t with
  | .i8 => (ofBytes 8 bs).signExtend 64 | .n8 => (ofBytes 8 bs).setWidth 64
  | .i16 => (ofBytes 16 bs).signExtend 64 | .n16 => (ofBytes 16 bs).setWidth 64
  | .i32 => (ofBytes 32 bs).signExtend 64 | .n32 => (ofBytes 32 bs).setWidth 64
  | .i64 => ofBytes 64 bs

/-- The size of a scalar load. -/
def loadSize : LdTy → Nat
  | .i8 => 1 | .n8 => 1 | .i16 => 2 | .n16 => 2 | .i32 => 4 | .n32 => 4 | .i64 => 8
/-- The size of a scalar store. -/
def storeSize : StTy → Nat
  | .i8 => 1 | .i16 => 2 | .i32 => 4 | .i64 => 8

/-- The lanes of ADOTM: one key at each 512 bytes (R189). -/
def adotmLanes (c : CoreSt) (u : AxisBits) (n : W32) (x : Nat) : W512 × Flg :=
  let rs := (List.range 16).map fun j =>
    let k := c.spadRead (x + 512 * j) 260
    Axis.cosine u n (if (ofBytes 32 (k.drop 256) : W32) = nZero then 0 else ofBytes 2048 (k.take 256)) (ofBytes 32 (k.drop 256))
  (packElems 512 (rs.map fun r => BitVec.ofNat 32 r.1), rs.foldl (fun f r => f ||| r.2) 0)

/-- What a scratchpad read performed now will write (R65, R189, R196, R281). -/
def performLoad (c : CoreSt) : Load → List Write × Flg
  | .lds t d x => (wS d (loadValue t (c.spadRead x (loadSize t))), 0)
  | .ldv cs d x =>
    ((List.range cs.length).map fun k => wV d (cs.getD k 0) (ofBytes 512 (c.spadRead (x + 64 * k) 64)) (.allOnes 512), 0)
  | .ald i x => ([.aload i (ofBytes 2048 (c.spadRead x 256)) (ofBytes 32 (c.spadRead (x + 256) 4))], 0)
  | .adotm cl vd u n x =>
    let r := c.adotmLanes u n x
    ([.vreg cl vd r.1 (.allOnes 512)], r.2)

/-- The scratchpad reads of the results issued in the previous cycle (R65). -/
def readLoads (c : CoreSt) (k : Nat) : CoreSt :=
  { c with flow := { c.flow with flight := c.flow.flight.map fun f =>
      match f.load with
      | some l =>
        if f.issued + 1 = k then
          let r := c.performLoad l
          { f with load := none, writes := r.1, flags := f.flags ||| r.2 }
        else f
      | none => f } }

/-- Whether a result writes a control register: such a write stands from the issuing cycle on (R134), before anything
raised in the next. -/
def isCr (f : InFlight) : Bool := f.writes.any fun w => match w with | .cr _ _ => true | _ => false

/-- A scratchpad store in flight. -/
def isStore (f : InFlight) : Bool := f.writes.any fun w => match w with | .spad _ _ => true | _ => false

/-- A register result takes effect by cycle k: a load under cr.compat at its place in the landing order of a class-A core (R65, R70). -/
def lands (k : Nat) (f : InFlight) : Bool := decide (f.due - f.lag ≤ k) && !isStore f
/-- What of a result is in flight after cycle k: a load that has taken effect before its own latency has passed stays, with nothing left to
write, as long as it holds groups under COMPAT (R70). -/
def leftOf (k : Nat) (f : InFlight) : Option InFlight :=
  if !lands k f then some f
  else if f.due ≤ k then none
  else some { f with dests := [], writes := [], flags := 0, lag := 0 }

/-- Every register result of cycle k takes effect: control registers first, then the rest in issue order (R70, R134, R239). -/
def landDue (c : CoreSt) (k : Nat) : CoreSt :=
  let due := c.flow.flight.filter (lands k)
  let b := { c with flow := { c.flow with flight := c.flow.flight.filterMap (leftOf k) } }
  (due.filter fun f => !isCr f).foldl land ((due.filter isCr).foldl land b)

/-- The start of cycle k: scratchpad reads, then the landings (R65). -/
def landAt (c : CoreSt) (k : Nat) : CoreSt := (c.readLoads k).landDue k

/-- A cycle held under COMPAT: it is none of a class-A core's, so what is in flight, but for stores, takes effect a cycle later; a load's own latency
passes as before (R70; log entry 76). -/
def holdCompat (c : CoreSt) : CoreSt :=
  let later (f : InFlight) : InFlight :=
    if isStore f then f else if f.loadAt.isSome then { f with lag := f.lag - 1 } else { f with due := f.due + 1 }
  { c with flow := { c.flow with flight := c.flow.flight.map later } }

/-- The end of cycle k: the scratchpad stores due in it write. A read of the cycle sees the bytes before (R65, R208). -/
def landStores (c : CoreSt) (k : Nat) : CoreSt :=
  let now (f : InFlight) : Bool := decide (f.due ≤ k) && isStore f
  (c.flow.flight.filter now).foldl land { c with flow := { c.flow with flight := c.flow.flight.filter fun f => !now f } }

/-- Let every fixed-latency result of earlier groups land (R55, R240, R256). -/
def landAll (c : CoreSt) : CoreSt :=
  (List.range 24).foldl (fun c i => if c.flow.flight = [] then c else (c.landAt (c.flow.cyc + i)).landStores (c.flow.cyc + i)) c

/-! ## Wait tokens (R67, R162, R212) -/

/-- A wait token. -/
def token (c : CoreSt) (w : Nat) : Token := vget .idle c.flow.tokens w
/-- Replace a wait token. -/
def setToken (c : CoreSt) (w : Nat) (t : Token) : CoreSt := { c with flow := { c.flow with tokens := vset c.flow.tokens w t } }
/-- An operation names a token at issue: its destinations become pending (R67). -/
def tokOpen (c : CoreSt) (w : Nat) (q : QueueId) (dests : List Dest) : CoreSt :=
  let c := c.setToken w { c.token w with out := (c.token w).out + 1 }
  { c with flow := { c.flow with pending := c.flow.pending ++ dests.map fun d => { dest := d, tok := w, queue := q } } }
/-- An operation of a token completes (R162). -/
def tokDone (c : CoreSt) (w : Option Nat) : CoreSt :=
  match w with
  | none => c
  | some w => c.setToken w { c.token w with out := (c.token w).out - 1 }
/-- A WAIT on a token issues: its destinations are pending no more and the token is idle (R67, R126). -/
def tokRelease (c : CoreSt) (w : Nat) : CoreSt :=
  let c := if (c.token w).out = 0 then c.setToken w .idle else c
  { c with flow := { c.flow with pending := c.flow.pending.filter fun p => p.tok != w } }

/-- Write a token operation's scalar result (R58). -/
def putS (c : CoreSt) (d : SDst) (x : W64) : CoreSt :=
  match d with
  | .reg n => c.setSreg n.toNat x
  | .latch k => c.setSlatch k.toNat x

/-! ## Addresses of the local forms -/

/-- a + sext(offset) as a 64-bit address. -/
def addOfs {n : Nat} (a : W64) (o : BitVec n) : W64 := a + o.signExtend 64
/-- a + 64 × sext(OFS9). -/
def addLines (a : W64) (o : BitVec 9) : W64 := a + (o.signExtend 64 <<< 6)
/-- An access of n bytes reaches past 2 MiB (R281). -/
def past (x : W64) (n : Nat) : Bool := decide (Config.spadBytes < x.toNat + n)

/-- A scratchpad access: its address, its size, the alignment asked of it and the field that names the address. -/
def localAccess (c : CoreSt) : Instr → Option (W64 × Nat × Nat × Nat)
  | .lds t _ a o => some (addOfs (c.src a) o, loadSize t, loadSize t, 4)
  | .ldv g _ a o => some (addLines (c.src a) o, 64 * (clustersOf g).length, 64, 5)
  | .ald _ a o => some (addOfs (c.src a) o, 260, 4, 4)
  | .sts t _ b o => some (addOfs (c.src b) o, storeSize t, storeSize t, 4)
  | .stv g _ b o => some (addLines (c.src b) o, 64 * (clustersOf g).length, 64, 5)
  | .ast _ b o => some (addOfs (c.src b) o, 260, 4, 4)
  | .adotm _ _ _ b => some (c.src b, 8192, 256, 5)
  | .delem _ _ b _ => some (c.src b, 256, 4, 5)
  | _ => none

/-- The addresses of a memory or copy form that must be multiples, with the field that names each (R121, R127, R283, R284,
R286, R287, R347, R348, R350). No field names those of XGO, which are shadow registers, nor s63 of RET: their index is 0 (DESIGN CHOICE, log
entry 95). -/
def aligned (c : CoreSt) : Instr → List (W64 × Nat × Nat)
  | .brr a | .callr a => [(c.src a, 4, 3)]
  | .ret => [(c.sreg 63, 4, 0)]
  | .waitph _ a _ _ => [(c.src a, 16, 5)]
  | .waitbit _ a _ _ => [(c.src a, 8, 5)]
  | .tld _ a b _ | .tst _ a b _ => [(c.src a, 64, 4), (c.src b, 64, 5)]
  | .tldw _ a _ => [(c.src a, 64, 4)]
  | .amoadd _ a _ _ | .amoswp _ a _ _ | .amocas _ a _ _ | .amomin _ a _ _ | .amomax _ a _ _ | .amoand _ a _ _
  | .amoor _ a _ _ => [(c.src a, 8, 4)]
  | .binit _ a _ _ | .arrive _ a _ _ => [(c.src a, 16, 4)]
  | .xtld _ _ a b _ | .xtst _ _ a b _ => [(c.src a, 64, 3), (c.src b, 64, 4)]
  | .xcpy a b d _ | .pput a b d _ | .pget a b d _ => [(c.src a, 64, 3), (c.src b, 64, 4), (c.src d, 64, 5)]
  | .xgo _ =>
    [(c.xc.dst, 64, 0), (if c.xc.kind.toNat % 4 = 0 then c.xc.src else 0, 64, 0), (c.xc.len, 64, 0), (c.xc.dstride, 64, 0),
     (c.xc.sstride, 64, 0)]
  | _ => []

/-! ## Precise faults (R233) -/

/-- An offending slot: its index, the field index of R63, and the address the record names. -/
structure Offence where
  slot  : Nat
  field : Nat
  va    : Addr
  deriving DecidableEq, Repr

/-- An issuing slot of a group: its index, its operation and its bundle's address. -/
structure Issuing where
  slot   : Nat
  op     : Instr
  bundle : Addr
  deriving DecidableEq, Repr

/-- The token that a WAIT of the group releases (R67). -/
def waitedTok (g : List Issuing) : Option Nat :=
  g.findSome? fun i => match i.op with | .wait w => some w.toNat | _ => none

/-- TOKHAZ: a named pending destination, unless the same in-order queue of M, D or X holds both (R67). -/
def tokHaz (c : CoreSt) (g : List Issuing) : List Offence :=
  let w := waitedTok g
  g.filterMap fun i =>
    let q := i.op.queue
    ((i.op.dests ++ i.op.srcs).find? fun n => c.flow.pending.any fun p =>
        p.dest = n.2 && some p.tok ≠ w && !(q = some p.queue && p.queue ≠ .mem)).map
      fun n => { slot := i.slot, field := n.1, va := 0 }

/-- The landings of a group: slot, field, destination and cycle, for the fixed-latency forms (R66); under cr.compat in the landing order of a
class-A core (R70). -/
def landings (c : CoreSt) (g : List Issuing) : List (Nat × Nat × Dest × Nat) :=
  g.flatMap fun i =>
    let l := i.op.latency (c.classB && !c.ctrl.compat)
    if l = 0 then [] else i.op.dests.map fun n => (i.slot, n.1, n.2, c.flow.cyc + l)

/-- The cluster a destination counts a landing in (R138). -/
def destCluster : Dest → Option Nat
  | .v c _ => some c
  | .vl c _ => some c
  | _ => none

/-- LANDCOLL: two results on one register in one cycle, or more than two v results in one cluster and cycle (R66). -/
def landColl (c : CoreSt) (g : List Issuing) : List Offence :=
  let ls := c.landings g
  let fl := c.flow.flight.flatMap fun f => f.dests.map fun d => (d, f.due - f.lag)
  ls.filterMap fun l =>
    let same := decide (1 < (ls.filter fun m => decide (m.2.2.1 = l.2.2.1 ∧ m.2.2.2 = l.2.2.2)).length) ||
      fl.any fun f => decide (f.1 = l.2.2.1 ∧ f.2 = l.2.2.2)
    let crowd := match destCluster l.2.2.1 with
      | none => false
      | some k => decide (2 < (ls.filter fun m => decide (destCluster m.2.2.1 = some k ∧ m.2.2.2 = l.2.2.2)).length +
          (fl.filter fun f => decide (destCluster f.1 = some k ∧ f.2 = l.2.2.2)).length)
    if same || crowd then some { slot := l.1, field := l.2.1, va := 0 } else none

/-- PRIV (R105, R133). -/
def privFaults (c : CoreSt) (g : List Issuing) : List Offence :=
  g.filterMap fun i => match i.op with
    | .crwr n _ => if c.crPriv n.toNat then some { slot := i.slot, field := 5, va := 0 } else none
    | .trapack => if c.ctrl.handler then none else some { slot := i.slot, field := 2, va := 0 }
    | .tret => if c.ctrl.handler then none else some { slot := i.slot, field := 2, va := 0 }
    | _ => none

/-- ALIGN of any form (R121, R127, R196, R197, R213, R281 to R287, R347, R348, R350). -/
def alignFaults (c : CoreSt) (g : List Issuing) : List Offence :=
  g.filterMap fun i =>
    let loc := match c.localAccess i.op with
      | some (x, _, al, f) => [(x, al, f)]
      | none => []
    ((loc ++ c.aligned i.op).find? fun a => decide (a.1.toNat % a.2.1 ≠ 0)).map
      fun a => { slot := i.slot, field := a.2.2, va := a.1.setWidth 60 }

/-- PERM of the scratchpad forms (R189, R196, R213, R281). -/
def permFaults (c : CoreSt) (g : List Issuing) : List Offence :=
  g.filterMap fun i => match c.localAccess i.op with
    | some (x, n, _, f) => if past x n then some { slot := i.slot, field := f, va := x.setWidth 60 } else none
    | none => none

/-- ENGINE: a queue that the group would overfill, held operations counted (R211, R280, R345), and the checks of XGO (R347). -/
def engineFaults (c : CoreSt) (g : List Issuing) : List Offence :=
  let n (q : QueueId) : Nat := (g.filter fun i => decide (i.op.queue = some q)).length
  let dCount := c.dom.ops.length + c.dom.held.length + (if c.dom.run.isSome then 1 else 0)
  g.filterMap fun i =>
    let full := match i.op.queue with
      | some .mem => decide (64 < c.flow.mem.length + c.flow.memHeld.length + n .mem)
      | some .d => decide (64 < dCount + n .d)
      | some .x => decide (16 < c.flow.xq.length + c.flow.xheld.length + n .x)
      | _ => false
    let bad := match i.op with
      | .xgo _ => decide (2 ≤ c.xc.kind.toNat) || decide (2 ^ 32 ≤ c.xc.len.toNat) || decide (2 ^ 32 ≤ c.xc.rows.toNat)
      | _ => false
    if full || bad then some { slot := i.slot, field := 0, va := 0 } else none

/-- LOOPFORM: a fifth level, or a body past the end of the enclosing body (R124). -/
def loopFaults (c : CoreSt) (group : Addr) (g : List Issuing) : List Offence :=
  g.filterMap fun i => match c.trips i.op with
    | some (n, k) =>
      if k ≠ 0 && (decide (4 ≤ c.flow.loops.length + c.flow.suspended.length) || !c.loopFits group n) then
        some { slot := i.slot, field := 3, va := 0 }
      else none
    | none => none

/-- A fault of the poll of a WAITPH or WAITBIT (R127). -/
def pollFaults (c : CoreSt) (k : Cause) (g : List Issuing) : List Offence :=
  match c.reached.pollFault with
  | some t => if t.cause = k then
      g.filterMap fun i => match i.op with
        | .waitph _ _ _ _ => some { slot := i.slot, field := 5, va := t.va }
        | .waitbit _ _ _ _ => some { slot := i.slot, field := 5, va := t.va }
        | _ => none
    else []
  | none => []

/-- A trap record with nothing filled. -/
def blankTrap (k : Cause) : TrapInfo :=
  { cause := k, hdr := false, token := false, restart := false, slots := 0, fetch := false, ended := false, info := 0,
    fields := 0, bundle := 0, resume := 0, va := 0, sched := 0, kind := 0, unit := 0, row := 0, col := 0, tok := 0 }

/-- The record of a precise fault of the group at an address (R237). Of several offences FAULTVA holds the address of the first in slot order
(DESIGN CHOICE, log entry 114). -/
def preciseTrap (c : CoreSt) (group : Addr) (k : Cause) (os : List Offence) : TrapInfo :=
  { blankTrap k with
    slots := os.foldl (fun m o => m ||| (1#12 <<< o.slot)) 0
    fields := os.foldl (fun m o => m ||| (BitVec.ofNat 48 o.field <<< (4 * o.slot))) 0
    bundle := group
    resume := group
    va := match os with | o :: _ => o.va | [] => 0
    sched := c.flow.sched }

/-- The first precise fault of a legal, fetched group, in the order of R233. The XLATE of a poll, which that list has at the fetch alone,
stands between ALIGN and PERM (DESIGN CHOICE, log entry 95). -/
def groupFault (c : CoreSt) (group : Addr) (g : List Issuing) : Option TrapInfo :=
  let cs : List (Cause × List Offence) :=
    [(.tokhaz, c.tokHaz g), (.landcoll, c.landColl g), (.priv, c.privFaults g), (.loopform, c.loopFaults group g),
     (.align, c.alignFaults g), (.xlate, c.pollFaults .xlate g), (.perm, c.permFaults g ++ c.pollFaults .perm g),
     (.engine, c.engineFaults g)]
  (cs.find? fun x => x.2 ≠ []).map fun x => c.preciseTrap group x.1 x.2

/-! ## Taking a trap and returning from it -/

/-- A precise fault, or any trap, is taken: nothing of the group commits, and the core waits for its queues (R233, R240). One that comes
between two entries of a window drain ends the drain: the axis registers that its entries have written are checked (R181), and those not yet
applied stay in the buffer for the group when it is reached again (DESIGN CHOICE, log entry 96). -/
def takeTrap (c : CoreSt) (t : TrapInfo) : CoreSt :=
  { c.checkAxes c.reached.touched with
    status := .trapping t, reached := .none, next := none, flow := { c.flow with checked := false } }

/-- The code of a cause (R236). -/
def causeCode : Cause → Nat
  | .illop => 0x01 | .landcoll => 0x02 | .tokhaz => 0x03 | .priv => 0x04 | .loopform => 0x05 | .align => 0x06
  | .perm => 0x07 | .xlate => 0x08 | .engine => 0x09 | .domainEmpty => 0x10 | .clauseFull => 0x11 | .parenDepth => 0x12
  | .swtrap => 0x18 | .breakpt => 0x19 | .watch => 0x1A | .uncorrectable => 0x20 | .handlerLost => 0x30
  | .watchdog => 0x31

/-- Bits of a Bool at a place. -/
def bitAt (b : Bool) (k : Nat) : W64 := if b then 1#64 <<< k else 0

/-- The eight words of a trap record (R235). -/
def trapWords (t : TrapInfo) (g logical : Nat) (time : W64) : Vector W64 8 :=
  let w0 : W64 := (BitVec.ofNat 64 (causeCode t.cause) <<< 56) ||| bitAt t.hdr 55 ||| bitAt t.token 54 |||
    bitAt t.restart 53 ||| (BitVec.ofNat 64 (logical % 512) <<< 44) ||| (BitVec.ofNat 64 (g % 512) <<< 35) |||
    (t.slots.setWidth 64 <<< 23) ||| bitAt t.fetch 22 ||| bitAt t.ended 21
  let w1 : W64 := (t.info.setWidth 64 <<< 48) ||| t.fields.setWidth 64
  let w6 : W64 := (t.kind.setWidth 64 <<< 60) ||| (t.unit.setWidth 64 <<< 52) ||| (t.row.setWidth 64 <<< 36) |||
    (t.col.setWidth 64 <<< 20) ||| t.tok.setWidth 64
  Vector.mk #[w0, w1, t.bundle.setWidth 64, t.resume.setWidth 64, t.va.setWidth 64, t.sched, w6, time] rfl

/-! ## Reporting token faults (R126, R130, R223, R234) -/

/-- The held faults of the four queues, each with its operation's issue number and token. -/
def heldFaults (c : CoreSt) : List (Nat × Option Nat × TrapInfo) :=
  (match c.flow.mem with | q :: _ => (match q.fault with | some t => [(q.seq, q.tok, t)] | none => []) | [] => []) ++
  (match c.flow.mq with | q :: _ => (match q.fault with | some t => [(q.seq, some q.tok, t)] | none => []) | [] => []) ++
  (match c.dom.ops with | q :: _ => (match q.fault with | some t => [(q.seq, q.tok, t)] | none => []) | [] => []) ++
  (match c.flow.xq with | q :: _ => (match q.fault with | some t => [(q.seq, some q.tok, t)] | none => []) | [] => [])

/-- The faults of a core's units. -/
def faultCount (c : CoreSt) : Nat := c.heldFaults.length

/-- The earliest-issued of some held faults. -/
def earliest : List (Nat × Option Nat × TrapInfo) → Option TrapInfo
  | [] => none
  | x :: xs => some (xs.foldl (fun b y => if y.1 < b.1 then y else b) x).2.2

/-- Whether a WAIT on a token meets a held fault: of an operation that names it, or of a DOPEN or DCLOSE with a later D
operation that names it (R223). -/
def waitMeets (c : CoreSt) (w : Nat) : Bool :=
  c.heldFaults.any (fun x => x.2.1 == some w) ||
    (match c.dom.ops with
     | q :: qs => q.fault.isSome && q.tok.isNone && qs.any fun o => o.tok == some w
     | [] => false)

/-- The fault that a reporting point reports, with the group that reports it in RESUME (R234, R237). -/
def report (c : CoreSt) (resume : Addr) : Option TrapInfo :=
  (earliest c.heldFaults).map fun t => { t with resume := resume, token := true }

/-- Whether the head of a queue is held under R234. -/
def memSettled (c : CoreSt) : Bool := match c.flow.mem with | [] => true | q :: _ => q.fault.isSome
/-- The M unit is idle, or its queue is held. -/
def mSettled (c : CoreSt) : Bool := c.flow.mrun.isNone && (match c.flow.mq with | [] => true | q :: _ => q.fault.isSome)
/-- The D unit is idle, or its queue is held. -/
def dSettled (c : CoreSt) : Bool := c.dom.run.isNone && (match c.dom.ops with | [] => true | q :: _ => q.fault.isSome)
/-- The copy engine is idle, or its queue is held. -/
def xSettled (c : CoreSt) : Bool := match c.flow.xq with | [] => true | q :: _ => q.fault.isSome
/-- Every fixed-latency result has landed and every queue is empty or held (R240 steps 1 and 2). -/
def settled (c : CoreSt) : Bool :=
  decide (c.flow.flight = []) && c.memSettled && c.mSettled && c.dSettled && c.xSettled

/-- The held operations are set aside in issue order (R234, R240 step 2). -/
def setAside (c : CoreSt) : CoreSt :=
  { c with
    flow := { c.flow with mem := [], memHeld := c.flow.memHeld ++ c.flow.mem, mq := [], mheld := c.flow.mheld ++ c.flow.mq,
                          xq := [], xheld := c.flow.xheld ++ c.flow.xq }
    dom := { c.dom with ops := [], held := c.dom.held ++ c.dom.ops } }

/-- The halt record: the trap's own fields with CAUSE HANDLERLOST and its code in INFO[55:48] (R235, R244). -/
def haltInfo (t : TrapInfo) : TrapInfo := { t with cause := .handlerLost, info := BitVec.ofNat 16 (causeCode t.cause) }

/-- The core halts: it issues nothing further and keeps its state and its held operations (R244). -/
def haltWith (c : CoreSt) (r : Vector W64 8) : CoreSt :=
  { c with status := .halted, reached := .none, ctrl := { c.ctrl with halt := r } }

/-- Handler entry with the record free (R240 steps 2 to 7): the queues are set aside, the record written and frozen, the
loop levels suspended, the latches lost, handler mode set, and the pc put at the handler, whose first group issues some
cycles later. -/
def enterHandler (c : CoreSt) (r : Vector W64 8) (wait : Nat) : CoreSt :=
  let c := c.setAside.loseLatches
  { c with
    ctrl := { c.ctrl with trec := r, frozen := true, handler := true }
    flow := { c.flow with suspended := c.flow.suspended ++ c.flow.loops, loops := [], empty := wait, checked := false }
    pc := c.ctrl.tvec.setWidth 60, pcHigh := c.ctrl.tvec.extractLsb' 60 4, next := none
    reached := .none, status := .running }

/-- The record of a halt for want of a handler: CAUSE and INFO alone (R240). -/
def lostWords (k : Cause) : Vector W64 8 :=
  Vector.mk #[0x3000000000000000, BitVec.ofNat 64 (causeCode k) <<< 48, 0, 0, 0, 0, 0, 0] rfl

/-- Re-enter the held operations ahead of the resumed code: a memory operation performs again from its first line, a copy command from the bytes
it has performed (R243, R351). -/
def reenter (c : CoreSt) : CoreSt :=
  { c with
    flow := { c.flow with
      mem := (c.flow.mem ++ c.flow.memHeld.map fun q =>
        { q with fault := none, vc := none, done := 0, got := 0, sent := false, served := none, stuck := false, portAt := .none }), memHeld := [],
      mq := (c.flow.mq ++ c.flow.mheld.map fun q => { q with fault := none }), mheld := [],
      xq := (c.flow.xq ++ c.flow.xheld.map fun q => { q with fault := none, buf := none, stuck := false, portAt := .none }), xheld := [] } }

end CoreSt

/-- Put a core back after its units have moved; new token faults count on its die (R391). -/
def State.setUnits (s : State) (g : Nat) (c : CoreSt) : State :=
  (s.setCore g c).coreDieEvent g 11 (c.faultCount - (s.core g).faultCount)

/-! ## Blast and trace records -/

/-- A trace record of a core: written to its partition's ring as a hub write of the core's die, behind those still to be written, or dropped
(R392, R393). -/
def State.trace (s : State) (g kind index : Nat) (bundle : Addr) : State :=
  let c := s.core g
  let p := s.partOf g
  let pt := s.part p
  let head : W64 := pt.trhead + BitVec.ofNat 64 (s.hub.owed.filter fun w => w.part == p).length
  if head - pt.trtail = pt.trsize then s.setPart p { pt with trdrop := pt.trdrop + 1 }
  else
    let line := natBytes 2 g ++ natBytes 2 c.logical ++ natBytes 1 kind ++ natBytes 1 index ++ natBytes 2 p ++
      bytesOf 8 (bundle.setWidth 64) ++ bytesOf 8 c.flow.sched ++ bytesOf 8 s.time
    s.owe p (Config.dieOf g) (pt.trbase + 32 * BitVec.ofNat 64 (head.toNat % max 1 pt.trsize.toNat)) line

/-- TRACE with a class of events enabled (R394). -/
def State.traceIf (s : State) (g : Nat) (on : Bool) (kind index : Nat) (bundle : Addr) : State :=
  if (s.core g).dbg.trace && on then s.trace g kind index bundle else s

/-- A halt is delivered to the core's partition and to the host (R244, R366). -/
def State.deliverHalt (s : State) (g : Nat) : State :=
  s.deliverBlast (s.partOf g) (blastRecord 2 0xFF g s.time (1#64 <<< (s.partOf g)) 0)

/-- TRAP ENTRY (R240, R244): the record is written and the handler entered; a trap entered while the record is frozen, or
with no handler, halts the core. The handler's first group issues 8 cycles later or, by a free value, more (R424, log entry 81). -/
def State.enterTrap (s : State) (g : Nat) (t : TrapInfo) : State :=
  let c := (s.core g).landAll
  let words := CoreSt.trapWords t g c.logical s.time
  if c.ctrl.frozen then
    (s.setCore g (c.haltWith (CoreSt.trapWords (CoreSt.haltInfo t) g c.logical s.time))).deliverHalt g
  else
    let h := c.enterHandler words (8 + Config.freeEntry s.tick)
    let s := { s with tick := s.tick + 1 }
    let s := s.traceIf g c.dbg.trtrap 3 (CoreSt.causeCode t.cause) t.bundle
    if c.ctrl.tvec = 0 then (s.setCore g (h.haltWith (CoreSt.lostWords t.cause))).deliverHalt g
    else s.setCore g h

/-- Taking a trap on a core: entered at once where its queues have settled, else when they settle (R240). -/
def State.takeTrapOn (s : State) (g : Nat) (t : TrapInfo) : State :=
  let s := s.onCore g fun c => c.takeTrap t
  if (s.core g).landAll.settled then s.enterTrap g t else s

/-- The operation at the head of a core's memory-order queue notes its die's clock as it reaches the head (R293). -/
def State.stampHead (s : State) (g : Nat) : State :=
  s.onCore g fun c => match c.flow.mem with
    | q :: qs =>
      if q.vc.isNone then
        { c with flow := { c.flow with mem := { q with vc := some (s.ord.dieClock (Config.dieOf g)) } :: qs } }
      else c
    | [] => c

/-! ## Holds of the wait forms (R126 to R130) -/

/-- The step is a member of a static launch or of a gang, where BAR waits (R129). -/
def StepInfo.grouped (st : StepInfo) : Bool := st.isStatic || st.member.isSome

/-- Every write that a fence of a core waits for has been applied at every die: of the core's operations, for this step and for those before
it, and of the step's on the cores that it ran on (R299, log entry 85). -/
def State.fenceApplied (s : State) (g : Nat) : Bool :=
  let c := s.core g
  s.ord.appliedAll c.flow.need && s.ord.appliedAll c.flow.before &&
    (match c.step with | some st => s.ord.appliedAll st.need | none => true)
/-- Every host write of a fence's queue operations has been observed (R293, R299). -/
def State.fenceObserved (s : State) (g : Nat) : Bool :=
  !(s.ord.sent.any fun e => !e.copy &&
    (e.core == g || (match (s.core g).step with | some st => st.prior.contains e.core | none => false)))

/-- The point of FENCE that every earlier memory operation has to reach (R299). -/
def State.fenceReached (s : State) (g : Nat) (sc : BitVec 3) : Bool :=
  let c := s.core g
  match sc.toNat with
  | 0 => true
  | 1 | 2 => decide (c.flow.mem = [])
  | 3 => decide (c.flow.mem = []) && s.fenceApplied g
  | 4 => decide (c.flow.mem = []) && s.fenceApplied g && decide (c.flow.xq = [])
  | _ => decide (c.flow.mem = []) && s.fenceApplied g && s.fenceObserved g

/-- A FENCE whose hold includes a held fault (R130). -/
def CoreSt.fenceMeets (c : CoreSt) (sc : BitVec 3) : Bool :=
  sc ≠ 0 && ((match c.flow.mem with | q :: _ => q.fault.isSome | [] => false) ||
    (sc == 4 && (match c.flow.xq with | q :: _ => q.fault.isSome | [] => false)))

/-- A wait form holds its group on a core (R126, R127, R129, R130); a `.pod` BAR outside a pod group does not (R407). -/
def State.waitHolds (s : State) (g : Nat) (i : Instr) : Bool :=
  let c := s.core g
  match i with
  | .wait w => decide ((c.token w.toNat).out ≠ 0) && !c.waitMeets w.toNat
  | .waitph _ a _ _ => c.reached.polled.isNone && c.reached.pollFault.isNone && decide ((c.src a).toNat % 16 = 0)
  | .waitbit _ a _ _ => c.reached.polled.isNone && c.reached.pollFault.isNone && decide ((c.src a).toNat % 8 = 0)
  | .bar sc =>
    sc ≠ 0 && (match c.step with | some st => st.grouped | none => false) && !c.reached.released &&
      !(sc == 4 && (s.part (s.partOf g)).podgroup == 0)
  | .fence sc => !c.fenceMeets sc && !s.fenceReached g sc
  | _ => false

/-- A wait form begins its hold: a poll waits to be performed, an arrival is made, and the timeout runs (R127, R129). -/
def State.waitBegin (s : State) (g : Nat) (i : Instr) : State :=
  s.onCore g fun c =>
    let since := match c.reached.since with | some t => some t | none => some s.time
    match i with
    | .waitph _ _ _ _ | .waitbit _ _ _ _ => { c with reached := { c.reached with polling := some i, since := since } }
    | .bar _ => { c with reached := { c.reached with arrived := true } }
    | _ => c

/-- A wait form is held for a cycle: its group does not issue, and the cycle counts under WAIT (R44, R386). -/
def State.waitHeld (s : State) (g : Nat) (i : Instr) : State := (s.waitBegin g i).stall g cWait

/-- A fault that an issuing wait form or END reports (R126, R130, R131, R234). -/
def CoreSt.reported (c : CoreSt) (group : Addr) (i : Instr) : Option TrapInfo :=
  match i with
  | .wait w => if c.waitMeets w.toNat then c.report group else none
  | .fence sc => if c.fenceMeets sc then c.report group else none
  | .endStep => c.report group
  | _ => none

/-! ## Issue -/

/-- The group that an instruction issued alone makes. -/
def State.soloGroup (s : State) (i : Instr) : List CoreSt.Issuing :=
  [{ slot := s.cc.flow.slotIdx, op := i, bundle := s.cc.flow.bundleA }]

/-- Issue an instruction on the current core: a precise fault of it is taken, unless the whole group has been checked
already; else its effect stands (R233). -/
def State.issue (s : State) (i : Instr) (eff : State → State) : Host.Outcome State Fault Refusal :=
  if s.cc.flow.checked then .next (eff s)
  else match s.cc.groupFault s.cc.flow.groupA (s.soloGroup i) with
    | some t => .next (s.takeTrapOn s.cur t)
    | none => .next (eff s)

/-- Issue a wait form or END: held while its condition does not hold; a held fault that it reaches is reported; else its
effect stands (R126 to R131, R234). -/
def State.issueWait (s : State) (i : Instr) (eff : State → State) : Host.Outcome State Fault Refusal :=
  if s.waitHolds s.cur i then .next (s.waitHeld s.cur i)
  else match s.cc.reported s.cc.flow.groupA i with
    | some t => .next (s.takeTrapOn s.cur t)
    | none => s.issue i eff

/-- An event of the device: it happens where its condition holds (R293), and else is refused by name. -/
def event (name : String) (r : Option State) : Host.Outcome State Fault Refusal :=
  match r with
  | some s => .next s
  | none => .refused (.notEnabled name)

/-- An event of a core the device does not have faults (R31). -/
def coreEvent (name : String) (g : Nat) (r : Option State) : Host.Outcome State Fault Refusal :=
  if g < Config.nCores then event name r else .fault (.noSuchCore g)

end Sys2Proof.Machine
end

