-- ==== Sys2Proof/Machine/Scalar.lean ====
section
/-! DEFINITION. The S-slot instructions but for the counter reads (R109 to R115, R118 to R120). -/

namespace Sys2Proof.Machine

/-- The destinations of an instruction without their fields. -/
def destsOf (i : Instr) : List Dest := i.dests.map fun n => n.2

/-- A fixed-latency scalar result computed from the core at issue (R65, R109). -/
def landS (i : Instr) (d : SDst) (f : CoreSt → W64 × Flg) (s : State) : Host.Outcome State Fault Refusal :=
  s.issue i fun s => s.onCur fun c => c.fly (i.latency c.classB) (destsOf i) (CoreSt.wS d (f c).1) (f c).2

/-- A predicate pair computed from the core at issue (R104, R114). -/
def landP (i : Instr) (p : BitVec 3) (f : CoreSt → Bool × Flg) (s : State) : Host.Outcome State Fault Refusal :=
  s.issue i fun s => s.onCur fun c => c.fly (i.latency c.classB) (destsOf i) [.pair p.toNat (f c).1] (f c).2

/-- A function of two scalar sources (R109). -/
def binS (a b : SSrc) (f : W64 → W64 → W64 × Flg) (c : CoreSt) : W64 × Flg :=
  let r := f (c.src a) (c.src b)
  (r.1, r.2 ||| c.srcFlag a ||| c.srcFlag b)
/-- A function of two scalar sources that raises no flag. -/
def binQ (a b : SSrc) (f : W64 → W64 → W64) : CoreSt → W64 × Flg := binS a b fun x y => (f x y, 0)
/-- A function of one scalar source. -/
def unS (a : SSrc) (f : W64 → W64 × Flg) (c : CoreSt) : W64 × Flg := ((f (c.src a)).1, (f (c.src a)).2 ||| c.srcFlag a)
/-- A comparison of two scalar sources (R114). -/
def cmpS (a b : SSrc) (f : W64 → W64 → Bool) (c : CoreSt) : Bool × Flg :=
  (f (c.src a) (c.src b), c.srcFlag a ||| c.srcFlag b)
/-- A comparison with a sign-extended immediate (R114). -/
def cmpI (a : SSrc) (k : BitVec 12) (f : W64 → W64 → Bool) (c : CoreSt) : Bool × Flg :=
  (f (c.src a) (k.signExtend 64), c.srcFlag a)

/-- The shift count b[5:0] (R109). -/
def cnt6 (b : W64) : Nat := b.toNat % 64

/-- DIV and its edge cases (R110). -/
def divS (a b : W64) : W64 × Flg := if b = 0 then (-1, .divz) else (BitVec.ofInt 64 (a.toInt.tdiv b.toInt), 0)
/-- DIVU (R110). -/
def divU (a b : W64) : W64 × Flg := if b = 0 then (-1, .divz) else (BitVec.ofNat 64 (a.toNat / b.toNat), 0)
/-- REM: the remainder has the sign of a (R109, R110). -/
def remS (a b : W64) : W64 × Flg := if b = 0 then (a, .divz) else (BitVec.ofInt 64 (a.toInt.tmod b.toInt), 0)
/-- REMU (R110). -/
def remU (a b : W64) : W64 × Flg := if b = 0 then (a, .divz) else (BitVec.ofNat 64 (a.toNat % b.toNat), 0)

/-- MOVQ (R112). -/
def movqVal (h : BitVec 2) (keep : Bool) (k : BitVec 16) (old : W64) : W64 :=
  let sh := 16 * h.toNat
  if keep then (old &&& ~~~((0xFFFF : W64) <<< sh)) ||| (k.setWidth 64 <<< sh) else k.signExtend 64 <<< sh

/-- The format of a scalar floating-point type (R118). -/
def ftyFmt : FTy → FP.Fmt
  | .f64 => FP.f64
  | .f32 => FP.f32
/-- A scalar operand of a type (R103). -/
def fopd (t : FTy) (x : W64) : Nat := match t with | .f64 => x.toNat | .f32 => x.toNat % 2 ^ 32
/-- A scalar floating-point result, zero above its width (R103). -/
def fres (r : Nat × Flg) : W64 × Flg := (BitVec.ofNat 64 r.1, r.2)
/-- A two-operand floating-point function of a type (R118). -/
def fbin (t : FTy) (m : Rm) (a b : SSrc) (f : FP.Fmt → Rm5 → Nat → Nat → Nat × Flg) : CoreSt → W64 × Flg :=
  binS a b fun x y => fres (f (ftyFmt t) (FP.ofRm m) (fopd t x) (fopd t y))
/-- FMA with the addend the destination names (R118). -/
def fmaS (t : FTy) (m : Rm) (d : SDst) (a b : SSrc) (c : CoreSt) : W64 × Flg :=
  let r := fres (FP.fma (ftyFmt t) (FP.ofRm m) (fopd t (c.old d)) (fopd t (c.src a)) (fopd t (c.src b)))
  (r.1, r.2 ||| c.oldFlag d ||| c.srcFlag a ||| c.srcFlag b)
/-- A floating-point comparison (R119). -/
def fcmp (t : FTy) (a b : SSrc) (f : FP.FVal → FP.FVal → Bool) : CoreSt → Bool × Flg :=
  cmpS a b fun x y => f (FP.unpack (ftyFmt t) (fopd t x)) (FP.unpack (ftyFmt t) (fopd t y))

/-- ADD: a + b mod 2^64 (R109). -/
def execAdd (d : SDst) (a b : SSrc) (s : State) : Host.Outcome State Fault Refusal :=
  landS (.add d a b) d (binQ a b fun x y => x + y) s
/-- SUB: a − b mod 2^64 (R109). -/
def execSub (d : SDst) (a b : SSrc) (s : State) : Host.Outcome State Fault Refusal :=
  landS (.sub d a b) d (binQ a b fun x y => x - y) s
/-- AND (R109). -/
def execAnd (d : SDst) (a b : SSrc) (s : State) : Host.Outcome State Fault Refusal :=
  landS (.and d a b) d (binQ a b fun x y => x &&& y) s
/-- OR (R109); `movq sd, sa` is its spelling with s0 (R113). -/
def execOr (d : SDst) (a b : SSrc) (s : State) : Host.Outcome State Fault Refusal :=
  landS (.or d a b) d (binQ a b fun x y => x ||| y) s
/-- XOR (R109). -/
def execXor (d : SDst) (a b : SSrc) (s : State) : Host.Outcome State Fault Refusal :=
  landS (.xor d a b) d (binQ a b fun x y => x ^^^ y) s
/-- ANDN: a & ~b (R109). -/
def execAndn (d : SDst) (a b : SSrc) (s : State) : Host.Outcome State Fault Refusal :=
  landS (.andn d a b) d (binQ a b fun x y => x &&& ~~~y) s
/-- SHL (R109). -/
def execShl (d : SDst) (a b : SSrc) (s : State) : Host.Outcome State Fault Refusal :=
  landS (.shl d a b) d (binQ a b fun x y => x <<< cnt6 y) s
/-- SHR, zero fill (R109). -/
def execShr (d : SDst) (a b : SSrc) (s : State) : Host.Outcome State Fault Refusal :=
  landS (.shr d a b) d (binQ a b fun x y => x >>> cnt6 y) s
/-- SAR, sign fill (R109). -/
def execSar (d : SDst) (a b : SSrc) (s : State) : Host.Outcome State Fault Refusal :=
  landS (.sar d a b) d (binQ a b fun x y => x.sshiftRight (cnt6 y)) s
/-- MIN, signed (R109). -/
def execMin (d : SDst) (a b : SSrc) (s : State) : Host.Outcome State Fault Refusal :=
  landS (.min d a b) d (binQ a b fun x y => if x.slt y then x else y) s
/-- MAX, signed (R109). -/
def execMax (d : SDst) (a b : SSrc) (s : State) : Host.Outcome State Fault Refusal :=
  landS (.max d a b) d (binQ a b fun x y => if x.slt y then y else x) s
/-- MINU (R109). -/
def execMinu (d : SDst) (a b : SSrc) (s : State) : Host.Outcome State Fault Refusal :=
  landS (.minu d a b) d (binQ a b fun x y => if x.ult y then x else y) s
/-- MAXU (R109). -/
def execMaxu (d : SDst) (a b : SSrc) (s : State) : Host.Outcome State Fault Refusal :=
  landS (.maxu d a b) d (binQ a b fun x y => if x.ult y then y else x) s
/-- MUL: the low 64 bits (R109). -/
def execMul (d : SDst) (a b : SSrc) (s : State) : Host.Outcome State Fault Refusal :=
  landS (.mul d a b) d (binQ a b fun x y => x * y) s
/-- MULH: the high 64 bits of the signed product (R109). -/
def execMulh (d : SDst) (a b : SSrc) (s : State) : Host.Outcome State Fault Refusal :=
  landS (.mulh d a b) d (binQ a b fun x y => BitVec.ofInt 64 (x.toInt * y.toInt / 2 ^ 64)) s
/-- MULHU: the high 64 bits of the natural product (R109). -/
def execMulhu (d : SDst) (a b : SSrc) (s : State) : Host.Outcome State Fault Refusal :=
  landS (.mulhu d a b) d (binQ a b fun x y => BitVec.ofNat 64 (x.toNat * y.toNat / 2 ^ 64)) s
/-- ADDS: saturated (R83, R109). -/
def execAdds (d : SDst) (a b : SSrc) (s : State) : Host.Outcome State Fault Refusal :=
  landS (.adds d a b) d (binS a b fun x y => satS 64 (x.toInt + y.toInt)) s
/-- SUBS: saturated (R83, R109). -/
def execSubs (d : SDst) (a b : SSrc) (s : State) : Host.Outcome State Fault Refusal :=
  landS (.subs d a b) d (binS a b fun x y => satS 64 (x.toInt - y.toInt)) s
/-- DIV (R109, R110). -/
def execDiv (d : SDst) (a b : SSrc) (s : State) : Host.Outcome State Fault Refusal :=
  landS (.div d a b) d (binS a b fun x y => divS x y) s
/-- DIVU (R109, R110). -/
def execDivu (d : SDst) (a b : SSrc) (s : State) : Host.Outcome State Fault Refusal :=
  landS (.divu d a b) d (binS a b fun x y => divU x y) s
/-- REM (R109, R110). -/
def execRem (d : SDst) (a b : SSrc) (s : State) : Host.Outcome State Fault Refusal :=
  landS (.rem d a b) d (binS a b fun x y => remS x y) s
/-- REMU (R109, R110). -/
def execRemu (d : SDst) (a b : SSrc) (s : State) : Host.Outcome State Fault Refusal :=
  landS (.remu d a b) d (binS a b fun x y => remU x y) s
/-- ADDI with a sign-extended immediate (R111). -/
def execAddi (d : SDst) (a : SSrc) (k : BitVec 12) (s : State) : Host.Outcome State Fault Refusal :=
  landS (.addi d a k) d (unS a fun x => (x + k.signExtend 64, 0)) s
/-- ANDI with a sign-extended immediate (R111). -/
def execAndi (d : SDst) (a : SSrc) (k : BitVec 12) (s : State) : Host.Outcome State Fault Refusal :=
  landS (.andi d a k) d (unS a fun x => (x &&& k.signExtend 64, 0)) s
/-- ORI with a sign-extended immediate (R111). -/
def execOri (d : SDst) (a : SSrc) (k : BitVec 12) (s : State) : Host.Outcome State Fault Refusal :=
  landS (.ori d a k) d (unS a fun x => (x ||| k.signExtend 64, 0)) s
/-- XORI with a sign-extended immediate (R111). -/
def execXori (d : SDst) (a : SSrc) (k : BitVec 12) (s : State) : Host.Outcome State Fault Refusal :=
  landS (.xori d a k) d (unS a fun x => (x ^^^ k.signExtend 64, 0)) s
/-- SHLI (R111). -/
def execShli (d : SDst) (a : SSrc) (k : BitVec 6) (s : State) : Host.Outcome State Fault Refusal :=
  landS (.shli d a k) d (unS a fun x => (x <<< k.toNat, 0)) s
/-- SHRI (R111). -/
def execShri (d : SDst) (a : SSrc) (k : BitVec 6) (s : State) : Host.Outcome State Fault Refusal :=
  landS (.shri d a k) d (unS a fun x => (x >>> k.toNat, 0)) s
/-- SARI (R111). -/
def execSari (d : SDst) (a : SSrc) (k : BitVec 6) (s : State) : Host.Outcome State Fault Refusal :=
  landS (.sari d a k) d (unS a fun x => (x.sshiftRight k.toNat, 0)) s
/-- MOVQ (R112). -/
def execMovq (d : SDst) (h : BitVec 2) (keep : Bool) (k : BitVec 16) (s : State) : Host.Outcome State Fault Refusal :=
  landS (.movq d h keep k) d (fun c => (movqVal h keep k (c.old d), if keep then c.oldFlag d else 0)) s
/-- CMPEQ (R114). -/
def execCmpeq (p : BitVec 3) (a b : SSrc) (s : State) : Host.Outcome State Fault Refusal :=
  landP (.cmpeq p a b) p (cmpS a b fun x y => x == y) s
/-- CMPNE (R114). -/
def execCmpne (p : BitVec 3) (a b : SSrc) (s : State) : Host.Outcome State Fault Refusal :=
  landP (.cmpne p a b) p (cmpS a b fun x y => x != y) s
/-- CMPLT (R114). -/
def execCmplt (p : BitVec 3) (a b : SSrc) (s : State) : Host.Outcome State Fault Refusal :=
  landP (.cmplt p a b) p (cmpS a b fun x y => x.slt y) s
/-- CMPLE (R114). -/
def execCmple (p : BitVec 3) (a b : SSrc) (s : State) : Host.Outcome State Fault Refusal :=
  landP (.cmple p a b) p (cmpS a b fun x y => x.sle y) s
/-- CMPLTU (R114). -/
def execCmpltu (p : BitVec 3) (a b : SSrc) (s : State) : Host.Outcome State Fault Refusal :=
  landP (.cmpltu p a b) p (cmpS a b fun x y => x.ult y) s
/-- CMPLEU (R114). -/
def execCmpleu (p : BitVec 3) (a b : SSrc) (s : State) : Host.Outcome State Fault Refusal :=
  landP (.cmpleu p a b) p (cmpS a b fun x y => x.ule y) s
/-- CMPEQI: the immediate is sign-extended, then compared (R114). -/
def execCmpeqi (p : BitVec 3) (a : SSrc) (k : BitVec 12) (s : State) : Host.Outcome State Fault Refusal :=
  landP (.cmpeqi p a k) p (cmpI a k fun x y => x == y) s
/-- CMPNEI: the immediate is sign-extended, then compared (R114). -/
def execCmpnei (p : BitVec 3) (a : SSrc) (k : BitVec 12) (s : State) : Host.Outcome State Fault Refusal :=
  landP (.cmpnei p a k) p (cmpI a k fun x y => x != y) s
/-- CMPLTI: the immediate is sign-extended, then compared (R114). -/
def execCmplti (p : BitVec 3) (a : SSrc) (k : BitVec 12) (s : State) : Host.Outcome State Fault Refusal :=
  landP (.cmplti p a k) p (cmpI a k fun x y => x.slt y) s
/-- CMPLEI: the immediate is sign-extended, then compared (R114). -/
def execCmplei (p : BitVec 3) (a : SSrc) (k : BitVec 12) (s : State) : Host.Outcome State Fault Refusal :=
  landP (.cmplei p a k) p (cmpI a k fun x y => x.sle y) s
/-- CMPLTUI: the immediate is sign-extended, then compared (R114). -/
def execCmpltui (p : BitVec 3) (a : SSrc) (k : BitVec 12) (s : State) : Host.Outcome State Fault Refusal :=
  landP (.cmpltui p a k) p (cmpI a k fun x y => x.ult y) s
/-- CMPLEUI: the immediate is sign-extended, then compared (R114). -/
def execCmpleui (p : BitVec 3) (a : SSrc) (k : BitVec 12) (s : State) : Host.Outcome State Fault Refusal :=
  landP (.cmpleui p a k) p (cmpI a k fun x y => x.ule y) s
/-- PAND (R115). -/
def execPand (p : BitVec 3) (pa pb : BitVec 4) (s : State) : Host.Outcome State Fault Refusal :=
  landP (.pand p pa pb) p (fun c => let x := c.pred pa.toNat; let y := c.pred pb.toNat; (x && y, 0)) s
/-- POR (R115). -/
def execPor (p : BitVec 3) (pa pb : BitVec 4) (s : State) : Host.Outcome State Fault Refusal :=
  landP (.por p pa pb) p (fun c => let x := c.pred pa.toNat; let y := c.pred pb.toNat; (x || y, 0)) s
/-- PXOR (R115). -/
def execPxor (p : BitVec 3) (pa pb : BitVec 4) (s : State) : Host.Outcome State Fault Refusal :=
  landP (.pxor p pa pb) p (fun c => let x := c.pred pa.toNat; let y := c.pred pb.toNat; (xor x y, 0)) s
/-- PANDN (R115). -/
def execPandn (p : BitVec 3) (pa pb : BitVec 4) (s : State) : Host.Outcome State Fault Refusal :=
  landP (.pandn p pa pb) p (fun c => let x := c.pred pa.toNat; let y := c.pred pb.toNat; (x && !y, 0)) s
/-- MOVPS: all predicates into bits [15:0] (R115). -/
def execMovps (d : SDst) (s : State) : Host.Outcome State Fault Refusal :=
  landS (.movps d) d (fun c => (c.predWord.setWidth 64, 0)) s
/-- MOVSP: p2 to p15 from bits of a (R115). -/
def execMovsp (a : SSrc) (s : State) : Host.Outcome State Fault Refusal :=
  s.issue (.movsp a) fun s => s.onCur fun c =>
    c.fly 1 (destsOf (.movsp a)) [.preds ((c.src a).setWidth 16)] (c.srcFlag a)
/-- FADD (R118). -/
def execFadd (t : FTy) (m : Rm) (d : SDst) (a b : SSrc) (s : State) : Host.Outcome State Fault Refusal :=
  landS (.fadd t m d a b) d (fbin t m a b FP.add) s
/-- FSUB (R118). -/
def execFsub (t : FTy) (m : Rm) (d : SDst) (a b : SSrc) (s : State) : Host.Outcome State Fault Refusal :=
  landS (.fsub t m d a b) d (fbin t m a b FP.sub) s
/-- FMUL (R118). -/
def execFmul (t : FTy) (m : Rm) (d : SDst) (a b : SSrc) (s : State) : Host.Outcome State Fault Refusal :=
  landS (.fmul t m d a b) d (fbin t m a b FP.mul) s
/-- FMA: d + a × b, fused (R118). -/
def execFma (t : FTy) (m : Rm) (d : SDst) (a b : SSrc) (s : State) : Host.Outcome State Fault Refusal :=
  landS (.fma t m d a b) d (fmaS t m d a b) s
/-- FCMPEQ (R119). -/
def execFcmpeq (t : FTy) (p : BitVec 3) (a b : SSrc) (s : State) : Host.Outcome State Fault Refusal :=
  landP (.fcmpeq t p a b) p (fcmp t a b FP.eqV) s
/-- FCMPLT (R119). -/
def execFcmplt (t : FTy) (p : BitVec 3) (a b : SSrc) (s : State) : Host.Outcome State Fault Refusal :=
  landP (.fcmplt t p a b) p (fcmp t a b FP.ltV) s
/-- FCMPLE (R119). -/
def execFcmple (t : FTy) (p : BitVec 3) (a b : SSrc) (s : State) : Host.Outcome State Fault Refusal :=
  landP (.fcmple t p a b) p (fcmp t a b FP.leV) s
/-- FCMPUN (R119). -/
def execFcmpun (t : FTy) (p : BitVec 3) (a b : SSrc) (s : State) : Host.Outcome State Fault Refusal :=
  landP (.fcmpun t p a b) p (fcmp t a b FP.unV) s
/-- CVT, integer to binary64 (R93, R120). -/
def execCvtF64I64 (m : Rm) (d : SDst) (a : SSrc) (s : State) : Host.Outcome State Fault Refusal :=
  landS (.cvtF64I64 m d a) d (unS a fun x => fres (FP.cvtOfInt FP.f64 (FP.ofRm m) x.toInt)) s
/-- CVT, binary64 to integer (R93, R120). -/
def execCvtI64F64 (m : Rm) (d : SDst) (a : SSrc) (s : State) : Host.Outcome State Fault Refusal :=
  landS (.cvtI64F64 m d a) d (unS a fun x => FP.cvtToInt 64 (FP.ofRm m) (FP.unpack FP.f64 x.toNat)) s
/-- CVT, integer to binary32 (R93, R120). -/
def execCvtF32I64 (m : Rm) (d : SDst) (a : SSrc) (s : State) : Host.Outcome State Fault Refusal :=
  landS (.cvtF32I64 m d a) d (unS a fun x => fres (FP.cvtOfInt FP.f32 (FP.ofRm m) x.toInt)) s
/-- CVT, binary32 to integer (R93, R120). -/
def execCvtI64F32 (m : Rm) (d : SDst) (a : SSrc) (s : State) : Host.Outcome State Fault Refusal :=
  landS (.cvtI64F32 m d a) d (unS a fun x => FP.cvtToInt 64 (FP.ofRm m) (FP.unpack FP.f32 (x.toNat % 2 ^ 32))) s
/-- CVT, binary64 to binary32 (R91, R92, R120). -/
def execCvtF32F64 (m : Rm) (d : SDst) (a : SSrc) (s : State) : Host.Outcome State Fault Refusal :=
  landS (.cvtF32F64 m d a) d (unS a fun x => fres (FP.roundVal FP.f32 (FP.ofRm m) 0 (FP.unpack FP.f64 x.toNat))) s
/-- CVT, binary32 to binary64, exact (R120). -/
def execCvtF64F32 (d : SDst) (a : SSrc) (s : State) : Host.Outcome State Fault Refusal :=
  landS (.cvtF64F32 d a) d (unS a fun x => fres (FP.roundVal FP.f64 .rne 0 (FP.unpack FP.f32 (x.toNat % 2 ^ 32)))) s

end Sys2Proof.Machine
end

