-- ==== Sys2Proof/Machine/Domain.lean ====
section
/-! DEFINITION. The domain unit: sets, clauses, propagation, timing, parentheses and the D-slot instructions (R200 to
R226), with the events D_OPERATION_START and D_OPERATION_COMPLETE. -/

namespace Sys2Proof.Machine

namespace Dom

/-! ## Sets (R202 to R204) -/

/-- The least and the greatest member of the universe U. -/
def uMin : Int := -2147483648
def uMax : Int := 2147483647
/-- The empty encoding: lo 0, hi −1, map 0 (R202). -/
def emptyCode : W128 := 0xFFFFFFFF#128 <<< 32
/-- A register from its fields. -/
def code (lo hi : Int) (map : W64) : W128 :=
  (map.setWidth 128 <<< 64) ||| ((BitVec.ofInt 32 hi).setWidth 128 <<< 32) ||| (BitVec.ofInt 32 lo).setWidth 128

/-- The set a register stands for: its members in ascending order, or an interval (R203). -/
inductive DSet where
  | pts (l : List Int)
  | iv (lo hi : Int)
  deriving DecidableEq, Repr

/-- The members of a register as every D operation reads it (R203). -/
def members (c : W128) : DSet :=
  let lo : Int := (c.extractLsb' 0 32).toInt
  let hi : Int := (c.extractLsb' 32 32).toInt
  if hi - lo < 0 then .pts []
  else if hi - lo ≤ 63 then
    .pts (((List.range ((hi - lo).toNat + 1)).filter fun i => c.getLsbD (64 + i)).map fun (i : Nat) => lo + (i : Int))
  else .iv lo hi

/-- The set is empty. -/
def DSet.isEmpty : DSet → Bool
  | .pts l => l.isEmpty
  | .iv _ _ => false
/-- The set is in exact mode. -/
def DSet.exact : DSet → Bool
  | .pts _ => true
  | .iv _ _ => false
/-- The members of an exact set. -/
def DSet.list : DSet → List Int
  | .pts l => l
  | .iv _ _ => []
/-- The least member of a set that is not empty. -/
def DSet.lo : DSet → Int
  | .pts l => l.headD 0
  | .iv a _ => a
/-- The greatest member of a set that is not empty. -/
def DSet.hi : DSet → Int
  | .pts l => l.getLastD 0
  | .iv _ b => b
/-- Membership. -/
def DSet.has (s : DSet) (x : Int) : Bool :=
  match s with
  | .pts l => l.contains x
  | .iv a b => decide (a ≤ x) && decide (x ≤ b)
/-- The single member, if there is one. -/
def DSet.single : DSet → Option Int
  | .pts [x] => some x
  | _ => none

/-- The canonical encoding (R202, R204). -/
def canon : DSet → W128
  | .pts [] => emptyCode
  | .pts (x :: xs) =>
    let hi := (x :: xs).getLastD x
    if hi - x ≤ 63 then
      code x hi ((x :: xs).foldl (fun m y => m ||| (1#64 <<< (y - x).toNat)) 0)
    else code x hi (.allOnes 64)
  | .iv a b => code a b (.allOnes 64)

/-- The integers from a to b as a set (R202). -/
def range (a b : Int) : DSet :=
  if b < a then .pts []
  else if b - a ≤ 63 then .pts ((List.range ((b - a).toNat + 1)).map fun (i : Nat) => a + (i : Int))
  else .iv a b

/-- A set T that narrows a register (R204, R207). -/
inductive Con where
  | pts (l : List Int)
  | iv (lo hi : Int)
  | nots (l : List Int)
  deriving DecidableEq, Repr

/-- An interval within U. -/
def clipIv (a b : Int) : Con := .iv (max a uMin) (min b uMax)
/-- Points within U. -/
def clipPts (l : List Int) : Con := .pts (l.filter fun x => decide (uMin ≤ x) && decide (x ≤ uMax))
/-- Membership in T. -/
def Con.has (t : Con) (x : Int) : Bool :=
  match t with
  | .pts l => l.contains x
  | .iv a b => decide (a ≤ x) && decide (x ≤ b)
  | .nots l => !l.contains x
/-- Membership in every T. -/
def allHave (ts : List Con) (x : Int) : Bool := ts.all fun t => t.has x

/-- Insert in ascending order, without repeats. -/
def insertAsc (x : Int) (l : List Int) : List Int :=
  l.filter (fun y => decide (y < x)) ++ [x] ++ l.filter fun y => decide (x < y)
/-- Ascending order without repeats. -/
def sortAsc (l : List Int) : List Int := l.foldl (fun a x => insertAsc x a) []

/-- Raise a lower bound past excluded values. -/
def trimUp (ts : List Con) : Nat → Int → Int
  | 0, x => x
  | n + 1, x => if allHave ts x then x else trimUp ts n (x + 1)
/-- Lower an upper bound past excluded values. -/
def trimDown (ts : List Con) : Nat → Int → Int
  | 0, x => x
  | n + 1, x => if allHave ts x then x else trimDown ts n (x - 1)

/-- members(c) ∩ T for several T applied together (R204, R207). -/
def keep (s : DSet) (ts : List Con) : DSet :=
  match s with
  | .pts l => .pts (l.filter (allHave ts))
  | .iv a b =>
    match ts.findSome? fun t => match t with | .pts l => some l | _ => none with
    | some l => .pts (sortAsc (l.filter fun x => decide (a ≤ x) && decide (x ≤ b) && allHave ts x))
    | none =>
      let ivs := ts.filterMap fun t => match t with | .iv p q => some (p, q) | _ => none
      let nots := ts.filter fun t => match t with | .nots _ => true | _ => false
      let lo := ivs.foldl (fun x t => max x t.1) a
      let hi := ivs.foldl (fun x t => min x t.2) b
      if hi < lo then .pts []
      else
        let fuel := nots.foldl (fun n t => n + match t with | .nots l => l.length | _ => 0) 1
        let lo' := trimUp nots fuel lo
        let hi' := trimDown nots fuel hi
        if hi' - lo' ≤ 63 then
          .pts (((range lo' hi').list).filter (allHave nots))
        else .iv lo' hi'

/-! ## Clauses (R205 to R208) -/

/-- The fields of a clause. -/
def clOp (c : W64) : Nat := c.toNat / 2 ^ 55
def clF1 (c : W64) : Nat := c.toNat / 2 ^ 50 % 32
def clF2 (c : W64) : Nat := c.toNat / 2 ^ 45 % 32
def clF3 (c : W64) : Nat := c.toNat / 2 ^ 40 % 32
def clK (c : W64) : W32 := c.setWidth 32
/-- Build a clause. -/
def clause (op : BitVec 9) (f1 f2 f3 : BitVec 5) (k : W32) : W64 :=
  (op.setWidth 64 <<< 55) ||| (f1.setWidth 64 <<< 50) ||| (f2.setWidth 64 <<< 45) ||| (f3.setWidth 64 <<< 40) |||
    k.setWidth 64

/-- A unary clause (R206). -/
def unary (c : W64) : Bool := (decide (0x10 ≤ clOp c) && decide (clOp c ≤ 0x15)) || decide (0x80 ≤ clOp c)
/-- The registers of a clause in operand order. -/
def regs (c : W64) : List Nat :=
  if clOp c ≤ 0x05 then [clF1 c, clF2 c, clF3 c]
  else if clOp c ≤ 0x0B ∨ clOp c = 0x18 then [clF1 c, clF2 c]
  else [clF1 c]

/-- The set of a unary clause (R207, R214). -/
def unaryCon (c : W64) : Con :=
  let k : Int := (clK c).toInt
  match clOp c with
  | 0x10 => .pts [k]
  | 0x11 => .nots [k]
  | 0x12 => clipIv uMin (k - 1)
  | 0x13 => clipIv uMin k
  | 0x14 => clipIv (k + 1) uMax
  | 0x15 => clipIv k uMax
  | op =>
    let o : Int := ((clK c).extractLsb' 16 6).toInt
    let vs := ((List.range 16).filter fun i => (clK c).getLsbD i).map fun (i : Nat) => 16 * o + (i : Int)
    if op < 0xC0 then .pts vs else .nots vs

/-- The floor and the ceiling of an exact quotient. -/
def floorDiv (a b : Int) : Int := a.fdiv b
def ceilDiv (a b : Int) : Int := -((-a).fdiv b)
/-- The quotient hull of DMUL, where 0 is not in the divisor's bounds (R207). -/
def quot (lz hz l h : Int) : List Con :=
  if l ≤ 0 ∧ 0 ≤ h then []
  else
    let cs := [ceilDiv lz l, ceilDiv lz h, ceilDiv hz l, ceilDiv hz h]
    let fs := [floorDiv lz l, floorDiv lz h, floorDiv hz l, floorDiv hz h]
    [clipIv (cs.foldl min (cs.headD 0)) (fs.foldl max (fs.headD 0))]

/-- Every combination of two exact sets. -/
def comb (f : Int → Int → Int) (x y : DSet) : Con := clipPts (x.list.flatMap fun a => y.list.map fun b => f a b)

/-- The sets by which an execution narrows its operands, in operand order (R207). `t` is the table of DELEM. -/
def rules (c : W64) (t : List Int) (xs : List DSet) : List (List Con) :=
  let x := xs.getD 0 (.pts [])
  let y := xs.getD 1 (.pts [])
  let z := xs.getD 2 (.pts [])
  let ex := xs.all DSet.exact
  if unary c then [[unaryCon c]]
  else match clOp c with
  | 0x01 =>
    if ex then [[comb (fun a b => a - b) z y], [comb (fun a b => a - b) z x], [comb (fun a b => a + b) x y]]
    else [[clipIv (z.lo - y.hi) (z.hi - y.lo)], [clipIv (z.lo - x.hi) (z.hi - x.lo)], [clipIv (x.lo + y.lo) (x.hi + y.hi)]]
  | 0x02 =>
    if ex then [[comb (fun a b => a + b) z y], [comb (fun a b => a - b) x z], [comb (fun a b => a - b) x y]]
    else [[clipIv (z.lo + y.lo) (z.hi + y.hi)], [clipIv (x.lo - z.hi) (x.hi - z.lo)], [clipIv (x.lo - y.hi) (x.hi - y.lo)]]
  | 0x03 =>
    let cs := [x.lo * y.lo, x.lo * y.hi, x.hi * y.lo, x.hi * y.hi]
    [quot z.lo z.hi y.lo y.hi, quot z.lo z.hi x.lo x.hi,
     [clipIv (cs.foldl min (cs.headD 0)) (cs.foldl max (cs.headD 0))]]
  | 0x04 =>
    if ex then
      [[clipPts (x.list.filter fun a => y.list.any fun b => z.has (min a b))],
       [clipPts (y.list.filter fun b => x.list.any fun a => z.has (min a b))], [comb min x y]]
    else [[clipIv z.lo uMax], [clipIv z.lo uMax], [clipIv (min x.lo y.lo) (min x.hi y.hi)]]
  | 0x05 =>
    if ex then
      [[clipPts (x.list.filter fun a => y.list.any fun b => z.has (max a b))],
       [clipPts (y.list.filter fun b => x.list.any fun a => z.has (max a b))], [comb max x y]]
    else [[clipIv uMin z.hi], [clipIv uMin z.hi], [clipIv (max x.lo y.lo) (max x.hi y.hi)]]
  | 0x08 => if ex then [[clipPts y.list], [clipPts x.list]] else [[clipIv y.lo y.hi], [clipIv x.lo x.hi]]
  | 0x09 =>
    [(match y.single with | some v => [.nots [v]] | none => []), (match x.single with | some v => [.nots [v]] | none => [])]
  | 0x0A => [[clipIv uMin (y.hi - 1)], [clipIv (x.lo + 1) uMax]]
  | 0x0B => [[clipIv uMin y.hi], [clipIv x.lo uMax]]
  | _ =>
    -- DELEM: operand order is z, x (R213)
    [[clipPts (((List.range 64).filter fun i => y.has (Int.ofNat i)).map fun i => t.getD i 0)],
     [clipPts (((List.range 64).filter fun i => x.has (t.getD i 0)).map Int.ofNat)]]

/-- The table of a DELEM clause (R208). -/
def elemTable (c : CoreSt) (cl : W64) : List Int :=
  if clOp cl = 0x18 then
    (List.range 64).map fun i => (ofBytes 32 (c.spadRead ((clK cl).toNat % 2 ^ 21 + 4 * i) 4) : W32).toInt
  else []

/-- No repeats, first places kept. -/
def distinct (l : List Nat) : List Nat := l.foldl (fun a x => if a.contains x then a else a ++ [x]) []

/-- One execution of a clause (R207, R209): the registers narrowed, and the first register emptied. -/
def runClause (c : CoreSt) (cl : W64) : CoreSt × List Nat × Option Nat :=
  let rs := regs cl
  let sets := rs.map fun r => members (c.creg r)
  match rs.find? fun r => (members (c.creg r)).isEmpty with
  | some r => (c.setCreg r emptyCode, [], some r)
  | none =>
    let cons := rules cl (elemTable c cl) sets
    let per (r : Nat) : List Con := ((rs.zip cons).filter fun x => x.1 == r).flatMap fun x => x.2
    let news := (distinct rs).map fun r => (r, if per r = [] then c.creg r else canon (keep (members (c.creg r)) (per r)))
    (news.foldl (fun x n => x.setCreg n.1 n.2) c,
     (news.filter fun n => n.2 != c.creg n.1).map fun n => n.1,
     (news.find? fun n => (members n.2).isEmpty).map fun n => n.1)

/-- Enqueue the clauses that mention narrowed registers (R209, R216): ascending index, one register at a time. -/
def wake (c : CoreSt) (rs : List Nat) (except : Option Nat) (withUnary : Bool) : CoreSt :=
  let t := c.dom.table
  let js := rs.flatMap fun r => (List.range t.length).filter fun j =>
    some j != except && (regs (t.getD j 0)).contains r && (withUnary || !unary (t.getD j 0))
  { c with dom := { c.dom with queue := js.foldl (fun q j => if q.contains j then q else q ++ [j]) c.dom.queue } }

/-! ## Operations (R209 to R222) -/

/-- The opcode and clause of a relational instruction (R73, R205). -/
def clauseOf (op : DOp) : Option W64 :=
  let k16 (k : BitVec 16) : W32 := k.signExtend 32
  match op.op with
  | .dadd x y z _ => some (clause 0x01 x y z 0)
  | .dsub x y z _ => some (clause 0x02 x y z 0)
  | .dmul x y z _ => some (clause 0x03 x y z 0)
  | .dmin x y z _ => some (clause 0x04 x y z 0)
  | .dmax x y z _ => some (clause 0x05 x y z 0)
  | .deq x y _ => some (clause 0x08 x y 0 0)
  | .dne x y _ => some (clause 0x09 x y 0 0)
  | .dlt x y _ => some (clause 0x0A x y 0 0)
  | .dle x y _ => some (clause 0x0B x y 0 0)
  | .deqi c k _ => some (clause 0x10 c 0 0 (k16 k))
  | .dnei c k _ => some (clause 0x11 c 0 0 (k16 k))
  | .dlti c k _ => some (clause 0x12 c 0 0 (k16 k))
  | .dlei c k _ => some (clause 0x13 c 0 0 (k16 k))
  | .dgti c k _ => some (clause 0x14 c 0 0 (k16 k))
  | .dgei c k _ => some (clause 0x15 c 0 0 (k16 k))
  | .din c m o _ => some (clause (0x080 ||| o.setWidth 9) c 0 0 ((o.setWidth 32 <<< 16) ||| m.setWidth 32))
  | .dnotin c m o _ => some (clause (0x0C0 ||| o.setWidth 9) c 0 0 ((o.setWidth 32 <<< 16) ||| m.setWidth 32))
  | .delem z x _ _ => some (clause 0x18 z x 0 ((op.b.setWidth 21).setWidth 32))
  | _ => none

/-- The record of a domain fault (R223, R235). That of a DOPEN or DCLOSE, which name no token, has TOKEN 0 (DESIGN CHOICE, log entry 113). -/
def faultInfo (c : CoreSt) (op : DOp) (k : Cause) (unit row : Nat) : TrapInfo :=
  { CoreSt.blankTrap k with
    token := true, slots := 2, bundle := op.bundle, sched := op.sched
    kind := if k = .domainEmpty then 4 else 0, unit := BitVec.ofNat 8 unit, row := BitVec.ofNat 16 row
    tok := BitVec.ofNat 3 (op.tok.getD 0), resume := c.pc }

/-- The scalar that a readout or DLAB writes, with its flags (R217, R218). The lo and hi of an exact-mode register whose MAP lacks bit 0 or bit
hi − lo are its least and greatest members, not its LO and HI fields (DESIGN CHOICE, log entry 112). -/
def readout (i : Instr) (c : CoreSt) : W64 × Flg :=
  let rd (r : BitVec 5) := members (c.creg r.toNat)
  match i with
  | .dval _ r _ =>
    let s := rd r
    if s.isEmpty then (0, .invalid) else (BitVec.ofInt 64 s.lo, .iff s.single.isNone .invalid)
  | .dsize _ r _ =>
    let s := rd r
    if s.isEmpty then (0, 0)
    else if s.exact then (BitVec.ofNat 64 s.list.length, 0) else (BitVec.ofInt 64 (s.hi - s.lo + 1), 0)
  | .dlo _ r _ => let s := rd r; if s.isEmpty then (0, .invalid) else (BitVec.ofInt 64 s.lo, 0)
  | .dhi _ r _ => let s := rd r; if s.isEmpty then (0, .invalid) else (BitVec.ofInt 64 s.hi, 0)
  | .dlab _ r _ => let s := rd r; if s.isEmpty then (0, 0) else (BitVec.ofInt 64 s.lo, 0)
  | _ => (0, 0)

/-- Whether the operation propagates (R209). -/
def propagates (i : Instr) : Bool :=
  match i with
  | .dset _ _ _ _ | .dlab _ _ _ | .dsettle _ => true
  | .dseti _ _ _ | .dval _ _ _ | .dsize _ _ _ | .dlo _ _ _ | .dhi _ _ _ | .dclr | .dopen _ | .dclose => false
  | _ => true

/-- A value clipped to U (R216). -/
def clipU (x : Int) : Int := max uMin (min uMax x)

/-- Note a failure of register r in clause j (R209, R222, R223): the register takes the empty encoding; with a parenthesis
open the restore follows in 4 cycles and the operations queued behind are cancelled, else the operation faults. -/
def fail (c : CoreSt) (r : DRun) (reg j : Nat) : CoreSt × DRun :=
  let c := c.setCreg reg emptyCode
  match c.dom.stack.getLast? with
  | some snap => (c, { r with failed := true, target := snap.target })
  | none => (c, { r with fault := some (faultInfo c r.op .domainEmpty reg j) })

/-- Whether a run has a re-execution to come (R209). -/
def more (c : CoreSt) (r : DRun) : Bool :=
  propagates r.op.op && !r.failed && r.fault.isNone && decide (c.dom.queue ≠ []) && decide (r.n < r.op.budget)

/-- One re-execution, in cycle k (R209). -/
def again (c : CoreSt) (r : DRun) (k : Nat) : CoreSt :=
  match c.dom.queue with
  | [] => c
  | j :: q =>
    let c := { c with dom := { c.dom with queue := q } }
    let r := { r with n := r.n + 1, until_ := k + 5 }
    let e := runClause c (c.dom.table.getD j 0)
    match e.2.2 with
    | some reg =>
      let f := fail e.1 r reg j
      { f.1 with dom := { f.1.dom with run := some f.2 } }
    | none =>
      let c := wake e.1 e.2.1 (some j) false
      { c with dom := { c.dom with run := some r } }

/-- The first execution of an operation, in its first cycle k (R209, R211); DSETTLE's first re-execution is its first execution. -/
def begin1 (c : CoreSt) (op : DOp) (k : Nat) : CoreSt :=
  let rd := readout op.op c
  let r0 : DRun := { op := op, n := 0, until_ := k, failed := false, restored := false, target := 0, result := rd.1, flags := rd.2, fault := none }
  let put (c : CoreSt) (r : DRun) (busy : Nat) : CoreSt :=
    { c with dom := { c.dom with run := some { r with until_ := k + busy - 1 } } }
  match clauseOf op with
  | some cl =>
    if 64 ≤ c.dom.table.length then put c { r0 with fault := some (faultInfo c op .clauseFull 0 0) } 1
    else
      let j := c.dom.table.length
      let c := { c with dom := { c.dom with table := c.dom.table ++ [cl] } }
      let e := runClause c cl
      match e.2.2 with
      | some reg => let f := fail e.1 r0 reg j; put f.1 f.2 6
      | none => put (wake e.1 e.2.1 (some j) false) r0 6
  | none =>
    match op.op with
    | .dset r _ _ _ =>
      if op.b.toInt < op.a.toInt then let f := fail c r0 r.toNat 64; put f.1 f.2 2
      else put (wake (c.setCreg r.toNat (canon (range (clipU op.a.toInt) (clipU op.b.toInt)))) [r.toNat] none true) r0 2
    | .dlab _ r _ =>
      let s := members (c.creg r.toNat)
      if s.isEmpty then let f := fail c r0 r.toNat 64; put f.1 f.2 2
      else put (wake (c.setCreg r.toNat (canon (range s.lo s.lo))) [r.toNat] none true) r0 2
    | .dseti r lo hi => put (wake (c.setCreg r.toNat (canon (range lo.toInt hi.toInt))) [r.toNat] none true) r0 1
    | .dclr => put { c with dom := { c.dom with table := [], queue := [], stack := [] } } r0 1
    | .dopen ofs =>
      if 8 ≤ c.dom.stack.length then put c { r0 with fault := some (faultInfo c op .parenDepth 0 0) } 1
      else
        let snap : Snapshot :=
          { c := c.files.c, len := c.dom.table.length, queue := c.dom.queue, unsettled := c.ctrl.unsettled,
            target := op.group + (ofs.signExtend 60 <<< 2) }
        put { c with dom := { c.dom with stack := c.dom.stack ++ [snap] } } r0 4
    | .dclose =>
      if c.dom.stack = [] then put c { r0 with fault := some (faultInfo c op .parenDepth 0 0) } 1
      else put { c with dom := { c.dom with stack := c.dom.stack.dropLast } } r0 1
    | .dsettle _ =>
      if c.dom.queue = [] ∨ op.budget = 0 then put c r0 1 else again c { r0 with until_ := k } k
    | _ => put c r0 2

/-- Cancel the operations queued behind a failing one that do not name its token; they complete at once (R222). -/
def cancelQueued (c : CoreSt) (tok : Option Nat) : CoreSt :=
  let gone := c.dom.ops.filter fun o => o.tok != tok
  let c := gone.foldl (fun c o => c.tokDone o.tok) c
  { c with dom := { c.dom with ops := c.dom.ops.filter fun o => o.tok == tok, cancel := tok } }

/-- The restore of the innermost snapshot (R222). -/
def restoreSnap (c : CoreSt) : CoreSt :=
  match c.dom.stack.getLast? with
  | none => c
  | some s =>
    { c with
      files := { c.files with c := s.c }
      ctrl := { c.ctrl with unsettled := s.unsettled }
      dom := { c.dom with table := c.dom.table.take s.len, queue := s.queue, stack := c.dom.stack.dropLast } }

/-- Write the scalar of a DLAB or a readout (R212, R217). -/
def putResult (c : CoreSt) (r : DRun) : CoreSt :=
  match r.op.op with
  | .dlab d _ _ | .dval d _ _ | .dsize d _ _ | .dlo d _ _ | .dhi d _ _ => c.putS d r.result
  | _ => c

/-- Record an outcome in the token of an operation (R212). Of two failed operations on one token, the second of which ran on the state that the
first restored, the target is the last one's (DESIGN CHOICE, log entry 100). -/
def outcome (c : CoreSt) (r : DRun) : CoreSt :=
  match r.op.tok with
  | none => c
  | some w =>
    let t := c.token w
    c.setToken w { t with failed := t.failed || r.failed, target := if r.failed then r.target else t.target,
                          unsettled := t.unsettled || (propagates r.op.op && !r.failed && decide (c.dom.queue ≠ [])) }

/-- The end of a run: the restore of a failure begins, or the operation completes or faults (R209, R210, R212, R222,
R224). -/
def finish (c : CoreSt) (r : DRun) (k : Nat) : CoreSt :=
  match r.fault with
  | some t =>
    let c := if t.cause = .domainEmpty then putResult c r else c
    { c with
      ctrl := { c.ctrl with unsettled := decide (c.dom.queue ≠ []) }
      dom := { c.dom with run := none, ops := { r.op with fault := some t } :: c.dom.ops } }
  | none =>
    if r.failed && !r.restored then
      let c := restoreSnap (cancelQueued c r.op.tok)
      { c with dom := { c.dom with run := some { r with restored := true, until_ := k + 3 } } }
    else
      let c := outcome { (putResult c r) with dom := { c.dom with run := none } } r
      let c := { c with ctrl := { c.ctrl with unsettled := decide (c.dom.queue ≠ []) } }
      let c := c.tokDone r.op.tok
      c.raise 1 r.op.bundle (r.flags ||| .iff r.op.lost .latch)

/-- The unit at the end of cycle k − 1: an execution that has ended completes its operation unless another follows (R211). -/
def endAt (c : CoreSt) (k : Nat) : CoreSt :=
  match c.dom.run with
  | none => c
  | some r => if r.until_ < k ∧ !more c r then finish c r k else c

/-- The unit in cycle k: the next re-execution, or the start of the next operation (R211). -/
def goAt (c : CoreSt) (k : Nat) : CoreSt :=
  match c.dom.run with
  | some r => if r.until_ < k ∧ more c r then again c r k else c
  | none =>
    match c.dom.ops with
    | [] => c
    | op :: rest =>
      if op.fault.isSome then c
      else
        begin1 { c with dom := { c.dom with ops := rest } } op k

/-- Issue a D operation (R211, R222): cancelled while a failed token awaits its WAIT, unless it names that token; else
queued, and started at once in an idle unit. -/
def issue (i : Instr) (a b : W64) (f : Flg) (c : CoreSt) : CoreSt :=
  let tok := i.token
  let c := match tok with
    | some w => c.tokOpen w .d (destsOf i)
    | none => c
  if c.dom.cancel.isSome && c.dom.cancel != tok then c.tokDone tok
  else
    let op : DOp :=
      { op := i, bundle := c.flow.bundleA, group := c.flow.groupA, sched := c.flow.sched, tok := tok, seq := c.flow.seq, a := a,
        b := b, budget := c.ctrl.dbudget.toNat, lost := decide (f ≠ 0), fault := none }
    let idle := c.dom.run.isNone && decide (c.dom.ops = [])
    let c := { c with dom := { c.dom with ops := c.dom.ops ++ [op] }, flow := { c.flow with seq := c.flow.seq + 1 } }
    if idle then goAt c c.flow.cyc else c

end Dom

/-- A D-slot instruction with no scalar operand. -/
def landD (i : Instr) (s : State) : Host.Outcome State Fault Refusal := s.issue i fun s => s.onCur (Dom.issue i 0 0 0)

/-- DADD: x + y = z (R214). -/
def execDadd (x y z : BitVec 5) (w : BitVec 3) (s : State) : Host.Outcome State Fault Refusal := landD (.dadd x y z w) s
/-- DSUB: x − y = z (R214). -/
def execDsub (x y z : BitVec 5) (w : BitVec 3) (s : State) : Host.Outcome State Fault Refusal := landD (.dsub x y z w) s
/-- DMUL: x × y = z (R214). -/
def execDmul (x y z : BitVec 5) (w : BitVec 3) (s : State) : Host.Outcome State Fault Refusal := landD (.dmul x y z w) s
/-- DMIN: z = min(x, y) (R214). -/
def execDmin (x y z : BitVec 5) (w : BitVec 3) (s : State) : Host.Outcome State Fault Refusal := landD (.dmin x y z w) s
/-- DMAX: z = max(x, y) (R214). -/
def execDmax (x y z : BitVec 5) (w : BitVec 3) (s : State) : Host.Outcome State Fault Refusal := landD (.dmax x y z w) s
/-- DEQ: x = y (R214). -/
def execDeq (x y : BitVec 5) (w : BitVec 3) (s : State) : Host.Outcome State Fault Refusal := landD (.deq x y w) s
/-- DNE: x ≠ y (R214). -/
def execDne (x y : BitVec 5) (w : BitVec 3) (s : State) : Host.Outcome State Fault Refusal := landD (.dne x y w) s
/-- DLT: x < y (R214). -/
def execDlt (x y : BitVec 5) (w : BitVec 3) (s : State) : Host.Outcome State Fault Refusal := landD (.dlt x y w) s
/-- DLE: x ≤ y (R214). -/
def execDle (x y : BitVec 5) (w : BitVec 3) (s : State) : Host.Outcome State Fault Refusal := landD (.dle x y w) s
/-- DEQI: c = k (R214). -/
def execDeqi (c : BitVec 5) (k : BitVec 16) (w : BitVec 3) (s : State) : Host.Outcome State Fault Refusal := landD (.deqi c k w) s
/-- DNEI: c ≠ k (R214). -/
def execDnei (c : BitVec 5) (k : BitVec 16) (w : BitVec 3) (s : State) : Host.Outcome State Fault Refusal := landD (.dnei c k w) s
/-- DLTI: c < k (R214). -/
def execDlti (c : BitVec 5) (k : BitVec 16) (w : BitVec 3) (s : State) : Host.Outcome State Fault Refusal := landD (.dlti c k w) s
/-- DLEI: c ≤ k (R214). -/
def execDlei (c : BitVec 5) (k : BitVec 16) (w : BitVec 3) (s : State) : Host.Outcome State Fault Refusal := landD (.dlei c k w) s
/-- DGTI: c > k (R214). -/
def execDgti (c : BitVec 5) (k : BitVec 16) (w : BitVec 3) (s : State) : Host.Outcome State Fault Refusal := landD (.dgti c k w) s
/-- DGEI: c ≥ k (R214). -/
def execDgei (c : BitVec 5) (k : BitVec 16) (w : BitVec 3) (s : State) : Host.Outcome State Fault Refusal := landD (.dgei c k w) s
/-- DIN: c ∈ the map's values (R214). -/
def execDin (c : BitVec 5) (m : BitVec 16) (o : BitVec 6) (w : BitVec 3) (s : State) : Host.Outcome State Fault Refusal := landD (.din c m o w) s
/-- DNOTIN: c ∉ the map's values (R214). -/
def execDnotin (c : BitVec 5) (m : BitVec 16) (o : BitVec 6) (w : BitVec 3) (s : State) : Host.Outcome State Fault Refusal := landD (.dnotin c m o w) s
/-- DELEM: z = T[x], with the table's address read at issue (R208, R213, R214). -/
def execDelem (z x : BitVec 5) (b : SSrc) (w : BitVec 3) (s : State) : Host.Outcome State Fault Refusal :=
  s.issue (.delem z x b w) fun s => s.onCur fun c => Dom.issue (.delem z x b w) 0 (c.src b) (c.srcFlag b) c
/-- DSET: c from a to b, read at issue (R216). -/
def execDset (r : BitVec 5) (a b : SSrc) (w : BitVec 3) (s : State) : Host.Outcome State Fault Refusal :=
  s.issue (.dset r a b w) fun s => s.onCur fun c => Dom.issue (.dset r a b w) (c.src a) (c.src b) (c.srcFlag a ||| c.srcFlag b) c
/-- DSETI (R216). -/
def execDseti (c : BitVec 5) (lo hi : BitVec 10) (s : State) : Host.Outcome State Fault Refusal := landD (.dseti c lo hi) s
/-- DLAB: narrow to {lo}, write lo, propagate (R218). -/
def execDlab (d : SDst) (c : BitVec 5) (w : BitVec 3) (s : State) : Host.Outcome State Fault Refusal := landD (.dlab d c w) s
/-- DVAL (R217). -/
def execDval (d : SDst) (c : BitVec 5) (w : BitVec 3) (s : State) : Host.Outcome State Fault Refusal := landD (.dval d c w) s
/-- DSIZE (R217). -/
def execDsize (d : SDst) (c : BitVec 5) (w : BitVec 3) (s : State) : Host.Outcome State Fault Refusal := landD (.dsize d c w) s
/-- DLO (R217). -/
def execDlo (d : SDst) (c : BitVec 5) (w : BitVec 3) (s : State) : Host.Outcome State Fault Refusal := landD (.dlo d c w) s
/-- DHI (R217). -/
def execDhi (d : SDst) (c : BitVec 5) (w : BitVec 3) (s : State) : Host.Outcome State Fault Refusal := landD (.dhi d c w) s
/-- DSETTLE: continue the propagation queue (R215). -/
def execDsettle (w : BitVec 3) (s : State) : Host.Outcome State Fault Refusal := landD (.dsettle w) s
/-- DCLR (R219). -/
def execDclr (s : State) : Host.Outcome State Fault Refusal := landD .dclr s
/-- DOPEN: push a snapshot (R220). -/
def execDopen (ofs : BitVec 26) (s : State) : Host.Outcome State Fault Refusal := landD (.dopen ofs) s
/-- DCLOSE: pop the innermost snapshot (R221). -/
def execDclose (s : State) : Host.Outcome State Fault Refusal := landD .dclose s
/-- D_OPERATION_START: the next operation of the queue starts where the unit is idle and its head is not held (R211). -/
def execDOperationStart (g : Nat) (s : State) : Host.Outcome State Fault Refusal :=
  let c := s.core g
  coreEvent "D_OPERATION_START" g (if c.dom.run.isNone && (match c.dom.ops with | [] => false | q :: _ => q.fault.isNone) then
    some (s.setUnits g (Dom.goAt c c.flow.cyc)) else none)

/-- D_OPERATION_COMPLETE: the performing operation's last execution has ended (R209, R210, R212). -/
def execDOperationComplete (g : Nat) (s : State) : Host.Outcome State Fault Refusal :=
  let c := s.core g
  coreEvent "D_OPERATION_COMPLETE" g (match c.dom.run with
    | some r => if r.until_ < c.flow.cyc ∧ !Dom.more c r then some (s.setUnits g (Dom.finish c r c.flow.cyc)) else none
    | none => none)

end Sys2Proof.Machine
end

