-- ==== Sys2Proof/Machine/Sram.lean ====
section
/-! DEFINITION. Queue SRAM (R318, R320): the queues with their descriptors, the shares of the tenants, eviction and swap-in. -/

namespace Sys2Proof.Machine

/-! ## Queue SRAM (R320) -/

/-- A queue. -/
def State.queue (s : State) (q : Nat) : Queue := amGet .reset s.hub.queues q
/-- Change a queue. -/
def State.onQueue (s : State) (q : Nat) (f : Queue → Queue) : State :=
  { s with hub := { s.hub with queues := amSet .reset s.hub.queues q (f (s.queue q)) } }
/-- Bits of a queue's STATE (R318). -/
def Queue.enabled (q : Queue) : Bool := q.state.getLsbD 0 && decide (q.weight ≠ 0)
def Queue.resident (q : Queue) : Bool := q.state.getLsbD 1
def Queue.evicted (q : Queue) : Bool := q.state.getLsbD 2
def Queue.faulted (q : Queue) : Bool := q.state.getLsbD 3
/-- The entries of a queue's ring (R318). -/
def Queue.count (q : Queue) : Nat := (q.tail - q.head).toNat
/-- The bytes a queue occupies (R320). -/
def Queue.bytes (q : Queue) : Nat := 64 + 8 * q.size.toNat

/-- The bytes of queue SRAM that a partition uses (R320). -/
def State.sramUse (s : State) (p : Nat) : Nat :=
  (s.hub.queues.foldl (fun n q => if q.2.part = p && q.2.resident then n + q.2.bytes else n) 0) +
    16 * (s.part p).ready.length
/-- The tenants of queue SRAM: those that own an enabled queue (R320). -/
def State.tenants (s : State) : List Nat :=
  (List.range 64).filter fun p => s.hub.queues.any fun q => q.2.part == p && q.2.enabled
/-- A tenant's share (R320). -/
def State.sramShare (s : State) (p : Nat) : Nat :=
  let w (p : Nat) : Nat := (s.part p).inForce.weight.toNat
  w p * Config.queueSram / max 1 (s.tenants.foldl (fun n t => n + w t) 0)

/-- The first of the greatest under a measure. -/
def argmax (f : Nat → Int) : List Nat → Option Nat
  | [] => none
  | x :: xs => match argmax f xs with
    | none => some x
    | some y => if f y ≤ f x then some x else some y

/-- The 64 bytes of a queue's descriptor (R318). -/
def Queue.desc (q : Queue) : List Byte :=
  natBytes 2 q.part ++ natBytes 1 q.prio ++ natBytes 1 q.weight ++ bytesOf 4 q.size ++ bytesOf 4 q.head ++ bytesOf 4 q.tail ++
    natBytes 4 q.wdog ++ bytesOf 4 q.state ++ bytesOf 8 q.lastuse ++ bytesOf 8 (BitVec.ofInt 64 q.deficit) ++ bytesOf 8 q.cring ++
    bytesOf 4 q.csize ++ bytesOf 4 q.ctail ++ natBytes 8 0
/-- What an evicted queue's copy holds: its descriptor and its ring (R320). -/
def Queue.image (q : Queue) : List Byte := q.desc ++ (List.range q.size.toNat).flatMap fun i => bytesOf 8 (amGet 0 q.ring i)

/-- The queue to evict: of the tenant the most bytes over its share, the queue with the oldest LASTUSE that is not being
dequeued from (R320). Where every queue of that tenant is pinned, the next tenant in that order gives it (log entry 83). -/
def State.victim (s : State) (busy : Nat) : Option Nat :=
  let cand (p : Nat) : List Nat := (s.hub.queues.filter fun q => q.2.part == p && q.2.resident && q.1 != busy).map fun q => q.1
  let ts := (List.range 64).filter fun p => decide (cand p ≠ [])
  match argmax (fun p => (s.sramUse p : Int) - s.sramShare p) ts with
  | none => none
  | some t => argmax (fun q => -((s.queue q).lastuse.toNat : Int)) (cand t)

/-- Evict queues until some bytes fit (R320). -/
def State.makeRoom (s : State) (busy need : Nat) : Nat → State
  | 0 => s
  | f + 1 =>
    if (List.range 64).foldl (fun n p => n + s.sramUse p) 0 + need ≤ Config.queueSram then s
    else match s.victim busy with
      | none => s
      | some v =>
        let p := (s.queue v).part
        let s := s.onQueue v fun q => { q with state := (q.state &&& ~~~2) ||| 4 }
        let s : State := { s with hub := { s.hub with
          copies := amSet [] s.hub.copies v (s.queue v).image, evictions := vset s.hub.evictions p (vget 0 s.hub.evictions p + 1) } }
        ((List.range 4).foldl (fun s d => s.dieEvent d p 10 1) s).makeRoom busy need f

/-- Swap a queue in (R320). -/
def State.swapIn (s : State) (q : Nat) : State :=
  if (s.queue q).evicted then
    let s := (s.makeRoom q (s.queue q).bytes 65536).onQueue q fun x => { x with state := (x.state &&& ~~~4) ||| 2 }
    { s with hub := { s.hub with copies := amSet [] s.hub.copies q [] } }
  else s

end Sys2Proof.Machine
end

