-- ==== Sys2Proof/Machine/Control.lean ====
section
/-! DEFINITION. The Y-slot instructions (R121 to R134, R242, R243) with the return from a trap and the restart of a step
(R255). -/

namespace Sys2Proof.Machine

/-- A control transfer: the group's successor is the target (R121). -/
def CoreSt.goto (c : CoreSt) (t : W64) : CoreSt := { c with next := some t }
/-- The target of a relative branch: words from the group's first bundle (R60, R121). -/
def CoreSt.relTarget {n : Nat} (c : CoreSt) (ofs : BitVec n) : W64 := c.flow.groupA.setWidth 64 + (ofs.signExtend 64 <<< 2)
/-- The link of a call lands in s63 at +1 (R121). -/
def CoreSt.link (c : CoreSt) (f : Flg) : CoreSt := c.fly 1 [.s 63] [.sreg 63 (c.flow.groupEnd.setWidth 64)] f

/-- BR (R121). -/
def execBr (ofs : BitVec 24) (s : State) : Host.Outcome State Fault Refusal :=
  s.issue (.br ofs) fun s => s.onCur fun c => c.goto (c.relTarget ofs)
/-- CALL (R121). -/
def execCall (ofs : BitVec 24) (s : State) : Host.Outcome State Fault Refusal :=
  s.issue (.call ofs) fun s => s.onCur fun c => (c.link 0).goto (c.relTarget ofs)
/-- BRR (R121). -/
def execBrr (a : SSrc) (s : State) : Host.Outcome State Fault Refusal :=
  s.issue (.brr a) fun s => s.onCur fun c => (c.goto (c.src a)).raise 11 c.flow.bundleA (c.srcFlag a)
/-- CALLR (R121). -/
def execCallr (a : SSrc) (s : State) : Host.Outcome State Fault Refusal :=
  s.issue (.callr a) fun s => s.onCur fun c => (c.link (c.srcFlag a)).goto (c.src a)
/-- RET: to s63 as it stands at issue (R121). -/
def execRet (s : State) : Host.Outcome State Fault Refusal :=
  s.issue .ret fun s => s.onCur fun c => c.goto (c.sreg 63)

/-- A loop instruction of n groups and some trips (R123): with no trip the step continues after the body, as a taken branch: where the body
ends with the enclosing one, that level ends and counts no iteration (DESIGN CHOICE, log entry 77). Where the last groups of the body
cannot be read, no address after it is known, and the step goes on at the first of them (log entry 61). -/
def loopEff (n trips : Nat) (s : State) : State :=
  let b := s.groupsFrom s.cur n s.cc.flow.groupEnd
  s.onCur fun c => if trips = 0 then c.goto (b.2.1.setWidth 64) else c.openLoop b.1 b.2.1 b.2.2 trips
/-- LOOP (R123, R124). -/
def execLoop (body : BitVec 6) (count : BitVec 16) (s : State) : Host.Outcome State Fault Refusal :=
  s.issue (.loop body count) (loopEff (body.toNat + 1) count.toNat)
/-- LOOPR: the trip count is a, read at issue (R123, R124). -/
def execLoopr (body : BitVec 6) (a : SSrc) (s : State) : Host.Outcome State Fault Refusal :=
  s.issue (.loopr body a) fun s =>
    (loopEff (body.toNat + 1) (s.cc.src a).toNat s).onCur fun c => c.raise 11 c.flow.bundleA (s.cc.srcFlag a)

/-- WAIT on a token that has completed: its destinations are pending no more, and a failed domain token branches to its
fail target and ends the cancellation (R67, R126, R222). -/
def execWait (w : BitVec 3) (s : State) : Host.Outcome State Fault Refusal :=
  s.issueWait (.wait w) fun s => s.onCur fun c =>
    let t := c.token w.toNat
    let c := if t.failed then c.goto (t.target.setWidth 64) else c
    let c := if c.dom.cancel = some w.toNat then { c with dom := { c.dom with cancel := none } } else c
    c.tokRelease w.toNat

/-- The end of a poll: pair P lands at +2 (R127). -/
def pollEnd (i : Instr) (p : BitVec 3) (a b : SSrc) (s : State) : State :=
  s.onCur fun c =>
    { (c.fly 2 (destsOf i) [.pair p.toNat (c.reached.polled == some true)] (c.srcFlag a ||| c.srcFlag b)) with
      reached := { c.reached with polled := none, polling := none, since := none } }
/-- WAITPH (R127). -/
def execWaitph (p : BitVec 3) (a b : SSrc) (tmo : BitVec 5) (s : State) : Host.Outcome State Fault Refusal :=
  s.issueWait (.waitph p a b tmo) (pollEnd (.waitph p a b tmo) p a b)
/-- WAITBIT (R127). -/
def execWaitbit (p : BitVec 3) (a b : SSrc) (tmo : BitVec 5) (s : State) : Host.Outcome State Fault Refusal :=
  s.issueWait (.waitbit p a b tmo) (pollEnd (.waitbit p a b tmo) p a b)
/-- BAR: it issues once every member of the scope has arrived (R129). -/
def execBar (sc : BitVec 3) (s : State) : Host.Outcome State Fault Refusal :=
  s.issueWait (.bar sc) fun s => s.onCur fun c => { c with reached := { c.reached with arrived := false, released := false } }
/-- FENCE: it issues once every earlier memory operation has reached the point of its scope (R130, R299). -/
def execFence (sc : BitVec 3) (s : State) : Host.Outcome State Fault Refusal := s.issueWait (.fence sc) fun s => s
/-- END: no group after it issues, every loop level ends, and an open accumulator is discarded (R125, R131, R164). -/
def execEndStep (s : State) : Host.Outcome State Fault Refusal :=
  s.issueWait .endStep fun s => s.onCur fun c =>
    { c with status := .ended, next := none, files := { c.files with openAcc := 0 }, flow := { c.flow with loops := [], suspended := [] } }
/-- TRAP: its group commits, then the core takes SWTRAP before the next group (R132, R237). -/
def execTrap (imm : BitVec 16) (s : State) : Host.Outcome State Fault Refusal :=
  s.issue (.trap imm) fun s => s.onCur fun c =>
    { c with status := .trapping { CoreSt.blankTrap .swtrap with
        slots := 0x800, info := imm, bundle := c.flow.groupA, resume := c.flow.groupEnd, sched := c.flow.sched } }
/-- TRAPACK: the trap record is unfrozen (R133, R242). -/
def execTrapack (s : State) : Host.Outcome State Fault Refusal :=
  s.issue .trapack fun s => s.onCur fun c => { c with ctrl := { c.ctrl with frozen := false } }
/-- CRRD: the register as sampled at issue lands at +2 (R134, R239). -/
def execCrrd (d : SDst) (cr : BitVec 12) (s : State) : Host.Outcome State Fault Refusal :=
  landS (.crrd d cr) d (fun c => (c.crRead cr.toNat, 0)) s
/-- CRWR: groups from issue + 1 on see the new value (R134). -/
def execCrwr (cr : BitVec 12) (a : SSrc) (s : State) : Host.Outcome State Fault Refusal :=
  s.issue (.crwr cr a) fun s => s.onCur fun c => c.fly 1 (destsOf (.crwr cr a)) [.cr cr.toNat (c.src a)] (c.srcFlag a)

/-! ## Return from a trap (R243) -/

namespace CoreSt

/-- The core is free: no step is resident, every queue is empty and every token idle (R33, R35). -/
def freed (c : CoreSt) : CoreSt :=
  { c with
    status := .free, step := none, reached := .none, next := none, pcHigh := 0
    files := { c.files with openAcc := 0 }, dbg := { c.dbg with hit := none }
    dom := { c.dom with ops := [], run := none, cancel := none, held := [] }
    flow := { Flow.reset with cyc := c.flow.cyc, portQ := c.flow.portQ, sched := c.flow.sched, flight := c.flow.flight,
                              before := clkMax c.flow.before c.flow.need } }

/-- The D operations set aside re-enter their queue; one that took DOMAIN_EMPTY has performed and completes its token
and raises its flags (R224, R239, R243). The first of them starts in the cycle after TRET's group, which no rule says (DESIGN CHOICE, log entry
113). -/
def reenterD (c : CoreSt) : CoreSt :=
  let done (o : DOp) : Bool := match o.fault with | some t => t.cause == .domainEmpty | none => false
  let c := (c.dom.held.filter done).foldl (fun c o => (c.tokDone o.tok).raise 1 o.bundle (.iff o.lost .latch)) c
  { c with dom := { c.dom with ops := c.dom.ops ++ (c.dom.held.filter fun o => !done o).map (fun o => { o with fault := none }),
                               held := [] } }

/-- TRET but for a restart (R243): the handler's loop levels end and the step's resume, the held operations re-enter, the
latches are lost, and the record and the mode are released. -/
def leaveHandler (c : CoreSt) : CoreSt :=
  let c := c.reenter.reenterD.loseLatches
  { c with
    ctrl := { c.ctrl with frozen := false, handler := false }
    flow := { c.flow with loops := c.flow.suspended.filter fun l => !l.inHandler, suspended := [] } }

/-- The RESTART and ENDED bits and the RESUME address of the trap record (R235). -/
def recRestart (c : CoreSt) : Bool := (vget 0 c.ctrl.trec 0).getLsbD 53
def recEnded (c : CoreSt) : Bool := (vget 0 c.ctrl.trec 0).getLsbD 21
def recResume (c : CoreSt) : Addr := (vget 0 c.ctrl.trec 3).setWidth 60

end CoreSt

/-- The atomics of a core that wait at an arbiter are withdrawn unperformed (R301). -/
def State.withdraw (s : State) (g : Nat) : State :=
  s.onOrd fun o => { o with waiting := o.waiting.filter fun w => w.dec.isSome || w.core != g }

/-- The step of a core as it leaves the core with writes that must still be applied everywhere before it completes (R297). -/
def CoreSt.carried (c : CoreSt) (g : Nat) (st : StepInfo) : StepInfo :=
  { st with need := clkMax (clkMax st.need c.flow.need) c.flow.xneed, prior := if st.prior.contains g then st.prior else g :: st.prior }

/-- The ready list of a partition is full (R317). -/
def Part.readyFull (pt : Part) : Bool := decide (4096 ≤ pt.ready.length)
/-- A restart requeues the step of a core; its operations that have not performed are discarded (R255, R301; log entry
12). While the ready list is full the step waits on its core (R317; DESIGN CHOICE, log entry 84). -/
def State.restartStep (s : State) (g : Nat) : State :=
  let c := s.core g
  let t := (s.setCore g c.freed.loseLatches).withdraw g
  match c.step with
  | none => t
  | some st =>
    let st := { c.carried g st with elapsed := 0, orphan := false }
    if (s.part st.part).readyFull then t.onCore g fun c => { c with status := .restarting, step := some st }
    else (t.makeRoom Config.nQueues 16 65536).onPart st.part fun p => { p with
      restarts := p.restarts ++ [st], ready := .restart st.order :: p.ready }

/-- TRET (R133, R243): then the step restarts, or ends, or resumes at RESUME. A supervisor restarts a step by a record with RESTART 1
alone: R242 names no mechanism for one with RESTART 0 (DESIGN CHOICE, log entry 74). -/
def execTret (s : State) : Host.Outcome State Fault Refusal :=
  s.issue .tret fun s =>
    let c := s.cc
    let s := s.setCore s.cur c.leaveHandler
    if c.recRestart then s.restartStep s.cur
    else
    let s := s.stampHead s.cur
    if c.recEnded then s.onCur fun d => { d with status := .ended, next := none, pc := c.recResume }
    else s.onCur fun d => d.goto (c.recResume.setWidth 64)

end Sys2Proof.Machine
end

