-- ==== Sys2Proof/Machine/AxisUnit.lean ====
section
/-! DEFINITION. The A-slot instructions and the axis forms of the L and W slots (R178 to R199). -/

namespace Sys2Proof.Machine

open Sys2Proof.Axis (AxRes)

/-- Both fields of an axis register land from a result computed at issue (R184, R185). -/
def landA (i : Instr) (ad : BitVec 4) (f : State → AxRes × Flg) (s : State) : Host.Outcome State Fault Refusal :=
  s.issue i fun s =>
    let r := f s
    s.onCur fun c => c.fly (i.latency c.classB) (destsOf i) [.axis ad.toNat r.1.u r.1.n] (r.1.fl ||| r.2)
/-- A norm alone lands (R184, R185). -/
def landN (i : Instr) (ad : BitVec 4) (f : CoreSt → W32 × Flg) (s : State) : Host.Outcome State Fault Refusal :=
  s.issue i fun s => s.onCur fun c => c.fly 1 (destsOf i) [.norm ad.toNat (f c).1] (f c).2

/-- Component 16c + λ from lane λ of a register of cluster c (R186). -/
def gatherLanes (c : CoreSt) (vs : BitVec 5) : List W32 :=
  (List.range 8).flatMap fun cl => (List.range 16).map fun l => elem 32 l (c.vreg cl vs.toNat)

/-- AFROMV (R186). -/
def execAfromv (ad : BitVec 4) (vs : BitVec 5) (s : State) : Host.Outcome State Fault Refusal :=
  landA (.afromv ad vs) ad (fun s => (Axis.fromLanes s.tick (gatherLanes s.cc vs), 0)) s

/-- ATOV: every lane of every cluster (R187, R194). -/
def execAtov (vd : BitVec 5) (as : BitVec 4) (s : State) : Host.Outcome State Fault Refusal :=
  s.issue (.atov vd as) fun s =>
    let c := s.cc
    let rs := (List.range 128).map fun k => Axis.lane s.tick (c.axis as.toNat) (c.norm as.toNat) k
    let ws := (List.range 8).map fun cl => Write.vreg cl vd.toNat
      (packElems 512 (((rs.drop (16 * cl)).take 16).map fun r => (BitVec.ofNat 32 r.1 : W32))) (.allOnes 512)
    s.setCore s.cur (c.fly 4 (destsOf (.atov vd as)) ws (rs.foldl (fun f r => f ||| r.2) 0))

/-- ADOT (R188, R194). -/
def execAdot (d : SDst) (aa ab : BitVec 4) (s : State) : Host.Outcome State Fault Refusal :=
  landS (.adot d aa ab) d (fun c => fres (Axis.cosine (c.axis aa.toNat) (c.norm aa.toNat) (c.axis ab.toNat) (c.norm ab.toNat))) s

/-- ADOTM: the key block is read at issue + 1 (R189). -/
def execAdotm (vd : BitVec 5) (cl : BitVec 3) (aa : BitVec 4) (b : SSrc) (s : State) : Host.Outcome State Fault Refusal :=
  s.issue (.adotm vd cl aa b) fun s => s.onCur fun c =>
    c.fly 21 (destsOf (.adotm vd cl aa b)) [] (c.srcFlag b)
      (some (.adotm cl.toNat vd.toNat (c.axis aa.toNat) (c.norm aa.toNat) (c.src b).toNat))

/-- ASCL: N + sb, a 64-bit signed value (R182, R190). -/
def execAscl (ad : BitVec 4) (b : SSrc) (s : State) : Host.Outcome State Fault Refusal :=
  landN (.ascl ad b) ad (fun c => let r := Axis.scale (c.norm ad.toNat) (c.src b).toInt; (r.1, r.2 ||| c.srcFlag b)) s
/-- ASCLI: N + sext(IMM19) (R182, R190). -/
def execAscli (ad : BitVec 4) (imm : BitVec 19) (s : State) : Host.Outcome State Fault Refusal :=
  landN (.ascli ad imm) ad (fun c => Axis.scale (c.norm ad.toNat) imm.toInt) s
/-- AMAG: sext64(N) (R191). -/
def execAmag (d : SDst) (as : BitVec 4) (s : State) : Host.Outcome State Fault Refusal :=
  landS (.amag d as) d (fun c => ((c.norm as.toNat).signExtend 64, 0)) s
/-- ANEG (R191, R194). -/
def execAneg (ad as : BitVec 4) (s : State) : Host.Outcome State Fault Refusal :=
  landA (.aneg ad as) ad (fun s =>
    let n := s.cc.norm as.toNat
    (if Axis.nKind n = .invalid then Axis.invalidRes 0
     else { u := Axis.packComps ((Axis.comps (s.cc.axis as.toNat)).map fun x => -x), n := n, fl := 0 }, 0)) s
/-- AADD (R192, R194). -/
def execAadd (ad aa ab : BitVec 4) (s : State) : Host.Outcome State Fault Refusal :=
  landA (.aadd ad aa ab) ad (fun s =>
    (Axis.addSub s.tick false (s.cc.axis aa.toNat) (s.cc.norm aa.toNat) (s.cc.axis ab.toNat) (s.cc.norm ab.toNat), 0)) s
/-- ASUB (R192, R194). -/
def execAsub (ad aa ab : BitVec 4) (s : State) : Host.Outcome State Fault Refusal :=
  landA (.asub ad aa ab) ad (fun s =>
    (Axis.addSub s.tick true (s.cc.axis aa.toNat) (s.cc.norm aa.toNat) (s.cc.axis ab.toNat) (s.cc.norm ab.toNat), 0)) s
/-- ALERP (R193, R194). -/
def execAlerp (ad aa ab : BitVec 4) (t : SSrc) (s : State) : Host.Outcome State Fault Refusal :=
  landA (.alerp ad aa ab t) ad (fun s =>
    (Axis.lerp s.tick (s.cc.axis aa.toNat) (s.cc.norm aa.toNat) (s.cc.axis ab.toNat) (s.cc.norm ab.toNat)
      ((s.cc.src t).setWidth 32), s.cc.srcFlag t)) s
/-- AZERO (R191). -/
def execAzero (ad : BitVec 4) (s : State) : Host.Outcome State Fault Refusal :=
  landN (.azero ad) ad (fun _ => (CoreSt.nZero, 0)) s
/-- ASETN: what lands depends on the register in the landing cycle (R191). -/
def execAsetn (ad : BitVec 4) (b : SSrc) (s : State) : Host.Outcome State Fault Refusal :=
  s.issue (.asetn ad b) fun s => s.onCur fun c =>
    c.fly 1 (destsOf (.asetn ad b)) [.setn ad.toNat ((c.src b).setWidth 32)] (c.srcFlag b)

/-- ALD: 260 bytes read at issue + 1, checked at landing (R181, R196). -/
def execAld (ad : BitVec 4) (a : SSrc) (ofs : BitVec 12) (s : State) : Host.Outcome State Fault Refusal :=
  s.issue (.ald ad a ofs) fun s => s.onCur fun c =>
    c.fly ((Instr.ald ad a ofs).latency c.classB) (destsOf (.ald ad a ofs)) [] (c.srcFlag a)
      (some (.ald ad.toNat (CoreSt.addOfs (c.src a) ofs).toNat))
/-- AST: the register as read at issue is written at issue + 1; a ZERO register writes zero components (R180, R197). -/
def execAst (as : BitVec 4) (b : SSrc) (ofs : BitVec 12) (s : State) : Host.Outcome State Fault Refusal :=
  s.issue (.ast as b ofs) fun s => s.onCur fun c =>
    c.fly 1 [] [.spad (CoreSt.addOfs (c.src b) ofs).toNat (bytesOf 256 (c.axis as.toNat) ++ bytesOf 4 (c.norm as.toNat))]
      (c.srcFlag b)

end Sys2Proof.Machine
end

