-- ==== Sys2Proof/Machine/Matrix.lean ====
section
/-! DEFINITION. The matrix unit: its products, its retirements and conversions, its solver, the command queue with the
shadow and the matrix address registers (R152 to R177), the M-slot instructions and the events MATRIX_COMMAND_START and
MATRIX_COMMAND_COMPLETE. -/

namespace Sys2Proof.Machine

namespace Mx

open Sys2Proof.FP

/-! ## Elements (R153 to R156) -/

/-- The elements of w bits of row i of a tile. -/
def tileRow (w : Nat) (t : TileBits) (i : Nat) : List Nat :=
  let row : BitVec 1024 := elem 1024 i t
  (List.range (1024 / w)).map fun k => (elem w k row).toNat
/-- A tile from its elements of w bits, row by row. -/
def tileOf (w : Nat) (rows : List (List Nat)) : TileBits :=
  packElems 65536 (rows.map fun r => BitVec.ofNat 1024 (packNat w r))
/-- Row i of a plane: 64 binary32 elements. -/
def planeRow (p : PlaneBits) (i : Nat) : List Nat :=
  let row : BitVec 2048 := elem 2048 i p
  (List.range 64).map fun j => (elem 32 j row).toNat
/-- A plane from its elements of w bits, row by row. -/
def planeOf (w : Nat) (rows : List (List Nat)) : PlaneBits :=
  packElems 131072 (rows.map fun r => BitVec.ofNat 2048 (packNat w r))
/-- The code of each of the 64 elements of column j of a block tile (R87, R156). -/
def blockColumn (codes : BitVec 16384) (j : Nat) : List Nat :=
  let col : BitVec 256 := elem 256 j codes
  (List.range 64).map fun k => (elem 4 k col).toNat

/-! ## Products (R96 to R98, R166, R167) -/

/-- One element of a narrow pass: the exact sum of the products, with or without P, rounded once (R96). -/
def dot (p : Option FVal) (a b : List FVal) : Nat × Flg :=
  let ps := (a.zip b).map fun x => mulV x.1 x.2
  let vs := (match p with | some v => [v] | none => []) ++ ps.map fun x => x.1
  if ps.any (fun x => x.2 ≠ 0) || (vs.any (FVal.isInf false) && vs.any (FVal.isInf true)) then (f32.nan, .invalid)
  else sumRound f32 .rne vs 0

/-- The flags of a table of results. -/
def orFlags (xs : List (List (Nat × Flg))) : Flg := xs.foldl (fun f r => r.foldl (fun g x => g ||| x.2) f) 0
/-- The values of a table of results. -/
def valuesOf (xs : List (List (Nat × Flg))) : List (List Nat) := xs.map fun r => r.map fun x => x.1

/-- A pass over tables of rows of A and of B: element (i, j) from A's row i, B's row j and the plane's present value. -/
def table {α : Type} (f : Nat → α → α → Nat × Flg) (acc : List (List Nat)) (a b : List α) : List (List (Nat × Flg)) :=
  (a.zip acc).map fun x => (b.zip x.2).map fun y => f y.2 x.1 y.1

/-- The pass of a narrow format into a plane (R96, R166). -/
def narrow (f : Fmt) (w : Nat) (p : PlaneBits) (ta tb : TileBits) : PlaneBits × Flg :=
  let rows (t : TileBits) := (List.range 64).map fun i => (tileRow w t i).map (unpack f)
  let r := table (fun x a b => dot (some (unpack f32 x)) a b) ((List.range 64).map (planeRow p)) (rows ta) (rows tb)
  (planeOf 32 (valuesOf r), orFlags r)

/-- The pass of MMAQ: it replaces the partial plane (R167). P is left out of the sum, as R167 says, so that 64 products of −0 give −0; R96, which
would count a P of +0, gives +0 (DESIGN CHOICE, log entry 110). -/
def codebookPass (ta : TileBits) (codes : BitVec 16384) : PlaneBits × Flg :=
  let a := (List.range 64).map fun i => (tileRow 16 ta i).map (unpack bf16)
  let b := (List.range 64).map fun j => (blockColumn codes j).map level
  let r := a.map fun x => b.map fun y => dot none x y
  (planeOf 32 (valuesOf r), orFlags r)

/-- One element of a fused pass: one rounding at every k, ascending (R98). -/
def chain (f : Fmt) (x : Nat) (a b : List Nat) : Nat × Flg :=
  (a.zip b).foldl (fun r y => let z := fma f .rne r.1 y.1 y.2; (z.1, r.2 ||| z.2)) (x, 0)

/-- The pass of MMA.f32 (R98, R166). -/
def pass32 (p : PlaneBits) (ta tb : TileBits) : PlaneBits × Flg :=
  let rows (t : TileBits) := (List.range 64).map (tileRow 32 t)
  let r := table (chain f32) ((List.range 64).map (planeRow p)) (rows ta) (rows tb)
  (planeOf 32 (valuesOf r), orFlags r)

/-- The 64-bit elements of row i of a plane. -/
def planeRow64 (p : PlaneBits) (i : Nat) : List Nat :=
  let row : BitVec 2048 := elem 2048 i p
  (List.range 32).map fun j => (elem 64 j row).toNat

/-- The pass of MMA.f64: columns 0 to 31 in the main plane and 32 to 63 in the partial plane (R98, R155). -/
def pass64 (m p : PlaneBits) (ta tb : TileBits) : PlaneBits × PlaneBits × Flg :=
  let rows (t : TileBits) := (List.range 64).map (tileRow 64 t)
  let r := table (chain f64) ((List.range 64).map fun i => planeRow64 m i ++ planeRow64 p i) (rows ta) (rows tb)
  (planeOf 64 ((valuesOf r).map fun x => x.take 32), planeOf 64 ((valuesOf r).map fun x => x.drop 32), orFlags r)

/-- main + partial × s_j, one rounding per element (R97, R168). -/
def scalePass (m p : PlaneBits) (s : List Nat) : PlaneBits × Flg :=
  let r := (List.range 64).map fun i =>
    ((planeRow m i).zip ((planeRow p i).zip s)).map fun x => fma f32 .rne x.1 x.2.1 x.2.2
  (planeOf 32 (valuesOf r), orFlags r)

/-! ## Conversion and transposition (R171, R172) -/

/-- The format of MCVT. -/
def cvtFmt : McvtFmt → Fmt
  | .bf16 => bf16
  | .e4m3 => e4m3
  | .e5m2 => e5m2

/-- The main plane rounded into a narrow format, one rounding per element (R97, R171), with the random bits of R94. -/
def convert (f : McvtFmt) (m : Rm5) (seed : W64) (q cyc : Nat) (p : PlaneBits) : List (List (Nat × Flg)) :=
  (List.range 64).map fun i => (planeRow p i).zipIdx.map fun x =>
    roundVal (cvtFmt f) m (if m = .rs then randomBits seed q i (elementIndex cyc x.2) else 0) (unpack f32 x.1)

/-- The rows of a tile that a conversion writes: the whole tile, or one half of each row (R171). -/
def convTile (f : McvtFmt) (half : Bool) (old : TileBits) (v : List (List Nat)) : TileBits :=
  match f with
  | .bf16 => tileOf 16 v
  | _ => tileOf 8 ((List.range 64).map fun i =>
      let o := tileRow 8 old i
      let x := v.getD i []
      if half then o.take 64 ++ x else x ++ o.drop 64)

/-- The transpose of 64 × 64 elements of 16 bits (R172). -/
def transpose (t : TileBits) : TileBits :=
  let rows := (List.range 64).map (tileRow 16 t)
  tileOf 16 ((List.range 64).map fun j => rows.map fun r => r.getD j 0)

/-! ## Solving (R173, R174) -/

/-- The quotient of two values rounded once to nearest even in binary64: an exact infinite result from a finite operand
raises divide-by-zero (R95; log entry 13). -/
def quot64 (a b : Nat) : Nat × Flg :=
  match unpack f64 a, unpack f64 b with
  | .nan, _ | _, .nan => (f64.nan, 0)
  | .inf _, .inf _ => (f64.nan, 0)
  | .inf s, .fin t _ _ => (f64.infBits (xor s t), 0)
  | .fin s _ _, .inf t => (f64.signed (xor s t) 0, 0)
  | .fin s m e, .fin t n d =>
    if n = 0 then (if m = 0 then (f64.nan, 0) else (f64.infBits (xor s t), .divz))
    else if m = 0 then (f64.signed (xor s t) 0, 0)
    else
      let k := 60 + bitLen n
      let q := m * 2 ^ k / n
      roundMag f64 .rne 0 (xor s t) (2 * q + (if m * 2 ^ k % n = 0 then 0 else 1)) (e - d - (k : Int) - 1)

/-- The sign bit of a binary64 pattern changed. -/
def neg64 (x : Nat) : Nat := if x < 2 ^ 63 then x + 2 ^ 63 else x - 2 ^ 63

/-- A value as it is written: every NaN is the canonical one (R81). -/
def canon64 (x : Nat) : Nat := if (unpack f64 x).isNan then f64.nan else x
/-- acc − Σ x_j × y_j, one fused rounding each in ascending j. -/
def reduce64 (acc : Nat) (xs ys : List Nat) : Nat × Flg :=
  (xs.zip ys).foldl (fun r y => let z := fma f64 .rne r.1 (neg64 y.1) y.2; (z.1, r.2 ||| z.2)) (acc, 0)

/-- The 32 × 32 binary64 matrix of a tile, row by row (R173). -/
def matrix64 (t : TileBits) : List (List Nat) :=
  (List.range 32).map fun r => tileRow 64 t (2 * r) ++ tileRow 64 t (2 * r + 1)
/-- A tile from a 32 × 32 binary64 matrix. -/
def tileOf64 (x : List (List Nat)) : TileBits := tileOf 64 (x.flatMap fun r => [r.take 16, r.drop 16])

/-- The state of the factorization: rows of l and of w so far, D, the pivot bits and the flags. -/
structure Ldl where
  l   : List (List Nat)
  w   : List (List Nat)
  d   : List Nat
  piv : W32
  fl  : Flg

/-- The maximum of the magnitudes of the diagonal; a NaN makes it NaN (R173). -/
def maxMag (xs : List Nat) : Nat :=
  if xs.any (fun x => (unpack f64 x).isNan) then f64.nan else xs.foldl (fun m x => max m (x % 2 ^ 63)) 0

/-- Column k of the factorization (R173). -/
def ldlStep (a : List (List Nat)) (thr delta : Nat) (s : Ldl) (k : Nat) : Ldl :=
  let wk := s.w.getD k []
  let r := reduce64 ((a.getD k []).getD k 0) (s.l.getD k []) wk
  let v := unpack f64 r.1
  let small := !v.isNan && (ltV (unpack f64 (r.1 % 2 ^ 63)) (unpack f64 thr) || v.sig == 0 && !(v.isInf true || v.isInf false))
  let d := canon64 (if small then (if ltV v (.fin false 0 0) then neg64 delta else delta) else r.1)
  let rows := (List.range 32).map fun i =>
    if k < i then
      let x := reduce64 ((a.getD i []).getD k 0) (s.l.getD i []) wk
      let q := quot64 x.1 d
      (s.l.getD i [] ++ [q.1], s.w.getD i [] ++ [x.1], x.2 ||| q.2)
    else (s.l.getD i [], s.w.getD i [], 0)
  { l := rows.map fun x => x.1, w := rows.map fun x => x.2.1, d := s.d ++ [d]
    piv := if small then s.piv ||| (1#32 <<< k) else s.piv
    fl := rows.foldl (fun f x => f ||| x.2.2) (s.fl ||| r.2) }

/-- MLDL: the factor tile, the pivot bits and the flags (R173). -/
def factor (t : TileBits) (tau delta : W64) : TileBits × W32 × Flg :=
  let a := matrix64 t
  let thr := mul f64 .rne tau.toNat (maxMag ((List.range 32).map fun k => (a.getD k []).getD k 0))
  let s := (List.range 32).foldl (ldlStep a thr.1 delta.toNat)
    { l := List.replicate 32 [], w := List.replicate 32 [], d := [], piv := 0, fl := thr.2 }
  (tileOf64 ((List.range 32).map fun r => s.l.getD r [] ++ [s.d.getD r 0] ++ List.replicate (31 - r) 0), s.piv, s.fl)

/-- The forward step of one column (R174). -/
def solveFwd (l : List (List Nat)) (b : List Nat) : List Nat × Flg :=
  b.zipIdx.foldl (fun x y => let r := reduce64 y.1 (l.getD y.2 []) x.1; (x.1 ++ [canon64 r.1], x.2 ||| r.2)) ([], 0)
/-- The diagonal step: a zero D[i] raises divide-by-zero (R174; log entry 13). -/
def solveDiag (d : List Nat) (b : List Nat) : List Nat × Flg :=
  let r := (b.zip d).map fun x =>
    let q := quot64 x.1 x.2
    (q.1, q.2 ||| .iff (x.2 % 2 ^ 63 = 0 && !(unpack f64 x.1).isNan) .divz)
  (r.map fun x => x.1, r.foldl (fun f x => f ||| x.2) 0)
/-- The backward step (R174): x[i] takes the finished entries of greater index in ascending j. -/
def solveBwd (l : List (List Nat)) (b : List Nat) : List Nat × Flg :=
  b.zipIdx.reverse.foldl (fun x y =>
    let col := (List.range x.1.length).map fun j => (l.getD (y.2 + 1 + j) []).getD y.2 0
    let r := reduce64 y.1 col x.1
    (canon64 r.1 :: x.1, x.2 ||| r.2)) ([], 0)

/-- One column solved under a mode (R174). -/
def solveColumn (mode : TrsMode) (l : List (List Nat)) (d b : List Nat) : List Nat × Flg :=
  match mode with
  | .fwd => solveFwd l b
  | .diag => solveDiag d b
  | .bwd => solveBwd l b
  | .full =>
    let x := solveFwd l b
    let y := solveDiag d x.1
    let z := solveBwd l y.1
    (z.1, x.2 ||| y.2 ||| z.2)

/-- MTRS: the columns of B solved and written back (R174). The factor is read whole before any column is written, which R174 does not say where A
and B name one tile (DESIGN CHOICE, log entry 101). -/
def solve (mode : TrsMode) (ta tb : TileBits) : TileBits × Flg :=
  let a := matrix64 ta
  let l := (List.range 32).map fun i => (a.getD i []).take i
  let d := (List.range 32).map fun i => (a.getD i []).getD i 0
  let b := matrix64 tb
  let cs := (List.range 32).map fun c => solveColumn mode l d (b.map fun r => r.getD c 0)
  (tileOf64 ((List.range 32).map fun r => cs.map fun c => c.1.getD r 0), cs.foldl (fun f c => f ||| c.2) 0)

end Mx

namespace CoreSt

/-! ## Accumulators, the weight buffer and the address registers -/

/-- The planes of an accumulator. -/
def mainPlane (c : CoreSt) (n : Nat) : PlaneBits := vget 0 c.files.accMain n
def partPlane (c : CoreSt) (n : Nat) : PlaneBits := vget 0 c.files.accPart n
/-- Write a plane. -/
def setMain (c : CoreSt) (n : Nat) (x : PlaneBits) : CoreSt :=
  { c with files := { c.files with accMain := vset c.files.accMain n x } }
def setPart (c : CoreSt) (n : Nat) (x : PlaneBits) : CoreSt :=
  { c with files := { c.files with accPart := vset c.files.accPart n x } }
/-- Open the reduction of an accumulator (R164). -/
def openAccum (c : CoreSt) (n : Nat) : CoreSt :=
  { c with files := { c.files with openAcc := c.files.openAcc ||| (1#4 <<< n) } }
/-- Both planes to +0, and the reduction closed (R164, R169, R170, R171). -/
def clearAccum (c : CoreSt) (n : Nat) : CoreSt :=
  let c := (c.setMain n 0).setPart n 0
  { c with files := { c.files with openAcc := c.files.openAcc &&& ~~~(1#4 <<< n) } }
/-- The codes of a block tile. -/
def blockCodes (c : CoreSt) (n : Nat) : BitVec 16384 := vget 0 c.files.wbCodes n

end CoreSt

/-- The advance of one address register (R158). -/
def maNext (m : MaReg) : MaReg :=
  if m.count = 0 then { m with cur := m.cur + m.stride }
  else if m.left - 1 = 0 then { m with cur := m.base, left := m.count }
  else { m with cur := m.cur + m.stride, left := m.left - 1 }

namespace CoreSt

/-- All four address registers advance (R158). -/
def maAdvance (c : CoreSt) : CoreSt := { c with files := { c.files with ma := c.files.ma.map maNext } }

/-- The CURs of a register over n executions of a repeated command. -/
def maWalk : Nat → MaReg → List Nat
  | 0, _ => []
  | n + 1, m => m.cur.toNat :: maWalk n (maNext m)

/-- A tile operand as an execution reads it at its start (R158). -/
def tileNum (c : CoreSt) : TOp → Nat
  | .tile n => n.toNat
  | .ma i => (c.mareg i.toNat).cur.toNat
/-- A block-tile operand. -/
def blockNum (c : CoreSt) : WOp → Nat
  | .blk n => n.toNat
  | .ma i => (c.mareg i.toNat).cur.toNat

end CoreSt

/-! ## Commands (R160, R161) -/

/-- The busy time of a command (R160). -/
def busyTime : Instr → Nat
  | .mma .f32 _ _ _ _ _ => 128
  | .mma .f64 _ _ _ _ _ => 512
  | .mma _ _ _ _ _ _ => 64
  | .mmaq _ _ _ _ _ => 64
  | .mrets _ _ _ _ _ => 32
  | .mzero _ _ _ => 4
  | .mldl _ _ _ _ => 512
  | .mtrs _ .full _ _ _ => 256
  | .mtrs _ .diag _ _ _ => 16
  | .mtrs _ _ _ _ _ => 96
  | _ => 16

/-- The REP field. -/
def repOf : Instr → Nat
  | .mma _ r _ _ _ _ => r.toNat
  | .mmaq r _ _ _ _ => r.toNat
  | .msca r _ _ _ _ => r.toNat
  | .mzero r _ _ => r.toNat
  | .mret r _ _ _ _ => r.toNat
  | .mrets r _ _ _ _ => r.toNat
  | .mcvt _ _ r _ _ _ _ => r.toNat
  | .mtr r _ _ _ => r.toNat
  | .mldl r _ _ _ => r.toNat
  | .mtrs r _ _ _ _ => r.toNat
  | _ => 0

/-- The accumulator whose reduction a command opens when it starts (R164). -/
def opens : Instr → Option Nat
  | .mma _ _ acc _ _ _ => some acc.toNat
  | .mmaq _ acc _ _ _ => some acc.toNat
  | .msca _ acc _ _ _ => some acc.toNat
  | _ => none

namespace CoreSt

/-- The operands of an execution, resolved at its start: A or the destination, and B. -/
def mOperands (c : CoreSt) : Instr → Nat × Nat
  | .mma _ _ _ a b _ => (c.tileNum a, c.tileNum b)
  | .mmaq _ _ a b _ => (c.tileNum a, c.blockNum b)
  | .mret _ _ d _ _ => (c.tileNum d, 0)
  | .mcvt _ _ _ _ d _ _ => (c.tileNum d, 0)
  | .mtr _ a d _ => (c.tileNum a, c.tileNum d)
  | .mldl _ a d _ => (c.tileNum a, c.tileNum d)
  | .mtrs _ _ a b _ => (c.tileNum a, c.tileNum b)
  | _ => (0, 0)

/-- The fault of an execution whose operands are out of range: cause, kind and number of the item, address (R175). FAULTVA of MRETS is its
operand b, and of two operands out of range A is reported (DESIGN CHOICE, log entry 79). -/
def mFault (b : W64) (i : Instr) (o : Nat × Nat) : Option (Cause × Nat × Nat × Addr) :=
  let tile (n : Nat) : Option (Cause × Nat × Nat × Addr) := if 15 < n then some (.engine, 1, n, 0) else none
  match i with
  | .mma _ _ _ _ _ _ | .mtr _ _ _ _ | .mldl _ _ _ _ | .mtrs _ _ _ _ _ => (tile o.1).or (tile o.2)
  | .mmaq _ _ _ _ _ => (tile o.1).or (if 123 < o.2 then some (.engine, 3, o.2, 0) else none)
  | .mret _ _ _ _ _ => (tile o.1).or (if o.1 % 2 = 1 then some (.engine, 1, o.1, 0) else none)
  | .mcvt _ _ _ _ _ _ _ => tile o.1
  | .mrets _ acc _ _ _ =>
    if b.toNat % 256 ≠ 0 then some (.align, 2, acc.toNat, b.setWidth 60)
    else if Config.spadBytes < b.toNat + 16384 then some (.engine, 2, acc.toNat, b.setWidth 60) else none
  | _ => none

/-- The record of a fault of the matrix unit (R175, R237). -/
def mTrap (m : MCmd) (f : Cause × Nat × Nat × Addr) : TrapInfo :=
  { blankTrap f.1 with
    token := true, slots := 0x080, bundle := m.bundle, sched := m.sched, kind := BitVec.ofNat 4 f.2.1
    unit := BitVec.ofNat 8 f.2.2.1, va := f.2.2.2, tok := BitVec.ofNat 3 m.tok }

/-- The effect of one execution, at its completion, with its flags (R166 to R174). It reads its tiles and planes as they stand then, but for the
source of MTR, which it has read at its start; only a debugger's write in between tells the two apart (DESIGN CHOICE, log entry 111). -/
def mPerform (c : CoreSt) (r : MRun) : CoreSt × Flg :=
  match r.cmd.op with
  | .mma f _ acc _ _ _ =>
    let n := acc.toNat
    let one (x : PlaneBits × Flg) : CoreSt × Flg := (c.setMain n x.1, x.2)
    match f with
    | .bf16 => one (Mx.narrow FP.bf16 16 (c.mainPlane n) (c.tile r.a) (c.tile r.b))
    | .e4m3 => one (Mx.narrow FP.e4m3 8 (c.mainPlane n) (c.tile r.a) (c.tile r.b))
    | .e5m2 => one (Mx.narrow FP.e5m2 8 (c.mainPlane n) (c.tile r.a) (c.tile r.b))
    | .f32 => one (Mx.pass32 (c.mainPlane n) (c.tile r.a) (c.tile r.b))
    | .f64 =>
      let x := Mx.pass64 (c.mainPlane n) (c.partPlane n) (c.tile r.a) (c.tile r.b)
      ((c.setMain n x.1).setPart n x.2.1, x.2.2)
  | .mmaq _ acc _ _ _ =>
    let x := Mx.codebookPass (c.tile r.a) (c.blockCodes r.b)
    (c.setPart acc.toNat x.1, x.2)
  | .msca _ acc _ _ _ =>
    let s := (List.range 64).map fun j => (elem 32 j r.cmd.scales).toNat
    let x := Mx.scalePass (c.mainPlane acc.toNat) (c.partPlane acc.toNat) s
    (c.setMain acc.toNat x.1, x.2)
  | .mzero _ acc _ => (c.clearAccum acc.toNat, 0)
  | .mret _ acc _ part _ =>
    let p := if part then c.partPlane acc.toNat else c.mainPlane acc.toNat
    let half (h : Nat) : TileBits := packElems 65536 ((List.range 64).map fun i => (elem 1024 (2 * i + h) p : BitVec 1024))
    let c := (c.setTile r.a (half 0)).setTile (r.a + 1) (half 1)
    (if part then c else c.clearAccum acc.toNat, 0)
  | .mrets _ acc part _ _ =>
    let p := if part then c.partPlane acc.toNat else c.mainPlane acc.toNat
    let c := c.spadWrite r.cmd.b.toNat (bytesOf 16384 p)
    (if part then c else c.clearAccum acc.toNat, 0)
  | .mcvt f m _ acc _ half _ =>
    let q := match c.step with | some st => st.q | none => 0
    let x := Mx.convert f m r.cmd.seed q (r.cmd.sched.toNat + 16 * r.cmd.k) (c.mainPlane acc.toNat)
    ((c.setTile r.a (Mx.convTile f half (c.tile r.a) (Mx.valuesOf x))).clearAccum acc.toNat, Mx.orFlags x)
  | .mtr _ _ _ _ => (c.setTile r.b (Mx.transpose r.tileA), 0)
  | .mldl _ _ _ _ =>
    let x := Mx.factor (c.tile r.a) r.cmd.tau r.cmd.delta
    let c := c.setTile r.b x.1
    ({ c with ctrl := { c.ctrl with pivflags := c.ctrl.pivflags ||| x.2.1 } }, x.2.2)
  | .mtrs _ mode _ _ _ =>
    let x := Mx.solve mode (c.tile r.a) (c.tile r.b)
    (c.setTile r.b x.1, x.2)
  | _ => (c, 0)

/-- The end of an execution (R160 to R162, R176): the last one raises the command's flags and completes its token. -/
def mFinish (c : CoreSt) (r : MRun) : CoreSt :=
  let x := c.mPerform r
  let fl := r.cmd.flags ||| x.2
  let c := { x.1 with flow := { x.1.flow with mrun := none } }
  if r.cmd.left = 0 then
    (c.raise 7 r.cmd.bundle (fl ||| .iff r.cmd.lost .latch)).tokDone (some r.cmd.tok)
  else
    match c.flow.mq with
    | [] => c
    | m :: ms => { c with flow := { c.flow with mq := { m with flags := fl } :: ms } }

/-- The unit at the end of cycle k − 1 (R160). -/
def mEnd (c : CoreSt) (k : Nat) : CoreSt :=
  match c.flow.mrun with
  | some r => if r.start + busyTime r.cmd.op ≤ k then c.mFinish r else c
  | none => c

/-- The unit in cycle k: the next execution starts in an idle unit (R158, R160, R161), or faults (R175). -/
def mGo (c : CoreSt) (k : Nat) : CoreSt :=
  match c.flow.mrun, c.flow.mq with
  | none, m :: ms =>
    if m.fault.isSome then c
    else
      let o := c.mOperands m.op
      match mFault m.b m.op o with
      | some f => { c with flow := { c.flow with mq := { m with fault := some (mTrap m f) } :: ms } }
      | none =>
        let m := { m with left := m.left - 1 }
        let r : MRun := { cmd := m, start := k, a := o.1, b := o.2, tileA := c.tile o.1 }
        let c := match opens m.op with | some n => c.openAccum n | none => c
        let c := if repOf m.op = 0 then c else c.maAdvance
        { c with flow := { c.flow with mrun := some r, mq := if m.left = 0 then ms else { m with k := m.k + 1 } :: ms } }
  | _, _ => c

/-- The shadow command is occupied (R160, R161). A held queue stops no issue (R234; log entry 14). -/
def shadowFull (c : CoreSt) : Bool :=
  match c.flow.mq with
  | [] => false
  | m :: ms => m.fault.isNone && (c.flow.mrun.isSome || decide (1 < m.left) || decide (ms ≠ []))

/-- The tiles that a command's destination leaves pending: those its address register walks over (R67, R158, R170, R171). -/
def mPending (c : CoreSt) (i : Instr) : List Dest :=
  let walk (x : TOp) : Option (List Nat) := match x with
    | .tile _ => none
    | .ma j => some (if repOf i = 0 then [(c.mareg j.toNat).cur.toNat] else maWalk (repOf i + 1) (c.mareg j.toNat))
  let accs := (destsOf i).filter fun d => match d with | .acc _ => true | _ => false
  let tiles (x : TOp) (pair : Bool) : List Dest := match walk x with
    | none => destsOf i
    | some ns =>
      let ns := if pair then ns.flatMap fun n => [n, n + 1] else ns
      accs ++ ((List.range 16).filter fun t => ns.contains t).map Dest.tile
  match i with
  | .mret _ _ d _ _ => tiles d true
  | .mcvt _ _ _ _ d _ _ => tiles d false
  | .mtr _ _ d _ => tiles d false
  | .mldl _ _ d _ => tiles d false
  | .mtrs _ _ _ b _ => tiles b false
  | _ => destsOf i

/-- Whether a command issued before operation number n and not yet complete reads a tile, an accumulator or a block tile: one that names a
tile through ma, be it its destination, counts as reading every tile (R163). One that a trap entry has set aside does not count for a handler's
operations (DESIGN CHOICE, log entry 111). -/
def mReads (c : CoreSt) (n : Nat) (d : Dest) : Bool :=
  let isTile := match d with | .tile _ => true | _ => false
  let reads (m : MCmd) : Bool := decide (m.seq < n) && ((m.op.srcs.any fun x => x.2 == d) || (isTile && maDest m.op))
  c.flow.mq.any reads || (match c.flow.mrun with | some r => reads r.cmd | none => false)

/-- Issue a command (R160, R161): it enters the queue, and starts at once in an idle unit. -/
def mIssue (i : Instr) (b : W64) (scales : BitVec 2048) (f : Flg) (c : CoreSt) : CoreSt :=
  let w := i.token.getD 0
  let m : MCmd :=
    { op := i, bundle := c.flow.bundleA, sched := c.flow.sched, tok := w, seq := c.flow.seq, left := repOf i + 1, k := 0,
      scales := scales, b := b, tau := c.ctrl.solvtau, delta := c.ctrl.solvdelta, seed := c.ctrl.seed, flags := 0,
      lost := decide (f ≠ 0), fault := none }
  let c := c.tokOpen w .m (c.mPending i)
  let idle := c.flow.mrun.isNone && decide (c.flow.mq = [])
  let c := { c with flow := { c.flow with mq := c.flow.mq ++ [m], seq := c.flow.seq + 1 } }
  if idle then c.mGo c.flow.cyc else c

end CoreSt

/-- Issue an M-slot instruction: held while the shadow is occupied (R160). -/
def State.issueM (s : State) (i : Instr) (eff : CoreSt → CoreSt) : Host.Outcome State Fault Refusal :=
  if !s.cc.flow.checked && s.cc.shadowFull then .next (s.stall s.cur cShadow)
  else s.issue i fun s => s.onCur eff

/-- MMA (R166). -/
def execMma (f : MmaFmt) (rep : BitVec 8) (acc : BitVec 2) (a b : TOp) (w : BitVec 3) (s : State) : Host.Outcome State Fault Refusal :=
  s.issueM (.mma f rep acc a b w) (CoreSt.mIssue (.mma f rep acc a b w) 0 0 0)
/-- MMAQ (R167). -/
def execMmaq (rep : BitVec 8) (acc : BitVec 2) (a : TOp) (b : WOp) (w : BitVec 3) (s : State) : Host.Outcome State Fault Refusal :=
  s.issueM (.mmaq rep acc a b w) (CoreSt.mIssue (.mmaq rep acc a b w) 0 0 0)
/-- MSCA: the 64 scales are copied at issue (R168). -/
def execMsca (rep : BitVec 8) (acc : BitVec 2) (hi : Bool) (v : BitVec 5) (w : BitVec 3) (s : State) : Host.Outcome State Fault Refusal :=
  s.issueM (.msca rep acc hi v w) fun c =>
    let cs := if hi then [4, 5, 6, 7] else [0, 1, 2, 3]
    c.mIssue (.msca rep acc hi v w) 0 (packElems 2048 (cs.map fun k => c.vreg k v.toNat)) 0
/-- MZERO (R169). -/
def execMzero (rep : BitVec 8) (acc : BitVec 2) (w : BitVec 3) (s : State) : Host.Outcome State Fault Refusal :=
  s.issueM (.mzero rep acc w) (CoreSt.mIssue (.mzero rep acc w) 0 0 0)
/-- MRET (R170). -/
def execMret (rep : BitVec 8) (acc : BitVec 2) (d : TOp) (part : Bool) (w : BitVec 3) (s : State) : Host.Outcome State Fault Refusal :=
  s.issueM (.mret rep acc d part w) (CoreSt.mIssue (.mret rep acc d part w) 0 0 0)
/-- MRETS: b is read at issue (R170). -/
def execMrets (rep : BitVec 8) (acc : BitVec 2) (part : Bool) (b : SSrc) (w : BitVec 3) (s : State) : Host.Outcome State Fault Refusal :=
  s.issueM (.mrets rep acc part b w) fun c => c.mIssue (.mrets rep acc part b w) (c.src b) 0 (c.srcFlag b)
/-- MCVT (R171). -/
def execMcvt (f : McvtFmt) (m : Rm5) (rep : BitVec 8) (acc : BitVec 2) (d : TOp) (half : Bool) (w : BitVec 3) (s : State) : Host.Outcome State Fault Refusal :=
  s.issueM (.mcvt f m rep acc d half w) (CoreSt.mIssue (.mcvt f m rep acc d half w) 0 0 0)
/-- MTR (R172). -/
def execMtr (rep : BitVec 8) (a d : TOp) (w : BitVec 3) (s : State) : Host.Outcome State Fault Refusal :=
  s.issueM (.mtr rep a d w) (CoreSt.mIssue (.mtr rep a d w) 0 0 0)
/-- MLDL: cr.solvtau and cr.solvdelta are kept with the command (R173). -/
def execMldl (rep : BitVec 8) (a d : TOp) (w : BitVec 3) (s : State) : Host.Outcome State Fault Refusal :=
  s.issueM (.mldl rep a d w) (CoreSt.mIssue (.mldl rep a d w) 0 0 0)
/-- MTRS (R174). -/
def execMtrs (rep : BitVec 8) (mode : TrsMode) (a b : TOp) (w : BitVec 3) (s : State) : Host.Outcome State Fault Refusal :=
  s.issueM (.mtrs rep mode a b w) (CoreSt.mIssue (.mtrs rep mode a b w) 0 0 0)
/-- MSETMA: a[7:0] as read at issue lands at +1 (R159). -/
def execMsetma (ma : BitVec 2) (sel : MaSel) (a : SSrc) (s : State) : Host.Outcome State Fault Refusal :=
  s.issueM (.msetma ma sel a) fun c =>
    c.fly 1 (destsOf (.msetma ma sel a)) [.ma ma.toNat sel ((c.src a).setWidth 8)] (c.srcFlag a)

/-- MATRIX_COMMAND_START: the next execution starts where the unit is idle and its queue is not held (R160, R161). -/
def execMatrixCommandStart (g : Nat) (s : State) : Host.Outcome State Fault Refusal :=
  let c := s.core g
  coreEvent "MATRIX_COMMAND_START" g (match c.flow.mrun, c.flow.mq with
    | none, m :: _ => if m.fault.isNone then some (s.setUnits g (c.mGo c.flow.cyc)) else none
    | _, _ => none)
/-- MATRIX_COMMAND_COMPLETE: the running execution's busy time has passed (R160, R162). -/
def execMatrixCommandComplete (g : Nat) (s : State) : Host.Outcome State Fault Refusal :=
  let c := s.core g
  coreEvent "MATRIX_COMMAND_COMPLETE" g (match c.flow.mrun with
    | some r => if r.start + busyTime r.cmd.op ≤ c.flow.cyc then some (s.setUnits g (c.mFinish r)) else none
    | none => none)

end Sys2Proof.Machine
end

