-- ==== Sys2Proof/Machine/LoadStore.lean ====
section
/-! DEFINITION. The L-slot and W-slot instructions (R177, R274, R281 to R287) and the tile forms of the X slot (R349): the
scratchpad forms, and the entry of the memory forms into the memory-order queue (R280). -/

namespace Sys2Proof.Machine

/-- The fields of a queue operation taken at issue (R280). -/
structure QArgs where
  addr   : W64
  stride : W64
  rows   : Nat
  snap   : BitVec 131072
  b      : W64
  c      : W64
  lost   : Flg

/-- An operation enters the memory-order queue of the current core at issue (R280). -/
def State.enqueue (s : State) (i : Instr) (x : QArgs) : State :=
  let s := s.onCur fun c =>
    let q : QOp :=
      { op := i, slot := c.flow.slotIdx, bundle := c.flow.bundleA, sched := c.flow.sched, tok := i.token, seq := c.flow.seq
        issued := c.flow.cyc, addr := x.addr, stride := x.stride, rows := x.rows, snap := x.snap, got := 0, done := 0, b := x.b
        c := x.c, sent := false, served := none, vc := none, portAt := .none, lost := decide (x.lost ≠ 0), stuck := false, fault := none }
    let c := c.tokOpen (i.token.getD 0) .mem (destsOf i)
    { c with flow := { c.flow with mem := c.flow.mem ++ [q], seq := c.flow.seq + 1 } }
  s.stampHead s.cur

/-- Issue a memory form whose arguments are read from the core at issue. -/
def State.issueQ (s : State) (i : Instr) (f : CoreSt → QArgs) : Host.Outcome State Fault Refusal :=
  s.issue i fun s => s.enqueue i (f s.cc)

/-- The arguments of a tile form. -/
def tileArgs (a b : SSrc) (rows : Nat) (snap : CoreSt → BitVec 131072) (c : CoreSt) : QArgs :=
  { addr := c.src a, stride := c.src b, rows := rows, snap := snap c, b := 0, c := 0, lost := c.srcFlag a ||| c.srcFlag b }
/-- The arguments of an atomic or a barrier operation. -/
def wordArgs (a : SSrc) (b : W64) (e : W64) (f : Flg) (c : CoreSt) : QArgs :=
  { addr := c.src a, stride := 0, rows := 1, snap := 0, b := b, c := e, lost := c.srcFlag a ||| f }

/-- The tile, or the pair of tiles, as a snapshot (R283, R349). -/
def snapTiles (pair : Bool) (t : BitVec 4) (c : CoreSt) : BitVec 131072 :=
  (c.tile t.toNat).setWidth 131072 ||| (if pair then (c.tile (t.toNat + 1)).setWidth 131072 <<< 65536 else 0)

/-- LDS (R281). -/
def execLds (t : LdTy) (d : SDst) (a : SSrc) (ofs : BitVec 12) (s : State) : Host.Outcome State Fault Refusal :=
  s.issue (.lds t d a ofs) fun s => s.onCur fun c =>
    c.fly ((Instr.lds t d a ofs).latency c.classB) (destsOf (.lds t d a ofs)) [] (c.srcFlag a)
      (some (.lds t d (CoreSt.addOfs (c.src a) ofs).toNat))
/-- LDV (R281). -/
def execLdv (g : BitVec 4) (d : VDst) (a : SSrc) (ofs : BitVec 9) (s : State) : Host.Outcome State Fault Refusal :=
  s.issue (.ldv g d a ofs) fun s => s.onCur fun c =>
    c.fly ((Instr.ldv g d a ofs).latency c.classB) (destsOf (.ldv g d a ofs)) [] (c.srcFlag a)
      (some (.ldv (clustersOf g) d (CoreSt.addLines (c.src a) ofs).toNat))
/-- TLD (R283). -/
def execTld (t : BitVec 4) (a b : SSrc) (w : BitVec 3) (s : State) : Host.Outcome State Fault Refusal :=
  s.issueQ (.tld t a b w) (tileArgs a b 64 fun _ => 0)
/-- TLDW: 2,112 bytes (R177). -/
def execTldw (wb : BitVec 7) (a : SSrc) (w : BitVec 3) (s : State) : Host.Outcome State Fault Refusal :=
  s.issueQ (.tldw wb a w) fun c => { tileArgs a (.reg 0) 0 (fun _ => 0) c with stride := 64 }

/-- STS: the low bytes of a as read at issue are written at issue + 1 (R282). -/
def execSts (t : StTy) (a b : SSrc) (ofs : BitVec 12) (s : State) : Host.Outcome State Fault Refusal :=
  s.issue (.sts t a b ofs) fun s => s.onCur fun c =>
    c.fly 1 [] [.spad (CoreSt.addOfs (c.src b) ofs).toNat (bytesOf (CoreSt.storeSize t) (c.src a))] (c.srcFlag a ||| c.srcFlag b)
/-- STV: all 16 lanes of each named cluster (R282). -/
def execStv (g : BitVec 4) (a : VSrc) (b : SSrc) (ofs : BitVec 9) (s : State) : Host.Outcome State Fault Refusal :=
  s.issue (.stv g a b ofs) fun s => s.onCur fun c =>
    c.fly 1 [] [.spad (CoreSt.addLines (c.src b) ofs).toNat ((clustersOf g).flatMap fun k => bytesOf 64 (c.vsrc k a))]
      ((clustersOf g).foldl (fun f k => f ||| c.vsrcFlag k a) (c.srcFlag b))
/-- TST: the tile is copied at issue (R283). -/
def execTst (t : BitVec 4) (a b : SSrc) (w : BitVec 3) (s : State) : Host.Outcome State Fault Refusal :=
  s.issueQ (.tst t a b w) (tileArgs a b 64 (snapTiles false t))
/-- AMOADD (R284). -/
def execAmoadd (d : SDst) (a b : SSrc) (w : BitVec 3) (s : State) : Host.Outcome State Fault Refusal :=
  s.issueQ (.amoadd d a b w) fun c => wordArgs a (c.src b) 0 (c.srcFlag b) c
/-- AMOSWP (R284). -/
def execAmoswp (d : SDst) (a b : SSrc) (w : BitVec 3) (s : State) : Host.Outcome State Fault Refusal :=
  s.issueQ (.amoswp d a b w) fun c => wordArgs a (c.src b) 0 (c.srcFlag b) c
/-- AMOCAS: c is the value sd names at issue (R284). -/
def execAmocas (d : SDst) (a b : SSrc) (w : BitVec 3) (s : State) : Host.Outcome State Fault Refusal :=
  s.issueQ (.amocas d a b w) fun c => wordArgs a (c.src b) (c.old d) (c.srcFlag b ||| c.oldFlag d) c
/-- AMOMIN (R284). -/
def execAmomin (d : SDst) (a b : SSrc) (w : BitVec 3) (s : State) : Host.Outcome State Fault Refusal :=
  s.issueQ (.amomin d a b w) fun c => wordArgs a (c.src b) 0 (c.srcFlag b) c
/-- AMOMAX (R284). -/
def execAmomax (d : SDst) (a b : SSrc) (w : BitVec 3) (s : State) : Host.Outcome State Fault Refusal :=
  s.issueQ (.amomax d a b w) fun c => wordArgs a (c.src b) 0 (c.srcFlag b) c
/-- AMOAND (R284). -/
def execAmoand (d : SDst) (a b : SSrc) (w : BitVec 3) (s : State) : Host.Outcome State Fault Refusal :=
  s.issueQ (.amoand d a b w) fun c => wordArgs a (c.src b) 0 (c.srcFlag b) c
/-- AMOOR (R284). -/
def execAmoor (d : SDst) (a b : SSrc) (w : BitVec 3) (s : State) : Host.Outcome State Fault Refusal :=
  s.issueQ (.amoor d a b w) fun c => wordArgs a (c.src b) 0 (c.srcFlag b) c
/-- BINIT (R286). -/
def execBinit (d : SDst) (a b : SSrc) (w : BitVec 3) (s : State) : Host.Outcome State Fault Refusal :=
  s.issueQ (.binit d a b w) fun c => wordArgs a (c.src b) 0 (c.srcFlag b) c
/-- ARRIVE (R287). -/
def execArrive (d : SDst) (a : SSrc) (n : BitVec 4) (w : BitVec 3) (s : State) : Host.Outcome State Fault Refusal :=
  s.issueQ (.arrive d a n w) fun c => wordArgs a (n.setWidth 64) 0 0 c
/-- XTLD: as TLD; the pair form has 128 rows (R349). -/
def execXtld (pair : Bool) (t : BitVec 4) (a b : SSrc) (w : BitVec 3) (s : State) : Host.Outcome State Fault Refusal :=
  s.issueQ (.xtld pair t a b w) (tileArgs a b (if pair then 128 else 64) fun _ => 0)
/-- XTST: as TST; the pair form has 128 rows (R349). -/
def execXtst (pair : Bool) (t : BitVec 4) (a b : SSrc) (w : BitVec 3) (s : State) : Host.Outcome State Fault Refusal :=
  s.issueQ (.xtst pair t a b w) (tileArgs a b (if pair then 128 else 64) (snapTiles pair t))

end Sys2Proof.Machine
end

