-- ==== Sys2Proof/Machine/Lines.lean ====
section
/-! DEFINITION. Around one access of a 64-byte line by a core: request counts (R265), the scratchpad port (R276), ingress
entries (R277, R278) and the barrier and atomic operations on words (R284 to R287). -/

namespace Sys2Proof.Machine

/-! ## Counts -/

/-- Count a request of a core for a line (R265, R391). -/
def State.countLine (s : State) (g : Nat) (home : Option Nat) : State :=
  let d := Config.dieOf g
  let p := s.partOf g
  let row := vget (.replicate 64 .reset) s.hub.counts d
  let k := vget .reset row p
  let near := home == some d
  let k : DieCount := if near then { k with localReq := k.localReq + 1 } else { k with remoteReq := k.remoteReq + 1 }
  ({ s with hub := { s.hub with counts := vset s.hub.counts d (vset row p k) } }).coreDieEvent g (if near then 5 else 6) 1

/-! ## The scratchpad port (R276) -/

/-- The banks that the local accesses of a core need in its next cycle (R65, R275). -/
def CoreSt.localBanks (c : CoreSt) : List Nat :=
  let lines (x n : Nat) : List Nat := (List.range (n / 64 + 2)).filterMap fun i =>
    let a := x / 64 * 64 + 64 * i
    if a < x + n then some (a / 64 % 16) else none
  c.flow.flight.flatMap fun f =>
    if f.issued + 1 ≠ c.flow.cyc then []
    else (match f.load with
      | some (.lds t _ x) => lines x (CoreSt.loadSize t)
      | some (.ldv cs _ x) => lines x (64 * cs.length)
      | some (.ald _ x) => lines x 260
      | _ => []) ++
      f.writes.flatMap fun w => match w with
        | .spad x bs => lines x bs.length
        | _ => []

/-- Who waits at a port: the memory-order queue of a core, its poll, its copy engine, or the hub copy engine. -/
def whoOp (g : Nat) : Nat := 3 * g
def whoPoll (g : Nat) : Nat := 3 * g + 1
def whoCopy (g : Nat) : Nat := 3 * g + 2
def whoHub : Nat := 3 * Config.nCores

/-- The port at which an access now waits. -/
def State.waitsAt (s : State) (who : Nat) : Option Nat :=
  if who = whoHub then s.hub.hubCopy.bind fun h => h.portAt
  else
    let c := s.core (who / 3)
    match who % 3 with
    | 0 => c.flow.mem.head?.bind fun (q : QOp) => q.portAt
    | 1 => c.reached.pollPort
    | _ => c.flow.xq.head?.bind fun (x : XCmd) => x.portAt

/-- The accesses that wait at a port, in arrival order (R276); one whose core has given it up waits no more. -/
def State.portWaiting (s : State) (p : Nat) : List (Nat × Nat) :=
  (s.core p).flow.portQ.filter fun w => s.waitsAt w.1 == some p

/-- An access at a port at a boundary (R276). It is served (`true`) where none that arrived earlier still waits and its bank is free;
otherwise it arrives, or, at the eighth boundary that it waits, claims its bank of the next (`false`): a group that needs the bank in the
cycle after the next boundary is held. None: it goes on waiting. -/
def State.portTry (s : State) (who p off : Nat) : Option (Bool × State) :=
  let c := s.core p
  let bank := off / 64 % 16
  let l := s.portWaiting p
  let put (f : Flow → Flow) : State := s.onCore p fun c => { c with flow := f c.flow }
  let first := match l with | [] => true | w :: _ => w.1 == who
  if first && !c.flow.portBusy.getLsbD bank && !(c.localBanks.contains bank) then
    let taken (f : Flow) : Flow :=
      { f with portQ := (l.filter fun w => w.1 != who), portBusy := f.portBusy ||| (1#16 <<< bank)
               bankClaim := f.bankClaim &&& ~~~(1#16 <<< bank) }
    some (true, put taken)
  else match l.find? fun w => w.1 == who with
    | none => some (false, put fun f => { f with portQ := l ++ [(who, f.cyc)] })
    | some w =>
      if decide (w.2 + 7 ≤ c.flow.cyc) && !c.flow.bankClaim.getLsbD bank then
        some (false, put fun f => { f with bankClaim := f.bankClaim ||| (1#16 <<< bank) })
      else none

/-! ## Ingress entries (R56, R163, R225, R277, R278) -/

/-- Place an entry, and note the depth of its die's buffer (R381); one for a core under scrub is discarded (R372). -/
def State.ingressAdd (s : State) (e : Entry) : State :=
  if s.underScrub e.core then s else
  let s := s.ingressPush e
  let d := Config.dieOf e.core
  let n := BitVec.ofNat 64 (vget [] s.ord.ingress d).length
  if vget 0 s.hub.ingressHigh d < n then { s with hub := { s.hub with ingressHigh := vset s.hub.ingressHigh d n } } else s

/-- The item of the matrix unit that a window offset lies in (R153): the written item of R163. An accumulator's two planes are one item, and
the weight buffer is taken block tile by block tile (DESIGN CHOICE, log entry 98). -/
def windowItem (off : Nat) : Option Dest :=
  if 0x200000 ≤ off ∧ off < 0x220000 then some (.tile ((off - 0x200000) / 0x2000))
  else if 0x220000 ≤ off ∧ off < 0x240000 then some (.acc ((off - 0x220000) / 0x8000))
  else if 0x240000 ≤ off ∧ off < 0x27E000 then some (.blk ((off - 0x240000) / 2048))
  else if 0x27E000 ≤ off ∧ off < 0x27FF00 then some (.blk ((off - 0x27E000) / 64))
  else none

/-- The next entry of a core may be applied now: earlier readers in the matrix unit have completed, and the domain unit
holds no operation (R163, R225). -/
def CoreSt.mayApply (c : CoreSt) (e : Entry) : Bool :=
  e.host ||
  ((match windowItem e.addr with | some d => !c.mReads c.flow.seq d | none => true) &&
   (!(decide (0x286000 ≤ e.addr) && decide (e.addr < 0x286200)) || (c.dom.run.isNone && decide (c.dom.ops = []))))

/-- The axis registers whose components or norms some bytes of the window touch (R181). -/
def axesOf (off n : Nat) : W16 :=
  (List.range 16).foldl (fun m i =>
    let hit (x k : Nat) : Bool := decide (off < x + k) && decide (x < off + n)
    if hit (0x284000 + 0x100 * i) 0x100 || hit (0x285000 + 4 * i) 4 then m ||| (1#16 <<< i) else m) 0

/-- Write the bytes of a deposit: the axis registers it touches are checked after the window's last entry (R181, R278). -/
def CoreSt.deposit (c : CoreSt) (off : Nat) (bs : List Byte) : CoreSt :=
  let c := c.setWindow off bs
  { c with reached := { c.reached with touched := c.reached.touched ||| axesOf off bs.length } }

/-- An entry of the window has been applied and n are left: after the last one the registers touched are checked (R56, R181). -/
def CoreSt.drained1 (c : CoreSt) (n : Nat) : CoreSt :=
  let c := { c with reached := { c.reached with drain := some n } }
  if n = 0 then { (c.checkAxes c.reached.touched) with reached := { c.reached with touched := 0 } } else c

/-- The write of an ingress entry: that of a host write by logical core 0, which is sent on where its line is the host's and enters the
fabric then (R366); the other is a deposit (R278). -/
def State.entryWrite (s : State) (g : Nat) (e : Entry) : State :=
  let d := Config.dieOf g
  if e.host then match onChip e.addr with
    | some (g', off) => (s.onCore g' fun c => c.spadWrite off e.bytes).enterAt e.part d (.port g' off) e.addr
    | none =>
      if inHost e.addr then (s.sendHost g false e.addr e.bytes).enterAt e.part d .host e.addr
      else s.hubWriteOf e.part d e.addr e.bytes
  else s.onCore g fun c => c.deposit e.addr e.bytes

/-- Apply the first ingress entry of a core, if it has one that may be applied (R278, R367); a host write is logged then (R375). -/
def State.drainOne (s : State) (g : Nat) : Option State :=
  let d := Config.dieOf g
  match s.ingressOf g with
  | [] => none
  | e :: _ =>
    if e.stuck || !(s.core g).mayApply e then none
    else
      let q := vget [] s.ord.ingress d
      let s := s.onOrd fun o => { o with ingress := vset o.ingress d (q.eraseP fun x => x.core == g) }
      (match e.va with | some va => s.logHost e.part va | none => some s).map fun (s : State) => (s.entryWrite g e).dieEvent d e.part 7 1

/-! ## Words (R284 to R287) -/

/-- The new bytes, the result and the flags of an atomic or barrier operation on its old bytes. -/
def wordOp (q : QOp) (old : List Byte) (time : W64) : List Byte × W64 × Flg :=
  let o : W64 := ofBytes 64 (old.take 8)
  let w (x : W64) : List Byte × W64 × Flg := (bytesOf 8 x, o, 0)
  match q.op with
  | .amoadd _ _ _ _ => w (o + q.b)
  | .amoswp _ _ _ _ => w q.b
  | .amocas _ _ _ _ => w (if o = q.c then q.b else o)
  | .amomin _ _ _ _ => w (if o.toInt ≤ q.b.toInt then o else q.b)
  | .amomax _ _ _ _ => w (if q.b.toInt ≤ o.toInt then o else q.b)
  | .amoand _ _ _ _ => w (o &&& q.b)
  | .amoor _ _ _ _ => w (o ||| q.b)
  | .binit _ _ _ _ =>
    let n : W64 := (q.b &&& 0xFFFF) ||| (((q.b >>> 16) &&& 0xF) <<< 32) ||| CoreSt.bitAt (decide (q.b &&& 0xFFFF ≠ 0)) 37
    (bytesOf 8 n ++ bytesOf 8 time, o, 0)
  | .arrive _ _ _ _ =>
    let ex := o.toNat % 2 ^ 16
    let ph := o.toNat / 2 ^ 32 % 16
    let ovr := o.toNat / 2 ^ 36 % 2
    let cnt := o.toNat / 2 ^ 40 % 256
    let c := o.toNat / 2 ^ 16 % 2 ^ 16 + q.b.toNat
    let obj (count phase ovr cnt : Nat) : W64 :=
      BitVec.ofNat 64 (ex + 2 ^ 16 * count + 2 ^ 32 * phase + 2 ^ 36 * ovr + 2 ^ 37 + 2 ^ 40 * cnt)
    if o.getLsbD 37 = false then (old, BitVec.ofNat 64 ph, .invalid)
    else if c < ex then (bytesOf 8 (obj c ph ovr cnt) ++ (old.drop 8), BitVec.ofNat 64 (ph + 16 + 2 ^ 16 * c), 0)
    else if c = ex then (bytesOf 8 (obj 0 ((ph + 1) % 16) ovr cnt) ++ bytesOf 8 time, BitVec.ofNat 64 (ph + 16 + 32), 0)
    else (bytesOf 8 (obj 0 ((ph + 1) % 16) 1 (min (cnt + 1) 255)) ++ bytesOf 8 time, BitVec.ofNat 64 (ph + 32), .bovr)
  | _ => (old, 0, 0)

/-- The bytes an atomic or barrier operation works on. -/
def wordSize : Instr → Nat
  | .binit _ _ _ _ => 16
  | .arrive _ _ _ _ => 16
  | _ => 8

end Sys2Proof.Machine
end

