-- ==== Sys2Proof/Machine/Nodes.lean ====
section
/-! DEFINITION. Nodes of the dependence graph (R321 to R328): their fields and checks, the ready list, final
states with their completion records (R319, R323), the decrements of predecessor counts (R326) and token delivery (R374). -/

namespace Sys2Proof.Machine

/-! ## Fields of records in memory -/

/-- A little-endian field of some bytes. -/
def fld (bs : List Byte) (o n : Nat) : Nat := (ofBytes (8 * n) ((bs.drop o).take n)).toNat
/-- A 64-bit field. -/
def fldW (bs : List Byte) (o : Nat) : W64 := ofBytes 64 ((bs.drop o).take 8)
/-- Bytes that must be zero are zero. -/
def zeroAt (bs : List Byte) (o n : Nat) : Bool := ((bs.drop o).take n).all fun b => b == 0

/-- Fields of an operator block (R321). -/
def blkFlag (b : List Byte) (i : Nat) : Bool := decide (fld b 2 2 / 2 ^ i % 2 = 1)
def blkDims (b : List Byte) : Nat := fld b 0x10 1
def blkOrder (b : List Byte) : Nat := fld b 0x11 1
def blkTile (b : List Byte) (i : Nat) : Nat := fld b (0x30 + 2 * i) 2
/-- The step indices of a dimension: ceil(B / T) (R37). -/
def blkCount (b : List Byte) (i : Nat) : Nat := (fld b (0x18 + 4 * i) 4 + blkTile b i - 1) / blkTile b i
/-- The step count (R37). -/
def blkTotal (b : List Byte) : Nat := (List.range (blkDims b)).foldl (fun n i => n * blkCount b i) 1
/-- A copy node (R328). -/
def blkCopy (b : List Byte) : Bool := decide (fld b 0 2 = 0xFFFF)

/-- The dimensions from the outermost to the fastest under a walk-order code (R327). -/
def walkOrder (d order : Nat) : List Nat :=
  match order with
  | 1 => (List.range d).reverse
  | 2 => 1 :: 0 :: (List.range d).drop 2
  | _ => List.range d

/-- The coordinates of a step: the last of the order varies fastest (R37, R327). -/
def blkCoords (b : List Byte) (k : Nat) : Vector W64 6 :=
  ((walkOrder (blkDims b) (blkOrder b)).reverse.foldl (fun (a : Nat × Vector W64 6) i =>
    let n := blkCount b i
    (a.1 / n, vset a.2 i (BitVec.ofNat 64 (a.1 % n * blkTile b i)))) (k, .replicate 6 0)).2

/-- The walk order is defined for the dimensions (R327). -/
def orderOk (d order : Nat) : Bool := decide (order ≤ 2) && !(order == 2 && d == 1)

/-! ## Checks at dequeue (R322, R329) -/

/-- Whether an address translates under a partition's tables with some permissions: nothing is accessed there, but the walk sets A (R271). -/
def State.xlTry (s : State) (p : Nat) (va : W64) (need : Need) : HubRes Bool :=
  let owed (u : Nat × W64) : HubStop := .owes { part := p, core := none, die := none, va := va, need := need, update := u, xl := none }
  match s.translate p none none va need with
  | .ok x => (match oweA x.attr x.update with | some u => .error (owed u) | none => .ok (true, s.enterWalk p none none va need))
  | .fault _ (some u) => .error (owed u)
  | .fault _ none => .ok (false, s.enterWalk p none none va need)
/-- Whether every one of some addresses does. -/
def State.xlAll (s : State) (p : Nat) (need : Need) : List W64 → HubRes Bool
  | [] => .ok (true, s)
  | va :: vas => match s.xlTry p va need with
    | .error e => .error e
    | .ok (false, s) => .ok (false, s)
    | .ok (true, s) => s.xlAll p need vas
/-- What asks for a translation alone. -/
def needNone : Need := { r := false, w := false, x := false }

/-- The rules of a gang descriptor (R329). -/
def gangOk (cores : Nat) (d : List Byte) : Bool :=
  let m := fld d 0 1
  let pipes := fld d 1 1
  let inst := fld d 2 1
  decide (1 ≤ m ∧ m ≤ 16 ∧ m ≤ cores) && decide (pipes ≤ 8) && decide (1 ≤ inst ∧ inst ≤ 16) && zeroAt d 3 5 && zeroAt d 0xF8 8 &&
    (if inst = 1 then decide (fld d 0xF0 8 = 0) else decide (fld d 0xF0 8 ≠ 0) && decide (fld d 0xF0 8 % 32 = 0)) &&
    (pipes == 0 || (decide (fld d 8 8 ≠ 0) && decide (fld d 8 8 % 256 = 0)))

/-- The successor addresses of the extension nodes (R325), and whether every node of the chain could be read: those before a node that is
misaligned or does not translate are there. -/
def State.extension (s : State) (p : Nat) : Nat → Nat → W64 → HubRes (List W64 × Bool)
  | 0, _, _ => .ok (([], true), s)
  | f + 1, n, va =>
    if n = 0 then .ok (([], true), s)
    else if va.toNat % 256 ≠ 0 then .ok (([], false), s)
    else match s.hubGet p none 5 va 256 with
      | .error (.fault t _) => .ok (([], false), t)
      | .error e => .error e
      | .ok (b, s) =>
        let here := (List.range (min n 31)).map fun i => fldW b (8 * i)
        match s.extension p f (n - 31) (fldW b 0xF8) with
        | .error e => .error e
        | .ok (r, s) => .ok ((here ++ r.1, r.2), s)
/-- The successors of a block, SUCC0 first, and whether every extension node could be read (R325). -/
def State.successors (s : State) (p : Nat) (b : List Byte) : HubRes (List W64 × Bool) :=
  let n := fld b 6 2
  if n ≤ 8 then .ok (((List.range n).map fun i => fldW b (0xA0 + 8 * i), true), s)
  else match s.extension p 2200 (n - 7) (fldW b 0xD8) with
    | .error e => .error e
    | .ok (r, s) => .ok (((List.range 7).map (fun i => fldW b (0xA0 + 8 * i)) ++ r.1, r.2), s)

/-- The cores that a bitmap names. -/
def bitCores (x : BitVec 320) : Nat := ((List.range Config.nCores).filter fun g => x.getLsbD g).length
/-- The core count of a partition (R329), also outside its slice: that of its entry in force, or, where it shares cores by slices and its
entry names none, the most that a partition with a slice length holds (log entry 86). -/
def State.coreCount (s : State) (p : Nat) : Nat :=
  let pt := s.part p
  let own := max (bitCores pt.inForce.cores) (bitCores pt.held)
  if decide (pt.inForce.slice = 0) || decide (pt.inForce.cores ≠ 0) then own
  else (List.range 64).foldl (fun k q => if (s.part q).inForce.slice = 0 then k else max k (bitCores (s.part q).held)) own

/-- An optional read: bytes, or nothing where it faults. -/
def State.hubTry (s : State) (p : Nat) (va : W64) (n : Nat) : HubRes (Option (List Byte)) :=
  match s.hubGet p none (n / 64 + 2) va n with
  | .ok (b, s) => .ok (some b, s)
  | .error (.fault t _) => .ok (none, t)
  | .error e => .error e

/-- The DETAIL of a block's checks, with its successors; 0 where it passes (R38, R322). HISTORY is checked under SUBST: blocks without it
leave the field 0, where nothing is mapped, and end DONE (R344, R398, R399). -/
def State.blockCheck (s : State) (p : Nat) (b : List Byte) : HubRes (Nat × List W64) :=
  let d := blkDims b
  let addr (o : Nat) : W64 := fldW b o
  match s.successors p b with
  | .error e => .error e
  | .ok ((succs, whole), s) =>
    match s.xlAll p needNone (succs.filter fun a => decide (a.toNat % 256 = 0)) with
    | .error e => .error e
    | .ok (there, s) =>
    let succBad := !whole || !there || succs.any fun a => decide (a.toNat % 256 ≠ 0)
    if blkCopy b then
      let bad := decide (fld b 2 2 ≠ 0) || !(zeroAt b 0x40 0x60) || !(zeroAt b 0xE0 8) || !(zeroAt b 0xF0 16)
      .ok ((if bad then 4 else if succBad then 8 else 0, succs), s)
    else
    match s.hubTry p (addr 0xE0) 256 with
    | .error e => .error e
    | .ok (gd, s) => match s.hubTry p (addr 0x90) 32 with
      | .error e => .error e
      | .ok (h, s) => match s.hubTry p (addr 0xF0) 32 with
        | .error e => .error e
        | .ok (tk, s) => match s.xlAll p needW (if blkFlag b 1 then (List.range 4).map fun i => addr 0xF0 + 64 + BitVec.ofNat 64 (64 * i) else []) with
        | .error e => .error e
        | .ok (tokOk, s) => match s.xlTry p (addr 0x80) needNone with
        | .error e => .error e
        | .ok (bitsOk, s) =>
          let gangBad := decide ((addr 0xE0).toNat % 256 ≠ 0) ||
            (match gd with | none => true | some g => !gangOk (s.coreCount p) g)
          let histBad := decide ((addr 0x90).toNat % 32 ≠ 0) || h.isNone
          let hist := h.getD []
          let count := fld hist 0x10 4
          let tokBad := decide ((addr 0xF0).toNat % 64 ≠ 0) || tk.isNone || !tokOk
          let subst := blkFlag b 4
          let shiftBad := !histBad && decide (count ≠ 0) && decide (count ≤ fld b 0x98 4)
          let detail :=
            if d = 0 || decide (6 < d) then 1
            else if (List.range d).any fun i => blkTile b i == 0 then 2
            else if 2 ^ 32 ≤ blkTotal b then 3
            else if decide (32 ≤ fld b 2 2) || !(zeroAt b 0x12 6) || !(zeroAt b 0x3C 4) || !(zeroAt b 0xF8 8) then 4
            else if !orderOk d (blkOrder b) then 5
            else if blkFlag b 2 && gangBad then 6
            else if subst && (!blkFlag b 0 || shiftBad) then 7
            else if decide ((addr 0x80).toNat % 8 ≠ 0) || !bitsOk || succBad ||
              (subst && histBad) || (blkFlag b 1 && tokBad) then 8
            else if subst && ((fld hist 0x14 4 != 4 && fld hist 0x14 4 != 8) || count == 0) then 9
            else 0
          .ok ((detail, succs), s)

/-! ## STATUS and completion records (R319, R323) -/

/-- The codes of STATE (R323). -/
def stWaiting : Nat := 1
def stReady : Nat := 2
def stRunning : Nat := 3
def stDone : Nat := 4
def stMalformed : Nat := 5
def stWatchdog : Nat := 6
def stCancelled : Nat := 7
def stParked : Nat := 8
def stFault : Nat := 9

/-- A STATUS word (R323). -/
def statusWord (st detail : Nat) (subst : Bool) : Nat := st + (if subst then 256 else 0) + 65536 * detail
/-- Write a node's STATUS on behalf of a die; a node that does not translate is not written (R296, R323). -/
def State.setStatus (s : State) (p : Nat) (die : Option Nat) (va : W64) (w : Nat) : Except HubStop State :=
  match s.hubPut p die 2 (va + 0xE8) (natBytes 4 w) with
  | .error (.fault t _) => .ok t
  | r => r

/-- The physical address of a host address (log entry 16). -/
def hostPA (a : W64) : Nat := 0x200000000000 + a.toNat % 2 ^ 44

/-- A completion record of a node in its queue's completion ring (R319). -/
def State.completion (s : State) (q : Nat) (va : W64) (status : Nat) : State :=
  let x := s.queue q
  if x.csize = 0 then s
  else
    let at_ := hostPA x.cring + 16 * (x.ctail.toNat % x.csize.toNat)
    ((s.sendHost Config.nCores false at_ (bytesOf 8 va ++ natBytes 4 status ++ natBytes 4 (s.time.toNat % 2 ^ 32))).onQueue q
      fun x => { x with ctail := x.ctail + 1 }).enterAt x.part 4 .host at_

/-- A node of a partition. -/
def State.node? (s : State) (p : Nat) (va : W64) : Option Node := (s.part p).nodes.find? fun n => n.addr == va
/-- Remove a node. -/
def State.dropNode (s : State) (p : Nat) (va : W64) : State :=
  s.onPart p fun pt => { pt with
    nodes := (pt.nodes.filter fun n => n.addr != va)
    ready := (pt.ready.filter fun k => k != .node va)
    missing := pt.missing.filter fun m => m != va }
/-- Change a node. -/
def State.onNode (s : State) (p : Nat) (va : W64) (f : Node → Node) : State :=
  s.onPart p fun pt => { pt with nodes := pt.nodes.map fun n => if n.addr == va then f n else n }

/-- A node is final while predecessors of it are not, and its STATUS still says so (R322, R323, R339; log entry 84). -/
def State.isFinal (s : State) (p : Nat) (va : W64) : HubRes Bool :=
  if !(s.part p).finals.contains va then .ok (false, s)
  else (s.hubTry p (va + 0xE8) 1).map fun r =>
    let st := fld (r.1.getD []) 0 1
    (decide (4 ≤ st) && st != stParked, r.2)
/-- Note whether a node that ends has predecessors to come. -/
def State.noteFinal (s : State) (p : Nat) (va : W64) : Except HubStop State :=
  (s.hubTry p (va + 4) 2).map fun r => r.2.onPart p fun pt =>
    let rest := pt.finals.filter fun a => a != va
    { pt with finals := if fld (r.1.getD []) 0 2 = 0 then rest else rest ++ [va] }

/-- A node's end in a final state: its STATUS, and its completion record (R319, R323). -/
def State.endNode (s : State) (p q : Nat) (die : Option Nat) (va : W64) (status : Nat) : Except HubStop State :=
  match s.setStatus p die va status with
  | .error e => .error e
  | .ok s => ((s.completion q va status).dropNode p va).noteFinal p va

/-- The edges that a walk of successors may meet: 2^56 node addresses with fewer than 2^16 successors each (R321, R325). -/
def edgeFuel : Nat := 2 ^ 73
/-- Cancel successors and their successors in turn (R323); a node already final, and an address that names no node, is passed over (R319, log
entry 37). -/
def State.cancelAll (s : State) (p q : Nat) : Nat → List W64 → List W64 → Except HubStop State
  | 0, _, _ => .ok s
  | _, _, [] => .ok s
  | f + 1, seen, va :: vas =>
    if seen.contains va || va.toNat % 256 != 0 then s.cancelAll p q f seen vas
    else match s.isFinal p va with
    | .error e => .error e
    | .ok (true, s) => s.cancelAll p q f seen vas
    | .ok (false, s) => match s.node? p va with
      | some n => match s.endNode p n.queue none va stCancelled with
        | .error e => .error e
        | .ok s => s.cancelAll p q f (va :: seen) (vas ++ n.succs)
      | none => match s.hubTry p va 256 with
        | .error e => .error e
        | .ok (none, s) => s.cancelAll p q f (va :: seen) vas
        | .ok (some b, s) => match s.successors p b with
          | .error e => .error e
          | .ok (more, s) => match s.endNode p q none va stCancelled with
            | .error e => .error e
            | .ok s => s.cancelAll p q f (va :: seen) (vas ++ more.1)

/-- A successor is a TILEDEP block (R326). -/
def State.tileDep (s : State) (p : Nat) (va : W64) : HubRes Bool :=
  match s.hubTry p va 64 with
  | .error e => .error e
  | .ok (b, s) => .ok (match b with | some b => blkFlag b 3 && !blkCopy b | none => false, s)

/-- The decrements of a node's successors wait at their arbiters: those of TILEDEP successors, or those of the others (R326). -/
def State.decSuccs (s : State) (p q die : Nat) (pred : W64) (dep : Bool) : List W64 → Except HubStop State
  | [] => .ok s
  | va :: vas => match s.tileDep p va with
    | .error e => .error e
    | .ok (t, s) =>
      let s := if t = dep then s.onOrd fun o => { o with waiting := o.waiting ++
          [{ core := Config.nCores, line := 0, dec := some { part := p, node := va, queue := q, die := die, pred := some pred } }] } else s
      s.decSuccs p q die pred dep vas

/-- A node ends: DONE releases its successors, but for TILEDEP successors already released at its first dispatch; any other
final state cancels them (R323, R326). `die` is that of the retiring step, or none for the home die (R296). -/
def State.finishNode (s : State) (n : Node) (die : Option Nat) (st detail : Nat) (subst : Bool) : Except HubStop State :=
  match s.endNode n.part n.queue die n.addr (statusWord st detail subst) with
  | .error e => .error e
  | .ok s =>
    if st = stDone then
      let d := die.getD (match s.translate n.part none none n.addr needNone with | .ok x => homeDie x.pa | .fault _ _ => 0)
      match s.decSuccs n.part n.queue d n.addr false n.succs with
      | .error e => .error e
      | .ok s => if n.next = 0 then s.decSuccs n.part n.queue d n.addr true n.succs else .ok s
    else s.cancelAll n.part n.queue edgeFuel [n.addr] n.succs

/-- A waiting node joins the ready list, or is DONE at once where it has no steps (R38, R319, R326); `busy` is the queue being dequeued
from, if there is one. -/
def State.joinReady (s : State) (p : Nat) (va : W64) (busy : Nat) : Except HubStop State :=
  match s.node? p va with
  | none => .ok s
  | some n =>
    if !n.copy && n.total = 0 then s.finishNode n none stDone 0 false
    else match s.setStatus p none va stReady with
      | .error e => .error e
      | .ok s =>
        let s := s.makeRoom busy 16 65536
        .ok (s.onPart p fun pt => { pt with ready := (pt.ready.filter fun k => k != .node va) ++ [.node va] })

/-! ## Tokens (R374) -/

/-- What the clocks of the dies have gained: the stamps of writes made between two states. -/
def gained (o o' : Order) : Clock :=
  (List.range 4).foldl (fun v d =>
    if clk (o'.dieClock d) d = clk (o.dieClock d) d then v else clkPut v d (clk (o'.dieClock d) d)) clkZero

/-- The hub writes a matching token at TOKEN + 64 (R374). -/
def State.tryToken (s : State) (p : Nat) (va : W64) : Except HubStop State :=
  match s.node? p va with
  | none => .ok s
  | some n => match n.gate with
    | none => .ok s
    | some gt =>
      let tk := (s.part p).token
      if gt.sent.isSome || decide (tk = []) || decide (ofBytes 256 ((tk.drop 0x48).take 32) ≠ gt.nonce) then .ok s
      else match s.hubPut p none 5 (fldW n.block 0xF0 + 64) tk with
        | .error e => .error e
        | .ok t => .ok (t.onNode p va fun n => { n with gate := some { gt with sent := some (gained s.ord t.ord) } })

/-- The token of a block has reached the host, or it asks for none (R299, R374). -/
def State.gateOpen (s : State) (n : Node) : Bool :=
  match n.gate with
  | none => true
  | some g => match g.sent with
    | none => false
    | some v => s.ord.appliedAll v && !(s.ord.sent.any fun e => e.core == Config.nCores)

/-! ## Taking a node (R319) -/

/-- The hub reads a node, writes WAITING and checks it (R319, R322); one whose count is 0, or that an edge releases, joins the
ready list. -/
def State.takeNode (s : State) (p q : Nat) (va : W64) (released : Bool) : Except HubStop State :=
  match (if va.toNat % 256 ≠ 0 then .error (.fault s .xlate) else s.hubGet p none 5 va 256) with
  | .error (.fault t _) => .ok (t.completion q va (statusWord stMalformed 8 false))
  | .error e => .error e
  | .ok (b, s) => match s.setStatus p none va stWaiting with
    | .error e => .error e
    | .ok s => match s.blockCheck p b with
      | .error e => .error e
      | .ok ((detail, succs), s) =>
        let nonce : HubRes (Option (List Byte)) := if blkFlag b 1 && !blkCopy b then s.hubTry p (fldW b 0xF0) 32 else .ok (none, s)
        match nonce with
        | .error e => .error e
        | .ok (nc, s) =>
          let n : Node :=
            { addr := va, part := p, queue := q, block := b, succs := succs, copy := blkCopy b, next := 0
              total := if blkCopy b then 1 else blkTotal b, instances := []
              gate := nc.map fun x => { nonce := ofBytes 256 x, sent := none }
              progress := if blkCopy b then fld b 0xEC 4 else 0, parked := false, subst := none
              need := clkZero, prior := [] }
          if detail ≠ 0 then s.finishNode n none stMalformed detail false
          else
            let s := s.onPart p fun pt => { pt with
              nodes := (pt.nodes.filter fun m => m.addr != va) ++ [n], finals := pt.finals.filter fun a => a != va }
            match s.tryToken p va with
            | .error e => .error e
            | .ok s => if fld b 4 2 = 0 || released then s.joinReady p va (if released then Config.nQueues else q) else .ok s

/-! ## Predecessor counts (R326, R346) -/

/-- An entry of one of a partition's rings, not yet dequeued, names a node: it joins at that dequeue (log entry 17). -/
def State.ringNames (s : State) (p : Nat) (va : W64) : Bool :=
  s.hub.queues.any fun q => q.2.part == p && (List.range (min q.2.count q.2.size.toNat)).any fun i =>
    amGet 0 q.2.ring ((q.2.head.toNat + i) % max 1 q.2.size.toNat) == va

/-- A decrement performs; a node whose count reaches 0 joins the ready list, for whose room it waits (R317, log entry 84). One that a successor
edge releases carries the queue of the predecessor (R319), one not yet taken that of the step whose command names it (R346). -/
def State.decrement (s : State) (d : HubDec) : Except HubStop State :=
  match s.hubAtomic d.part (some d.die) (d.node + 4) 2 (fun b => natBytes 2 ((fld b 0 2 + 65535) % 65536)) with
  | .error (.fault t _) => .ok t
  | .error e => .error e
  | .ok (old, s) =>
    if fld old 0 2 ≠ 1 then .ok s
    else match s.isFinal d.part d.node with
    | .error e => .error e
    | .ok (true, s) => .ok (s.onPart d.part fun pt => { pt with finals := pt.finals.filter fun a => a != d.node })
    | .ok (false, s) =>
    if (s.part d.part).readyFull then .error .wait
    else match s.node? d.part d.node with
      | some n =>
        if (s.part d.part).ready.contains (.node n.addr) || decide (0 < n.next) then .ok s
        else (if d.pred.isSome then s.onNode d.part d.node fun n => { n with queue := d.queue } else s).joinReady d.part d.node
          Config.nQueues
      | none => if !s.ringNames d.part d.node then s.takeNode d.part d.queue d.node true else .ok s

/-- A decrement is the first of its predecessor's that still waits: one node's successors are decremented in successor order (R326). -/
def decTurn (ws : List Waiting) (i : Nat) (d : HubDec) : Bool :=
  d.pred.isNone || !((ws.take i).any fun w => match w.dec with
    | some e => e.part == d.part && e.pred == d.pred
    | none => false)

end Sys2Proof.Machine
end

