-- ==== Sys2Proof/Machine/Ordering.lean ====
section
/-! DEFINITION. The steps of the ordering machine (R293) on the lines of memory-order-queue operations, polls and copy
commands: READ, WRITE, SEND, ARBITRATE, PORT, DEPOSIT, HOSTOP, OBSERVE, DELIVER, APPLY and DRAIN. -/

namespace Sys2Proof.Machine

/-! ## The operation at the head of a queue -/

/-- Whether an operation reads lines, or writes them; the others are atomics and barrier operations. -/
def QOp.reads (q : QOp) : Bool := match q.op with | .tld _ _ _ _ | .tldw _ _ _ | .xtld _ _ _ _ _ => true | _ => false
def QOp.writes (q : QOp) : Bool := match q.op with | .tst _ _ _ _ | .xtst _ _ _ _ _ => true | _ => false
/-- The lines of an operation (R177, R283, R349). -/
def QOp.lines (q : QOp) : Nat :=
  match q.op with
  | .tldw _ _ _ => 33
  | _ => if q.reads || q.writes then 2 * q.rows else 1
/-- The address of the next line (R283). -/
def QOp.lineVa (q : QOp) : W64 :=
  match q.op with
  | .tldw _ _ _ => q.addr + BitVec.ofNat 64 (64 * q.done)
  | _ =>
    if q.reads || q.writes then q.addr + q.stride * BitVec.ofNat 64 (q.done / 2) + BitVec.ofNat 64 (64 * (q.done % 2))
    else q.addr
/-- What an operation needs of a page (R272). -/
def QOp.need (q : QOp) : Need := if q.reads then needR else if q.writes then needW else needRW
/-- What it may reach (R263): a store makes deposits too. -/
def QOp.reach (q : QOp) : Reach := if q.writes then .windows else .scratchpads
/-- The bytes of the next line of a write. -/
def QOp.lineBytes (q : QOp) : List Byte := bytesOf 64 (elem 512 q.done q.snap : W512)
/-- A line read. -/
def QOp.take (q : QOp) (bs : List Byte) : QOp :=
  { q with got := q.got ||| ((ofBytes 131072 bs) <<< (512 * q.done)), done := q.done + 1, portAt := .none }
/-- The tiles or the block tile that a read writes. -/
def QOp.targets (q : QOp) : List Dest := destsOf q.op

/-- The head of a core's memory-order queue, where it may perform: it is not held, and every local scratchpad access
performed up to the cycle after its group has performed (R234, R294). -/
def CoreSt.headOp (c : CoreSt) : Option QOp :=
  match c.flow.mem with
  | q :: _ => if q.fault.isNone && !q.stuck && decide (q.issued + 2 ≤ c.flow.cyc) then some q else none
  | [] => none
/-- Replace the head. -/
def State.setHead (s : State) (g : Nat) (q : QOp) : State :=
  s.onCore g fun c => { c with flow := { c.flow with mem := q :: c.flow.mem.tail } }
/-- Change what a fence of a core waits for (R299). -/
def State.onNeed (s : State) (g : Nat) (f : Clock → Clock) : State :=
  s.onCore g fun c => { c with flow := { c.flow with need := f c.flow.need } }
/-- A die's own write has to be applied everywhere. -/
def ownNeed (o : Order) (d : Nat) (v : Clock) : Clock := clkPut v d (max (clk v d) (clk (o.dieClock d) d))

/-- FAULTVA of a token fault: the line's address (R272), or bits [59:0] of a value that names no virtual address (R266). -/
def faultVa (va : W64) : Addr := if va.toNat / 2 ^ 60 ≠ 0 then va.setWidth 60 else (va &&& ~~~(63 : W64)).setWidth 60

/-- The fault of a line (R234, R272): the operation is held. -/
def State.qFault (s : State) (g : Nat) (q : QOp) (k : Cause) (va : W64) : State :=
  (s.coreDieEvent g 11 1).setHead g { q with portAt := .none, fault := some { CoreSt.blankTrap k with
    token := true, slots := 1#12 <<< q.slot, bundle := q.bundle, sched := q.sched
    va := faultVa va, tok := BitVec.ofNat 3 (q.tok.getD 0) } }

/-- The register effects of an operation whose last line has performed (R177, R283, R284, R349). -/
def CoreSt.qWrite (c : CoreSt) (q : QOp) : CoreSt × Flg :=
  let tile (k : Nat) : TileBits := elem 65536 k q.got
  match q.op with
  | .tld t _ _ _ => (c.setTile t.toNat (tile 0), 0)
  | .xtld pair t _ _ _ =>
    let c := c.setTile t.toNat (tile 0)
    (if pair then c.setTile (t.toNat + 1) (tile 1) else c, 0)
  | .tldw wb _ _ =>
    ({ c with files := { c.files with
        wbCodes := vset c.files.wbCodes wb.toNat (q.got.extractLsb' 0 16384)
        wbScales := vset c.files.wbScales wb.toNat (q.got.extractLsb' 16384 512) } }, 0)
  | .amoadd d _ _ _ | .amoswp d _ _ _ | .amocas d _ _ _ | .amomin d _ _ _ | .amomax d _ _ _ | .amoand d _ _ _
  | .amoor d _ _ _ | .binit d _ _ _ | .arrive d _ _ _ => (c.putS d (q.got.extractLsb' 0 64), q.got.extractLsb' 64 9)
  | _ => (c, 0)

/-- The head leaves its queue and its token completes (R293, R239). -/
def State.qComplete (s : State) (g : Nat) (q : QOp) : State :=
  let s := s.onCore g fun c =>
    let r := c.qWrite q
    let c := (r.1.raise q.slot q.bundle (r.2 ||| .iff q.lost .latch)).tokDone q.tok
    { c with flow := { c.flow with mem := c.flow.mem.tail } }
  s.stampHead g

/-- The issuing die's clock covers that of the port's die at service (R293 PORT). -/
def State.covered (s : State) (g : Nat) (v : Option Clock) : Bool :=
  match v with
  | none => true
  | some c => clkGe (s.ord.dieClock (Config.dieOf g)) c
/-- The head as it stands after a line: it completes once every line has performed and the clock of its ports is covered. -/
def State.qSettle (s : State) (g : Nat) (q : QOp) : State :=
  if q.lines ≤ q.done && s.covered g q.served then s.qComplete g q else s.setHead g q

/-- The last line of a load waits for earlier readers in the matrix unit (R163). -/
def CoreSt.loadWaits (c : CoreSt) (q : QOp) : Bool :=
  q.reads && decide (q.lines ≤ q.done + 1) && q.targets.any fun d => c.mReads q.seq d

/-! ## Polls (R127) -/

/-- The address and size that a poll reads. The registers that name them are read anew at each poll, so that a result which lands during the
hold changes what is polled (DESIGN CHOICE, log entry 97). -/
def CoreSt.pollPlace (c : CoreSt) : Option (W64 × Nat) :=
  match c.reached.polling with
  | some (.waitph _ a _ _) => some (c.src a, 16)
  | some (.waitbit _ a b _) => some (c.src a + (c.src b >>> 3), 1)
  | _ => none
/-- A poll may perform: its instruction holds, every earlier memory operation has performed, and it has met no uncorrectable error (R288). -/
def CoreSt.polls (c : CoreSt) : Bool :=
  decide (c.flow.mem = []) && !c.reached.stuck && c.reached.polled.isNone && c.reached.pollFault.isNone && c.reached.pollAt.isNone
/-- What a poll's bytes say: the end of the wait, with the pair's value, or another poll. -/
def CoreSt.pollSays (c : CoreSt) (bs : List Byte) : Option Bool :=
  match c.reached.polling with
  | some (.waitph _ _ b tmo) =>
    let o : W64 := ofBytes 64 (bs.take 8)
    if o.getLsbD 37 = false then some false
    else if o.extractLsb' 32 4 ≠ (c.src b).extractLsb' 0 4 then some true
    else if tmo = 0 then some false else none
  | some (.waitbit _ _ b tmo) =>
    if (bs.headD 0).getLsbD ((c.src b).toNat % 8) then some true else if tmo = 0 then some false else none
  | _ => none
/-- A poll's value has come back. -/
def State.pollGot (s : State) (g : Nat) (bs : List Byte) : State :=
  s.onCore g fun c => { c with reached := { c.reached with polled := c.pollSays bs, pollAt := none, pollPort := .none } }
/-- A poll's address does not translate, or may not be read (R127). -/
def State.pollFaulted (s : State) (g : Nat) (k : Cause) (va : W64) : State :=
  s.onCore g fun c => { c with reached := { c.reached with pollFault := some { CoreSt.blankTrap k with va := va.setWidth 60 } } }

/-! ## Copy commands (R295, R346, R350) -/

/-- A command of a pipe: its lines go between scratchpads. -/
def XCmd.pipe (x : XCmd) : Bool := match x.op with | .pput _ _ _ _ | .pget _ _ _ _ => true | _ => false
/-- The bytes of a command. -/
def XCmd.total (x : XCmd) : Nat := x.rows * x.len
/-- The source and destination addresses of the next line. -/
def XCmd.srcVa (x : XCmd) : W64 := x.src + x.sstride * BitVec.ofNat 64 (x.bytes / x.len) + BitVec.ofNat 64 (x.bytes % x.len)
def XCmd.dstVa (x : XCmd) : W64 := x.dst + x.dstride * BitVec.ofNat 64 (x.bytes / x.len) + BitVec.ofNat 64 (x.bytes % x.len)

/-- The performing command of a core's copy engine, with a line still to move. -/
def CoreSt.headCopy (c : CoreSt) : Option XCmd :=
  match c.flow.xq with
  | x :: _ => if x.started && x.fault.isNone && !x.stuck && decide (x.bytes < x.total) then some x else none
  | [] => none
/-- A command may write its line on: the clock of its die covers those of the ports that it has read (R293, R295). -/
def State.mayPut (s : State) (g : Nat) (x : XCmd) : Bool := s.covered g x.served
/-- The line that a command holds to write: of a fill, its pattern (R346). -/
def XCmd.line (x : XCmd) : Option W512 :=
  if x.fill then some (packElems 512 (List.replicate 8 x.src)) else x.buf
/-- Replace the head command. -/
def State.setCopy (s : State) (g : Nat) (x : XCmd) : State :=
  s.onCore g fun c => { c with flow := { c.flow with xq := x :: c.flow.xq.tail } }
/-- A command parks (R351). -/
def State.xFault (s : State) (g : Nat) (x : XCmd) (k : Cause) (va : W64) : State :=
  (s.coreDieEvent g 11 1).setCopy g { x with portAt := .none, fault := some { CoreSt.blankTrap k with
    token := true, slots := 1#12 <<< 10, bundle := x.bundle, sched := x.sched
    va := faultVa va, kind := 5, tok := BitVec.ofNat 3 x.tok } }
/-- The line read, or the line written. -/
def XCmd.got (x : XCmd) (bs : List Byte) : XCmd := { x with buf := some (ofBytes 512 bs), portAt := .none }
def XCmd.put (x : XCmd) : XCmd := { x with buf := none, bytes := x.bytes + 64, portAt := .none }
/-- A copy write has to be applied everywhere before the step's completion is seen (R297). -/
def State.onXneed (s : State) (g : Nat) : State :=
  s.onCore g fun c => { c with flow := { c.flow with xneed := ownNeed s.ord (Config.dieOf g) c.flow.xneed } }

/-! ## READ and WRITE -/

/-- READ of a queue operation's line, or of a poll. -/
def State.qRead (s : State) (g : Nat) : Option State :=
  let c := s.core g
  let d := Config.dieOf g
  match c.headOp with
  | some q =>
    if !q.reads || decide (q.lines ≤ q.done) then none
    else match s.access g q.lineVa needR .scratchpads with
      | .wait => none
      | .updated t => some t
      | .fault t k => some (t.qFault g q k q.lineVa)
      | .ok t x => match x.loc with
        | .mem home =>
          if c.loadWaits q then none
          else
            let t := (t.countLine g home).onNeed g (t.ord.readNeed d x.pa 64)
            some (t.qSettle g (q.take (t.ord.readView d x.pa 64)))
        | _ => none
  | none => match c.pollPlace with
    | none => none
    | some (va, n) =>
      if !c.polls then none
      else match s.access g va needR .scratchpads with
        | .wait => none
        | .updated t => some t
        | .fault t k => some (t.pollFaulted g k va)
        | .ok t x => match x.loc with
          | .mem _ => some ((t.onNeed g (t.ord.readNeed d x.pa n)).pollGot g (t.ord.readView d x.pa n))
          | _ => none

/-- READ of a copy command's line. -/
def State.xRead (s : State) (g : Nat) : Option State :=
  match (s.core g).headCopy with
  | some x =>
    if x.pipe || x.line.isSome then none
    else match s.access g x.srcVa needR .scratchpads with
      | .wait => none
      | .updated t => some t
      | .fault t k => some (t.xFault g x k x.srcVa)
      | .ok t y => match y.loc with
        | .mem _ => some (t.setCopy g (x.got (t.ord.readView (Config.dieOf g) y.pa 64)))
        | _ => none
  | none => none

/-- READ (R293). -/
def execRead (g : Nat) (x : Bool) (s : State) : Host.Outcome State Fault Refusal :=
  coreEvent "READ" g (if x then s.xRead g else s.qRead g)

/-- WRITE of a queue operation's line. -/
def State.qStore (s : State) (g : Nat) : Option State :=
  let d := Config.dieOf g
  match (s.core g).headOp with
  | some q =>
    if !q.writes || decide (q.lines ≤ q.done) then none
    else match s.access g q.lineVa needW .windows with
      | .wait => none
      | .updated t => some t
      | .fault t k => some (t.qFault g q k q.lineVa)
      | .ok t x => match x.loc with
        | .mem home =>
          let t := (t.countLine g home).onOrd fun o => o.perform d (cellsAt x.pa q.lineBytes)
          some ((t.onNeed g (ownNeed t.ord d)).qSettle g { q with done := q.done + 1, portAt := .none })
        | _ => none
  | none => none
/-- WRITE of a copy command's line. -/
def State.xStore (s : State) (g : Nat) : Option State :=
  match (s.core g).headCopy with
  | some x => match x.line with
    | none => none
    | some l =>
      if x.pipe || !s.mayPut g x then none
      else match s.access g x.dstVa needW .windows with
        | .wait => none
        | .updated t => some t
        | .fault t k => some (t.xFault g x k x.dstVa)
        | .ok t y => match y.loc with
          | .mem _ =>
            let t := t.onOrd fun o => o.perform (Config.dieOf g) (cellsAt y.pa (bytesOf 64 l))
            some ((t.onXneed g).setCopy g x.put)
          | _ => none
  | none => none
/-- WRITE (R293). -/
def execWrite (g : Nat) (x : Bool) (s : State) : Host.Outcome State Fault Refusal :=
  coreEvent "WRITE" g (if x then s.xStore g else s.qStore g)

/-! ## Atomics: SEND and ARBITRATE -/

/-- SEND (R293). -/
def execSend (g : Nat) (s : State) : Host.Outcome State Fault Refusal :=
  coreEvent "SEND" g (match (s.core g).headOp with
    | some q =>
      if q.reads || q.writes || q.sent || decide (q.lines ≤ q.done) then none
      else match s.access g q.lineVa needRW .scratchpads with
        | .wait => none
        | .updated t => some t
        | .fault t k => some (t.qFault g q k q.lineVa)
        | .ok t x => match x.loc with
          | .mem _ =>
            some ((t.setHead g { q with sent := true }).onOrd fun o =>
              { o with waiting := o.waiting ++ [{ core := g, line := x.pa / 64, dec := none }] })
          | _ => none
    | none => none)

/-- The atomic of a core waiting at an arbiter performs (R293). -/
def State.arbitrateCore (s : State) (i : Nat) (w : Waiting) : Option State :=
  let g := w.core
  let d := Config.dieOf g
  match (s.core g).flow.mem with
  | q :: _ =>
    if q.sent && !q.stuck && clkGe (s.ord.dieClock d) (s.ord.lineClock w.line) then
      let pa := 64 * w.line + q.addr.toNat % 64
      let n := wordSize q.op
      let r := wordOp q (s.ord.readView d pa n) s.time
      let s := s.onNeed g (s.ord.readNeed d pa n)
      let s := s.onOrd fun o => { (o.arbitrated d pa r.1) with waiting := o.waiting.eraseIdx i }
      let s := s.onNeed g (ownNeed s.ord d)
      let res : BitVec 131072 := r.2.1.setWidth 131072 ||| (r.2.2.setWidth 131072 <<< 64)
      some (s.qComplete g { q with got := res, done := 1 })
    else none
  | [] => none

/-- The hub's decrement of a predecessor count performs (R326). -/
def State.arbitrateDec (s : State) (i : Nat) (d : HubDec) : Option State :=
  if !decTurn s.ord.waiting i d then none
  else s.hubNext ((s.onOrd fun o => { o with waiting := o.waiting.eraseIdx i }).decrement d)

/-- ARBITRATE (R293): one waiting operation performs. -/
def execArbitrate (i : Nat) (s : State) : Host.Outcome State Fault Refusal :=
  event "ARBITRATE" (match s.ord.waiting[i]? with
    | none => none
    | some w => match w.dec with
      | some d => s.arbitrateDec i d
      | none => s.arbitrateCore i w)

/-! ## PORT -/

/-- The clock that a write, an atomic or a barrier operation carries to a port covers nothing new there (R293 PORT). -/
def State.portClock (s : State) (g p : Nat) (v : Option Clock) : Bool :=
  clkGe (s.ord.dieClock (Config.dieOf p)) (v.getD (s.ord.dieClock (Config.dieOf g)))
/-- The join of the clocks of the ports that served an operation. -/
def State.servedAt (s : State) (p : Nat) (v : Option Clock) : Option Clock :=
  some (clkMax (s.ord.dieClock (Config.dieOf p)) (v.getD clkZero))

/-- PORT of a queue operation. -/
def State.qPort (s : State) (g : Nat) : Option State :=
  let c := s.core g
  match c.headOp with
  | none => none
  | some q =>
    if q.lines ≤ q.done then (if s.covered g q.served then some (s.qComplete g q) else none)
    else match s.access g q.lineVa q.need q.reach with
      | .updated t => some t
      | .ok t x => match x.loc with
        | .port p off =>
          if !q.reads && !s.portClock g p q.vc then none
          else if c.loadWaits q then none
          else match t.portTry (whoOp g) p off with
            | none => none
            | some (false, t) => some (t.setHead g { q with portAt := some p })
            | some (true, t) =>
              if q.reads then
                some (t.qSettle g { q.take ((t.core p).spadRead off 64) with served := t.servedAt p q.served })
              else if q.writes then
                some ((t.onCore p fun c => c.spadWrite off q.lineBytes).qSettle g
                  { q with done := q.done + 1, portAt := .none, served := t.servedAt p q.served })
              else
                let r := wordOp q ((t.core p).spadRead off (wordSize q.op)) s.time
                let t := t.onCore p fun c => c.spadWrite off r.1
                let res : BitVec 131072 := r.2.1.setWidth 131072 ||| (r.2.2.setWidth 131072 <<< 64)
                some (t.qSettle g { q with got := res, done := 1, served := t.servedAt p none })
        | _ => none
      | _ => none

/-- PORT of a poll. -/
def State.pollPort (s : State) (g : Nat) : Option State :=
  let c := s.core g
  match c.reached.pollAt with
  | some (b, v) =>
    if s.covered g (some v) then
      some (s.onCore g fun c => { c with reached := { c.reached with polled := some b, pollAt := none, pollPort := .none } })
    else none
  | none => match c.pollPlace with
    | none => none
    | some (va, n) =>
      if !c.polls then none
      else match s.access g va needR .scratchpads with
        | .updated t => some t
        | .ok t x => match x.loc with
          | .port p off => match t.portTry (whoPoll g) p off with
            | none => none
            | some (false, t) => some (t.onCore g fun c => { c with reached := { c.reached with pollPort := some p } })
            | some (true, t) =>
              let bs := (t.core p).spadRead off n
              let v := t.ord.dieClock (Config.dieOf p)
              if t.covered g (some v) then some (t.pollGot g bs)
              else match c.pollSays bs with
                | some b => some (t.onCore g fun c => { c with reached := { c.reached with pollAt := some (b, v), pollPort := .none } })
                | none => some (t.pollGot g bs)
          | _ => none
        | _ => none

/-- A copy command reads or writes its next line at a place in a scratchpad. -/
def State.xPortAt (s : State) (g : Nat) (x : XCmd) (p off : Nat) : Option State :=
  if x.line.isSome && (!s.portClock g p x.vc || !s.mayPut g x) then none
  else match s.portTry (whoCopy g) p off with
    | none => none
    | some (false, t) => some (t.setCopy g { x with portAt := some p })
    | some (true, t) =>
      match x.line with
      | some l => some ((t.onCore p fun c => c.spadWrite off (bytesOf 64 l)).setCopy g { x.put with wrote := t.servedAt p x.wrote })
      | none => some (t.setCopy g { x.got ((t.core p).spadRead off 64) with served := t.servedAt p x.served })

/-- PORT of a copy command: the next line is read, or written. -/
def State.xPort (s : State) (g : Nat) : Option State :=
  match (s.core g).headCopy with
  | none => none
  | some x =>
    let wr := x.line.isSome
    if x.pipe then s.xPortAt g x (if wr then x.peer else g) ((if wr then x.dst else x.src).toNat + x.bytes)
    else match s.access g (if wr then x.dstVa else x.srcVa) (if wr then needW else needR) (if wr then .windows else .scratchpads) with
      | .updated t => some t
      | .ok t y => match y.loc with
        | .port p off => t.xPortAt g x p off
        | _ => none
      | _ => none

/-- PORT (R276, R293). -/
def execPort (g : Nat) (x : Bool) (s : State) : Host.Outcome State Fault Refusal :=
  coreEvent "PORT" g (if x then s.xPort g else (s.qPort g).or (s.pollPort g))

/-! ## DEPOSIT and DRAIN -/

/-- A deposit in its target's buffer, where there is room (R277, R278). -/
def State.depositLine (s : State) (part p off : Nat) (bs : List Byte) : Option State :=
  if s.ingressRoom p then some (s.ingressAdd { core := p, host := false, addr := off, bytes := bs, part := part, va := none, stuck := false }) else none

/-- DEPOSIT (R293). -/
def execDeposit (g : Nat) (x : Bool) (s : State) : Host.Outcome State Fault Refusal :=
  coreEvent "DEPOSIT" g (if x then
      match (s.core g).headCopy with
      | some q => match q.line with
        | none => none
        | some l =>
          if q.pipe || !s.mayPut g q then none
          else match s.access g q.dstVa needW .windows with
            | .updated t => some t
            | .ok t y => match y.loc with
              | .reg p off => (t.depositLine (s.partOf g) p off (bytesOf 64 l)).map fun t => t.setCopy g q.put
              | _ => none
            | _ => none
      | none => none
    else
      match (s.core g).headOp with
      | some q =>
        if !q.writes || decide (q.lines ≤ q.done) then none
        else match s.access g q.lineVa needW .windows with
          | .updated t => some t
          | .ok t y => match y.loc with
            | .reg p off => (t.depositLine (s.partOf g) p off q.lineBytes).map fun t =>
                t.qSettle g { q with done := q.done + 1, portAt := .none }
            | _ => none
          | _ => none
      | none => none)

/-- DRAIN (R56, R293): the next of the entries that a window bundle has taken is applied. -/
def execDrain (g : Nat) (s : State) : Host.Outcome State Fault Refusal :=
  coreEvent "DRAIN" g (match (s.core g).reached.drain with
    | some (n + 1) => (s.drainOne g).map fun t => t.onCore g fun c => c.drained1 n
    | _ => none)

/-! ## HOSTOP and OBSERVE -/

/-- HOSTOP of a queue operation or of a poll. -/
def State.qHost (s : State) (g : Nat) : Option State :=
  let c := s.core g
  match c.headOp with
  | some q =>
    if q.lines ≤ q.done then none
    else match s.access g q.lineVa q.need q.reach with
      | .updated t => some t
      | .ok t x => match x.loc with
        | .host =>
          if c.loadWaits q then none
          else if q.reads then some ((t.countLine g none).qSettle g (q.take (amRead s.ord.host x.pa 64)))
          else if q.writes then
            some (((t.countLine g none).sendHost g false x.pa q.lineBytes).qSettle g { q with done := q.done + 1, portAt := .none })
          else
            let r := wordOp q (amRead s.ord.host x.pa (wordSize q.op)) s.time
            let t := t.onOrd fun o => { o with host := amWrite o.host x.pa r.1 }
            let res : BitVec 131072 := r.2.1.setWidth 131072 ||| (r.2.2.setWidth 131072 <<< 64)
            some (t.qSettle g { q with got := res, done := 1 })
        | _ => none
      | _ => none
  | none => match c.pollPlace with
    | none => none
    | some (va, n) =>
      if !c.polls then none
      else match s.access g va needR .scratchpads with
        | .updated t => some t
        | .ok t x => match x.loc with
          | .host => some (t.pollGot g (amRead s.ord.host x.pa n))
          | _ => none
        | _ => none

/-- HOSTOP of a copy command. -/
def State.xHost (s : State) (g : Nat) : Option State :=
  match (s.core g).headCopy with
  | none => none
  | some x =>
    if x.pipe then none
    else
      match x.line with
      | none => match s.access g x.srcVa needR .scratchpads with
        | .updated t => some t
        | .ok t y => match y.loc with
          | .host => some (t.setCopy g (x.got (amRead s.ord.host y.pa 64)))
          | _ => none
        | _ => none
      | some l => if !s.mayPut g x then none else match s.access g x.dstVa needW .windows with
        | .updated t => some t
        | .ok t y => match y.loc with
          | .host => some ((t.sendHost g true y.pa (bytesOf 64 l)).setCopy g x.put)
          | _ => none
        | _ => none

/-- HOSTOP (R288, R293): host lines over CXL.cache. -/
def execHostop (g : Nat) (x : Bool) (s : State) : Host.Outcome State Fault Refusal :=
  coreEvent "HOSTOP" g (if x then s.xHost g else s.qHost g)

/-- Write bytes at their addresses. -/
def amPut (m : AMap Byte) : List (Nat × Byte) → AMap Byte
  | [] => m
  | (a, b) :: bs => amPut (amSet 0 m a b) bs

/-- OBSERVE (R293): a sent host write becomes observable after every earlier-sent write of its core to its line. -/
def execObserve (i : Nat) (s : State) : Host.Outcome State Fault Refusal :=
  event "OBSERVE" (match s.ord.sent[i]? with
    | none => none
    | some w =>
      if (s.ord.sent.take i).any fun e => e.core == w.core && e.line == w.line then none
      else some (s.onOrd fun o => { o with sent := o.sent.eraseIdx i, host := amPut o.host w.bytes }))

/-! ## DELIVER and APPLY -/

/-- DELIVER (R293). -/
def execDeliver (i j : Nat) (s : State) : Host.Outcome State Fault Refusal :=
  event "DELIVER" ((s.ord.deliver i j).map fun o => { s with ord := o })
/-- APPLY (R292, R293): entry k of the apply buffer of die j. -/
def execApply (j k : Nat) (s : State) : Host.Outcome State Fault Refusal :=
  event "APPLY" ((s.ord.applyAt j k).map fun o => { s with ord := o })

end Sys2Proof.Machine
end

