-- ==== Sys2Proof/Machine/Copy.lean ====
section
/-! DEFINITION. The copy engine of a core: XSET, XGO, XCPY, PPUT and PGET (R345 to R350), the start and the completion of its
commands (R295, R350, R351), and the hub copy engine (R328, R351). -/

namespace Sys2Proof.Machine

/-! ## Issue -/

/-- What a command takes at issue (R346, R348, R350). -/
structure XArgs where
  fill : Bool
  dst : W64
  src : W64
  len : Nat
  rows : Nat
  dstride : W64
  sstride : W64
  node : W64
  desc : W64
  lost : Flg

/-- A command enters the copy engine of the current core (R345). -/
def State.submit (s : State) (i : Instr) (w : BitVec 3) (f : CoreSt → XArgs) : State :=
  s.onCur fun c =>
    let a := f c
    let x : XCmd :=
      { op := i, bundle := c.flow.bundleA, sched := c.flow.sched, tok := w.toNat, seq := c.flow.seq, fill := a.fill, dst := a.dst
        src := a.src, len := a.len, rows := a.rows, dstride := a.dstride, sstride := a.sstride, node := a.node, desc := a.desc
        started := false, bytes := 0, buf := none, peer := 0, served := none, wrote := none, moved := false, vc := none, portAt := .none
        lost := decide (a.lost ≠ 0), stuck := false, fault := none }
    let c := c.tokOpen w.toNat .x []
    { c with flow := { c.flow with xq := c.flow.xq ++ [x], seq := c.flow.seq + 1 } }

/-- The arguments of a command with three scalar sources. -/
def xArgs (a b d : SSrc) (mk : W64 → W64 → W64 → XArgs) (c : CoreSt) : XArgs :=
  { mk (c.src a) (c.src b) (c.src d) with lost := c.srcFlag a ||| c.srcFlag b ||| c.srcFlag d }

/-- XCPY: c bytes from b to a in one row (R348). -/
def execXcpy (a b d : SSrc) (w : BitVec 3) (s : State) : Host.Outcome State Fault Refusal :=
  s.issue (.xcpy a b d w) fun s => s.submit (.xcpy a b d w) w (xArgs a b d fun x y z =>
    { fill := false, dst := x, src := y, len := z.toNat, rows := 1, dstride := 0, sstride := 0, node := 0, desc := 0, lost := 0 })
/-- PPUT: the pipe descriptor at a, the local offset b, the byte count c (R350). -/
def execPput (a b d : SSrc) (w : BitVec 3) (s : State) : Host.Outcome State Fault Refusal :=
  s.issue (.pput a b d w) fun s => s.submit (.pput a b d w) w (xArgs a b d fun x y z =>
    { fill := false, dst := 0, src := y, len := z.toNat, rows := 1, dstride := 0, sstride := 0, node := 0, desc := x, lost := 0 })
/-- PGET (R350). -/
def execPget (a b d : SSrc) (w : BitVec 3) (s : State) : Host.Outcome State Fault Refusal :=
  s.issue (.pget a b d w) fun s => s.submit (.pget a b d w) w (xArgs a b d fun x y z =>
    { fill := false, dst := y, src := 0, len := z.toNat, rows := 1, dstride := 0, sstride := 0, node := 0, desc := x, lost := 0 })
/-- XSET: a shadow register, seen by an XGO in a later group (R347). -/
def execXset (cr : BitVec 3) (a : SSrc) (s : State) : Host.Outcome State Fault Refusal :=
  s.issue (.xset cr a) fun s => s.onCur fun c =>
    c.fly ((Instr.xset cr a).latency c.classB) (destsOf (.xset cr a)) [.xc cr.toNat (c.src a)] (c.srcFlag a)
/-- XGO: the shadow set as one command (R347). -/
def execXgo (w : BitVec 3) (s : State) : Host.Outcome State Fault Refusal :=
  s.issue (.xgo w) fun s => s.submit (.xgo w) w fun c =>
    { fill := c.xc.kind.getLsbD 0, dst := c.xc.dst, src := c.xc.src, len := c.xc.len.toNat, rows := c.xc.rows.toNat
      dstride := c.xc.dstride, sstride := c.xc.sstride, node := c.xc.node, desc := 0, lost := 0 }

/-! ## Pipes (R330, R350) -/

/-- The rules of a pipe descriptor (R330). -/
def pipeOk (d : List Byte) : Bool :=
  decide (fld d 4 4 % 256 = 0) && decide (fld d 8 4 ≠ 0) && decide (fld d 8 4 % 256 = 0) &&
    decide (2 ≤ fld d 0xC 2 ∧ fld d 0xC 2 ≤ 64) && zeroAt d 0xE 2 && zeroAt d 0x30 16 &&
    decide (fld d 4 4 + fld d 0xC 2 * fld d 8 4 ≤ Config.spadBytes)

/-- Where the CORE fields of a gang instance stand (R329, R331). -/
def coreFields (gangdesc : W64) (gd : List Byte) (inst : Nat) : W64 :=
  if inst = 0 then gangdesc + 0xD0 else fldW gd 0xF0 + BitVec.ofNat 64 (32 * (inst - 1))

/-- The physical core that a member of the current instance is placed on (R350); none where the field holds 0xFFFF. -/
def State.memberCore (s : State) (p : Nat) (node : W64) (inst m : Nat) : HubRes (Option Nat) :=
  match s.node? p node with
  | none => .ok (none, s)
  | some n =>
    let ga := fldW n.block 0xE0
    match s.hubGet p none 5 ga 256 with
    | .error e => .error e
    | .ok (gd, s) => match s.hubGet p none 2 (coreFields ga gd inst + BitVec.ofNat 64 (2 * m)) 2 with
      | .error e => .error e
      | .ok (b, s) =>
        let l := fld b 0 2
        .ok (if l = 0xFFFF ∨ 16 ≤ m then none else vget none (s.part p).bound l, s)

/-- The pipe descriptor of a command as it is read: nothing yet where an A update has performed, or the read has arrived at a scratchpad's port
(R271, R276, R350). -/
def State.descRead (s : State) (g : Nat) (x : XCmd) : HubRes (Option (List Byte)) :=
  match s.access g x.desc needR .scratchpads with
  | .wait => .error .wait
  | .updated t => .ok (none, t)
  | .fault t k => .error (.fault t k)
  | .ok t y => match y.loc with
    | .port p off => match t.portTry (whoCopy g) p off with
      | none => .error .wait
      | some (false, t) => .ok (none, t.setCopy g { x with portAt := some p })
      | some (true, t) =>
        .ok (some ((t.core p).spadRead off 64), t.setCopy g { x with portAt := .none, served := s.servedAt p x.served })
    | _ => match t.locRead (some (Config.dieOf g)) y 64 with
      | .error e => .error e
      | .ok (b, t) => .ok (some b, t)

/-- The start of a PPUT or PGET: its checks, its condition, and its places (R350). -/
def State.startPipe (s : State) (g : Nat) (x : XCmd) (put : Bool) : Option State :=
  let p := s.partOf g
  match s.descRead g x with
  | .error .wait => none
  | .error (.owes w) => s.payPte w
  | .error (.fault t k) => some (t.xFault g x k x.desc)
  | .ok (none, t) => some t
  | .ok (some b, t) =>
    let waited := x.portAt.isSome
    let x := (t.core g).flow.xq.headD x
    let size := fld b 8 4
    let n := if x.len = 0 then size else x.len
    let loc := (if put then x.src else x.dst).toNat
    match (t.core g).step.bind fun st => st.member.map fun m => (st, m) with
    | none => some (t.xFault g x .engine 0)
    | some (st, inst, mi) =>
      if mi ≠ fld b (if put then 0 else 2) 2 ∨ size < n ∨ !pipeOk b then some (t.xFault g x .engine 0)
      else match t.memberCore p st.node inst (fld b 2 2) with
        | .error .wait => none
        | .error (.owes w) => s.payPte w
        | .error (.fault t k) => some (t.xFault g x k x.desc)
        | .ok (none, t) => some (t.xFault g x .engine 0)
        | .ok (some q, t) =>
          if Config.spadBytes < loc + n then some (t.xFault g x .perm (BitVec.ofNat 64 loc))
          else if fld b (if put then 0x18 else 0x1C) 4 = 0 then (if waited then some t else none)
          else
            let slot (o : Nat) : W64 := BitVec.ofNat 64 (fld b 4 4 + fld b o 4 * size)
            some (t.setCopy g { x with
              started := true, len := n, rows := 1, src := if put then x.src else slot 0x10, dst := if put then slot 0x14 else x.dst
              peer := if put then q else g, vc := some (t.ord.dieClock (Config.dieOf g)) })

/-- COPY_COMMAND_START (R295, R348, R350): every queue operation issued before the command has performed; those that a trap entry set aside
do not hold a handler's command (R234). -/
def execCopyCommandStart (g : Nat) (s : State) : Host.Outcome State Fault Refusal :=
  coreEvent "COPY_COMMAND_START" g (
    let c := s.core g
    match c.flow.xq with
    | [] => none
    | x :: _ =>
      if x.started || x.fault.isSome || c.flow.mem.any fun q => q.seq < x.seq then none
      else match x.op with
        | .pput _ _ _ _ => s.startPipe g x true
        | .pget _ _ _ _ => s.startPipe g x false
        | _ =>
          if 2 ^ 32 ≤ x.len then some (s.xFault g x .engine 0)
          else some (s.setCopy g { x with started := true, vc := some (s.ord.dieClock (Config.dieOf g)) }))

/-! ## Completion (R350, R351) -/

/-- The pipe counts after a PPUT or a PGET, over the 32 bytes from HEAD to GETS (R350). -/
def pipeStep (put : Bool) (slots : Nat) (b : List Byte) : List Byte :=
  let next (x : Nat) : Nat := (x + 1) % max 1 slots
  let head := fld b 0 4
  let tail := fld b 4 4
  let free := fld b 8 4
  let full := fld b 12 4
  let dn (x : Nat) : List Byte := natBytes 4 ((x + 2 ^ 32 - 1) % 2 ^ 32)
  let up (x : Nat) : List Byte := natBytes 4 ((x + 1) % 2 ^ 32)
  if put then natBytes 4 head ++ natBytes 4 (next tail) ++ dn free ++ up full ++ bytesOf 8 (fldW b 16 + 1) ++ bytesOf 8 (fldW b 24)
  else natBytes 4 (next head) ++ natBytes 4 tail ++ up free ++ dn full ++ bytesOf 8 (fldW b 16) ++ bytesOf 8 (fldW b 24 + 1)

/-- The descriptor atomic of a pipe command: done, as the command then says, still to be done (its A or D update has performed, or it has
arrived at a port), to be waited for, or faulting. One served at a port notes the clock there (R293). -/
def State.pipeAtomic (s : State) (g : Nat) (x : XCmd) (put : Bool) : Except HubStop State :=
  let d := Config.dieOf g
  match s.access g x.desc needRW .scratchpads with
  | .wait => .error .wait
  | .updated t => .ok t
  | .fault t k => .error (.fault t k)
  | .ok s y =>
    let done : XCmd := { x with moved := true, portAt := .none }
    let slots (b : List Byte) : Nat := fld b 0xC 2
    match y.loc with
    | .mem _ =>
      let b := s.hubRead d y.pa 64
      if s.ord.mayArbitrate d y.pa then
        .ok (((s.onOrd fun o => o.arbitrated d (y.pa + 0x10) (pipeStep put (slots b) ((b.drop 0x10).take 32))).onXneed g).setCopy g done)
      else .error .wait
    | .host =>
      let b := amRead s.ord.host y.pa 64
      .ok ((s.onOrd fun o => { o with host := amWrite o.host (y.pa + 0x10) (pipeStep put (slots b) ((b.drop 0x10).take 32)) }).setCopy g done)
    | .port p off =>
      if !s.portClock g p x.vc then .error .wait
      else match s.portTry (whoCopy g) p off with
        | none => .error .wait
        | some (false, s) => .ok (s.setCopy g { x with portAt := some p })
        | some (true, s) =>
          let b := (s.core p).spadRead off 64
          .ok ((s.onCore p fun c => c.spadWrite (off + 0x10) (pipeStep put (slots b) ((b.drop 0x10).take 32))).setCopy g
            { done with wrote := s.servedAt p x.wrote })
    | .reg _ _ => .error (.fault s .perm)

/-- A command leaves its engine: its token completes, and its NODE's count is decremented (R346, R351), with the queue of the step's block; of a step
of a static launch, which has none, the first queue of its partition (DESIGN CHOICE, log entry 17). -/
def State.copyDone (s : State) (g : Nat) (x : XCmd) : State :=
  let s := s.onCore g fun c =>
    let c := (c.raise 10 x.bundle (.iff x.lost .latch)).tokDone (some x.tok)
    { c with flow := { c.flow with xq := c.flow.xq.tail } }
  if x.node = 0 then s
  else
    let q := match (s.core g).step.bind fun st => s.node? st.part st.node with
      | some n => n.queue
      | none => (s.part (s.partOf g)).inForce.qfirst.toNat
    s.onOrd fun o => { o with waiting := o.waiting ++
      [{ core := Config.nCores, line := 0, dec := some { part := s.partOf g, node := x.node, queue := q, die := Config.dieOf g, pred := none } }] }

/-- Every byte of a command, and the atomic on its pipe's descriptor, has performed, and the clock of its die covers those of the ports that served
it (R293, R295, R350). -/
def State.copyOver (s : State) (g : Nat) (x : XCmd) : Bool :=
  decide (x.total ≤ x.bytes) && (x.moved || !x.pipe) && s.covered g x.served && s.covered g x.wrote

/-- COPY_COMMAND_COMPLETE (R350, R351): every byte has performed, and every port that served the command is covered (R293); the atomic on a pipe's
descriptor comes after the bytes. -/
def execCopyCommandComplete (g : Nat) (s : State) : Host.Outcome State Fault Refusal :=
  coreEvent "COPY_COMMAND_COMPLETE" g (match (s.core g).flow.xq with
    | [] => none
    | x :: _ =>
      if !x.started || x.fault.isSome || decide (x.bytes < x.total) || !s.covered g x.served then none
      else if x.pipe && !x.moved then
        match s.pipeAtomic g x (match x.op with | .pput _ _ _ _ => true | _ => false) with
        | .error (.fault t k) => some (t.xFault g x k x.desc)
        | .error _ => none
        | .ok t => match (t.core g).flow.xq with
          | y :: _ => some (if t.copyOver g y then t.copyDone g y else t)
          | [] => some t
      else if s.copyOver g x then some (s.copyDone g x)
      else none)

/-! ## The hub copy engine (R328, R351) -/

/-- The command values of a copy node (R328, R346). -/
def nodeCmd (n : Node) : XCmd :=
  { op := .xgo 0, bundle := 0, sched := 0, tok := 0, seq := 0, fill := (fldW n.block 0x08).getLsbD 0, dst := fldW n.block 0x10
    src := fldW n.block 0x18, len := fld n.block 0x20 8, rows := fld n.block 0x28 8, dstride := fldW n.block 0x30
    sstride := fldW n.block 0x38, node := 0, desc := 0, started := true, bytes := n.progress, buf := none, peer := 0, served := none
    wrote := none, moved := false, vc := none, portAt := .none, lost := false, stuck := false, fault := none }

/-- The cause for which a copy node's command cannot run (R346, R347). -/
def nodeBad (n : Node) : Option Cause :=
  let x := nodeCmd n
  if 2 ≤ fld n.block 0x08 8 ∨ 2 ^ 32 ≤ x.len ∨ 2 ^ 32 ≤ x.rows then some .engine
  else if x.dst.toNat % 64 ≠ 0 ∨ (!x.fill ∧ x.src.toNat % 64 ≠ 0) ∨ x.len % 64 ≠ 0 ∨ x.dstride.toNat % 64 ≠ 0 ∨
      x.sstride.toNat % 64 ≠ 0 then some .align
  else none

/-- The die on whose behalf a node is run: home to the node's line (R296, R328). -/
def State.nodeDie (s : State) (p : Nat) (va : W64) : Nat :=
  match s.translate p none none va needNone with | .ok x => homeDie x.pa | .fault _ _ => 0

/-- The engine takes the first ready copy node of a partition (R328). -/
def State.copyTake (s : State) (p : Nat) : Option State :=
  match (s.part p).ready.findSome? fun k => match k with
    | .node va => (s.node? p va).bind fun n => if n.copy && !n.parked then some n else none
    | _ => none with
  | none => none
  | some n => match nodeBad n with
    | some k => s.hubNext (s.finishNode n none stFault (CoreSt.causeCode k) false)
    | none => s.hubNext ((s.setStatus p none n.addr stRunning).map fun t =>
        let h : HubCopy := { part := p, node := n.addr, buf := none, vc := s.ord.dieClock (s.nodeDie p n.addr), served := none
                             wrote := none, need := n.need, portAt := .none, stuck := false }
        { t with hub := { t.hub with hubCopy := some h } })

/-- Change the running copy node's record. -/
def State.setHubCopy (s : State) (h : Option HubCopy) : State := { s with hub := { s.hub with hubCopy := h } }

/-- PROGRESS of a copy node, as the bytes performed stand in memory (R328). -/
def State.putProgress (s : State) (n : Node) (k : Nat) : Except HubStop State :=
  match s.hubPut n.part none 2 (n.addr + 0xEC) (natBytes 4 (k % 2 ^ 32)) with
  | .error (.fault t _) => .ok t
  | r => r

/-- A copy node parks: its progress stands in memory, its STATE is PARKED, and a fault record goes to the supervisor (R351). The writes that
it has made stay with the node, whose record waits for them (R319). -/
def State.copyPark (s : State) (h : HubCopy) (n : Node) (k : Cause) (va : W64) : Except HubStop State :=
  match s.setStatus n.part none n.addr stParked with
  | .error e => .error e
  | .ok t => (t.putProgress n n.progress).map fun t =>
    ((t.onNode n.part n.addr fun m => { m with parked := true, need := clkMax m.need h.need, prior := Config.nCores :: m.prior }).onPart n.part fun pt => { pt with
      copyFaults := pt.copyFaults ++ [{ node := n.addr, cause := k, va := va.setWidth 60, progress := n.progress }] }).setHubCopy none

/-- One line read or written by the hub copy engine; a line read at a port is written on once the clock of the node's die covers the port's
(R293, R295). -/
def State.copyLine (s : State) (h : HubCopy) (n : Node) : Except HubStop State :=
  let d := s.nodeDie h.part h.node
  let x := { nodeCmd n with buf := h.buf }
  let at_ (q : Nat) (t : State) (v : Option Clock) : Option Clock := some (clkMax (t.ord.dieClock (Config.dieOf q)) (v.getD clkZero))
  let put (t : State) (wrote : Option Clock) : Except HubStop State :=
    (t.putProgress n (n.progress + 64)).map fun u => (u.onNode h.part h.node fun m => { m with progress := m.progress + 64 }).setHubCopy
      (some { h with buf := none, portAt := .none, wrote := wrote, need := clkMax h.need (gained s.ord t.ord) })
  match x.line with
  | none => match s.accessFor h.part none (some d) x.srcVa needR .scratchpads with
    | .owes w => .error (.owes w)
    | .fault t k => t.copyPark h n k x.srcVa
    | .ok t y => match y.loc with
      | .port q off =>
        match t.portTry whoHub q off with
        | none => .error .wait
        | some (false, t) => .ok (t.setHubCopy (some { h with portAt := some q }))
        | some (true, t) =>
          .ok (t.setHubCopy (some { h with buf := some (ofBytes 512 ((t.core q).spadRead off 64)), portAt := .none, served := at_ q t h.served }))
      | _ => match t.locRead (some d) y 64 with
        | .ok (b, t) => .ok (t.setHubCopy (some { h with buf := some (ofBytes 512 b) }))
        | .error _ => t.copyPark h n .perm x.srcVa
  | some l =>
    if !clkGe (s.ord.dieClock d) (h.served.getD clkZero) then .error .wait
    else match s.accessFor h.part none (some d) x.dstVa needW .windows with
    | .owes w => .error (.owes w)
    | .fault t k => t.copyPark h n k x.dstVa
    | .ok t y => match y.loc with
      | .reg q off => (match t.depositLine h.part q off (bytesOf 64 l) with
        | none => .error .wait
        | some t => put t h.wrote)
      | .port q off =>
        if !clkGe (s.ord.dieClock (Config.dieOf q)) h.vc then .error .wait
        else match t.portTry whoHub q off with
          | none => .error .wait
          | some (false, t) => .ok (t.setHubCopy (some { h with portAt := some q }))
          | some (true, t) => put (t.onCore q fun c => c.spadWrite off (bytesOf 64 l)) (at_ q t h.wrote)
      | _ => put (t.locWrite (some d) y (bytesOf 64 l)) h.wrote

/-- The running copy node moves a line, or is DONE once its writes have reached the host (R319, R351). -/
def State.copyAdvance (s : State) (h : HubCopy) : Option State :=
  match s.node? h.part h.node with
  | none => some (s.setHubCopy none)
  | some n =>
    if h.stuck then none
    else if n.progress < (nodeCmd n).total then s.hubNext (s.copyLine h n)
    else if s.ord.appliedAll h.need && !(s.ord.sent.any fun e => e.core == Config.nCores) &&
        clkGe (s.ord.dieClock (s.nodeDie h.part h.node)) (clkMax (h.served.getD clkZero) (h.wrote.getD clkZero)) then
      s.hubNext ((s.finishNode n none stDone 0 false).map fun t => t.setHubCopy none)
    else none

/-- COPY_NODE_RUN (R328): the hub copy engine takes a ready copy node of a partition, or goes on with the one it runs. -/
def execCopyNodeRun (p : Nat) (s : State) : Host.Outcome State Fault Refusal :=
  event "COPY_NODE_RUN" (match s.hub.hubCopy with
    | none => s.copyTake p
    | some h => if h.part = p then s.copyAdvance h else none)

/-- COPY_NODE_RESUME (R351): the supervisor writes STATE READY. -/
def execCopyNodeResume (p : Nat) (node : W64) (s : State) : Host.Outcome State Fault Refusal :=
  event "COPY_NODE_RESUME" (match s.node? p node with
    | some n =>
      if n.parked then s.hubNext ((s.setStatus p none node stReady).map fun t => t.onNode p node fun m => { m with parked := false })
      else none
    | none => none)

end Sys2Proof.Machine
end

