-- ==== Sys2Proof/Machine/Digest.lean ====
section
/-! DEFINITION. SHA-384, the digest that the token names (R373), written from FIPS 180-4
(log entry 9). -/

namespace Sys2Proof.Machine

/-- Primes tested by trial division: whether n has no divisor d from 2 on. -/
def noDivisor (n : Nat) : Nat → Bool
  | 0 => true
  | k + 1 => (decide (n % (k + 2) ≠ 0) || decide (k + 2 = n)) && noDivisor n k
/-- The first n primes among the numbers of a list. -/
def primesFrom (l : List Nat) (n : Nat) : List Nat := (l.filter fun x => decide (2 ≤ x) && noDivisor x (x - 1)).take n
/-- The greatest r below 2^b with f r at most t, by bisection from the top bit. -/
def rootBelow (f : Nat → Nat) (t : Nat) : Nat → Nat → Nat
  | 0, r => r
  | b + 1, r => rootBelow f t b (if f (r + 2 ^ b) ≤ t then r + 2 ^ b else r)

/-- The constants K: the first 64 bits of the fractional parts of the cube roots of the first 80 primes. -/
def shaK : List W64 := (primesFrom (List.range 410) 80).map fun p => BitVec.ofNat 64 (rootBelow (fun r => r * r * r) (p * 2 ^ 192) 68 0)
/-- The initial value: the first 64 bits of the fractional parts of the square roots of the ninth to the sixteenth primes. -/
def shaInit : List W64 :=
  ((primesFrom (List.range 60) 16).drop 8).map fun p => BitVec.ofNat 64 (rootBelow (fun r => r * r) (p * 2 ^ 128) 68 0)

/-- Rotation to the right. -/
def ror64 (x : W64) (n : Nat) : W64 := (x >>> n) ||| (x <<< (64 - n))
/-- The mixing functions of the message schedule and of a round. -/
def shaS0 (x : W64) : W64 := ror64 x 1 ^^^ ror64 x 8 ^^^ (x >>> 7)
def shaS1 (x : W64) : W64 := ror64 x 19 ^^^ ror64 x 61 ^^^ (x >>> 6)
def shaB0 (x : W64) : W64 := ror64 x 28 ^^^ ror64 x 34 ^^^ ror64 x 39
def shaB1 (x : W64) : W64 := ror64 x 14 ^^^ ror64 x 18 ^^^ ror64 x 41

/-- The message schedule, newest word first. -/
def shaSchedule : Nat → List W64 → List W64
  | 0, w => w
  | n + 1, w => shaSchedule n ((shaS1 (w.getD 1 0) + w.getD 6 0 + shaS0 (w.getD 14 0) + w.getD 15 0) :: w)

/-- A round over the working variables a to h. -/
def shaRound (v : List W64) (kw : W64 × W64) : List W64 :=
  match v with
  | [a, b, c, d, e, f, g, h] =>
    let t1 := h + shaB1 e + ((e &&& f) ^^^ (~~~e &&& g)) + kw.1 + kw.2
    let t2 := shaB0 a + ((a &&& b) ^^^ (a &&& c) ^^^ (b &&& c))
    [t1 + t2, a, b, c, d + t1, e, f, g]
  | _ => v

/-- A big-endian word of eight bytes. -/
def beWord (bs : List Byte) : W64 := bs.foldl (fun (x : W64) b => (x <<< 8) ||| b.setWidth 64) 0
/-- The bytes of a word, most significant first. -/
def beBytes (x : W64) : List Byte := (List.range 8).map fun i => x.extractLsb' (56 - 8 * i) 8

/-- One block of 128 bytes. -/
def shaBlock (h : List W64) (bs : List Byte) : List W64 :=
  let ws := (shaSchedule 64 (((List.range 16).map fun i => beWord ((bs.drop (8 * i)).take 8)).reverse)).reverse
  List.zipWith (fun x y => x + y) h ((shaK.zip ws).foldl shaRound h)
/-- The blocks of a padded message. -/
def shaBlocks : Nat → List W64 → List Byte → List W64
  | 0, h, _ => h
  | n + 1, h, bs => shaBlocks n (shaBlock h (bs.take 128)) (bs.drop 128)

/-- The padded message: a one bit, zeros, and the length in bits as a 128-bit big-endian number. -/
def shaPad (bs : List Byte) : List Byte :=
  let n := bs.length
  bs ++ [0x80] ++ List.replicate ((111 + 128 - n % 128) % 128) (0 : Byte) ++ beBytes (BitVec.ofNat 64 (8 * n / 2 ^ 64)) ++ beBytes (BitVec.ofNat 64 (8 * n))

/-- The 48 bytes of the SHA-384 digest of a message. -/
def sha384 (bs : List Byte) : List Byte :=
  let m := shaPad bs
  ((shaBlocks (m.length / 128) shaInit m).take 6).flatMap beBytes

end Sys2Proof.Machine
end

