-- ==== Sys2Proof/Machine/Ecdsa.lean ====
section
/-! DEFINITION. The signature of the elision token (R373): ECDSA over brainpoolP384r1 (RFC 5639) with SHA-384, the per-signature value
derived as RFC 6979 lays down. The curve's constants and both algorithms are those of the RFCs that the rule names (PRESUMED, log
entry 9). -/

namespace Sys2Proof.Machine

/-! ## The curve brainpoolP384r1 -/

/-- The field's prime. -/
def bpP : Nat := 0x8CB91E82A3386D280F5D6F7E50E641DF152F7109ED5456B412B1DA197FB71123ACD3A729901D1A71874700133107EC53
/-- The coefficient A of y² = x³ + A x + B. -/
def bpA : Nat := 0x7BC382C63D8C150C3C72080ACE05AFA0C2BEA28E4FB22787139165EFBA91F90F8AA5814A503AD4EB04A8C7DD22CE2826
/-- The base point. -/
def bpG : Nat × Nat :=
  (0x1D1C64F068CF45FFA2A63A81B7C13F6B8847A3E77EF14FE3DB7FCAFE0CBD10E8E826E03436D646AAEF87B2E247D4AF1E,
   0x8ABE1D7520F9C2A45CB1EB8E95CFD55262B70B29FEEC5864E19C054FF99129280E4646217791811142820341263C5315)
/-- The order of the base point. -/
def bpQ : Nat := 0x8CB91E82A3386D280F5D6F7E50E641DF152F7109ED5456B31F166E6CAC0425A7CF3AB6AF6B7FC3103B883202E9046565

/-- A power modulo m, over the low bits of the exponent. -/
def powMod (m : Nat) : Nat → Nat → Nat → Nat
  | 0, _, _ => 1
  | f + 1, b, e =>
    let r := powMod m f (b * b % m) (e / 2)
    if e % 2 = 1 then b * r % m else r
/-- The inverse modulo a prime of 384 bits. -/
def invMod (m x : Nat) : Nat := powMod m 384 (x % m) (m - 2)

/-- The sum of two points; none is the point at infinity. -/
def bpAdd (p q : Option (Nat × Nat)) : Option (Nat × Nat) :=
  p.elim q fun a => q.elim (some a) fun b =>
    let third (slope : Nat) : Option (Nat × Nat) :=
      let w := (slope * slope + 2 * bpP - a.1 - b.1) % bpP
      some (w, (slope * (a.1 + bpP - w) + bpP - a.2) % bpP)
    if a.1 = b.1 then
      if (a.2 + b.2) % bpP = 0 then none else third ((3 * a.1 * a.1 + bpA) * invMod bpP (2 * a.2) % bpP)
    else third ((b.2 + bpP - a.2) * invMod bpP (b.1 + bpP - a.1) % bpP)
/-- A multiple of a point, over the low bits of the factor. -/
def bpMul : Nat → Nat → Option (Nat × Nat) → Option (Nat × Nat)
  | 0, _, _ => none
  | f + 1, k, p =>
    let r := bpMul f (k / 2) (bpAdd p p)
    if k % 2 = 1 then bpAdd p r else r

/-! ## The per-signature value (RFC 6979) -/

/-- A number as 48 bytes, most significant first, and back. -/
def be48 (x : Nat) : List Byte := (List.range 48).map fun i => BitVec.ofNat 8 (x / 256 ^ (47 - i))
def ofBe (bs : List Byte) : Nat := bs.foldl (fun n b => 256 * n + b.toNat) 0

/-- HMAC with SHA-384, for a key of at most 128 bytes. -/
def hmac384 (key msg : List Byte) : List Byte :=
  let k := key ++ List.replicate (128 - key.length) 0
  sha384 ((k.map fun b => b ^^^ 0x5C) ++ sha384 ((k.map fun b => b ^^^ 0x36) ++ msg))

/-- The key and value of the generator after the digest and the private key have been taken in. -/
def nonceSeed (x h : Nat) : List Byte × List Byte :=
  let d := be48 x ++ be48 (h % bpQ)
  let v := List.replicate 48 (0x01 : Byte)
  let k := hmac384 (List.replicate 48 0) (v ++ [0x00] ++ d)
  let v := hmac384 k v
  let k := hmac384 k (v ++ [0x01] ++ d)
  (k, hmac384 k v)

/-- The signature for the first value of the generator that gives one: r and s of 48 bytes each, most significant first. -/
def signFrom (x h : Nat) : Nat → List Byte × List Byte → List Byte
  | 0, _ => be48 0 ++ be48 0
  | f + 1, (k, v) =>
    let v := hmac384 k v
    let n := ofBe v
    let r := (match bpMul 384 n (some bpG) with | some p => p.1 | none => 0) % bpQ
    let s := invMod bpQ n * (h % bpQ + r * x) % bpQ
    if n = 0 ∨ bpQ ≤ n ∨ r = 0 ∨ s = 0 then
      let k := hmac384 k (v ++ [0x00])
      signFrom x h f (k, hmac384 k v)
    else be48 r ++ be48 s

/-- The signature of a message under a private key. -/
def ecdsaSign (x : Nat) (msg : List Byte) : List Byte :=
  let h := ofBe (sha384 msg)
  signFrom x h 256 (nonceSeed x h)

end Sys2Proof.Machine
end

