-- ==== Sys2Proof/Machine/Group.lean ====
section
/-! DEFINITION. The counter reads (R116, R117, R382, R390), the fetch of the group a core has reached (R53, R233), landings (R65),
the timeouts of polls (R127) and the completion of barriers (R29, R129, R407). -/

namespace Sys2Proof.Machine

/-! ## Counter reads -/

/-- The counter that RDCNT reads (R390). -/
def State.readCounter (s : State) (g i : Nat) : W64 :=
  let c := s.core g
  let p := s.partOf g
  let row (d : Nat) : DieCount := vget .reset (vget (.replicate 64 .reset) s.hub.counts d) p
  if i < 0xA0 then c.counter (i / 32) (i % 32)
  else if i = 0x100 then c.flow.sched
  else if i = 0x101 then BitVec.ofNat 64 (match c.step with | some st => st.elapsed / 1000 | none => 0)
  else if 0x110 ≤ i ∧ i ≤ 0x117 then
    (if i % 2 = 0 then (row ((i - 0x110) / 2)).localReq else (row ((i - 0x110) / 2)).remoteReq)
  else if 0x120 ≤ i ∧ i ≤ 0x123 then
    BitVec.ofNat 64 ((vget [] s.ord.ingress (i - 0x120)).filter fun e => e.part == p).length
  else if i = 0x128 then vget 0 s.hub.evictions p
  else if i = 0x129 then (s.part p).debt
  else if 0x200 ≤ i ∧ i < 0x280 then
    let b := vget .reset (vget (.replicate 16 .reset) s.hub.banks (Config.dieOf g)) ((i - 0x200) / 8)
    if b.holder = 1 ∧ b.guest = s.vfOf p then vget 0 b.cnt (i % 8) else 0
  else 0

/-- RDCNT: the counter whose index is a[15:0] (R116, R390). -/
def execRdcnt (d : SDst) (a : SSrc) (s : State) : Host.Outcome State Fault Refusal :=
  landS (.rdcnt d a) d (fun c => (s.readCounter s.cur ((c.src a).toNat % 65536), c.srcFlag a)) s

/-- RDTIME: the copy of the time counter on the core's die, as it stands at issue (R116, R382). -/
def execRdtime (d : SDst) (s : State) : Host.Outcome State Fault Refusal :=
  landS (.rdtime d) d (fun _ => (vget 0 s.dieTime (Config.dieOf s.cur), 0)) s

/-- A word of the core descriptor (R117). -/
def State.descWord (s : State) (g i : Nat) : W64 :=
  let p := s.partOf g
  let c := s.core g
  if i = 0 then
    BitVec.ofNat 64 (p * 2 ^ 34 + (if c.classB then 2 ^ 33 else 0) + Config.dieOf g * 2 ^ 31 + Config.quadOf g * 2 ^ 26 +
      c.logical % 512 * 2 ^ 17 + g * 2 ^ 8)
  else if i = 1 then BitVec.ofNat 64 (s.partCores p).length
  else 0
/-- RDDESC (R116, R117). -/
def execRddesc (d : SDst) (a : SSrc) (s : State) : Host.Outcome State Fault Refusal :=
  landS (.rddesc d a) d (fun c => (s.descWord s.cur ((c.src a).toNat % 16), c.srcFlag a)) s

/-! ## Fetch -/

/-- The address of the group a core reaches next. -/
def CoreSt.pcVa (c : CoreSt) : W64 := c.pc.setWidth 64 ||| (c.pcHigh.setWidth 64 <<< 60)

/-- The A updates of the pages of some fetched bytes; none where one has to wait (R271). -/
def State.touchPages (s : State) (g : Nat) : Nat → W64 → Nat → Option State
  | 0, _, _ => some s
  | f + 1, va, n =>
    if n = 0 then some s
    else match s.touchX g va with
      | none => none
      | some s => let k := min n (4096 - va.toNat % 4096); s.touchPages g f (va + BitVec.ofNat 64 k) (n - k)

/-- The A update that a fetch owes although it faults; none where it has to wait (R271). An address above 2^56 is not walked. -/
def State.touchFault (s : State) (g : Nat) (va : Addr) : Option State :=
  if 2 ^ 56 ≤ va.toNat then some s else s.touchX g (va.setWidth 64)

/-- The record of a fetch fault (R237). -/
def CoreSt.fetchTrap (c : CoreSt) (k : Cause) (va : Addr) : TrapInfo :=
  { CoreSt.blankTrap k with fetch := true, bundle := c.pc, resume := c.pc, va := va, sched := c.flow.sched }

/-- A core reaches a group, with its fetch stalls to come (R53). A timeout of R127 runs from here: whether the cycle in which a group is
reached lies before its fetch stalls and its window drain is the model's choice (DESIGN CHOICE, log entry 73). -/
def CoreSt.reach (c : CoreSt) (x : Group) (stalls : Nat) (now : W64) : CoreSt :=
  { c with reached := { c.reached with grp := some x, since := some now, fetchLeft := stalls } }

/-- The bytes that a core fetches at an address are those of code that colmer has bound for its step's partition: it runs no other (R5). -/
def State.boundCode (s : State) (g : Nat) (va : W64) (n : Nat) : Bool :=
  match s.fetchWords g (n / 4) va with
  | .ok bs => bs.zipIdx.all fun x => amGet 0 (s.part (s.partOf g)).code (va.toNat + x.2) == 256#9 ||| x.1.setWidth 9
  | .error _ => false

/-- The group at the program counter arrives, or its fetch faults: from the loop buffer with no fetch at all, else from memory
(R53, R123, R233); a fetch that met an uncorrectable error does not complete (R288), nor does one whose bytes colmer has not bound (R5; log
entry 105). -/
def State.fetchNow (s : State) (g : Nat) : Option State :=
  let c := s.core g
  if c.reached.stuck then none
  else match if c.pcHigh = 0 then c.buffered c.pc else none with
  | some x => some ((s.findBodies g x.addr).onCore g fun c => c.reach x 0 s.time)
  | none => match s.fetchGroup g c.pcVa with
    | .error (k, va) => ((s.touchPages g 4 c.pcVa (va.toNat - c.pc.toNat)).bind fun s => s.touchFault g va).map fun s =>
        s.takeTrapOn g (c.fetchTrap k va)
    | .ok x => if !s.boundCode g c.pcVa x.len then none else (s.touchPages g 4 c.pcVa x.len).map fun s =>
        (s.findBodies g x.addr).onCore g fun c => c.reach x ((x.len - 1) / 64) s.time

/-- A core that may reach its next group: it runs, no group is reached, and its fetch has met no uncorrectable error (R288). -/
def CoreSt.fetches (c : CoreSt) : Bool := c.status == .running && c.reached.grp.isNone && !c.reached.stuck && decide (c.flow.empty = 0) && !c.dbg.stopped

/-- The first page of a group to fetch whose A bit is still to be set (R271): of those before a fetch fault too. -/
def State.fetchOwed (s : State) (g : Nat) : Option W64 :=
  let c := s.core g
  if c.reached.stuck || (decide (c.pcHigh = 0) && (c.buffered c.pc).isSome) then none
  else
    let n := match s.fetchGroup g c.pcVa with | .ok x => x.len | .error (_, va) => va.toNat + 1 - c.pc.toNat
    (c.pcVa :: (if 4096 < c.pcVa.toNat % 4096 + n then [(c.pcVa ||| 0xFFF) + 1] else [])).find? fun va =>
      decide (va.toNat < 2 ^ 56) && s.owesX g va

/-- GROUP_FETCH (R53): the A update of a page that the fetch finds clear is a step before it (R271, R293). -/
def execGroupFetch (g : Nat) (s : State) : Host.Outcome State Fault Refusal :=
  coreEvent "GROUP_FETCH" g (if !(s.core g).fetches then none else match s.fetchOwed g with
    | some va => s.touchX g va
    | none => s.fetchNow g)

/-! ## Landings -/

/-- RESULT_LANDING (R65): the register results due in the coming cycle land. -/
def execResultLanding (g : Nat) (s : State) : Host.Outcome State Fault Refusal :=
  coreEvent "RESULT_LANDING" g (
    let c := s.core g
    if c.flow.flight.any (CoreSt.lands c.flow.cyc) then some (s.setCore g (c.landDue c.flow.cyc)) else none)

/-! ## Timeouts of polls (R127) -/

/-- The timeout of a poll in ns; none for a single poll, so that one which meets an uncorrectable error is held with no end: R127 holds it until
its timeout, and TO = 0 names none (DESIGN CHOICE, log entry 97). -/
def timeoutOf : Instr → Option Nat
  | .waitph _ _ _ tmo | .waitbit _ _ _ tmo => if tmo = 0 then none else some (2 ^ tmo.toNat)
  | _ => none
/-- A poll's timeout has passed. -/
def State.timedOut (s : State) (g : Nat) : Bool :=
  let r := (s.core g).reached
  match r.polling, r.since with
  | some i, some t => r.polled.isNone && r.pollFault.isNone &&
    (match timeoutOf i with | some n => decide (n ≤ (s.time - t).toNat) | none => false)
  | _, _ => false
/-- WAIT_TIMEOUT (R127): the hold ends with the pair false. -/
def execWaitTimeout (g : Nat) (s : State) : Host.Outcome State Fault Refusal :=
  coreEvent "WAIT_TIMEOUT" g (
    if s.timedOut g then
      some (s.onCore g fun c => { c with reached := { c.reached with polled := some false, pollAt := none, pollPort := .none } })
    else none)

/-! ## Barriers (R29, R129, R407) -/

/-- The scope of the BAR at which a core has arrived. -/
def CoreSt.barScope (c : CoreSt) : Option (BitVec 3) :=
  if !c.reached.arrived then none
  else c.reached.grp.bind fun x => x.slots.findSome? fun y => match y.2.1.op with | .bar sc => some sc | _ => none

/-- Two steps belong to one static launch or one gang instance (R129). -/
def sameLaunch (a b : StepInfo) : Bool :=
  (a.isStatic && b.isStatic && a.part == b.part) ||
    (!a.isStatic && !b.isStatic && a.part == b.part && a.node == b.node &&
      (match a.member, b.member with | some x, some y => x.1 == y.1 | _, _ => false))

/-- A core lies within a scope around another (R27, R29). -/
def inScope (sc : BitVec 3) (g h : Nat) : Bool :=
  match sc.toNat with
  | 0 => g == h
  | 1 => g / 4 == h / 4
  | 2 => Config.dieOf g == Config.dieOf h
  | _ => true

/-- A step belongs to another's barrier (R29, R129): one of its launch or gang, and at `.pod` one of a launch or gang of another partition of its
pod group (R407). -/
def State.barMate (s : State) (sc : BitVec 3) (st t : StepInfo) : Bool :=
  sameLaunch st t ||
    (sc == 4 && t.grouped && t.part != st.part && (s.part t.part).podgroup != 0 && (s.part t.part).podgroup == (s.part st.part).podgroup)
/-- The members of a core's barrier on this module that are resident (R29, R129). -/
def State.barMembers (s : State) (g : Nat) (sc : BitVec 3) : List Nat :=
  match (s.core g).step with
  | none => []
  | some st => (List.range Config.nCores).filter fun h => inScope sc g h && (match (s.core h).step with
    | some t => s.barMate sc st t
    | none => false)
/-- A member that is saved or waits to restart: it has not arrived, and counts in the scopes around the core it last ran on (R129, log
entry 85). -/
def State.barAbsent (s : State) (g : Nat) (sc : BitVec 3) : Bool :=
  match (s.core g).step with
  | none => false
  | some st => (List.range Config.nPartitions).any fun p =>
      (((s.part p).saved.map fun x => x.step) ++ (s.part p).restarts).any fun t => s.barMate sc st t && inScope sc g t.place

/-- Every member of a core's barrier has arrived, and none waits for a member on a module that has been removed (R129, R408). Arrivals of
other modules at a `.pod` barrier come from outside. -/
def State.barReady (s : State) (g : Nat) (sc : BitVec 3) : Bool :=
  let orphan (h : Nat) : Bool := match (s.core h).step with | some st => st.orphan | none => false
  ((s.barMembers g sc).all fun h => (s.core h).barScope == some sc && !(s.core h).reached.released) && !s.barAbsent g sc &&
    !(sc == 4 && (s.pkg.lost.contains (s.part (s.partOf g)).podgroup || (s.barMembers g sc).any orphan))

/-- BARRIER_COMPLETION (R129): every member of the barrier that a core waits at is released. -/
def execBarrierCompletion (g : Nat) (s : State) : Host.Outcome State Fault Refusal :=
  coreEvent "BARRIER_COMPLETION" g (match (s.core g).barScope with
    | none => none
    | some sc =>
      if (s.core g).reached.released || !s.barReady g sc then none
      else some ((s.barMembers g sc).foldl (fun s h => s.onCore h fun c => { c with reached := { c.reached with released := true } }) s))

end Sys2Proof.Machine
end

