-- ==== Sys2Proof/Machine/Sched.lean ====
section
/-! DEFINITION. The scheduler of a partition: doorbells and dequeue (R318 to R320), the ready list and deficit round-robin (R331 to
R335), dispatch of steps and gangs (R37, R39, R42), static launches (R43, R364), pre-emption requests and yields (R46, R334,
R335), gang reservation (R47) and token delivery (R374). -/

namespace Sys2Proof.Machine

/-! ## Doorbells and dequeue -/

/-- The host's entries from the old TAIL on (R318). -/
def ringFill (ring : AMap W64) (size t : Nat) : List W64 → AMap W64
  | [] => ring
  | e :: es => ringFill (amSet 0 ring (t % max 1 size) e) size (t + 1) es

/-- A write of TAIL: more entries than SIZE set STATE[3] (R318). -/
def State.doorbell (s : State) (q : Nat) (tail : W32) : State :=
  s.onQueue q fun x => { x with tail := tail, state := if x.size < tail - x.head then x.state ||| 8 else x.state }

/-- HOST_DOORBELL (R318): the host writes ring entries, and then TAIL. -/
def execHostDoorbell (q : Nat) (tail : W32) (entries : List W64) (s : State) : Host.Outcome State Fault Refusal :=
  event "HOST_DOORBELL" (if q < Config.nQueues then
    some ((s.onQueue q fun x => { x with ring := ringFill x.ring x.size.toNat x.tail.toNat entries }).doorbell q tail) else none)

/-- A partition's queues may be dequeued: no reset runs, and none has purged them without the scrub's token being stored (R368, R401). -/
def Part.dequeues (pt : Part) : Bool := !pt.purged && pt.resetting.isNone

/-- DEQUEUE (R319): one entry of a queue. -/
def execDequeue (q : Nat) (s : State) : Host.Outcome State Fault Refusal :=
  event "DEQUEUE" (
    let s₀ := s
    let x := s.queue q
    let p := x.part
    if !x.enabled || x.faulted || x.count == 0 || !(s.part p).dequeues || (s.part p).readyFull then none
    else
      let s := s.swapIn q
      let va := amGet 0 x.ring (x.head.toNat % max 1 x.size.toNat)
      let s := s.onQueue q fun x => { x with head := x.head + 1, lastuse := s.time }
      s₀.hubNext (s.takeNode p q va false))

/-! ## Code variants (R69, R342) -/

/-- An image has code for cores of a class: its own, a rescheduled variant, or class-A code held by cr.compat. -/
def imgAdmits (i : Image) (classB : Bool) : Bool := i.classB == classB || i.other.isSome || (!i.classB && classB)
/-- The code that a core of a class runs. -/
def imgVariant (i : Image) (classB : Bool) : Variant := if i.classB == classB then i.own else i.other.getD i.own
/-- The places of a variant that answer places of the other: its commas, in the order of its table, and then its entries (R342). -/
def variantPlaces (v : Variant) : List W64 := v.commas.map (fun (e : CommaEntry) => e.addr) ++ v.entries
/-- An address mapped to the variant of a class: comma i of one table to comma i of the other, and an entry to the entry that answers it (R342,
R418; log entry 105). -/
def imgMapAddr (i : Image) (classB : Bool) (a : Addr) : Addr :=
  let find (v : Variant) : Option Nat := (variantPlaces v).findIdx? fun (e : W64) => e.setWidth 60 == a
  let k := match find i.own with | some k => some k | none => (i.other.bind find)
  match k.bind fun k => (variantPlaces (imgVariant i classB))[k]? with
  | some e => e.setWidth 60
  | none => a
/-- The classes a partition's bound image admits. -/
def Part.admits (pt : Part) (classB : Bool) : Bool := match pt.image with | some i => imgAdmits i classB | none => true
/-- An address in the code of a class. -/
def Part.mapAddr (pt : Part) (classB : Bool) (a : Addr) : Addr := match pt.image with | some i => imgMapAddr i classB a | none => a

/-! ## Cores -/

/-- The free cores of a partition that its image admits, while the module runs (R416); not those that a repair drains (R412, R413). -/
def State.freeCores (s : State) (p : Nat) : List Nat :=
  (s.partCores p).filter fun g =>
    (s.core g).status == .free && (s.part p).admits (s.core g).classB && !s.underScrub g && !s.drains g && s.pkg.power == .p0

/-- The cores on which a step of a partition is resident. -/
def State.residents (s : State) (p : Nat) : List Nat :=
  (s.partCores p).filter fun g => (s.core g).step.isSome

/-- OCCUPIED: any step is resident or saved (R360). -/
def State.occupied (s : State) (p : Nat) : Bool :=
  decide (s.residents p ≠ []) || decide ((s.part p).saved ≠ [])

/-- Dispatch may place steps: colmer has bound an image (R5, R340), and no reset or scrub runs (R368, R371). -/
def Part.places (pt : Part) : Bool := pt.loaded.isSome && pt.image.isSome && pt.resetting.isNone && pt.scrub.isNone

/-- A slice of a partition has ended (R336); a running repair delays its end (R415). -/
def State.sliceOver (s : State) (p : Nat) : Bool :=
  match (s.part p).slice with
  | some r => decide (r.len ≤ (s.time - r.start).toNat) && s.repStatus != 1
  | none => false
/-- What colmer wrote at the binding is applied at every die: it binds before any bundle of the image issues (R340). -/
def State.bindApplied (s : State) (p : Nat) : Bool := s.ord.appliedAll (s.part p).bindNeed
/-- A partition's dispatch places steps now: it may, its slice has not ended (R336), and its binding is complete (R340). -/
def State.placesNow (s : State) (p : Nat) : Bool := (s.part p).places && !s.sliceOver p && s.bindApplied p

/-- An address lies in the code of a variant. -/
def variantHolds (v : Variant) (a : W64) : Bool := v.code.any fun x => decide (x.1 ≤ a.toNat) && decide (a.toNat < x.1 + x.2.length)
/-- An entry bundle lies in the code of a partition's bound image: nothing else runs (R5); of an image with two variants, where both have a place
that answers it (R342; log entry 105). -/
def Part.entryOk (pt : Part) (a : W64) : Bool :=
  match pt.image with
  | some i => (match i.other with
    | some v => (variantHolds i.own a || variantHolds v a) && (variantPlaces i.own ++ variantPlaces v).contains a
    | none => variantHolds i.own a)
  | none => false

/-- A step's elapsed time is at least its limit (R395). -/
def StepInfo.expired (st : StepInfo) : Bool := decide (st.limit ≠ 0) && decide (st.limit ≤ st.elapsed / 1000)
/-- The watchdog of a core's step has expired; that of a step stopped by a debugger that owns its core never does (R395, R397). -/
def State.stepExpired (s : State) (g : Nat) : Bool :=
  let c := s.core g
  (match c.step with | some st => st.expired | none => false) && !(c.dbg.stopped && c.dbg.owned)

/-! ## The ready list -/

/-- What an entry of the ready list offers: a step or gang of a block, saved steps to resume, or a step to restart. -/
inductive Offer where
  | block (n : Node)
  | resume (xs : List Saved)
  | restart (st : StepInfo)
  deriving DecidableEq, Repr

/-- The gang instance of a step. -/
def StepInfo.gang (st : StepInfo) : Option (W64 × Nat) := st.member.map fun m => (st.node, m.1)

/-- A block's gang descriptor (R329). -/
def State.gangDesc (s : State) (n : Node) : Option (List Byte) :=
  if blkFlag n.block 2 then (match s.hubTry n.part (fldW n.block 0xE0) 256 with | .ok (b, _) => b | .error _ => none) else none
/-- The members of a block's gang; 1 for a block without GANG. -/
def State.membersOf (s : State) (n : Node) : Nat := match s.gangDesc n with | some d => fld d 0 1 | none => 1
/-- The gang instances of a block that may run at once. -/
def State.instOf (s : State) (n : Node) : Nat := match s.gangDesc n with | some d => fld d 2 1 | none => 0

/-- The saved steps that an entry names: all of a gang instance (R254). -/
def Part.savedOf (pt : Part) (slot : Nat) : List Saved :=
  match pt.saved.find? fun x => x.slot == slot with
  | none => []
  | some x => match x.step.gang with
    | none => [x]
    | some gi => pt.saved.filter fun y => y.step.gang == some gi

/-- What an entry offers. -/
def Part.offer (pt : Part) : Key → Option Offer
  | .node va => (pt.nodes.find? fun n => n.addr == va).map .block
  | .saved k => match pt.savedOf k with | [] => none | xs => some (.resume xs)
  | .restart o => (pt.restarts.find? fun st => st.order == o).map .restart

/-- The block that an offer belongs to. -/
def Offer.node : Offer → W64
  | .block n => n.addr
  | .resume xs => match xs with | x :: _ => x.step.node | [] => 0
  | .restart st => st.node
/-- The queue an offer is attributed to; a step of a static launch has none. -/
def State.offerQueue (s : State) (p : Nat) (o : Offer) : Option Nat :=
  match o with
  | .block n => some n.queue
  | _ => (s.node? p o.node).map fun n => n.queue
/-- The cores an offer occupies (R333). -/
def State.offerNeed (s : State) : Offer → Nat
  | .block n => s.membersOf n
  | .resume xs => xs.length
  | .restart _ => 1

/-- The priority of a queue. -/
def State.prioOf (s : State) (q : Option Nat) : Nat := match q with | some q => (s.queue q).prio | none => 0

/-- The entry bundles of a block: those of a gang's members, or its own (R321, R329). -/
def State.entriesOf (s : State) (n : Node) : List W64 :=
  match s.gangDesc n with
  | some d => (List.range (fld d 0 1)).map fun m => fldW d (0x10 + 8 * m)
  | none => [fldW n.block 8]

/-- An offer is ready: a block has a step left and, for a gang, an instance slot (R331); its queue is enabled, holds no fault and is
not evicted (R318, R320); no block dispatches while a static launch runs (R43); and what starts afresh starts in the bound image (R5). -/
def State.offered (s : State) (p : Nat) (o : Offer) : Bool :=
  let pt := s.part p
  match s.offerQueue p o with
  | none => pt.staticRun
  | some q =>
    (s.queue q).enabled && !(s.queue q).faulted && !(s.queue q).evicted && !pt.staticRun &&
      (match o with
       | .block n => !n.copy && decide (n.next < n.total) &&
          (!blkFlag n.block 2 || decide (n.instances.length < s.instOf n)) && (s.entriesOf n).all pt.entryOk
       | .restart st => pt.entryOk (st.entry.setWidth 64)
       | .resume _ => true)

/-- The offer of a step of a TILEDEP block waits for the ready steps of its predecessors within its priority (R326). -/
def State.tileWaits (s : State) (p : Nat) (o : Offer) : Bool :=
  let pt := s.part p
  let prio (o : Offer) : Nat := s.prioOf (s.offerQueue p o)
  match s.node? p o.node with
  | some n => blkFlag n.block 3 && !n.copy && pt.ready.any fun k => match pt.offer k with
    | some x => x.node != n.addr && prio x == prio o && s.offered p x &&
        (match s.node? p x.node with | some m => m.succs.contains n.addr | none => false)
    | none => false
  | none => false

/-- An offer can be taken now. -/
def State.offerable (s : State) (p : Nat) (o : Offer) : Bool := s.offered p o && !s.tileWaits p o

/-- A block that still waits for its token holds its queue (R374). -/
def gateHolds (n : Node) : Bool :=
  decide (n.next = 0) && (match n.gate with | some g => g.sent.isNone | none => false)

/-- The first entry that each queue offers, in ready-list order (R331, R333). -/
def State.heads (s : State) (p : Nat) : List Key → List (Option Nat) → List (Option Nat × Key × Offer)
  | [], _ => []
  | k :: ks, done => match (s.part p).offer k with
    | none => s.heads p ks done
    | some o =>
      let q := s.offerQueue p o
      if done.contains q then s.heads p ks done
      else
        let held := match o with | .block n => gateHolds n && !n.copy | _ => false
        if held then s.heads p ks (q :: done)
        else if s.offerable p o then (q, k, o) :: s.heads p ks (q :: done)
        else s.heads p ks done

/-! ## Deficit round-robin (R333) -/

/-- The end of a round: queues of the priority without a ready step lose their deficit, but for evicted ones (R320, R333). -/
def State.endRound (s : State) (p prio : Nat) (qs : List Nat) : State :=
  { s with hub := { s.hub with queues := ((s.hub.queues.map fun x =>
      if x.2.part = p ∧ x.2.prio = prio ∧ !qs.contains x.1 ∧ !x.2.evicted then (x.1, { x.2 with deficit := 0 }) else x).filter
        fun x => x.2 ≠ Queue.reset) } }

/-- The queue served next, with the deficits as the round has credited them. -/
def State.drr (s : State) (p prio : Nat) (qs : List Nat) : Nat → Option Nat → State × Option Nat
  | 0, _ => (s, none)
  | f + 1, pos =>
    let serve := match pos with | some q => qs.contains q && decide (0 < (s.queue q).deficit) | none => false
    if serve then (s, pos)
    else match qs.find? fun q => match pos with | some x => decide (x < q) | none => true with
      | some q => (s.onQueue q fun x => { x with deficit := x.deficit + x.weight }).drr p prio qs f (some q)
      | none => (s.endRound p prio qs).drr p prio qs f none

/-- The first head that a test accepts. -/
def headWith (f : Option Nat × Key × Offer → Bool) : List (Option Nat × Key × Offer) → Option (Key × Offer)
  | [] => none
  | h :: hs => if f h then some h.2 else headWith f hs

/-- The reservation of a partition ends: its cores are reserved no more, and what they counted is counted nowhere (R47, R388). -/
def State.dropReserve (s : State) (p : Nat) : State :=
  if (s.part p).reserve.isNone then s
  else ((s.partCores p).foldl (fun s g => s.onCore g fun c => { c with resvCyc := 0 }) s).onPart p fun pt => { pt with reserve := none }

/-- Move an entry behind the next entry of its queue that is offered. -/
def State.dropBehind (s : State) (p : Nat) (k : Key) (q : Option Nat) : List Key :=
  let pt := s.part p
  let rest := pt.ready.filter fun x => x != k
  let i := pt.ready.idxOf k
  match (rest.drop i).findIdx? fun x => match pt.offer x with | some o => s.offerQueue p o == q | none => false with
  | some j => rest.take (i + j + 1) ++ [k] ++ rest.drop (i + j + 1)
  | none => pt.ready

/-- A reservation ends without a dispatch: its gang drops behind the next ready entry of its queue (R47). One that is the only ready entry of its
queue stays where it is, and a later choice may reserve for it again at once (DESIGN CHOICE, log entry 108). -/
def State.expireReserve (s : State) (p : Nat) : State :=
  match (s.part p).reserve with
  | none => s
  | some (va, _) =>
    let hs : List (Option Nat × Key × Offer) := s.heads p (s.part p).ready []
    let ready := match hs.find? fun h => h.2.2.node == va with
      | some h => s.dropBehind p h.2.1 h.1
      | none => (s.part p).ready
    (s.dropReserve p).onPart p fun pt => { pt with ready := ready }

/-- A reservation has lasted its 20 µs (R47), or more than them. -/
def State.reserveAge (s : State) (p : Nat) : Nat := match (s.part p).reserve with | some (_, t) => (s.time - t).toNat | none => 0

/-- The next step of a block named, where it can be taken now, whatever stands before it in its queue (R46, R335); a block that waits for its
token has none (R374). -/
def State.missingOf (s : State) (p : Nat) (va : W64) : Option (Key × Offer) :=
  if !(s.part p).ready.contains (.node va) then none
  else match (s.part p).offer (.node va) with
    | some (.block n) => if s.offerable p (.block n) && !gateHolds n then some (.node va, .block n) else none
    | _ => none

/-- The entry that a dispatch decision serves: the missing step of a yield first (R335), then the reserved gang while its reservation lasts
(R47), unless a step of priority 7 meets it (R353), then the highest priority by deficit round-robin (R333). -/
def State.choose (s : State) (p : Nat) : State × Option (Key × Offer) :=
  let s := if 20000 < s.reserveAge p then s.expireReserve p else s
  let pt := s.part p
  let hs : List (Option Nat × Key × Offer) := s.heads p pt.ready []
  let top := hs.foldl (fun n h => max n (s.prioOf h.1)) 0
  match pt.missing.findSome? (s.missingOf p) with
  | some r => ((if (pt.reserve.map fun x => x.1) == some r.2.node then s else s.dropReserve p), some r)
  | none =>
    let kept := match pt.reserve with
      | some (va, _) => headWith (fun h => h.2.2.node == va && (top != 7 || s.prioOf h.1 == 7)) hs
      | none => none
    match kept with
    | some r => (s, some r)
    | none =>
      let s := s.dropReserve p
      if pt.staticRun then (s, headWith (fun h => h.1.isNone) hs)
      else
        let offered (q : Nat) (h : Option Nat × Key × Offer) : Bool := s.prioOf h.1 == top && h.1 == some q
        let qs := (s.hub.queues.map fun x => x.1).filter fun q => hs.any (offered q)
        let owing := qs.foldl (fun m q => max m (-(s.queue q).deficit).toNat) 0
        let r := s.drr p top qs ((qs.length + 1) * (owing + 2)) (vget none pt.rr top)
        let s := r.1.onPart p fun pt => { pt with rr := vset pt.rr top r.2 }
        (s, r.2.bind fun q => headWith (offered q) hs)

/-! ## Launch -/

/-- A core takes a step: a group switch (R245), and the state a step starts with (R39, R387); the launch ABI loads for 64
cycles (R332). -/
def State.launch (s : State) (g : Nat) (st : StepInfo) : State :=
  let p := st.part
  let pt := s.part p
  let gang := if pt.reserve.isSome then (s.core g).resvCyc else 0
  let s := (s.onPart p fun pt => { pt with orders := pt.orders + 1 }).dieEvent (Config.dieOf g) p 4 gang
  let s := s.onCore g fun c =>
    let c := ((c.landAll.loseLatches).zeroBank 0).addCounter 0 cGang gang
    { c with
      status := .loading 64, step := some { st with order := pt.orders, place := g }, pc := pt.mapAddr c.classB st.entry, pcHigh := 0, next := none
      reached := .none, req := .none, resvCyc := 0
      ctrl := { c.ctrl with unsettled := false }
      dom := { c.dom with table := [], queue := [], stack := [], ops := [], run := none, cancel := none, held := [] }
      flow := { Flow.reset with cyc := c.flow.cyc, portQ := c.flow.portQ, before := c.flow.before } }
  s.traceIf g (s.core g).dbg.trstep 6 0 (s.core g).pc

/-- The registers of the launch ABI (R39, R43). -/
def CoreSt.loadAbi (c : CoreSt) (st : StepInfo) : CoreSt :=
  let c := c.setSreg 1 (if st.isStatic then 0 else st.node)
  let c := (List.range 6).foldl (fun c i => c.setSreg (2 + i) (if st.isStatic then 0 else vget 0 st.coords i)) c
  let c := c.setSreg 8 (if st.isStatic then 0 else st.number)
  let c := c.setSreg 9 (BitVec.ofNat 64 c.logical)
  (List.range 8).foldl (fun c i => c.setSreg (10 + i) (vget 0 st.args i)) c

/-- The first bundle of a gated step may issue (R374). -/
def State.stepOpen (s : State) (st : StepInfo) : Bool :=
  !st.gated || (match s.node? st.part st.node with | some n => s.gateOpen n | none => true)

/-- LAUNCH_ABI_LOAD_END (R39, R332). -/
def execLaunchAbiLoadEnd (g : Nat) (s : State) : Host.Outcome State Fault Refusal :=
  coreEvent "LAUNCH_ABI_LOAD_END" g (
    let c := s.core g
    match c.status, c.step with
    | .loading 0, some st => if s.stepOpen st then some (s.setCore g { c.loadAbi st with status := .running }) else none
    | _, _ => none)

/-- The watchdog limit of a block's step (R337, R395). -/
def State.limitOf (s : State) (n : Node) : Nat := if fld n.block 0x9C 4 = 0 then (s.queue n.queue).wdog else fld n.block 0x9C 4

/-- Write the CORE fields of a gang instance: its members' logical numbers, 0xFFFF elsewhere (R331). -/
def State.writeCores (s : State) (n : Node) (inst : Nat) (logical : List (Nat × Nat)) : Except HubStop State :=
  match s.gangDesc n with
  | none => .ok s
  | some gd =>
    let bs := (List.range 16).flatMap fun m => natBytes 2 (match logical.find? fun x => x.1 == m with | some x => x.2 | none => 0xFFFF)
    match s.hubPut n.part none 3 (coreFields (fldW n.block 0xE0) gd inst) bs with
    | .error (.fault t _) => .ok t
    | r => r

/-- The lowest number not in a list. -/
def lowestFree (used : List Nat) : Nat := ((List.range 17).find? fun i => !used.contains i).getD 16

/-- A step or gang of a block is dispatched to cores (R37, R42, R331, R332); at the first one the block is RUNNING, whose write the end of the
block waits for (R323, R355), and TILEDEP successors are released (R326). -/
def State.placeBlock (s : State) (n : Node) (cores : List Nat) : Except HubStop State :=
  let p := n.part
  let k := n.next
  let inst := lowestFree (n.instances.map fun i => i.1)
  let gd := s.gangDesc n
  let logical (g : Nat) : Nat := (s.core g).logical
  let first : Except HubStop State :=
    if k ≠ 0 then .ok s
    else match s.setStatus p none n.addr stRunning with
      | .error e => .error e
      | .ok t => (t.onNode p n.addr fun m => { m with need := clkMax m.need (gained s.ord t.ord) }).decSuccs p n.queue (Config.dieOf (cores.headD 0)) n.addr true n.succs
  match first with
  | .error e => .error e
  | .ok s =>
    let named : Except HubStop State :=
      if gd.isSome then s.writeCores n inst (cores.zipIdx.map fun x => (x.2, logical x.1)) else .ok s
    match named with
    | .error e => .error e
    | .ok s =>
      let s := s.onNode p n.addr fun m => { m with
        next := k + 1, instances := if gd.isSome then m.instances ++ [(inst, k)] else m.instances }
      let s := s.onQueue n.queue fun x => { x with deficit := x.deficit - cores.length }
      let s := cores.zipIdx.foldl (fun s x =>
        s.launch x.1 {
          part := p, node := n.addr, number := BitVec.ofNat 64 k, q := logical x.1
          entry := ((match gd with | some d => fldW d (0x10 + 8 * x.2) | none => fldW n.block 8)).setWidth 60
          member := if gd.isSome then some (inst, x.2) else none, isStatic := false, elapsed := 0, limit := s.limitOf n
          gated := n.gate.isSome && decide (k = 0), order := 0
          args := (List.range 8).foldl (fun v i => vset v i (fldW n.block (0x40 + 8 * i))) (.replicate 8 0)
          coords := blkCoords n.block k, need := clkZero, prior := [], place := x.1, orphan := false }) s
      .ok ((s.dropReserve p).onPart p fun pt => { pt with
        ready := (if k + 1 = n.total then pt.ready.filter fun x => x != .node n.addr else pt.ready)
        missing := pt.missing.filter fun va => va != n.addr })

/-- A step restarts on a core with the launch ABI afresh (R41, R255); a gang member's CORE field follows it. -/
def State.placeRestart (s : State) (st : StepInfo) (g : Nat) : Except HubStop State :=
  let p := st.part
  let s := s.onPart p fun pt => { pt with restarts := (pt.restarts.filter fun x => x.order != st.order)
                                          ready := (pt.ready.filter fun x => x != .restart st.order) }
  let s := match s.offerQueue p (.restart st) with
    | some q => s.onQueue q fun x => { x with deficit := x.deficit - 1 }
    | none => s
  let s := s.launch g st
  match s.node? p st.node, st.member with
  | some n, some (inst, _) =>
    let others := (s.residents p).filterMap fun h => (s.core h).step.bind fun x =>
      if x.gang == st.gang then x.member.map fun m => (m.2, (s.core h).logical) else none
    s.writeCores n inst others
  | _, _ => .ok s

/-- The cores named are distinct free cores of a partition. -/
def State.coresOk (s : State) (p : Nat) (cores : List Nat) : Bool :=
  cores.Nodup && cores.all fun g => (s.freeCores p).contains g

/-- A gang that finds too few free cores has them reserved (R47). -/
def State.reserveFor (s : State) (p : Nat) (o : Offer) : State :=
  s.onPart p fun pt => { pt with reserve := some (o.node, s.time) }

/-- DISPATCH (R332): the chosen step is placed on the cores named, or, with none named, the free cores are reserved for the
chosen gang. -/
def execDispatch (p : Nat) (cores : List Nat) (s : State) : Host.Outcome State Fault Refusal :=
  event "DISPATCH" (
    if !s.placesNow p || decide (s.freeCores p = []) then none
    else match s.choose p with
      | (_, none) => none
      | (t, some (_, o)) =>
        let s₀ := s
        let s := t
        let n := s.offerNeed o
        if (s.freeCores p).length < n then
          if cores = [] ∧ (s.part p).reserve.isNone then some (s.reserveFor p o) else none
        else if cores.length ≠ n || !s.coresOk p cores then none
        else match o with
          | .block b => s₀.hubNext (s.placeBlock b cores)
          | .restart st => s₀.hubNext (s.placeRestart st (cores.headD 0))
          | .resume _ => none)

/-- GANG_RESERVATION_EXPIRY (R47): after 20 µs the gang drops behind the next ready entry of its queue, and the cores are
released. -/
def execGangReservationExpiry (p : Nat) (s : State) : Host.Outcome State Fault Refusal :=
  event "GANG_RESERVATION_EXPIRY" (if (s.part p).reserve.isSome && decide (20000 ≤ s.reserveAge p) then some (s.expireReserve p) else none)

/-! ## Static launch (R43, R364) -/

/-- SVSTAT with a STATE, and BUSY clear (R364). -/
def svState (st : Nat) : W64 := BitVec.ofNat 64 st

/-- A start-vector record is well formed for a partition's cores (R364). -/
def svOk (n : Nat) (b : List Byte) : Bool :=
  decide (fld b 0 2 = n) && zeroAt b 2 6 && (List.range n).all fun k => decide (fld b (0x48 + 8 * k) 8 % 4 = 0)

/-- The cores of a partition take a static launch: all of them are free, and its ready list is empty (R43); none is under scrub, the slice
has not ended, the module runs, and the bound image runs on each (R336, R342, R372, R416; DESIGN CHOICE, log entry 75). -/
def State.svReady (s : State) (p : Nat) : Bool :=
  s.placesNow p && !(s.part p).staticRun && decide ((s.part p).ready = []) && s.pkg.power == .p0 && decide (s.partCores p ≠ []) &&
    (s.partCores p).all fun g => (s.core g).status == .free && (s.part p).admits (s.core g).classB && !s.underScrub g && !s.drains g

/-- A write of SVADDR (R43, R364). An address that is no multiple of 64 ends MALFORMED, an outcome that R364 does not list for it (DESIGN
CHOICE, log entry 75); a partition without a bound image, or a record with an entry outside it, is BUSY (R5; DESIGN CHOICE, log entry 75). The
write waits for a binding that is not yet complete (R340). -/
def State.startVector (s : State) (p : Nat) (va : W64) : Except HubStop State :=
  let pt := s.part p
  let n := (s.partCores p).length
  let set (st : Nat) (s : State) : State := s.onPart p fun pt => { pt with svstat := svState st }
  let busy (s : State) : State := s.onPart p fun pt => { pt with svstat := pt.svstat ||| 256 }
  if !s.bindApplied p then .error .wait
  else if !s.svReady p then .ok (busy s)
  else if va.toNat % 64 ≠ 0 then .ok (set 5 s)
  else match s.hubTry p va (0x48 + 8 * n) with
    | .error e => .error e
    | .ok (none, s) => .ok (set 5 s)
    | .ok (some b, s) =>
      if !svOk n b then .ok (set 5 s)
      else if !(List.range n).all (fun k => pt.entryOk (fldW b (0x48 + 8 * k))) then .ok (busy s)
      else
        let s := (set 1 s).onPart p fun pt => { pt with staticRun := true }
        .ok ((s.partCores p).foldl (fun s g =>
          let k := (s.core g).logical
          s.launch g {
            part := p, node := 0, number := 0, q := k, entry := (fldW b (0x48 + 8 * k)).setWidth 60, member := none
            isStatic := true, elapsed := 0, limit := (s.part p).inForce.wdog.toNat, gated := false, order := 0
            args := (List.range 8).foldl (fun v i => vset v i (fldW b (8 + 8 * i))) (.replicate 8 0)
            coords := .replicate 6 0, need := clkZero, prior := [], place := g, orphan := false }) s)

/-- START_VECTOR_WRITE (R43, R364). -/
def execStartVectorWrite (p : Nat) (va : W64) (s : State) : Host.Outcome State Fault Refusal :=
  event "START_VECTOR_WRITE" (if p < 64 then s.hubNext (s.startVector p va) else none)

/-! ## Pre-emption and yields (R46, R334, R335) -/

/-- The cores of a step's gang instance, or its own core. -/
def State.mates (s : State) (g : Nat) : List Nat :=
  match (s.core g).step with
  | none => []
  | some st => match st.gang with
    | none => [g]
    | some _ => (s.residents st.part).filter fun h => match (s.core h).step with | some t => t.gang == st.gang | none => false

/-- Steps on some cores, with their gangs, are asked to save. -/
def State.askSave (s : State) (cores : List Nat) : State :=
  (cores.flatMap s.mates).foldl (fun s g => s.onCore g fun c => { c with req := { c.req with preempt := true } }) s

/-- The step that a ready step of priority 7 pre-empts: the most recently dispatched of the lowest priority below 7 (R334). -/
def State.victim7 (s : State) (p : Nat) : Option Nat :=
  let hs : List (Option Nat × Key × Offer) := s.heads p (s.part p).ready []
  if !(hs.any fun h => s.prioOf h.1 == 7) || decide (s.freeCores p ≠ []) then none
  else
    let prio (g : Nat) : Nat := match (s.core g).step with
      | some st => (match s.node? p st.node with | some n => (s.queue n.queue).prio | none => 7)
      | none => 7
    let ord (g : Nat) : Nat := match (s.core g).step with | some st => st.order | none => 0
    let rs := (s.residents p).filter fun g => decide (prio g < 7)
    argmax (fun g => (ord g : Int) - 2 ^ 64 * (prio g : Int)) rs

/-- A core has a pre-emption or yield request that is not yet served. -/
def CoreSt.asked (c : CoreSt) : Bool := c.req.preempt || c.req.yield
/-- The pre-emption requests of a partition not yet served. -/
def State.asked (s : State) (p : Nat) : Nat := ((s.residents p).filter fun g => (s.core g).asked).length

/-- PREEMPTION_REQUEST (R334): at the end of a slice, or for a ready step of priority 7 with no core free; a gang whole. The
scheduler makes none while every save slot is taken. -/
def execPreemptionRequest (g : Nat) (s : State) : Host.Outcome State Fault Refusal :=
  coreEvent "PREEMPTION_REQUEST" g (match (s.core g).step with
    | none => none
    | some st =>
      let p := st.part
      let ms := s.mates g
      if (s.core g).req.preempt || decide ((s.part p).slots = []) then none
      else if s.sliceOver p || (s.asked p == 0 && (match s.victim7 p with | some v => ms.contains v | none => false)) then
        some ((ms.foldl (fun s h => s.onCore h fun c => { c with req := { c.req with preempt := true } }) s).dropReserve p)
      else none)

/-- A core is held at a wait that is a comma (R46, R128, R129): its group carries COMMA and is held by a wait form. -/
def State.atWaitComma (s : State) (g : Nat) : Bool :=
  match (s.core g).reached.grp with
  | some x => x.comma && x.slots.any fun y => (match y.2.1.op with
      | .waitph _ _ _ _ | .waitbit _ _ _ _ | .bar _ => true
      | _ => false) && s.waitHolds g y.2.1.op
  | none => false

/-- The blocks to which R46 applies: each alone, and each predecessor with a TILEDEP successor as if both were one (R326). -/
def Part.yieldSets (pt : Part) : List (List W64) :=
  (pt.nodes.map fun n => [n.addr]) ++ pt.nodes.flatMap fun m =>
    (pt.nodes.filter fun n => blkFlag n.block 3 && !n.copy && m.succs.contains n.addr && n.addr != m.addr).map fun n => [m.addr, n.addr]

/-- The resident steps of some blocks. -/
def State.residentsOf (s : State) (p : Nat) (us : List W64) : List Nat :=
  (s.residents p).filter fun h => match (s.core h).step with | some t => us.contains t.node && !t.isStatic | none => false
/-- The step dispatched first of some cores'. -/
def State.oldest (s : State) (hs : List Nat) : Option Nat :=
  argmax (fun h => -((match (s.core h).step with | some t => t.order | none => 0) : Int)) hs

/-- The next yield of some blocks: the block whose missing step comes first, and the core to yield. Once one has been asked for, the next of
the waiting steps while the missing step still lacks cores (R335); else the oldest resident step of the blocks, with a step to dispatch, all
of whose resident steps are held at wait commas, with no core free (R46). None while a request of a step of those blocks is unserved. -/
def State.yielderOf (s : State) (p : Nat) (us : List W64) : Option (W64 × Nat) :=
  let pt := s.part p
  match us.findSome? (s.missingOf p) with
  | none => none
  | some (_, o) =>
    let rs := s.residentsOf p us
    let near := pt.yieldSets.filter fun vs => vs.contains o.node
    if near.any (fun vs => (s.residentsOf p vs).any fun h => (s.core h).asked) then none
    else if pt.missing.contains o.node then
      if s.offerNeed o ≤ (s.freeCores p).length then none else (s.oldest (rs.filter s.atWaitComma)).map fun h => (o.node, h)
    else if s.freeCores p = [] ∧ rs.all s.atWaitComma then (s.oldest rs).map fun h => (o.node, h)
    else none

/-- A partition may ask for yields now: a save slot is free, and no expired step falls due with one (R49, R335). -/
def State.mayYield (s : State) (p : Nat) : Bool :=
  decide ((s.part p).slots ≠ []) && !((s.residents p).any s.stepExpired)

/-- The step of a core, with its gang, is asked to yield for a block's missing step. -/
def State.yieldAt (s : State) (p : Nat) (va : W64) (g : Nat) : State :=
  ((s.mates g).foldl (fun s h => s.onCore h fun c => { c with req := { c.req with yield := true } }) s).onPart p fun pt =>
    { pt with missing := if pt.missing.contains va then pt.missing else pt.missing ++ [va] }

/-- The time by which the next yield of some blocks is made (R46). -/
def Part.dueOf (pt : Part) (us : List W64) : Option W64 := (pt.yieldDue.find? fun x => x.1 == us).map fun x => x.2
/-- Set it, or take it away. -/
def Part.setDue (pt : Part) (us : List W64) (t : Option W64) : Part :=
  { pt with yieldDue := (pt.yieldDue.filter fun x => x.1 != us) ++ (match t with | some t => [(us, t)] | none => []) }

/-- YIELD (R46, R335): the oldest waiting step is asked to yield, and the block's missing step comes first. -/
def execYield (g : Nat) (s : State) : Host.Outcome State Fault Refusal :=
  coreEvent "YIELD" g (match (s.core g).step with
    | none => none
    | some st =>
      let p := st.part
      if !s.mayYield p then none
      else (((s.part p).yieldSets.findSome? fun us => match s.yielderOf p us with
        | some (va, h) => if h = g then some (us, va) else none
        | none => none)).map fun x => (s.yieldAt p x.2 g).onPart p fun pt => pt.setDue x.1 none)

/-- TOKEN_DELIVERY (R374): the partition's token is written for a block that asks for one with its nonce. -/
def execTokenDelivery (p : Nat) (node : W64) (s : State) : Host.Outcome State Fault Refusal :=
  event "TOKEN_DELIVERY" (match s.node? p node with
    | none => none
    | some n => match n.gate with
      | none => none
      | some g =>
        if g.sent.isSome then none
        else (match s.tryToken p node with
          | .ok t => (match (t.node? p node).bind fun m => m.gate.bind fun x => x.sent with | some _ => some t | none => none)
          | r => s.hubNext r))

end Sys2Proof.Machine
end

