-- ==== Sys2Proof/Machine/Save.lean ====
section
/-! DEFINITION. Context frames (R246 to R252), the save at a comma (R248, R254, R387), the save and restore of the rings of a gang
(R331), and the resumption of saved steps (R253, R255, R342). -/

namespace Sys2Proof.Machine

/-! ## The frame -/

/-- The bits set in a mask, ascending. -/
def liveBits {n : Nat} (m : BitVec n) : List Nat := (List.range n).filter fun i => m.getLsbD i

/-- The live list of a full frame: all ones in every mask (R247, R249). -/
def fullEntry (a : Addr) : CommaEntry :=
  { addr := a.setWidth 64, smask := .allOnes 64, cmask := .allOnes 32, amask := .allOnes 16, tmask := .allOnes 16, vmask := .allOnes 256
    flags := 0 }

/-- The comma-table entry that a save at an address uses, and whether the frame is full (R247). -/
def Part.entryAt (pt : Part) (classB : Bool) (a : Addr) : CommaEntry × Bool :=
  match pt.image.bind fun i => (imgVariant i classB).commas.find? fun e => e.addr == a.setWidth 64 with
  | some e => (e, false)
  | none => (fullEntry a, true)

/-- A comma-table entry as 64 bytes (R246). -/
def entryBytes (e : CommaEntry) : List Byte :=
  bytesOf 8 e.addr ++ bytesOf 8 e.smask ++ bytesOf 4 e.cmask ++ bytesOf 2 e.amask ++ bytesOf 2 e.tmask ++ bytesOf 32 e.vmask ++
    bytesOf 4 e.flags ++ natBytes 4 0
/-- An entry from its bytes. -/
def entryOf (b : List Byte) : CommaEntry :=
  { addr := fldW b 0, smask := fldW b 8, cmask := ofBytes 32 ((b.drop 0x10).take 4), amask := ofBytes 16 ((b.drop 0x14).take 2)
    tmask := ofBytes 16 ((b.drop 0x16).take 2), vmask := ofBytes 256 ((b.drop 0x18).take 32), flags := ofBytes 32 ((b.drop 0x38).take 4) }

/-- Zero bytes up to the next multiple of 64 (R250). -/
def padLine (bs : List Byte) : List Byte := bs ++ List.replicate ((64 - bs.length % 64) % 64) 0
/-- Append a section, if it has an item (R250). -/
def addSection (bs sec : List Byte) : List Byte := if sec = [] then bs else padLine bs ++ sec

/-- A matrix address register as 8 bytes (R157). -/
def maBytes (m : MaReg) : List Byte := [m.cur, m.base, m.stride, m.count, m.left, 0, 0, 0]
/-- A loop level in a frame (R249): the body's start and the address after it, or after the groups found, REMAIN, and the flags: active,
whether the body's first group has issued, whether the end of the body is unknown, and how many groups it has (log entry 25). -/
def loopBytes : Option Loop → List Byte
  | none => List.replicate 32 0
  | some l => bytesOf 8 (l.start.setWidth 64) ++ bytesOf 8 ((l.endA.getD l.found).setWidth 64) ++ bytesOf 8 l.remain ++
      natBytes 8 (1 + (if l.begun then 2 else 0) + (if l.endA.isNone then 4 else 0) + 256 * ((l.addrs.length + l.left) % 256))

namespace CoreSt

/-- The control registers of a frame (R249). -/
def ctrlBytes (c : CoreSt) : List Byte :=
  ([2, 3, 4, 5, 6, 7, 8] ++ (List.range 12).map fun i => 0x30 + i).flatMap fun n => bytesOf 8 (c.crRead n)

/-- A snapshot in a frame (R251). -/
def snapBytes (x : Snapshot) : List Byte :=
  ((List.range 32).flatMap fun i => bytesOf 16 (vget domZero x.c i)) ++ bytesOf 8 (x.target.setWidth 64) ++ natBytes 1 x.len ++
    natBytes 1 x.queue.length ++ natBytes 1 (if x.unsettled then 1 else 0) ++ natBytes 5 0 ++
    ((List.range 64).map fun i => BitVec.ofNat 8 (x.queue.getD i 0))

/-- The domain section (R251). -/
def domBytes (c : CoreSt) : List Byte :=
  let d := c.dom
  natBytes 8 (d.table.length + 256 * d.queue.length + (if c.ctrl.unsettled then 65536 else 0) + 2 ^ 24 * d.stack.length) ++
    ((List.range 64).flatMap fun i => bytesOf 8 (d.table.getD i 0)) ++
    ((List.range 64).map fun i => BitVec.ofNat 8 (d.queue.getD i 0)) ++
    ((List.range 8).flatMap fun i => match d.stack[i]? with | some x => snapBytes x | none => List.replicate 592 0)

/-- The fixed header of a frame (R249). -/
def frameHeader (c : CoreSt) (st : StepInfo) (e : CommaEntry) (full : Bool) : List Byte :=
  let dom := full || decide (e.cmask ≠ 0)
  natBytes 8 (1 + (if full then 2 ^ 32 else 0) + (if dom then 2 ^ 33 else 0)) ++ bytesOf 8 (c.pc.setWidth 64) ++ bytesOf 8 c.flow.sched ++
    natBytes 8 (st.q % 512 + 512 * (c.logical % 512) + 2 ^ 18 * st.part) ++ entryBytes e ++ bytesOf 8 (c.predWord.setWidth 64) ++
    ((List.range 8).flatMap fun i => (List.range 7).flatMap fun j => bytesOf 2 (c.kmask i (j + 1))) ++
    ((List.range 4).flatMap fun l => loopBytes (c.flow.loops[l]?)) ++ ((List.range 4).flatMap fun i => maBytes (c.mareg i)) ++ c.ctrlBytes

/-- A context frame (R249, R250). -/
def frame (c : CoreSt) (st : StepInfo) (e : CommaEntry) (full : Bool) : List Byte :=
  let b := c.frameHeader st e full
  let b := addSection b ((liveBits e.smask).flatMap fun i => bytesOf 8 (c.sreg i))
  let b := addSection b ((liveBits e.cmask).flatMap fun i => bytesOf 16 (c.creg i))
  let b := addSection b ((liveBits e.amask).flatMap fun i => bytesOf 4 (c.norm i) ++ natBytes 4 0)
  let b := addSection b ((liveBits e.amask).flatMap fun i => bytesOf 256 (c.axis i))
  let b := addSection b ((liveBits e.vmask).flatMap fun i => bytesOf 64 (c.vreg (i / 32) (i % 32)))
  let b := addSection b ((liveBits e.tmask).flatMap fun i => bytesOf 8192 (c.tile i))
  if full || decide (e.cmask ≠ 0) then addSection b c.domBytes else b

/-- The cycles of a save or restore of B bytes (R252). -/
def saveCycles (n : Nat) : Nat := 16 + (n + 511) / 512

/-- The five counter banks as a save writes them (R387). -/
def bankBytes (c : CoreSt) : List Byte :=
  (List.range 5).flatMap fun b => (List.range 32).flatMap fun i => bytesOf 8 (c.counter b i)

/-- Every queue of the core is empty and every result has landed: the save may begin (R248). -/
def drained (c : CoreSt) : Bool :=
  decide (c.flow.flight = []) && decide (c.flow.mem = []) && c.flow.mrun.isNone && decide (c.flow.mq = []) && c.dom.run.isNone &&
    decide (c.dom.ops = []) && decide (c.flow.xq = [])

end CoreSt

/-! ## Reading and writing a save slot -/

/-- The physical address of a partition's save slot (R334). -/
def State.slotAddr (s : State) (p k : Nat) : Nat := (s.part p).inForce.savearea.toNat + 163840 * k
/-- Write bytes of a partition at a physical address, line by line, on behalf of each line's home die (R296). -/
def State.physWrite (s : State) (p pa : Nat) (bs : List Byte) : State :=
  (splitLines (bs.length / 64 + 2) pa bs).foldl (fun s x => s.hubWriteOf p (homeDie x.1) x.1 x.2) s
/-- Read bytes at a physical address from the view of each byte's home die. -/
def State.physRead (s : State) (pa n : Nat) : List Byte :=
  (List.range n).map fun i => amGet 0 (s.ord.view (homeDie (pa + i))) (pa + i)

/-- The block whose missing step a yielded step of a block has made way for: its own where none is known (R46, R335). -/
def Part.madeWayFor (pt : Part) (va : W64) : W64 :=
  (pt.missing.find? fun m => pt.yieldSets.any fun us => us.contains m && us.contains va).getD va
/-- A key in the ready list for a saved step: that of a pre-empted one at the head of its priority, that of a yielded one behind the block whose
missing step it made way for and the steps yielded before it (R334, R335). -/
def Part.enterSaved (pt : Part) (slot : Nat) (st : StepInfo) (yielded : Bool) : Part :=
  let m : Key := .node (pt.madeWayFor st.node)
  if yielded && pt.ready.contains m then
    let i := pt.ready.idxOf m + 1
    let same (k : Key) : Bool := match k with
      | .saved j => pt.saved.any fun x => x.slot == j && x.yielded
      | _ => false
    let j := i + ((pt.ready.drop i).takeWhile same).length
    { pt with ready := pt.ready.take j ++ [.saved slot] ++ pt.ready.drop j }
  else { pt with ready := .saved slot :: pt.ready }
/-- A saved step or gang enters the ready list of its partition, and room is made for the entry in the queue SRAM (R317, R320). -/
def State.enterSaved (s : State) (p slot : Nat) (st : StepInfo) (yielded : Bool) : State :=
  (s.makeRoom Config.nQueues 16 65536).onPart p fun pt => pt.enterSaved slot st yielded

/-! ## The rings of a gang (R331) -/

/-- A pipe of a gang: its descriptor, the core of its consumer, and its save region. -/
structure RingAt where
  desc : List Byte
  core : Nat
  area : W64
  deriving DecidableEq, Repr

/-- The bytes of a ring. -/
def ringBytes (d : List Byte) : Nat := fld d 0xC 2 * fld d 8 4

/-- The home die of a pipe descriptor's line sees every atomic that has performed on it (R293, R355). -/
def State.lineSettled (s : State) (p : Nat) (va : W64) : Bool :=
  match s.hostXl p va with
  | some x => !inMemory x.pa || s.ord.mayArbitrate (homeDie x.pa) x.pa
  | none => true

/-- The pipes of an instance of a block's gang from pipe p on, with their regions; pipes without a placed consumer or a
readable descriptor are passed over. A descriptor is read as the last PPUT or PGET left it (R355). -/
def State.rings (s : State) (n : Node) (gd : List Byte) (inst : Nat) : Nat → Nat → HubRes (List RingAt)
  | 0, _ => .ok ([], s)
  | f + 1, ofs =>
    let k := fld gd 1 1 - (f + 1)
    let va := fldW gd (0x90 + 8 * k) + BitVec.ofNat 64 (64 * inst)
    if !s.lineSettled n.part va then .error .wait
    else match s.hubTry n.part va 64 with
    | .error e => .error e
    | .ok (none, s) => s.rings n gd inst f ofs
    | .ok (some d, s) => match s.memberCore n.part n.addr inst (fld d 2 2) with
      | .error .wait => .error .wait
      | .error (.owes w) => .error (.owes w)
      | .error (.fault t _) => t.rings n gd inst f (ofs + ringBytes d)
      | .ok (q, s) => match s.rings n gd inst f (ofs + ringBytes d) with
        | .error e => .error e
        | .ok (rs, s) => .ok ((match q with
            | some q => [{ desc := d, core := q, area := fldW gd 8 + BitVec.ofNat 64 ofs }]
            | none => []) ++ rs, s)

/-- The sum R of the rings of a gang's pipes, from instance 0's descriptors. -/
def State.ringSum (s : State) (n : Node) (gd : List Byte) : Nat → HubRes Nat
  | 0 => .ok (0, s)
  | f + 1 => match s.hubTry n.part (fldW gd (0x90 + 8 * f)) 64 with
    | .error e => .error e
    | .ok (d, s) => match s.ringSum n gd f with
      | .error e => .error e
      | .ok (m, s) => .ok (m + ringBytes (d.getD []), s)

/-- The filled slots of a ring, from HEAD onward. -/
def filledSlots (d : List Byte) : List Nat :=
  (List.range (min (fld d 0x1C 4) (fld d 0xC 2))).map fun i => (fld d 0x10 4 + i) % max 1 (fld d 0xC 2)

/-- Copy the filled slots of a ring to its region, or back. -/
def State.moveRing (s : State) (p : Nat) (out : Bool) (r : RingAt) : List Nat → Except HubStop State
  | [] => .ok s
  | j :: js =>
    let size := fld r.desc 8 4
    let off := fld r.desc 4 4 + j * size
    let va := r.area + BitVec.ofNat 64 (j * size)
    if out then match s.hubPut p none (size / 64 + 2) va ((s.core r.core).spadRead off size) with
      | .error .wait => .error .wait
      | .error (.owes w) => .error (.owes w)
      | .error (.fault t _) => t.moveRing p out r js
      | .ok s => s.moveRing p out r js
    else match s.hubTry p va size with
      | .error e => .error e
      | .ok (none, s) => s.moveRing p out r js
      | .ok (some b, s) => (s.onCore r.core fun c => c.spadWrite off b).moveRing p out r js

/-- Copy every ring of an instance. -/
def State.moveRings (s : State) (p : Nat) (out : Bool) : List RingAt → Except HubStop State
  | [] => .ok s
  | r :: rs => match s.moveRing p out r (filledSlots r.desc) with
    | .error e => .error e
    | .ok s => s.moveRings p out rs

/-- Save or write back the rings of a gang instance (R331). -/
def State.gangRings (s : State) (n : Node) (inst : Nat) (out : Bool) : Except HubStop State :=
  match s.gangDesc n with
  | none => .ok s
  | some gd => match s.ringSum n gd (fld gd 1 1) with
    | .error e => .error e
    | .ok (r, s) => match s.rings n gd inst (fld gd 1 1) (inst * r) with
      | .error e => .error e
      | .ok (rs, s) => s.moveRings n.part out rs

/-! ## SAVE_AT_COMMA -/

/-- A saved step of a gang whose last member this is: its rings are saved (R254, R331). -/
def State.gangOut (s : State) (st : StepInfo) : Except HubStop State :=
  match st.member, s.node? st.part st.node with
  | some (inst, _), some n => s.gangRings n inst true
  | _, _ => .ok s

/-- The frame of a core is written to a save slot, and the core is free (R248, R252, R387). -/
def State.saveTo (s : State) (g slot : Nat) (st : StepInfo) : Except HubStop State :=
  let c := s.core g
  let p := st.part
  let e := (s.part p).entryAt c.classB c.pc
  let s := s.traceIf g c.dbg.trtrap 4 0 c.pc
  let s := s.physWrite p (s.slotAddr p slot) (c.frame st e.1 e.2)
  let s := s.physWrite p (s.slotAddr p slot + 0x26C00) c.bankBytes
  let s := s.setCore g c.freed.loseLatches
  let s := s.onPart p fun pt => { pt with
    slots := pt.slots.erase slot, saved := pt.saved ++ [{ slot := slot, step := c.carried g st, yielded := c.req.yield && !c.req.preempt }] }
  let more := st.member.isSome && (s.residents p).any fun h => match (s.core h).step with | some t => t.gang == st.gang | none => false
  if more then .ok s
  else match s.gangOut st with
    | .error e => .error e
    | .ok s => .ok (s.enterSaved p slot st (c.req.yield && !c.req.preempt))

/-- A step that a reset or a substitution drops leaves its core: no frame is written, its operations that have not performed are discarded and
its arbiter waits withdrawn (R301, R339, R368). Its block, or the reset, waits for the writes that it made (R319). -/
def State.dropStep (s : State) (g : Nat) : State :=
  let c := s.core g
  let s := (s.setCore g c.freed.loseLatches).withdraw g
  match c.step with
  | none => s
  | some st =>
    let x := c.carried g st
    if (s.part st.part).resetting.isSome then
      s.onPart st.part fun pt => { pt with resetNeed := clkMax pt.resetNeed x.need, resetPrior := pt.resetPrior ++ x.prior }
    else s.onNode st.part st.node fun n => { n with need := clkMax n.need x.need, prior := n.prior ++ x.prior }

/-- SAVE_AT_COMMA (R248, R252): the save's cycles have passed. A step that a reset or a substitution drops writes no frame
(R339, R368); with no save slot free, or no room in the ready list, the save waits (R317, R334; log entry 84). -/
def execSaveAtComma (g : Nat) (s : State) : Host.Outcome State Fault Refusal :=
  coreEvent "SAVE_AT_COMMA" g (match (s.core g).status, (s.core g).step with
    | .saving 0, some st =>
      if (s.core g).req.drop then some (s.dropStep g)
      else if (s.part st.part).readyFull then none
      else match (s.part st.part).slots with
        | [] => none
        | slot :: _ => s.hubNext (s.saveTo g slot st)
    | _, _ => none)

/-! ## RESTORE -/

/-- Items of a section, each of n bytes, with the frame from the next section on (R250). -/
def takeSection (fr : List Byte) (pos n : Nat) (items : List Nat) : List (Nat × List Byte) × Nat :=
  if items = [] then ([], pos)
  else
    let a := (pos + 63) / 64 * 64
    (items.zipIdx.map fun x => (x.1, (fr.drop (a + n * x.2)).take n), a + n * items.length)

/-- A snapshot from its bytes (R251). -/
def snapOf (b : List Byte) : Snapshot :=
  { c := (List.range 32).foldl (fun v i => vset v i (ofBytes 128 ((b.drop (16 * i)).take 16))) (.replicate 32 domZero)
    len := fld b 0x208 1, queue := (List.range (min 64 (fld b 0x209 1))).map fun i => fld b (0x210 + i) 1
    unsettled := decide (fld b 0x20A 1 % 2 = 1), target := (fldW b 0x200).setWidth 60 }

namespace CoreSt

/-- The domain state of a frame (R251, R253). -/
def loadDom (c : CoreSt) (b : List Byte) : CoreSt :=
  let st := fld b 0 8
  { c with
    ctrl := { c.ctrl with unsettled := decide (st / 65536 % 2 = 1) }
    dom := { Domain.reset with
      table := (List.range (min 64 (st % 128))).map fun i => fldW b (8 + 8 * i)
      queue := (List.range (min 64 (st / 256 % 128))).map fun i => fld b (0x208 + i) 1
      stack := (List.range (min 8 (st / 2 ^ 24 % 16))).map fun i => snapOf ((b.drop (0x248 + 592 * i)).take 592) } }

/-- The predicates, lane masks, matrix address registers and control registers of a frame's header; cr.compat is not taken
from it (R249, R253). -/
def loadHeader (c : CoreSt) (b : List Byte) : CoreSt :=
  let c := { c with files := { c.files with p := ofBytes 16 ((b.drop 0x60).take 2) &&& 0xFFFC#16 } }
  let c := (List.range 56).foldl (fun c i => c.setK (i / 7) (i % 7 + 1) (ofBytes 16 ((b.drop (0x68 + 2 * i)).take 2))) c
  let c := (List.range 4).foldl (fun c i =>
    let o := 0x158 + 8 * i
    c.setMareg i { cur := b.getD o 0, base := b.getD (o + 1) 0, stride := b.getD (o + 2) 0, count := b.getD (o + 3) 0,
                   left := b.getD (o + 4) 0 }) c
  let cr (i : Nat) : W64 := fldW b (0x178 + 8 * i)
  { c with ctrl := { c.ctrl with
      seed := cr 0, dbudget := clampBudget (cr 2), unsettled := (cr 3).getLsbD 0
      pivflags := (cr 4).setWidth 32, solvtau := cr 5, solvdelta := cr 6
      sticky := (List.range 12).foldl (fun v i => vset v i (cr (7 + i))) c.ctrl.sticky } }

/-- The live items of a frame, and its domain section; without one the domain state is empty (R250, R253). -/
def loadItems (c : CoreSt) (b : List Byte) : CoreSt :=
  let e := entryOf ((b.drop 0x20).take 64)
  let s := takeSection b 0x210 8 (liveBits e.smask)
  let d := takeSection b s.2 16 (liveBits e.cmask)
  let n := takeSection b d.2 8 (liveBits e.amask)
  let a := takeSection b n.2 256 (liveBits e.amask)
  let v := takeSection b a.2 64 (liveBits e.vmask)
  let t := takeSection b v.2 8192 (liveBits e.tmask)
  let c := s.1.foldl (fun c x => c.setSreg x.1 (ofBytes 64 x.2)) c
  let c := d.1.foldl (fun c x => c.setCreg x.1 (ofBytes 128 x.2)) c
  let c := n.1.foldl (fun c x => c.setNorm x.1 (ofBytes 32 (x.2.take 4))) c
  let c := a.1.foldl (fun c x => c.setAxis x.1 (ofBytes 2048 x.2)) c
  let c := v.1.foldl (fun c x => c.setVreg (x.1 / 32) (x.1 % 32) (ofBytes 512 x.2) (.allOnes 512)) c
  let c := t.1.foldl (fun c x => c.setTile x.1 (ofBytes 65536 x.2)) c
  if (fldW b 0).getLsbD 33 then c.loadDom ((b.drop ((t.2 + 63) / 64 * 64)).take 5320)
  else { c with dom := .reset }

/-- The accumulators and the weight buffer after a restore (R164, R253). -/
def zeroMatrix (c : CoreSt) : CoreSt :=
  { c with files := { c.files with
      accMain := .replicate 4 0, accPart := .replicate 4 0, openAcc := 0, wbCodes := .replicate 124 0, wbScales := .replicate 124 0 } }

/-- The counter banks of a save (R387). -/
def loadBanks (c : CoreSt) (b : List Byte) : CoreSt :=
  { c with banks := (List.range 5).foldl (fun v k =>
      vset v k ((List.range 32).foldl (fun w i => vset w i (fldW b (256 * k + 8 * i))) (.replicate 32 0))) c.banks }

end CoreSt

/-- Loop level l of a frame (R249), if it is active: the groups of its body are looked for again, and its end is the saved one. -/
def State.loopOf (s : State) (g : Nat) (b : List Byte) (l : Nat) : Option Loop :=
  let o := 0xD8 + 32 * l
  let fl := fld b (o + 24) 8
  if fl % 2 = 0 then none
  else
    let r := s.groupsFrom g (fl / 256 % 256) ((fldW b o).setWidth 60)
    some { addrs := r.1, found := r.2.1, left := r.2.2
           endA := if fl / 4 % 2 = 0 then some ((fldW b (o + 8)).setWidth 60) else if r.2.2 = 0 then some r.2.1 else none
           remain := fldW b (o + 16), buf := [], begun := decide (fl / 2 % 2 = 1), inHandler := false, after := none }
/-- The loop levels of a frame (R249); the loop buffer is empty after a restore. -/
def State.loopsOf (s : State) (g : Nat) (b : List Byte) : List Loop := (List.range 4).filterMap (s.loopOf g b)

/-- The frame's length, from its live list (R250). -/
def frameLen (b : List Byte) : Nat :=
  let e := entryOf ((b.drop 0x20).take 64)
  let sec (pos n : Nat) (k : Nat) : Nat := if k = 0 then pos else (pos + 63) / 64 * 64 + n * k
  let p := sec 0x210 8 (liveBits e.smask).length
  let p := sec p 16 (liveBits e.cmask).length
  let p := sec p 8 (liveBits e.amask).length
  let p := sec p 256 (liveBits e.amask).length
  let p := sec p 64 (liveBits e.vmask).length
  let p := sec p 8192 (liveBits e.tmask).length
  sec p 5320 (if (fldW b 0).getLsbD 33 then 1 else 0)

/-- The frame as a core of a class takes it: ENTRY is replaced by the entry of that class's variant at the same index (R342). -/
def Part.frameFor (pt : Part) (classB : Bool) (b : List Byte) : List Byte :=
  let e := entryOf ((b.drop 0x20).take 64)
  let a := pt.mapAddr classB (e.addr.setWidth 60)
  if a.setWidth 64 = e.addr || (fldW b 0).getLsbD 32 then b
  else b.take 0x20 ++ entryBytes (pt.entryAt classB a).1 ++ b.drop 0x60

/-- A saved step resumes on a core: a group switch, with the frame's state (R245, R253). The cycles for which the core was reserved count for the
step's partition (R391). -/
def State.resumeOn (s : State) (x : Saved) (g : Nat) : State :=
  let p := x.step.part
  let pt := s.part p
  let b := pt.frameFor (s.core g).classB (s.physRead (s.slotAddr p x.slot) 158600)
  let banks := s.physRead (s.slotAddr p x.slot + 0x26C00) 1280
  let gang := if pt.reserve.isSome then (s.core g).resvCyc else 0
  let s := s.onPart p fun pt => { pt with
    saved := pt.saved.filter fun y => y.slot != x.slot
    slots := pt.slots ++ [x.slot], orders := pt.orders + 1, ready := pt.ready.filter fun k => k != .saved x.slot }
  let s := ((s.dieEvent (Config.dieOf g) p 4 gang).enterRange p (s.slotAddr p x.slot) (frameLen b)).enterRange p (s.slotAddr p x.slot + 0x26C00) 1280
  let s := s.onCore g fun c =>
    let c := (c.landAll.loadHeader b).loadItems b
    let c := (c.zeroMatrix.loadBanks banks).loseLatches
    { (c.addCounter 0 cGang gang) with
      status := .restoring (CoreSt.saveCycles (frameLen b)), step := some { x.step with order := pt.orders, place := g }, pc := pt.mapAddr c.classB ((fldW b 8).setWidth 60)
      pcHigh := 0, next := none, reached := .none, req := .none, resvCyc := 0
      flow := { Flow.reset with cyc := c.flow.cyc, portQ := c.flow.portQ, sched := fldW b 0x10, before := c.flow.before } }
  let s := s.onCore g fun c => { c with flow := { c.flow with loops := s.loopsOf g b } }
  s.traceIf g (s.core g).dbg.trtrap 5 0 (s.core g).pc

/-- The CORE fields of a resumed gang's instance are written and its rings written back (R331). -/
def State.gangIn (s : State) (p : Nat) (x : Saved) : Except HubStop State :=
  match x.step.member, s.node? p x.step.node with
  | some (inst, _), some n =>
    let members := (s.residents p).filterMap fun h => (s.core h).step.bind fun t =>
      if t.gang == x.step.gang then t.member.map fun m => (m.2, (s.core h).logical) else none
    match s.writeCores n inst members with
    | .error e => .error e
    | .ok s => s.gangRings n inst false
  | _, _ => .ok s

/-- Discard an unreadable frame: its step restarts (R255); a gang of which other members are saved keeps its
place. A ready list without room for the entry lets it wait (R317). -/
def State.discardFrame (s : State) (p slot : Nat) : Option State :=
  match (s.part p).saved.find? fun x => x.slot == slot with
  | none => none
  | some x =>
    let others := (s.part p).saved.filter fun y => y.slot != slot && y.step.member.isSome && y.step.gang == x.step.gang
    let key : List Key := match others with | y :: _ => [.saved y.slot] | [] => []
    let ready := .restart x.step.order :: (s.part p).ready.flatMap fun k => if k == .saved slot then key else [k]
    if 4096 < ready.length then none
    else some ((s.makeRoom Config.nQueues 16 65536).onPart p fun pt => { pt with
      saved := pt.saved.filter fun y => y.slot != slot
      slots := pt.slots ++ [slot], restarts := pt.restarts ++ [{ x.step with elapsed := 0, orphan := false }], ready := ready })

/-- RESTORE (R253, R254, R332): the saved step or gang whose turn it is resumes on the cores named, in the order of its save
slots; with `err` the frame in that slot reads back with an uncorrectable error. -/
def execRestore (p slot : Nat) (cores : List Nat) (err : Bool) (s : State) : Host.Outcome State Fault Refusal :=
  event "RESTORE" (
    if err then s.discardFrame p slot
    else if !s.placesNow p then none
    else match s.choose p with
      | (t, some (.saved k, .resume xs)) =>
        let s₀ := s
        let s := t
        if k ≠ slot ∨ cores.length ≠ xs.length ∨ !s.coresOk p cores then none
        else
          let q := s.offerQueue p (.resume xs)
          let t := (xs.zip cores).foldl (fun s x => s.resumeOn x.1 x.2) s
          let t := match q with
            | some q => t.onQueue q fun y => { y with deficit := y.deficit - cores.length }
            | none => t
          let t := t.dropReserve p
          match xs with
          | [] => none
          | x :: _ => s₀.hubNext (t.gangIn p x)
      | _ => none)

end Sys2Proof.Machine
end

