-- ==== Sys2Proof/Machine/Retire.lean ====
section
/-! DEFINITION. The retirement of a step and the completion of its block (R35, R297, R324, R326, R331). -/

namespace Sys2Proof.Machine

/-! ## Retirement (R35, R297, R324, R326) -/

/-- Every write of a step has reached the host point (R297, R299). -/
def State.writesOut (s : State) (g : Nat) (st : StepInfo) : Bool :=
  let c := s.core g
  s.ord.appliedAll c.flow.need && s.ord.appliedAll c.flow.xneed && s.ord.appliedAll st.need &&
    !(s.ord.sent.any fun e => e.core == g || st.prior.contains e.core)

/-- A step that has issued END may retire (R35). The operations of the domain unit without a token, of which R35 does not speak, perform first,
since R200 lets nothing else take them from the unit's queue (DESIGN CHOICE, log entry 99). -/
def CoreSt.retires (c : CoreSt) : Bool :=
  c.status == .ended && (List.range 8).all (fun w => (c.token w).out == 0) && decide (c.flow.mem = []) && decide (c.flow.flight = []) &&
    c.dom.run.isNone && decide (c.dom.ops = [])

/-- Another member of a step's gang instance has still to retire. -/
def State.othersLive (s : State) (g : Nat) (st : StepInfo) : Bool :=
  st.member.isSome &&
    (((s.residents st.part).any fun h => h != g && (match (s.core h).step with | some t => t.gang == st.gang | none => false)) ||
      (s.part st.part).saved.any (fun x => x.step.gang == st.gang) || (s.part st.part).restarts.any fun x => x.gang == st.gang)

/-- A block with DEADLINE and SUBST whose deadline has passed (R339). -/
def State.deadlineDue (s : State) (n : Node) : Bool :=
  !n.copy && blkFlag n.block 0 && blkFlag n.block 4 && decide (fldW n.block 0x88 ≤ s.time)

/-- The hub's three acts at the completion of step k of a block, on behalf of a die (R35, R296). The last step waits until the hub's write of
RUNNING, on behalf of another die, is applied everywhere, so that DONE outranks it (R355; DESIGN CHOICE, log entry 116). -/
def State.completeStep (s : State) (n : Node) (k d : Nat) : Except HubStop State :=
  let bit : Except HubStop State :=
    match s.hubAtomic n.part (some d) (fldW n.block 0x80 + BitVec.ofNat 64 (k / 8)) 1 (fun b => [b.headD 0 ||| (1#8 <<< (k % 8))]) with
    | .ok (_, s) => .ok s
    | .error (.fault t _) => .ok t
    | .error e => .error e
  match bit with
  | .error e => .error e
  | .ok s => match s.hubAtomic n.part (some d) (n.addr + 0xEC) 4 (fun b => natBytes 4 ((fld b 0 4 + 1) % 2 ^ 32)) with
    | .error (.fault t _) => .ok t
    | .error e => .error e
    | .ok (old, s) =>
      if (fld old 0 4 + 1) % 2 ^ 32 = n.total && !s.deadlineDue n then
        (if s.ord.appliedAll n.need then s.finishNode n (some d) stDone 0 false else .error .wait)
      else .ok s

/-- The end of a gang instance: its CORE fields read 0xFFFF (R331). -/
def State.endInstance (s : State) (n : Node) (inst : Nat) : Except HubStop State :=
  match s.writeCores n inst [] with
  | .error e => .error e
  | .ok s => .ok (s.onNode n.part n.addr fun m => { m with instances := m.instances.filter fun i => i.1 != inst })

/-- A step of a block retires from a core. -/
def State.retireBlock (s : State) (g : Nat) (st : StepInfo) : Except HubStop State :=
  match s.node? st.part st.node with
  | none => .ok s
  | some n =>
    if s.othersLive g st then .ok s
    else
      let ended : Except HubStop State := match st.member with
        | some (inst, _) => s.endInstance n inst
        | none => .ok s
      match ended with
      | .error e => .error e
      | .ok s => match s.node? st.part st.node with
        | none => .ok s
        | some n => s.completeStep n st.number.toNat (Config.dieOf g)

/-- With its last resident member retired, a gang whose other members are all saved is out (R254), once the ready list has room for it (R317). -/
def State.gangLeft (s : State) (st : StepInfo) : Except HubStop State :=
  let p := st.part
  if st.member.isNone || (s.residents p).any (fun h => match (s.core h).step with | some t => t.gang == st.gang | none => false) then .ok s
  else match (s.part p).saved.find? fun x => x.step.gang == st.gang with
    | none => .ok s
    | some x => match s.gangOut st with
      | .error e => .error e
      | .ok s => if (s.part p).readyFull then .error .wait else .ok (s.enterSaved p x.slot st false)

/-- With the last step of a static launch the launch is over (R43, R364). -/
def State.launchOver (st : StepInfo) (s : State) : State :=
  if st.isStatic && (s.residents st.part).isEmpty && decide ((s.part st.part).saved = []) && decide ((s.part st.part).restarts = []) then
    s.onPart st.part fun pt => { pt with staticRun := false, svstat := (pt.svstat &&& 256) ||| 2 }
  else s

/-- STEP_RETIREMENT (R35, R43, R297). -/
def execStepRetirement (g : Nat) (s : State) : Host.Outcome State Fault Refusal :=
  coreEvent "STEP_RETIREMENT" g (match (s.core g).step with
    | none => none
    | some st =>
      if !(s.core g).retires || !s.writesOut g st then none
      else
        let done : Except HubStop State := if st.isStatic then .ok s else s.retireBlock g st
        s.hubNext (done.bind fun t =>
          (((t.traceIf g (t.core g).dbg.trstep 7 0 (t.core g).pc).onCore g CoreSt.freed).gangLeft st).map (State.launchOver st)))

end Sys2Proof.Machine
end

