-- ==== Sys2Proof/Machine/Elide.lean ====
section
/-! DEFINITION. Deadline substitution (R339), watchdogs (R395 to R397), partition resets (R368), slice changes (R336) and the elision
engine with its token (R369 to R373). -/

namespace Sys2Proof.Machine

/-! ## Deadline substitution (R339) -/

/-- The cores on which a step of a block is resident. -/
def State.blockCores (s : State) (p : Nat) (va : W64) : List Nat :=
  (s.residents p).filter fun g => match (s.core g).step with | some t => t.node == va && !t.isStatic | none => false

/-- The entries of a ready list that belong to a block. -/
def Part.blockKey (pt : Part) (va : W64) (k : Key) : Bool := match pt.offer k with | some o => o.node == va | none => false

/-- A substitution has still to drop steps of its block. -/
def State.substPending (s : State) (n : Node) : Bool :=
  let pt := s.part n.part
  ((s.blockCores n.part n.addr).any fun g => !(s.core g).req.drop) || pt.saved.any (fun x => x.step.node == n.addr) ||
    pt.restarts.any (fun x => x.node == n.addr) || pt.ready.any (pt.blockKey n.addr)

/-- Steps not yet dispatched are dropped, saved ones are discarded, and resident ones are to stop at their next comma. What the discarded
steps have written is noted for the completion record (R319). -/
def State.substDrop (s : State) (n : Node) : State :=
  let p := n.part
  let pt := s.part p
  let gone := (pt.saved.filter fun x => x.step.node == n.addr).map fun x => x.slot
  let s := if (pt.reserve.map fun r => r.1) == some n.addr then s.dropReserve p else s
  let carry (xs : List StepInfo) (m : Node) : Node := xs.foldl (fun (m : Node) x =>
    if x.node == n.addr then { m with need := clkMax m.need x.need, prior := m.prior ++ x.prior } else m) m
  let s := s.onNode p n.addr (carry ((pt.saved.map fun x => x.step) ++ pt.restarts))
  let s := s.onPart p fun pt => { pt with
    ready := pt.ready.filter fun k => !pt.blockKey n.addr k
    saved := (pt.saved.filter fun x => x.step.node != n.addr), restarts := (pt.restarts.filter fun x => x.node != n.addr)
    slots := pt.slots ++ gone
    missing := pt.missing.filter fun va => va != n.addr }
  (s.blockCores p n.addr).foldl (fun s g => s.onCore g fun c =>
    { c with req := { c.req with drop := true, preempt := false, yield := false } }) s

/-- The element that a substitution writes at index i (R339). -/
def substIndex (count shift i : Nat) : Nat := if i + shift < count then i + shift else i

/-- The output vector is written from the previous solution, element by element from i on. -/
def State.substCopy (s : State) (p : Nat) (out prev : W64) (size count shift : Nat) : Nat → Except HubStop State
  | 0 => .ok s
  | f + 1 =>
    let i := count - (f + 1)
    match s.hubTry p (prev + BitVec.ofNat 64 (size * substIndex count shift i)) size with
    | .error e => .error e
    | .ok (none, s) => s.substCopy p out prev size count shift f
    | .ok (some b, s) => match s.hubPut p none 3 (out + BitVec.ofNat 64 (size * i)) b with
      | .error .wait => .error .wait
      | .error (.owes w) => .error (.owes w)
      | .error (.fault t _) => t.substCopy p out prev size count shift f
      | .ok s => s.substCopy p out prev size count shift f

/-- The ends of a block's gang instances. -/
def State.endInstances (s : State) (p : Nat) (va : W64) : List (Nat × Nat) → Except HubStop State
  | [] => .ok s
  | i :: is => match s.node? p va with
    | none => .ok s
    | some n => match s.endInstance n i.1 with
      | .error e => .error e
      | .ok s => s.endInstances p va is

/-- The writes of a substitution. -/
def State.substWrite (s : State) (n : Node) : Except HubStop State :=
  match s.endInstances n.part n.addr n.instances with
  | .error e => .error e
  | .ok s => match s.hubTry n.part (fldW n.block 0x90) 32 with
    | .error e => .error e
    | .ok (h, t) =>
      let b := h.getD []
      match t.substCopy n.part (fldW b 0) (fldW b 8) (fld b 0x14 4) (fld b 0x10 4) (fld n.block 0x98 4) (fld b 0x10 4) with
      | .error e => .error e
      | .ok t => .ok (t.onNode n.part n.addr fun m => { m with subst := some (gained s.ord t.ord) })

/-- Set bits 0 to n of a completion bitmap, byte by byte (R339). -/
def State.setBits (s : State) (p : Nat) (va : W64) (n : Nat) : Nat → Except HubStop State
  | 0 => .ok s
  | f + 1 =>
    let m : Byte := if 8 * f + 8 ≤ n + 1 then 0xFF else BitVec.ofNat 8 (2 ^ (n + 1 - 8 * f) - 1)
    match s.hubAtomic p none (va + BitVec.ofNat 64 f) 1 (fun b => [b.headD 0 ||| m]) with
    | .error .wait => .error .wait
    | .error (.owes w) => .error (.owes w)
    | .error (.fault t _) => t.setBits p va n f
    | .ok (_, s) => s.setBits p va n f

/-- The next act of a substitution; the block ends once every write of its steps has reached the host point (R319). -/
def State.substStep (s : State) (n : Node) : Option State :=
  if s.substPending n then some (s.substDrop n)
  else if s.blockCores n.part n.addr ≠ [] then none
  else match n.subst with
    | none => s.hubNext (s.substWrite n)
    | some v =>
      if !s.ord.appliedAll v || !s.ord.appliedAll n.need ||
          s.ord.sent.any (fun e => e.core == Config.nCores || n.prior.contains e.core) then none
      else s.hubNext ((s.setBits n.part (fldW n.block 0x80) n.total (n.total / 8 + 1)).bind fun t => t.finishNode n none stDone 0 true)

/-- DEADLINE_EXPIRY (R339): the acts of a substitution, each when the one before has taken its effect. -/
def execDeadlineExpiry (p : Nat) (node : W64) (s : State) : Host.Outcome State Fault Refusal :=
  event "DEADLINE_EXPIRY" (match s.node? p node with
    | none => none
    | some n => if !s.deadlineDue n || (s.part p).resetting.isSome then none else s.substStep n)

/-! ## Partition resets (R368) and watchdogs (R395, R396) -/

/-- A partition reset begins: dispatch stops, and every core with a step receives a stop request (R368). -/
def State.startReset (s : State) (p : Nat) (why : ScrubReason) : State :=
  let s := (s.dropReserve p).onPart p fun pt => { pt with
    resetting := some why, resetAt := s.time, purged := false, missing := [], yieldDue := [], resetNeed := clkZero, resetPrior := [] }
  (s.residents p).foldl (fun s g => s.onCore g fun c =>
    { c with req := { c.req with drop := true, preempt := false, yield := false } }) s

/-- The nodes of a partition's expired steps (R397). -/
def State.expiredNodes (s : State) (p : Nat) : List W64 :=
  ((s.residents p).filter s.stepExpired).filterMap fun g => (s.core g).step.bind fun st => if st.isStatic then none else some st.node

/-- A substitution comes before the watchdog of a core's step: it has still to begin, or its DEADLINE falls at one time with the expiry, within
the µs of one test (R353, R395; log entry 104). -/
def State.substFirst (s : State) (g : Nat) (n : Node) : Bool :=
  let st := (s.core g).step
  let expiry : Int := (s.time.toNat : Int) - (match st with | some st => (st.elapsed : Int) - 1000 * st.limit | none => 0)
  s.deadlineDue n && (s.substPending n || decide (((fldW n.block 0x88).toNat - expiry).natAbs < 1000))

/-- WATCHDOG_EXPIRY (R396): a reset of the expired step's partition. An expiry during a reset or a scrub is ignored, a
substitution due at the same time is served first, and a step stopped by a debugger that owns its core never expires (R397). -/
def execWatchdogExpiry (g : Nat) (s : State) : Host.Outcome State Fault Refusal :=
  coreEvent "WATCHDOG_EXPIRY" g (match (s.core g).step with
    | none => none
    | some st =>
      let p := st.part
      let pt := s.part p
      if !s.stepExpired g || pt.resetting.isSome || pt.scrub.isSome || pt.nodes.any (s.substFirst g) then none
      else some ((s.onPart p fun pt => { pt with expired := s.expiredNodes p }).startReset p .watchdog))

/-- HARD_CORE_RESET (R259, R368): during a partition reset, a halted core, or one that has not stopped within 8 µs. Its
unperformed operations are discarded and its arbiter waits withdrawn (R301). -/
def execHardCoreReset (g : Nat) (s : State) : Host.Outcome State Fault Refusal :=
  coreEvent "HARD_CORE_RESET" g (match (s.core g).step with
    | none => none
    | some st =>
      let pt := s.part st.part
      if pt.resetting.isNone then none
      else if (s.core g).status == .halted || decide (8000 ≤ (s.time - pt.resetAt).toNat) then some (s.dropStep g)
      else none)

/-- The end of a list of nodes and ring entries by a reset (R368). -/
def State.endAll (s : State) (p : Nat) : List (Nat × W64 × Nat) → Except HubStop State
  | [] => .ok s
  | (q, va, st) :: xs => match s.endNode p q none va st with
    | .error e => .error e
    | .ok s => s.endAll p xs

/-- The successors of what a reset ends: of nodes as they were read, and of ring entries as their blocks stand (R325). -/
def State.succsOf (s : State) (p : Nat) : List (Nat × W64) → HubRes (List (Nat × List W64))
  | [] => .ok ([], s)
  | (q, va) :: xs =>
    let one : HubRes (List W64) := match s.node? p va with
      | some n => .ok (n.succs, s)
      | none => match (if va.toNat % 256 ≠ 0 then .ok (none, s) else s.hubTry p va 256) with
        | .error e => .error e
        | .ok (none, s) => .ok ([], s)
        | .ok (some b, s) => (s.successors p b).map fun r => (r.1.1, r.2)
    one.bind fun first => (first.2.succsOf p xs).map fun others => ((q, first.1) :: others.1, others.2)
/-- The successors, and theirs in turn, that a reset has not ended itself are cancelled (R323, R353). -/
def State.cancelRest (s : State) (p : Nat) (seen : List W64) : List (Nat × List W64) → Except HubStop State
  | [] => .ok s
  | x :: xs => (s.cancelAll p x.1 edgeFuel seen x.2).bind fun t => t.cancelRest p (seen ++ x.2) xs

/-- The entries between HEAD and TAIL of a queue. -/
def ringEntries (x : Queue) : List W64 :=
  (List.range (min x.count x.size.toNat)).map fun i => amGet 0 x.ring ((x.head.toNat + i) % max 1 x.size.toNat)

/-- The ends of the gang instances of a reset's nodes (R331). -/
def State.endGangs (s : State) (p : Nat) (ns : List Node) : Except HubStop State :=
  ns.foldlM (fun t n => t.endInstances p n.addr n.instances) s

/-- Every write of the steps and nodes that a reset ends, and of the copy node that the hub runs, has reached the host point (R319). -/
def State.resetOut (s : State) (p : Nat) : Bool :=
  let pt := s.part p
  let steps := (pt.saved.map fun x => x.step) ++ pt.restarts
  s.ord.appliedAll pt.resetNeed && steps.all (fun x => s.ord.appliedAll x.need) && pt.nodes.all (fun n => s.ord.appliedAll n.need) &&
    (match s.hub.hubCopy with
      | some h => h.part != p || (s.ord.appliedAll h.need && !s.ord.sent.any fun e => e.core == Config.nCores)
      | none => true) &&
    !s.ord.sent.any fun e => pt.resetPrior.contains e.core || steps.any (fun x => x.prior.contains e.core) ||
      pt.nodes.any fun n => n.prior.contains e.core

/-- Step 3 of a partition reset (R368, R396): frames are discarded, and every node that is not final and every ring entry ends. -/
def State.purge (s : State) (p : Nat) (why : ScrubReason) : Except HubStop State :=
  let pt := s.part p
  let wd := why == .watchdog
  let base := if wd then stWatchdog else stCancelled
  let status (va : W64) : Nat := if wd && pt.expired.contains va then statusWord stWatchdog 1 false else statusWord base 0 false
  let nodes := pt.nodes.map fun n => (n.queue, n.addr, status n.addr)
  let qs := s.hub.queues.filter fun x => x.2.part == p
  let rings := qs.flatMap fun x => (ringEntries x.2).map fun va => (x.1, va, statusWord base 0 false)
  let all := nodes ++ rings
  if !s.resetOut p then .error .wait
  else match s.succsOf p (all.map fun x => (x.1, x.2.1)) with
  | .error e => .error e
  | .ok (succs, s) => match s.endGangs p pt.nodes with
  | .error e => .error e
  | .ok s => match s.endAll p all with
  | .error e => .error e
  | .ok s => match s.cancelRest p (all.map fun x => x.2.1) succs with
  | .error e => .error e
  | .ok s =>
    let s := qs.foldl (fun s x => s.onQueue x.1 fun y => { y with head := y.tail }) s
    let cores := s.partCores p
    let s := s.onOrd fun o => { o with waiting := o.waiting.filter fun w => match w.dec with
      | some d => d.part != p
      | none => !cores.contains w.core }
    let s : State := { s with hub := { s.hub with hubCopy := match s.hub.hubCopy with | some h => if h.part = p then none else some h | none => none } }
    .ok (s.onPart p fun pt => { pt with
      nodes := [], ready := [], saved := [], restarts := [], slots := List.range (2 * cores.length), purged := true, expired := [], finals := []
      svstat := if pt.staticRun then (pt.svstat &&& 256) ||| svState (if wd then 3 else 4) else pt.svstat
      staticRun := false
      scrub := some { reason := why, cores := cores, cleared := false, found := [], outgoing := some (p, s.vfOf p) } })

/-! ## What of an image belongs to cores (R32, R340) -/

/-- Logical numbers for a partition's cores, from 0 to n − 1, as an image is bound (R32): ascending at first; then every core keeps its number, and new cores take,
ascending, the numbers of those that have left. Where cores leave without replacement, those numbered above n − 1 take the free numbers (log
entry 57). -/
def State.bindCores (s : State) (p : Nat) : State :=
  let cs := s.partCores p
  if cs = [] then s
  else
    let was := (s.part p).bound
    let ks := List.range (min 256 cs.length)
    let kept (k : Nat) : Option Nat := (vget none was k).bind fun g => if cs.contains g then some g else none
    let loose := cs.filter fun g => !(ks.any fun k => kept k == some g)
    let now := ((ks.filter fun k => (kept k).isNone).zip loose).foldl (fun v x => vset v x.1 (some x.2))
      (ks.foldl (fun v k => vset v k (kept k)) (.replicate 256 none))
    ks.foldl (fun s k => match vget none now k with
      | some g => s.onCore g fun c => { c with logical := k }
      | none => s) (s.onPart p fun pt => { pt with bound := now })

/-- The level-4 entry of a page, where the tables above it stand (R268). -/
def slotFrom (rd : Nat → W64) (va : Nat) : List (Nat × Nat) → Nat → Option Nat
  | [], _ => none
  | (sh, n) :: ls, table =>
    let a := table + 8 * (va / 2 ^ sh % n)
    if !inMemory a then none
    else if ls.isEmpty then some a
    else if pteBit (rd a) 0 && !pteBit (rd a) 8 then slotFrom rd va ls (ptePA (rd a)) else none

/-- The page entry of a page of a local segment: placement 1, the home of the core's die, its frame (R264, R269). -/
def localEntry (x : LocalPage) (die : Nat) : W64 :=
  (x.attr &&& 0xFE#64) ||| BitVec.ofNat 64 (1 + x.frame % 2 ^ 40 * 4096 + die * 2 ^ 56 + 2 ^ 58)

/-- The entry of a page of a segment declared local to a logical core is written, so that the page is homed on that core's die. A frame that
another die's hash names is not given (R264). -/
def State.homePage (s : State) (p : Nat) (x : LocalPage) : State :=
  let rd (a : Nat) : W64 := word64 (s.ord.readView (homeDie a) a 8)
  match vget none (s.part p).bound x.core with
  | some g =>
    let d := Config.dieOf g
    if !inTier1 (x.frame * 4096) || tierDie (x.frame * 4096) ≠ d then s
    else match slotFrom rd (x.page * 4096) ptLevels ((s.part p).ptroot.toNat / 4096 % 2 ^ 40 * 4096) with
      | some a => s.physWrite p a (bytesOf 8 (localEntry x d))
      | none => s
  | none => s

/-- The scratchpad image of a logical core is written to its core, from offset 0 (R21); not where a step is resident at the binding (DESIGN CHOICE,
log entry 107). -/
def State.fillScratch (s : State) (p : Nat) (x : Nat × List Byte) : State :=
  match vget none (s.part p).bound x.1 with
  | some g => if (s.core g).step.isSome then s else s.onCore g fun c => c.spadWrite 0 x.2
  | none => s
/-- An image meets the cores of its partition: their numbers, the pages of their local segments, and their scratchpad images (R32, R340). -/
def State.bindOn (s : State) (p : Nat) (i : Image) : State :=
  i.scratch.foldl (fun s x => s.fillScratch p x) (i.pages.foldl (fun s x => s.homePage p x) (s.bindCores p))

/-! ## Slice changes (R336) -/

/-- The counter banks that a function holds as guest are released and zeroed (R370, R379). -/
def State.dropBanks (s : State) (vf : Nat) : State :=
  { s with hub := { s.hub with banks := s.hub.banks.map fun row => row.map fun b =>
      if (b.holder = 1 ∨ b.holder = 3) ∧ b.guest = vf then
        { b with holder := (if b.holder = 3 then 2 else 0), guest := 0, stolen := false, cnt := (if b.holder = 3 then b.cnt else .replicate 8 0)
                 saveArea := .replicate 8 0 }
      else b } }

/-- A partition shares some cores: its entry in force names a core of them, or it has a slice length and names none at all (R336, log entry 86). -/
def Part.shares (pt : Part) (cores : BitVec 320) : Bool :=
  pt.loaded.isSome && (decide (pt.inForce.want &&& cores ≠ 0) || (decide (pt.inForce.slice ≠ 0) && decide (pt.inForce.want = 0)))
/-- The partition to which a partition's cores pass in turn: the next in number that holds none or names some of them, after the highest the
lowest, and itself where no other shares them (R336). -/
def State.nextSharer (s : State) (p : Nat) : Nat :=
  let h := (s.part p).held
  let qs := (List.range 64).filter fun q => q != p && (s.part q).shares h &&
    (decide ((s.part q).held = 0) || decide ((s.part q).inForce.want &&& h ≠ 0))
  ((qs.find? fun q => decide (p < q)).or qs.head?).getD p
/-- The cores that pass from a partition to another: all that it holds, but for those that its own entry gives it exclusively, and, where the
other has no slice length, none but those that the other's entry names (R336; log entry 39). -/
def Part.passes (a b : Part) : BitVec 320 :=
  (if b.inForce.slice = 0 then a.held &&& b.inForce.want else a.held) &&& ~~~(if a.inForce.slice = 0 then a.inForce.want else 0)

/-- The lengthening of a slice by throttle debt (R336). -/
def sliceExtra (debt len : Nat) : Nat := min debt (len / 4)
/-- A slice ends: the debt takes the time lost to lowered clocks, rounded down (R336). -/
def Part.endSlice (pt : Part) : Part :=
  { pt with slice := none, debt := pt.debt + BitVec.ofNat 64 (match pt.slice with | some r => r.ninths / 9 | none => 0) }
/-- A slice starts, lengthened by what it repays of the debt; none with a length of 0, or without cores (R336). -/
def Part.startSlice (pt : Part) (now : W64) : Part :=
  let len := pt.inForce.slice.toNat
  let extra := sliceExtra pt.debt.toNat len
  if len = 0 ∨ pt.held = 0 then { pt with slice := none }
  else { pt with slice := some { start := now, len := len + extra, ninths := 0 }, debt := pt.debt - BitVec.ofNat 64 extra }

/-- Cores pass from a partition to another, which holds them from now on; the elision engine runs (R336, R369). `vf` is the function of the first. -/
def State.passCores (s : State) (a vf b : Nat) (m : BitVec 320) : State :=
  (s.onPart a fun pt => { pt with held := pt.held &&& ~~~m }).onPart b fun pt => { pt.endSlice with
    held := pt.held ||| m
    scrub := some { reason := .slice, cores := (List.range Config.nCores).filter m.getLsbD, cleared := false, found := [], outgoing := some (a, vf) }
    slots := if pt.saved = [] then List.range (2 * bitCores (pt.held ||| m)) else pt.slots }

/-- SLICE_END (R336): the cores pass in turn to the incoming partition once every step of the outgoing one is saved, and the elision
engine runs. The outgoing partition's debt takes the time lost to lowered clocks. Where no other partition shares the cores there is no change of
tenant: the next slice follows at once. -/
def execSliceEnd (outgoing incoming : Nat) (s : State) : Host.Outcome State Fault Refusal :=
  event "SLICE_END" (
    let a := s.part outgoing
    let b := s.part incoming
    if 64 ≤ outgoing || s.nextSharer outgoing != incoming then none
    else if a.loaded.isNone || !s.sliceOver outgoing || decide (s.residents outgoing ≠ []) ||
        a.resetting.isSome || a.scrub.isSome || b.resetting.isSome || b.scrub.isSome then none
    else
      let s := (s.dropReserve outgoing).onPart outgoing fun pt => { pt.endSlice with missing := [], yieldDue := [] }
      let s := if incoming = outgoing then s else s.passCores outgoing (s.vfOf outgoing) incoming (a.passes b)
      some (s.onPart outgoing fun pt => pt.startSlice s.time))

/-! ## The elision engine (R369 to R373) -/

/-- A core after the scrub (R370); its class, its debug block, its binding and its counter banks are not among the items. -/
def CoreSt.scrubbed (c : CoreSt) : CoreSt :=
  { CoreSt.reset with
    classB := c.classB, dbg := c.dbg, logical := c.logical, banks := c.banks, throttleNs := c.throttleNs, ahead := c.ahead
    flow := { Flow.reset with cyc := c.flow.cyc, portQ := c.flow.portQ } }

/-- Every core named is scrubbed at once, its ingress entries with it; the dies' translations of the partition that leaves the cores are
invalid, and the counter banks of its function released (R370, R371). -/
def State.scrubCores (s : State) (r : Scrub) : State :=
  let s := r.cores.foldl (fun s g => s.onCore g CoreSt.scrubbed) s
  let s := s.onOrd fun o => { o with ingress := o.ingress.map fun q => q.filter fun e => !r.cores.contains e.core }
  match r.outgoing with
  | none => s
  | some (p, vf) => { s.dropBanks vf with dieTlb := s.dieTlb.map fun l => l.filter fun (e : Cached) => e.part != p }

/-- The hub reads every item back: the correctable errors that it meets count at their cores, and on their dies for the partition that holds
them (R371, R381, R391). -/
def State.readBack (s : State) (found : List (Nat × Nat × Nat)) : State :=
  found.foldl (fun s x => s.coreErrors x.1 x.2.1) s

/-- The code of a token's REASON (R373). -/
def reasonCode : ScrubReason → Nat
  | .slice => 0 | .reload => 1 | .scrub => 2 | .reset => 3 | .watchdog => 4

/-- The 36 bytes of a core bitmap. -/
def coreBitmap (cores : List Nat) : List Byte := bytesOf 36 (cores.foldl (fun (m : BitVec 288) g => m ||| (1#288 <<< g)) 0)
/-- What the read-back found on a core: CORR and MISMATCH (R371). -/
def Scrub.foundOn (r : Scrub) (g : Nat) : Nat × Nat := match r.found.find? fun x => x.1 == g with | some x => x.2 | none => (0, 0)
/-- The scrub log: one record per core, ascending (R371). -/
def scrubLog (r : Scrub) : List Byte :=
  r.cores.flatMap fun g => natBytes 2 g ++ natBytes 2 0xFFF ++ natBytes 4 (r.foundOn g).1 ++ natBytes 4 (r.foundOn g).2 ++ natBytes 20 0

/-- The token of a scrub (R373). -/
def scrubToken (p : Nat) (r : Scrub) (seq time : W64) (nonce : BitVec 256) : List Byte :=
  let differs := r.cores.any fun g => decide ((r.foundOn g).2 ≠ 0)
  let body := natBytes 2 1 ++ natBytes 1 p ++ natBytes 1 (reasonCode r.reason) ++ natBytes 2 r.cores.length ++
    natBytes 2 (if differs then 1 else 0) ++ bytesOf 8 seq ++ bytesOf 8 time ++ sha384 (coreBitmap r.cores) ++ bytesOf 32 nonce ++
    sha384 (scrubLog r)
  body ++ ecdsaSign Config.deviceKey body ++ natBytes 8 0

/-- The class hold that a binding gives a core (R69, R342, R418). -/
def compatFor (i : Image) (classB : Bool) : Bool := classB && !i.classB && (i.policyCompat || i.other.isNone)
/-- colmer's binding of a partition's free cores: cr.compat and cr.tvec (R107). -/
def State.bindRegs (s : State) (p : Nat) : State :=
  match (s.part p).image with
  | none => s
  | some i => (s.partCores p).foldl (fun s g =>
      if (s.core g).step.isSome then s
      else s.onCore g fun c => { c with ctrl := { c.ctrl with compat := compatFor i c.classB, tvec := (s.part p).tvec &&& ~~~(3 : W64) } }) s

/-- The cores that a scrub gives a partition are bound: an image that has met no core yet meets them, and numbers once given are kept (R32; log
entry 57). Its scratchpad image is written then alone: a later scrub leaves the zeros of R370 there (R21; DESIGN CHOICE, log entry 107). -/
def State.numberAgain (s : State) (p : Nat) : State :=
  let pt := s.part p
  if pt.bound.any Option.isSome then s.bindCores p
  else match pt.image with
    | some i => s.bindOn p i
    | none => s

/-- Steps 3 and 4 of a scrub: SEQ, the token and LASTSEQ; then the cores are free, and colmer binds them again (R107, R371). A command
completes with its own scrub, RELOAD, SCRUB or RESET, and with no other (R362). -/
def State.storeToken (s : State) (p : Nat) (r : Scrub) : State :=
  let seq := s.hub.seq + 1
  let s : State := { s with hub := { s.hub with seq := seq } }
  let own := r.reason == .reload || r.reason == .scrub || r.reason == .reset
  let starts := r.reason == .slice || r.reason == .reload
  let s := s.onPart p fun pt => { pt with
    token := scrubToken p r seq s.time pt.entry.nonce, entry := { pt.entry with lastseq := seq }, scrub := none
    resetting := if r.reason == .reset || r.reason == .watchdog then none else pt.resetting
    purged := if r.reason == .reset || r.reason == .watchdog then false else pt.purged
    cmdstat := if pt.cmdRun && own then 1 else pt.cmdstat, cmdRun := pt.cmdRun && !own }
  let s := if starts then s.onPart p fun pt => pt.startSlice s.time else s
  (s.numberAgain p).bindRegs p

/-- A scrub of another partition is between its clearing and its token on a common core: scrubs of one core never overlap (R372). -/
def State.scrubHeld (s : State) (p : Nat) (r : Scrub) : Bool :=
  (List.range 64).any fun q => q != p && (match (s.part q).scrub with
    | some x => x.cleared && x.cores.any r.cores.contains
    | none => false)

/-- What a RELOAD takes from its partition or gives it is held by no other any more, whose slice ends where it holds nothing else (R361, R370; log
entry 39). -/
def State.takeFromOthers (s : State) (p : Nat) (cores : List Nat) : State :=
  (List.range 64).foldl (fun s q =>
    if q = p ∨ !cores.any (s.partHas q) then s
    else s.onPart q fun pt =>
      let held := cores.foldl (fun (m : BitVec 320) g => m &&& ~~~(1#320 <<< g)) pt.held
      { (if held = 0 then pt.endSlice else pt) with
        held := held, bound := pt.bound.map fun (x : Option Nat) => if x.any cores.contains then none else x }) s

/-- ELISION_SCRUB (R371): the next act of the engine for a partition: the clearing of the cores, once no step is
resident on them, and what the read-back found on them, then the token; before a reset's scrub, the purge of step 3 of R368, once every core of the partition is free. -/
def execElisionScrub (a : ScrubTurn) (s : State) : Host.Outcome State Fault Refusal :=
  let p := a.part
  event "ELISION_SCRUB" (if 64 ≤ p then none else
    match (s.part p).scrub with
    | some r =>
      if r.cleared then some (s.storeToken p r)
      else if s.scrubHeld p r || r.cores.any (fun g => (s.core g).step.isSome) || !(a.found.all fun x => r.cores.contains x.1) || !(a.found.map fun x => x.1).Nodup then none
      else
        let s := if r.reason == .reload then s.takeFromOthers p r.cores else s
        some (((s.scrubCores r).readBack a.found).onPart p fun pt => { pt with scrub := some { r with cleared := true, found := a.found } })
    | none => match (s.part p).resetting with
      | some why =>
        if s.residents p ≠ [] then none
        else s.hubNext (s.purge p why)
      | none => none)

end Sys2Proof.Machine
end

