-- ==== Sys2Proof/Machine/Tables.lean ====
section
/-! DEFINITION. The partition commands (R361, R362), migration logging (R375, R376) and the counter banks (R378 to R380). -/

namespace Sys2Proof.Machine

/-! ## Commands -/

/-- A command of a partition: one written while another runs, or during the drain of a reset, completes BUSY and does nothing
(R362, R397). -/
def State.command (s : State) (p : Nat) (f : State → Option State) : Option State :=
  if 64 ≤ p then none
  else if (s.part p).cmdRun || (s.part p).resetting.isSome then some (s.onPart p fun pt => { pt with cmdstat := 2 })
  else f s
/-- A command completes with a status (R362). -/
def State.cmdDone (s : State) (p st : Nat) : State := s.onPart p fun pt => { pt with cmdstat := st }

/-- A core is active under R31. -/
def State.activeCore (s : State) (g : Nat) : Bool :=
  vget false (vget (.replicate 18 false) s.pkg.quadActive (Config.dieOf g)) (Config.quadOf g)

/-- A refusal of RELOAD: its status (R361). Cores that a partition holds by a slice and does not name are no conflict (log entry 39). -/
def State.reloadRefused (s : State) (p : Nat) : Option Nat :=
  let pt := s.part p
  let e := pt.entry
  let others := (List.range 64).filter fun q => q != p && (s.part q).loaded.isSome
  let vf := e.state.toNat / 256 % 64
  if (others.any fun q => decide ((s.part q).inForce.want &&& e.cores ≠ 0)) ||
      ((List.range Config.nCores).any fun g => e.cores.getLsbD g && !s.activeCore g) then some 3
  else if s.occupied p && decide (e.cores ≠ pt.inForce.cores) then some 2
  else if decide (e.resv ≠ []) || decide (e.state &&& 0xFFFFFFFFFFFFC0E0 ≠ 0) || decide (e.cores.toNat / 2 ^ 288 ≠ 0) || decide (e.ptroot.toNat % 32768 ≠ 0) ||
      (others.any fun q => s.vfOf q == vf) then some 4
  else none

/-- A partition with an entry in force in place of another, whose cores change or not: what it holds, its save slots, and its image, which one
that is defined no more has not (R5, R361); its range entries may be used from now on, and are used alone after the next FLUSH (R273). Of its
cores it holds what it held and the new entry still names, with what the entry adds; others' that it holds by a slice it keeps (log entry 39). -/
def Part.reloaded (pt : Part) (e : PartEntry) (changed : Bool) : Part :=
  let on := e.state.getLsbD 0
  let old := pt.inForce.want
  let pt : Part := { pt with
    loaded := if on then some e else none
    held := (pt.held &&& ~~~(old &&& ~~~e.want)) ||| (e.want &&& ~~~old)
    newRanges := if on && decide (e.ranges ≠ pt.ranges) then some e.ranges else none
    slots := if changed then List.range (2 * bitCores e.want) else pt.slots }
  if on then pt else { pt with image := none, bound := .replicate 256 none, tvec := 0, refusal := none, code := [], bindNeed := clkZero }

/-- What a partition that is defined no more holds by a slice passes to the partitions whose entries name it (R336; log entry 39). -/
def State.giveBack (s : State) (p vf : Nat) : State :=
  (List.range 64).foldl (fun s q =>
    let mine := (s.part q).inForce.want &&& (s.part p).held
    if q = p ∨ mine = 0 then s else s.passCores p vf q mine) s

/-- RELOAD accepted: the entry is in force, and the cores that a changed CORES adds or removes are scrubbed (R361, R369, R370), once the steps
that another partition runs on them by a slice are saved. A slice whose length and cores stay runs on, and so does one in which a partition that
is to hold its cores exclusively holds others'; another starts, after the scrub where there is one (R336; log entry 39). -/
def State.reloadNow (s : State) (p : Nat) : State :=
  let pt := s.part p
  let e := pt.entry
  let old := pt.inForce.want
  let delta := (List.range Config.nCores).filter fun g => e.want.getLsbD g != old.getLsbD g
  let vf := s.vfOf p
  let on := e.state.getLsbD 0
  let s := s.onPart p fun pt => pt.reloaded e (decide (delta ≠ []))
  let s := if on then s else s.giveBack p vf
  if delta = [] then
    let runsOn := on && (decide (e.slice = pt.inForce.slice) || (decide (e.slice = 0) && decide (pt.held ≠ old)))
    (if runsOn then s else s.onPart p fun pt => pt.endSlice.startSlice s.time).cmdDone p 1
  else
    (s.askSave (delta.filter fun g => (s.core g).step.isSome)).onPart p fun pt => { pt.endSlice with
      cmdRun := true, cmdstat := 0
      scrub := some { reason := .reload, cores := delta, cleared := false, found := []
                      outgoing := if delta.any fun g => old.getLsbD g then some (p, vf) else none } }

/-- RELOAD is refused, or takes effect (R361). -/
def State.reloadTry (s : State) (p : Nat) : State :=
  match s.reloadRefused p with
  | some st => s.cmdDone p st
  | none => s.reloadNow p
/-- A RELOAD waits for the scrub of a slice or reset that runs on the partition's cores, or on those that it holds of another (R361 lists no
refusal for it; log entry 39). -/
def State.reloadWaits (s : State) (p : Nat) : Bool :=
  let pt := s.part p
  let runs (x : Part) : Bool := x.scrub.isSome || x.resetting.isSome
  runs pt || (List.range 64).any fun q =>
    q != p && runs (s.part q) && decide ((s.part q).inForce.want &&& (pt.held &&& ~~~pt.inForce.want) ≠ 0)
/-- A command runs on until what it waits for is over. -/
def State.deferCommand (s : State) (p code : Nat) : State :=
  s.onPart p fun pt => { pt with cmdRun := true, cmdstat := 0, pend := some { code := code, need := clkZero, round := none } }
/-- The command RELOAD. -/
def State.cmdReload (s : State) (p : Nat) : Option State := s.command p fun s =>
  some (if s.reloadWaits p then s.deferCommand p 1 else s.reloadTry p)
/-- RELOAD (R361). -/
def execReload (p : Nat) (s : State) : Host.Outcome State Fault Refusal := event "RELOAD" (s.cmdReload p)

/-- Every cached translation of a partition is invalid, on every core and die, and accesses use the current entries (R273, R362). -/
def State.flushNow (s : State) (p : Nat) : State :=
  let keep (l : List Cached) : List Cached := l.filter fun e => e.part != p
  let s := s.onPart p fun pt => { pt with newRanges := none, ranges := pt.inForce.ranges, ptroot := pt.inForce.ptroot }
  { s with cores := s.cores.map fun c => { c with tlb := keep c.tlb }, dieTlb := s.dieTlb.map keep }

/-- The stamps of every write performed so far. -/
def State.stampsNow (s : State) : Clock := (List.range 4).foldl (fun v d => clkPut v d (clk (s.ord.dieClock d) d)) clkZero

/-- A command waits until every write performed before it has been applied at every die, so that every walk finds the current entries (R362,
R399; log entry 87). -/
def State.pendCommand (s : State) (p code : Nat) (round : Option LogRound) : State :=
  s.onPart p fun pt => { pt with cmdRun := true, cmdstat := 0, pend := some { code := code, need := s.stampsNow, round := round } }

/-- A block of a partition is READY or RUNNING. -/
def State.busyBlocks (s : State) (p : Nat) : Bool :=
  let pt := s.part p
  (pt.nodes.any fun n => decide (0 < n.next) || pt.ready.contains (.node n.addr)) ||
    (match s.hub.hubCopy with | some h => h.part == p | none => false)
/-- SCRUB is refused, or starts the elision engine (R362, R369). -/
def State.scrubTry (s : State) (p : Nat) : State :=
  if s.occupied p || s.busyBlocks p then s.cmdDone p 2
  else s.onPart p fun pt => { pt with
    cmdRun := true, cmdstat := 0, scrub := some { reason := .scrub, cores := s.partCores p, cleared := false, found := [], outgoing := some (p, s.vfOf p) } }

/-- The command that waits in a partition completes where it may: RELOAD and SCRUB begin once no scrub runs; FLUSH has run; LOGSTOP clears LOGGING; the log of the
closed round is handed over (R362, R375, R376). -/
def State.settlePart (s : State) (p : Nat) : State :=
  match (s.part p).pend with
  | none => s
  | some x =>
    let free (s : State) : State := s.onPart p fun pt => { pt with cmdRun := false, pend := none }
    if x.code = 1 then (if s.reloadWaits p then s else (free s).reloadTry p)
    else if x.code = 4 then (if (s.part p).scrub.isSome || (s.part p).resetting.isSome then s else (free s).scrubTry p)
    else if !s.ord.appliedAll x.need then s
    else (s.flushNow p).onPart p fun pt => { pt with
      cmdRun := false, cmdstat := 1, pend := none, handed := if x.round.isSome then x.round else pt.handed
      entry := { pt.entry with state := if x.code = 7 then pt.entry.state &&& ~~~(4 : W64) else pt.entry.state } }

/-- What waits in the hub goes on: its owed writes, and the commands of the partitions. -/
def State.settle (s : State) : State :=
  let s := s.settleOwed s.hub.owed.length
  ((List.range 64).filter fun p => (s.part p).pend.isSome).foldl State.settlePart s

/-- The command FLUSH. -/
def State.cmdFlush (s : State) (p : Nat) : Option State := s.command p fun s => some ((s.pendCommand p 2 none).settlePart p)
/-- FLUSH (R273, R362). -/
def execFlush (p : Nat) (s : State) : Host.Outcome State Fault Refusal := event "FLUSH" (s.cmdFlush p)

/-- The command RESET. -/
def State.cmdReset (s : State) (p : Nat) : Option State := s.command p fun s =>
    some ((s.onPart p fun pt => { pt with cmdRun := true, cmdstat := 0 }).startReset p .reset)
/-- RESET (R368). -/
def execReset (p : Nat) (s : State) : Host.Outcome State Fault Refusal := event "RESET" (s.cmdReset p)

/-- The command SCRUB; it waits for the scrub of a slice that runs (log entry 39). -/
def State.cmdScrub (s : State) (p : Nat) : Option State := s.command p fun s =>
  some (if s.occupied p || s.busyBlocks p || (s.part p).scrub.isNone then s.scrubTry p else s.deferCommand p 4)
/-- SCRUB (R362, R369). -/
def execScrub (p : Nat) (s : State) : Host.Outcome State Fault Refusal := event "SCRUB" (s.cmdScrub p)

/-! ## Migration logging (R375, R376) -/

/-- D is cleared in a leaf of a partition as an arbitrated operation of the home die of its line (R293, R296). -/
def State.clearLeaf (s : State) (p addr : Nat) : State :=
  let d := homeDie addr
  let e := word64 (s.ord.readView d addr 8)
  if !pteBit e 5 then s
  else (s.onOrd fun o => o.arbitrated d addr (bytesOf 8 (e &&& ~~~(0x20 : W64)))).enterMem p d addr

/-- Apply an act to each of some entries of a table in turn. -/
def overTable (f : Nat → State → Option State) : List Nat → State → Option State
  | [], s => some s
  | i :: is, s => match f i s with
    | some t => overTable f is t
    | none => none

/-- D is cleared in every leaf of a partition's tables from one table down; none: it must wait, since the home die of an entry's line does not
see every update that has performed there (R271, R293). Each line read enters for the partition (R366). -/
def clearTables (p : Nat) : List (Nat × Nat) → Nat → Nat → State → Option State
  | [], _, _, s => some s
  | (_, n) :: ls, l, table, s =>
    overTable (fun i s =>
      let addr := table + 8 * i
      if !inMemory addr then some s
      else if !s.ord.mayArbitrate (homeDie addr) addr then none
      else
        let s := if i % 8 = 0 then s.enterMem p (homeDie addr) addr else s
        let e := word64 (s.ord.readView (homeDie addr) addr 8)
        if !pteBit e 0 then some s
        else if ls = [] ∨ pteBit e 8 then some (if 2 ≤ l then s.clearLeaf p addr else s)
        else clearTables p ls (l + 1) (ptePA e) s) (List.range n) s

/-- D is cleared in every leaf of a partition's tables. -/
def State.clearD (s : State) (p : Nat) : Option State :=
  clearTables p ptLevels 0 ((s.part p).ptroot.toNat / 4096 % 2 ^ 40 * 4096) s

/-- The bytes of a partition's coarse bitmap: a bit for each 2 MiB region of its extents (R377). -/
def Part.coarseBytes (pt : Part) : Nat :=
  let ls := (List.range 8).map fun i => (vget 0 pt.extents (2 * i + 1)).toNat
  (((ls.takeWhile fun n => n ≠ 0).foldl (fun n l => n + l / 2 ^ 21) 0) + 7) / 8
/-- The round of the log that is open, as it is handed over (R376). -/
def State.logRound (s : State) (p : Nat) : LogRound :=
  let pt := s.part p
  { pages := (pt.logPages.take pt.entry.logcount.toNat).map fun x => BitVec.ofNat 64 (x.1 % 2 ^ 48), coarse := pt.entry.state.getLsbD 3
    bitmap := s.physRead (pt.inForce.logbase.toNat + 2 ^ 19) pt.coarseBytes }

/-- A new round of the log is open: LOGCOUNT and COARSE are zero with the bitmap, D is clear in every leaf, and the round's range-entry pages are
forgotten (R375, R376). -/
def State.openRound (s : State) (p : Nat) : Option State :=
  let pt := s.part p
  (((s.enterRange p (pt.inForce.logbase.toNat + 2 ^ 19) pt.coarseBytes).physWrite p (pt.inForce.logbase.toNat + 2 ^ 19) (List.replicate pt.coarseBytes 0)).onPart p fun pt => { pt with
    entry := { pt.entry with logcount := 0, state := pt.entry.state &&& ~~~(8 : W64) }, logPages := [] }).clearD p

/-- The command LOGSTART: what performs from the clearing of D on is logged, and it completes with the FLUSH (R375). -/
def State.cmdLogstart (s : State) (p : Nat) : Option State := s.command p fun s =>
  (s.openRound p).map fun t => ((t.onPart p fun pt => { pt with entry := { pt.entry with state := pt.entry.state ||| 4 } }).pendCommand p 5 none).settlePart p
/-- LOGSTART (R375). -/
def execLogstart (p : Nat) (s : State) : Host.Outcome State Fault Refusal := event "LOGSTART" (s.cmdLogstart p)

/-- The command LOGROUND. -/
def State.cmdLoground (s : State) (p : Nat) : Option State := s.command p fun s =>
  (s.openRound p).map fun t => (t.pendCommand p 6 (some (s.logRound p))).settlePart p
/-- LOGROUND (R376). -/
def execLoground (p : Nat) (s : State) : Host.Outcome State Fault Refusal := event "LOGROUND" (s.cmdLoground p)

/-- The command LOGSTOP. -/
def State.cmdLogstop (s : State) (p : Nat) : Option State := s.command p fun s =>
  (s.openRound p).map fun t => (t.pendCommand p 7 (some (s.logRound p))).settlePart p
/-- LOGSTOP: logging ends after one final round (R362). -/
def execLogstop (p : Nat) (s : State) : Host.Outcome State Fault Refusal := event "LOGSTOP" (s.cmdLogstop p)

/-! ## Counter banks (R378 to R380) -/

/-- A counter bank of a die. -/
def State.bank (s : State) (d b : Nat) : Bank := vget .reset (vget (.replicate 16 .reset) s.hub.banks d) b
/-- Replace it. -/
def State.setBank (s : State) (d b : Nat) (x : Bank) : State :=
  { s with hub := { s.hub with banks := vset s.hub.banks d (vset (vget (.replicate 16 .reset) s.hub.banks d) b x) } }

/-- A claim by a guest, or by the hypervisor (R379). -/
def bankClaimed (b : Bank) : Option Nat → Bank
  | some f => if b.holder = 0 then { b with holder := 1, guest := f, stolen := false, cnt := .replicate 8 0 } else b
  | none =>
    if b.holder = 0 then { b with holder := 2, guest := 0, stolen := false, cnt := .replicate 8 0 }
    else if b.holder = 1 then { b with holder := 3, saveArea := b.cnt, stolen := true }
    else b

/-- A release by a guest, or by the hypervisor (R379). -/
def bankReleased (b : Bank) : Option Nat → Bank
  | some f =>
    if b.guest ≠ f then b
    else if b.holder = 1 then { b with holder := 0, guest := 0, stolen := false }
    else if b.holder = 3 then { b with holder := 2, guest := 0, stolen := false }
    else b
  | none =>
    if b.holder = 2 then { b with holder := 0 }
    else if b.holder = 3 then { b with holder := 1, cnt := b.saveArea }
    else b

/-- BANK_CLAIM (R379). -/
def execBankClaim (d b : Nat) (fn : Option Nat) (s : State) : Host.Outcome State Fault Refusal :=
  event "BANK_CLAIM" (if d < 4 ∧ b < 16 then some (s.setBank d b (bankClaimed (s.bank d b) fn)) else none)
/-- BANK_RELEASE (R379). -/
def execBankRelease (d b : Nat) (fn : Option Nat) (s : State) : Host.Outcome State Fault Refusal :=
  event "BANK_RELEASE" (if d < 4 ∧ b < 16 then some (s.setBank d b (bankReleased (s.bank d b) fn)) else none)

/-- The host has read some bytes. -/
def State.gave (s : State) (bs : List Byte) : State := s.onOrd fun o => { o with hostRead := bs }

/-- A guest holds a bank, frozen or not (R379). -/
def Bank.heldBy (b : Bank) (fn : Nat) : Bool := (decide (b.holder = 1) || decide (b.holder = 3)) && decide (b.guest = fn)
/-- The value of a counter as its guest reads it, with the virtual offset; a frozen one reads its saved value (R379, R380). -/
def Bank.value (b : Bank) (c : Nat) : W64 := vget 0 (if b.holder = 3 then b.saveArea else b.cnt) c + vget 0 b.ofs c

/-- COUNTER_LO_READ (R380): a function reads LO of a counter, and its HI latch takes the upper half. A bank that it does not hold
reads zero (R364). -/
def execCounterLoRead (fn d b c : Nat) (s : State) : Host.Outcome State Fault Refusal :=
  event "COUNTER_LO_READ" (if fn < 64 ∧ d < 4 ∧ b < 16 ∧ c < 8 then
    let x := s.bank d b
    if x.heldBy fn then
      some ({ s with hub := { s.hub with hiLatch := vset s.hub.hiLatch fn ((x.value c).extractLsb' 32 32) } }.gave (bytesOf 4 (x.value c)))
    else some (s.gave (natBytes 4 0))
  else none)

/-- The control register of a bank as it reads (R378). -/
def Bank.control (b : Bank) : W64 := BitVec.ofNat 64 ((if b.stolen then 2 ^ 23 else 0) + b.guest % 64 * 2 ^ 16 + b.holder % 4 * 256)

/-- COUNTER_BANK_CONTROL_READ (R378, R379): a read by the guest clears STOLEN where the holder is 1. -/
def execCounterBankControlRead (fn d b : Nat) (s : State) : Host.Outcome State Fault Refusal :=
  event "COUNTER_BANK_CONTROL_READ" (if fn < 64 ∧ d < 4 ∧ b < 16 then
    let x := s.bank d b
    let s := s.gave (bytesOf 8 x.control)
    some (if x.holder = 1 ∧ x.guest = fn then s.setBank d b { x with stolen := false } else s)
  else none)

end Sys2Proof.Machine
end

