-- ==== Sys2Proof/Machine/Debug.lean ====
section
/-! DEFINITION. Trap entry (R240), errors (R255, R288, R366, R367), breakpoints, watch ranges and stops (R256 to R258, R394). -/

namespace Sys2Proof.Machine

/-- TRAP_ENTRY (R240): a trap is pending, and every unit queue is empty or held. -/
def execTrapEntry (g : Nat) (s : State) : Host.Outcome State Fault Refusal :=
  coreEvent "TRAP_ENTRY" g (match (s.core g).status with
    | .trapping t => if (s.core g).settled then some (s.enterTrap g t) else none
    | _ => none)

/-! ## Errors -/

namespace CoreSt

/-- A token of the core is outstanding, or an operation is held (R255). -/
def tokenOpen (c : CoreSt) : Bool :=
  (List.range 8).any (fun w => decide ((c.token w).out ≠ 0)) || decide (c.heldFaults ≠ []) || decide (c.flow.memHeld ≠ []) ||
    decide (c.flow.mheld ≠ []) || decide (c.flow.xheld ≠ []) || decide (c.dom.held ≠ [])

/-- The record of an uncorrectable error (R237, R255): RESTART where a reduction is open, which none is after
END (R164), or a token outstanding or held. -/
def errorTrap (c : CoreSt) (kind : BitVec 4) (unit : Byte) (row col : W16) : TrapInfo :=
  { blankTrap .uncorrectable with
    restart := (decide (c.files.openAcc ≠ 0) && c.status != .ended) || c.tokenOpen, ended := c.status == .ended
    bundle := c.pc, resume := c.pc, sched := c.flow.sched, kind := kind, unit := unit, row := row, col := col }

end CoreSt

/-- The bitmap of some partitions. -/
def partBits (ps : List Nat) : W64 := ps.foldl (fun m p => m ||| (1#64 <<< p)) 0

/-- The ownership bitmap of an instance of a structure (R366). -/
def State.ownersKnown (s : State) (row inst : Nat) : W64 :=
  match row with
  | 0 => vget 0 s.hub.fabricOwn inst
  | 1 => partBits ((vget [] s.ord.ingress inst).map fun e => e.part)
  | 2 => amGet 0 s.hub.chanOwn inst
  | 3 => amGet 0 s.hub.chanOwn (1024 + inst)
  | 4 => partBits ((List.range 64).filter fun p =>
      decide ((s.part p).ready ≠ []) || s.hub.queues.any fun q => q.2.part == p && q.2.resident)
  | 5 => (match s.hub.hubCopy with | some h => partBits [h.part] | none => 0)
  | _ => 0

/-! ### Operations that an error meets (R288, R367) -/

/-- The physical line of an address of a partition, as a core, a die or the hub translates it. -/
def State.lineFor (s : State) (p : Nat) (core die : Option Nat) (va : W64) : Option Nat :=
  match s.translate p core die va needNone with
  | .ok x => some (x.pa / 64)
  | .fault _ _ => none
/-- The physical line of an address of a core's step. -/
def State.lineOf (s : State) (g : Nat) (va : W64) : Option Nat := s.lineFor (s.partOf g) (some g) (some (Config.dieOf g)) va

/-- The line that a copy command is about to reach: the next to read or to write, of a pipe in a scratchpad. -/
def State.copyAt (s : State) (g : Nat) (x : XCmd) : Option Nat :=
  let wr := x.line.isSome
  if x.pipe then some ((windowBase (if wr then x.peer else g) + (if wr then x.dst else x.src).toNat + x.bytes) / 64)
  else s.lineOf g (if wr then x.dstVa else x.srcVa)
/-- The lines that a core's fetch is about to read. -/
def State.fetchLines (s : State) (g : Nat) : List Nat :=
  let c := s.core g
  if c.status != .running || c.reached.grp.isSome then []
  else
    let n := (s.groupLen g 12 c.pcVa).getD 4
    (List.range (n / 64 + 2)).filterMap fun i =>
      if 64 * i < c.pcVa.toNat % 64 + n then s.lineOf g (c.pcVa + BitVec.ofNat 64 (64 * i)) else none

/-- What of a core is about to reach a line: the head of its queue, its copy command, its poll, its fetch. -/
structure Meets where
  op : Bool
  copy : Bool
  poll : Bool
  fetch : Bool
  deriving DecidableEq, Repr

/-- What of a core an error in a line meets. -/
def State.meets (s : State) (g line : Nat) : Meets :=
  let c := s.core g
  { op := (match c.flow.mem with | q :: _ => q.fault.isNone && s.lineOf g q.lineVa == some line | [] => false)
    copy := (match c.headCopy with | some x => s.copyAt g x == some line | none => false)
    poll := c.polls && (match c.pollPlace with | some (va, _) => s.lineOf g va == some line | none => false)
    fetch := (s.fetchLines g).contains line }
/-- An error in a line meets something of a core. -/
def State.isMet (s : State) (g line : Nat) : Bool := let m := s.meets g line; m.op || m.copy || m.poll || m.fetch

/-- What the error met does not complete (R288, R367). -/
def State.stick (s : State) (line g : Nat) : State :=
  let m := s.meets g line
  s.onCore g fun c =>
    let c := if m.op then { c with flow := { c.flow with mem := match c.flow.mem with
      | q :: qs => { q with stuck := true, portAt := .none } :: qs
      | [] => [] } } else c
    let c := if m.copy then { c with flow := { c.flow with xq := match c.flow.xq with
      | x :: xs => { x with stuck := true, portAt := .none } :: xs
      | [] => [] } } else c
    if m.poll || m.fetch then { c with reached := { c.reached with stuck := true, pollPort := .none } } else c

/-- An error in a line meets the copy node that the hub runs. -/
def State.hubMet (s : State) (line : Nat) : Bool :=
  match s.hub.hubCopy with
  | none => false
  | some h => match s.node? h.part h.node with
    | none => false
    | some n =>
      let x := { nodeCmd n with buf := h.buf }
      s.lineFor h.part none (some (s.nodeDie h.part h.node)) (if x.line.isSome then x.dstVa else x.srcVa) == some line
/-- The copy node that the hub runs does not complete. -/
def State.stickHub (s : State) : State := s.setHubCopy (s.hub.hubCopy.map fun h => { h with stuck := true, portAt := .none })

/-- A core is one of the stand-in quad that a running quad repair maps: an error there refuses the repair (R415). -/
def State.standInError (s : State) (g : Nat) : Bool :=
  let die := repDie s.hub.repairRun
  s.repairs 0 && (match s.standIn die with | some q => (quadCores die q).contains g | none => false)

/-- CORE_UNCORRECTABLE_ERROR (R255): the core traps before its next group issues. In a line of its scratchpad (KIND 6, ROW the line's number)
the accesses of others that are about to reach it do not complete, and the core's partition, which is its blast set, takes a record of KIND 1
with STRUCT 0xFF and INSTANCE the core (R288, R366; log entry 89). -/
def execCoreUncorrectableError (g : Nat) (kind : BitVec 4) (unit : Byte) (row col : W16) (s : State) : Host.Outcome State Fault Refusal :=
  coreEvent "CORE_UNCORRECTABLE_ERROR" g (
    let c := s.core g
    let pa := windowBase g + 64 * row.toNat
    let hit := if kind = 6 then (List.range Config.nCores).filter fun h => s.isMet h (pa / 64) else []
    let hub := decide (kind = 6) && s.hubMet (pa / 64)
    let met := decide (hit ≠ []) || hub
    let runs := c.status == .running || c.status == .ended
    if s.standInError g then some (s.setRepair 3)
    else if !runs && !met then none
    else
      let t := hit.foldl (fun s h => s.stick (pa / 64) h) (if hub then s.stickHub else s)
      let t := match s.ownerOf g with
        | some p => if met then t.deliverBlast p (blastRecord 1 0xFF g s.time (1#64 <<< p) pa) else t
        | none => t
      some (if runs then t.takeTrapOn g (c.errorTrap kind unit row col) else t))

/-- The die whose fabric buffers hold the requests to a line beside those of the requesting die; 4 is the hub (R366). -/
def lineFabric (pa : Nat) : Nat :=
  match onChip pa with
  | some (g, _) => Config.dieOf g
  | none => if inTier1 pa then tierDie pa else 4
/-- A line is one of a register-file window of a die, whose writes enter the die's ingress buffer (R278). -/
def depositsAt (inst pa : Nat) : Bool :=
  match onChip pa with | some (g, off) => decide (Config.dieOf g = inst) && decide (Config.spadBytes ≤ off) | none => false
/-- The physical address that an ingress entry writes. -/
def Entry.target (e : Entry) : Nat := if e.host then e.addr else windowBase e.core + e.addr
/-- The entries of a die's ingress buffer that an error in a line meets are never applied (R367). -/
def State.stickEntries (s : State) (d line : Nat) : State :=
  let stick (e : Entry) : Entry := if e.target / 64 == line then { e with stuck := true } else e
  s.onOrd fun o => { o with ingress := vset o.ingress d ((vget [] o.ingress d).map stick) }

/-- SHARED_UNCORRECTABLE_ERROR (R288, R366, R367): a blast record for every partition whose bit is set. The operations about to reach the line
through the structure do not complete; in an ingress buffer, the entries for the line; in the hub copy engine, the node that it runs. -/
def execSharedUncorrectableError (row inst pa : Nat) (s : State) : Host.Outcome State Fault Refusal :=
  event "SHARED_UNCORRECTABLE_ERROR" (if 6 ≤ row then none else
    let near (d : Nat) : Bool := row = 2 || row = 3 || (row = 0 && (d = inst || lineFabric pa = inst))
    let passes (g : Nat) : Bool := near (Config.dieOf g) || (row = 1 && depositsAt inst pa)
    let hit := (List.range Config.nCores).filter fun g => passes g && s.isMet g (pa / 64)
    let hubDie := match s.hub.hubCopy with | some h => s.nodeDie h.part h.node | none => 4
    let hub := row = 5 || ((near hubDie || (row = 1 && depositsAt inst pa)) && s.hubMet (pa / 64))
    let owners := s.ownersKnown row inst ||| partBits (hit.map s.partOf) |||
      (match s.hub.hubCopy with | some h => if hub then partBits [h.part] else 0 | none => 0)
    let t := hit.foldl (fun s g => s.stick (pa / 64) g) (if hub then s.stickHub else s)
    let t := if row = 1 then t.stickEntries inst (pa / 64) else t
    let rec' := blastRecord 1 row inst s.time owners (pa / 64 * 64)
    some ((List.range 64).foldl (fun s p => if owners.getLsbD p then s.deliverBlast p rec' else s) t))

/-- The die of an instance of a structure of R366: 3 stacks of 17 channels to a die (R1, R366); 4 is the hub. -/
def structDie (row inst : Nat) : Nat :=
  match row with
  | 0 => inst
  | 1 => inst
  | 2 => inst / 51
  | _ => 4

/-- CORRECTABLE_ERROR (R367, R381): row 0 to 5 is a structure of R366; 6 is a core's own state. -/
def execCorrectableError (row inst : Nat) (s : State) : Host.Outcome State Fault Refusal :=
  event "CORRECTABLE_ERROR" (
    if row < 6 then
      let k := row * 1024 + inst % 1024
      some ({ s with hub := { s.hub with corrErr := amSet 0 s.hub.corrErr k (amGet 0 s.hub.corrErr k + 1) } }.dieError
        (structDie row inst) (s.ownersKnown row inst) 1)
    else if row = 6 ∧ inst < Config.nCores then
      some (s.coreErrors inst 1)
    else none)

/-! ## Stops (R256 to R258) -/

/-- A core has reached a group, which is about to issue in step mode (R394). -/
def CoreSt.atGroup (c : CoreSt) : Option Group :=
  if c.status == .running && !c.ctrl.handler && !c.dbg.stopped && decide (c.reached.fetchLeft = 0) then c.reached.grp else none

/-- The core is at a stop: everything in flight has landed (R256). -/
def State.stopCore (s : State) (g : Nat) : State :=
  s.onCore g fun c =>
    let c := c.landAll
    { c with dbg := { c.dbg with stopped := true }, req := { c.req with stop := false } }

/-- A stop of a core that no debugger owns becomes the trap BREAK (R236, R394). -/
def State.breakTrap (s : State) (g index : Nat) : State :=
  let c := s.core g
  (s.onCore g fun c => { c with req := { c.req with stop := false } }).takeTrapOn g
    { CoreSt.blankTrap .breakpt with info := BitVec.ofNat 16 index, bundle := c.pc, resume := c.pc, sched := c.flow.sched }

/-- Breakpoint b of a core is enabled and names a group. -/
def CoreSt.bpAt (c : CoreSt) (b : Nat) (a : Addr) : Bool :=
  let w := vget 0 c.dbg.bp b
  w.getLsbD 0 && (w &&& ~~~(3 : W64)).setWidth 60 == a
/-- A breakpoint only writes a trace record (R394). -/
def CoreSt.bpTraces (c : CoreSt) (b : Nat) : Bool := (vget 0 c.dbg.bp b).getLsbD 1

/-- Breakpoint b fires (R394): a record, a stop, or BREAK. -/
def State.breakAt (s : State) (g b : Nat) : State :=
  let c := s.core g
  let s := s.onCore g fun c => { c with reached := { c.reached with broke := true } }
  if c.bpTraces b then s.traceIf g true 1 b c.pc
  else if c.dbg.owned then s.stopCore g
  else s.breakTrap g b

/-- BREAKPOINT (R394): it does not fire for the issue that follows `cont` (R258). -/
def execBreakpoint (g b : Nat) (s : State) : Host.Outcome State Fault Refusal :=
  coreEvent "BREAKPOINT" g (
    let c := s.core g
    match c.atGroup with
    | some x => if b < 8 && !c.reached.broke && c.bpAt b x.addr then some (s.breakAt g b) else none
    | none => none)

/-- The first byte of a watch range among some bytes. -/
def CoreSt.rangeHit (c : CoreSt) (r : Nat) (a n : Nat) : Option Nat :=
  let lo := (vget 0 c.dbg.wbase r).toNat % 2 ^ 60
  let hi := (vget 0 c.dbg.wlimit r).toNat % 2 ^ 60
  let first := max a lo
  if first < a + n ∧ first ≤ hi then some first else none

/-- Runs of bytes, one for each row: the first byte, the stride and the count of the rows, and the bytes of a row; in the local scratchpad or
in memory, read or written (R394). -/
structure Touch where
  spad : Bool
  rd : Bool
  wr : Bool
  first : W64
  stride : W64
  rows : Nat
  len : Nat
  deriving DecidableEq, Repr

/-- The first byte of a watch range among the rows of a run from row k on. -/
def CoreSt.rowsHit (c : CoreSt) (r : Nat) (t : Touch) : Nat → Nat → Option Nat
  | 0, _ => none
  | n + 1, k => match c.rangeHit r ((t.first + t.stride * BitVec.ofNat 64 k).toNat % 2 ^ 60) t.len with
    | some a => some a
    | none => c.rowsHit r t n (k + 1)

/-- The bytes that a slot addresses (R394): every row of a queue operation or a copy command, the words of an atomic, a barrier operation or a
poll, and the scratchpad bytes of a local form, MRETS among them (R170). Of PPUT and PGET those at its operands: its descriptor, and its c local
bytes, which are `slot` of the descriptor for c = 0 (R350; log entry 27). -/
def CoreSt.touches (c : CoreSt) (slot : W64 → Nat) (i : Instr) : List Touch :=
  let mem (rd wr : Bool) (a : W64) (n : Nat) : Touch := { spad := false, rd := rd, wr := wr, first := a, stride := 0, rows := 1, len := n }
  let rows (rd wr : Bool) (a b : W64) (n : Nat) : List Touch := [{ spad := false, rd := rd, wr := wr, first := a, stride := b, rows := n, len := 128 }]
  let piped (a d : SSrc) : Nat := if c.src d = 0 then slot (c.src a) else (c.src d).toNat
  match c.localAccess i with
  | some (x, n, _, _) =>
    let wr := match i with | .sts _ _ _ _ | .stv _ _ _ _ | .ast _ _ _ => true | _ => false
    (match i with
      | .adotm _ _ _ _ => [{ spad := true, rd := true, wr := false, first := x, stride := 512, rows := 16, len := 260 }]
      | _ => [{ spad := true, rd := !wr, wr := wr, first := x, stride := 0, rows := 1, len := n }])
  | none => match i with
    | .tld _ a b _ => rows true false (c.src a) (c.src b) 64
    | .tst _ a b _ => rows false true (c.src a) (c.src b) 64
    | .tldw _ a _ => [mem true false (c.src a) 2112]
    | .xtld pair _ a b _ => rows true false (c.src a) (c.src b) (if pair then 128 else 64)
    | .xtst pair _ a b _ => rows false true (c.src a) (c.src b) (if pair then 128 else 64)
    | .amoadd _ a _ _ | .amoswp _ a _ _ | .amocas _ a _ _ | .amomin _ a _ _ | .amomax _ a _ _ | .amoand _ a _ _ | .amoor _ a _ _ =>
      [mem true true (c.src a) 8]
    | .binit _ a _ _ | .arrive _ a _ _ => [mem true true (c.src a) 16]
    | .waitph _ a _ _ => [mem true false (c.src a) 16]
    | .waitbit _ a b _ => [mem true false (c.src a + (c.src b >>> 3)) 1]
    | .xcpy a b d _ => [mem true false (c.src b) (c.src d).toNat, mem false true (c.src a) (c.src d).toNat]
    | .xgo _ =>
      let run (rd wr : Bool) (a b : W64) : Touch :=
        { spad := false, rd := rd, wr := wr, first := a, stride := b, rows := c.xc.rows.toNat, len := c.xc.len.toNat }
      (if c.xc.kind.getLsbD 0 then [] else [run true false c.xc.src c.xc.sstride]) ++ [run false true c.xc.dst c.xc.dstride]
    | .mrets _ _ _ b _ => [{ mem false true (c.src b) 16384 with spad := true }]
    | .pput a b d _ => [mem true true (c.src a) 64, { mem true false (c.src b) (piped a d) with spad := true }]
    | .pget a b d _ => [mem true true (c.src a) 64, { mem false true (c.src b) (piped a d) with spad := true }]
    | _ => []

/-- The hit of a slot in range r. -/
def CoreSt.slotHit (c : CoreSt) (slot : W64 → Nat) (r : Nat) (i : Instr) : Option Nat :=
  let w := vget 0 c.dbg.wlimit r
  if !w.getLsbD 63 then none
  else (c.touches slot i).findSome? fun t =>
    if w.getLsbD 62 == t.spad && ((t.rd && w.getLsbD 61) || (t.wr && w.getLsbD 60)) then c.rowsHit r t t.rows 0 else none

/-- The SLOTSIZE of a pipe's descriptor as a core's die sees it (R330). -/
def State.slotSizeAt (s : State) (g : Nat) (va : W64) : Nat :=
  match s.translate (s.partOf g) (some g) (some (Config.dieOf g)) va needNone with
  | .ok x => match x.loc with
    | .mem _ => fld (s.ord.readView (Config.dieOf g) (x.pa + 8) 4) 0 4
    | .host => fld (amRead s.ord.host (x.pa + 8) 4) 0 4
    | .port q off => fld ((s.core q).spadRead (off + 8) 4) 0 4
    | .reg _ _ => 0
  | .fault _ _ => 0

/-- The watch hit of an issuing group: of the first range that is hit (R394). -/
def CoreSt.watchOf (c : CoreSt) (slot : W64 → Nat) (group : Addr) (g : List CoreSt.Issuing) : Option WatchHit :=
  if c.ctrl.handler then none
  else (List.range 4).findSome? fun r =>
    let hs := g.filterMap fun i => (c.slotHit slot r i.op).map fun a => (i.slot, a)
    match hs with
    | [] => none
    | h :: _ => some { range := r, va := BitVec.ofNat 60 h.2, slots := hs.foldl (fun m x => m ||| (1#12 <<< x.1)) 0, group := group
                       sched := c.flow.sched }

/-- A watch hit acts, after its group has committed (R394): a record, a stop, or WATCH. -/
def State.watchActs (s : State) (g : Nat) (h : WatchHit) : State :=
  let c := s.core g
  let s := s.onCore g fun c => { c with dbg := { c.dbg with hit := none } }
  if c.dbg.trace then s.trace g 2 h.range h.group
  else if c.dbg.owned then s.stopCore g
  else s.takeTrapOn g { CoreSt.blankTrap .watch with
    slots := h.slots, info := BitVec.ofNat 16 h.range, bundle := h.group, resume := c.pc, va := h.va, sched := h.sched
    ended := c.status == .ended }

/-- WATCH_HIT (R394). -/
def execWatchHit (g r : Nat) (s : State) : Host.Outcome State Fault Refusal :=
  coreEvent "WATCH_HIT" g (match (s.core g).dbg.hit with
    | some h =>
      if h.range = r && ((s.core g).status == .running || (s.core g).status == .ended) && !(s.core g).ctrl.handler && !(s.core g).dbg.stopped then
        some (s.watchActs g h) else none
    | none => none)

/-- STOPREQ (R394): the core stops before its next group. -/
def execStopreq (g : Nat) (s : State) : Host.Outcome State Fault Refusal :=
  coreEvent "STOPREQ" g (some (s.onCore g fun c => { c with req := { c.req with stop := true } }))

/-- A requested stop takes place before a group issues (R256): none while the core may not stop. -/
def State.stopNow (s : State) (g : Nat) : Option State :=
  let c := s.core g
  if !c.req.stop || c.dbg.stopped || c.status != .running then none
  else if c.dbg.owned then some (s.stopCore g)
  else if c.ctrl.handler then none
  else some (s.breakTrap g 0)

/-- DEBUGGER_RESUME (R258): the stopped group issues, and a breakpoint on it does not fire for this issue. -/
def execDebuggerResume (g : Nat) (s : State) : Host.Outcome State Fault Refusal :=
  coreEvent "DEBUGGER_RESUME" g (if (s.core g).dbg.stopped then
    some (s.onCore g fun c => { c with dbg := { c.dbg with stopped := false }, reached := { c.reached with broke := true } })
  else none)

/-! ## Debugger writes (R257) -/

/-- A debugger's write of a control register (R257): that of a loop level's REMAIN reaches an active level. The mode and the trap and sticky
records change only as R231 lists, UNSETTLED and the budget only as R200 does. -/
def CoreSt.dbgCr (c : CoreSt) (n : Nat) (x : W64) : CoreSt :=
  if n = 4 then c
  else if n = 6 then { c with ctrl := { c.ctrl with pivflags := x.setWidth 32 } }
  else if 0x10 ≤ n ∧ n ≤ 0x13 then
    let put (k : Nat) (ls : List Loop) : List Loop := ls.zipIdx.map fun l => if l.2 = k then { l.1 with remain := x } else l.1
    let m := c.flow.suspended.length
    { c with flow := { c.flow with
        suspended := put (n - 0x10) c.flow.suspended, loops := if n - 0x10 < m then c.flow.loops else put (n - 0x10 - m) c.flow.loops } }
  else if 0x30 ≤ n ∧ n ≤ 0x3B then c
  else c.crWrite n x

/-- Bytes with some of them replaced from an offset on. -/
def patched (bs : List Byte) (o : Nat) (data : List Byte) : List Byte := (bs.take o ++ data ++ bs.drop (o + data.length)).take bs.length

/-- A debugger's write of the loop levels, the suspended ones first, in the layout of a frame (R241, R249, R257): what was the step's or the
handler's stays so, a level whose body changes has an empty loop buffer, and one that it opens is of the mode the core is in. -/
def State.dbgLoops (s : State) (g o : Nat) (data : List Byte) : State :=
  let c := s.core g
  let m := c.flow.suspended.length
  let b := List.replicate 0xD8 0 ++ patched ((List.range 4).flatMap fun l => loopBytes (c.level l)) o data
  let put (l : Nat) : Option Loop := (s.loopOf g b l).map fun x => match c.level l with
    | some y => { x with buf := if y.start = x.start ∧ y.endA = x.endA then y.buf else [], inHandler := y.inHandler }
    | none => { x with inHandler := c.ctrl.handler }
  s.onCore g fun c => { c with flow := { c.flow with
    suspended := (List.range m).filterMap put, loops := (List.range (4 - m)).filterMap fun l => put (m + l) } }

/-- A debugger's write: at offsets of the core's window, and, beyond the window, of what has no address there (log
entry 27): lane masks from 0x1000000, control registers from 0x1001000, the copy engine's registers
from 0x1003000, the loop levels from 0x1004000, and the program counter at 0x1005000, with which an open window ends and the axis registers that
its entries have written are checked (R181). What R157, R200 and R231 let no debugger change it does not
reach. -/
def State.dbgWrite (s : State) (g ofs : Nat) (data : List Byte) : State :=
  if ofs < 0x1000000 then s.onCore g fun c => (c.setWindow ofs data).checkAxes (axesOf ofs data.length)
  else if ofs < 0x1001000 then s.onCore g fun c => c.setK ((ofs - 0x1000000) / 16 % 8) (ofs / 2 % 8) (ofBytes 16 data)
  else if ofs < 0x1002000 then s.onCore g fun c => c.dbgCr ((ofs - 0x1001000) / 8) (ofBytes 64 data)
  else if ofs < 0x1003000 then s
  else if ofs < 0x1004000 then s.onCore g fun c => c.setXc ((ofs - 0x1003000) / 8) (ofBytes 64 data)
  else if ofs < 0x1005000 then s.dbgLoops g (ofs - 0x1004000) data
  else if ofs < 0x1006000 then s.onCore g fun c => { c.checkAxes c.reached.touched with pc := ofBytes 60 data, pcHigh := 0, reached := .none }
  else s

/-- DEBUG_STATE_WRITE (R257): at a stop; one to the domain file takes effect once the unit has finished (R225). -/
def execDebugStateWrite (g ofs : Nat) (data : List Byte) (s : State) : Host.Outcome State Fault Refusal :=
  coreEvent "DEBUG_STATE_WRITE" g (
    let c := s.core g
    let dom := decide (0x286000 ≤ ofs + data.length) && decide (ofs < 0x286200)
    if !c.dbg.stopped || (dom && !(c.dom.run.isNone && decide (c.dom.ops = []))) then none
    else some (s.dbgWrite g ofs data))

/-- LATCH_PORT_WRITE (R257, R394): at a stop, the selected latch is written and its lost bit cleared. -/
def execLatchPortWrite (g : Nat) (data : W512) (s : State) : Host.Outcome State Fault Refusal :=
  coreEvent "LATCH_PORT_WRITE" g (
    let c := s.core g
    if !c.dbg.stopped then none
    else
      let k := c.dbg.latch.toNat
      let d := c.dbg.domain.toNat
      some (s.setCore g (if d = 0 then c.setSlatch k (data.setWidth 64) else if d ≤ 8 then c.setVlatch (d - 1) k data else c)))

end Sys2Proof.Machine
end

