-- ==== Sys2Proof/Machine/Host.lean ====
section
/-! DEFINITION. The host's accesses: device memory through the decoders and through a function's memory BAR (R279, R298, R363), the
hub region (R359, R360), and the register blocks of R364 and R365. -/

namespace Sys2Proof.Machine

/-! ## The hub region (R359, R360) -/

/-- A byte of an array of words. -/
def wordsByte {n : Nat} (v : Vector W64 n) (o : Nat) : Byte := byteAt (vget 0 v (o / 8)) (o % 8)
/-- A byte of an array of words replaced. -/
def setWordsByte {n : Nat} (v : Vector W64 n) (o : Nat) (b : Byte) : Vector W64 n := vset v (o / 8) (putByte (vget 0 v (o / 8)) (o % 8) b)

/-- A byte of a partition entry (R360); OCCUPIED reads as it stands. -/
def PartEntry.byte (e : PartEntry) (occ : Bool) (o : Nat) : Byte :=
  if o < 8 then byteAt ((e.state &&& ~~~(2 : W64)) ||| (if occ then 2 else 0)) o
  else if o < 0x30 then byteAt e.cores (o - 8)
  else if o < 0x38 then byteAt e.ptroot (o - 0x30)
  else if o < 0x3C then byteAt e.qfirst (o - 0x38)
  else if o < 0x40 then byteAt e.qcount (o - 0x3C)
  else if o < 0x42 then byteAt e.weight (o - 0x40)
  else if 0x44 ≤ o ∧ o < 0x48 then byteAt e.wdog (o - 0x44)
  else if 0x48 ≤ o ∧ o < 0x50 then byteAt e.slice (o - 0x48)
  else if 0x50 ≤ o ∧ o < 0x58 then byteAt e.savearea (o - 0x50)
  else if 0x58 ≤ o ∧ o < 0x60 then byteAt e.logbase (o - 0x58)
  else if 0x60 ≤ o ∧ o < 0x64 then byteAt e.logcount (o - 0x60)
  else if 0x68 ≤ o ∧ o < 0x88 then byteAt e.nonce (o - 0x68)
  else if 0x88 ≤ o ∧ o < 0x90 then byteAt e.lastseq (o - 0x88)
  else if 0x90 ≤ o ∧ o < 0x110 then wordsByte e.extents (o - 0x90)
  else if 0x800 ≤ o ∧ o < 0x1000 then wordsByte e.ranges (o - 0x800)
  else amGet 0 e.resv o

/-- A byte of a partition entry as the physical function writes it (R360): of STATE it leaves OCCUPIED, LOGGING and COARSE, and
it can only clear FAULT; LOGCOUNT and LASTSEQ are the hub's. -/
def PartEntry.setByte (e : PartEntry) (o : Nat) (b : Byte) : PartEntry :=
  if o < 8 then
    let old := byteAt e.state o
    let b := if o = 0 then (b &&& 0xE1) ||| (old &&& 0x0E) ||| (old &&& b &&& 0x10) else b
    { e with state := putByte e.state o b }
  else if o < 0x30 then { e with cores := putByte e.cores (o - 8) b }
  else if o < 0x38 then { e with ptroot := putByte e.ptroot (o - 0x30) b }
  else if o < 0x3C then { e with qfirst := putByte e.qfirst (o - 0x38) b }
  else if o < 0x40 then { e with qcount := putByte e.qcount (o - 0x3C) b }
  else if o < 0x42 then { e with weight := putByte e.weight (o - 0x40) b }
  else if 0x44 ≤ o ∧ o < 0x48 then { e with wdog := putByte e.wdog (o - 0x44) b }
  else if 0x48 ≤ o ∧ o < 0x50 then { e with slice := putByte e.slice (o - 0x48) b }
  else if 0x50 ≤ o ∧ o < 0x58 then { e with savearea := putByte e.savearea (o - 0x50) b }
  else if 0x58 ≤ o ∧ o < 0x60 then { e with logbase := putByte e.logbase (o - 0x58) b }
  else if (0x60 ≤ o ∧ o < 0x64) ∨ (0x88 ≤ o ∧ o < 0x90) then e
  else if 0x68 ≤ o ∧ o < 0x88 then { e with nonce := putByte e.nonce (o - 0x68) b }
  else if 0x90 ≤ o ∧ o < 0x110 then { e with extents := setWordsByte e.extents (o - 0x90) b }
  else if 0x800 ≤ o ∧ o < 0x1000 then { e with ranges := setWordsByte e.ranges (o - 0x800) b }
  else { e with resv := amSet 0 e.resv o b }

/-- A byte of the hub region (R359). -/
def State.regionByte (s : State) (o : Nat) : Byte :=
  if o < 0x40000 then (s.part (o / 4096)).entry.byte (s.occupied (o / 4096)) (o % 4096)
  else if o < 0x44000 then (s.part ((o - 0x40000) / 256)).token.getD (o % 256) 0
  else if o < 0x4C000 then (((s.part ((o - 0x44000) / 512)).blast.getD (o % 512 / 32) []).getD (o % 32) 0)
  else 0

/-- A write of the physical function to the hub region: the partition table alone takes it (R358, R359). -/
def State.regionWrite (s : State) (o : Nat) : List Byte → State
  | [] => s
  | b :: bs => (if o < 0x40000 then s.onPart (o / 4096) fun pt => { pt with entry := pt.entry.setByte (o % 4096) b } else s).regionWrite
      (o + 1) bs

/-! ## Reads through the decoders (R298, R405) -/

/-- A byte of device or host memory as the host reads it at a physical address: the decoders map tier 1 and tier 2 alone. -/
def State.hostByte (s : State) (pa : Nat) : Byte :=
  if hubRegion pa then s.regionByte (pa - 0x100000000000)
  else if inHost pa then amGet 0 s.ord.host pa
  else if inMemory pa then amGet 0 (s.ord.view (homeDie pa)) pa
  else 0xFF

/-! ## Writes (R279, R298) -/

/-- A partition is idle (R279): no step is resident or saved, no block is enqueued and not complete, and no static launch runs. -/
def State.partIdle (s : State) (p : Nat) : Bool :=
  !s.occupied p && decide ((s.part p).nodes = []) && !(s.part p).staticRun &&
    !(s.hub.queues.any fun q => q.2.part == p && decide (0 < q.2.count)) &&
    !(match s.hub.hubCopy with | some h => h.part == p | none => false)

/-- A partition fault of a host access (R367). -/
def State.hostFault (s : State) (p kind addr : Nat) : State := s.deliverBlast p (blastRecord kind 0xFF 0 s.time (1#64 <<< p) addr)

/-- A host write within one line of a partition's page (R263, R279): an ingress entry, a deposit, a write performed at once where
the partition is idle, or discarded with a partition fault; none while an entry finds no room (R277), or the D bit has to wait. What performs is
logged (R375), a host-windowed entry when it is applied. -/
def State.hostLine (s : State) (p : Nat) (va : W64) (pa : Nat) (h : Bool) (bs : List Byte) : Option State :=
  let entry (core off : Nat) (page : Option W64) (s : State) : Option State :=
    if s.ingressRoom core then
      some ((s.ingressAdd { core := core, host := page.isSome, addr := off, bytes := bs, part := p, va := page, stuck := false }).enterAt p
        (Config.dieOf core) (.port core off) pa)
    else none
  let write (s : State) : State := match onChip pa with
    | some (g, off) => (s.onCore g fun c => c.spadWrite off bs).enterAt p (Config.dieOf g) (.port g off) pa
    | none =>
      if inHost pa then (s.onOrd fun o => { o with host := amWrite o.host pa bs }).enterAt p 4 .host pa
      else s.hubWriteOf p (homeDie pa) pa bs
  match onChip pa with
  | some (g, off) =>
    if Config.spadBytes ≤ off then (s.logHost p va).bind (entry g off none)
    else if h then (match vget none (s.part p).bound 0 with | some k => entry k pa (some va) s | none => some s)
    else if s.partIdle p then (s.logHost p va).map write
    else some (s.hostFault p 3 (pa / 64 * 64))
  | none =>
    if h then (match vget none (s.part p).bound 0 with | some k => entry k pa (some va) s | none => some s)
    else if s.partIdle p then (s.logHost p va).map write
    else some (s.hostFault p 3 (pa / 64 * 64))

/-! ### The pages that map an address (R263) -/

/-- The leaves of a table and those below it whose page holds a physical address: its virtual address there. -/
def leavesAt (rd : Nat → W64) (pa : Nat) : List (Nat × Nat) → Nat → Nat → Nat → List W64
  | [], _, _, _ => []
  | (sh, n) :: ls, l, table, base => (List.range n).flatMap fun i =>
    let addr := table + 8 * i
    let e := rd addr
    if !inMemory addr || !pteBit e 0 then []
    else if ls = [] ∨ pteBit e 8 then
      (if 2 ≤ l ∧ ptePA e ≤ pa ∧ pa < ptePA e + 2 ^ sh then [BitVec.ofNat 64 (base + i * 2 ^ sh + (pa - ptePA e))] else [])
    else leavesAt rd pa ls (l + 1) (ptePA e) (base + i * 2 ^ sh)

/-- The virtual addresses of a loaded partition that translate to a physical address, with the H bit of their page: range entries first. -/
def State.pagesAt (s : State) (p pa : Nat) : List (W64 × Bool) :=
  let pt := s.part p
  if pt.loaded.isNone then []
  else
    let ranged := (List.range 64).filterMap fun i =>
      let ofs := (vget 0 pt.ranges (4 * i + 2)).toNat / 4096 * 4096
      let va := (pa + 2 ^ 64 - ofs % 2 ^ 64) % 2 ^ 64
      (rangeMatch pt.ranges i va).map fun _ => BitVec.ofNat 64 va
    let leaves := leavesAt (fun a => word64 (s.ord.readView (homeDie a) a 8)) pa ptLevels 0 (pt.ptroot.toNat / 4096 % 2 ^ 40 * 4096) 0
    (ranged ++ leaves).filterMap fun va => (s.hostXl p va).bind fun x => if x.pa = pa then some (va, pteBit x.attr 7) else none

/-- One line of a host write through the decoders: through a page of the partition named, which has the H bit named; where no partition's page
holds the address, it performs at the line's home die (DEDUCED, log entry 90). -/
def State.hostMem (s : State) (p pa : Nat) (h : Bool) (bs : List Byte) : Option State :=
  match (if p < 64 then s.pagesAt p pa else []).find? fun x => x.2 == h with
  | some (va, _) => s.hostLine p va pa h bs
  | none => if (List.range 64).any fun q => s.pagesAt q pa ≠ [] then none else some (s.hubWrite (homeDie pa) pa bs)

/-- The lines of a host write in address order (R278). -/
def State.hostLines (s : State) (p : Nat) (h : Bool) : List (Nat × List Byte) → Option State
  | [] => some s
  | x :: xs => match s.hostMem p x.1 h x.2 with
    | some t => t.hostLines p h xs
    | none => none

/-- HOST_WRITE (R279, R359, R405): through the decoders, to a page of a partition with its H bit; one to the hub region is the physical
function's, one to host memory is the host's own, and no decoder maps another address. -/
def execHostWrite (p pa : Nat) (h : Bool) (data : List Byte) (s : State) : Host.Outcome State Fault Refusal :=
  event "HOST_WRITE" (
    if hubRegion pa then some (s.regionWrite (pa - 0x100000000000) data)
    else if inHost pa then some (s.onOrd fun o => { o with host := amWrite o.host pa data })
    else if !inMemory pa then some s
    else s.hostLines p h (splitLines (data.length / 64 + 2) pa data))

/-! ## A function's memory BAR (R363) -/

/-- One line of a write through a function's BAR: translated, with the A bit that its walk owes (R271), and governed by R279; one that faults is
discarded with a partition fault. -/
def State.barWrite (s : State) (p : Nat) (va : W64) (bs : List Byte) : Option State :=
  let w := s.enterWalk p none none va needW
  let faulted (u : Option (Nat × W64)) : Option State :=
    (w.pteUpdate p none u).map fun t => match s.hostXl p va with
      | some x => if hubRegion x.pa then t.hostFault p 4 (x.pa / 64 * 64) else t.hostFault p 3 0
      | none => t.hostFault p 3 0
  match s.translate p none none va needW with
  | .fault _ u => faulted u
  | .ok x =>
    if !s.allowed p true .windows x.loc then faulted (oweA x.attr x.update)
    else (w.pteUpdate p none (oweA x.attr x.update)).bind fun t => (t.enter p (homeDie x.pa) x).hostLine p va x.pa (pteBit x.attr 7) bs

/-- One line of a read through a function's BAR; one that faults returns all ones with a partition fault. -/
def State.barRead (s : State) (p : Nat) (va : W64) (n : Nat) : Option (List Byte × State) :=
  let read (s : State) : Option (List Byte × State) := match s.accessFor p none none va needR .memory with
    | .owes _ => none
    | .fault t _ => some (List.replicate n 0xFF, t.hostFault p 3 0)
    | .ok t x => some ((List.range n).map fun i => t.hostByte (x.pa + i), t)
  match s.accessFor p none none va needR .memory with
  | .owes w => (s.payPte w).bind read
  | _ => read s

/-- The lines of an access through a function's BAR. -/
def State.barLines (s : State) (p : Nat) (wr : Bool) : List (Nat × List Byte) → List Byte → Option (List Byte × State)
  | [], got => some (got, s)
  | x :: xs, got =>
    if wr then match s.barWrite p (BitVec.ofNat 64 x.1) x.2 with
      | some t => t.barLines p wr xs got
      | none => none
    else match s.barRead p (BitVec.ofNat 64 x.1) x.2.length with
      | some (b, t) => t.barLines p wr xs (got ++ b)
      | none => none

/-- VF_MEMORY_ACCESS (R363): a read of as many bytes as `data` has, or a write of them. A function that serves no partition performs
nothing. -/
def execVfMemoryAccess (fn va : Nat) (wr : Bool) (data : List Byte) (s : State) : Host.Outcome State Fault Refusal :=
  event "VF_MEMORY_ACCESS" (
    if 64 ≤ fn ∨ 2 ^ 46 < va + data.length then none
    else match s.partOfVf fn with
      | none => some (if wr then s else s.gave (List.replicate data.length 0xFF))
      | some p => (s.barLines p wr (splitLines (data.length / 64 + 2) va data) []).map fun r => if wr then r.2 else r.2.gave r.1)

/-! ## Registers -/

/-- The queue of a partition's range that a number names (R318, R363). -/
def State.queueOf (s : State) (p k : Nat) : Option Nat :=
  let e := (s.part p).inForce
  if k < e.qcount.toNat ∧ e.qfirst.toNat + k < Config.nQueues then some (e.qfirst.toNat + k) else none

/-- A queue newly enabled takes its place in queue SRAM (R320). -/
def State.seatQueue (s : State) (q : Nat) : State :=
  let x := s.queue q
  if x.state.getLsbD 0 && !x.resident && !x.evicted then
    (s.makeRoom q x.bytes 65536).onQueue q fun y => { y with state := y.state ||| 2 }
  else s

/-- A write of 8 bytes of a queue descriptor (R318, R364); HEAD, LASTUSE, DEFICIT and CTAIL ignore it, PART takes it from the
physical function, and resident and evicted are the hub's. -/
def State.queueWrite (s : State) (pf : Bool) (q o : Nat) (v : W64) : State :=
  match o / 8 with
  | 0 =>
    let x := s.queue q
    let size : W32 := v.extractLsb' 32 32
    let more := if x.resident then 8 * (size.toNat - x.size.toNat) else 0
    (if more = 0 then s else s.makeRoom q more 65536).onQueue q fun x => { x with
      part := if pf then v.toNat % 65536 else x.part, prio := v.toNat / 2 ^ 16 % 256, weight := v.toNat / 2 ^ 24 % 256
      size := size }
  | 1 => s.doorbell q (v.extractLsb' 32 32)
  | 2 => (s.onQueue q fun x => { x with
      wdog := v.toNat % 2 ^ 32, state := (v.extractLsb' 32 32 &&& 9) ||| (x.state &&& 6) }).seatQueue q
  | 5 => s.onQueue q fun x => { x with cring := v }
  | 6 => s.onQueue q fun x => { x with csize := v.setWidth 32 }
  | _ => s

/-- A write of the select registers or the control register of a counter bank (R378, R391): a guest's leaves ALL as it stands; the physical function also writes the
virtual offsets (R380). -/
def State.bankWrite (s : State) (fn : Option Nat) (d b o : Nat) (v : W64) : State :=
  let x := s.bank d b
  if 0x40 ≤ o ∧ o < 0x80 then
    let mine := match fn with
      | some f => decide (x.holder = 0) || (decide (x.holder = 1) && decide (x.guest = f))
      | none => decide (x.holder ≠ 1)
    let k := (o - 0x40) / 8
    let w : W64 := if fn.isSome then (v &&& 0x3FFF) ||| (vget 0 x.sel k &&& 0x4000) else v &&& 0x7FFF
    if mine then s.setBank d b { x with sel := vset x.sel k w } else s
  else if o / 8 = 0x10 then
    (match v.toNat % 4 with
     | 1 => s.setBank d b (bankClaimed x fn)
     | 2 => s.setBank d b (bankReleased x fn)
     | _ => s)
  else if 0xC0 ≤ o ∧ fn.isNone then s.setBank d b { x with ofs := vset x.ofs ((o - 0xC0) / 8) v }
  else s

/-- A write of a core's debug block (R394): at stops only, but for STOPREQ, OWNED and the trace bits; a free core takes any. -/
def State.debugWrite (s : State) (g o : Nat) (v : W64) : State :=
  let c := s.core g
  let free := c.dbg.stopped || c.step.isNone
  if o / 8 = 0 then
    let s := s.onCore g fun c => { c with dbg := { c.dbg with
      owned := v.getLsbD 0, trace := v.getLsbD 8, trstep := v.getLsbD 9, trtrap := v.getLsbD 10 } }
    if v.getLsbD 1 then s.onCore g fun c => { c with req := { c.req with stop := true } } else s
  else if !free then s
  else if o < 0x48 then s.onCore g fun c => { c with dbg := { c.dbg with bp := vset c.dbg.bp ((o - 8) / 8) (v &&& 0x0FFFFFFFFFFFFFFF) } }
  else if o < 0x88 then
    let r := (o - 0x48) / 16
    if (o - 0x48) / 8 % 2 = 0 then
      s.onCore g fun c => { c with dbg := { c.dbg with wbase := vset c.dbg.wbase r (v &&& 0x0FFFFFFFFFFFFFFF) } }
    else s.onCore g fun c => { c with dbg := { c.dbg with wlimit := vset c.dbg.wlimit r v } }
  else if o < 0x90 then
    s.onCore g fun c => { c with dbg := { c.dbg with domain := v.extractLsb' 0 4, latch := v.extractLsb' 4 3 } }
  else if o < 0xD0 then
    let k := c.dbg.latch.toNat
    let d := c.dbg.domain.toNat
    let w := (o - 0x90) / 8
    if d = 0 then (if w = 0 then s.onCore g fun c => c.setSlatch k v else s)
    else if d ≤ 8 then s.onCore g fun c => c.setVlatch (d - 1) k (setElem 64 w (c.vlatch (d - 1) k) v)
    else s
  else s

/-- A write of the command register (R362): a function gives only FLUSH, RESET and SCRUB; another code completes MALFORMED. -/
def State.commandWrite (s : State) (pf : Bool) (p : Nat) (v : W64) : Option State :=
  match v.toNat % 256, pf with
  | 1, true => s.cmdReload p
  | 2, _ => s.cmdFlush p
  | 3, _ => s.cmdReset p
  | 4, _ => s.cmdScrub p
  | 5, true => s.cmdLogstart p
  | 6, true => s.cmdLoground p
  | 7, true => s.cmdLogstop p
  | _, _ => s.command p fun s => some (s.cmdDone p 4)

/-- A write of a partition's register block (R364). -/
def State.blockWrite (s : State) (fn : Option Nat) (p o : Nat) (v : W64) : Option State :=
  if 64 ≤ p then some s
  else if o < 8 then s.commandWrite fn.isNone p v
  else if o = 0x10 then s.hubNext (s.startVector p v)
  else if 0x20 ≤ o ∧ o < 0x40 then
    some (s.onPart p fun pt => { pt with entry := { pt.entry with nonce := setElem 64 ((o - 0x20) / 8) pt.entry.nonce v } })
  else if o = 0x40 then some (s.onPart p fun pt => { pt with trbase := v })
  else if o = 0x48 then some (s.onPart p fun pt => { pt with trsize := v })
  else if o = 0x58 then some (s.onPart p fun pt => { pt with trtail := v })
  else if o = 0x78 then some (s.onPart p fun pt => { pt with qsel := v })
  else if 0x400 ≤ o ∧ o < 0x440 then
    some (match s.queueOf p (s.part p).qsel.toNat with | some q => s.queueWrite fn.isNone q (o - 0x400) v | none => s)
  else if 0x10000 ≤ o ∧ o < 0x14000 then
    some (if 0xC0 ≤ o % 0x100 then s else s.bankWrite fn ((o - 0x10000) / 0x1000) (o % 0x1000 / 0x100) (o % 0x100) v)
  else if 0x20000 ≤ o ∧ o < 0x30000 then
    some (match vget none (s.part p).bound ((o - 0x20000) / 256) with | some g => s.debugWrite g (o % 256) v | none => s)
  else if 0x80000 ≤ o ∧ o < 0x100000 then
    some (match s.queueOf p ((o - 0x80000) / 8) with | some q => s.doorbell q (v.setWidth 32) | none => s)
  else some s

/-! ## Reads of the register blocks (R364, R365) -/

/-- A word of a core's debug block (R394). -/
def CoreSt.debugWord (c : CoreSt) (o : Nat) : W64 :=
  let b (x : Bool) (k : Nat) : W64 := if x then 1#64 <<< k else 0
  let d := c.dbg.domain.toNat
  let k := c.dbg.latch.toNat
  if o = 0 then b c.dbg.trtrap 10 ||| b c.dbg.trstep 9 ||| b c.dbg.trace 8 ||| b c.dbg.stopped 2 ||| b c.dbg.owned 0
  else if o < 0x48 then vget 0 c.dbg.bp ((o - 8) / 8)
  else if o < 0x88 then
    (if (o - 0x48) / 8 % 2 = 0 then vget 0 c.dbg.wbase ((o - 0x48) / 16) else vget 0 c.dbg.wlimit ((o - 0x48) / 16))
  else if o < 0x90 then
    b (if d = 0 then c.files.slLost.getLsbD k else if d ≤ 8 then (vget .reset c.files.cl (d - 1)).lost.getLsbD k else false) 15 |||
      BitVec.ofNat 64 (16 * k + d)
  else if o < 0xD0 then
    (let w := (o - 0x90) / 8
     if d = 0 then (if w = 0 then c.slatch k else 0) else if d ≤ 8 then elem 64 w (c.vlatch (d - 1) k) else 0)
  else 0

/-- A word of a counter bank's window as a function reads it (R364, R379, R380): LO and the function's HI latch; a bank that it does not hold
reads zero, but for its control register. -/
def State.bankWord (s : State) (fn d b o : Nat) : W64 :=
  let x := s.bank d b
  if o / 8 = 0x10 then x.control
  else if !x.heldBy fn then 0
  else if o < 0x40 then ((x.value (o / 8)).extractLsb' 0 32).setWidth 64 ||| ((vget 0 s.hub.hiLatch fn).setWidth 64 <<< 32)
  else if o < 0x80 then vget 0 x.sel ((o - 0x40) / 8)
  else 0
/-- A word of a counter bank's window as the physical function reads it, which has no latch: the whole counter, the selects, the control
register and the offsets (R365, R380; log entry 29). -/
def State.bankWordPf (s : State) (d b o : Nat) : W64 :=
  let x := s.bank d b
  if o < 0x40 then vget 0 x.cnt (o / 8)
  else if o < 0x80 then vget 0 x.sel ((o - 0x40) / 8)
  else if o / 8 = 0x10 then x.control
  else if 0xC0 ≤ o then vget 0 x.ofs ((o - 0xC0) / 8)
  else 0

/-- A word of a partition's register block (R364); a function reads its counters through its latch. -/
def State.blockWord (s : State) (fn : Option Nat) (p o : Nat) : W64 :=
  let pt := s.part p
  let some8 (bs : List Byte) (k : Nat) : W64 := ofBytes 64 ((bs.drop k).take 8)
  if o = 0x08 then BitVec.ofNat 64 (pt.cmdstat % 8)
  else if o = 0x18 then pt.svstat
  else if 0x20 ≤ o ∧ o < 0x40 then elem 64 ((o - 0x20) / 8) pt.entry.nonce
  else if o = 0x40 then pt.trbase
  else if o = 0x48 then pt.trsize
  else if o = 0x50 then pt.trhead
  else if o = 0x58 then pt.trtail
  else if o = 0x60 then pt.trdrop
  else if o = 0x68 then pt.blastcount
  else if o = 0x70 then (if s.hub.holdover then 1 else 0)
  else if o = 0x78 then pt.qsel
  else if 0x100 ≤ o ∧ o < 0x200 then some8 pt.token (o - 0x100)
  else if 0x200 ≤ o ∧ o < 0x400 then some8 (pt.blast.getD ((o - 0x200) / 32) []) (o % 32)
  else if 0x400 ≤ o ∧ o < 0x440 then (match s.queueOf p pt.qsel.toNat with | some q => some8 (s.queue q).desc (o - 0x400) | none => 0)
  else if 0x10000 ≤ o ∧ o < 0x14000 then
    (let d := (o - 0x10000) / 0x1000
     let b := o % 0x1000 / 0x100
     match fn with
     | some f => s.bankWord f d b (o % 0x100)
     | none => if (s.bank d b).heldBy (s.vfOf p) && o % 0x100 < 0xC0 then s.bankWordPf d b (o % 0x100)
       else if o % 0x100 / 8 = 0x10 then (s.bank d b).control else 0)
  else if 0x20000 ≤ o ∧ o < 0x30000 then
    (match vget none pt.bound ((o - 0x20000) / 256) with | some g => (s.core g).debugWord (o % 256) | none => 0)
  else 0

/-- What a function's read of a counter bank does besides (R379, R380): a read of LO sets its HI latch, one of the control register by the guest
that holds the bank clears STOLEN. -/
def State.bankTouched (s : State) (f d b o : Nat) : State :=
  let x := s.bank d b
  if o < 0x40 ∧ o % 8 = 0 ∧ x.heldBy f then
    { s with hub := { s.hub with hiLatch := vset s.hub.hiLatch f ((x.value (o / 8)).extractLsb' 32 32) } }
  else if o / 8 = 0x10 ∧ x.holder = 1 ∧ x.guest = f then s.setBank d b { x with stolen := false }
  else s

/-- A word of the physical function's register block (R365). -/
def State.pfWord (s : State) (o : Nat) : W64 :=
  if o = 0 then BitVec.ofNat 64 ((if s.hub.ready then 1 else 0) + if s.hub.holdover then 2 else 0)
  else if o = 8 then s.hub.repair
  else if o = 0x10 then BitVec.ofNat 64 s.hub.ptpdomain
  else if o = 0x18 then BitVec.ofNat 64 s.hub.powerlimit
  else if o = 0x20 then s.hub.lanethresh.setWidth 64
  else if 0x100 ≤ o ∧ o < 0x300 then (vget 0 s.hub.hiLatch ((o - 0x100) / 8)).setWidth 64
  else if 0x300 ≤ o ∧ o < 0x380 then
    packElems 64 ((List.range 4).map fun i => (s.part ((o - 0x300) / 2 + i)).podgroup)
  else if 0x1000 ≤ o ∧ o < 0x2000 then ofBytes 64 ((List.range 8).map fun i => Config.freeCert (o - 0x1000 + i))
  else if 0x4000 ≤ o ∧ o < 0x8000 then s.bankWordPf ((o - 0x4000) / 0x1000) (o % 0x1000 / 0x100) (o % 0x100)
  else 0

/-- Some bytes from an offset on of registers of 8 bytes. -/
def regBytes (f : Nat → W64) (o n : Nat) : List Byte := (List.range n).map fun i => byteAt (f ((o + i) / 8 * 8)) ((o + i) % 8)

/-- HOST_READ (R298, R364, R365, R405): some bytes of memory at a physical address, of a function's register block, of a partition's at
1 MiB × its number for the physical function, or of the physical function's own. -/
def execHostRead (x : HostPlace) (n : Nat) (s : State) : Host.Outcome State Fault Refusal :=
  let a := x.addr
  event "HOST_READ" (match x.via with
    | .memory => some (s.gave ((List.range n).map fun i => s.hostByte (a + i)))
    | .block fn => if 64 ≤ fn ∨ 2 ^ 20 ≤ a then none else match s.partOfVf fn with
      | none => some (s.gave (List.replicate n 0))
      | some p =>
        let t := s.gave (regBytes (s.blockWord (some fn) p) a n)
        some (if 0x10000 ≤ a ∧ a < 0x14000 then t.bankTouched fn ((a - 0x10000) / 0x1000) (a % 0x1000 / 0x100) (a % 0x100) else t)
    | .pfBlocks => if 2 ^ 26 ≤ a then none
      else some (s.gave (regBytes (s.blockWord none (a / 2 ^ 20)) (a % 2 ^ 20) n))
    | .pfRegs => if 2 ^ 16 ≤ a then none else some (s.gave (regBytes s.pfWord a n)))

end Sys2Proof.Machine
end

