-- ==== Sys2Proof/Machine/Colmer.lean ====
section
/-! DEFINITION. colmer's binding of an image (R32, R45, R164, R246, R340 to R342, R418): the paths through its code, the refusals worked
out from them, the comma tables, and the pages of local segments. How paths are followed is log entry 91. -/

namespace Sys2Proof.Machine

/-! ## The groups of some code (R52) -/

/-- The groups of some code, bundle after bundle. -/
def groupsIn : Nat → Nat → List Byte → List (Addr × Bundle) → List Group
  | 0, _, _, _ => []
  | f + 1, a, bs, acc =>
    if bs = [] then []
    else
      let b := decodeBundle bs
      let acc := acc ++ [(BitVec.ofNat 60 a, b)]
      let more := groupsIn f (a + b.bytes) (bs.drop b.bytes)
      if b.header.stop ∨ 12 ≤ acc.length then groupOf ((acc.headD (0, b)).1) acc :: more [] else more acc
/-- The groups of a variant's code. -/
def variantGroups (v : Variant) : List Group := v.code.flatMap fun x => groupsIn (x.2.length / 4 + 1) x.1 x.2 []

/-- The group at an address of a variant's code. -/
def groupAt (v : Variant) (a : Nat) : Option Group :=
  (v.code.find? fun x => decide (x.1 ≤ a) && decide (a < x.1 + x.2.length)).bind fun x =>
    (groupsIn 13 a (x.2.drop (a - x.1)) []).head?

/-- A group's operations with their guards: always true, never true, or neither (R13). -/
def Group.ops (x : Group) : List (Slot × Bool) :=
  (x.slots.map fun y => (y.2.1, decide (y.2.1.gp = 0) && !y.2.1.gs)).filter fun y => y.2 || decide (y.1.gp ≠ 0)

/-- A group holds a WAITBIT and no comma (R128). -/
def waitbitBare (x : Group) : Bool :=
  !x.comma && x.slots.any fun y => match y.2.1.op with | .waitbit _ _ _ _ => true | _ => false

/-- A group holds a WAITBIT, a WAITPH or a BAR (R246). -/
def holdsWait (x : Group) : Bool :=
  x.slots.any fun y => match y.2.1.op with | .waitbit _ _ _ _ | .waitph _ _ _ _ | .bar _ => true | _ => false

/-- An operation names a register of the partition supervisor (R241). -/
def namesSupervisor (i : Instr) : Bool :=
  ((destsOf i ++ (i.srcs.map fun n => n.2)).any fun d => match d with | .s n => decide (56 ≤ n ∧ n ≤ 62) | _ => false)

/-! ## Paths (R45, R164) -/

/-- What is followed along a path: the issue cycles since the last comma, a token outstanding, or an open reduction with the busy cycles of
its commands so far. Counts stop one above their limit. -/
inductive PathFact where
  | run (n : Nat) | tok (w : Nat) | red (acc n : Nat)
  deriving DecidableEq, Repr

/-- A point of a path: the group's address, the loop levels with the iterations still to begin (none: the count is not known), innermost
first, the fail targets of the parentheses open, the parentheses under which each domain token was last issued, s63 where a call wrote it,
and the fact followed. -/
structure PathPoint where
  pc    : Nat
  loops : List (Nat × Nat × Option Nat)
  fails : List Nat
  toks  : List (Nat × List Nat)
  link  : Option Nat
  fact  : PathFact
  deriving DecidableEq, Repr

/-- The address after n groups. -/
def afterGroups (v : Variant) : Nat → Nat → Nat
  | 0, a => a
  | n + 1, a => match groupAt v a with
    | some x => afterGroups v n (a + x.len)
    | none => a

/-- A target relative to a group (R60). -/
def codeTarget {n : Nat} (x : Group) (ofs : BitVec n) : Nat := (x.addr.setWidth 64 + (ofs.signExtend 64 <<< 2)).toNat

/-- A taken branch (R125): the levels that hold the target stay. -/
def PathPoint.jump (w : PathPoint) (t : Nat) : PathPoint :=
  { w with pc := t, loops := w.loops.dropWhile fun l => !(decide (l.1 ≤ t) && decide (t < l.2.1)) }

/-- The group after one that takes no branch, with the ends of iterations (R123). -/
def PathPoint.onward (pc : Nat) : List (Nat × Nat × Option Nat) → List (Nat × List (Nat × Nat × Option Nat))
  | [] => [(pc, [])]
  | l :: ls =>
    if pc ≠ l.2.1 then [(pc, l :: ls)]
    else match l.2.2 with
      | some 0 => PathPoint.onward pc ls
      | some (k + 1) => [(l.1, (l.1, l.2.1, some k) :: ls)]
      | none => (l.1, l :: ls) :: PathPoint.onward pc ls

/-- What a group's operation in slot Y, taken or not, makes of a path, with the empty cycles of a taken branch (R121 to R126). -/
def PathPoint.turn (v : Variant) (gs : List Group) (x : Group) (w : PathPoint) (i : Instr) : List (PathPoint × Nat) :=
  let next := x.addr.toNat + x.len
  let fall (w : PathPoint) : List (PathPoint × Nat) :=
    (PathPoint.onward next w.loops).map fun y => ({ w with pc := y.1, loops := y.2 }, 0)
  let returns := gs.filterMap fun y =>
    if y.slots.any fun z => match z.2.1.op with | .call _ | .callr _ => true | _ => false then some (y.addr.toNat + y.len) else none
  match i with
  | .br ofs => [(w.jump (codeTarget x ofs), 2)]
  | .call ofs => [({ (w.jump (codeTarget x ofs)) with link := some next }, 2)]
  | .brr _ => gs.map fun y => (w.jump y.addr.toNat, 2)
  | .callr _ => gs.map fun y => ({ (w.jump y.addr.toNat) with link := some next }, 2)
  | .ret => (match w.link with | some a => [a] | none => returns).map fun a => (w.jump a, 2)
  | .loop b n =>
    let stop := afterGroups v (b.toNat + 1) next
    if n = 0 then [(w.jump stop, 2)] else fall { w with loops := (next, stop, some (n.toNat - 1)) :: w.loops }
  | .loopr b _ =>
    let stop := afterGroups v (b.toNat + 1) next
    (w.jump stop, 2) :: fall { w with loops := (next, stop, none) :: w.loops }
  | .wait t =>
    let under := (w.toks.find? fun y => y.1 == t.toNat).map fun y => y.2
    let w := { w with toks := w.toks.filter fun y => y.1 != t.toNat }
    fall w ++ ((under.getD []).zipIdx.map fun y => ({ (w.jump y.1) with fails := (under.getD []).drop (y.2 + 1) }, 2))
  | .endStep | .tret => []
  | _ => fall w

/-- What a group's other operations make of the parentheses, the domain tokens and s63. -/
def PathPoint.note (x : Group) (w : PathPoint) : PathPoint :=
  x.ops.foldl (fun w y => match y.1.op with
    | .dopen ofs => { w with fails := codeTarget x ofs :: w.fails }
    | .dclose => { w with fails := w.fails.drop 1 }
    | .dclr => { w with fails := [] }
    | .call _ | .callr _ => w
    | i =>
      let w := match i.token, i.queue with
        | some t, some .d => { w with toks := (t, w.fails) :: w.toks.filter fun y => y.1 != t }
        | _, _ => w
      if i.dests.any fun n => n.2 == Dest.s 63 then { w with link := none } else w) w

/-- The facts that hold after a group's operations in place of one that holds before it; `cycles` are the issue cycles of the group. -/
def PathFact.after (x : Group) (cycles : Nat) (f : PathFact) : List PathFact :=
  let ops := x.ops
  let cost (i : Instr) : Nat := busyTime i * (1 + repOf i)
  match f with
  | .run n =>
    .run (min 4097 ((if x.comma then 0 else n) + cycles)) ::
      (ops.filterMap (fun y => y.1.op.token.map PathFact.tok) ++
        ops.filterMap fun y => (opens y.1.op).map fun a => .red a (min 4097 (cost y.1.op)))
  | .tok t => if ops.any fun y => y.2 && (match y.1.op with | .wait w => decide (w.toNat = t) | _ => false) then [] else [.tok t]
  | .red a n =>
    let closes (i : Instr) : Bool := match i with
      | .mzero _ acc _ => decide (acc.toNat = a)
      | .mcvt _ _ _ acc _ _ _ => decide (acc.toNat = a)
      | .mret _ acc _ part _ => !part && decide (acc.toNat = a)
      | .mrets _ acc part _ _ => !part && decide (acc.toNat = a)
      | _ => false
    if ops.any fun y => y.2 && closes y.1.op then []
    else [.red a (min 4097 (n + (ops.map fun y => if opens y.1.op = some a then cost y.1.op else 0).sum))]

/-- The points that follow a point of a path. A group whose guard may fail also goes on as if the operation were absent. -/
def PathPoint.nexts (v : Variant) (gs : List Group) (w : PathPoint) : List PathPoint :=
  match groupAt v w.pc with
  | none => []
  | some x =>
    let ys := x.ops.filter fun y => y.1.op.kind == some .y
    let w' := PathPoint.note x w
    let taken := ys.flatMap fun y => PathPoint.turn v gs x w' y.1.op
    let fails := if ys.all fun y => !y.2 then PathPoint.turn v gs x w' .trapack else []
    (taken ++ fails).flatMap fun z => (w.fact.after x (1 + x.e + z.2)).map fun f => { z.1 with fact := f }

/-- Whether a point that meets a test can be reached, round by round; the rounds suffice for every code, since loops, parentheses and counts
are bounded. -/
def reaches (next : PathPoint → List PathPoint) (bad : PathPoint → Bool) : Nat → List PathPoint → List PathPoint → Bool
  | 0, _, _ => false
  | n + 1, seen, todo =>
    if todo.isEmpty then false
    else if todo.any bad then true
    else
      let more := ((todo.flatMap next).eraseDups).filter fun w => !seen.contains w
      reaches next bad n (seen ++ more) more

/-- A point that meets a test can be reached from some group of a variant. -/
def pathMeets (v : Variant) (bad : PathPoint → Bool) : Bool :=
  let gs := variantGroups v
  let start : List PathPoint := gs.map fun x => { pc := x.addr.toNat, loops := [], fails := [], toks := [], link := none, fact := .run 0 }
  reaches (PathPoint.nexts v gs) bad (2 ^ 64) start start

/-- A point stands at a comma. -/
def PathPoint.atComma (v : Variant) (w : PathPoint) : Bool := match groupAt v w.pc with | some x => x.comma | none => false

/-- A loop whose trip count comes from a register holds no comma (R45). -/
def looprBare (v : Variant) : Bool :=
  (variantGroups v).any fun x => x.slots.any fun y => match y.2.1.op with
    | .loopr b _ =>
      let a := x.addr.toNat + x.len
      !((variantGroups v).any fun z => decide (a ≤ z.addr.toNat) && decide (z.addr.toNat < afterGroups v (b.toNat + 1) a) && z.comma)
    | _ => false

/-- Code 1: a path of more than 4,096 issue cycles without a comma, or a loop of a register's trips without one (R45). -/
def pathTooLong (v : Variant) : Bool :=
  looprBare v || pathMeets v fun w => match w.fact with | .run n => decide (4096 < n) | _ => false
/-- Code 2: a comma at which a reduction may be open (R164). -/
def commaOpenAcc (v : Variant) : Bool := pathMeets v fun w => (match w.fact with | .red _ _ => true | _ => false) && w.atComma v
/-- A token counts as outstanding at a comma (R45): some WAIT of the code names it, or an operation other than a copy carries it. R400 lets an
image run whose copy token no WAIT names any more (DEDUCED, log entry 91). -/
def tokenCounts (v : Variant) (t : Nat) : Bool :=
  (variantGroups v).any fun x => x.slots.any fun y => match y.2.1.op with
    | .wait w => decide (w.toNat = t)
    | i => i.token == some t && i.queue != some .x
/-- Code 3: a comma with a wait token outstanding (R45). -/
def commaToken (v : Variant) : Bool :=
  pathMeets v fun w => (match w.fact with | .tok t => tokenCounts v t | _ => false) && w.atComma v
/-- Code 9: a reduction whose commands may exceed 4,096 busy cycles (R164). -/
def reductionLong (v : Variant) : Bool := pathMeets v fun w => match w.fact with | .red _ n => decide (4096 < n) | _ => false

/-! ## Comma tables (R246, R342) -/

/-- The entry of a comma: the live registers that the image declares there, none where it declares none; s0 is never listed; FLAGS from the
comma's group. -/
def commaEntryOf (v : Variant) (x : Group) : CommaEntry :=
  let a : W64 := x.addr.setWidth 64
  let e := (v.commas.find? fun e => e.addr == a).getD { addr := a, smask := 0, cmask := 0, amask := 0, tmask := 0, vmask := 0, flags := 0 }
  { e with smask := e.smask &&& ~~~(1 : W64), flags := if holdsWait x then 1 else 0 }

/-- The addresses of a variant's commas, ascending. -/
def commaGroups (v : Variant) : List Group :=
  ((variantGroups v).filter fun x => x.comma).mergeSort fun x y => decide (x.addr.toNat ≤ y.addr.toNat)

/-- The original's table: one entry for each comma, in ascending order of ADDR. -/
def tabled (v : Variant) : Variant := { v with commas := (commaGroups v).map (commaEntryOf v) }

/-- A rescheduled variant's table: its entries keep the index of each comma; a variant without one comma for each of the original's, or without a
place to enter for each of its, is none. -/
def retabled (v own : Variant) : Option Variant :=
  let xs := v.commas.filterMap fun e => ((commaGroups v).find? fun x => x.addr.setWidth 64 == e.addr).map (commaEntryOf v)
  if xs.length = (commaGroups v).length ∧ xs.length = (commaGroups own).length ∧ (xs.map fun e => e.addr).Nodup ∧
      v.entries.length = own.entries.length then
    some { v with commas := xs }
  else none

/-! ## Refusals (R341) -/

/-- The reasons for refusal that lie in the code of a variant, in the order in which the model reports them (log entry 91). -/
def codeRefusals (handlerImage : Bool) (v : Variant) : List Nat :=
  let gs : List Group := variantGroups v
  let row (k : Nat) (b : Bool) : List Nat := if b then [k] else []
  row 4 (gs.any waitbitBare) ++ row 2 (commaOpenAcc v) ++ row 3 (commaToken v) ++ row 1 (pathTooLong v) ++
    row 5 (!handlerImage && gs.any fun x => x.slots.any fun y => namesSupervisor y.2.1.op) ++
    row 8 (gs.any fun x => x.bad.isSome) ++ row 9 (reductionLong v)

/-- The rescheduled variant that an image may run: where the policy reschedules, it keeps every comma of the original, one for one, and meets every
rule of R341 (R342, R418). -/
def usableVariant (i : Image) : Option Variant :=
  if i.policyCompat then none
  else (i.other.bind fun v => retabled v i.own).bind fun v => if codeRefusals i.handlerImage v = [] then some v else none

/-- An image as colmer binds it: with the comma tables that it writes, and the variant that may run. -/
def imageTabled (i : Image) : Image := { i with own := tabled i.own, other := usableVariant i }

/-- The cores that a partition holds, or may take by a slice (R336). -/
def State.reachable (s : State) (p : Nat) : List Nat :=
  if s.partCores p ≠ [] then s.partCores p
  else if (s.part p).inForce.slice = 0 then []
  else ((List.range 64).filter fun q => decide ((s.part q).inForce.slice ≠ 0)).flatMap s.partCores

/-- The codes of R341 that apply to an image and a partition: those of its own code before 6 and 7, but for 5, 8 and 9 (log entry 91). -/
def State.refusals (s : State) (p : Nat) (i : Image) : List Nat :=
  let own := codeRefusals i.handlerImage i.own
  let row (k : Nat) (b : Bool) : List Nat := if b then [k] else []
  (own.filter fun k => decide (k ≤ 5)) ++ row 6 (decide (s.coreCount p < i.cores)) ++
    row 7 (i.classB && (usableVariant i).isNone && (s.reachable p).any fun g => !(s.core g).classB) ++ own.filter fun k => decide (5 < k)

/-- The refusal of an image for a partition (R341). -/
def State.bindRefusal (s : State) (p : Nat) (i : Image) : Option Nat := (s.refusals p i).head?

/-! ## The binding (R340) -/

/-- One line of an image is placed, where its address translates to memory: its page is marked and logged as for any write (R271, R375); none: the
update of its page entry must wait. -/
def State.placeLine (s : State) (p : Nat) (y : Nat × List Byte) : Option State :=
  let va : W64 := BitVec.ofNat 64 y.1
  match s.hostXl p va with
  | some x =>
    if inMemory x.pa && !hubRegion x.pa then ((s.enterWalk p none none va needNone).logHost p va).map fun t => t.hubWriteOf p (homeDie x.pa) x.pa y.2
    else some s
  | none => some s
/-- Bytes are placed at partition virtual addresses. -/
def State.place (s : State) (p : Nat) (x : Nat × List Byte) : Option State :=
  (splitLines (x.2.length / 64 + 2) x.1 x.2).foldlM (fun (s : State) y => s.placeLine p y) s

/-- The bytes of bound code by address, each with the bit that tells it from an address without code (R5). -/
def noteCode (m : AMap (BitVec 9)) : Nat → List Byte → AMap (BitVec 9)
  | _, [] => m
  | a, b :: bs => noteCode (amSet 0 m a (256#9 ||| b.setWidth 9)) (a + 1) bs

/-- An image is bound: what of it belongs to cores, its code and its memory segment, its comma tables, and the registers of R107 (R5, R21, R340);
none: an update of a page entry must wait. -/
def State.bindImage (s : State) (p : Nat) (i : Image) : Option State :=
  let i := imageTabled i
  let code := i.own.code ++ (match i.other with | some v => v.code | none => [])
  ((code ++ i.data).foldlM (fun (t : State) x => t.place p x) (s.bindOn p i)).map fun t =>
    (t.onPart p fun pt => { pt with
      refusal := none, tvec := i.tvec, image := if i.handlerImage then pt.image else some i
      code := code.foldl (fun m x => noteCode m x.1 x.2) pt.code, bindNeed := clkMax pt.bindNeed (gained s.ord t.ord) }).bindRegs p

/-- COLMER_BIND (R340, R341): a refused image is not bound. -/
def execColmerBind (p : Nat) (img : Image) (s : State) : Host.Outcome State Fault Refusal :=
  event "COLMER_BIND" (if 64 ≤ p ∨ (s.part p).loaded.isNone then none
    else match s.bindRefusal p img with
      | some k => some (s.onPart p fun pt => { pt with refusal := some k })
      | none => s.bindImage p img)

end Sys2Proof.Machine
end

