-- ==== Sys2Proof/Machine/Package.lean ====
section
/-! DEFINITION. The physical function's registers (R365), online repair (R411 to R414), time (R382 to R384), clocks and power (R336,
R389, R416), the fabric (R406, R408), and device reset (R417). -/

namespace Sys2Proof.Machine

/-- Change the package. -/
def State.onPkg (s : State) (f : Package → Package) : State := { s with pkg := f s.pkg }
/-- Change the hub. -/
def State.onHub (s : State) (f : Hub → Hub) : State := { s with hub := f s.hub }

/-! ## Time (R336, R382, R389, R395) -/

/-- The step of a die's clock in force: its own by temperature, or that of the power limit (R416). -/
def State.clockOf (s : State) (d : Nat) : Nat := max (vget 0 s.pkg.clockStep d) s.pkg.powerStep
/-- What a ns of a slice adds to the debt, in ninths of a ns: 1 − f / 3.6 GHz (R336). -/
def debtNinths (step : Nat) : Nat := [0, 1, 2, 4].getD step 9
/-- What a core cycle adds to THROTTLE in units of 2^−16 cycle, truncated: 3.6 GHz / f − 1 (R389). -/
def throttlePer (step : Nat) : Nat := [0, 8192, 18724, 52428].getD step 0

/-- A step's elapsed time advances (R395): not while its core is stopped with OWNED set, nor while it waits to restart (log entry 84). -/
def CoreSt.ages (c : CoreSt) (n : Nat) : CoreSt :=
  if (c.dbg.stopped && c.dbg.owned) || c.status == .restarting then c
  else { c with step := c.step.map fun st => { st with elapsed := st.elapsed + n } }

/-- The clock f of a slice: R336 and R48 name one; where a partition's cores lie on dies at different clocks it is the slowest die's (DESIGN
CHOICE, log entry 102). -/
def State.partStep (s : State) (p : Nat) : Nat := (s.partCores p).foldl (fun m g => max m (s.clockOf (Config.dieOf g))) 0

/-- The time counter advances by some ns, and the copies on the dies follow it, each at its skew (R382; log entry 8). -/
def State.runClock (s : State) (n : Nat) : State :=
  let t := s.time + BitVec.ofNat 64 n
  { s with time := t
           dieTime := (List.range 4).foldl (fun v d => vset v d (t - BitVec.ofNat 64 (min (Config.freeSkew d % 3) t.toNat))) s.dieTime }

/-- The time counter advances by some ns: elapsed times, slices, and the counter banks' count of ns follow it. -/
def State.tickTime (s : State) (n : Nat) : State :=
  let s := { s.runClock n with cores := s.cores.map fun (c : CoreSt) => c.ages n }
  let s := (List.range 64).foldl (fun s p => match (s.part p).slice with
    | some r => s.onPart p fun pt => { pt with slice := some { r with ninths := r.ninths + n * debtNinths (s.partStep p) } }
    | none => s) s
  { s with hub := { s.hub with banks := s.hub.banks.map fun (row : Vector Bank 16) => row.map fun (b : Bank) =>
      { b with cnt := (List.range 8).foldl (fun v c =>
          if (vget 0 b.sel c).toNat % 256 = 12 then vset v c (vget 0 v c + BitVec.ofNat 64 n) else v) b.cnt } } }

/-- A core whose die's clock is stopped loses 3.6 cycles for each ns while a step runs on it (R386, R389); `throttleNs` keeps the tenths of a unit. -/
def CoreSt.loseNs (c : CoreSt) (n : Nat) : CoreSt :=
  if c.step.isNone || c.status != .running || c.dbg.stopped || c.reached.comma then c
  else
    let t := c.throttleNs + 2359296 * n
    { (c.count cThrottle (t / 10)) with throttleNs := t % 10 }

/-- A core's clock runs: its die's clock is not stopped, and the module is in P0 (R416). -/
def State.clocked (s : State) (g : Nat) : Bool := s.pkg.power == .p0 && decide (s.clockOf (Config.dieOf g) < 4)
/-- The time that a core's cycle takes in units of 1/1008 ns at a clock step: 1 / 3.6, 3.2, 2.8 or 2.0 GHz (R416). -/
def cycleTime (step : Nat) : Nat := [280, 315, 360, 504].getD step 0
/-- How many ns may pass before some core with a step has to run a further cycle (log entry 3). -/
def State.room (s : State) (n : Nat) : Nat :=
  (List.range Config.nCores).foldl (fun m g => if (s.core g).step.isSome && s.clocked g then min m ((s.core g).ahead / 1008) else m) n

/-- Real time passes; the cores' cycles are so much less ahead of it. -/
def State.passTime (s : State) (n : Nat) : State :=
  let s := { s with cores := s.cores.map fun (c : CoreSt) => { c with ahead := c.ahead - 1008 * n } }
  let s := (List.range Config.nCores).foldl (fun s g => if 4 ≤ s.clockOf (Config.dieOf g) then s.onCore g fun c => c.loseNs n else s) s
  s.tickTime n

/-- A forward step of the time counter, accepted above 1 ms (R365, R383). A module in holdover never steps (R384). -/
def State.stepTime (s : State) (n : W64) : State := if 1000000 < n.toNat && !s.hub.holdover then s.tickTime n.toNat else s
/-- TIMESTEP (R365, R383). -/
def execTimestep (n : W64) (s : State) : Host.Outcome State Fault Refusal := event "TIMESTEP" (some (s.stepTime n))

/-- The working lanes of a fabric port, the spare among them (R406). -/
def State.workingLanes (s : State) (port : Nat) : Nat :=
  ((List.range 5).filter fun l => !(vget 0 s.pkg.lanes port).getLsbD l).length
/-- The lanes a port runs on: 4 while one spare makes good a failed lane, 3 after a second, none when fewer than 3 work: the port is down and
its traffic is rerouted (R406). -/
def State.portWidth (s : State) (port : Nat) : Nat := if s.workingLanes port < 3 then 0 else min 4 (s.workingLanes port)

/-- PTP_MESSAGE (R384): an event message is timestamped at a fabric port that is up. -/
def execPtpMessage (port : Nat) (k : PtpKind) (s : State) : Host.Outcome State Fault Refusal :=
  event "PTP_MESSAGE" (if 12 ≤ port ∨ s.portWidth port = 0 then none
    else match k with
      | .followUp | .delayResp => some s
      | .sync | .delayReq | .pdelayReq | .pdelayResp => some (s.onPkg fun k => { k with ptpStamps := k.ptpStamps ++ [(port, s.time)] }))

/-- PARENT_CLOCK_LOSS (R384): HOLDOVER is set, and the counter runs on. -/
def execParentClockLoss (s : State) : Host.Outcome State Fault Refusal :=
  event "PARENT_CLOCK_LOSS" (some (s.onHub fun h => { h with holdover := true }))

/-! ## Clocks and power (R416) -/

/-- The clock step of a temperature (R416). -/
def stepForTemp (t : Nat) : Nat := if t < 95 then 0 else if t < 100 then 1 else if t < 105 then 2 else if t < 110 then 3 else 4
/-- The temperature below which a die may leave a step for the next higher clock. -/
def leaveTemp (step : Nat) : Nat := [0, 95, 100, 105].getD step 100

/-- CLOCK_STEP_DOWN (R416): the hottest sensor of a die calls for a lower clock. -/
def execClockStepDown (die temp : Nat) (s : State) : Host.Outcome State Fault Refusal :=
  event "CLOCK_STEP_DOWN" (if 4 ≤ die ∨ stepForTemp temp ≤ vget 0 s.pkg.clockStep die then none
    else some (s.onPkg fun k => { k with clockStep := vset k.clockStep die (stepForTemp temp), coolSince := vset k.coolSince die none }))

/-- CLOCK_STEP_UP (R416): a reading of a die's hottest sensor; after 1 ms below the threshold the die returns to the next higher
clock. -/
def execClockStepUp (die temp : Nat) (s : State) : Host.Outcome State Fault Refusal :=
  event "CLOCK_STEP_UP" (
    let k := vget 0 s.pkg.clockStep die
    if 4 ≤ die ∨ k = 0 then none
    else if leaveTemp k ≤ temp then some (s.onPkg fun x => { x with coolSince := vset x.coolSince die none })
    else match vget none s.pkg.coolSince die with
      | none => some (s.onPkg fun x => { x with coolSince := vset x.coolSince die (some s.time) })
      | some t =>
        if (s.time - t).toNat < 1000000 then some s
        else some (s.onPkg fun x => { x with clockStep := vset x.clockStep die (k - 1), coolSince := vset x.coolSince die none }))

/-- The module power limit, clamped (R365); the clock step that it calls for is a free value. -/
def State.setPower (s : State) (w : Nat) : State :=
  { (s.onHub fun h => { h with powerlimit := max 1000 (min 2800 w) }) with
    pkg := { s.pkg with powerStep := Config.freePower s.tick % 5 }, tick := s.tick + 1 }
/-- POWERLIMIT (R365, R416). -/
def execPowerlimit (w : W64) (s : State) : Host.Outcome State Fault Refusal := event "POWERLIMIT" (some (s.setPower (w.toNat % 4096)))

/-- POWER_STATE_CHANGE (R416): P1 needs every core free; P3 ends everything but the time counter and is left through bring-up. -/
def execPowerStateChange (st : PowerState) (s : State) : Host.Outcome State Fault Refusal :=
  event "POWER_STATE_CHANGE" (
    match st with
    | .p0 => if s.pkg.power == .p1 then some (s.onPkg fun k => { k with power := .p0 }) else none
    | .p1 =>
      if s.pkg.power == .p0 && (List.range Config.nCores).all (fun g => (s.core g).status == .free) then
        some (s.onPkg fun k => { k with power := .p1 })
      else none
    | .p3 => some ((s.onPkg fun k => { k with power := .p3 }).onHub fun h => { h with ready := false }))

/-! ## The fabric (R406, R408) -/

/-- LANE_FAILURE (R406): a lane of a port is out of service. -/
def execLaneFailure (port lane : Nat) (s : State) : Host.Outcome State Fault Refusal :=
  event "LANE_FAILURE" (if port < 12 ∧ lane < 5 ∧ (vget 0 s.pkg.lanes port).getLsbD lane = false then
    some (s.onPkg fun k => { k with lanes := vset k.lanes port (vget 0 k.lanes port ||| (1#5 <<< lane)) })
  else none)

/-- The BAR of the pod at which a core waits has a member on a module that leaves: the module's partitions are in its pod group still, or left
it after the BAR was begun (R408). -/
def State.waitsFor (s : State) (m : Removal) (g : Nat) : Bool :=
  let r := (s.core g).reached
  let pg := (s.part (s.partOf g)).podgroup
  (s.core g).barScope == some 4 && !r.released && decide (pg ≠ 0) && (m.groups.contains pg || m.cleared.any fun x =>
    x.1 == pg && (match r.since with | some t => decide (t < x.2) | none => false))

/-- MODULE_REMOVAL (R408): another module leaves the pod; each of its partitions is idle or has been reset. A BAR of the pod that waits for a
member on the module never completes, and none begun in a group that the module's partitions were not cleared from does. -/
def execModuleRemoval (m : Removal) (s : State) : Host.Outcome State Fault Refusal :=
  event "MODULE_REMOVAL" (if !m.idle || s.pkg.removed.contains m.module then none else
    some ((List.range Config.nCores).foldl (fun s g =>
      if s.waitsFor m g then s.onCore g fun c => { c with step := c.step.map fun st => { st with orphan := true } } else s)
      (s.onPkg fun k => { k with removed := k.removed ++ [m.module], lost := k.lost ++ m.groups.filter fun x => x != 0 })))

/-! ## Online repair (R411 to R415) -/

/-- A quad that came into use as a stand-in: one that was not active at power-on (R1, R411). -/
def standInQuad (q : Nat) : Bool := decide (16 ≤ q)

/-- A repair with some fields is refused (R411). -/
def State.repairRefused (s : State) (w : W64) : Bool :=
  match repKind w with
  | 0 => decide (18 ≤ repQuad w) || !s.quadOn (repDie w) (repQuad w) || standInQuad (repQuad w) || (s.standIn (repDie w)).isNone
  | 1 => decide (Config.nCores ≤ repUnit w) || (s.core (repUnit w)).classB
  | 2 => decide (51 ≤ repUnit w) || decide (repUnit w % 17 = 16) || s.pkg.chanSpare.contains (3 * repDie w + repUnit w / 17)
  | _ => true

/-- A write of REPAIR (R411): its fields, and with GO a repair starts or is refused. A GO written while one runs is ignored; the running
repair keeps the fields it started with. -/
def State.repairWrite (s : State) (v : W64) : State :=
  let w := v &&& 0x3003FFFC
  let t := s.onHub fun h => { h with repair := (h.repair &&& 0xC0000000) ||| w }
  if !v.getLsbD 0 || s.repStatus = 1 then t
  else if s.repairRefused w then t.setRepair 3
  else (t.setRepair 1).onHub fun h => { h with repairRun := w }

/-- Bit b of a bitmap takes the place of bit a. -/
def moveBit (m : BitVec 320) (a b : Nat) : BitVec 320 :=
  if m.getLsbD a then (m &&& ~~~(1#320 <<< a)) ||| (1#320 <<< b) else m

/-- Core b takes the place of core a in every partition, with its logical number (R32, R412), and is where the steps saved from it count as members. -/
def State.replaceCore (s : State) (a b : Nat) : State :=
  let moved (t : StepInfo) : StepInfo := if t.place = a then { t with place := b } else t
  let s := (List.range 64).foldl (fun s p => s.onPart p fun pt => { pt with
    held := moveBit pt.held a b, entry := { pt.entry with cores := moveBit pt.entry.cores a b }
    loaded := pt.loaded.map fun e => { e with cores := moveBit e.cores a b }
    bound := pt.bound.map fun (x : Option Nat) => if x = some a then some b else x
    saved := pt.saved.map fun (x : Saved) => { x with step := moved x.step }, restarts := pt.restarts.map moved }) s
  s.onCore b fun c => { c with logical := (s.core a).logical }

/-- A stand-in quad takes the place of a retired one, and colmer binds the images again (R412). -/
def State.mapQuad (s : State) (d q r : Nat) : State :=
  let s := ((quadCores d q).zip (quadCores d r)).foldl (fun s x => s.replaceCore x.1 x.2) s
  let row (v : Vector (Vector Bool 18) 4) (q : Nat) (b : Bool) := vset v d (vset (vget (.replicate 18 false) v d) q b)
  let s := s.onPkg fun k => { k with quadActive := row (row k.quadActive q false) r true, quadRetired := row k.quadRetired q true }
  (List.range 64).foldl (fun s p => if (s.part p).loaded.isSome then s.bindRegs p else s) s

/-- A reset runs of a partition that holds one of some cores: a repair waits for its scrub (R415). -/
def State.anyResetting (s : State) (cs : List Nat) : Bool :=
  (List.range 64).any fun p => (s.part p).resetting.isSome && cs.any fun g => s.partHas p g

/-- QUAD_REPAIR (R412): the steps of the quad are asked to save; once its cores are free a stand-in quad takes its place. During a
reset it waits for the scrub (R415). -/
def execQuadRepair (die quad : Nat) (s : State) : Host.Outcome State Fault Refusal :=
  event "QUAD_REPAIR" (
    let cs := quadCores die quad
    let busy := cs.filter fun g => (s.core g).step.isSome
    if !s.repairs 0 ∨ repDie s.hub.repairRun ≠ die ∨ repQuad s.hub.repairRun ≠ quad then none
    else if s.anyResetting cs then none
    else if busy.any fun g => !(s.core g).req.preempt then some (s.askSave busy)
    else if busy ≠ [] ∨ cs.any s.underScrub then none
    else match s.standIn die with
      | some r => some ((s.mapQuad die quad r).setRepair 2)
      | none => some (s.setRepair 3))

/-- After a bank repair an image serves the core, which is of class B from then on: it is of class B, colmer has rescheduled it, or its policy holds
every such core under cr.compat. R413 removes the core otherwise (log entry 117). -/
def imgServes (i : Image) : Bool := i.classB || i.other.isSome || i.policyCompat
/-- A core that its partition's image does not serve leaves the partition (R413). -/
def State.dropCore (s : State) (p g : Nat) : State :=
  let off (m : BitVec 320) : BitVec 320 := m &&& ~~~(1#320 <<< g)
  s.onPart p fun pt => { pt with
    held := off pt.held, entry := { pt.entry with cores := off pt.entry.cores }
    loaded := pt.loaded.map fun e => { e with cores := off e.cores }, bound := pt.bound.map fun (x : Option Nat) => if x = some g then none else x }

/-- BANK_REPAIR (R413): the core is drained at a comma; then the spare bank is mapped in, and the core is of class B. -/
def execBankRepair (g : Nat) (s : State) : Host.Outcome State Fault Refusal :=
  coreEvent "BANK_REPAIR" g (
    let c := s.core g
    if !s.repairs 1 ∨ repUnit s.hub.repairRun ≠ g then none
    else if s.anyResetting [g] then none
    else if c.step.isSome then (if c.req.preempt then none else some (s.askSave [g]))
    else if s.underScrub g then none
    else
      let s := (s.setCore g { c with classB := true }).setRepair 2
      some ((List.range 64).foldl (fun s p =>
        if !s.partHas p g then s
        else if (s.part p).image.all imgServes then s.bindRegs p else ((s.dropCore p g).bindCores p).bindRegs p) s))

/-- CHANNEL_REPAIR (R414): the spare channel of the stack takes the lines of the failing one. -/
def execChannelRepair (die unit : Nat) (s : State) : Host.Outcome State Fault Refusal :=
  event "CHANNEL_REPAIR" (if !s.repairs 2 ∨ repDie s.hub.repairRun ≠ die ∨ repUnit s.hub.repairRun ≠ unit then none
    else some ((s.onPkg fun k => { k with chanSpare := k.chanSpare ++ [3 * die + unit / 17] }).setRepair 2))

/-! ## Register writes -/

/-- A write of the physical function's register block (R365). -/
def State.pfWrite (s : State) (o : Nat) (v : W64) : State :=
  if o = 8 then s.repairWrite v
  else if o = 0x10 then s.onHub fun h => { h with ptpdomain := v.toNat % 128 }
  else if o = 0x18 then s.setPower (v.toNat % 4096)
  else if o = 0x20 then s.onHub fun h => { h with lanethresh := v.setWidth 32 }
  else if o = 0x28 then s.stepTime v
  else if 0x100 ≤ o ∧ o < 0x300 then s.onHub fun h => { h with hiLatch := vset h.hiLatch ((o - 0x100) / 8) (v.setWidth 32) }
  else if 0x300 ≤ o ∧ o < 0x380 then
    let t := (List.range 4).foldl (fun s k => s.onPart ((o - 0x300) / 2 + k) fun pt => { pt with podgroup := v.extractLsb' (16 * k) 16 }) s
    t.onPkg fun k => { k with lost := k.lost.filter fun x => (List.range 64).any fun p => (t.part p).podgroup == x }
  else if 0x4000 ≤ o ∧ o < 0x8000 then s.bankWrite none ((o - 0x4000) / 0x1000) (o % 0x1000 / 0x100) (o % 0x100) v
  else s

/-- REGISTER_WRITE (R364, R365): an aligned write of 8 bytes. A function writes the block of its partition; the physical function
writes its own block below 64 KiB, and the block of partition p from 1 MiB × (p + 1) (log entry 29). -/
def execRegisterWrite (fn : Option Nat) (ofs : Nat) (v : W64) (s : State) : Host.Outcome State Fault Refusal :=
  event "REGISTER_WRITE" (if ofs % 8 ≠ 0 then none else
    match fn with
    | some f => match s.partOfVf f with
      | some p => if ofs < 2 ^ 20 then s.blockWrite fn p ofs v else some s
      | none => some s
    | none => if ofs < 2 ^ 16 then some (s.pfWrite ofs v)
      else if ofs < 2 ^ 20 then some s
      else s.blockWrite none (ofs / 2 ^ 20 - 1) (ofs % 2 ^ 20) v)

/-! ## Device reset (R417) -/

/-- The greatest-keyed byte that any view holds at an address: what memory holds once every write has been applied (R300). -/
def Order.settledByte (o : Order) (a : Nat) : Byte :=
  let f (b : ByteKey × Byte) (d : Nat) : ByteKey × Byte :=
    let k := amGet Order.keyZero (o.viewKeys d) a
    if Order.keyLt b.1 k then (k, amGet 0 (o.view d) a) else b
  ((List.range 4).foldl f (Order.keyZero, amGet 0 (o.view 0) a)).2

/-- Memory as every view holds it at a device reset (R290), without the hub region. -/
def Order.settledMem (o : Order) : AMap Byte :=
  let addrs := ((List.range 4).flatMap fun d => (o.view d).map fun x => x.1).filter fun a => !hubRegion a
  addrs.foldl (fun m a => amSet 0 m a (o.settledByte a)) []

/-- The device after bring-up (R417): the cores scrubbed, each scrub counted in SEQ, the tables zeroed; memory, host memory, the time
counter, the repairs and the classes of the cores stay. -/
def State.broughtUp (s : State) : State :=
  let mem := s.ord.settledMem
  { State.reset with
    cores := s.cores.map fun (c : CoreSt) => { CoreSt.reset with classB := c.classB }
    ord := { Order.reset with mem := .replicate 4 mem, host := s.ord.host, hostRead := s.ord.hostRead }
    hub := { Hub.reset with seq := s.hub.seq + BitVec.ofNat 64 Config.nCores }
    pkg := { s.pkg with power := .p0, clockStep := .replicate 4 0, coolSince := .replicate 4 none, powerStep := 0, lost := [], ptpStamps := [] }
    time := s.time, dieTime := s.dieTime, cur := s.cur, agenda := s.agenda, tick := s.tick }

/-- A bring-up that halts at its second step (R417): no partition is defined and no step is resident, but no core is scrubbed. -/
def State.heldDown (s : State) : State :=
  { s.broughtUp with
    cores := s.cores.map fun (c : CoreSt) => { c.freed with flow := .reset, req := .none, tlb := [] }
    hub := { Hub.reset with seq := s.hub.seq, ready := false } }

/-- DEVICE_RESET (R382, R417): at power-on the time counter starts from 0 and memory reads as after reset. A firmware whose signature does
not verify halts bring-up before READY. -/
def execDeviceReset (powerOn : Bool) (s : State) : Host.Outcome State Fault Refusal :=
  event "DEVICE_RESET" (
    let s := if powerOn then { s with time := 0, dieTime := .replicate 4 0, ord := { Order.reset with host := s.ord.host } } else s
    some (if s.pkg.firmwareOk then s.broughtUp else s.heldDown))

end Sys2Proof.Machine
end

