-- ==== Sys2Proof/Machine/Vector.lean ====
section
/-! DEFINITION. The V-slot instructions (R135 to R151) with the reduction tree of R99. -/

namespace Sys2Proof.Machine

/-- Lane λ of a register (R136). -/
def laneOf (x : W512) (l : Nat) : W32 := elem 32 l x
/-- All ones in each enabled lane (R139). -/
def maskBits (k : W16) : W512 := packElems 512 ((List.range 16).map fun l => if k.getLsbD l then (.allOnes 32 : W32) else 0)
/-- The enabled lanes of an operation: values, and the flags that enabled lanes alone raise (R139). -/
def lanes (k : W16) (f : Nat → W32 × Flg) : W512 × Flg :=
  let rs := (List.range 16).map fun l => if k.getLsbD l then f l else (0, 0)
  (packElems 512 (rs.map fun r => r.1), rs.foldl (fun x r => x ||| r.2) 0)

/-- A result in every named cluster: value, bit mask and flags of each (R137, R139). -/
def landV (i : Instr) (g : BitVec 4) (d : VDst) (f : CoreSt → Nat → W512 × W512 × Flg) (s : State) :
    Host.Outcome State Fault Refusal :=
  s.issue i fun s => s.onCur fun c =>
    let rs := (clustersOf g).map fun cl => (cl, f c cl)
    c.fly (i.latency c.classB) (destsOf i) (rs.map fun r => CoreSt.wV d r.1 r.2.1 r.2.2.1)
      (rs.foldl (fun x r => x ||| r.2.2.2) 0)

/-- A masked function of lanes (R139). -/
def masked (k : BitVec 3) (f : CoreSt → Nat → Nat → W32 × Flg) (c : CoreSt) (cl : Nat) : W512 × W512 × Flg :=
  let m := c.kmask cl k.toNat
  let r := lanes m (f c cl)
  (r.1, maskBits m, r.2)

/-- A masked function of two sources' lanes. A lost latch named raises latch-lost whatever the mask (DESIGN CHOICE, log entry 78). -/
def vbin (k : BitVec 3) (a b : VSrc) (f : W32 → W32 → W32 × Flg) (c : CoreSt) (cl : Nat) : W512 × W512 × Flg :=
  let r := masked k (fun _ _ l => f (laneOf (c.vsrc cl a) l) (laneOf (c.vsrc cl b) l)) c cl
  (r.1, r.2.1, r.2.2 ||| c.vsrcFlag cl a ||| c.vsrcFlag cl b)
/-- A masked function of one source's lanes. -/
def vun (k : BitVec 3) (a : VSrc) (f : W32 → W32 × Flg) (c : CoreSt) (cl : Nat) : W512 × W512 × Flg :=
  let r := masked k (fun _ _ l => f (laneOf (c.vsrc cl a) l)) c cl
  (r.1, r.2.1, r.2.2 ||| c.vsrcFlag cl a)

/-- The element width of an integer type. -/
def ityW : ITy → Nat
  | .i32 => 32 | .i16 => 16 | .i8 => 8

/-- The elements of a lane, each computed alone (R141). -/
def elems (w : Nat) (f : BitVec w → BitVec w → BitVec w × Flg) (a b : W32) : W32 × Flg :=
  let rs := (List.range (32 / w)).map fun j => f (elem w j a) (elem w j b)
  (packElems 32 (rs.map fun r => r.1), rs.foldl (fun x r => x ||| r.2) 0)

/-- An integer family instruction (R141). -/
def vint (i : Instr) (t : ITy) (g : BitVec 4) (k : BitVec 3) (d : VDst) (a b : VSrc)
    (f : (w : Nat) → BitVec w → BitVec w → BitVec w × Flg) (s : State) : Host.Outcome State Fault Refusal :=
  landV i g d (vbin k a b (elems (ityW t) (f (ityW t)))) s

/-- The shift count of an element: its low log2(w) bits (R141). -/
def cntW (w : Nat) (y : BitVec w) : Nat := y.toNat % w

/-- A 32-bit bitwise operation (R142). -/
def vbit (i : Instr) (g : BitVec 4) (k : BitVec 3) (d : VDst) (a b : VSrc) (f : W32 → W32 → W32) (s : State) :
    Host.Outcome State Fault Refusal := landV i g d (vbin k a b fun x y => (f x y, 0)) s

/-- A mask result in every named cluster (R143, R144). -/
def landK (i : Instr) (g : BitVec 4) (kd : BitVec 3) (f : CoreSt → Nat → W16 × Flg) (s : State) :
    Host.Outcome State Fault Refusal :=
  s.issue i fun s => s.onCur fun c =>
    let rs := (clustersOf g).map fun cl => (cl, f c cl)
    c.fly (i.latency c.classB) (destsOf i) (rs.map fun r => .kreg r.1 kd.toNat r.2.1) (rs.foldl (fun x r => x ||| r.2.2) 0)

/-- Sixteen bits of a condition. -/
def bits16 (f : Nat → Bool) : W16 := packElems 16 ((List.range 16).map fun l => BitVec.ofBool (f l))

/-- A compare: disabled lanes write 0 (R143). -/
def vcmp (k : BitVec 3) (a b : VSrc) (f : W32 → W32 → Bool) (c : CoreSt) (cl : Nat) : W16 × Flg :=
  let m := c.kmask cl k.toNat
  (bits16 fun l => m.getLsbD l && f (laneOf (c.vsrc cl a) l) (laneOf (c.vsrc cl b) l), c.vsrcFlag cl a ||| c.vsrcFlag cl b)
/-- A floating-point compare (R143). -/
def vfc (f : FP.FVal → FP.FVal → Bool) (x y : W32) : Bool := f (FP.unpack FP.f32 x.toNat) (FP.unpack FP.f32 y.toNat)
/-- Mask logic (R144). -/
def klog (k ka kb : BitVec 3) (f : W16 → W16 → W16) (c : CoreSt) (cl : Nat) : W16 × Flg :=
  (f (c.kmask cl ka.toNat) (c.kmask cl kb.toNat) &&& c.kmask cl k.toNat, 0)

/-- A 32-bit pattern with its flags. -/
def w32 (r : Nat × Flg) : W32 × Flg := (BitVec.ofNat 32 r.1, r.2)

/-- VFMA with the addend that the destination names (R145). -/
def vfmaF (m : Rm) (k : BitVec 3) (d : VDst) (a b : VSrc) (c : CoreSt) (cl : Nat) : W512 × W512 × Flg :=
  let r := masked k (fun c cl l => w32 (FP.fma FP.f32 (FP.ofRm m) (laneOf (c.vold cl d) l).toNat
    (laneOf (c.vsrc cl a) l).toNat (laneOf (c.vsrc cl b) l).toNat)) c cl
  (r.1, r.2.1, r.2.2 ||| c.voldFlag cl d ||| c.vsrcFlag cl a ||| c.vsrcFlag cl b)

/-- The smaller or larger value, −0 below +0; a NaN gives the canonical NaN (R99, R146). -/
def fpick (big : Bool) (x y : W32) : W32 :=
  let u := FP.unpack FP.f32 x.toNat
  let v := FP.unpack FP.f32 y.toNat
  if u.isNan || v.isNan then BitVec.ofNat 32 FP.f32.nan
  else if big then (if FP.lessTotal u v then y else x) else (if FP.lessTotal v u then y else x)

/-- A sign operation; a NaN gives the canonical NaN (R146). -/
def fsign (x r : W32) : W32 := if (FP.unpack FP.f32 x.toNat).isNan then BitVec.ofNat 32 FP.f32.nan else r

/-! ## Reductions (R99, R148) -/

/-- One level of the tree: neighbours combine, the lower-numbered lanes on the left. -/
def treeLevel (f : W32 → W32 → W32 × Flg) : List W32 → List W32 × Flg
  | x :: y :: xs =>
    let r := treeLevel f xs
    ((f x y).1 :: r.1, (f x y).2 ||| r.2)
  | xs => (xs, 0)
/-- The tree over the lanes. -/
def tree (f : W32 → W32 → W32 × Flg) : Nat → List W32 → W32 × Flg
  | 0, xs => (xs.headD 0, 0)
  | n + 1, xs =>
    let l := treeLevel f xs
    let r := tree f n l.1
    (r.1, l.2 ||| r.2)
/-- The node rule of a reduction and its identity (R99). -/
def redOp (op : Nat) (t : RedTy) : W32 × (W32 → W32 → W32 × Flg) :=
  match op, t with
  | 0, .f32 => (0x80000000, fun x y => w32 (FP.add FP.f32 .rne x.toNat y.toNat))
  | 1, .f32 => (0xFF800000, fun x y => (fpick true x y, 0))
  | _, .f32 => (0x7F800000, fun x y => (fpick false x y, 0))
  | 0, .i32 => (0, fun x y => (x + y, 0))
  | 1, .i32 => (0x80000000, fun x y => (if x.slt y then y else x, 0))
  | _, .i32 => (0x7FFFFFFF, fun x y => (if y.slt x then y else x, 0))
/-- A reduction: the result in all 16 lanes; one with every lane disabled returns the identity and no flag. -/
def reduce (op : Nat) (t : RedTy) (k : BitVec 3) (a : VSrc) (c : CoreSt) (cl : Nat) : W512 × W512 × Flg :=
  let m := c.kmask cl k.toNat
  let n := redOp op t
  let r := tree n.2 4 ((List.range 16).map fun l => if m.getLsbD l then laneOf (c.vsrc cl a) l else n.1)
  (packElems 512 (List.replicate 16 r.1), .allOnes 512, if m = 0 then 0 else r.2 ||| c.vsrcFlag cl a)

/-! ## Packed conversions (R90, R150, R151) -/

/-- The number in a vector source field. -/
def vsrcNum : VSrc → Nat
  | .reg n => n.toNat
  | .latch k => k.toNat
/-- The number in a vector destination field. -/
def vdstNum : VDst → Nat
  | .reg n => n.toNat
  | .latch k => k.toNat

/-- q of R94: the logical core of the step's first dispatch. -/
def CoreSt.stepQ (c : CoreSt) : Nat := match c.step with | some st => st.q | none => c.logical

/-- Round a lane times its scale into element j of a narrow format (R90, R94). -/
def narrow (f : FP.Fmt) (m : Rm5) (c : CoreSt) (cl l j : Nat) (x sc : W32) : W32 × Flg :=
  let rnd := FP.randomBits c.ctrl.seed c.stepQ (16 * cl + l) (FP.elementIndex c.flow.sched.toNat j)
  let r := FP.scaleTo f m rnd (FP.unpack FP.f32 x.toNat) (FP.unpack FP.f32 sc.toNat)
  (BitVec.ofNat 32 r.1 <<< (f.width * j), r.2)
/-- Bits of element j of width w in every enabled lane. -/
def elemMask (k : W16) (w j : Nat) : W512 :=
  packElems 512 ((List.range 16).map fun l =>
    if k.getLsbD l then ((.allOnes 32 : W32) >>> (32 - w)) <<< (w * j) else 0)
/-- Widen element j exactly (R90). -/
def widen (f : FP.Fmt) (j : Nat) (x : W32) : W32 × Flg :=
  w32 (FP.roundVal FP.f32 .rne 0 (FP.unpack f ((x.toNat >>> (f.width * j)) % 2 ^ f.width)))

/-- A narrowing conversion (R150): element position from the source's number. -/
def cvtNarrow (f : FP.Fmt) (m : Rm5) (k : BitVec 3) (a b : VSrc) (c : CoreSt) (cl : Nat) : W512 × W512 × Flg :=
  let j := vsrcNum a % (32 / f.width)
  let r := masked k (fun c cl l => narrow f m c cl l j (laneOf (c.vsrc cl a) l) (laneOf (c.vsrc cl b) l)) c cl
  (r.1, elemMask (c.kmask cl k.toNat) f.width j, r.2.2 ||| c.vsrcFlag cl a ||| c.vsrcFlag cl b)

/-- VCVT in one cluster. -/
def cvtF (f : CvtForm) (k : BitVec 3) (d : VDst) (a b : VSrc) : CoreSt → Nat → W512 × W512 × Flg :=
  match f with
  | .f32i32 m => vun k a fun x => w32 (FP.cvtOfInt FP.f32 (FP.ofRm m) x.toInt)
  | .i32f32 m => vun k a fun x => FP.cvtToInt 32 (FP.ofRm m) (FP.unpack FP.f32 x.toNat)
  | .bf16f32 m => cvtNarrow FP.bf16 m k a b
  | .e4m3f32 m => cvtNarrow FP.e4m3 m k a b
  | .e5m2f32 m => cvtNarrow FP.e5m2 m k a b
  | .f32bf16 => vun k a (widen FP.bf16 (vdstNum d % 2))
  | .f32e4m3 => vun k a (widen FP.e4m3 (vdstNum d % 4))
  | .f32e5m2 => vun k a (widen FP.e5m2 (vdstNum d % 4))
  | .f32q4 m => vbin k a b fun x y =>
    w32 (FP.scaleTo FP.f32 (FP.ofRm m) 0 (FP.level ((x.toNat >>> (4 * (vdstNum d % 8))) % 16)) (FP.unpack FP.f32 y.toNat))

/-- VADD (R141). -/
def execVadd (t : ITy) (g : BitVec 4) (k : BitVec 3) (d : VDst) (a b : VSrc) (s : State) : Host.Outcome State Fault Refusal :=
  vint (.vadd t g k d a b) t g k d a b (fun _ x y => (x + y, 0)) s
/-- VSUB (R141). -/
def execVsub (t : ITy) (g : BitVec 4) (k : BitVec 3) (d : VDst) (a b : VSrc) (s : State) : Host.Outcome State Fault Refusal :=
  vint (.vsub t g k d a b) t g k d a b (fun _ x y => (x - y, 0)) s
/-- VADDS (R141). -/
def execVadds (t : ITy) (g : BitVec 4) (k : BitVec 3) (d : VDst) (a b : VSrc) (s : State) : Host.Outcome State Fault Refusal :=
  vint (.vadds t g k d a b) t g k d a b (fun w x y => satS w (x.toInt + y.toInt)) s
/-- VADDSU (R141). -/
def execVaddsu (t : ITy) (g : BitVec 4) (k : BitVec 3) (d : VDst) (a b : VSrc) (s : State) : Host.Outcome State Fault Refusal :=
  vint (.vaddsu t g k d a b) t g k d a b (fun w x y => satU w (x.toNat + y.toNat : Int)) s
/-- VSUBS (R141). -/
def execVsubs (t : ITy) (g : BitVec 4) (k : BitVec 3) (d : VDst) (a b : VSrc) (s : State) : Host.Outcome State Fault Refusal :=
  vint (.vsubs t g k d a b) t g k d a b (fun w x y => satS w (x.toInt - y.toInt)) s
/-- VSUBSU (R141). -/
def execVsubsu (t : ITy) (g : BitVec 4) (k : BitVec 3) (d : VDst) (a b : VSrc) (s : State) : Host.Outcome State Fault Refusal :=
  vint (.vsubsu t g k d a b) t g k d a b (fun w x y => satU w ((x.toNat : Int) - y.toNat)) s
/-- VMUL (R141). -/
def execVmul (t : ITy) (g : BitVec 4) (k : BitVec 3) (d : VDst) (a b : VSrc) (s : State) : Host.Outcome State Fault Refusal :=
  vint (.vmul t g k d a b) t g k d a b (fun _ x y => (x * y, 0)) s
/-- VMIN (R141). -/
def execVmin (t : ITy) (g : BitVec 4) (k : BitVec 3) (d : VDst) (a b : VSrc) (s : State) : Host.Outcome State Fault Refusal :=
  vint (.vmin t g k d a b) t g k d a b (fun _ x y => (if y.slt x then y else x, 0)) s
/-- VMAX (R141). -/
def execVmax (t : ITy) (g : BitVec 4) (k : BitVec 3) (d : VDst) (a b : VSrc) (s : State) : Host.Outcome State Fault Refusal :=
  vint (.vmax t g k d a b) t g k d a b (fun _ x y => (if x.slt y then y else x, 0)) s
/-- VMINU (R141). -/
def execVminu (t : ITy) (g : BitVec 4) (k : BitVec 3) (d : VDst) (a b : VSrc) (s : State) : Host.Outcome State Fault Refusal :=
  vint (.vminu t g k d a b) t g k d a b (fun _ x y => (if y.ult x then y else x, 0)) s
/-- VMAXU (R141). -/
def execVmaxu (t : ITy) (g : BitVec 4) (k : BitVec 3) (d : VDst) (a b : VSrc) (s : State) : Host.Outcome State Fault Refusal :=
  vint (.vmaxu t g k d a b) t g k d a b (fun _ x y => (if x.ult y then y else x, 0)) s
/-- VSHL (R141). -/
def execVshl (t : ITy) (g : BitVec 4) (k : BitVec 3) (d : VDst) (a b : VSrc) (s : State) : Host.Outcome State Fault Refusal :=
  vint (.vshl t g k d a b) t g k d a b (fun w x y => (x <<< cntW w y, 0)) s
/-- VSHR (R141). -/
def execVshr (t : ITy) (g : BitVec 4) (k : BitVec 3) (d : VDst) (a b : VSrc) (s : State) : Host.Outcome State Fault Refusal :=
  vint (.vshr t g k d a b) t g k d a b (fun w x y => (x >>> cntW w y, 0)) s
/-- VSAR (R141). -/
def execVsar (t : ITy) (g : BitVec 4) (k : BitVec 3) (d : VDst) (a b : VSrc) (s : State) : Host.Outcome State Fault Refusal :=
  vint (.vsar t g k d a b) t g k d a b (fun w x y => (x.sshiftRight (cntW w y), 0)) s
/-- VAND (R142). -/
def execVand (g : BitVec 4) (k : BitVec 3) (d : VDst) (a b : VSrc) (s : State) : Host.Outcome State Fault Refusal :=
  vbit (.vand g k d a b) g k d a b (fun x y => x &&& y) s
/-- VOR (R142). -/
def execVor (g : BitVec 4) (k : BitVec 3) (d : VDst) (a b : VSrc) (s : State) : Host.Outcome State Fault Refusal :=
  vbit (.vor g k d a b) g k d a b (fun x y => x ||| y) s
/-- VXOR (R142). -/
def execVxor (g : BitVec 4) (k : BitVec 3) (d : VDst) (a b : VSrc) (s : State) : Host.Outcome State Fault Refusal :=
  vbit (.vxor g k d a b) g k d a b (fun x y => x ^^^ y) s
/-- VANDN (R142). -/
def execVandn (g : BitVec 4) (k : BitVec 3) (d : VDst) (a b : VSrc) (s : State) : Host.Outcome State Fault Refusal :=
  vbit (.vandn g k d a b) g k d a b (fun x y => x &&& ~~~y) s
/-- VMOV (R142). -/
def execVmov (g : BitVec 4) (k : BitVec 3) (d : VDst) (a : VSrc) (s : State) : Host.Outcome State Fault Refusal :=
  landV (.vmov g k d a) g d (vun k a fun x => (x, 0)) s
/-- VSEL: the mask selects, and no lane is masked (R142). -/
def execVsel (g : BitVec 4) (k : BitVec 3) (d : VDst) (a b : VSrc) (s : State) : Host.Outcome State Fault Refusal :=
  landV (.vsel g k d a b) g d (fun c cl =>
    let m := maskBits (c.kmask cl k.toNat)
    ((c.vsrc cl a &&& m) ||| (c.vsrc cl b &&& ~~~m), .allOnes 512, c.vsrcFlag cl a ||| c.vsrcFlag cl b)) s
/-- VPERM (R142). -/
def execVperm (g : BitVec 4) (k : BitVec 3) (d : VDst) (a b : VSrc) (s : State) : Host.Outcome State Fault Refusal :=
  landV (.vperm g k d a b) g d (fun c cl =>
    let r := masked k (fun c cl l => (laneOf (c.vsrc cl a) ((laneOf (c.vsrc cl b) l).toNat % 16), 0)) c cl
    (r.1, r.2.1, c.vsrcFlag cl a ||| c.vsrcFlag cl b)) s
/-- VBCAST: bits [31:0] of a scalar register (R142). -/
def execVbcast (g : BitVec 4) (k : BitVec 3) (d : VDst) (n : BitVec 6) (s : State) : Host.Outcome State Fault Refusal :=
  landV (.vbcast g k d n) g d (masked k fun c _ _ => ((c.sreg n.toNat).setWidth 32, 0)) s
/-- VIDX (R142). -/
def execVidx (g : BitVec 4) (k : BitVec 3) (d : VDst) (s : State) : Host.Outcome State Fault Refusal :=
  landV (.vidx g k d) g d (masked k fun _ cl l => (BitVec.ofNat 32 (16 * cl + l), 0)) s
/-- VCMPEQ (R143). -/
def execVcmpeq (g : BitVec 4) (k kd : BitVec 3) (a b : VSrc) (s : State) : Host.Outcome State Fault Refusal :=
  landK (.vcmpeq g k kd a b) g kd (vcmp k a b fun x y => x == y) s
/-- VCMPLT (R143). -/
def execVcmplt (g : BitVec 4) (k kd : BitVec 3) (a b : VSrc) (s : State) : Host.Outcome State Fault Refusal :=
  landK (.vcmplt g k kd a b) g kd (vcmp k a b fun x y => x.slt y) s
/-- VCMPLE (R143). -/
def execVcmple (g : BitVec 4) (k kd : BitVec 3) (a b : VSrc) (s : State) : Host.Outcome State Fault Refusal :=
  landK (.vcmple g k kd a b) g kd (vcmp k a b fun x y => x.sle y) s
/-- VCMPLTU (R143). -/
def execVcmpltu (g : BitVec 4) (k kd : BitVec 3) (a b : VSrc) (s : State) : Host.Outcome State Fault Refusal :=
  landK (.vcmpltu g k kd a b) g kd (vcmp k a b fun x y => x.ult y) s
/-- VCMPLEU (R143). -/
def execVcmpleu (g : BitVec 4) (k kd : BitVec 3) (a b : VSrc) (s : State) : Host.Outcome State Fault Refusal :=
  landK (.vcmpleu g k kd a b) g kd (vcmp k a b fun x y => x.ule y) s
/-- VFCMPEQ (R143). -/
def execVfcmpeq (g : BitVec 4) (k kd : BitVec 3) (a b : VSrc) (s : State) : Host.Outcome State Fault Refusal :=
  landK (.vfcmpeq g k kd a b) g kd (vcmp k a b (vfc FP.eqV)) s
/-- VFCMPLT (R143). -/
def execVfcmplt (g : BitVec 4) (k kd : BitVec 3) (a b : VSrc) (s : State) : Host.Outcome State Fault Refusal :=
  landK (.vfcmplt g k kd a b) g kd (vcmp k a b (vfc FP.ltV)) s
/-- VFCMPLE (R143). -/
def execVfcmple (g : BitVec 4) (k kd : BitVec 3) (a b : VSrc) (s : State) : Host.Outcome State Fault Refusal :=
  landK (.vfcmple g k kd a b) g kd (vcmp k a b (vfc FP.leV)) s
/-- VFCMPUN (R143). -/
def execVfcmpun (g : BitVec 4) (k kd : BitVec 3) (a b : VSrc) (s : State) : Host.Outcome State Fault Refusal :=
  landK (.vfcmpun g k kd a b) g kd (vcmp k a b (vfc FP.unV)) s
/-- KAND (R144). -/
def execKand (g : BitVec 4) (k kd ka kb : BitVec 3) (s : State) : Host.Outcome State Fault Refusal :=
  landK (.kand g k kd ka kb) g kd (klog k ka kb fun x y => x &&& y) s
/-- KOR (R144). -/
def execKor (g : BitVec 4) (k kd ka kb : BitVec 3) (s : State) : Host.Outcome State Fault Refusal :=
  landK (.kor g k kd ka kb) g kd (klog k ka kb fun x y => x ||| y) s
/-- KXOR (R144). -/
def execKxor (g : BitVec 4) (k kd ka kb : BitVec 3) (s : State) : Host.Outcome State Fault Refusal :=
  landK (.kxor g k kd ka kb) g kd (klog k ka kb fun x y => x ^^^ y) s
/-- KANDN (R144). -/
def execKandn (g : BitVec 4) (k kd ka kb : BitVec 3) (s : State) : Host.Outcome State Fault Refusal :=
  landK (.kandn g k kd ka kb) g kd (klog k ka kb fun x y => x &&& ~~~y) s
/-- VFADD (R145). -/
def execVfadd (m : Rm) (g : BitVec 4) (k : BitVec 3) (d : VDst) (a b : VSrc) (s : State) : Host.Outcome State Fault Refusal :=
  landV (.vfadd m g k d a b) g d (vbin k a b fun x y => w32 (FP.add FP.f32 (FP.ofRm m) x.toNat y.toNat)) s
/-- VFSUB (R145). -/
def execVfsub (m : Rm) (g : BitVec 4) (k : BitVec 3) (d : VDst) (a b : VSrc) (s : State) : Host.Outcome State Fault Refusal :=
  landV (.vfsub m g k d a b) g d (vbin k a b fun x y => w32 (FP.sub FP.f32 (FP.ofRm m) x.toNat y.toNat)) s
/-- VFMUL (R145). -/
def execVfmul (m : Rm) (g : BitVec 4) (k : BitVec 3) (d : VDst) (a b : VSrc) (s : State) : Host.Outcome State Fault Refusal :=
  landV (.vfmul m g k d a b) g d (vbin k a b fun x y => w32 (FP.mul FP.f32 (FP.ofRm m) x.toNat y.toNat)) s
/-- VFMA (R145). -/
def execVfma (m : Rm) (g : BitVec 4) (k : BitVec 3) (d : VDst) (a b : VSrc) (s : State) : Host.Outcome State Fault Refusal :=
  landV (.vfma m g k d a b) g d (vfmaF m k d a b) s
/-- VFMIN (R146). -/
def execVfmin (g : BitVec 4) (k : BitVec 3) (d : VDst) (a b : VSrc) (s : State) : Host.Outcome State Fault Refusal :=
  landV (.vfmin g k d a b) g d (vbin k a b fun x y => (fpick false x y, 0)) s
/-- VFMAX (R146). -/
def execVfmax (g : BitVec 4) (k : BitVec 3) (d : VDst) (a b : VSrc) (s : State) : Host.Outcome State Fault Refusal :=
  landV (.vfmax g k d a b) g d (vbin k a b fun x y => (fpick true x y, 0)) s
/-- VFABS (R146). -/
def execVfabs (g : BitVec 4) (k : BitVec 3) (d : VDst) (a : VSrc) (s : State) : Host.Outcome State Fault Refusal :=
  landV (.vfabs g k d a) g d (vun k a fun x => (fsign x (x &&& 0x7FFFFFFF), 0)) s
/-- VFNEG (R146). -/
def execVfneg (g : BitVec 4) (k : BitVec 3) (d : VDst) (a : VSrc) (s : State) : Host.Outcome State Fault Refusal :=
  landV (.vfneg g k d a) g d (vun k a fun x => (fsign x (x ^^^ 0x80000000), 0)) s
/-- VRCP (R147). -/
def execVrcp (g : BitVec 4) (k : BitVec 3) (d : VDst) (a : VSrc) (s : State) : Host.Outcome State Fault Refusal :=
  landV (.vrcp g k d a) g d (vun k a fun x => w32 (FP.vrcp x)) s
/-- VRSQRT (R147). -/
def execVrsqrt (g : BitVec 4) (k : BitVec 3) (d : VDst) (a : VSrc) (s : State) : Host.Outcome State Fault Refusal :=
  landV (.vrsqrt g k d a) g d (vun k a fun x => w32 (FP.vrsqrt x)) s
/-- VEXP2 (R147). -/
def execVexp2 (g : BitVec 4) (k : BitVec 3) (d : VDst) (a : VSrc) (s : State) : Host.Outcome State Fault Refusal :=
  landV (.vexp2 g k d a) g d (vun k a fun x => w32 (FP.vexp2 0 x)) s
/-- VLOG2 (R147). -/
def execVlog2 (g : BitVec 4) (k : BitVec 3) (d : VDst) (a : VSrc) (s : State) : Host.Outcome State Fault Refusal :=
  landV (.vlog2 g k d a) g d (vun k a fun x => w32 (FP.vlog2 0 x)) s
/-- VRADD (R99, R148). -/
def execVradd (t : RedTy) (g : BitVec 4) (k : BitVec 3) (d : VDst) (a : VSrc) (s : State) : Host.Outcome State Fault Refusal :=
  landV (.vradd t g k d a) g d (reduce 0 t k a) s
/-- VRMAX (R99, R148). -/
def execVrmax (t : RedTy) (g : BitVec 4) (k : BitVec 3) (d : VDst) (a : VSrc) (s : State) : Host.Outcome State Fault Refusal :=
  landV (.vrmax t g k d a) g d (reduce 1 t k a) s
/-- VRMIN (R99, R148). -/
def execVrmin (t : RedTy) (g : BitVec 4) (k : BitVec 3) (d : VDst) (a : VSrc) (s : State) : Host.Outcome State Fault Refusal :=
  landV (.vrmin t g k d a) g d (reduce 2 t k a) s
/-- VXC: a register or latch of cluster SC, masked in each destination cluster (R149). -/
def execVxc (g : BitVec 4) (k : BitVec 3) (d : VDst) (a : VSrc) (sc : BitVec 3) (s : State) : Host.Outcome State Fault Refusal :=
  landV (.vxc g k d a sc) g d (fun c cl =>
    let r := masked k (fun c _ l => (laneOf (c.vsrc sc.toNat a) l, 0)) c cl
    (r.1, r.2.1, c.vsrcFlag sc.toNat a)) s
/-- VCVT (R150, R151). -/
def execVcvt (f : CvtForm) (g : BitVec 4) (k : BitVec 3) (d : VDst) (a b : VSrc) (s : State) : Host.Outcome State Fault Refusal :=
  landV (.vcvt f g k d a b) g d (cvtF f k d a b) s

end Sys2Proof.Machine
end

