-- ==== Sys2Proof/Machine/Dispatch.lean ====
section
/-! DEFINITION. One arm per operation: a direct call of its meaning. -/

namespace Sys2Proof.Machine

def exec (i : Instr) (s : State) : Host.Outcome State Fault Refusal :=
  match i with
  | .add d a b => Sys2Proof.Machine.execAdd d a b s
  | .sub d a b => Sys2Proof.Machine.execSub d a b s
  | .and d a b => Sys2Proof.Machine.execAnd d a b s
  | .or d a b => Sys2Proof.Machine.execOr d a b s
  | .xor d a b => Sys2Proof.Machine.execXor d a b s
  | .andn d a b => Sys2Proof.Machine.execAndn d a b s
  | .shl d a b => Sys2Proof.Machine.execShl d a b s
  | .shr d a b => Sys2Proof.Machine.execShr d a b s
  | .sar d a b => Sys2Proof.Machine.execSar d a b s
  | .min d a b => Sys2Proof.Machine.execMin d a b s
  | .max d a b => Sys2Proof.Machine.execMax d a b s
  | .minu d a b => Sys2Proof.Machine.execMinu d a b s
  | .maxu d a b => Sys2Proof.Machine.execMaxu d a b s
  | .adds d a b => Sys2Proof.Machine.execAdds d a b s
  | .subs d a b => Sys2Proof.Machine.execSubs d a b s
  | .mul d a b => Sys2Proof.Machine.execMul d a b s
  | .mulh d a b => Sys2Proof.Machine.execMulh d a b s
  | .mulhu d a b => Sys2Proof.Machine.execMulhu d a b s
  | .div d a b => Sys2Proof.Machine.execDiv d a b s
  | .divu d a b => Sys2Proof.Machine.execDivu d a b s
  | .rem d a b => Sys2Proof.Machine.execRem d a b s
  | .remu d a b => Sys2Proof.Machine.execRemu d a b s
  | .addi d a imm => Sys2Proof.Machine.execAddi d a imm s
  | .andi d a imm => Sys2Proof.Machine.execAndi d a imm s
  | .ori d a imm => Sys2Proof.Machine.execOri d a imm s
  | .xori d a imm => Sys2Proof.Machine.execXori d a imm s
  | .shli d a n => Sys2Proof.Machine.execShli d a n s
  | .shri d a n => Sys2Proof.Machine.execShri d a n s
  | .sari d a n => Sys2Proof.Machine.execSari d a n s
  | .movq d h keep imm => Sys2Proof.Machine.execMovq d h keep imm s
  | .cmpeq p a b => Sys2Proof.Machine.execCmpeq p a b s
  | .cmpne p a b => Sys2Proof.Machine.execCmpne p a b s
  | .cmplt p a b => Sys2Proof.Machine.execCmplt p a b s
  | .cmple p a b => Sys2Proof.Machine.execCmple p a b s
  | .cmpltu p a b => Sys2Proof.Machine.execCmpltu p a b s
  | .cmpleu p a b => Sys2Proof.Machine.execCmpleu p a b s
  | .cmpeqi p a imm => Sys2Proof.Machine.execCmpeqi p a imm s
  | .cmpnei p a imm => Sys2Proof.Machine.execCmpnei p a imm s
  | .cmplti p a imm => Sys2Proof.Machine.execCmplti p a imm s
  | .cmplei p a imm => Sys2Proof.Machine.execCmplei p a imm s
  | .cmpltui p a imm => Sys2Proof.Machine.execCmpltui p a imm s
  | .cmpleui p a imm => Sys2Proof.Machine.execCmpleui p a imm s
  | .pand p pa pb => Sys2Proof.Machine.execPand p pa pb s
  | .por p pa pb => Sys2Proof.Machine.execPor p pa pb s
  | .pxor p pa pb => Sys2Proof.Machine.execPxor p pa pb s
  | .pandn p pa pb => Sys2Proof.Machine.execPandn p pa pb s
  | .movps d => Sys2Proof.Machine.execMovps d s
  | .movsp a => Sys2Proof.Machine.execMovsp a s
  | .rdcnt d a => Sys2Proof.Machine.execRdcnt d a s
  | .rdtime d => Sys2Proof.Machine.execRdtime d s
  | .rddesc d a => Sys2Proof.Machine.execRddesc d a s
  | .fadd t m d a b => Sys2Proof.Machine.execFadd t m d a b s
  | .fsub t m d a b => Sys2Proof.Machine.execFsub t m d a b s
  | .fmul t m d a b => Sys2Proof.Machine.execFmul t m d a b s
  | .fma t m d a b => Sys2Proof.Machine.execFma t m d a b s
  | .fcmpeq t p a b => Sys2Proof.Machine.execFcmpeq t p a b s
  | .fcmplt t p a b => Sys2Proof.Machine.execFcmplt t p a b s
  | .fcmple t p a b => Sys2Proof.Machine.execFcmple t p a b s
  | .fcmpun t p a b => Sys2Proof.Machine.execFcmpun t p a b s
  | .cvtF64I64 m d a => Sys2Proof.Machine.execCvtF64I64 m d a s
  | .cvtI64F64 m d a => Sys2Proof.Machine.execCvtI64F64 m d a s
  | .cvtF32I64 m d a => Sys2Proof.Machine.execCvtF32I64 m d a s
  | .cvtI64F32 m d a => Sys2Proof.Machine.execCvtI64F32 m d a s
  | .cvtF32F64 m d a => Sys2Proof.Machine.execCvtF32F64 m d a s
  | .cvtF64F32 d a => Sys2Proof.Machine.execCvtF64F32 d a s
  | .br ofs => Sys2Proof.Machine.execBr ofs s
  | .call ofs => Sys2Proof.Machine.execCall ofs s
  | .brr a => Sys2Proof.Machine.execBrr a s
  | .callr a => Sys2Proof.Machine.execCallr a s
  | .ret => Sys2Proof.Machine.execRet s
  | .loop body count => Sys2Proof.Machine.execLoop body count s
  | .loopr body a => Sys2Proof.Machine.execLoopr body a s
  | .wait w => Sys2Proof.Machine.execWait w s
  | .waitph p a b tmo => Sys2Proof.Machine.execWaitph p a b tmo s
  | .waitbit p a b tmo => Sys2Proof.Machine.execWaitbit p a b tmo s
  | .bar sc => Sys2Proof.Machine.execBar sc s
  | .fence sc => Sys2Proof.Machine.execFence sc s
  | .endStep => Sys2Proof.Machine.execEndStep s
  | .trap imm => Sys2Proof.Machine.execTrap imm s
  | .trapack => Sys2Proof.Machine.execTrapack s
  | .tret => Sys2Proof.Machine.execTret s
  | .crrd d cr => Sys2Proof.Machine.execCrrd d cr s
  | .crwr cr a => Sys2Proof.Machine.execCrwr cr a s
  | .dadd x y z w => Sys2Proof.Machine.execDadd x y z w s
  | .dsub x y z w => Sys2Proof.Machine.execDsub x y z w s
  | .dmul x y z w => Sys2Proof.Machine.execDmul x y z w s
  | .dmin x y z w => Sys2Proof.Machine.execDmin x y z w s
  | .dmax x y z w => Sys2Proof.Machine.execDmax x y z w s
  | .deq x y w => Sys2Proof.Machine.execDeq x y w s
  | .dne x y w => Sys2Proof.Machine.execDne x y w s
  | .dlt x y w => Sys2Proof.Machine.execDlt x y w s
  | .dle x y w => Sys2Proof.Machine.execDle x y w s
  | .deqi c imm w => Sys2Proof.Machine.execDeqi c imm w s
  | .dnei c imm w => Sys2Proof.Machine.execDnei c imm w s
  | .dlti c imm w => Sys2Proof.Machine.execDlti c imm w s
  | .dlei c imm w => Sys2Proof.Machine.execDlei c imm w s
  | .dgti c imm w => Sys2Proof.Machine.execDgti c imm w s
  | .dgei c imm w => Sys2Proof.Machine.execDgei c imm w s
  | .din c map o w => Sys2Proof.Machine.execDin c map o w s
  | .dnotin c map o w => Sys2Proof.Machine.execDnotin c map o w s
  | .delem z x b w => Sys2Proof.Machine.execDelem z x b w s
  | .dset c a b w => Sys2Proof.Machine.execDset c a b w s
  | .dseti c lo hi => Sys2Proof.Machine.execDseti c lo hi s
  | .dlab d c w => Sys2Proof.Machine.execDlab d c w s
  | .dval d c w => Sys2Proof.Machine.execDval d c w s
  | .dsize d c w => Sys2Proof.Machine.execDsize d c w s
  | .dlo d c w => Sys2Proof.Machine.execDlo d c w s
  | .dhi d c w => Sys2Proof.Machine.execDhi d c w s
  | .dsettle w => Sys2Proof.Machine.execDsettle w s
  | .dclr => Sys2Proof.Machine.execDclr s
  | .dopen ofs => Sys2Proof.Machine.execDopen ofs s
  | .dclose => Sys2Proof.Machine.execDclose s
  | .vadd t g k d a b => Sys2Proof.Machine.execVadd t g k d a b s
  | .vsub t g k d a b => Sys2Proof.Machine.execVsub t g k d a b s
  | .vadds t g k d a b => Sys2Proof.Machine.execVadds t g k d a b s
  | .vaddsu t g k d a b => Sys2Proof.Machine.execVaddsu t g k d a b s
  | .vsubs t g k d a b => Sys2Proof.Machine.execVsubs t g k d a b s
  | .vsubsu t g k d a b => Sys2Proof.Machine.execVsubsu t g k d a b s
  | .vmul t g k d a b => Sys2Proof.Machine.execVmul t g k d a b s
  | .vmin t g k d a b => Sys2Proof.Machine.execVmin t g k d a b s
  | .vmax t g k d a b => Sys2Proof.Machine.execVmax t g k d a b s
  | .vminu t g k d a b => Sys2Proof.Machine.execVminu t g k d a b s
  | .vmaxu t g k d a b => Sys2Proof.Machine.execVmaxu t g k d a b s
  | .vshl t g k d a b => Sys2Proof.Machine.execVshl t g k d a b s
  | .vshr t g k d a b => Sys2Proof.Machine.execVshr t g k d a b s
  | .vsar t g k d a b => Sys2Proof.Machine.execVsar t g k d a b s
  | .vand g k d a b => Sys2Proof.Machine.execVand g k d a b s
  | .vor g k d a b => Sys2Proof.Machine.execVor g k d a b s
  | .vxor g k d a b => Sys2Proof.Machine.execVxor g k d a b s
  | .vandn g k d a b => Sys2Proof.Machine.execVandn g k d a b s
  | .vmov g k d a => Sys2Proof.Machine.execVmov g k d a s
  | .vsel g k d a b => Sys2Proof.Machine.execVsel g k d a b s
  | .vperm g k d a b => Sys2Proof.Machine.execVperm g k d a b s
  | .vbcast g k d sr => Sys2Proof.Machine.execVbcast g k d sr s
  | .vidx g k d => Sys2Proof.Machine.execVidx g k d s
  | .vcmpeq g k kd a b => Sys2Proof.Machine.execVcmpeq g k kd a b s
  | .vcmplt g k kd a b => Sys2Proof.Machine.execVcmplt g k kd a b s
  | .vcmple g k kd a b => Sys2Proof.Machine.execVcmple g k kd a b s
  | .vcmpltu g k kd a b => Sys2Proof.Machine.execVcmpltu g k kd a b s
  | .vcmpleu g k kd a b => Sys2Proof.Machine.execVcmpleu g k kd a b s
  | .vfcmpeq g k kd a b => Sys2Proof.Machine.execVfcmpeq g k kd a b s
  | .vfcmplt g k kd a b => Sys2Proof.Machine.execVfcmplt g k kd a b s
  | .vfcmple g k kd a b => Sys2Proof.Machine.execVfcmple g k kd a b s
  | .vfcmpun g k kd a b => Sys2Proof.Machine.execVfcmpun g k kd a b s
  | .kand g k kd ka kb => Sys2Proof.Machine.execKand g k kd ka kb s
  | .kor g k kd ka kb => Sys2Proof.Machine.execKor g k kd ka kb s
  | .kxor g k kd ka kb => Sys2Proof.Machine.execKxor g k kd ka kb s
  | .kandn g k kd ka kb => Sys2Proof.Machine.execKandn g k kd ka kb s
  | .vfadd m g k d a b => Sys2Proof.Machine.execVfadd m g k d a b s
  | .vfsub m g k d a b => Sys2Proof.Machine.execVfsub m g k d a b s
  | .vfmul m g k d a b => Sys2Proof.Machine.execVfmul m g k d a b s
  | .vfma m g k d a b => Sys2Proof.Machine.execVfma m g k d a b s
  | .vfmin g k d a b => Sys2Proof.Machine.execVfmin g k d a b s
  | .vfmax g k d a b => Sys2Proof.Machine.execVfmax g k d a b s
  | .vfabs g k d a => Sys2Proof.Machine.execVfabs g k d a s
  | .vfneg g k d a => Sys2Proof.Machine.execVfneg g k d a s
  | .vrcp g k d a => Sys2Proof.Machine.execVrcp g k d a s
  | .vrsqrt g k d a => Sys2Proof.Machine.execVrsqrt g k d a s
  | .vexp2 g k d a => Sys2Proof.Machine.execVexp2 g k d a s
  | .vlog2 g k d a => Sys2Proof.Machine.execVlog2 g k d a s
  | .vradd t g k d a => Sys2Proof.Machine.execVradd t g k d a s
  | .vrmax t g k d a => Sys2Proof.Machine.execVrmax t g k d a s
  | .vrmin t g k d a => Sys2Proof.Machine.execVrmin t g k d a s
  | .vxc g k d a sc => Sys2Proof.Machine.execVxc g k d a sc s
  | .vcvt f g k d a b => Sys2Proof.Machine.execVcvt f g k d a b s
  | .afromv ad vs => Sys2Proof.Machine.execAfromv ad vs s
  | .atov vd as => Sys2Proof.Machine.execAtov vd as s
  | .adot d aa ab => Sys2Proof.Machine.execAdot d aa ab s
  | .adotm vd cl aa b => Sys2Proof.Machine.execAdotm vd cl aa b s
  | .ascl ad b => Sys2Proof.Machine.execAscl ad b s
  | .ascli ad imm => Sys2Proof.Machine.execAscli ad imm s
  | .amag d as => Sys2Proof.Machine.execAmag d as s
  | .aneg ad as => Sys2Proof.Machine.execAneg ad as s
  | .aadd ad aa ab => Sys2Proof.Machine.execAadd ad aa ab s
  | .asub ad aa ab => Sys2Proof.Machine.execAsub ad aa ab s
  | .alerp ad aa ab t => Sys2Proof.Machine.execAlerp ad aa ab t s
  | .azero ad => Sys2Proof.Machine.execAzero ad s
  | .asetn ad b => Sys2Proof.Machine.execAsetn ad b s
  | .mma f rep acc a b w => Sys2Proof.Machine.execMma f rep acc a b w s
  | .mmaq rep acc a b w => Sys2Proof.Machine.execMmaq rep acc a b w s
  | .msca rep acc hi v w => Sys2Proof.Machine.execMsca rep acc hi v w s
  | .mzero rep acc w => Sys2Proof.Machine.execMzero rep acc w s
  | .mret rep acc d part w => Sys2Proof.Machine.execMret rep acc d part w s
  | .mrets rep acc part b w => Sys2Proof.Machine.execMrets rep acc part b w s
  | .mcvt f m rep acc d half w => Sys2Proof.Machine.execMcvt f m rep acc d half w s
  | .mtr rep a d w => Sys2Proof.Machine.execMtr rep a d w s
  | .mldl rep a d w => Sys2Proof.Machine.execMldl rep a d w s
  | .mtrs rep mode a b w => Sys2Proof.Machine.execMtrs rep mode a b w s
  | .msetma ma sel a => Sys2Proof.Machine.execMsetma ma sel a s
  | .lds t d a ofs => Sys2Proof.Machine.execLds t d a ofs s
  | .ldv g d a ofs => Sys2Proof.Machine.execLdv g d a ofs s
  | .ald ad a ofs => Sys2Proof.Machine.execAld ad a ofs s
  | .tld t a b w => Sys2Proof.Machine.execTld t a b w s
  | .tldw wb a w => Sys2Proof.Machine.execTldw wb a w s
  | .sts t a b ofs => Sys2Proof.Machine.execSts t a b ofs s
  | .stv g a b ofs => Sys2Proof.Machine.execStv g a b ofs s
  | .ast as b ofs => Sys2Proof.Machine.execAst as b ofs s
  | .tst t a b w => Sys2Proof.Machine.execTst t a b w s
  | .amoadd d a b w => Sys2Proof.Machine.execAmoadd d a b w s
  | .amoswp d a b w => Sys2Proof.Machine.execAmoswp d a b w s
  | .amocas d a b w => Sys2Proof.Machine.execAmocas d a b w s
  | .amomin d a b w => Sys2Proof.Machine.execAmomin d a b w s
  | .amomax d a b w => Sys2Proof.Machine.execAmomax d a b w s
  | .amoand d a b w => Sys2Proof.Machine.execAmoand d a b w s
  | .amoor d a b w => Sys2Proof.Machine.execAmoor d a b w s
  | .binit d a b w => Sys2Proof.Machine.execBinit d a b w s
  | .arrive d a n w => Sys2Proof.Machine.execArrive d a n w s
  | .xtld pair t a b w => Sys2Proof.Machine.execXtld pair t a b w s
  | .xtst pair t a b w => Sys2Proof.Machine.execXtst pair t a b w s
  | .xcpy a b c w => Sys2Proof.Machine.execXcpy a b c w s
  | .pput a b c w => Sys2Proof.Machine.execPput a b c w s
  | .pget a b c w => Sys2Proof.Machine.execPget a b c w s
  | .xset cr a => Sys2Proof.Machine.execXset cr a s
  | .xgo w => Sys2Proof.Machine.execXgo w s
  | .read g x => Sys2Proof.Machine.execRead g x s
  | .write g x => Sys2Proof.Machine.execWrite g x s
  | .send g => Sys2Proof.Machine.execSend g s
  | .arbitrate n => Sys2Proof.Machine.execArbitrate n s
  | .port g x => Sys2Proof.Machine.execPort g x s
  | .deposit g x => Sys2Proof.Machine.execDeposit g x s
  | .hostop g x => Sys2Proof.Machine.execHostop g x s
  | .observe n => Sys2Proof.Machine.execObserve n s
  | .deliver n j => Sys2Proof.Machine.execDeliver n j s
  | .apply j k => Sys2Proof.Machine.execApply j k s
  | .drain g => Sys2Proof.Machine.execDrain g s
  | .copyCommandStart g => Sys2Proof.Machine.execCopyCommandStart g s
  | .copyCommandComplete g => Sys2Proof.Machine.execCopyCommandComplete g s
  | .copyNodeRun p => Sys2Proof.Machine.execCopyNodeRun p s
  | .barrierCompletion g => Sys2Proof.Machine.execBarrierCompletion g s
  | .dequeue q => Sys2Proof.Machine.execDequeue q s
  | .dispatch p cores => Sys2Proof.Machine.execDispatch p cores s
  | .gangReservationExpiry p => Sys2Proof.Machine.execGangReservationExpiry p s
  | .preemptionRequest g => Sys2Proof.Machine.execPreemptionRequest g s
  | .yield g => Sys2Proof.Machine.execYield g s
  | .restore p slot cores err => Sys2Proof.Machine.execRestore p slot cores err s
  | .sliceEnd outgoing incoming => Sys2Proof.Machine.execSliceEnd outgoing incoming s
  | .deadlineExpiry p node => Sys2Proof.Machine.execDeadlineExpiry p node s
  | .watchdogExpiry g => Sys2Proof.Machine.execWatchdogExpiry g s
  | .hardCoreReset g => Sys2Proof.Machine.execHardCoreReset g s
  | .elisionScrub p => Sys2Proof.Machine.execElisionScrub p s
  | .tokenDelivery p node => Sys2Proof.Machine.execTokenDelivery p node s
  | .quadRepair die quad => Sys2Proof.Machine.execQuadRepair die quad s
  | .bankRepair g => Sys2Proof.Machine.execBankRepair g s
  | .channelRepair die unit => Sys2Proof.Machine.execChannelRepair die unit s
  | .groupFetch g => Sys2Proof.Machine.execGroupFetch g s
  | .resultLanding g => Sys2Proof.Machine.execResultLanding g s
  | .matrixCommandStart g => Sys2Proof.Machine.execMatrixCommandStart g s
  | .matrixCommandComplete g => Sys2Proof.Machine.execMatrixCommandComplete g s
  | .dOperationStart g => Sys2Proof.Machine.execDOperationStart g s
  | .dOperationComplete g => Sys2Proof.Machine.execDOperationComplete g s
  | .waitTimeout g => Sys2Proof.Machine.execWaitTimeout g s
  | .launchAbiLoadEnd g => Sys2Proof.Machine.execLaunchAbiLoadEnd g s
  | .stepRetirement g => Sys2Proof.Machine.execStepRetirement g s
  | .saveAtComma g => Sys2Proof.Machine.execSaveAtComma g s
  | .trapEntry g => Sys2Proof.Machine.execTrapEntry g s
  | .breakpoint g b => Sys2Proof.Machine.execBreakpoint g b s
  | .watchHit g r => Sys2Proof.Machine.execWatchHit g r s
  | .coreUncorrectableError g kind unit row col => Sys2Proof.Machine.execCoreUncorrectableError g kind unit row col s
  | .sharedUncorrectableError row inst pa => Sys2Proof.Machine.execSharedUncorrectableError row inst pa s
  | .correctableError row inst => Sys2Proof.Machine.execCorrectableError row inst s
  | .stopreq g => Sys2Proof.Machine.execStopreq g s
  | .debuggerResume g => Sys2Proof.Machine.execDebuggerResume g s
  | .debugStateWrite g ofs data => Sys2Proof.Machine.execDebugStateWrite g ofs data s
  | .latchPortWrite g data => Sys2Proof.Machine.execLatchPortWrite g data s
  | .hostDoorbell q tail entries => Sys2Proof.Machine.execHostDoorbell q tail entries s
  | .startVectorWrite p va => Sys2Proof.Machine.execStartVectorWrite p va s
  | .copyNodeResume p node => Sys2Proof.Machine.execCopyNodeResume p node s
  | .hostRead pa n => Sys2Proof.Machine.execHostRead pa n s
  | .hostWrite p pa h data => Sys2Proof.Machine.execHostWrite p pa h data s
  | .vfMemoryAccess fn va wr data => Sys2Proof.Machine.execVfMemoryAccess fn va wr data s
  | .reload p => Sys2Proof.Machine.execReload p s
  | .flush p => Sys2Proof.Machine.execFlush p s
  | .reset p => Sys2Proof.Machine.execReset p s
  | .scrub p => Sys2Proof.Machine.execScrub p s
  | .logstart p => Sys2Proof.Machine.execLogstart p s
  | .loground p => Sys2Proof.Machine.execLoground p s
  | .logstop p => Sys2Proof.Machine.execLogstop p s
  | .bankClaim die bank fn => Sys2Proof.Machine.execBankClaim die bank fn s
  | .bankRelease die bank fn => Sys2Proof.Machine.execBankRelease die bank fn s
  | .counterLoRead fn die bank c => Sys2Proof.Machine.execCounterLoRead fn die bank c s
  | .timestep n => Sys2Proof.Machine.execTimestep n s
  | .powerlimit w => Sys2Proof.Machine.execPowerlimit w s
  | .registerWrite fn ofs v => Sys2Proof.Machine.execRegisterWrite fn ofs v s
  | .clockStepDown die temp => Sys2Proof.Machine.execClockStepDown die temp s
  | .clockStepUp die temp => Sys2Proof.Machine.execClockStepUp die temp s
  | .laneFailure port lane => Sys2Proof.Machine.execLaneFailure port lane s
  | .moduleRemoval m => Sys2Proof.Machine.execModuleRemoval m s
  | .parentClockLoss => Sys2Proof.Machine.execParentClockLoss s
  | .ptpMessage port kind => Sys2Proof.Machine.execPtpMessage port kind s
  | .deviceReset powerOn => Sys2Proof.Machine.execDeviceReset powerOn s
  | .colmerBind p img => Sys2Proof.Machine.execColmerBind p img s
  | .counterBankControlRead fn die bank => Sys2Proof.Machine.execCounterBankControlRead fn die bank s
  | .powerStateChange st => Sys2Proof.Machine.execPowerStateChange st s

end Sys2Proof.Machine
end

