-- ==== Sys2Proof/Machine/Cycle.lean ====
section
/-! DEFINITION. One cycle of a core's clock: its units, the group it has reached with its holds (R44, R53 to R56, R70, R275, R386),
the issue of a group (R52, R233), and what follows it (R54, R122 to R125, R240). -/

namespace Sys2Proof.Machine

/-- The state after an operation that answers a next state; unchanged where it does not happen. -/
def State.try' (s : State) (r : Host.Outcome State Fault Refusal) : State :=
  match r with
  | .next t => t
  | .fault _ | .refused _ => s

/-! ## The units (R65, R160, R211) -/

/-- The units of a core up to the issue of cycle k: what ends with cycle k − 1, what lands in cycle k, and what starts in it. -/
def CoreSt.units (c : CoreSt) (k : Nat) : CoreSt :=
  let c := Dom.endAt (c.mEnd k) k
  let c := c.landAt k
  Dom.goAt (c.mGo k) k

/-! ## The boundary before a cycle (R276) -/

/-- The access that waits at a port is tried. -/
def State.portServe (s : State) (who : Nat) : State :=
  if who = whoHub then match s.hub.hubCopy with
    | some h => s.try' (execCopyNodeRun h.part s)
    | none => s
  else
    let g := who / 3
    match who % 3 with
    | 0 => (s.qPort g).getD s
    | 1 => (s.pollPort g).getD s
    | _ => match s.xPort g with
      | some t => t
      | none => match execCopyCommandStart g s with
        | .next t => t
        | _ => s.try' (execCopyCommandComplete g s)

/-- The port serves the accesses that wait, in arrival order, up to the first that cannot be served; those that have waited long enough claim
their banks of the next boundary. -/
def State.servePort (p : Nat) : Nat → State → State
  | 0, s => s
  | n + 1, s => match s.portWaiting p with
    | [] => s
    | w :: ws =>
      let t := s.portServe w.1
      if (t.portWaiting p).head? = some w then ws.foldl (fun s w => s.portServe w.1) t else State.servePort p n t

/-! ## The banks of a group (R274, R275) -/

/-- The banks of the scratchpad that an operation's local access needs. -/
def CoreSt.banksOf (c : CoreSt) (i : Instr) : List Nat :=
  match i with
  | .adotm _ _ _ _ | .delem _ _ _ _ => []
  | _ => match c.localAccess i with
    | some (x, n, _, _) => (List.range ((x.toNat % 64 + n + 63) / 64)).map fun k => (x.toNat / 64 + k) % 16
    | none => []

/-- The group is held for a bank: its two scratchpad slots need a common one, once (R275), or a remote access has claimed one that it
needs (R276). -/
def CoreSt.bankHold (c : CoreSt) (g : List CoreSt.Issuing) : Bool :=
  let bs := g.map fun i => c.banksOf i.op
  let common := !c.reached.bankHeld &&
    bs.zipIdx.any fun x => bs.zipIdx.any fun y => decide (x.2 < y.2) && x.1.any fun b => y.1.contains b
  let claimed := bs.any fun x => x.any fun b => c.flow.bankClaim.getLsbD b
  common || claimed

/-! ## COMPAT (R70) -/

/-- A scratchpad load issued four or more schedule cycles before has not landed, on a class-B core with cr.compat set (R70). -/
def CoreSt.compatHold (c : CoreSt) : Bool :=
  c.compatible && c.flow.flight.any fun f => match f.loadAt with | some n => decide (n + 4 ≤ c.flow.steps) | none => false

/-! ## The issuing slots -/

/-- The slots of a group whose guards hold in this cycle (R61). -/
def CoreSt.live (c : CoreSt) (x : Group) : List (SlotKind × Slot × Addr) := x.slots.filter fun y => c.guardOk y.2.1.gp y.2.1.gs
/-- The issuing slots. -/
def issuingOf (ys : List (SlotKind × Slot × Addr)) : List CoreSt.Issuing :=
  ys.map fun y => { slot := y.1.num, op := y.2.1.op, bundle := y.2.2 }
/-- The Y-slot operation that issues. -/
def yOf (ys : List (SlotKind × Slot × Addr)) : Option Instr := (ys.find? fun y => y.1 == .y).map fun y => y.2.1.op

/-- The forms that the group's other slots see already issued: the wait forms and END. -/
def yFirst : Instr → Bool
  | .wait _ | .waitph _ _ _ _ | .waitbit _ _ _ _ | .bar _ | .fence _ | .endStep => true
  | _ => false

/-- Issue one slot of a checked group. -/
def State.issueSlot (s : State) (x : Group) (y : SlotKind × Slot × Addr) : State :=
  let s := s.onCur fun c => { c with flow := { c.flow with
    slotIdx := y.1.num, bundleA := y.2.2, groupA := x.addr, groupEnd := x.addr + BitVec.ofNat 60 x.len, checked := true } }
  s.try' (exec y.2.1.op s)

/-! ## Loop levels (R122 to R125, R387) -/

/-- A group has issued in the current activation of a level (R122). -/
def Loop.holds (l : Loop) (a : Addr) : Bool := l.buf.any fun x => x.addr == a
/-- A level notes a group that issues: the loop buffer holds it from now on (R122, R123). -/
def Loop.note (l : Loop) (x : Group) : Loop :=
  { l with buf := if l.holds x.addr then l.buf else l.buf ++ [x]
           begun := l.begun || decide (x.addr = l.start) }

/-- After a group that ends at an address, with no branch taken: where a body ends there, its next iteration, or the level is popped, and so
outwards (R123). -/
def loopEnd (after : Addr) (ls : List Loop) : List Loop × Addr := popLevels after ls.reverse
where
  /-- The levels from the innermost outwards. -/
  popLevels (after : Addr) : List Loop → List Loop × Addr
    | [] => ([], after)
    | l :: outer =>
      if l.endA ≠ some after then ((l :: outer).reverse, after)
      else if l.remain = 0 then popLevels after outer
      else ((({ l with remain := l.remain - 1 } : Loop) :: outer).reverse, l.start)

/-- The cost of a taken branch (R122): none where the target has issued in the current activation of the innermost active level. -/
def CoreSt.branchCost (c : CoreSt) (t : W64) : Nat :=
  match c.flow.loops.getLast? with
  | some l => if decide (t.toNat < 2 ^ 60) && l.holds (t.setWidth 60) then 0 else 2
  | none => 2

/-! ## What follows the issue of a group -/

/-- The program counter after a group, the loop levels and the cost of a taken branch (R121 to R125, R243). -/
def CoreSt.advance (c : CoreSt) (x : Group) (tret : Bool) : CoreSt × Nat :=
  match c.next with
  | some t =>
    let cost := if tret then 2 else c.branchCost t
    let ls := if tret then c.flow.loops else c.flow.loops.filter fun l => CoreSt.inBody l t
    ({ c with pc := t.setWidth 60, pcHigh := t.extractLsb' 60 4, next := none, flow := { c.flow with loops := ls } }, cost)
  | none =>
    let r := loopEnd (x.addr + BitVec.ofNat 60 x.len) c.flow.loops
    ({ c with pc := r.2, pcHigh := 0, flow := { c.flow with loops := r.1 } }, 0)

/-- SWTRAP resumes at the next group (R132). -/
def CoreSt.swtrapResume (c : CoreSt) : CoreSt :=
  match c.status with
  | .trapping t => { c with status := .trapping { t with resume := c.pc } }
  | _ => c

/-- Count empty schedule cycles of a step, in its banks and on its die (R386, R391). -/
def State.countEmpties (s : State) (g n : Nat) : State :=
  if n = 0 ∨ (s.core g).ctrl.handler then s else (s.onCore g fun c => c.countEmpty n).coreDieEvent g 3 n

/-- The schedule cycles of a group with its empty cycles have passed (R54, R70, R94, R240). -/
def CoreSt.scheduled (c : CoreSt) (handler : Bool) (n : Nat) : CoreSt :=
  { c with flow := { c.flow with empty := n - 1, steps := c.flow.steps + n
                                 sched := if handler then c.flow.sched else c.flow.sched + BitVec.ofNat 64 n } }

/-- The end of a group that has issued: branch or loop end, empty cycles, and the group is reached no more. -/
def State.afterGroup (s : State) (g : Nat) (x : Group) (handler tret : Bool) (e : Nat) : State :=
  let s := s.onCore g fun c => { c with reached := .none, flow := { c.flow with checked := false } }
  match (s.core g).status with
  | .running | .trapping _ =>
    let r := (s.core g).advance x tret
    let s := s.setCore g r.1.swtrapResume
    let s := if handler then s else s.countEmpties g r.2
    s.onCore g fun c => c.scheduled handler (1 + e + r.2)
  | .free | .restarting => s
  | _ => s.onCore g fun c => c.scheduled handler (1 + e)

/-- The counts of an issued group of a step with its empty cycles, in the banks of the levels active at its issue (R386, R391). -/
def State.countGroup (s : State) (g : Nat) (x : Group) (levels : List Loop) (e : Nat) : State :=
  let after := (s.core g).flow.loops
  let put (s : State) (ls : List Loop) : State := s.onCore g fun c => { c with flow := { c.flow with loops := ls } }
  if (s.core g).ctrl.handler then s
  else put ((((put s levels).onCore g fun c => c.countIssue x.mask).coreDieEvent g 2 1).countEmpties g e) after

/-- A checked group issues (R52, R61, R233): the wait forms and END before the other slots, then the counts, then any other Y slot.
RDCNT reads what was counted before the group. -/
def State.issueGroup (s : State) (g : Nat) (x : Group) : State :=
  let c := s.core g
  let ys := c.live x
  let handler := c.ctrl.handler
  let y := yOf ys
  let tret := match y with | some .tret => true | _ => false
  let e := match y with | some .endStep => 0 | _ => x.e
  let hit := c.watchOf (s.slotSizeAt g) x.addr (issuingOf ys)
  let before := c.faultCount
  let isFirst (z : SlotKind × Slot × Addr) : Bool := z.1 == .y && yFirst z.2.1.op
  let levels := c.flow.loops.map fun l => l.note x
  let s := s.onCore g fun c => { c with flow := { c.flow with loops := levels }, dbg := { c.dbg with hit := hit.or c.dbg.hit } }
  let s := (ys.filter isFirst).foldl (fun s z => s.issueSlot x z) s
  let s := (ys.filter fun z => z.1 != .y).foldl (fun s z => s.issueSlot x z) s
  let s := (s.coreDieEvent g 11 ((s.core g).faultCount - before)).countGroup g x levels e
  let s := (ys.filter fun z => z.1 == .y && !isFirst z).foldl (fun s z => s.issueSlot x z) s
  s.afterGroup g x handler tret e

/-! ## The group reached -/

/-- The record of an illegal group (R63, R237). -/
def CoreSt.illegalTrap (c : CoreSt) (x : Group) (b : Bool × BitVec 12 × BitVec 48) : TrapInfo :=
  { CoreSt.blankTrap .illop with hdr := b.1, slots := b.2.1, fields := b.2.2, bundle := x.addr, resume := x.addr, sched := c.flow.sched }

/-- The group has passed every hold: it is illegal no more, reports a token fault, takes a precise fault, or issues (R233, R234). -/
def State.goGroup (s : State) (g : Nat) (x : Group) : State :=
  let c := s.core g
  let ys := c.live x
  match (yOf ys).bind fun i => c.reported x.addr i with
  | some t => s.takeTrapOn g t
  | none => match c.groupFault x.addr (issuingOf ys) with
    | some t => s.takeTrapOn g t
    | none => s.issueGroup g x

/-- The holds of a group that has been fetched, in the order in which a held cycle counts (R44, R61, R386). -/
def State.holdGroup (s : State) (g : Nat) (x : Group) : State :=
  let s := if s.timedOut g then s.try' (execWaitTimeout g s) else s
  let c := s.core g
  let ys := c.live x
  let is := issuingOf ys
  let waits := match yOf ys with | some i => s.waitHolds g i | none => false
  let s := if waits then (match yOf ys with | some i => s.waitBegin g i | none => s) else s
  if c.compatHold then (s.onCore g CoreSt.holdCompat).stall g cCompat
  else if c.bankHold is then
    (s.onCore g fun c => { c with reached := { c.reached with bankHeld := true }, flow := { c.flow with bankClaim := 0 } }).stall g cBank
  else if (ys.any fun y => y.1 == .m) && c.shadowFull then s.stall g cShadow
  else if waits then s.stall g cWait
  else s.goGroup g x

/-- The window drain (R56, R278): the entries present as the group is reached, one in a cycle. None: the drain is done. They are counted once the
group's fetch stalls and its comma are over (DESIGN CHOICE, log entry 109). -/
def State.windowDrain (s : State) (g : Nat) : Option State :=
  let n := match (s.core g).reached.drain with | some k => k | none => (s.ingressOf g).length
  match n with
  | 0 => none
  | k + 1 => match s.drainOne g with
    | some t => some (t.onCore g fun c => c.drained1 k)
    | none => some (s.onCore g fun c => { c with reached := { c.reached with drain := some (k + 1) } })

/-- The comma of a group in step mode (R55, R129, R234, R248): a held fault is reported; then, with a request pending, the core drains and
begins its save; a core that a partition reset stops neither drains nor saves (R368, R404). None: the group goes on. -/
def State.commaServe (s : State) (g : Nat) : Option State :=
  let c := s.core g
  match c.report c.pc with
  | some t => some (s.takeTrapOn g t)
  | none =>
    if !(c.req.preempt || c.req.yield || c.req.drop) || c.reached.released then none
    else
      let s := s.onCore g fun c => { c with reached := { c.reached with arrived := false, polling := none, comma := true } }
      if c.req.drop && (s.part (s.partOf g)).resetting.isSome then some (s.onCore g fun c => { c with status := .saving 0 })
      else if !c.drained then some s
      else match s.windowDrain g with
        | some t => some t
        | none =>
          let n := match c.step with
            | some st =>
              let e := (s.part st.part).entryAt c.classB c.pc
              CoreSt.saveCycles (c.frame st e.1 e.2).length
            | none => 0
          some (s.onCore g fun c => { c with status := .saving n })

/-- The group reached, once its bytes have arrived: its comma, ILLOP, the window drain, then its other holds (R44, R56, R233). -/
def State.serveGroup (s : State) (g : Nat) (x : Group) : State :=
  let c := s.core g
  let served := if x.comma && !c.ctrl.handler then s.commaServe g else none
  match served with
  | some t => t
  | none => match x.bad with
    | some b => s.takeTrapOn g (c.illegalTrap x b)
    | none => match (if x.window then s.windowDrain g else none) with
      | some t => t.stall g cWindow
      | none =>
        (s.onCore g fun c => { c with reached := { c.reached with drain := if x.window then some 0 else none } }).holdGroup g x

/-- The breakpoints that name the group reached fire in their order (R394). -/
def State.breakpoints (s : State) (g : Nat) : State :=
  match (s.core g).atGroup with
  | none => s
  | some x =>
    if (s.core g).reached.broke then s
    else ((List.range 8).filter fun b => (s.core g).bpAt b x.addr).foldl
      (fun s b => if (s.core g).status == .running && !(s.core g).dbg.stopped then s.breakAt g b else s) s

/-- A cycle of a core that has reached a group. -/
def State.groupCycle (s : State) (g : Nat) (x : Group) : State :=
  if 0 < (s.core g).reached.fetchLeft then
    (s.onCore g fun c => { c with reached := { c.reached with fetchLeft := c.reached.fetchLeft - 1 } }).stall g cFetch
  else
    let s := s.breakpoints g
    if (s.core g).status == .running && !(s.core g).dbg.stopped && (s.core g).reached.grp.isSome then s.serveGroup g x else s

/-- A cycle of a running step: an empty cycle, a stop, a watch hit, the fetch, or the group (R53, R54, R256, R394). A group with TRAP that also hits
a watch range enters SWTRAP first, and WATCH is taken after its TRET (DESIGN CHOICE, log entry 115). -/
def State.runCycle (s : State) (g : Nat) : State :=
  let c := s.core g
  if c.dbg.stopped then s
  else if 0 < c.flow.empty then s.onCore g fun c => { c with flow := { c.flow with empty := c.flow.empty - 1 } }
  else
    let s := match c.dbg.hit with
      | some h => if c.ctrl.handler then s else s.watchActs g h
      | none => s
    if (s.core g).status != .running || (s.core g).dbg.stopped || (s.core g).ctrl.handler != c.ctrl.handler then s
    else match s.stopNow g with
      | some t => t
      | none =>
        match (if (s.core g).reached.grp.isSome then some s else s.fetchNow g) with
        | none => s.stall g cFetch
        | some t => match (t.core g).reached.grp with
          | some x => t.groupCycle g x
          | none => t

/-! ## A cycle of a core -/

/-- The partition that holds a core. -/
def State.holderOf (s : State) (g : Nat) : Option Nat :=
  match (s.core g).step with
  | some st => some st.part
  | none => (List.range 64).find? fun p => s.partHas p g

/-- A step that has issued END: a watch hit of its group acts (R394), a token fault is reported as at the END (R131), else it retires once it
may (R35); not while its core is stopped. -/
def State.endedCycle (s : State) (g : Nat) : State :=
  if (s.core g).dbg.stopped then s
  else
    let s := match (s.core g).dbg.hit with
      | some h => s.watchActs g h
      | none => s
    let c := s.core g
    if c.status != .ended || c.dbg.stopped then s
    else match c.report c.pc with
      | some t => s.takeTrapOn g { t with ended := true }
      | none => s.try' (execStepRetirement g s)

/-- A cycle of a core by its status. A trap is entered as soon as the units have settled: the E cycles of its group that have still to pass are
replaced by the entry's, since R54 and R240 order neither first (DESIGN CHOICE, log entry 96). A step that restarts tries again for room in the
ready list (R317; log entry 84). The rules are R33, R35, R47, R240, R244, R248, R252
and R332. -/
def State.statusCycle (s : State) (g : Nat) : State :=
  match (s.core g).status with
  | .free =>
    let reserved := match s.holderOf g with | some p => (s.part p).reserve.isSome | none => false
    s.onCore g fun c => { c with resvCyc := if reserved then c.resvCyc + 1 else 0 }
  | .loading n =>
    let s := s.onCore g fun c => { c with status := .loading (n - 1) }
    if n ≤ 1 then s.try' (execLaunchAbiLoadEnd g s) else s
  | .restoring n => s.onCore g fun c => { c with status := if n ≤ 1 then .running else .restoring (n - 1) }
  | .saving n =>
    let s := s.onCore g fun c => { c with status := .saving (n - 1) }
    if n ≤ 1 then s.try' (execSaveAtComma g s) else s
  | .trapping _ =>
    let t := s.try' (execTrapEntry g s)
    if (t.core g).status == .running then t.runCycle g else t
  | .ended => s.endedCycle g
  | .running => s.runCycle g
  | .restarting => if (s.core g).req.drop then s.dropStep g else s.restartStep g
  | .halted => s

/-- The THROTTLE counter in a cycle of a running step (R386, R389). -/
def State.throttleCycle (s : State) (g : Nat) : State :=
  let c := s.core g
  let n := throttlePer (s.clockOf (Config.dieOf g))
  if n = 0 || c.status != .running || c.dbg.stopped || c.reached.comma then s else s.onCore g fun c => c.count cThrottle n

/-- One cycle of a core's clock. In P1 and P3, and with its die's clock stopped, there is none (R416). -/
def State.coreCycle (s : State) (g : Fin 288) : State :=
  if !s.clocked g then s
  else
    let s := { s with cur := g }
    let s := State.servePort g (s.portWaiting g).length s
    let s := s.setUnits g ((s.core g).units (s.core g).flow.cyc)
    let s := match s.holderOf g with | some p => s.dieEvent (Config.dieOf g) p 1 1 | none => s
    let s := (s.throttleCycle g).statusCycle g
    s.onCore g fun c =>
      let c := c.landStores c.flow.cyc
      { c with flow := { c.flow with cyc := c.flow.cyc + 1, portBusy := 0 } }

end Sys2Proof.Machine
end

