-- ==== Sys2Proof/Machine/Agents.lean ====
section
/-! DEFINITION. What an agent of the device does in its turn, which turn a free choice names (R293, R424; log entry 3), and a program
placed where a core fetches. -/

namespace Sys2Proof.Machine

/-- The digits of a number. -/
def digits (base : Nat) : Nat → Nat → List Nat
  | 0, _ => []
  | k + 1, n => n % base :: digits base k (n / base)

/-- The turn that a number names: a cycle of a core (which performs that core's own events), a step of the ordering machine, of the hub
or of the package that the device takes of itself, or the passing of time. -/
def freeTurn (n : Nat) : Turn :=
  let m := n / 64
  let g := m % 288
  let x := decide (m / 288 % 2 = 1)
  let p := m % 64
  let v : W64 := BitVec.ofNat 64 (m / 64)
  match n % 64 with
  | 0 => .core g
  | 1 => .act (.read g x) | 2 => .act (.write g x) | 3 => .act (.send g) | 4 => .act (.arbitrate m)
  | 5 => .act (.port g x) | 6 => .act (.deposit g x) | 7 => .act (.hostop g x) | 8 => .act (.observe m)
  | 9 => .act (.deliver (m % 4) (m / 4 % 4)) | 10 => .act (.apply (m % 4) (m / 4)) | 11 => .act (.drain g)
  | 12 => .act (.copyCommandStart g) | 13 => .act (.copyCommandComplete g) | 14 => .act (.copyNodeRun p)
  | 15 => .act (.barrierCompletion g) | 16 => .act (.dequeue (m % 65536))
  | 17 => .act (.dispatch p (digits 288 (m / 64 % 289) (m / 64 / 289))) | 18 => .act (.gangReservationExpiry p)
  | 19 => .act (.preemptionRequest g) | 20 => .act (.yield g)
  | 21 => .act (.restore p (m / 64 % 65536) (digits 288 (m / 64 / 65536 % 289) (m / 64 / 65536 / 289)) false)
  | 22 => .act (.sliceEnd p (m / 64 % 64)) | 23 => .act (.deadlineExpiry p v) | 24 => .act (.watchdogExpiry g)
  | 25 => .act (.hardCoreReset g) | 26 => .act (.elisionScrub { part := p, found := [] }) | 27 => .act (.tokenDelivery p v)
  | 28 => .act (.quadRepair (m % 4) (m / 4 % 18)) | 29 => .act (.bankRepair g) | 30 => .act (.channelRepair (m % 4) (m / 4 % 51))
  | _ => .elapse m

/-! ## Time limits (R46, R47, R368, R395) -/

/-- A yield of some blocks is made within 2 µs of the moment its condition holds (R46). -/
def State.keepYieldOf (s : State) (p n : Nat) (us : List W64) : State :=
  match s.yielderOf p us with
  | none => s.onPart p fun pt => pt.setDue us none
  | some (va, g) =>
    let due := ((s.part p).dueOf us).getD (s.time + 2000)
    if due.toNat < s.time.toNat + n then (s.yieldAt p va g).onPart p fun pt => pt.setDue us none
    else s.onPart p fun pt => pt.setDue us (some due)
/-- The yields of a partition are made in time, where it may ask for them; those of blocks that are gone fall due no more. -/
def State.keepYield (s : State) (p n : Nat) : State :=
  if !s.mayYield p then s
  else
    let sets := (s.part p).yieldSets
    let s := s.onPart p fun pt => { pt with yieldDue := pt.yieldDue.filter fun x => sets.contains x.1 }
    sets.foldl (fun s us => s.keepYieldOf p n us) s
/-- A gang reservation lasts at most 20 µs (R47). -/
def State.keepReserve (s : State) (p n : Nat) : State :=
  if (s.part p).reserve.isSome && decide (20000 < s.reserveAge p + n) then s.expireReserve p else s
/-- An expiry is detected within 1 µs (R395), and a core that a reset has not stopped within 8 µs is reset hard (R368). -/
def State.keepCore (s : State) (n g : Nat) : State :=
  match (s.core g).step with
  | none => s
  | some st =>
    let s := if s.stepExpired g && decide (1000 * st.limit + 1000 < st.elapsed + n) then s.try' (execWatchdogExpiry g s) else s
    match (s.part st.part).resetting with
    | some _ => if 8000 < (s.time - (s.part st.part).resetAt).toNat + n then s.try' (execHardCoreReset g s) else s
    | none => s
/-- Before some ns pass, what must happen within them happens. -/
def State.keepLimits (s : State) (n : Nat) : State :=
  let s := (List.range 64).foldl (fun s p => (s.keepYield p n).keepReserve p n) s
  (List.range Config.nCores).foldl (fun s g => s.keepCore n g) s
/-- Real time passes, in pieces shorter than any limit. -/
def State.elapse : Nat → Nat → State → State
  | 0, _, s => s
  | f + 1, n, s =>
    if n = 0 then s
    else
      let k := min n 500
      State.elapse f (n - k) ((s.keepLimits k).passTime k).leave

/-- An event that happens although the device is not READY: a device reset, which brings it up again, and a read of the physical function's
registers, where READY stands (R416, R417). -/
def whileDown : Instr → Bool
  | .deviceReset _ => true
  | .hostRead a _ => match a.via with | .pfRegs => true | _ => false
  | _ => false

/-- A core's turn: a cycle of its clock, where the cycles before it are not a ns ahead of the time counter already (R416; log entry 3). -/
def State.coreTurn (s : State) (g : Fin 288) : State :=
  if !s.clocked g || decide (1008 ≤ (s.core g).ahead) then s
  else (s.coreCycle g).onCore g fun c => { c with ahead := c.ahead + cycleTime (s.clockOf (Config.dieOf g)) }

/-- An agent's turn: a core runs a cycle, an event of the device happens where its condition holds, or time passes; then what waits in the
hub goes on. An instruction is no agent: it issues in its core's cycle. While the device is not READY only the time counter runs (R416, R417). -/
def State.turn (s : State) : Turn → Host.Outcome State Fault Refusal
  | .core g =>
    if h : g < 288 then .next (if s.hub.ready then (s.coreTurn ⟨g, h⟩).settle else s) else .fault (.noSuchCore g)
  | .act i =>
    if i.kind.isSome || !(s.hub.ready || whileDown i) then .next s
    else match exec i s with
      | .next t => .next t.settle
      | .fault f => .fault f
      | .refused _ => .next s
  | .elapse n => .next (if s.hub.ready then (State.elapse (s.room n) (s.room n) s).settle else s.runClock n)

/-- The next turn: the head of the agenda, or with none the turn of a free choice; the state with it taken off. -/
def State.nextTurn (s : State) : Turn × State :=
  match s.agenda with
  | t :: ts => (t, { s with agenda := ts, tick := s.tick + 1 })
  | [] => (freeTurn (Config.freeChoice s.tick), { s with tick := s.tick + 1 })

/-! ## A program placed from outside (log entry 30) -/

/-- A range entry that maps the page at 0 to itself in tier 1, with every right and A and D set (R267). -/
def rangeAtZero (r : Vector W64 256) : Vector W64 256 := vset (vset (vset (vset r 0 1) 1 0) 2 0) 3 0x3F
/-- A step with nothing but its partition. -/
def bareStep : StepInfo :=
  { part := 0, node := 0, number := 0, q := 0, entry := 0, member := none, isStatic := true, elapsed := 0, limit := 0, gated := false,
    order := 0, args := .replicate 8 0, coords := .replicate 6 0, need := .replicate 4 0, prior := [], place := 0, orphan := false }
/-- A core whose step is about to fetch its group at address 0. -/
def CoreSt.atZero (c : CoreSt) : CoreSt :=
  { c with
    status := .running, step := some (c.step.getD bareStep), pc := 0, pcHigh := 0, next := none, req := .none
    reached := { Reached.none with broke := true }, dbg := { c.dbg with stopped := false, hit := none }
    tlb := [], ahead := 0, flow := { c.flow with empty := 0, loops := [] } }
/-- The bytes of a bundle at address 0 in every die's view. -/
def Order.loadZero (o : Order) (bs : List Byte) : Order :=
  { o with mem := (List.range 4).foldl (fun v d => vset v d (amWrite (vget [] v d) 0 bs)) o.mem }

end Sys2Proof.Machine
end

