-- ==== Sys2Proof/Machine/Step.lean ====
section
/-! DEFINITION. One step of the device, and a program placed where the next step fetches. -/

namespace Sys2Proof.Machine

/-- One step: the next agent's turn. -/
def step (s : State) : Host.Outcome State Fault Refusal := s.nextTurn.2.turn s.nextTurn.1

/-- A bundle placed at address 0 of the current core's step, which runs it in the next step (log entry 30). -/
def State.withFetchWord (s : State) (nbits w : Nat) : State :=
  let c := s.cc.atZero
  let t := (s.setCore s.cur c).onOrd fun o => o.loadZero (bytesOf 64 (BitVec.ofNat 512 (w % 2 ^ nbits)))
  let t := t.onPart (t.partOf s.cur) fun p => { p with
    ranges := rangeAtZero p.ranges, newRanges := none, code := noteCode p.code 0 (bytesOf 64 (BitVec.ofNat 512 (w % 2 ^ nbits))) }
  { t with
    dieTlb := vset t.dieTlb (Config.dieOf s.cur) []
    hub := { t.hub with ready := true }
    pkg := { t.pkg with power := .p0, clockStep := vset t.pkg.clockStep (Config.dieOf s.cur) 0, powerStep := 0 }
    agenda := .core s.cur :: s.agenda }

end Sys2Proof.Machine
end

