-- ==== Sys2Proof/Safety.lean ====
section
/-! DEFINITION. What counts as a safe outcome of a step: a next state. -/

namespace Sys2Proof

/-- A step that answers a next state. -/
def Safe (r : Host.Outcome Machine.State Machine.Fault Machine.Refusal) : Prop := ∃ t, r = .next t

end Sys2Proof
end

