-- ==== Sys2Proof/Certificates/Slice0/Obligations.lean ====
section
/-! DEFINITION. The statements about the device, one `Obligations.<Name>` for each, with the tables they are stated in, written
from the rules of spec/ that each docstring cites. -/

namespace Sys2Proof.Claims

open Sys2Proof.Machine

/-! ## When a group goes (R66, R67, R233) -/

/-- None of the registers that an operation names is pending, but under an operation of its own M, D or X queue (R67). -/
def Unpending (i : Instr) (c : CoreSt) : Prop :=
  ∀ n ∈ i.dests ++ i.srcs, ∀ p ∈ c.flow.pending, p.dest = n.2 → i.queue = some p.queue ∧ p.queue ≠ .mem

/-- The latency by which the landings of an operation are ordered: that of the core's class, but of class A under cr.compat (R66, R70). -/
def orderLatency (i : Instr) (c : CoreSt) : Nat := i.latency (c.classB && !c.ctrl.compat)

/-- The results in flight whose place in the landing order is a cycle, in a cluster (R66, R70, R138). -/
def landing (c : CoreSt) (k cyc : Nat) : Nat :=
  ((c.flow.flight.flatMap fun f => f.dests.map fun d => (d, f.due - f.lag)).filter fun x =>
    decide (CoreSt.destCluster x.1 = some k ∧ x.2 = cyc)).length

/-- The results of an operation of latency L land on registers that no result in flight lands on in the same cycle, and in clusters
in which at most one lands then (R66, R70). -/
def LandsAlone (i : Instr) (c : CoreSt) : Prop :=
  ∀ n ∈ i.dests, orderLatency i c ≠ 0 →
    (∀ f ∈ c.flow.flight, f.due - f.lag = c.flow.cyc + orderLatency i c → n.2 ∉ f.dests) ∧
    (∀ k, CoreSt.destCluster n.2 = some k → landing c k (c.flow.cyc + orderLatency i c) ≤ 1)

/-- The operation issues now on the current core: the core has checked its whole group already, or it issues alone and meets neither
TOKHAZ nor LANDCOLL, nor a fault that `more` rules out (R233). -/
def Goes (i : Instr) (s : State) (more : Prop) : Prop :=
  s.cc.flow.checked = true ∨ (Unpending i s.cc ∧ LandsAlone i s.cc ∧ more)

/-! ## Results in flight (R65) -/

/-- The core once `i` has issued with one fixed-latency result, of which a scratchpad read is still to be performed: nothing else has
changed (R65). A load that R70 counts has, on a class-B core under cr.compat, its place in the landing order 2 cycles before its own latency ends. -/
def fliesCore (c : CoreSt) (i : Instr) (lat : Nat) (load : Option (Load × Option Nat)) (ws : List Write) (fl : Flg) : CoreSt :=
  { c with flow := { c.flow with flight := c.flow.flight ++
    [{ due := c.flow.cyc + lat, issued := c.flow.cyc, slot := c.flow.slotIdx, bundle := c.flow.bundleA, dests := destsOf i,
       load := load.map (·.1), loadAt := load.bind (·.2)
       lag := if c.ctrl.compat && c.classB && (load.bind (·.2)).isSome then 2 else 0, writes := ws, flags := fl }] } }

/-- The device once `i` has issued with one fixed-latency result: it lands `lat` cycles after this one, and nothing else has changed
(R65). -/
def flies (s : State) (i : Instr) (lat : Nat) (ws : List Write) (fl : Flg) : State :=
  s.setCore s.cur (fliesCore s.cc i lat none ws fl)

/-- The same for a result that reads the scratchpad in the next cycle (R65). -/
def fliesLoad (s : State) (i : Instr) (lat : Nat) (l : Load) (at_ : Option Nat) (fl : Flg) : State :=
  s.setCore s.cur (fliesCore s.cc i lat (some (l, at_)) [] fl)

/-- Reading a lost latch raises latch-lost (R245). -/
def lost2 (c : CoreSt) (a b : SSrc) : Flg := c.srcFlag a ||| c.srcFlag b

/-- The signed 64-bit value nearest to an integer, with saturate where it is not the integer itself (R83). -/
def clamp64 (x : Int) : W64 × Flg :=
  (BitVec.ofInt 64 (max (-(2 ^ 63)) (min (2 ^ 63 - 1) x)), if -(2 ^ 63) ≤ x ∧ x ≤ 2 ^ 63 - 1 then 0 else .sat)

/-- The shift count b[5:0] (R109). -/
def count6 (x : W64) : Nat := x.toNat % 64

/-- A 16-bit chunk placed over an old value (R112). -/
def chunk (h : BitVec 2) (k : BitVec 16) (old : W64) : W64 :=
  (old &&& ~~~((0xFFFF : W64) <<< (16 * h.toNat))) ||| (k.setWidth 64 <<< (16 * h.toNat))

/-- The integer S-slot instructions, AMAG and CRRD: destination, latency, result and flags (R65, R109 to R112, R115, R134, R191). -/
def integerResult (c : CoreSt) : Instr → Option (SDst × Nat × W64 × Flg)
  | .add d a b => some (d, 1, c.src a + c.src b, lost2 c a b)
  | .sub d a b => some (d, 1, c.src a - c.src b, lost2 c a b)
  | .and d a b => some (d, 1, c.src a &&& c.src b, lost2 c a b)
  | .or d a b => some (d, 1, c.src a ||| c.src b, lost2 c a b)
  | .xor d a b => some (d, 1, c.src a ^^^ c.src b, lost2 c a b)
  | .andn d a b => some (d, 1, c.src a &&& ~~~(c.src b), lost2 c a b)
  | .shl d a b => some (d, 1, c.src a <<< count6 (c.src b), lost2 c a b)
  | .shr d a b => some (d, 1, c.src a >>> count6 (c.src b), lost2 c a b)
  | .sar d a b => some (d, 1, (c.src a).sshiftRight (count6 (c.src b)), lost2 c a b)
  | .min d a b => some (d, 1, if (c.src a).toInt ≤ (c.src b).toInt then c.src a else c.src b, lost2 c a b)
  | .max d a b => some (d, 1, if (c.src a).toInt ≤ (c.src b).toInt then c.src b else c.src a, lost2 c a b)
  | .minu d a b => some (d, 1, if (c.src a).toNat ≤ (c.src b).toNat then c.src a else c.src b, lost2 c a b)
  | .maxu d a b => some (d, 1, if (c.src a).toNat ≤ (c.src b).toNat then c.src b else c.src a, lost2 c a b)
  | .adds d a b =>
    some (d, 1, (clamp64 ((c.src a).toInt + (c.src b).toInt)).1, (clamp64 ((c.src a).toInt + (c.src b).toInt)).2 ||| lost2 c a b)
  | .subs d a b =>
    some (d, 1, (clamp64 ((c.src a).toInt - (c.src b).toInt)).1, (clamp64 ((c.src a).toInt - (c.src b).toInt)).2 ||| lost2 c a b)
  | .mul d a b => some (d, 3, c.src a * c.src b, lost2 c a b)
  | .mulh d a b => some (d, 3, BitVec.ofInt 64 ((c.src a).toInt * (c.src b).toInt / 2 ^ 64), lost2 c a b)
  | .mulhu d a b => some (d, 3, BitVec.ofNat 64 ((c.src a).toNat * (c.src b).toNat / 2 ^ 64), lost2 c a b)
  | .div d a b =>
    some (d, 18, if c.src b = 0 then -1 else BitVec.ofInt 64 ((c.src a).toInt.tdiv (c.src b).toInt),
      (if c.src b = 0 then .divz else 0) ||| lost2 c a b)
  | .divu d a b =>
    some (d, 18, if c.src b = 0 then -1 else BitVec.ofNat 64 ((c.src a).toNat / (c.src b).toNat),
      (if c.src b = 0 then .divz else 0) ||| lost2 c a b)
  | .rem d a b =>
    some (d, 18, if c.src b = 0 then c.src a else BitVec.ofInt 64 ((c.src a).toInt.tmod (c.src b).toInt),
      (if c.src b = 0 then .divz else 0) ||| lost2 c a b)
  | .remu d a b =>
    some (d, 18, if c.src b = 0 then c.src a else BitVec.ofNat 64 ((c.src a).toNat % (c.src b).toNat),
      (if c.src b = 0 then .divz else 0) ||| lost2 c a b)
  | .addi d a k => some (d, 1, c.src a + k.signExtend 64, c.srcFlag a)
  | .andi d a k => some (d, 1, c.src a &&& k.signExtend 64, c.srcFlag a)
  | .ori d a k => some (d, 1, c.src a ||| k.signExtend 64, c.srcFlag a)
  | .xori d a k => some (d, 1, c.src a ^^^ k.signExtend 64, c.srcFlag a)
  | .shli d a k => some (d, 1, c.src a <<< k.toNat, c.srcFlag a)
  | .shri d a k => some (d, 1, c.src a >>> k.toNat, c.srcFlag a)
  | .sari d a k => some (d, 1, (c.src a).sshiftRight k.toNat, c.srcFlag a)
  | .movq d h false k => some (d, 1, k.signExtend 64 <<< (16 * h.toNat), 0)
  | .movq d h true k => some (d, 1, chunk h k (c.old d), c.oldFlag d)
  | .movps d => some (d, 1, c.predWord.setWidth 64, 0)
  | .crrd d cr => some (d, 2, c.crRead cr.toNat, 0)
  | .amag d as => some (d, 1, (c.norm as.toNat).signExtend 64, 0)
  | _ => none

/-- A floating-point operand: the whole register, or its bits [31:0] (R103). -/
def opd (t : FTy) (x : W64) : Nat := match t with | .f64 => x.toNat | .f32 => x.toNat % 2 ^ 32
/-- The format of a type. -/
def fmt : FTy → FP.Fmt
  | .f64 => FP.f64
  | .f32 => FP.f32
/-- A result of at most 64 bits with zeros above it, its flags joined with those of its operands (R103). -/
def fpOut (r : Nat × Flg) (l : Flg) : W64 × Flg := (BitVec.ofNat 64 r.1, r.2 ||| l)

/-- The scalar floating-point instructions and ADOT: destination, latency, result and flags (R65, R93, R118, R120, R188). -/
def floatResult (c : CoreSt) : Instr → Option (SDst × Nat × W64 × Flg)
  | .fadd t m d a b => some (d, 3, fpOut (FP.add (fmt t) (FP.ofRm m) (opd t (c.src a)) (opd t (c.src b))) (lost2 c a b))
  | .fsub t m d a b => some (d, 3, fpOut (FP.sub (fmt t) (FP.ofRm m) (opd t (c.src a)) (opd t (c.src b))) (lost2 c a b))
  | .fmul t m d a b => some (d, 3, fpOut (FP.mul (fmt t) (FP.ofRm m) (opd t (c.src a)) (opd t (c.src b))) (lost2 c a b))
  | .fma t m d a b => some (d, 4, fpOut (FP.fma (fmt t) (FP.ofRm m) (opd t (c.old d)) (opd t (c.src a)) (opd t (c.src b)))
      (c.oldFlag d ||| lost2 c a b))
  | .cvtF64I64 m d a => some (d, 3, fpOut (FP.roundVal FP.f64 (FP.ofRm m) 0 (FP.ofInt (c.src a).toInt)) (c.srcFlag a))
  | .cvtF32I64 m d a => some (d, 3, fpOut (FP.roundVal FP.f32 (FP.ofRm m) 0 (FP.ofInt (c.src a).toInt)) (c.srcFlag a))
  | .cvtI64F64 m d a =>
    some (d, 3, (FP.cvtToInt 64 (FP.ofRm m) (FP.unpack FP.f64 (opd .f64 (c.src a)))).1,
      (FP.cvtToInt 64 (FP.ofRm m) (FP.unpack FP.f64 (opd .f64 (c.src a)))).2 ||| c.srcFlag a)
  | .cvtI64F32 m d a =>
    some (d, 3, (FP.cvtToInt 64 (FP.ofRm m) (FP.unpack FP.f32 (opd .f32 (c.src a)))).1,
      (FP.cvtToInt 64 (FP.ofRm m) (FP.unpack FP.f32 (opd .f32 (c.src a)))).2 ||| c.srcFlag a)
  | .cvtF32F64 m d a => some (d, 3, fpOut (FP.roundVal FP.f32 (FP.ofRm m) 0 (FP.unpack FP.f64 (opd .f64 (c.src a)))) (c.srcFlag a))
  | .cvtF64F32 d a => some (d, 3, fpOut (FP.roundVal FP.f64 .rne 0 (FP.unpack FP.f32 (opd .f32 (c.src a)))) (c.srcFlag a))
  | .adot d x y => some (d, 5, fpOut (Axis.cosine (c.axis x.toNat) (c.norm x.toNat) (c.axis y.toNat) (c.norm y.toNat)) 0)
  | _ => none

/-- The value of a floating-point operand. -/
def fv (t : FTy) (x : W64) : FP.FVal := FP.unpack (fmt t) (opd t x)

/-- The compares and the predicate logic: pair, latency, truth and flags (R65, R114, R115, R119). -/
def pairResult (c : CoreSt) : Instr → Option (BitVec 3 × Nat × Bool × Flg)
  | .cmpeq p a b => some (p, 2, decide (c.src a = c.src b), lost2 c a b)
  | .cmpne p a b => some (p, 2, decide (c.src a ≠ c.src b), lost2 c a b)
  | .cmplt p a b => some (p, 2, decide ((c.src a).toInt < (c.src b).toInt), lost2 c a b)
  | .cmple p a b => some (p, 2, decide ((c.src a).toInt ≤ (c.src b).toInt), lost2 c a b)
  | .cmpltu p a b => some (p, 2, decide ((c.src a).toNat < (c.src b).toNat), lost2 c a b)
  | .cmpleu p a b => some (p, 2, decide ((c.src a).toNat ≤ (c.src b).toNat), lost2 c a b)
  | .cmpeqi p a k => some (p, 2, decide (c.src a = k.signExtend 64), c.srcFlag a)
  | .cmpnei p a k => some (p, 2, decide (c.src a ≠ k.signExtend 64), c.srcFlag a)
  | .cmplti p a k => some (p, 2, decide ((c.src a).toInt < k.toInt), c.srcFlag a)
  | .cmplei p a k => some (p, 2, decide ((c.src a).toInt ≤ k.toInt), c.srcFlag a)
  | .cmpltui p a k => some (p, 2, decide ((c.src a).toNat < (k.signExtend 64).toNat), c.srcFlag a)
  | .cmpleui p a k => some (p, 2, decide ((c.src a).toNat ≤ (k.signExtend 64).toNat), c.srcFlag a)
  | .pand p x y => some (p, 1, c.pred x.toNat && c.pred y.toNat, 0)
  | .por p x y => some (p, 1, c.pred x.toNat || c.pred y.toNat, 0)
  | .pxor p x y => some (p, 1, c.pred x.toNat != c.pred y.toNat, 0)
  | .pandn p x y => some (p, 1, c.pred x.toNat && !c.pred y.toNat, 0)
  | .fcmpeq t p a b => some (p, 2, FP.eqV (fv t (c.src a)) (fv t (c.src b)), lost2 c a b)
  | .fcmplt t p a b => some (p, 2, FP.ltV (fv t (c.src a)) (fv t (c.src b)), lost2 c a b)
  | .fcmple t p a b => some (p, 2, FP.leV (fv t (c.src a)) (fv t (c.src b)), lost2 c a b)
  | .fcmpun t p a b => some (p, 2, (fv t (c.src a)).isNan || (fv t (c.src b)).isNan, lost2 c a b)
  | _ => none

end Sys2Proof.Claims

open Sys2Proof Sys2Proof.Machine Sys2Proof.Claims

/-- Every integer S-slot instruction, AMAG and CRRD, where it meets no fault, puts its result in flight at its latency and changes
nothing else (R65, R102, R109 to R112, R115, R134, R191): the frame of all of them. -/
def Obligations.IntegerInstructionsLandTheirResults : Prop :=
  ∀ (s : State) (i : Instr) (d : SDst) (lat : Nat) (x : W64) (fl : Flg),
    integerResult s.cc i = some (d, lat, x, fl) → Goes i s True → exec i s = .next (flies s i lat (CoreSt.wS d x) fl)

/-- The scalar floating-point instructions, the conversions and ADOT likewise (R65, R93, R103, R118, R120, R188). -/
def Obligations.FloatInstructionsLandTheirResults : Prop :=
  ∀ (s : State) (i : Instr) (d : SDst) (lat : Nat) (x : W64) (fl : Flg),
    floatResult s.cc i = some (d, lat, x, fl) → Goes i s True → exec i s = .next (flies s i lat (CoreSt.wS d x) fl)

/-- The compares, the floating-point compares and the predicate logic land a pair (R104, R114, R115, R119). -/
def Obligations.ComparesLandTheirPair : Prop :=
  ∀ (s : State) (i : Instr) (p : BitVec 3) (lat : Nat) (b : Bool) (fl : Flg),
    pairResult s.cc i = some (p, lat, b, fl) → Goes i s True → exec i s = .next (flies s i lat [.pair p.toNat b] fl)

/-! ## Predicates from bits, the counters and the descriptor -/

namespace Sys2Proof.Claims

/-- The word of the core descriptor that an index names (R117). -/
def descriptorWord (s : State) (g n : Nat) : W64 :=
  match n with
  | 0 =>
    let c := s.core g
    BitVec.ofNat 64 (s.partOf g * 2 ^ 34 + (if c.classB then 2 ^ 33 else 0) + g / 72 * 2 ^ 31 + g % 72 / 4 * 2 ^ 26 +
      c.logical % 512 * 2 ^ 17 + g * 2 ^ 8)
  | 1 => BitVec.ofNat 64 (s.partCores (s.partOf g)).length
  | _ => 0

end Sys2Proof.Claims

/-- RDTIME lands, at +2, the copy of the time counter on the core's die and changes nothing else (R116, R382). While the counter advances by some
ns, each die's copy follows it: it is then at most 2 ns behind the counter and never ahead of it, and never below what it was while it followed
before (R382, R383); that a die's copy stays at one distance is the model's choice (log entry 8). -/
def Obligations.TimeReadsAreRecentAndRise : Prop :=
  (∀ (s : State) (d : SDst), Goes (.rdtime d) s True →
    exec (.rdtime d) s = .next (flies s (.rdtime d) 2 (CoreSt.wS d (vget 0 s.dieTime (Config.dieOf s.cur))) 0)) ∧
  (∀ (s : State) (n m d : Nat), d < 4 → s.time.toNat + n + m < 2 ^ 64 →
    let u := s.tickTime n
    let v := u.tickTime m
    u.time.toNat = s.time.toNat + n ∧ (vget 0 u.dieTime d).toNat ≤ u.time.toNat ∧ u.time.toNat ≤ (vget 0 u.dieTime d).toNat + 2 ∧
      (vget 0 u.dieTime d).toNat ≤ (vget 0 v.dieTime d).toNat)

/-! ## The vector units -/

namespace Sys2Proof.Claims

/-- The signed w-bit value nearest to an integer, with saturate where it is not the integer itself (R83). -/
def nearest (w : Nat) (x : Int) : BitVec w × Flg :=
  (BitVec.ofInt w (max (-(2 ^ (w - 1))) (min (2 ^ (w - 1) - 1) x)), if -(2 ^ (w - 1)) ≤ x ∧ x ≤ 2 ^ (w - 1) - 1 then 0 else .sat)
/-- The unsigned w-bit value nearest to an integer, likewise (R83). -/
def nearestU (w : Nat) (x : Int) : BitVec w × Flg :=
  (BitVec.ofInt w (max 0 (min (2 ^ w - 1) x)), if 0 ≤ x ∧ x ≤ 2 ^ w - 1 then 0 else .sat)

/-- A lane instruction: cluster group, lane mask, destination, latency, the value and flags of a lane of a cluster, and the flags of
reading the sources in a cluster. -/
structure LaneForm where
  g : BitVec 4
  k : BitVec 3
  d : VDst
  lat : Nat
  f : Nat → Nat → W32 × Flg
  lost : Nat → Flg

/-- A lane instruction of two sources. -/
def two (c : CoreSt) (g : BitVec 4) (k : BitVec 3) (d : VDst) (lat : Nat) (a b : VSrc) (f : W32 → W32 → W32 × Flg) : Option LaneForm :=
  some { g := g, k := k, d := d, lat := lat, f := fun cl l => f (elem 32 l (c.vsrc cl a)) (elem 32 l (c.vsrc cl b))
         lost := fun cl => c.vsrcFlag cl a ||| c.vsrcFlag cl b }
/-- A lane instruction of one source. -/
def one (c : CoreSt) (g : BitVec 4) (k : BitVec 3) (d : VDst) (lat : Nat) (a : VSrc) (f : W32 → W32 × Flg) : Option LaneForm :=
  some { g := g, k := k, d := d, lat := lat, f := fun cl l => f (elem 32 l (c.vsrc cl a)), lost := fun cl => c.vsrcFlag cl a }
/-- An integer function of the elements of a type (R141). -/
def packed (t : ITy) (f : (w : Nat) → BitVec w → BitVec w → BitVec w × Flg) (x y : W32) : W32 × Flg := elems (ityW t) (f (ityW t)) x y
/-- A function that raises nothing. -/
def quiet {w : Nat} (x : BitVec w) : BitVec w × Flg := (x, 0)
/-- An FP32 pattern with its flags. -/
def fp32 (r : Nat × Flg) : W32 × Flg := (BitVec.ofNat 32 r.1, r.2)
/-- An FP32 operand. -/
def f32v (x : W32) : FP.FVal := FP.unpack FP.f32 x.toNat
/-- The canonical NaN of FP32 (R84). -/
def nan32 : W32 := 0x7FC00000
/-- Where either operand is a NaN the canonical NaN, else a pick (R99, R146). -/
def orNan (x y r : W32) : W32 := if (f32v x).isNan || (f32v y).isNan then nan32 else r

/-- The lane instructions of the V slots (R65, R90, R141, R142, R145 to R147, R149, R151). -/
def laneForm (c : CoreSt) : Instr → Option LaneForm
  | .vadd t g k d a b => two c g k d 2 a b (packed t fun _ x y => quiet (x + y))
  | .vsub t g k d a b => two c g k d 2 a b (packed t fun _ x y => quiet (x - y))
  | .vadds t g k d a b => two c g k d 2 a b (packed t fun w x y => nearest w (x.toInt + y.toInt))
  | .vsubs t g k d a b => two c g k d 2 a b (packed t fun w x y => nearest w (x.toInt - y.toInt))
  | .vaddsu t g k d a b => two c g k d 2 a b (packed t fun w x y => nearestU w ((x.toNat : Int) + y.toNat))
  | .vsubsu t g k d a b => two c g k d 2 a b (packed t fun w x y => nearestU w ((x.toNat : Int) - y.toNat))
  | .vmul t g k d a b => two c g k d 2 a b (packed t fun _ x y => quiet (x * y))
  | .vmin t g k d a b => two c g k d 2 a b (packed t fun _ x y => quiet (if x.toInt ≤ y.toInt then x else y))
  | .vmax t g k d a b => two c g k d 2 a b (packed t fun _ x y => quiet (if x.toInt ≤ y.toInt then y else x))
  | .vminu t g k d a b => two c g k d 2 a b (packed t fun _ x y => quiet (if x.toNat ≤ y.toNat then x else y))
  | .vmaxu t g k d a b => two c g k d 2 a b (packed t fun _ x y => quiet (if x.toNat ≤ y.toNat then y else x))
  | .vshl t g k d a b => two c g k d 2 a b (packed t fun w x y => quiet (x <<< (y.toNat % w)))
  | .vshr t g k d a b => two c g k d 2 a b (packed t fun w x y => quiet (x >>> (y.toNat % w)))
  | .vsar t g k d a b => two c g k d 2 a b (packed t fun w x y => quiet (x.sshiftRight (y.toNat % w)))
  | .vand g k d a b => two c g k d 2 a b fun x y => quiet (x &&& y)
  | .vor g k d a b => two c g k d 2 a b fun x y => quiet (x ||| y)
  | .vxor g k d a b => two c g k d 2 a b fun x y => quiet (x ^^^ y)
  | .vandn g k d a b => two c g k d 2 a b fun x y => quiet (x &&& ~~~y)
  | .vmov g k d a => one c g k d 2 a quiet
  | .vperm g k d a b =>
    some { g := g, k := k, d := d, lat := 2, lost := fun cl => c.vsrcFlag cl a ||| c.vsrcFlag cl b
           f := fun cl l => quiet (elem 32 ((elem 32 l (c.vsrc cl b) : W32).toNat % 16) (c.vsrc cl a)) }
  | .vbcast g k d n => some { g := g, k := k, d := d, lat := 2, lost := fun _ => 0, f := fun _ _ => quiet ((c.sreg n.toNat).setWidth 32) }
  | .vidx g k d => some { g := g, k := k, d := d, lat := 2, lost := fun _ => 0, f := fun cl l => quiet (BitVec.ofNat 32 (16 * cl + l)) }
  | .vfadd m g k d a b => two c g k d 4 a b fun x y => fp32 (FP.add FP.f32 (FP.ofRm m) x.toNat y.toNat)
  | .vfsub m g k d a b => two c g k d 4 a b fun x y => fp32 (FP.sub FP.f32 (FP.ofRm m) x.toNat y.toNat)
  | .vfmul m g k d a b => two c g k d 4 a b fun x y => fp32 (FP.mul FP.f32 (FP.ofRm m) x.toNat y.toNat)
  | .vfma m g k d a b =>
    some { g := g, k := k, d := d, lat := 4, lost := fun cl => c.voldFlag cl d ||| c.vsrcFlag cl a ||| c.vsrcFlag cl b
           f := fun cl l => fp32 (FP.fma FP.f32 (FP.ofRm m) (elem 32 l (c.vold cl d) : W32).toNat (elem 32 l (c.vsrc cl a) : W32).toNat
             (elem 32 l (c.vsrc cl b) : W32).toNat) }
  | .vfmin g k d a b => two c g k d 2 a b fun x y => quiet (orNan x y (if FP.lessTotal (f32v y) (f32v x) then y else x))
  | .vfmax g k d a b => two c g k d 2 a b fun x y => quiet (orNan x y (if FP.lessTotal (f32v x) (f32v y) then y else x))
  | .vfabs g k d a => one c g k d 2 a fun x => quiet (orNan x x (x &&& 0x7FFFFFFF))
  | .vfneg g k d a => one c g k d 2 a fun x => quiet (orNan x x (x ^^^ 0x80000000))
  | .vrcp g k d a => one c g k d 8 a fun x => fp32 (FP.vrcp x)
  | .vrsqrt g k d a => one c g k d 8 a fun x => fp32 (FP.vrsqrt x)
  | .vexp2 g k d a => one c g k d 8 a fun x => fp32 (FP.vexp2 0 x)
  | .vlog2 g k d a => one c g k d 8 a fun x => fp32 (FP.vlog2 0 x)
  | .vxc g k d a sc =>
    some { g := g, k := k, d := d, lat := 1, lost := fun _ => c.vsrcFlag sc.toNat a, f := fun _ l => quiet (elem 32 l (c.vsrc sc.toNat a)) }
  | .vcvt (.f32i32 m) g k d a _ => one c g k d 3 a fun x => fp32 (FP.roundVal FP.f32 (FP.ofRm m) 0 (FP.ofInt x.toInt))
  | .vcvt (.i32f32 m) g k d a _ => one c g k d 3 a fun x => FP.cvtToInt 32 (FP.ofRm m) (f32v x)
  | .vcvt .f32bf16 g k d a _ =>
    one c g k d 3 a fun x => fp32 (FP.roundVal FP.f32 .rne 0 (FP.unpack FP.bf16 (x.toNat / 2 ^ (16 * (vdstNum d % 2)) % 2 ^ 16)))
  | .vcvt .f32e4m3 g k d a _ =>
    one c g k d 3 a fun x => fp32 (FP.roundVal FP.f32 .rne 0 (FP.unpack FP.e4m3 (x.toNat / 2 ^ (8 * (vdstNum d % 4)) % 2 ^ 8)))
  | .vcvt .f32e5m2 g k d a _ =>
    one c g k d 3 a fun x => fp32 (FP.roundVal FP.f32 .rne 0 (FP.unpack FP.e5m2 (x.toNat / 2 ^ (8 * (vdstNum d % 4)) % 2 ^ 8)))
  | .vcvt (.f32q4 m) g k d a b => two c g k d 3 a b fun x y =>
      fp32 (FP.scaleTo FP.f32 (FP.ofRm m) 0 (FP.level (x.toNat / 2 ^ (4 * (vdstNum d % 8)) % 16)) (f32v y))
  | _ => none

/-- The results of a lane instruction, one in each named cluster: the enabled lanes' values under the bits of those lanes (R137, R139). -/
def laneWrites (c : CoreSt) (x : LaneForm) : List Write :=
  (clustersOf x.g).map fun cl =>
    CoreSt.wV x.d cl (lanes (c.kmask cl x.k.toNat) (x.f cl)).1 (maskBits (c.kmask cl x.k.toNat))
/-- The flags of the enabled lanes of every named cluster, and of reading the sources (R139, R245). -/
def laneFlags (c : CoreSt) (x : LaneForm) : Flg :=
  (clustersOf x.g).foldl (fun f cl => f ||| ((lanes (c.kmask cl x.k.toNat) (x.f cl)).2 ||| x.lost cl)) 0

/-- A V-slot instruction that lands whole registers, or parts of lanes: cluster group, destination, latency, and in each cluster the
value, the bits it writes and the flags. -/
structure WholeForm where
  g : BitVec 4
  d : VDst
  lat : Nat
  x : Nat → W512 × W512 × Flg

/-- The 16 lanes of a register, the disabled ones replaced. -/
def lanesOr (m : W16) (n : W32) (x : W512) : List W32 := (List.range 16).map fun l => if m.getLsbD l then elem 32 l x else n
/-- A reduction in one cluster: with no lane enabled it raises no flag (R99, R148). -/
def reduction (c : CoreSt) (k : BitVec 3) (a : VSrc) (n : W32) (f : W32 → W32 → W32 × Flg) (cl : Nat) : W512 × W512 × Flg :=
  let m := c.kmask cl k.toNat
  let r := tree f 4 (lanesOr m n (c.vsrc cl a))
  (packElems 512 (List.replicate 16 r.1), .allOnes 512, if m = 0 then 0 else r.2 ||| c.vsrcFlag cl a)
/-- A narrowing conversion in one cluster: element j of each enabled lane, j from the source's number (R90, R94, R150). -/
def narrowed (c : CoreSt) (f : FP.Fmt) (m : Rm5) (k : BitVec 3) (a b : VSrc) (cl : Nat) : W512 × W512 × Flg :=
  let j := vsrcNum a % (32 / f.width)
  let r := lanes (c.kmask cl k.toNat) fun l =>
    let y := FP.scaleTo f m (FP.randomBits c.ctrl.seed c.stepQ (16 * cl + l) (FP.elementIndex c.flow.sched.toNat j))
      (f32v (elem 32 l (c.vsrc cl a))) (f32v (elem 32 l (c.vsrc cl b)))
    (BitVec.ofNat 32 y.1 <<< (f.width * j), y.2)
  (r.1, elemMask (c.kmask cl k.toNat) f.width j, r.2 ||| c.vsrcFlag cl a ||| c.vsrcFlag cl b)

/-- VSEL, the reductions and the narrowing conversions (R65, R99, R142, R148, R150). -/
def wholeForm (c : CoreSt) : Instr → Option WholeForm
  | .vsel g k d a b =>
    some { g := g, d := d, lat := 2
           x := fun cl => ((c.vsrc cl a &&& maskBits (c.kmask cl k.toNat)) ||| (c.vsrc cl b &&& ~~~(maskBits (c.kmask cl k.toNat))), .allOnes 512,
             c.vsrcFlag cl a ||| c.vsrcFlag cl b) }
  | .vradd .i32 g k d a => some { g := g, d := d, lat := 6, x := reduction c k a 0 fun x y => quiet (x + y) }
  | .vradd .f32 g k d a =>
    some { g := g, d := d, lat := 6, x := reduction c k a 0x80000000 fun x y => fp32 (FP.add FP.f32 .rne x.toNat y.toNat) }
  | .vrmax .i32 g k d a =>
    some { g := g, d := d, lat := 6, x := reduction c k a 0x80000000 fun x y => quiet (if x.toInt ≤ y.toInt then y else x) }
  | .vrmax .f32 g k d a =>
    some { g := g, d := d, lat := 6
           x := reduction c k a 0xFF800000 fun x y => quiet (orNan x y (if FP.lessTotal (f32v x) (f32v y) then y else x)) }
  | .vrmin .i32 g k d a =>
    some { g := g, d := d, lat := 6, x := reduction c k a 0x7FFFFFFF fun x y => quiet (if x.toInt ≤ y.toInt then x else y) }
  | .vrmin .f32 g k d a =>
    some { g := g, d := d, lat := 6
           x := reduction c k a 0x7F800000 fun x y => quiet (orNan x y (if FP.lessTotal (f32v y) (f32v x) then y else x)) }
  | .vcvt (.bf16f32 m) g k d a b => some { g := g, d := d, lat := 3, x := narrowed c FP.bf16 m k a b }
  | .vcvt (.e4m3f32 m) g k d a b => some { g := g, d := d, lat := 3, x := narrowed c FP.e4m3 m k a b }
  | .vcvt (.e5m2f32 m) g k d a b => some { g := g, d := d, lat := 3, x := narrowed c FP.e5m2 m k a b }
  | _ => none

/-- A mask result: cluster group, mask register, and in each cluster the bits and the flags of reading the sources. -/
structure MaskForm where
  g : BitVec 4
  kd : BitVec 3
  x : Nat → W16 × Flg

/-- A compare: a disabled lane writes 0 (R143). -/
def compared (c : CoreSt) (g : BitVec 4) (k kd : BitVec 3) (a b : VSrc) (f : W32 → W32 → Bool) : Option MaskForm :=
  some { g := g, kd := kd, x := fun cl =>
      (bits16 fun l => (c.kmask cl k.toNat).getLsbD l && f (elem 32 l (c.vsrc cl a)) (elem 32 l (c.vsrc cl b)),
       c.vsrcFlag cl a ||| c.vsrcFlag cl b) }

/-- The compares and the mask logic (R143, R144). -/
def maskForm (c : CoreSt) : Instr → Option MaskForm
  | .vcmpeq g k kd a b => compared c g k kd a b fun x y => decide (x = y)
  | .vcmplt g k kd a b => compared c g k kd a b fun x y => decide (x.toInt < y.toInt)
  | .vcmple g k kd a b => compared c g k kd a b fun x y => decide (x.toInt ≤ y.toInt)
  | .vcmpltu g k kd a b => compared c g k kd a b fun x y => decide (x.toNat < y.toNat)
  | .vcmpleu g k kd a b => compared c g k kd a b fun x y => decide (x.toNat ≤ y.toNat)
  | .vfcmpeq g k kd a b => compared c g k kd a b fun x y => FP.eqV (f32v x) (f32v y)
  | .vfcmplt g k kd a b => compared c g k kd a b fun x y => FP.ltV (f32v x) (f32v y)
  | .vfcmple g k kd a b => compared c g k kd a b fun x y => FP.leV (f32v x) (f32v y)
  | .vfcmpun g k kd a b => compared c g k kd a b fun x y => (f32v x).isNan || (f32v y).isNan
  | .kand g k kd a b => some { g := g, kd := kd, x := fun cl => ((c.kmask cl a.toNat &&& c.kmask cl b.toNat) &&& c.kmask cl k.toNat, 0) }
  | .kor g k kd a b => some { g := g, kd := kd, x := fun cl => ((c.kmask cl a.toNat ||| c.kmask cl b.toNat) &&& c.kmask cl k.toNat, 0) }
  | .kxor g k kd a b => some { g := g, kd := kd, x := fun cl => ((c.kmask cl a.toNat ^^^ c.kmask cl b.toNat) &&& c.kmask cl k.toNat, 0) }
  | .kandn g k kd a b =>
    some { g := g, kd := kd, x := fun cl => ((c.kmask cl a.toNat &&& ~~~(c.kmask cl b.toNat)) &&& c.kmask cl k.toNat, 0) }
  | _ => none

/-- The V-slot instructions: latency, a write in every named cluster, and flags (R65, R137, R139, R245). -/
def vectorResult (c : CoreSt) (i : Instr) : Option (Nat × List Write × Flg) :=
  match laneForm c i with
  | some x => some (x.lat, laneWrites c x, laneFlags c x)
  | none => match wholeForm c i with
    | some x =>
      some (x.lat, (clustersOf x.g).map fun cl => CoreSt.wV x.d cl (x.x cl).1 (x.x cl).2.1,
        (clustersOf x.g).foldl (fun f cl => f ||| (x.x cl).2.2) 0)
    | none => match maskForm c i with
      | some x =>
        some (2, (clustersOf x.g).map fun cl => Write.kreg cl x.kd.toNat (x.x cl).1, (clustersOf x.g).foldl (fun f cl => f ||| (x.x cl).2) 0)
      | none => none

end Sys2Proof.Claims

/-- The V-slot instructions put one result in flight in every named cluster, masked by lane where their entry says, and change nothing
else (R65, R90, R94, R99, R137, R139, R141 to R151). A lost latch that a lane form, a compare or VSEL names as a source raises latch-lost
(R245) whatever lanes are enabled, which is the model's choice (log entry 78); a reduction with no lane enabled raises no flag (R99). -/
def Obligations.VectorInstructionsLandInTheirClusters : Prop :=
  ∀ (s : State) (i : Instr) (lat : Nat) (ws : List Write) (fl : Flg),
    vectorResult s.cc i = some (lat, ws, fl) → Goes i s True → exec i s = .next (flies s i lat ws fl)

/-- Elements and lanes are computed alone: element j of a packed result comes from elements j, a lane of a masked result is its
function's value where the mask enables it and 0 elsewhere, and the bits written are those of the enabled lanes (R139, R141). -/
def Obligations.LanesAndElementsAreAlone : Prop :=
  (∀ (k : W16) (f : Nat → W32 × Flg) (l : Nat), l < 16 →
    elem 32 l (lanes k f).1 = (if k.getLsbD l then (f l).1 else 0) ∧
    elem 32 l (maskBits k) = (if k.getLsbD l then .allOnes 32 else (0 : W32))) ∧
  (∀ (t : ITy) (f : (w : Nat) → BitVec w → BitVec w → BitVec w × Flg) (x y : W32) (j : Nat), j < 32 / ityW t →
    elem (ityW t) j (packed t f x y).1 = (f (ityW t) (elem (ityW t) j x) (elem (ityW t) j y)).1)

/-! ## The axis unit, the address registers and the shadow command -/

namespace Sys2Proof.Claims

/-- A norm result confined to the ordinary range (R182). -/
def ordinary (n : Int) : W32 × Flg :=
  if 2147483646 < n then (0x7FFFFFFF, .sat) else if n < -2147483646 then (0x80000000, .unf) else (BitVec.ofInt 32 n, 0)
/-- A norm with an amount added: the special codes stay (R190, R194). -/
def scaled (n : W32) (k : Int) : W32 × Flg :=
  if n = 0x80000000 ∨ n = 0x80000001 ∨ n = 0x7FFFFFFF then (n, 0) else ordinary (n.toInt + k)
/-- Component k = 16c + λ of AFROMV: lane λ of the register in cluster c (R186). -/
def gathered (c : CoreSt) (v : BitVec 5) : List W32 :=
  (List.range 8).flatMap fun cl => (List.range 16).map fun l => elem 32 l (c.vreg cl v.toNat)
/-- The components negated (R191). -/
def negated (u : AxisBits) : AxisBits := packElems 2048 ((List.range 128).map fun k => BitVec.ofInt 16 (-(elem 16 k u : BitVec 16).toInt))

/-- The A-slot instructions that land registers, with CRWR, MSETMA, XSET, MOVSP, RDCNT and RDDESC: latency, writes and flags (R65, R115
to R117, R134, R159, R184 to R194, R347, R390). -/
def smallResult (s : State) : Instr → Option (Nat × List Write × Flg)
  | .afromv ad v =>
    let r := Axis.fromLanes s.tick (gathered s.cc v)
    some (8, [.axis ad.toNat r.u r.n], r.fl)
  | .aadd ad a b =>
    let r := Axis.addSub s.tick false (s.cc.axis a.toNat) (s.cc.norm a.toNat) (s.cc.axis b.toNat) (s.cc.norm b.toNat)
    some (8, [.axis ad.toNat r.u r.n], r.fl)
  | .asub ad a b =>
    let r := Axis.addSub s.tick true (s.cc.axis a.toNat) (s.cc.norm a.toNat) (s.cc.axis b.toNat) (s.cc.norm b.toNat)
    some (8, [.axis ad.toNat r.u r.n], r.fl)
  | .alerp ad a b t =>
    let r := Axis.lerp s.tick (s.cc.axis a.toNat) (s.cc.norm a.toNat) (s.cc.axis b.toNat) (s.cc.norm b.toNat) ((s.cc.src t).setWidth 32)
    some (8, [.axis ad.toNat r.u r.n], r.fl ||| s.cc.srcFlag t)
  | .aneg ad a =>
    let n := s.cc.norm a.toNat
    some (1, [if n = 0x80000001 then .axis ad.toNat 0 0x80000001 else .axis ad.toNat (negated (s.cc.axis a.toNat)) n], 0)
  | .azero ad => some (1, [.norm ad.toNat 0x80000000], 0)
  | .asetn ad b => some (1, [.setn ad.toNat ((s.cc.src b).setWidth 32)], s.cc.srcFlag b)
  | .ascl ad b =>
    let r := scaled (s.cc.norm ad.toNat) (s.cc.src b).toInt
    some (1, [.norm ad.toNat r.1], r.2 ||| s.cc.srcFlag b)
  | .ascli ad k =>
    let r := scaled (s.cc.norm ad.toNat) k.toInt
    some (1, [.norm ad.toNat r.1], r.2)
  | .atov vd a =>
    let r (cl l : Nat) := Axis.lane s.tick (s.cc.axis a.toNat) (s.cc.norm a.toNat) (16 * cl + l)
    some (4, (List.range 8).map fun cl =>
        .vreg cl vd.toNat (packElems 512 ((List.range 16).map fun l => (BitVec.ofNat 32 (r cl l).1 : W32))) (.allOnes 512),
      (List.range 8).foldl (fun f cl => (List.range 16).foldl (fun f l => f ||| (r cl l).2) f) 0)
  | .msetma ma sel a => some (1, [.ma ma.toNat sel ((s.cc.src a).setWidth 8)], s.cc.srcFlag a)
  | .xset cr a => some (1, [.xc cr.toNat (s.cc.src a)], s.cc.srcFlag a)
  | .crwr cr a => some (1, [.cr cr.toNat (s.cc.src a)], s.cc.srcFlag a)
  | .movsp a => some (1, [.preds ((s.cc.src a).setWidth 16)], s.cc.srcFlag a)
  | .rdcnt d a => some (2, CoreSt.wS d (s.readCounter s.cur ((s.cc.src a).toNat % 65536)), s.cc.srcFlag a)
  | .rddesc d a => some (2, CoreSt.wS d (descriptorWord s s.cur ((s.cc.src a).toNat % 16)), s.cc.srcFlag a)
  | _ => none

/-- The control registers that step mode may not write, and those that no code may write (R105, R108). -/
def writable (c : CoreSt) (n : Nat) : Prop :=
  n ≠ 1 ∧ n ≠ 5 ∧ ¬ (0x10 ≤ n ∧ n ≤ 0x13) ∧ ¬ (0x20 ≤ n ∧ n ≤ 0x27) ∧ (n = 0 ∨ n = 3 → c.ctrl.handler = true)
/-- What else these instructions ask of the core: a register that the mode may write (R105), and a free matrix shadow (R160). -/
def smallMay (s : State) : Instr → Prop
  | .crwr cr _ => writable s.cc cr.toNat
  | .msetma _ _ _ => s.cc.shadowFull = false
  | _ => True

end Sys2Proof.Claims

/-- The A-slot instructions, CRWR, MSETMA, XSET, MOVSP, RDCNT and RDDESC put their results in flight and change nothing else (R65, R115
to R117, R134, R159, R182 to R194, R347, R390). -/
def Obligations.AxisAndSmallInstructionsLand : Prop :=
  ∀ (s : State) (i : Instr) (lat : Nat) (ws : List Write) (fl : Flg),
    smallResult s i = some (lat, ws, fl) → Goes i s (smallMay s i) → exec i s = .next (flies s i lat ws fl)

/-! ## The scratchpad -/

namespace Sys2Proof.Claims

/-- The address of a scratchpad form: a 64-bit sum (R189, R196, R197, R281, R282). -/
def spadAddress (c : CoreSt) : Instr → Option W64
  | .lds _ _ a o => some (c.src a + o.signExtend 64)
  | .sts _ _ b o => some (c.src b + o.signExtend 64)
  | .ald _ a o => some (c.src a + o.signExtend 64)
  | .ast _ b o => some (c.src b + o.signExtend 64)
  | .ldv _ _ a o => some (c.src a + (o.signExtend 64 <<< 6))
  | .stv _ _ b o => some (c.src b + (o.signExtend 64 <<< 6))
  | .adotm _ _ _ b => some (c.src b)
  | _ => none

/-- The bytes of a scalar form. -/
def ldBytes : LdTy → Nat
  | .i8 | .n8 => 1 | .i16 | .n16 => 2 | .i32 | .n32 => 4 | .i64 => 8
/-- The bytes of a scalar store. -/
def stBytes : StTy → Nat
  | .i8 => 1 | .i16 => 2 | .i32 => 4 | .i64 => 8

/-- The bytes that a scratchpad form accesses and the alignment it asks (R189, R196, R197, R281, R282). -/
def spadSize : Instr → Nat × Nat
  | .lds t _ _ _ => (ldBytes t, ldBytes t)
  | .sts t _ _ _ => (stBytes t, stBytes t)
  | .ald _ _ _ | .ast _ _ _ => (260, 4)
  | .ldv g _ _ _ | .stv g _ _ _ => (64 * (clustersOf g).length, 64)
  | .adotm _ _ _ _ => (8192, 256)
  | _ => (1, 1)

/-- The access is aligned and lies inside the 2 MiB (R189, R196, R197, R281). -/
def Fits (c : CoreSt) (i : Instr) : Prop :=
  ∀ x, spadAddress c i = some x → x.toNat % (spadSize i).2 = 0 ∧ x.toNat + (spadSize i).1 ≤ 2 ^ 21

/-- The scratchpad loads: latency, what is read in the next cycle, whether R70 counts it, and the flags (R65, R69, R70, R189, R196,
R281). -/
def loadOf (c : CoreSt) (x : Nat) : Instr → Option (Nat × Load × Bool × Flg)
  | .lds t d a _ => some (if c.classB then 6 else 4, .lds t d x, true, c.srcFlag a)
  | .ldv g d a _ => some (if c.classB then 6 else 4, .ldv (clustersOf g) d x, true, c.srcFlag a)
  | .ald ad a _ => some (if c.classB then 6 else 4, .ald ad.toNat x, true, c.srcFlag a)
  | .adotm vd cl a b => some (21, .adotm cl.toNat vd.toNat (c.axis a.toNat) (c.norm a.toNat) x, false, c.srcFlag b)
  | _ => none

/-- The scratchpad stores: the bytes as read at issue and the flags (R197, R282). -/
def storeOf (c : CoreSt) : Instr → Option (List Byte × Flg)
  | .sts t a b _ => some ((List.range (stBytes t)).map fun k => elem 8 k (c.src a), lost2 c a b)
  | .stv g a b _ =>
    some ((clustersOf g).flatMap fun cl => (List.range 64).map fun k => elem 8 k (c.vsrc cl a),
      (clustersOf g).foldl (fun f cl => f ||| c.vsrcFlag cl a) (c.srcFlag b))
  | .ast a b _ =>
    some (((List.range 256).map fun k => elem 8 k (c.axis a.toNat)) ++ (List.range 4).map fun k => elem 8 k (c.norm a.toNat), c.srcFlag b)
  | _ => none

end Sys2Proof.Claims

/-- A scratchpad load that fits puts its result in flight with its read still to be performed, and a store that fits lands its bytes in
the next cycle at the address of the access; neither changes anything else (R65, R69, R70, R189, R196, R197, R281, R282). -/
def Obligations.ScratchpadFormsFly : Prop :=
  ∀ (s : State) (i : Instr) (x : W64) (fl : Flg), spadAddress s.cc i = some x → Goes i s (Fits s.cc i) →
    (∀ (lat : Nat) (l : Load) (counted : Bool), loadOf s.cc x.toNat i = some (lat, l, counted, fl) →
      exec i s = .next (fliesLoad s i lat l (if counted then some s.cc.flow.steps else none) fl)) ∧
    (∀ bs : List Byte, storeOf s.cc i = some (bs, fl) → exec i s = .next (flies s i 1 [.spad x.toNat bs] fl))

/-- A store that lands writes its own bytes: they read back, every other byte of the scratchpad reads as before, and nothing but the
scratchpad and the sticky record of its slot changes (R65, R274, R282). -/
def Obligations.StoreLandingWritesItsBytesOnly : Prop :=
  ∀ (c : CoreSt) (f : InFlight) (x : Nat) (bs : List Byte),
    amWf 0 c.files.spad = true → f.writes = [.spad x bs] → x + bs.length ≤ 2 ^ 21 →
    (∀ k, k < bs.length → amGet 0 (c.land f).files.spad (x + k) = bs.getD k 0) ∧
    (∀ a, ¬ (x ≤ a ∧ a < x + bs.length) → amGet 0 (c.land f).files.spad a = amGet 0 c.files.spad a) ∧
    c.land f = { c with
      files := { c.files with spad := (c.land f).files.spad }
      ctrl := { c.ctrl with sticky := vset c.ctrl.sticky f.slot (stickyRaise (vget 0 c.ctrl.sticky f.slot) f.bundle f.flags) } }

/-! ## The matrix unit, the domain unit, the memory-order queue and the copy engine -/

namespace Sys2Proof.Claims

/-- The core with a token's operation counted and its destinations pending under it (R67). -/
def opened (c : CoreSt) (w : Nat) (q : QueueId) (ds : List Dest) : CoreSt :=
  { c with flow := { c.flow with
      tokens := vset c.flow.tokens w { vget .idle c.flow.tokens w with out := (vget .idle c.flow.tokens w).out + 1 }
      pending := c.flow.pending ++ ds.map fun d => { dest := d, tok := w, queue := q } } }

/-- What a matrix command takes at issue: the scalar operand, the 64 scales and the flags of reading them (R168, R170). -/
def matrixTakes (c : CoreSt) : Instr → Option (W64 × BitVec 2048 × Flg)
  | .mma _ _ _ _ _ _ | .mmaq _ _ _ _ _ | .mzero _ _ _ | .mret _ _ _ _ _ | .mcvt _ _ _ _ _ _ _ | .mtr _ _ _ _ | .mldl _ _ _ _
  | .mtrs _ _ _ _ _ => some (0, 0, 0)
  | .msca _ _ hi v _ => some (0, packElems 2048 ((List.range 4).map fun k => c.vreg (if hi then 4 + k else k) v.toNat), 0)
  | .mrets _ _ _ b _ => some (c.src b, 0, c.srcFlag b)
  | _ => none

/-- The core once a matrix command has entered the matrix unit's queue: its executions are still to come (R160, R161, R163). -/
def commanded (c : CoreSt) (i : Instr) (b : W64) (scales : BitVec 2048) (lost : Flg) : CoreSt :=
  let w := i.token.getD 0
  let d := opened c w .m (c.mPending i)
  { d with flow := { d.flow with
      seq := c.flow.seq + 1
      mq := c.flow.mq ++
        [{ op := i, bundle := c.flow.bundleA, sched := c.flow.sched, tok := w, seq := c.flow.seq, left := repOf i + 1, k := 0
           scales := scales, b := b, tau := c.ctrl.solvtau, delta := c.ctrl.solvdelta, seed := c.ctrl.seed, flags := 0
           lost := decide (lost ≠ 0), fault := none }] } }

/-- The scalars that a domain operation takes at issue (R213, R216). -/
def domainTakes (c : CoreSt) : Instr → Option (W64 × W64 × Flg)
  | .dset _ a b _ => some (c.src a, c.src b, lost2 c a b)
  | .delem _ _ b _ => some (0, c.src b, c.srcFlag b)
  | .dadd _ _ _ _ | .dsub _ _ _ _ | .dmul _ _ _ _ | .dmin _ _ _ _ | .dmax _ _ _ _ | .deq _ _ _ | .dne _ _ _ | .dlt _ _ _ | .dle _ _ _
  | .deqi _ _ _ | .dnei _ _ _ | .dlti _ _ _ | .dlei _ _ _ | .dgti _ _ _ | .dgei _ _ _ | .din _ _ _ _ | .dnotin _ _ _ _ | .dseti _ _ _
  | .dlab _ _ _ | .dval _ _ _ | .dsize _ _ _ | .dlo _ _ _ | .dhi _ _ _ | .dsettle _ | .dclr | .dopen _ | .dclose => some (0, 0, 0)
  | _ => none

/-- A domain operation's token counts it and its destination is pending (R67). -/
def dOpened (c : CoreSt) (i : Instr) : CoreSt := match i.token with
  | some w => opened c w .d (destsOf i)
  | none => c

/-- The core once a domain operation has entered the domain unit's queue (R211). -/
def queuedD (c : CoreSt) (i : Instr) (a b : W64) (lost : Flg) : CoreSt :=
  let d := dOpened c i
  { d with
    dom := { d.dom with ops := c.dom.ops ++
      [{ op := i, bundle := c.flow.bundleA, group := c.flow.groupA, sched := c.flow.sched, tok := i.token, seq := c.flow.seq, a := a
         b := b, budget := c.ctrl.dbudget.toNat, lost := decide (lost ≠ 0), fault := none }] }
    flow := { d.flow with seq := c.flow.seq + 1 } }

/-- A failed token awaits its WAIT, and the operation does not name it (R222). -/
def Cancelled (c : CoreSt) (i : Instr) : Prop := c.dom.cancel.isSome = true ∧ c.dom.cancel ≠ i.token

/-- The domain unit's queue has room, with the operations that a trap set aside (R211, R234), and DELEM's table of 256 bytes is aligned and lies in the scratchpad (R213). -/
def domainMay (c : CoreSt) (i : Instr) : Prop :=
  c.dom.ops.length + c.dom.held.length + (if c.dom.run.isSome then 1 else 0) < 64 ∧
    (∀ z x b w, i = .delem z x b w → (c.src b).toNat % 4 = 0 ∧ (c.src b).toNat + 256 ≤ 2 ^ 21)

/-- The address and the other operands of a memory operation as taken at issue: address, stride, rows, tile bytes, two operands and
the flags of reading them (R177, R280, R283, R284, R286, R287, R349). -/
def memoryTakes (c : CoreSt) : Instr → Option QArgs
  | .tld _ a b _ => some { addr := c.src a, stride := c.src b, rows := 64, snap := 0, b := 0, c := 0, lost := lost2 c a b }
  | .tst t a b _ =>
    some { addr := c.src a, stride := c.src b, rows := 64, snap := (c.tile t.toNat).setWidth 131072, b := 0, c := 0, lost := lost2 c a b }
  | .tldw _ a _ => some { addr := c.src a, stride := 64, rows := 0, snap := 0, b := 0, c := 0, lost := c.srcFlag a }
  | .amoadd _ a b _ | .amoswp _ a b _ | .amomin _ a b _ | .amomax _ a b _ | .amoand _ a b _ | .amoor _ a b _ | .binit _ a b _ =>
    some { addr := c.src a, stride := 0, rows := 1, snap := 0, b := c.src b, c := 0, lost := lost2 c a b }
  | .amocas d a b _ =>
    some { addr := c.src a, stride := 0, rows := 1, snap := 0, b := c.src b, c := c.old d, lost := lost2 c a b ||| c.oldFlag d }
  | .arrive _ a n _ => some { addr := c.src a, stride := 0, rows := 1, snap := 0, b := n.setWidth 64, c := 0, lost := c.srcFlag a }
  | .xtld pair _ a b _ =>
    some { addr := c.src a, stride := c.src b, rows := if pair then 128 else 64, snap := 0, b := 0, c := 0, lost := lost2 c a b }
  | .xtst pair t a b _ =>
    some { addr := c.src a, stride := c.src b, rows := if pair then 128 else 64
           snap := (c.tile t.toNat).setWidth 131072 ||| (if pair then (c.tile (t.toNat + 1)).setWidth 131072 <<< 65536 else 0)
           b := 0, c := 0, lost := lost2 c a b }
  | _ => none

/-- The addresses of a memory operation are the multiples that its form asks (R177, R283, R284, R286, R287, R349). -/
def memoryAligned (c : CoreSt) : Instr → Prop
  | .tld _ a b _ | .tst _ a b _ | .xtld _ _ a b _ | .xtst _ _ a b _ => (c.src a).toNat % 64 = 0 ∧ (c.src b).toNat % 64 = 0
  | .tldw _ a _ => (c.src a).toNat % 64 = 0
  | .binit _ a _ _ | .arrive _ a _ _ => (c.src a).toNat % 16 = 0
  | .amoadd _ a _ _ | .amoswp _ a _ _ | .amocas _ a _ _ | .amomin _ a _ _ | .amomax _ a _ _ | .amoand _ a _ _ | .amoor _ a _ _ =>
    (c.src a).toNat % 8 = 0
  | _ => True

/-- The operation as it enters the memory-order queue (R280). -/
def memoryOp (c : CoreSt) (i : Instr) (x : QArgs) : QOp :=
  { op := i, slot := c.flow.slotIdx, bundle := c.flow.bundleA, sched := c.flow.sched, tok := i.token, seq := c.flow.seq
    issued := c.flow.cyc, addr := x.addr, stride := x.stride, rows := x.rows, snap := x.snap, got := 0, done := 0, b := x.b, c := x.c
    sent := false, served := none, vc := none, portAt := none
    lost := decide (x.lost ≠ 0), stuck := false, fault := none }

/-- The core once a memory operation has entered the memory-order queue (R280). -/
def queuedM (c : CoreSt) (i : Instr) (x : QArgs) : CoreSt :=
  let d := opened c (i.token.getD 0) .mem (destsOf i)
  { d with flow := { d.flow with mem := c.flow.mem ++ [memoryOp c i x], seq := c.flow.seq + 1 } }

/-- What a copy command takes at issue (R345 to R348, R350). -/
def copyTakes (c : CoreSt) : Instr → Option XArgs
  | .xcpy a b d _ =>
    some { fill := false, dst := c.src a, src := c.src b, len := (c.src d).toNat, rows := 1, dstride := 0, sstride := 0, node := 0
           desc := 0, lost := lost2 c a b ||| c.srcFlag d }
  | .pput a b d _ =>
    some { fill := false, dst := 0, src := c.src b, len := (c.src d).toNat, rows := 1, dstride := 0, sstride := 0, node := 0
           desc := c.src a, lost := lost2 c a b ||| c.srcFlag d }
  | .pget a b d _ =>
    some { fill := false, dst := c.src b, src := 0, len := (c.src d).toNat, rows := 1, dstride := 0, sstride := 0, node := 0
           desc := c.src a, lost := lost2 c a b ||| c.srcFlag d }
  | .xgo _ =>
    some { fill := c.xc.kind.getLsbD 0, dst := c.xc.dst, src := c.xc.src, len := c.xc.len.toNat, rows := c.xc.rows.toNat
           dstride := c.xc.dstride, sstride := c.xc.sstride, node := c.xc.node, desc := 0, lost := 0 }
  | _ => none

/-- The core once a copy command has entered the copy engine's queue (R345). -/
def queuedX (c : CoreSt) (i : Instr) (a : XArgs) : CoreSt :=
  let w := i.token.getD 0
  let d := opened c w .x []
  { d with flow := { d.flow with
      seq := c.flow.seq + 1
      xq := c.flow.xq ++
        [{ op := i, bundle := c.flow.bundleA, sched := c.flow.sched, tok := w, seq := c.flow.seq, fill := a.fill, dst := a.dst
           src := a.src, len := a.len, rows := a.rows, dstride := a.dstride, sstride := a.sstride, node := a.node, desc := a.desc
           started := false, bytes := 0, buf := none, peer := 0, served := none, vc := none, portAt := none, wrote := none, moved := false
           lost := decide (a.lost ≠ 0), stuck := false, fault := none }] } }

/-- A copy command may issue: room in the queue of 16, with the commands that a trap set aside (R234, R345), addresses that are multiples of 64 (R347, R348, R350), and for XGO the
checks of the shadow set (R347). -/
def copyMay (c : CoreSt) : Instr → Prop
  | .xcpy a b d _ | .pput a b d _ | .pget a b d _ =>
    c.flow.xq.length + c.flow.xheld.length < 16 ∧ (c.src a).toNat % 64 = 0 ∧ (c.src b).toNat % 64 = 0 ∧ (c.src d).toNat % 64 = 0
  | .xgo _ =>
    c.flow.xq.length + c.flow.xheld.length < 16 ∧ c.xc.kind.toNat < 2 ∧ c.xc.len.toNat < 2 ^ 32 ∧ c.xc.rows.toNat < 2 ^ 32 ∧ c.xc.dst.toNat % 64 = 0 ∧
      (c.xc.kind.getLsbD 0 = false → c.xc.src.toNat % 64 = 0) ∧ c.xc.len.toNat % 64 = 0 ∧ c.xc.dstride.toNat % 64 = 0 ∧
      c.xc.sstride.toNat % 64 = 0
  | _ => True

end Sys2Proof.Claims

/-- A matrix command enters the matrix unit's queue; the unit, if idle, starts it in the same cycle, and else nothing more changes
(R67, R160, R161, R163, R168, R170).
A domain operation enters the domain unit's queue; the unit, if idle, starts it in the same cycle; while a failed token awaits its
WAIT an operation that does not name it is cancelled, and only its token's count and its pending destination stay (R67, R211, R222). -/
def Obligations.UnitOperationsEnterTheirQueues : Prop :=
  (∀ (s : State) (i : Instr) (b : W64) (scales : BitVec 2048) (lost : Flg),
    matrixTakes s.cc i = some (b, scales, lost) → Goes i s (s.cc.shadowFull = false) →
    exec i s = .next (s.setCore s.cur
      (if s.cc.flow.mrun = none ∧ s.cc.flow.mq = [] then (commanded s.cc i b scales lost).mGo s.cc.flow.cyc
       else commanded s.cc i b scales lost))) ∧
  (∀ (s : State) (i : Instr) (a b : W64) (lost : Flg),
    domainTakes s.cc i = some (a, b, lost) → Goes i s (domainMay s.cc i) →
    (¬ Cancelled s.cc i → exec i s = .next (s.setCore s.cur
      (if s.cc.dom.run = none ∧ s.cc.dom.ops = [] then Dom.goAt (queuedD s.cc i a b lost) s.cc.flow.cyc else queuedD s.cc i a b lost))) ∧
    (Cancelled s.cc i → exec i s = .next (s.setCore s.cur ((dOpened s.cc i).tokDone i.token))))

/-- A memory operation, aligned and with room in the queue of 64 beside those that a trap set aside, enters the memory-order queue, whose head notes its die's clock if
it has not, and nothing else changes: memory is reached only later (R67, R177, R280, R283, R284, R286, R287, R349).
A copy command enters the copy engine's queue of 16 and nothing else changes (R67, R345 to R348, R350). -/
def Obligations.MemoryAndCopyCommandsEnterTheirQueues : Prop :=
  (∀ (s : State) (i : Instr) (x : QArgs),
    memoryTakes s.cc i = some x → Goes i s (s.cc.flow.mem.length + s.cc.flow.memHeld.length < 64 ∧ memoryAligned s.cc i) →
    exec i s = .next ((s.setCore s.cur (queuedM s.cc i x)).stampHead s.cur)) ∧
  (∀ (s : State) (i : Instr) (a : XArgs),
    copyTakes s.cc i = some a → Goes i s (copyMay s.cc i) → exec i s = .next (s.setCore s.cur (queuedX s.cc i a)))

/-! ## Control -/

namespace Sys2Proof.Claims

/-- The flags raised at once in the Y sticky record for the issuing bundle (R239, R245). -/
def raisedY (c : CoreSt) (f : Flg) : CoreSt :=
  { c with ctrl := { c.ctrl with sticky := vset c.ctrl.sticky 11 (stickyRaise (vget 0 c.ctrl.sticky 11) c.flow.bundleA f) } }

/-- The target of a control transfer (R121). -/
def target (c : CoreSt) : Instr → Option W64
  | .br o | .call o => some (c.flow.groupA.setWidth 64 + (o.signExtend 64 <<< 2))
  | .brr a | .callr a => some (c.src a)
  | .ret => some (c.sreg 63)
  | _ => none

/-- The core once a control transfer has issued: its next group is at the target, and a call links s63 (R121). -/
def transferred (c : CoreSt) (i : Instr) (t : W64) : CoreSt :=
  let link := [Write.sreg 63 (c.flow.groupEnd.setWidth 64)]
  match i with
  | .call _ => { fliesCore c i 1 none link 0 with next := some t }
  | .callr a => { fliesCore c i 1 none link (c.srcFlag a) with next := some t }
  | .brr a => { raisedY c (c.srcFlag a) with next := some t }
  | _ => { c with next := some t }

/-- The groups of a loop's body and its trips (R123). -/
def loopShape (c : CoreSt) : Instr → Option (Nat × Nat × Flg)
  | .loop b n => some (b.toNat + 1, n.toNat, 0)
  | .loopr b a => some (b.toNat + 1, (c.src a).toNat, c.srcFlag a)
  | _ => none

/-- A loop of some trips may open: fewer than four levels are open, and its body lies within the enclosing one, of which so many groups follow
(R124). -/
def loopMay (c : CoreSt) (body trips : Nat) : Prop :=
  trips = 0 ∨ (c.flow.loops.length + c.flow.suspended.length < 4 ∧
    ∀ l, c.flow.loops.getLast? = some l → body ≤ (match l.after with
      | some k => k
      | none => (l.addrs.filter fun x => decide (c.flow.groupA.toNat < x.toNat)).length + l.left))

/-- The core once a loop instruction has issued: a level opens on the groups found after the loop's group, or with no trip the step
goes on after the body (R123, R387). -/
def looped (s : State) (body trips : Nat) : CoreSt :=
  let b := s.groupsFrom s.cur body s.cc.flow.groupEnd
  if trips = 0 then { s.cc with next := some (b.2.1.setWidth 64) }
  else { s.cc with
    flow := { s.cc.flow with loops := s.cc.flow.loops ++
      [{ addrs := b.1, found := b.2.1, left := b.2.2, endA := if b.2.2 = 0 then some b.2.1 else none, remain := BitVec.ofNat 64 (trips - 1), buf := [], begun := false
         inHandler := s.cc.ctrl.handler, after := none }] }
    banks := vset s.cc.banks (s.cc.flow.suspended.length + s.cc.flow.loops.length + 1) (.replicate 32 0) }

/-- The core after a WAIT on a completed token: its destinations are pending no more, a failed domain token branches to its fail
target, and the cancellation it stood for ends (R67, R126, R222). -/
def waited (c : CoreSt) (w : BitVec 3) : CoreSt :=
  { c with
    next := if (c.token w.toNat).failed then some ((c.token w.toNat).target.setWidth 64) else c.next
    dom := { c.dom with cancel := if c.dom.cancel = some w.toNat then none else c.dom.cancel }
    flow := { c.flow with
      tokens := vset c.flow.tokens w.toNat .idle
      pending := c.flow.pending.filter fun p => p.tok != w.toNat } }

/-- The core after a poll that has ended (R127). -/
def pollOver (c : CoreSt) (i : Instr) (p : BitVec 3) (b : Bool) (fl : Flg) : CoreSt :=
  let d := fliesCore c i 2 none [.pair p.toNat b] fl
  { d with reached := { d.reached with polled := none, polling := none, since := none } }

/-- A poll's pair, its two sources, and the multiple that its address must be (R127). -/
def pollOf : Instr → Option (BitVec 3 × SSrc × SSrc × Nat)
  | .waitph p a b _ => some (p, a, b, 16)
  | .waitbit p a b _ => some (p, a, b, 8)
  | _ => none

/-- A precise fault of one slot: its record (R235, R237). -/
def oneSlot (c : CoreSt) (k : Cause) (field : Nat) (va : Addr) : TrapInfo :=
  { CoreSt.blankTrap k with
    slots := 1#12 <<< c.flow.slotIdx, fields := BitVec.ofNat 48 field <<< (4 * c.flow.slotIdx), bundle := c.flow.groupA
    resume := c.flow.groupA, va := va, sched := c.flow.sched }

end Sys2Proof.Claims

/-- The control transfers set the next group's address, calls link s63 at +1, and nothing else changes (R65, R121). -/
def Obligations.BranchesTransferControl : Prop :=
  ∀ (s : State) (i : Instr) (t : W64), target s.cc i = some t →
    Goes i s (match i with | .br _ | .call _ => True | _ => t.toNat % 4 = 0) →
    exec i s = .next (s.setCore s.cur (transferred s.cc i t))

/-- LOOP and LOOPR open a level on the groups that follow, or with no trip go on after the body (R123, R124, R387; log entry 25). -/
def Obligations.LoopsOpenLevels : Prop :=
  ∀ (s : State) (i : Instr) (body trips : Nat) (fl : Flg), loopShape s.cc i = some (body, trips, fl) →
    Goes i s (loopMay s.cc body trips) → exec i s = .next (s.setCore s.cur (raisedY (looped s body trips) fl))

/-- WAIT on a token with nothing outstanding, and no held fault that it reaches, releases the token; with operations outstanding it holds
its group, and the cycle counts under WAIT with nothing else changed (R44, R67, R126, R222, R386). -/
def Obligations.WaitHoldsThenReleasesItsToken : Prop :=
  ∀ (s : State) (w : BitVec 3), s.cc.waitMeets w.toNat = false →
    ((s.cc.token w.toNat).out = 0 → exec (.wait w) s = .next (s.setCore s.cur (waited s.cc w))) ∧
    ((s.cc.token w.toNat).out ≠ 0 → exec (.wait w) s = .next (s.stall s.cur cWait))

/-- A poll whose read has ended, without a fault, lands its pair at +2 and is over (R127). -/
def Obligations.PollsLandTheirPair : Prop :=
  ∀ (s : State) (i : Instr) (p : BitVec 3) (a b : SSrc) (n : Nat) (x : Bool), pollOf i = some (p, a, b, n) →
    s.cc.reached.polled = some x → s.cc.reached.pollFault = none → Goes i s ((s.cc.src a).toNat % n = 0) →
    exec i s = .next (s.setCore s.cur (pollOver s.cc i p x (lost2 s.cc a b)))

/-- A BAR of scope self, of a step that is no member, or released by its barrier issues and leaves the barrier; a FENCE whose scope is
reached issues and changes nothing; END with no held fault ends the step's issue and its loop levels and discards an open accumulator; TRAPACK in handler mode unfreezes
the trap record; TRET in handler mode issues in every state: it returns to step mode and unfreezes the record, and by the record's bits frees the
core for a restart, or waits for room in the full ready list, leaves the step ended at RESUME, or goes on at RESUME (R125, R129 to R131, R133,
R164, R242, R243, R255, R299, R317, R407). -/
def Obligations.BarFenceEndAndTrapackIssue : Prop :=
  (∀ (s : State) (sc : BitVec 3),
    (sc = 0 ∨ s.cc.reached.released = true ∨ s.cc.step = none ∨ (∃ st, s.cc.step = some st ∧ st.grouped = false) ∨
      (sc = 4 ∧ (s.part (s.partOf s.cur)).podgroup = 0)) →
    exec (.bar sc) s = .next (s.setCore s.cur { s.cc with reached := { s.cc.reached with arrived := false, released := false } })) ∧
  (∀ (s : State) (sc : BitVec 3), (sc = 0 ∨ (s.cc.fenceMeets sc = false ∧ s.fenceReached s.cur sc = true)) →
    exec (.fence sc) s = .next s) ∧
  (∀ s : State, s.cc.heldFaults = [] →
    exec .endStep s = .next (s.setCore s.cur
      { s.cc with status := .ended, next := none, files := { s.cc.files with openAcc := 0 },
                  flow := { s.cc.flow with loops := [], suspended := [] } })) ∧
  (∀ s : State, s.cc.ctrl.handler = true →
    exec .trapack s = .next (s.setCore s.cur { s.cc with ctrl := { s.cc.ctrl with frozen := false } })) ∧
  (∀ s : State, s.cc.ctrl.handler = true → ∃ t, exec .tret s = .next t ∧ t.cc.ctrl.handler = false ∧ t.cc.ctrl.frozen = false ∧
    (s.cc.recRestart = true → (∀ st, s.cc.step = some st → (s.part st.part).readyFull = false) → t.cc.status = .free ∧ t.cc.step = none) ∧
    (∀ st, s.cc.recRestart = true → s.cc.step = some st → (s.part st.part).readyFull = true → t.cc.status = .restarting) ∧
    (s.cc.recRestart = false → s.cc.recEnded = true → t.cc.status = .ended ∧ t.cc.pc = s.cc.recResume) ∧
    (s.cc.recRestart = false → s.cc.recEnded = false → t.cc.status = s.cc.status ∧ t.cc.next = some (s.cc.recResume.setWidth 64)))

/-- TRAP does not fault its group: the group commits, the core is to take SWTRAP with the immediate in INFO, the TRAP group in
BUNDLE and the next group in RESUME, and nothing else changes. The group that has issued leaves the trap pending, with RESUME the address
the core goes on at; and before another group issues the trap is entered, once the core's queues have settled (R132, R240). That it is entered
then, whatever empty cycles of the TRAP group are left, is the model's choice (log entry 96). -/
def Obligations.TrapTakesSwtrapAfterItsGroup : Prop :=
  (∀ (s : State) (k : BitVec 16),
    exec (.trap k) s = .next (s.setCore s.cur { s.cc with status := .trapping { CoreSt.blankTrap .swtrap with
      slots := 0x800, info := k, bundle := s.cc.flow.groupA, resume := s.cc.flow.groupEnd, sched := s.cc.flow.sched } })) ∧
  (∀ (s : State) (g : Nat) (x : Group) (h : Bool) (e : Nat) (t : TrapInfo), g < 288 → (s.core g).status = .trapping t →
    let u := s.afterGroup g x h false e
    (u.core g).status = .trapping { t with resume := (u.core g).pc } ∧
      (u.core g).files = (s.core g).files ∧ u.ord = s.ord ∧
      ((s.core g).next = none → (s.core g).flow.loops = [] → (u.core g).pc = x.addr + BitVec.ofNat 60 x.len)) ∧
  (∀ (s : State) (g : Nat) (t : TrapInfo), g < 288 → (s.core g).status = .trapping t →
    ((s.core g).settled = false → s.statusCycle g = s) ∧
    ((s.core g).settled = true → s.statusCycle g =
      if ((s.enterTrap g t).core g).status = .running then (s.enterTrap g t).runCycle g else s.enterTrap g t))

/-- TRET in handler mode unfreezes the record and returns to step mode with every latch lost, whatever result is still to land, the
handler's loop levels ended and the step's resumed, and the operations set aside in their queues again in issue order; it goes on at RESUME,
or with ENDED the step is ended there; registers, predicates and memory stay, and the sticky records too, but for latch-lost of a domain
operation that took DOMAIN_EMPTY with a lost source and completes now. With RESTART the core is free and
its step is requeued, or stays on its core, restarting, while its partition's ready list is full (R239, R243, R245, R255, R317); that it is then first
in the ready list, and that it waits on its core, are the model's choices (log entries 103 and 84). -/
def Obligations.TretResumesOrRestartsTheStep : Prop :=
  (∀ s : State, s.cur < 288 → s.cc.ctrl.handler = true → s.cc.recRestart = false →
    ∃ t, exec .tret s = .next t ∧
      t.cc.ctrl = { s.cc.ctrl with frozen := false, handler := false, sticky := t.cc.ctrl.sticky } ∧
      ((∀ o ∈ s.cc.dom.held, o.lost = false) → t.cc.ctrl.sticky = s.cc.ctrl.sticky) ∧
      (∀ f ∈ t.cc.flow.flight, ∀ w ∈ f.writes, CoreSt.isLatch w = false) ∧
      t.cc.files.s = s.cc.files.s ∧ t.cc.files.p = s.cc.files.p ∧ t.cc.files.spad = s.cc.files.spad ∧ t.ord = s.ord ∧
      t.cc.files.slLost = .allOnes 8 ∧ (∀ k, k < 8 → (t.cc.clus k).lost = .allOnes 8) ∧
      t.cc.flow.loops = (s.cc.flow.suspended.filter fun l => !l.inHandler) ∧ t.cc.flow.suspended = [] ∧
      (t.cc.flow.mem.map fun q => q.seq) = (s.cc.flow.mem ++ s.cc.flow.memHeld).map (fun q => q.seq) ∧
      (t.cc.flow.mq.map fun m => m.seq) = (s.cc.flow.mq ++ s.cc.flow.mheld).map (fun m => m.seq) ∧
      (t.cc.flow.xq.map fun x => x.seq) = (s.cc.flow.xq ++ s.cc.flow.xheld).map (fun x => x.seq) ∧
      t.cc.flow.memHeld = [] ∧ t.cc.flow.mheld = [] ∧ t.cc.dom.held = [] ∧ t.cc.flow.xheld = [] ∧
      (s.cc.recEnded = false → t.cc.status = s.cc.status ∧ t.cc.next = some (s.cc.recResume.setWidth 64)) ∧
      (s.cc.recEnded = true → t.cc.status = .ended ∧ t.cc.next = none ∧ t.cc.pc = s.cc.recResume)) ∧
  (∀ (s : State) (st : StepInfo), s.cur < 288 → st.part < 64 → s.cc.ctrl.handler = true → s.cc.recRestart = true → s.cc.step = some st →
    (s.part st.part).readyFull = true →
    ∃ t st', exec .tret s = .next t ∧ t.cc.status = .restarting ∧ t.cc.step = some st' ∧ t.cc.ctrl.handler = false ∧
      (t.part st.part).restarts = (s.part st.part).restarts ∧ (t.part st.part).ready = (s.part st.part).ready ∧
      st'.node = st.node ∧ st'.number = st.number ∧ st'.entry = st.entry ∧ st'.args = st.args ∧ st'.elapsed = 0) ∧
  (∀ (s : State) (st : StepInfo), s.cur < 288 → st.part < 64 → s.cc.ctrl.handler = true → s.cc.recRestart = true → s.cc.step = some st →
    (s.part st.part).readyFull = false →
    ∃ t st', exec .tret s = .next t ∧ t.cc.status = .free ∧ t.cc.step = none ∧ t.cc.ctrl.handler = false ∧
      (t.part st.part).restarts = (s.part st.part).restarts ++ [st'] ∧ (t.part st.part).ready = .restart st.order :: (s.part st.part).ready ∧
      st'.node = st.node ∧ st'.number = st.number ∧ st'.entry = st.entry ∧ st'.args = st.args ∧ st'.elapsed = 0)

/-- In step mode TRAPACK and TRET take PRIV, and CRWR takes it wherever the register may not be written: nothing of them commits (R105,
R133, R233, R237, R242). -/
def Obligations.PrivilegedFormsTakePriv : Prop :=
  ∀ (s : State) (i : Instr) (field : Nat), s.cc.flow.checked = false → Unpending i s.cc → LandsAlone i s.cc →
    ((i = .trapack ∨ i = .tret) ∧ field = 2 ∧ s.cc.ctrl.handler = false ∨
      (∃ n a, i = .crwr n a ∧ field = 5 ∧ ¬ writable s.cc n.toNat)) →
    exec i s = .next (s.takeTrapOn s.cur (oneSlot s.cc .priv field 0))

/-- A scratchpad form of the S, L or W slots, or ADOTM of the A slot, at an address that is no multiple of its alignment takes ALIGN, and one
that is aligned and runs past the 2 MiB takes PERM, with the address in VA: nothing of it commits (R189, R196, R197, R233, R237, R281, R282). -/
def Obligations.ScratchpadFaultsAreTaken : Prop :=
  ∀ (s : State) (i : Instr) (x : W64), spadAddress s.cc i = some x → s.cc.flow.checked = false → Unpending i s.cc → LandsAlone i s.cc →
    let field := match i with | .ldv _ _ _ _ | .stv _ _ _ _ | .adotm _ _ _ _ => 5 | _ => 4
    (x.toNat % (spadSize i).2 ≠ 0 → exec i s = .next (s.takeTrapOn s.cur (oneSlot s.cc .align field (x.setWidth 60)))) ∧
    (x.toNat % (spadSize i).2 = 0 → 2 ^ 21 < x.toNat + (spadSize i).1 →
      exec i s = .next (s.takeTrapOn s.cur (oneSlot s.cc .perm field (x.setWidth 60))))

/-! ## Taking a trap (R235, R240, R244) -/

namespace Sys2Proof.Claims

/-- The first word of a trap record: CAUSE in [63:56], HDR 55, TOKEN 54, RESTART 53, the logical core in [52:44], the physical core in
[43:35], the slots in [34:23], FETCH 22, ENDED 21 (R235). -/
def recordWord0 (t : TrapInfo) (code g logical : Nat) : W64 :=
  BitVec.ofNat 64 (code * 2 ^ 56 + (if t.hdr then 2 ^ 55 else 0) + (if t.token then 2 ^ 54 else 0) + (if t.restart then 2 ^ 53 else 0) +
    logical % 512 * 2 ^ 44 + g % 512 * 2 ^ 35 + t.slots.toNat * 2 ^ 23 + (if t.fetch then 2 ^ 22 else 0) + (if t.ended then 2 ^ 21 else 0))

end Sys2Proof.Claims

/-- The words of a trap record hold the fields of R235 in their places. -/
def Obligations.TrapRecordsHoldTheirFields : Prop :=
  ∀ (t : TrapInfo) (g logical : Nat) (time : W64),
    let w := CoreSt.trapWords t g logical time
    w[0] = recordWord0 t (CoreSt.causeCode t.cause) g logical ∧
    w[1].toNat = t.info.toNat * 2 ^ 48 + t.fields.toNat ∧ w[2].toNat = t.bundle.toNat ∧ w[3].toNat = t.resume.toNat ∧
    w[4].toNat = t.va.toNat ∧ w[5] = t.sched ∧
    w[6].toNat = t.kind.toNat * 2 ^ 60 + t.unit.toNat * 2 ^ 52 + t.row.toNat * 2 ^ 36 + t.col.toNat * 2 ^ 20 + t.tok.toNat ∧ w[7] = time

/-- R240: entering a trap with the record free and a handler set writes and freezes the record, suspends the step's loop levels, loses
every latch, sets handler mode, sets the held operations aside and puts the program counter at cr.tvec, whose group issues 8 cycles
later or, by a free value, more (R424; log entry 81); registers, predicates and the scratchpad keep what has landed. -/
def Obligations.TrapEntryGoesToTheHandler : Prop :=
  ∀ (s : State) (g : Nat) (t : TrapInfo), g < 288 → (s.core g).ctrl.frozen = false → (s.core g).ctrl.tvec ≠ 0 →
    (s.core g).flow.flight = [] →
    let c := (s.enterTrap g t).core g
    c.status = .running ∧ c.pc = (s.core g).ctrl.tvec.setWidth 60 ∧ 8 ≤ c.flow.empty ∧ c.flow.empty = 8 + Config.freeEntry s.tick ∧
    c.ctrl = { (s.core g).ctrl with
      trec := CoreSt.trapWords t g (s.core g).logical s.time, frozen := true, handler := true } ∧
    c.flow.loops = [] ∧ c.flow.suspended = (s.core g).flow.suspended ++ (s.core g).flow.loops ∧
    c.files.slLost = .allOnes 8 ∧ (∀ k, k < 8 → (c.clus k).lost = .allOnes 8) ∧
    c.flow.mem = [] ∧ c.flow.memHeld = (s.core g).flow.memHeld ++ (s.core g).flow.mem ∧
    c.flow.mq = [] ∧ c.flow.mheld = (s.core g).flow.mheld ++ (s.core g).flow.mq ∧
    c.dom.ops = [] ∧ c.dom.held = (s.core g).dom.held ++ (s.core g).dom.ops ∧
    c.flow.xq = [] ∧ c.flow.xheld = (s.core g).flow.xheld ++ (s.core g).flow.xq ∧
    c.files.s = (s.core g).files.s ∧ c.files.p = (s.core g).files.p ∧ c.files.spad = (s.core g).files.spad

/-- R244: a trap entered while the record is frozen halts the core: the trap record keeps the first trap, the halt record describes the
new one with CAUSE HANDLERLOST and its own code in INFO, and the core holds all of its state and its held operations. -/
def Obligations.ATrapOnAFrozenRecordHalts : Prop :=
  ∀ (s : State) (g : Nat) (t : TrapInfo), g < 288 → (s.core g).ctrl.frozen = true → (s.core g).flow.flight = [] →
    let h : TrapInfo := { t with cause := .handlerLost, info := BitVec.ofNat 16 (CoreSt.causeCode t.cause) }
    let ctrl : Ctrl := { (s.core g).ctrl with halt := CoreSt.trapWords h g (s.core g).logical s.time }
    (s.enterTrap g t).core g = { s.core g with status := .halted, reached := .none, ctrl := ctrl }

/-- A trap with no handler (cr.tvec 0) halts the core with a halt record of CAUSE and INFO alone, and a halted core issues nothing: a cycle
of it leaves its status, its program counter and the group it reached (R240, R244). -/
def Obligations.HaltsAreFinal : Prop :=
  (∀ (s : State) (g : Nat) (t : TrapInfo), g < 288 → (s.core g).ctrl.frozen = false → (s.core g).ctrl.tvec = 0 →
    ((s.enterTrap g t).core g).status = .halted ∧
    vget 0 ((s.enterTrap g t).core g).ctrl.halt 0 = 0x3000000000000000 ∧
    vget 0 ((s.enterTrap g t).core g).ctrl.halt 1 = BitVec.ofNat 64 (CoreSt.causeCode t.cause * 2 ^ 48) ∧
    (∀ k, 2 ≤ k → vget 0 ((s.enterTrap g t).core g).ctrl.halt k = 0)) ∧
  (∀ (s : State) (g : Fin 288), (s.core g).status = .halted →
    ((s.coreCycle g).core g).status = .halted ∧ ((s.coreCycle g).core g).pc = (s.core g).pc ∧
    ((s.coreCycle g).core g).reached.grp = (s.core g).reached.grp)

/-! ## The ordering machine (R289 to R293) -/

namespace Sys2Proof.Claims

/-- The destination of an atomic or barrier operation. -/
def wordDst : Instr → Option SDst
  | .amoadd d _ _ _ | .amoswp d _ _ _ | .amocas d _ _ _ | .amomin d _ _ _ | .amomax d _ _ _ | .amoand d _ _ _ | .amoor d _ _ _
  | .binit d _ _ _ | .arrive d _ _ _ => some d
  | _ => none

/-- The word that an atomic writes over the old word o, from its operands b and c (R284). -/
def atomicWord (o b c : W64) : Instr → Option W64
  | .amoadd _ _ _ _ => some (o + b)
  | .amoswp _ _ _ _ => some b
  | .amocas _ _ _ _ => some (if o = c then b else o)
  | .amomin _ _ _ _ => some (if o.toInt ≤ b.toInt then o else b)
  | .amomax _ _ _ _ => some (if o.toInt ≤ b.toInt then b else o)
  | .amoand _ _ _ _ => some (o &&& b)
  | .amoor _ _ _ _ => some (o ||| b)
  | _ => none

/-- The words of a barrier object (R285): EXPECTED [15:0], COUNT [31:16], PHASE [35:32], OVR 36, VALID 37, OVERRUNS [47:40]. -/
def barrierWord (expected count phase ovr overruns : Nat) : W64 :=
  BitVec.ofNat 64 (expected + 2 ^ 16 * count + 2 ^ 32 * phase + 2 ^ 36 * ovr + 2 ^ 37 + 2 ^ 40 * overruns)

end Sys2Proof.Claims

/-- READ of the head of a core's queue takes 64 bytes of the view of the core's die: no view and no clock changes, the line joins what
the operation has read, and no register changes before its last line; READ of a copy command's source keeps the line for its write; an A bit
that the access owes is set by a step before it (R163, R271, R293, R295). -/
def Obligations.ReadsTakeALineOfTheView : Prop :=
  (∀ (s t : State) (g : Nat) (q : QOp) (x : Xlated) (home : Option Nat), g < 288 →
    (s.core g).headOp = some q → q.reads = true → q.done < q.lines → (s.core g).loadWaits q = false →
    s.access g q.lineVa needR .scratchpads = .ok t x → x.loc = .mem home →
    ∃ u, exec (.read g false) s = .next u ∧ u.ord.mem = t.ord.mem ∧ u.ord.keys = t.ord.keys ∧ u.ord.vc = t.ord.vc ∧
      (q.done + 1 < q.lines → (u.core g).files = (s.core g).files ∧
        (u.core g).flow.mem = q.take (t.ord.readView (Config.dieOf g) x.pa 64) :: (s.core g).flow.mem.tail)) ∧
  (∀ (s t : State) (g : Nat) (x : XCmd) (y : Xlated) (home : Option Nat), g < 288 →
    (s.core g).headCopy = some x → x.pipe = false → x.line = none → s.access g x.srcVa needR .scratchpads = .ok t y → y.loc = .mem home →
    ∃ u, exec (.read g true) s = .next u ∧ u.ord = t.ord ∧ (u.core g).files = (s.core g).files ∧
      (u.core g).flow.xq = { x with buf := some (ofBytes 512 (t.ord.readView (Config.dieOf g) y.pa 64)), portAt := none } ::
        (s.core g).flow.xq.tail) ∧
  (∀ (s t : State) (g : Nat) (q : QOp), g < 288 → (s.core g).headOp = some q → q.reads = true → q.done < q.lines →
    s.access g q.lineVa needR .scratchpads = .updated t → exec (.read g false) s = .next t)

/-- WRITE of a line, of a queue operation or of a copy command, performs it at the die of the core and nowhere else yet; a copy command
writes on only what ports have served it once the clock of its die covers theirs (R291, R293, R295).
R291: performing a write advances the die's own clock entry by one, appends the write with that stamp to the die's log and to each of its
channels, places each of its bytes, at distinct addresses, where its key is the greater, and leaves every other die's clock, log and view as they were. Its key is the sum of its stamp with its die; keys are ordered
first by sum and then by die, the initial key lies below that of every write performed while the die's 64-bit entry does not wrap, and a stamp at least another's in every entry
and greater in one has the greater key (R291, R293). -/
def Obligations.WritesPerformAtTheirDieAndAreStamped : Prop :=
  (∀ (s t : State) (g : Nat) (q : QOp) (x : Xlated) (home : Option Nat), g < 288 →
    (s.core g).headOp = some q → q.writes = true → q.done < q.lines → s.access g q.lineVa needW .windows = .ok t x → x.loc = .mem home →
    ∃ u, exec (.write g false) s = .next u ∧ u.ord = t.ord.perform (Config.dieOf g) (cellsAt x.pa q.lineBytes) ∧
      (u.core g).files = (s.core g).files ∧
      (q.done + 1 < q.lines → (u.core g).flow.mem = { q with done := q.done + 1, portAt := none } :: (s.core g).flow.mem.tail)) ∧
  (∀ (s t : State) (g : Nat) (x : XCmd) (y : Xlated) (l : W512) (home : Option Nat), g < 288 →
    (s.core g).headCopy = some x → x.pipe = false → x.line = some l → s.covered g x.served = true →
    s.access g x.dstVa needW .windows = .ok t y → y.loc = .mem home →
    ∃ u, exec (.write g true) s = .next u ∧ u.ord = t.ord.perform (Config.dieOf g) (cellsAt y.pa (bytesOf 64 l)) ∧
      (u.core g).files = (s.core g).files ∧
      (u.core g).flow.xq = { x with buf := none, bytes := x.bytes + 64, portAt := none } :: (s.core g).flow.xq.tail) ∧
  (∀ (o : Order) (d : Nat) (bs : List (Nat × Byte)), d < 4 →
    let u := o.perform d bs
    let stamp : Clock := vset (o.dieClock d) d (vget 0 (o.dieClock d) d + 1)
    let w : Wr := { die := d, stamp := stamp, bytes := bs }
    u.dieClock d = stamp ∧ vget [] u.log d = vget [] o.log d ++ [w] ∧
    (∀ j, j < 4 → j ≠ d → u.dieClock j = o.dieClock j ∧ vget [] u.log j = vget [] o.log j ∧ u.view j = o.view j ∧
      u.viewKeys j = o.viewKeys j ∧ vget [] u.chan (4 * d + j) = vget [] o.chan (4 * d + j) ++ [w]) ∧
    (∀ i j, i < 4 → j < 4 → i ≠ d → vget [] u.chan (4 * i + j) = vget [] o.chan (4 * i + j)) ∧
    u.buf = o.buf ∧ u.lclock = o.lclock ∧ u.waiting = o.waiting ∧ u.ingress = o.ingress ∧ u.host = o.host ∧ u.sent = o.sent ∧
    (amWf 0 (o.view d) = true → ∀ a, (∀ c ∈ bs, c.1 ≠ a) → amGet 0 (u.view d) a = amGet 0 (o.view d) a) ∧
    ((bs.map Prod.fst).Nodup → amWf 0 (o.view d) = true → amWf Order.keyZero (o.viewKeys d) = true → ∀ a b, (a, b) ∈ bs →
      Order.keyLt (amGet Order.keyZero (o.viewKeys d) a) { sum := clkSum stamp, die := d, own := clk stamp d } = true →
      amGet 0 (u.view d) a = b ∧ amGet Order.keyZero (u.viewKeys d) a = { sum := clkSum stamp, die := d, own := clk stamp d }) ∧
    (clk (o.dieClock d) d + 1 < 2 ^ 64 →
      Order.keyLt Order.keyZero { sum := clkSum stamp, die := d, own := clk stamp d } = true)) ∧
  (∀ a b : ByteKey, Order.keyLt a b = true ↔ a.sum < b.sum ∨ (a.sum = b.sum ∧ a.die < b.die)) ∧
  (∀ (a b : Clock) (c d : Nat), (∀ k, k < 4 → clk a k ≤ clk b k) → (∃ k, k < 4 ∧ clk a k < clk b k) →
    Order.keyLt { sum := clkSum a, die := c, own := clk a c } { sum := clkSum b, die := d, own := clk b d } = true)

/-- SEND puts the atomic at the head of a queue before the arbiter of its line, and ARBITRATE performs a waiting one: the words replace
the old ones in the view of the core's die, the line's clock becomes the die's, the result is written, and the operation leaves its
queue (R284, R293).
An atomic writes the word of R284 and returns the old one; BINIT sets a barrier object up, and ARRIVE counts, ends a phase and
reports an overrun (R284 to R287). -/
def Obligations.AtomicsAreSentArbitratedAndPerformed : Prop :=
  (∀ (s t : State) (g : Nat) (q : QOp) (x : Xlated) (home : Option Nat), g < 288 →
    (s.core g).headOp = some q → q.reads = false → q.writes = false → q.sent = false → q.done = 0 →
    s.access g q.lineVa needRW .scratchpads = .ok t x → x.loc = .mem home →
    ∃ u, exec (.send g) s = .next u ∧
      u.ord = { t.ord with waiting := t.ord.waiting ++ [{ core := g, line := x.pa / 64, dec := none }] } ∧
      (u.core g).flow.mem = { q with sent := true } :: (s.core g).flow.mem.tail) ∧
  (∀ (s : State) (i g line : Nat) (q : QOp) (qs : List QOp) (dst : SDst), g < 288 →
    s.ord.waiting[i]? = some { core := g, line := line, dec := none } → (s.core g).flow.mem = q :: qs → q.sent = true → q.stuck = false →
    clkGe (s.ord.dieClock (Config.dieOf g)) (s.ord.lineClock line) = true → wordDst q.op = some dst →
    let pa := 64 * line + q.addr.toNat % 64
    let r := wordOp q (s.ord.readView (Config.dieOf g) pa (wordSize q.op)) s.time
    ∃ u, exec (.arbitrate i) s = .next u ∧
      u.ord = { s.ord.arbitrated (Config.dieOf g) pa r.1 with waiting := s.ord.waiting.eraseIdx i } ∧
      (u.core g).flow.mem.length = qs.length ∧ (dst ≠ .reg 0 → (u.core g).old dst = r.2.1)) ∧
  (∀ (q : QOp) (old : List Byte) (time n : W64), atomicWord (ofBytes 64 (old.take 8)) q.b q.c q.op = some n →
    wordOp q old time = ((List.range 8).map (fun k => elem 8 k n), ofBytes 64 (old.take 8), 0)) ∧
  (∀ (q : QOp) (d : SDst) (a b : SSrc) (w : BitVec 3) (old : List Byte) (time : W64), q.op = .binit d a b w →
    wordOp q old time = (bytesOf 8 (BitVec.ofNat 64 (q.b.toNat % 2 ^ 16 + 2 ^ 32 * (q.b.toNat / 2 ^ 16 % 16) +
      (if q.b.toNat % 2 ^ 16 = 0 then 0 else 2 ^ 37)) : W64) ++ bytesOf 8 time, ofBytes 64 (old.take 8), 0)) ∧
  (∀ (q : QOp) (d : SDst) (a : SSrc) (n : BitVec 4) (w : BitVec 3) (old : List Byte) (time : W64)
      (expected count phase ovr overruns : Nat), q.op = .arrive d a n w → q.b = n.setWidth 64 → expected < 2 ^ 16 → count < 2 ^ 16 →
    phase < 16 → ovr < 2 → overruns < 256 → (ofBytes 64 (old.take 8) : W64) = barrierWord expected count phase ovr overruns →
    (count + n.toNat < expected →
      wordOp q old time = (bytesOf 8 (barrierWord expected (count + n.toNat) phase ovr overruns) ++ old.drop 8,
        BitVec.ofNat 64 (phase + 16 + 2 ^ 16 * (count + n.toNat)), 0)) ∧
    (count + n.toNat = expected →
      wordOp q old time = (bytesOf 8 (barrierWord expected 0 ((phase + 1) % 16) ovr overruns) ++ bytesOf 8 time,
        BitVec.ofNat 64 (phase + 16 + 32), 0)) ∧
    (expected < count + n.toNat →
      wordOp q old time = (bytesOf 8 (barrierWord expected 0 ((phase + 1) % 16) 1 (min (overruns + 1) 255)) ++ bytesOf 8 time,
        BitVec.ofNat 64 (phase + 32), .bovr)))

namespace Sys2Proof.Claims

/-- A port serves now an access to an offset of its scratchpad: none waits there, and neither the cycle's other port accesses nor the
core's own use the bank (R275, R276). -/
def PortFree (s : State) (p off : Nat) : Prop :=
  s.portWaiting p = [] ∧ (s.core p).flow.portBusy.getLsbD (off / 64 % 16) = false ∧ off / 64 % 16 ∉ (s.core p).localBanks

end Sys2Proof.Claims

/-- PORT at a scratchpad that is free writes the next line of a store at once and no other byte, and reads the next line of a load; it writes the
line that a copy command holds, and notes the clock of the port's die, which the command's completion has to cover; DEPOSIT
puts a store's line behind the entries of its target's die; DRAIN applies the next entry that a window bundle has taken, where it has met no
uncorrectable error (R367): it leaves its die's buffer, and a deposit's bytes go into the core's window, whose axis registers are checked after the window's last entry (R56, R181, R276 to
R278, R293).
HOSTOP sends a store's line to the host and reads a load's line from the host's memory; OBSERVE makes a sent line's bytes the
host's, where no earlier line of that core and address still waits (R288, R293). -/
def Obligations.PortsDepositsDrainsAndHostLines : Prop :=
  (∀ (s t : State) (g p off : Nat) (q : QOp) (x : Xlated) (v : Clock), g < 288 → p < 288 →
    (s.core g).headOp = some q → q.done < q.lines → q.writes = true → q.vc = some v → clkGe (s.ord.dieClock (Config.dieOf p)) v = true →
    s.access g q.lineVa needW .windows = .ok t x → x.loc = .port p off → PortFree t p off →
    ∃ u, exec (.port g false) s = .next u ∧ u.ord = t.ord ∧
      (u.core p).files.spad = ((s.core p).spadWrite off q.lineBytes).files.spad ∧
      (∀ h, h ≠ p → (u.core h).files.spad = (s.core h).files.spad)) ∧
  (∀ (s t : State) (g p off : Nat) (q : QOp) (x : Xlated), g < 288 → p < 288 →
    (s.core g).headOp = some q → q.reads = true → q.done + 1 < q.lines → s.access g q.lineVa needR .scratchpads = .ok t x →
    x.loc = .port p off → PortFree t p off →
    ∃ u, exec (.port g false) s = .next u ∧ u.ord = t.ord ∧ (∀ h, (u.core h).files = (s.core h).files) ∧
      (u.core g).flow.mem = { q.take ((s.core p).spadRead off 64) with served := t.servedAt p q.served } :: (s.core g).flow.mem.tail) ∧
  (∀ (s t : State) (g p off : Nat) (x : XCmd) (l : W512) (y : Xlated), g < 288 → p < 288 →
    (s.core g).headCopy = some x → x.pipe = false → x.line = some l →
    s.access g x.dstVa needW .windows = .ok t y → y.loc = .port p off → t.portClock g p x.vc = true → t.covered g x.served = true →
    PortFree t p off →
    ∃ u, exec (.port g true) s = .next u ∧ u.ord = t.ord ∧
      (u.core p).files.spad = ((s.core p).spadWrite off (bytesOf 64 l)).files.spad ∧
      (∀ h, h ≠ p → (u.core h).files.spad = (s.core h).files.spad) ∧
      (u.core g).flow.xq =
        { x with buf := none, bytes := x.bytes + 64, portAt := none, wrote := t.servedAt p x.wrote } :: (s.core g).flow.xq.tail) ∧
  (∀ (s t : State) (g p off : Nat) (q : QOp) (x : Xlated), g < 288 →
    (s.core g).headOp = some q → q.writes = true → q.done + 1 < q.lines → s.access g q.lineVa needW .windows = .ok t x →
    x.loc = .reg p off → t.ingressRoom p = true → t.underScrub p = false →
    ∃ v, exec (.deposit g false) s = .next v ∧
      vget [] v.ord.ingress (Config.dieOf p) = vget [] t.ord.ingress (Config.dieOf p) ++
        [{ core := p, host := false, addr := off, bytes := q.lineBytes, part := s.partOf g, va := none, stuck := false }] ∧
      (∀ h, (v.core h).files = (s.core h).files)) ∧
  (∀ (s : State) (g n : Nat) (e : Entry) (es : List Entry), g < 288 → (s.core g).reached.drain = some (n + 1) →
    s.ingressOf g = e :: es → (s.core g).mayApply e = true → e.stuck = false → e.host = false → e.va = none →
    let d := (s.core g).deposit e.addr e.bytes
    ∃ u, exec (.drain g) s = .next u ∧ (u.core g).reached.drain = some n ∧
      (n ≠ 0 → (u.core g).files = d.files) ∧ (n = 0 → (u.core g).files = (d.checkAxes d.reached.touched).files) ∧
      vget [] u.ord.ingress (Config.dieOf g) = (vget [] s.ord.ingress (Config.dieOf g)).eraseP (fun x => x.core == g)) ∧
  (∀ (s t : State) (g : Nat) (q : QOp) (x : Xlated), g < 288 →
    (s.core g).headOp = some q → q.writes = true → q.done < q.lines → s.access g q.lineVa needW .windows = .ok t x → x.loc = .host →
    let w : Sent := { core := g, copy := false, line := x.pa / 64, bytes := cellsAt x.pa q.lineBytes }
    ∃ v, exec (.hostop g false) s = .next v ∧ v.ord = { t.ord with sent := t.ord.sent ++ [w] }) ∧
  (∀ (s t : State) (g : Nat) (q : QOp) (x : Xlated), g < 288 →
    (s.core g).headOp = some q → q.reads = true → q.done + 1 < q.lines → s.access g q.lineVa needR .scratchpads = .ok t x →
    x.loc = .host →
    ∃ v, exec (.hostop g false) s = .next v ∧ v.ord = t.ord ∧ (v.core g).files = (s.core g).files ∧
      (v.core g).flow.mem = q.take (amRead s.ord.host x.pa 64) :: (s.core g).flow.mem.tail) ∧
  (∀ (s : State) (i : Nat) (w : Sent), s.ord.sent[i]? = some w →
    (∀ e ∈ s.ord.sent.take i, ¬ (e.core = w.core ∧ e.line = w.line)) →
    exec (.observe i) s = .next { s with ord := { s.ord with sent := s.ord.sent.eraseIdx i, host := amPut s.ord.host w.bytes } })

/-- R292: a write in an apply buffer applies exactly where its own entry is the next of its die and every other entry is covered. Then it
leaves the buffer, the die's clock takes its entry, and each of its bytes is placed where its key is greater: no view but that die's
changes, and a byte of a greater key stays. DELIVER moves the oldest write of a channel to the end of the apply buffer (R292, R293). -/
def Obligations.DeliverAndApplyTakeWritesInOrder : Prop :=
  (∀ (s : State) (i j : Nat) (w : Wr) (ws : List Wr), i < 4 → j < 4 → i ≠ j → vget [] s.ord.chan (4 * i + j) = w :: ws →
    exec (.deliver i j) s = .next { s with ord := { s.ord with
      chan := vset s.ord.chan (4 * i + j) ws, buf := vset s.ord.buf j (vget [] s.ord.buf j ++ [w]) } }) ∧
  (∀ (s : State) (j k : Nat) (w : Wr), j < 4 → (vget [] s.ord.buf j)[k]? = some w → w.die < 4 →
    let may := clk w.stamp w.die = clk (s.ord.dieClock j) w.die + 1 ∧
      ∀ i, i < 4 → i ≠ w.die → clk w.stamp i ≤ clk (s.ord.dieClock j) i
    (¬ may → exec (.apply j k) s = .refused (.notEnabled "APPLY")) ∧
    (may → ∃ o, exec (.apply j k) s = .next { s with ord := o } ∧
      vget [] o.buf j = (vget [] s.ord.buf j).eraseIdx k ∧
      o.dieClock j = vset (s.ord.dieClock j) w.die (vget 0 w.stamp w.die) ∧
      (∀ i, i < 4 → i ≠ j → o.view i = s.ord.view i ∧ o.dieClock i = s.ord.dieClock i) ∧
      (amWf 0 (s.ord.view j) = true → ∀ a, (∀ c ∈ w.bytes, c.1 ≠ a) → amGet 0 (o.view j) a = amGet 0 (s.ord.view j) a) ∧
      ((w.bytes.map Prod.fst).Nodup → amWf 0 (s.ord.view j) = true → amWf Order.keyZero (s.ord.viewKeys j) = true →
        ∀ a b, (a, b) ∈ w.bytes → amGet 0 (o.view j) a =
        (if Order.keyLt (amGet Order.keyZero (s.ord.viewKeys j) a) { sum := clkSum w.stamp, die := w.die, own := clk w.stamp w.die }
         then b else amGet 0 (s.ord.view j) a))))

/-! ## The copy engines (R295, R328, R345 to R351) -/

namespace Sys2Proof.Claims

/-- Every queue operation issued before a copy command has performed, but those that a trap entry set aside (R234, R295). -/
def EarlierDone (c : CoreSt) (x : XCmd) : Prop := ∀ q ∈ c.flow.mem, x.seq ≤ q.seq

/-- A command of XCPY or XGO. -/
def plainCopy : Instr → Prop
  | .xcpy _ _ _ _ | .xgo _ => True
  | _ => False

end Sys2Proof.Claims

/-- A copy command starts once every earlier queue operation has performed, and is complete once its bytes have moved and the clocks of the ports
that it read or wrote are covered: its token then counts one less, it leaves its engine, and its NODE's count is to be decremented, with the queue of
the step's block, or of a step without one, by the model's choice, the partition's first queue (log entry 17; R293, R295, R346, R351).
The hub copy engine reads the next line of the copy node it runs, from memory, into its buffer; a parked copy node that its
supervisor sets READY runs again (R328, R351). -/
def Obligations.CopyEnginesStartRunAndComplete : Prop :=
  (∀ (s : State) (g : Nat) (x : XCmd) (xs : List XCmd), g < 288 → (s.core g).flow.xq = x :: xs → x.started = false → x.fault = none →
    plainCopy x.op → x.len < 2 ^ 32 → EarlierDone (s.core g) x →
    ∃ u, exec (.copyCommandStart g) s = .next u ∧ u.ord = s.ord ∧
      (u.core g).flow.xq = { x with started := true, vc := some (s.ord.dieClock (Config.dieOf g)) } :: xs) ∧
  (∀ (s : State) (g : Nat) (x : XCmd) (xs : List XCmd), g < 288 → (s.core g).flow.xq = x :: xs → x.started = true → x.fault = none →
    plainCopy x.op → x.rows * x.len ≤ x.bytes → s.covered g x.served = true → s.covered g x.wrote = true → x.tok < 8 →
    ∃ u, exec (.copyCommandComplete g) s = .next u ∧ (u.core g).flow.xq = xs ∧
      ((u.core g).token x.tok).out = ((s.core g).token x.tok).out - 1 ∧
      (let q := match (s.core g).step.bind fun st => s.node? st.part st.node with
        | some n => n.queue
        | none => (s.part (s.partOf g)).inForce.qfirst.toNat
      let dec : HubDec := { part := s.partOf g, node := x.node, queue := q, die := Config.dieOf g, pred := none }
      u.ord = (if x.node = 0 then s.ord else
        { s.ord with waiting := s.ord.waiting ++ [{ core := 288, line := 0, dec := some dec }] }))) ∧
  (∀ (s t : State) (h : HubCopy) (n : Node) (y : Xlated) (home : Option Nat), s.hub.hubCopy = some h → s.node? h.part h.node = some n →
    n.progress < (nodeCmd n).total → (nodeCmd n).fill = false → h.buf = none → h.stuck = false →
    s.accessFor h.part none (some (s.nodeDie h.part h.node)) (nodeCmd n).srcVa needR .scratchpads = .ok t y → y.loc = .mem home →
    let k : HubCopy := { h with buf := some (ofBytes 512 (t.ord.readView (s.nodeDie h.part h.node) y.pa 64)) }
    exec (.copyNodeRun h.part) s = .next { t with hub := { t.hub with hubCopy := some k } }) ∧
  (∀ (s t : State) (p : Nat) (node : W64) (n : Node), p < 64 → s.node? p node = some n → n.parked = true →
    s.setStatus p none node stReady = .ok t →
    exec (.copyNodeResume p node) s = .next (t.onNode p node fun m => { m with parked := false }))

/-! ## Landings, fetches and units -/

/-- A result whose place in the landing order has come lands as a whole: a scalar write changes that register alone, and none where it names s0; a pair takes the result
and its complement, and none where it names p0 and p1; a vector write changes the masked bits of one register of one cluster, and its
disabled lanes keep what they held. Its flags go to the sticky record of its slot, and it is in flight no more; of a load under cr.compat that lands
before its own latency ends only that latency is left (R65, R70, R101, R102, R104, R139, R239; log entry 76). -/
def Obligations.ResultsLandInTheirRegisters : Prop :=
  ∀ (s : State) (g : Nat) (f : InFlight), g < 288 → (s.core g).flow.flight = [f] → f.due - f.lag ≤ (s.core g).flow.cyc → f.load = none →
    f.slot < 12 →
    let c := s.core g
    let landed (u : State) : Prop := exec (.resultLanding g) s = .next u ∧ u.ord = s.ord ∧ u.hub = s.hub ∧
      (u.core g).flow.flight = (if f.due ≤ c.flow.cyc then [] else [{ f with dests := [], writes := [], flags := 0, lag := 0 }]) ∧
      (u.core g).files.spad = c.files.spad ∧ (u.core g).files.t = c.files.t ∧
      (u.core g).ctrl.sticky = vset c.ctrl.sticky f.slot (stickyRaise (vget 0 c.ctrl.sticky f.slot) f.bundle f.flags)
    (∀ n x, f.writes = [.sreg n x] → n < 64 → ∃ u, landed u ∧ (u.core g).files.p = c.files.p ∧ (u.core g).files.cl = c.files.cl ∧
      (∀ m, m < 64 → (u.core g).sreg m = (if m = n ∧ n ≠ 0 then x else c.sreg m))) ∧
    (∀ k b, f.writes = [.pair k b] → k < 8 → ∃ u, landed u ∧ (u.core g).files.s = c.files.s ∧ (u.core g).files.cl = c.files.cl ∧
      (∀ m, m < 16 → (u.core g).pred m =
        (if k ≠ 0 ∧ m = 2 * k then b else if k ≠ 0 ∧ m = 2 * k + 1 then !b else c.pred m))) ∧
    (∀ i n x mask, f.writes = [.vreg i n x mask] → i < 8 → n < 32 → ∃ u, landed u ∧
      (u.core g).files.s = c.files.s ∧ (u.core g).files.p = c.files.p ∧
      (∀ b, b < 512 → ((u.core g).vreg i n).getLsbD b = (if mask.getLsbD b then x.getLsbD b else (c.vreg i n).getLsbD b)) ∧
      (∀ j m, j < 8 → m < 32 → ¬ (j = i ∧ m = n) → (u.core g).vreg j m = c.vreg j m))

/-- A core that may reach its next group fetches it: the group stands reached, with a further cycle for each 64 bytes beyond the first; one
that its loop buffer holds is reached at once, as the buffer holds it, whatever memory holds now; a fetch that does not translate is a trap
with FETCH, the address in VA and no slot; an A bit that the fetch owes to a page is set by a step before it (R53, R123, R124, R233, R237,
R271). A core does not reach a group whose bytes colmer has not bound (R5); that it holds there is the model's choice (log entry 105). -/
def Obligations.GroupsAreFetched : Prop :=
  ∀ (s : State) (g : Nat), g < 288 → (s.core g).fetches = true →
    (∀ va u, s.fetchOwed g = some va → s.touchX g va = some u → exec (.groupFetch g) s = .next u) ∧
    (∀ k va t u, s.fetchOwed g = none → (s.core g).buffered (s.core g).pc = none → s.fetchGroup g (s.core g).pcVa = .error (k, va) →
      s.touchPages g 4 (s.core g).pcVa (va.toNat - (s.core g).pc.toNat) = some t → t.touchFault g va = some u →
      let i : TrapInfo := { CoreSt.blankTrap k with
        fetch := true, bundle := (s.core g).pc, resume := (s.core g).pc, va := va, sched := (s.core g).flow.sched }
      exec (.groupFetch g) s = .next (u.takeTrapOn g i)) ∧
    (∀ x, s.fetchOwed g = none → (s.core g).buffered (s.core g).pc = none → s.fetchGroup g (s.core g).pcVa = .ok x →
      s.boundCode g (s.core g).pcVa x.len = false → exec (.groupFetch g) s = .refused (.notEnabled "GROUP_FETCH")) ∧
    (∀ x t, s.fetchOwed g = none → (s.core g).buffered (s.core g).pc = none → s.fetchGroup g (s.core g).pcVa = .ok x →
      s.boundCode g (s.core g).pcVa x.len = true → s.touchPages g 4 (s.core g).pcVa x.len = some t →
      ∃ u, exec (.groupFetch g) s = .next u ∧ u.ord = t.ord ∧ u.hub = t.hub ∧ (u.core g).reached.grp = some x ∧
        (u.core g).files = (t.core g).files ∧ (u.core g).pc = (t.core g).pc ∧ (u.core g).reached.fetchLeft = (x.len - 1) / 64) ∧
    (∀ x, (s.core g).pcHigh = 0 → (s.core g).buffered (s.core g).pc = some x →
      ∃ u, exec (.groupFetch g) s = .next u ∧ u.ord = s.ord ∧ u.hub = s.hub ∧
        (u.core g).reached = { (s.core g).reached with grp := some x, since := some s.time, fetchLeft := 0 } ∧
        (u.core g).files = (s.core g).files ∧ (u.core g).pc = (s.core g).pc)

/-- An idle matrix unit starts the next execution of its queue, one fewer is left of its command and the unit is busy from this cycle;
when the busy time has passed a command with none left completes, and its token counts one fewer (R158, R160 to R162).
The domain unit takes the head of its queue where it is idle, and an operation whose last execution has ended without a fault or a
failure leaves it: its token counts one fewer (R211, R212). -/
def Obligations.UnitsStartAndComplete : Prop :=
  (∀ (s : State) (g : Nat) (m : MCmd) (ms : List MCmd), g < 288 → (s.core g).flow.mrun = none → (s.core g).flow.mq = m :: ms →
    m.fault = none → CoreSt.mFault m.b m.op ((s.core g).mOperands m.op) = none →
    ∃ u r, exec (.matrixCommandStart g) s = .next u ∧ (u.core g).flow.mrun = some r ∧ r.start = (s.core g).flow.cyc ∧
      r.cmd = { m with left := m.left - 1 } ∧
      (u.core g).flow.mq = (if m.left - 1 = 0 then ms else { m with left := m.left - 1, k := m.k + 1 } :: ms) ∧
      (u.core g).files.t = (s.core g).files.t ∧ (u.core g).files.spad = (s.core g).files.spad) ∧
  (∀ (s : State) (g : Nat) (r : MRun), g < 288 → (s.core g).flow.mrun = some r → r.start + busyTime r.cmd.op ≤ (s.core g).flow.cyc →
    ∃ u, exec (.matrixCommandComplete g) s = .next u ∧ (u.core g).flow.mrun = none ∧
      (r.cmd.left = 0 → r.cmd.tok < 8 →
        (u.core g).token r.cmd.tok = { (s.core g).token r.cmd.tok with out := ((s.core g).token r.cmd.tok).out - 1 })) ∧
  (∀ (s : State) (g : Nat) (q : DOp) (qs : List DOp), g < 288 → (s.core g).dom.run = none → (s.core g).dom.ops = q :: qs →
    q.fault = none →
    let c := s.core g
    exec (.dOperationStart g) s = .next (s.setUnits g (Dom.begin1 { c with dom := { c.dom with ops := qs } } q c.flow.cyc))) ∧
  (∀ (s : State) (g : Nat) (r : DRun), g < 288 → (s.core g).dom.run = some r → r.until_ < (s.core g).flow.cyc →
    Dom.more (s.core g) r = false → r.fault = none → r.failed = false →
    ∃ u, exec (.dOperationComplete g) s = .next u ∧ (u.core g).dom.run = none ∧ (u.core g).dom.ops = (s.core g).dom.ops ∧
      (∀ w, r.op.tok = some w → w < 8 → ((u.core g).token w).out = ((s.core g).token w).out - 1 ∧
        ((u.core g).token w).failed = ((s.core g).token w).failed))

/-- A poll that has not ended within its 2^TMO ns ends with its pair false; a trap that is pending is entered once the queues of its core
have settled; a barrier of which every member has arrived releases every member (R127, R129, R240). -/
def Obligations.TimeoutsTrapEntriesAndBarriers : Prop :=
  (∀ (s : State) (g : Nat) (i : Instr) (p : BitVec 3) (a b : SSrc) (n : Nat) (tmo : BitVec 5) (t : W64), g < 288 →
    (i = .waitph p a b tmo ∨ i = .waitbit p a b tmo) → tmo ≠ 0 → n = 2 ^ tmo.toNat →
    (s.core g).reached.polling = some i → (s.core g).reached.since = some t → (s.core g).reached.polled = none →
    (s.core g).reached.pollFault = none → n ≤ (s.time - t).toNat →
    let c := s.core g
    let r : Reached := { c.reached with polled := some false, pollAt := none, pollPort := none }
    exec (.waitTimeout g) s = .next (s.setCore g { c with reached := r })) ∧
  (∀ (s : State) (g : Nat) (t : TrapInfo), g < 288 → (s.core g).status = .trapping t → (s.core g).settled = true →
    exec (.trapEntry g) s = .next (s.enterTrap g t)) ∧
  (∀ (s : State) (g : Nat) (sc : BitVec 3), g < 288 → (s.core g).barScope = some sc → (s.core g).reached.released = false →
    s.barReady g sc = true →
    ∃ u, exec (.barrierCompletion g) s = .next u ∧ u.ord = s.ord ∧ u.hub = s.hub ∧
      (∀ h ∈ s.barMembers g sc, (u.core h).reached.released = true) ∧
      (∀ h, h ∉ s.barMembers g sc → u.core h = s.core h))

/-! ## The scheduler (R318 to R335) -/

/-- A doorbell moves TAIL, and more entries than SIZE set STATE[3]; that the entries which the host writes from the old TAIL on come with the
doorbell's own event is the model's choice (log entry 35); a dequeue takes the
entry at HEAD of an enabled queue, which moves HEAD by one; a well-formed block that waits for predecessors and asks for no token is then held
as taken from that queue, with its successors and none of its steps dispatched, and is not ready (R318, R319, R322, R326). -/
def Obligations.DoorbellsFillAndDequeuesTake : Prop :=
  (∀ (s : State) (q : Nat) (tail : W32) (es : List W64), q < 65536 → amWf .reset s.hub.queues = true →
    let x := s.queue q
    let y : Queue := { x with
      ring := ringFill x.ring x.size.toNat x.tail.toNat es, tail := tail
      state := if x.size < tail - x.head then x.state ||| 8 else x.state }
    ∃ u, exec (.hostDoorbell q tail es) s = .next u ∧ u.queue q = y ∧ u.cores = s.cores ∧ u.ord = s.ord ∧
      (∀ p, u.part p = s.part p)) ∧
  (∀ (s t : State) (q : Nat), (s.queue q).enabled = true → (s.queue q).faulted = false → (s.queue q).count ≠ 0 →
    (s.part (s.queue q).part).purged = false → (s.part (s.queue q).part).resetting = none →
    (s.part (s.queue q).part).ready.length < 4096 →
    let s' := s.swapIn q
    let va := amGet 0 (s.queue q).ring ((s.queue q).head.toNat % max 1 (s.queue q).size.toNat)
    (s'.onQueue q fun x => { x with head := x.head + 1, lastuse := s'.time }).takeNode (s.queue q).part q va false = .ok t →
    exec (.dequeue q) s = .next t) ∧
  (∀ (s t u v : State) (q : Nat) (b : List Byte) (succs : List W64), (s.queue q).enabled = true → (s.queue q).faulted = false →
    (s.queue q).count ≠ 0 → (s.queue q).part < 64 → (s.part (s.queue q).part).purged = false →
    (s.part (s.queue q).part).resetting = none → (s.part (s.queue q).part).ready.length < 4096 →
    let s' := s.swapIn q
    let p := (s.queue q).part
    let va := amGet 0 (s.queue q).ring ((s.queue q).head.toNat % max 1 (s.queue q).size.toNat)
    va.toNat % 256 = 0 →
    (s'.onQueue q fun x => { x with head := x.head + 1, lastuse := s'.time }).hubGet p none 5 va 256 = .ok (b, t) →
    t.setStatus p none va stWaiting = .ok u → u.blockCheck p b = .ok ((0, succs), v) → blkFlag b 1 = false → blkCopy b = false →
    fld b 4 2 ≠ 0 →
    ∃ w n, exec (.dequeue q) s = .next w ∧ w.node? p va = some n ∧ n.block = b ∧ n.queue = q ∧ n.succs = succs ∧ n.next = 0 ∧
      n.total = blkTotal b ∧ n.gate = none ∧ w.cores = v.cores ∧ w.ord = v.ord ∧ (w.part p).ready = (v.part p).ready)

namespace Sys2Proof.Claims

/-- The only entry of a partition's ready list is a block without a gang and without TILEDEP that has dispatched a step before and has
one left, whose entry lies in the image that colmer has bound; its queue may be served and is the one whose turn it is, and the partition's
slice has not ended (R5, R331, R333, R336). -/
structure OneBlockReady (s : State) (p : Nat) (b : Node) : Prop where
  served : s.placesNow p = true ∧ (s.part p).staticRun = false ∧ (s.part p).reserve = none ∧ (s.part p).missing = []
  bound : (s.part p).entryOk (fldW b.block 8) = true
  entry : (s.part p).ready = [.node b.addr] ∧ s.node? p b.addr = some b ∧ b.part = p
  more : b.copy = false ∧ 0 < b.next ∧ b.next < b.total ∧ blkFlag b.block 2 = false ∧ blkFlag b.block 3 = false
  queue : (s.queue b.queue).enabled = true ∧ (s.queue b.queue).faulted = false ∧ (s.queue b.queue).evicted = false
  turn : vget none (s.part p).rr (s.queue b.queue).prio = some b.queue ∧ 0 < (s.queue b.queue).deficit

end Sys2Proof.Claims

/-- A dispatch places the step whose turn it is: a step of a block without a gang takes the one core named, which loads for 64 cycles with
the block's arguments, its coordinates and the step's number, and the block counts one more step dispatched; no other core and no memory
changes. In general the entry that the scheduler chooses is placed. With too few free cores for a gang the free ones are reserved for it
(R37, R39, R42, R47, R331 to R333). -/
def Obligations.DispatchPlacesTheChosenStep : Prop :=
  (∀ (s : State) (p g : Nat) (b : Node), g < 288 → p < 64 → OneBlockReady s p b → g ∈ s.freeCores p → (s.core g).dbg.trstep = false →
    ∃ u st, exec (.dispatch p [g]) s = .next u ∧ (u.core g).status = .loading 64 ∧ (u.core g).step = some st ∧
      (u.core g).pc = (s.part p).mapAddr (s.core g).classB ((fldW b.block 8).setWidth 60) ∧
      st.part = p ∧ st.node = b.addr ∧ st.number = BitVec.ofNat 64 b.next ∧ st.coords = blkCoords b.block b.next ∧
      (∀ k, k < 8 → vget 0 st.args k = fldW b.block (0x40 + 8 * k)) ∧ st.isStatic = false ∧ st.member = none ∧ st.elapsed = 0 ∧
      u.node? p b.addr = some { b with next := b.next + 1 } ∧ u.ord = s.ord ∧ (∀ h, h ≠ g → u.core h = s.core h)) ∧
  (∀ (s t u : State) (p g : Nat) (k : Key) (b : Node), g < 288 → p < 64 → b.part = p → s.placesNow p = true →
    s.freeCores p ≠ [] → s.choose p = (t, some (k, .block b)) → t.coresOk p [g] = true → t.freeCores p ≠ [] →
    t.gangDesc b = none → t.placeBlock b [g] = .ok u →
    exec (.dispatch p [g]) s = .next u) ∧
  (∀ (s t : State) (p : Nat) (k : Key) (b : Node), p < 64 → s.placesNow p = true → s.freeCores p ≠ [] →
    s.choose p = (t, some (k, .block b)) → (t.freeCores p).length < t.membersOf b → (t.part p).reserve = none →
    exec (.dispatch p []) s = .next (t.onPart p fun pt => { pt with reserve := some (b.addr, t.time) })) ∧
  (∀ (s : State) (g : Nat) (st : StepInfo), g < 288 → st.part < 64 → (s.core g).dbg.trstep = false →
    let c := (s.launch g st).core g
    c.status = .loading 64 ∧ c.step = some { st with order := (s.part st.part).orders, place := g } ∧
    c.pc = (s.part st.part).mapAddr (s.core g).classB st.entry ∧ c.dom.table = [] ∧ c.dom.queue = [] ∧ c.flow.mem = [] ∧
    c.flow.loops = [] ∧ c.files.slLost = .allOnes 8)

/-- When the load of the launch ABI ends the step runs: s1 holds the node, s2 to s7 the coordinates, s8 the step's number, s9 the logical
core, s10 to s17 the arguments; every other scalar register stays. A reserved gang that has waited 20 µs gives its cores up, and its
entry drops behind the next entry of its queue (R39, R47, R332).
A static launch starts on every core of an idle partition whose start vector is well formed, with its entries in the bound image: each loads
with its own entry and the vector's arguments, and STATE of SVSTAT is 1 (R5). Where a step is resident or a ready list is not empty it is BUSY, and a record that is not well formed
gives MALFORMED (R43, R364); it waits for a binding whose writes are not yet applied everywhere (R340). That it is BUSY too where the partition is
idle but may place no step (no image bound, or a reset or a scrub of it: `places` is false; a slice that has ended) or has an entry outside its
image, and that an address that is no multiple of 64 gives MALFORMED, are the model's choice (log entry 75). -/
def Obligations.LaunchesLoadTheAbi : Prop :=
  (∀ (s : State) (g : Nat) (st : StepInfo), g < 288 → (s.core g).status = .loading 0 → (s.core g).step = some st → st.gated = false →
    st.isStatic = false →
    ∃ u, exec (.launchAbiLoadEnd g) s = .next u ∧ (u.core g).status = .running ∧ u.ord = s.ord ∧ u.hub = s.hub ∧
      (∀ n, n < 64 → (u.core g).sreg n =
        (if n = 1 then st.node else if 2 ≤ n ∧ n ≤ 7 then vget 0 st.coords (n - 2) else if n = 8 then st.number
         else if n = 9 then BitVec.ofNat 64 (s.core g).logical else if 10 ≤ n ∧ n ≤ 17 then vget 0 st.args (n - 10)
         else (s.core g).sreg n))) ∧
  (∀ (s : State) (p : Nat) (va t : W64), p < 64 → (s.part p).reserve = some (va, t) → 20000 ≤ (s.time - t).toNat →
    ∃ u, exec (.gangReservationExpiry p) s = .next u ∧ (u.part p).reserve = none ∧ u.ord = s.ord ∧
      (∀ g, g < 288 → (u.core g).files = (s.core g).files ∧ (g ∈ s.partCores p → (u.core g).resvCyc = 0)) ∧
      (∀ (n m : Node), (s.part p).ready = [.node va, .node m.addr] → s.node? p va = some n → s.node? p m.addr = some m →
        va ≠ m.addr → n.queue = m.queue → s.offerable p (.block n) = true → gateHolds n = false →
        (u.part p).ready = [.node m.addr, .node va])) ∧
  (∀ (s t : State) (p : Nat) (va : W64) (b : List Byte), p < 64 → s.svReady p = true →
    (∀ g ∈ s.partCores p, (s.core g).dbg.trstep = false) → va.toNat % 64 = 0 →
    s.hubTry p va (0x48 + 8 * (s.partCores p).length) = .ok (some b, t) → fld b 0 2 = (s.partCores p).length →
    zeroAt b 2 6 = true → (∀ k, k < (s.partCores p).length → fld b (0x48 + 8 * k) 8 % 4 = 0) →
    (∀ k, k < (s.partCores p).length → (s.part p).entryOk (fldW b (0x48 + 8 * k)) = true) →
    (∀ g, (t.core g).dbg = (s.core g).dbg ∧ (t.core g).classB = (s.core g).classB ∧ (t.core g).logical = (s.core g).logical) →
    t.partCores p = s.partCores p → (t.part p).image = (s.part p).image →
    ∃ u, exec (.startVectorWrite p va) s = .next u ∧ (u.part p).staticRun = true ∧ (u.part p).svstat = 1 ∧
      (∀ g ∈ s.partCores p, ∃ st, (u.core g).status = .loading 64 ∧ (u.core g).step = some st ∧ st.isStatic = true ∧
        (u.core g).pc = (s.part p).mapAddr (s.core g).classB ((fldW b (0x48 + 8 * (s.core g).logical)).setWidth 60) ∧
        (∀ k, k < 8 → vget 0 st.args k = fldW b (8 + 8 * k)))) ∧
  (∀ (s t : State) (p : Nat) (va : W64), p < 64 → s.startVector p va = .ok t → exec (.startVectorWrite p va) s = .next t) ∧
  (∀ (s : State) (p : Nat) (va : W64), p < 64 → s.bindApplied p = false →
    exec (.startVectorWrite p va) s = .refused (.notEnabled "START_VECTOR_WRITE")) ∧
  (∀ (s : State) (p : Nat) (va : W64), p < 64 → s.bindApplied p = true →
    ((∃ g ∈ s.partCores p, (s.core g).status ≠ .free) ∨ (s.part p).ready ≠ [] ∨ (s.part p).staticRun = true ∨
      s.placesNow p = false) →
    exec (.startVectorWrite p va) s = .next (s.onPart p fun pt => { pt with svstat := pt.svstat ||| 256 })) ∧
  (∀ (s t : State) (p : Nat) (va : W64) (b : List Byte), p < 64 → s.svReady p = true → va.toNat % 64 = 0 →
    s.hubTry p va (0x48 + 8 * (s.partCores p).length) = .ok (some b, t) →
    let good := fld b 0 2 = (s.partCores p).length ∧ zeroAt b 2 6 = true ∧
      ∀ k, k < (s.partCores p).length → fld b (0x48 + 8 * k) 8 % 4 = 0
    (¬ good → exec (.startVectorWrite p va) s = .next (t.onPart p fun pt => { pt with svstat := 5 })) ∧
    (good → (∃ k, k < (s.partCores p).length ∧ (s.part p).entryOk (fldW b (0x48 + 8 * k)) = false) →
      exec (.startVectorWrite p va) s = .next (t.onPart p fun pt => { pt with svstat := pt.svstat ||| 256 }))) ∧
  (∀ (s : State) (p : Nat) (va : W64), p < 64 → s.svReady p = true → va.toNat % 64 ≠ 0 →
    exec (.startVectorWrite p va) s = .next (s.onPart p fun pt => { pt with svstat := 5 }))

namespace Sys2Proof.Claims

/-- Where a section of a frame stands that follows position `pos` and has k items of n bytes, and where it ends: at the next multiple of 64, and it
takes no space without an item (R250). -/
def sectionAt (pos n k : Nat) : Nat × Nat := if k = 0 then (pos, pos) else ((pos + 63) / 64 * 64, (pos + 63) / 64 * 64 + n * k)

/-- A core holds what a frame says of it: the header's predicates, lane masks, control registers and loop counts, and each live item from its
section, in ascending order; its accumulators and weight buffer are zero (R249, R250, R251, R253). -/
structure HoldsFrame (b : List Byte) (c : CoreSt) : Prop where
  preds : c.files.p = ofBytes 16 ((b.drop 0x60).take 2) &&& 0xFFFC
  masks : ∀ i j, i < 8 → j < 7 → c.kmask i (j + 1) = ofBytes 16 ((b.drop (0x68 + 14 * i + 2 * j)).take 2)
  control : c.ctrl.seed = fldW b 0x178 ∧ c.ctrl.solvtau = fldW b 0x1A0 ∧ c.ctrl.solvdelta = fldW b 0x1A8 ∧
    ∀ k, k < 12 → vget 0 c.ctrl.sticky k = fldW b (0x1B0 + 8 * k)
  loops : c.flow.loops.map (fun l => l.remain) = (List.range 4).filterMap fun l =>
    if Machine.fld b (0xF0 + 32 * l) 8 % 2 = 0 then none else some (fldW b (0xE8 + 32 * l))
  live :
    let e := entryOf ((b.drop 0x20).take 64)
    let ss := sectionAt 0x210 8 (liveBits e.smask).length
    let cs := sectionAt ss.2 16 (liveBits e.cmask).length
    let ns := sectionAt cs.2 8 (liveBits e.amask).length
    let as := sectionAt ns.2 256 (liveBits e.amask).length
    let vs := sectionAt as.2 64 (liveBits e.vmask).length
    let ts := sectionAt vs.2 8192 (liveBits e.tmask).length
    (∀ k n, (liveBits e.smask)[k]? = some n → n ≠ 0 → c.sreg n = fldW b (ss.1 + 8 * k)) ∧
    (∀ k n, (liveBits e.cmask)[k]? = some n → c.creg n = ofBytes 128 ((b.drop (cs.1 + 16 * k)).take 16)) ∧
    (∀ k n, (liveBits e.amask)[k]? = some n → c.norm n = ofBytes 32 ((b.drop (ns.1 + 8 * k)).take 4) ∧
      c.axisHeld n = ofBytes 2048 ((b.drop (as.1 + 256 * k)).take 256)) ∧
    (∀ k n, (liveBits e.vmask)[k]? = some n → c.vreg (n / 32) (n % 32) = ofBytes 512 ((b.drop (vs.1 + 64 * k)).take 64)) ∧
    (∀ k n, (liveBits e.tmask)[k]? = some n → c.tile n = ofBytes 65536 ((b.drop (ts.1 + 8192 * k)).take 8192))
  matrix : c.files.accMain = .replicate 4 0 ∧ c.files.accPart = .replicate 4 0 ∧ c.files.openAcc = 0 ∧
    c.files.wbCodes = .replicate 124 0 ∧ c.files.wbScales = .replicate 124 0

end Sys2Proof.Claims

/-- A save whose cycles have passed writes the core's frame to the first free save slot and frees the core, its latches lost; a step that
a reset or a substitution drops writes no frame, and its waiting atomic is withdrawn (R248, R252, R301, R339, R368).
A restored step of a static launch, whose turn it is, resumes on the core named; in general the saved entry that the scheduler chooses
does. It comes back with its frame's predicates, lane masks, control registers, loop counts and live registers, its accumulators and weight buffer
zero, after the cycles of the restore, with its save slot free again and its latches lost; a scalar register that is not live keeps what the core
holds; a frame that
reads back with an uncorrectable error is discarded, and its step restarts from its beginning (R40, R249 to R253, R255, R332, R342); that it is requeued
first in the ready list is the model's choice (log entry 103). -/
def Obligations.StepsAreSavedAndRestored : Prop :=
  (∀ (s : State) (g : Nat) (st : StepInfo), g < 288 → (s.core g).status = .saving 0 → (s.core g).step = some st →
    (s.core g).req.drop = true →
    ∃ u, exec (.saveAtComma g) s = .next u ∧
      u.ord = { s.ord with waiting := s.ord.waiting.filter fun w => w.dec.isSome || w.core != g } ∧ (u.core g).status = .free ∧
      (u.core g).step = none ∧ (u.core g).flow.mem = [] ∧ (u.core g).files.slLost = .allOnes 8 ∧
      (∀ h, h ≠ g → u.core h = s.core h)) ∧
  (∀ (s : State) (g slot : Nat) (slots : List Nat) (st : StepInfo), g < 288 → (s.core g).status = .saving 0 →
    (s.core g).step = some st → st.part < 64 → (s.core g).req.drop = false → (s.core g).req.yield = false → st.member = none →
    (s.core g).dbg.trtrap = false → (s.part st.part).ready.length < 4096 → (s.part st.part).slots = slot :: slots →
    let e := (s.part st.part).entryAt (s.core g).classB (s.core g).pc
    ∃ u, exec (.saveAtComma g) s = .next u ∧ (u.core g).status = .free ∧ (u.core g).step = none ∧
      (u.core g).files.slLost = .allOnes 8 ∧
      u.ord = ((s.physWrite st.part (s.slotAddr st.part slot) ((s.core g).frame st e.1 e.2)).physWrite st.part
        (s.slotAddr st.part slot + 0x26C00) (s.core g).bankBytes).ord ∧
      (u.part st.part).slots = slots ∧ (u.part st.part).ready = .saved slot :: (s.part st.part).ready ∧
      (u.part st.part).saved = (s.part st.part).saved ++ [{ slot := slot, step := (s.core g).carried g st, yielded := false }]) ∧
  (∀ (s : State) (p slot g : Nat) (x : Saved), g < 288 → p < 64 → s.placesNow p = true → (s.part p).staticRun = true →
    (s.part p).reserve = none → (s.part p).missing = [] → (s.part p).ready = [.saved slot] → (s.part p).saved = [x] →
    x.slot = slot → x.step.part = p → x.step.member = none → s.node? p x.step.node = none → g ∈ s.freeCores p →
    exec (.restore p slot [g] false) s = .next (s.resumeOn x g)) ∧
  (∀ (s t : State) (p slot g : Nat) (x : Saved), g < 288 → p < 64 → s.placesNow p = true →
    s.choose p = (t, some (.saved slot, .resume [x])) → t.coresOk p [g] = true → x.step.part = p → x.slot = slot →
    x.step.member = none → t.offerQueue p (.resume [x]) = none →
    ∃ u, exec (.restore p slot [g] false) s = .next u ∧ u.ord = (t.resumeOn x g).ord ∧ u.core g = (t.resumeOn x g).core g ∧
      (u.part p).reserve = none) ∧
  (∀ (s : State) (x : Saved) (g : Nat), g < 288 → x.step.part < 64 → (s.core g).dbg.trtrap = false →
    let c := (s.resumeOn x g).core g
    let b := (s.part x.step.part).frameFor (s.core g).classB (s.physRead (s.slotAddr x.step.part x.slot) 158600)
    c.status = .restoring (16 + (frameLen b + 511) / 512) ∧
      c.step = some { x.step with order := (s.part x.step.part).orders, place := g } ∧ c.files.slLost = .allOnes 8 ∧
      c.pc = (s.part x.step.part).mapAddr (s.core g).classB ((fldW b 8).setWidth 60) ∧ c.flow.sched = fldW b 0x10 ∧ HoldsFrame b c ∧
      ((s.core g).flow.flight = [] → ∀ n, n < 64 → n ∉ liveBits (entryOf ((b.drop 0x20).take 64)).smask → c.sreg n = (s.core g).sreg n) ∧
      x.slot ∈ ((s.resumeOn x g).part x.step.part).slots) ∧
  (∀ (s : State) (p slot : Nat) (cores : List Nat) (x : Saved), p < 64 →
    (s.part p).saved.find? (fun y => y.slot == slot) = some x → x.step.member = none → (s.part p).ready.length < 4096 →
    ∃ u, exec (.restore p slot cores true) s = .next u ∧ u.ord = s.ord ∧ u.cores = s.cores ∧
      (u.part p).saved = (s.part p).saved.filter (fun y => y.slot != slot) ∧
      (u.part p).restarts = (s.part p).restarts ++ [{ x.step with elapsed := 0, orphan := false }] ∧
      (u.part p).ready = .restart x.step.order :: (s.part p).ready.filter (fun k => k != .saved slot))

/-- A step that has issued END, with its tokens complete, its memory operations performed, its results landed and its writes out,
retires: a static launch's core is free, and with its last step STATE of SVSTAT is 2 (R35, R43, R297). That the domain unit has nothing left, of an
operation without a token too, is the model's choice (log entry 99). -/
def Obligations.StepsRetire : Prop :=
  ∀ (s : State) (g : Nat) (st : StepInfo), g < 288 → st.part < 64 → (s.core g).step = some st → (s.core g).status = .ended →
    (∀ w, w < 8 → ((s.core g).token w).out = 0) → (s.core g).flow.mem = [] → (s.core g).flow.flight = [] → (s.core g).dom.run = none →
    (s.core g).dom.ops = [] → s.writesOut g st = true → (s.core g).dbg.trstep = false →
    (st.isStatic = true → st.member = none →
      ∃ u, exec (.stepRetirement g) s = .next u ∧ (u.core g).status = .free ∧ (u.core g).step = none ∧ u.ord = s.ord ∧
        (∀ h, h ≠ g → u.core h = s.core h) ∧
        (s.residents st.part = [g] → (s.part st.part).saved = [] → (s.part st.part).restarts = [] →
          (u.part st.part).staticRun = false ∧ (u.part st.part).svstat = (s.part st.part).svstat &&& 256 ||| 2)) ∧
    (st.isStatic = false → st.member = none → s.node? st.part st.node = none →
      ∃ u, exec (.stepRetirement g) s = .next u ∧ (u.core g).status = .free ∧ (u.core g).step = none ∧ u.ord = s.ord) ∧
    (∀ t, st.isStatic = false → st.member = none → s.retireBlock g st = .ok t → (t.core g).dbg.trstep = false →
      ∃ u, exec (.stepRetirement g) s = .next u ∧ (u.core g).status = .free ∧ u.ord = t.ord)

/-! ## Resets, substitution, elision (R336 to R339, R368 to R374, R395) -/

namespace Sys2Proof.Claims

/-- The cores that a partition's entry in force gives it; none where it is undefined (R360). -/
def wantOf (pt : Part) : BitVec 320 := if pt.inForce.state.getLsbD 0 then pt.inForce.cores else 0
/-- Two partitions alone share the first one's cores by slices: the other takes turns with it, and no third does (R336). -/
structure ShareBySlice (s : State) (a b : Nat) : Prop where
  two : a < 64 ∧ b < 64 ∧ a ≠ b
  loaded : (s.part a).loaded ≠ none ∧ (s.part b).loaded ≠ none
  sliced : (s.part a).inForce.slice ≠ 0 ∧ (s.part b).inForce.slice ≠ 0
  waits : (s.part b).held = 0 ∧ wantOf (s.part b) &&& (s.part a).held ≠ 0
  alone : ∀ q, q < 64 → q ≠ a → q ≠ b → (s.part q).loaded = none
  quiet : (s.part a).resetting = none ∧ (s.part a).scrub = none ∧ (s.part b).resetting = none ∧ (s.part b).scrub = none

end Sys2Proof.Claims

/-- A pre-emption request at the end of a slice asks the step, and a yield asks the oldest step of the one block of a partition whose
resident steps all wait at commas, for the block's missing step (R46, R334, R335).
A slice that has ended, with no step of the outgoing partition resident, passes the outgoing partition's cores to the incoming one
and starts the scrub of those cores; a partition that no other shares its cores with keeps them, with no scrub, for its next slice (R336,
R369). -/
def Obligations.RequestsAndSlicesPassCores : Prop :=
  (∀ (s : State) (g : Nat) (st : StepInfo), g < 288 → (s.core g).step = some st → st.part < 64 → st.member = none →
    (s.core g).req.preempt = false → s.sliceOver st.part = true → (s.part st.part).slots ≠ [] →
    ∃ u, exec (.preemptionRequest g) s = .next u ∧ (u.core g).req = { (s.core g).req with preempt := true } ∧
      (u.part st.part).reserve = none ∧ (∀ h, h ≠ g → (u.core h).req = (s.core h).req) ∧ u.ord = s.ord) ∧
  (∀ (s : State) (g : Nat) (st : StepInfo) (n : Node), g < 288 → (s.core g).step = some st → st.part < 64 → st.member = none →
    st.isStatic = false → g ∈ s.residents st.part → (s.part st.part).nodes = [n] → n.addr = st.node →
    .node n.addr ∈ (s.part st.part).ready → s.offerable st.part (.block n) = true → gateHolds n = false → (s.part st.part).missing = [] →
    s.freeCores st.part = [] → s.atWaitComma g = true → (s.core g).asked = false →
    (∀ h ∈ s.residents st.part, h ≠ g → ∀ t, (s.core h).step = some t → t.node = st.node → t.isStatic = false →
      s.atWaitComma h = true ∧ (s.core h).asked = false ∧ st.order < t.order) →
    (s.part st.part).slots ≠ [] → (∀ h ∈ s.residents st.part, s.stepExpired h = false) →
    ∃ u, exec (.yield g) s = .next u ∧ (u.core g).req = { (s.core g).req with yield := true } ∧
      (u.part st.part).missing = [st.node] ∧ (∀ h, h ≠ g → u.core h = s.core h) ∧ u.ord = s.ord) ∧
  (∀ (s : State) (a b : Nat), ShareBySlice s a b → s.sliceOver a = true → s.residents a = [] →
    ∃ u, exec (.sliceEnd a b) s = .next u ∧ (u.part a).held = 0 ∧ (u.part b).held = (s.part a).held ∧ (u.part a).slice = none ∧
      (u.part b).scrub = some { reason := .slice, cores := s.partCores a, cleared := false, found := [], outgoing := some (a, s.vfOf a) } ∧
      (∀ g, g < 288 → (u.core g).files = (s.core g).files ∧ (u.core g).step = (s.core g).step) ∧ u.ord = s.ord) ∧
  (∀ (s : State) (a : Nat), a < 64 → s.nextSharer a = a → (s.part a).loaded ≠ none → (s.part a).inForce.slice ≠ 0 →
    s.sliceOver a = true → s.residents a = [] → (s.part a).resetting = none → (s.part a).scrub = none →
    ∃ u, exec (.sliceEnd a a) s = .next u ∧ (u.part a).held = (s.part a).held ∧ (u.part a).scrub = none ∧
      (∀ g, g < 288 → (u.core g).files = (s.core g).files) ∧ u.ord = s.ord)

/-- A block whose deadline has passed is substituted act by act: while it has steps to drop, the waiting and saved ones are dropped and
each resident one is asked to stop, without a frame; the reset of a partition by a watchdog asks every resident step to stop, but a step that
a debugger holds at a stop does not expire (R339, R368, R396, R397).
In a partition reset a halted core, or one that has not stopped within 8 µs, is reset: it is free with its latches lost, and its
waiting atomic is withdrawn (R259, R301, R368). -/
def Obligations.DeadlinesWatchdogsAndHardResets : Prop :=
  (∀ (s : State) (p : Nat) (va : W64) (n : Node), p < 64 → s.node? p va = some n → n.part = p → n.addr = va →
    s.deadlineDue n = true → (s.part p).resetting = none → s.substPending n = true →
    ∃ u, exec (.deadlineExpiry p va) s = .next u ∧ u.ord = s.ord ∧
      (∀ x ∈ (u.part p).saved, x.step.node ≠ va) ∧ (∀ x ∈ (u.part p).restarts, x.node ≠ va) ∧ .node va ∉ (u.part p).ready ∧
      (∀ g ∈ s.blockCores p va, (u.core g).req.drop = true ∧ (u.core g).req.preempt = false) ∧
      (∀ g, g ∉ s.blockCores p va → (u.core g).req = (s.core g).req)) ∧
  (∀ (s : State) (g : Nat) (st : StepInfo), g < 288 → st.part < 64 → (s.core g).step = some st → st.limit ≠ 0 →
    1000 * st.limit ≤ st.elapsed → ¬ ((s.core g).dbg.stopped = true ∧ (s.core g).dbg.owned = true) →
    (s.part st.part).resetting = none → (s.part st.part).scrub = none →
    (∀ n ∈ (s.part st.part).nodes, s.deadlineDue n = false) →
    ∃ u, exec (.watchdogExpiry g) s = .next u ∧ u.ord = s.ord ∧ (u.part st.part).resetting = some .watchdog ∧
      (u.part st.part).resetAt = s.time ∧ (u.part st.part).expired = s.expiredNodes st.part ∧
      (∀ h ∈ s.residents st.part, (u.core h).req.drop = true) ∧ (∀ h, h ∉ s.residents st.part → (u.core h).req = (s.core h).req)) ∧
  (∀ (s : State) (g : Nat) (st : StepInfo), g < 288 → (s.core g).step = some st → (s.core g).dbg.stopped = true →
    (s.core g).dbg.owned = true → exec (.watchdogExpiry g) s = .refused (.notEnabled "WATCHDOG_EXPIRY")) ∧
  (∀ (s : State) (g : Nat) (st : StepInfo), g < 288 → (s.core g).step = some st → (s.part st.part).resetting ≠ none →
    ((s.core g).status = .halted ∨ 8000 ≤ (s.time - (s.part st.part).resetAt).toNat) →
    ∃ u, exec (.hardCoreReset g) s = .next u ∧ (u.core g).status = .free ∧ (u.core g).step = none ∧ (u.core g).flow.mem = [] ∧
      (u.core g).files.slLost = .allOnes 8 ∧ (∀ h, h ≠ g → u.core h = s.core h) ∧
      u.ord = { s.ord with waiting := s.ord.waiting.filter fun w => w.dec.isSome || w.core != g })

/-- The elision engine clears each core named, on which no step is resident, so that nothing of its registers, predicates, latches, tiles,
scratchpad, queues, results in flight, tokens, loop levels or translations is left, with its ingress entries and the die's translations of the partition that leaves it, and counts the
correctable errors that its read-back finds; then it counts SEQ, stores the partition's token and LASTSEQ, and a command that started the scrub
completes OK; where colmer has bound its image on cores of the partition before, or none is bound, the cores' files and memory stay as they are
(R21, R362, R370, R371, R373, R381). That every core reads its cleared values after the clearing, whatever the read-back then finds, is the
model's choice (log entry 47). -/
def Obligations.ElisionClearsThenStoresTheToken : Prop :=
  (∀ (s : State) (p : Nat) (r : Scrub) (found : List (Nat × Nat × Nat)), p < 64 → (s.part p).scrub = some r → r.cleared = false →
    (∀ g ∈ r.cores, g < 288 ∧ (s.core g).step = none) → (∀ x ∈ found, x.1 ∈ r.cores) → (found.map fun x => x.1).Nodup →
    (∀ q x, q < 64 → q ≠ p → (s.part q).scrub = some x → ∀ g ∈ x.cores, g ∉ r.cores) →
    ∃ u, exec (.elisionScrub { part := p, found := found }) s = .next u ∧
      (u.part p).scrub = some { r with cleared := true, found := found } ∧
      (∀ g ∈ r.cores, (u.core g).files = CoreSt.reset.files ∧ (u.core g).ctrl = CoreSt.reset.ctrl ∧
        (u.core g).dom = CoreSt.reset.dom ∧ (u.core g).xc = CoreSt.reset.xc ∧ (u.core g).status = .free ∧
        (u.core g).flow = { CoreSt.reset.flow with cyc := (s.core g).flow.cyc, portQ := (s.core g).flow.portQ } ∧
        (u.core g).flow.mem = [] ∧ (u.core g).flow.mq = [] ∧ (u.core g).flow.xq = [] ∧ (u.core g).flow.flight = [] ∧
        (∀ w, w < 8 → (u.core g).token w = .idle) ∧ (u.core g).flow.loops = [] ∧ (u.core g).tlb = [] ∧ (u.core g).classB = (s.core g).classB) ∧
      (∀ g, g ∉ r.cores → u.core g = s.core g) ∧
      (∀ q vf, r.outgoing = some (q, vf) → ∀ d, d < 4 → ∀ e ∈ vget [] u.dieTlb d, e.part ≠ q) ∧
      (∀ d, d < 4 → ∀ e ∈ vget [] u.ord.ingress d, e.core ∉ r.cores) ∧
      (∀ g k m, found = [(g, k, m)] → amWf 0 s.hub.coreErr = true →
        amGet 0 u.hub.coreErr g = amGet 0 s.hub.coreErr g + BitVec.ofNat 64 k)) ∧
  (∀ (s : State) (a : ScrubTurn) (r : Scrub), a.part < 64 → (s.part a.part).scrub = some r → r.cleared = true →
    ∃ u, exec (.elisionScrub a) s = .next u ∧ (u.part a.part).scrub = none ∧ u.hub.seq = s.hub.seq + 1 ∧
      (u.part a.part).entry.lastseq = s.hub.seq + 1 ∧
      (u.part a.part).token = scrubToken a.part r (s.hub.seq + 1) s.time (s.part a.part).entry.nonce ∧
      ((s.part a.part).cmdRun = true → r.reason ∈ [.reload, .scrub, .reset] →
        (u.part a.part).cmdstat = 1 ∧ (u.part a.part).cmdRun = false) ∧
      ((s.part a.part).bound.any Option.isSome = true ∨ (s.part a.part).image = none →
        (∀ g, g < 288 → (u.core g).files = (s.core g).files) ∧ u.ord = s.ord)) ∧
  (∀ (s t : State) (a : ScrubTurn) (why : ScrubReason), a.part < 64 → (s.part a.part).scrub = none →
    (s.part a.part).resetting = some why → s.residents a.part = [] → s.purge a.part why = .ok t → exec (.elisionScrub a) s = .next t)

/-- A token of a scrub is 256 bytes: the version, the partition, the reason, the count of cores, the flag of a core whose read-back differed,
SEQ and the time in their places, and the signature of the bytes before it (R373).
A block that asks for a token, whose nonce is that of its partition's token, has the token written for it (R374). -/
def Obligations.TokensHoldTheirFieldsAndAreDelivered : Prop :=
  (∀ (p : Nat) (r : Scrub) (seq time : W64) (nonce : BitVec 256), p < 64 → r.cores.length ≤ 288 →
    let b := scrubToken p r seq time nonce
    b.length = 256 ∧ fld b 0 2 = 1 ∧ fld b 2 1 = p ∧ fld b 3 1 = reasonCode r.reason ∧ fld b 4 2 = r.cores.length ∧
      fld b 6 2 = (if r.cores.any (fun g => decide ((r.foundOn g).2 ≠ 0)) then 1 else 0) ∧
      fldW b 8 = seq ∧ fldW b 0x10 = time ∧ (b.drop 0x18).take 48 = sha384 (coreBitmap r.cores) ∧
      (b.drop 0x48).take 32 = bytesOf 32 nonce ∧ (b.drop 0x68).take 48 = sha384 (scrubLog r) ∧
      (b.drop 0x98).take 96 = ecdsaSign Config.deviceKey (b.take 0x98)) ∧
  (∀ (s t : State) (p : Nat) (va : W64) (n : Node) (gt : Gate), p < 64 → s.node? p va = some n → n.gate = some gt → gt.sent = none →
    (s.part p).token ≠ [] → ofBytes 256 (((s.part p).token.drop 0x48).take 32) = gt.nonce →
    s.hubPut p none 5 (fldW n.block 0xF0 + 64) (s.part p).token = .ok t → t.node? p va = some n →
    ∃ u, exec (.tokenDelivery p va) s = .next u ∧ u.ord = t.ord ∧ (∃ m v, u.node? p va = some m ∧ m.gate = some { gt with sent := some v }))

/-! ## Repairs, stops, debugger and errors -/

/-- At the group that a breakpoint names, an owned core stops with its results landed, all that were due within 24 cycles, when no latency of R65 is
longer than 18, and a core that is not owned takes BREAKPT; a watch
hit likewise stops or takes WATCH; a stop request is noted; a stopped core resumes, and the breakpoint does not fire again for its
group (R65, R256, R258, R394). -/
def Obligations.StopsAndResumes : Prop :=
  (∀ (s : State) (g b : Nat) (x : Group), g < 288 → b < 8 → (s.core g).atGroup = some x → (s.core g).reached.broke = false →
    (s.core g).bpAt b x.addr = true → (s.core g).bpTraces b = false →
    ((s.core g).dbg.owned = true → ∃ u, exec (.breakpoint g b) s = .next u ∧ (u.core g).dbg.stopped = true ∧ u.ord = s.ord ∧
      (∀ f ∈ (u.core g).flow.flight, (s.core g).flow.cyc + 24 ≤ f.due) ∧
      (let c := s.core g
       let r : Reached := { c.reached with broke := true }
       let broke : CoreSt := { c with reached := r }
       (u.core g).files = broke.landAll.files) ∧
      (u.core g).pc = (s.core g).pc ∧ (∀ h, h ≠ g → u.core h = s.core h)) ∧
    ((s.core g).dbg.owned = false → ∃ (t : State) (u : TrapInfo), exec (.breakpoint g b) s = .next (t.takeTrapOn g u) ∧ u.cause = .breakpt ∧
      u.info = BitVec.ofNat 16 b ∧ u.bundle = (s.core g).pc ∧ u.resume = (s.core g).pc ∧ (t.core g).files = (s.core g).files)) ∧
  (∀ (s : State) (g r : Nat) (h : WatchHit), g < 288 → (s.core g).dbg.hit = some h → h.range = r → (s.core g).status = .running →
    (s.core g).ctrl.handler = false → (s.core g).dbg.trace = false → (s.core g).dbg.stopped = false →
    ((s.core g).dbg.owned = true → ∃ u, exec (.watchHit g r) s = .next u ∧ (u.core g).dbg.stopped = true ∧ (u.core g).dbg.hit = none ∧
      (∀ f ∈ (u.core g).flow.flight, (s.core g).flow.cyc + 24 ≤ f.due) ∧
      (let c := s.core g
       let d : Debug := { c.dbg with hit := none }
       let acted : CoreSt := { c with dbg := d }
       (u.core g).files = acted.landAll.files) ∧ u.ord = s.ord) ∧
    ((s.core g).dbg.owned = false → ∃ (t : State) (u : TrapInfo), exec (.watchHit g r) s = .next (t.takeTrapOn g u) ∧ u.cause = .watch ∧ u.slots = h.slots ∧
      u.va = h.va ∧ u.bundle = h.group ∧ u.sched = h.sched ∧ u.resume = (s.core g).pc ∧ (t.core g).files = (s.core g).files)) ∧
  (∀ (s : State) (g : Nat), g < 288 →
    let c := s.core g
    let r : Requests := { c.req with stop := true }
    exec (.stopreq g) s = .next (s.setCore g { c with req := r })) ∧
  (∀ (s : State) (g : Nat), g < 288 → (s.core g).dbg.stopped = true →
    let c := s.core g
    let d : Debug := { c.dbg with stopped := false }
    let r : Reached := { c.reached with broke := true }
    exec (.debuggerResume g) s = .next (s.setCore g { c with dbg := d, reached := r }))

/-- At a stop a debugger's write below the domain file writes its bytes at that place of the core's window and checks the axis registers that
it touches; one of the program counter moves it and checks the axis registers that the open window has written, and one at the place of a sticky record changes no record; a write through the latch port
writes the selected latch, which is lost no more (R181, R231, R257, R394; that the program counter and the control registers stand at these offsets
is the model's choice, log entry 27). -/
def Obligations.DebuggerWritesAtStops : Prop :=
  (∀ (s : State) (g ofs : Nat) (bs : List Byte), g < 288 → (s.core g).dbg.stopped = true → ofs + bs.length < 0x286000 →
    ∃ u, exec (.debugStateWrite g ofs bs) s = .next u ∧
      (u.core g).files = (((s.core g).setWindow ofs bs).checkAxes (axesOf ofs bs.length)).files ∧ u.ord = s.ord ∧
      u.hub = s.hub ∧ (∀ h, h ≠ g → u.core h = s.core h)) ∧
  (∀ (s : State) (g : Nat) (bs : List Byte), g < 288 → (s.core g).dbg.stopped = true →
    (∃ u, exec (.debugStateWrite g 0x1005000 bs) s = .next u ∧ (u.core g).pc = ofBytes 60 bs ∧
      (u.core g).files = ((s.core g).checkAxes (s.core g).reached.touched).files) ∧
    (∀ n, 0x30 ≤ n → n ≤ 0x3B →
      ∃ u, exec (.debugStateWrite g (0x1001000 + 8 * n) bs) s = .next u ∧ (u.core g).ctrl = (s.core g).ctrl)) ∧
  (∀ (s : State) (g : Nat) (x : W512), g < 288 → (s.core g).dbg.stopped = true → (s.core g).dbg.domain = 0 →
    ∃ u, exec (.latchPortWrite g x) s = .next u ∧ (u.core g).slatch (s.core g).dbg.latch.toNat = x.setWidth 64 ∧
      (u.core g).files.s = (s.core g).files.s ∧ (∀ h, h ≠ g → u.core h = s.core h)) ∧
  (∀ (s : State) (g k : Nat) (x : W512), g < 288 → k < 8 → (s.core g).dbg.stopped = true → (s.core g).dbg.domain.toNat = k + 1 →
    ∃ u, exec (.latchPortWrite g x) s = .next u ∧ (u.core g).vlatch k (s.core g).dbg.latch.toNat = x)

/-- An uncorrectable error of a core's own state traps it, with RESTART where a reduction is open before its END or a token outstanding or
held, while no repair runs; in a core of the stand-in quad that a running quad repair maps it refuses the repair; one of the ingress buffers
of a die is delivered to the partitions that own an entry, and to no other where no operation is about to reach its line; that the entries of
that line are applied no more is the model's choice (log entry 54); a correctable one is counted and changes no core and no memory (R164, R255, R366, R367, R381, R415). -/
def Obligations.ErrorsTrapOrAreCounted : Prop :=
  (∀ (s : State) (g : Nat) (kind : BitVec 4) (unit : Byte) (row col : W16), g < 288 →
    ((s.core g).status = .running ∨ (s.core g).status = .ended) → kind ≠ 6 → s.repStatus ≠ 1 →
    ∃ t, exec (.coreUncorrectableError g kind unit row col) s = .next (s.takeTrapOn g t) ∧ t.cause = .uncorrectable ∧ t.kind = kind ∧
      t.unit = unit ∧ t.row = row ∧ t.col = col ∧ t.resume = (s.core g).pc ∧
      (t.restart = true ↔ (((s.core g).files.openAcc ≠ 0 ∧ (s.core g).status ≠ .ended) ∨ (s.core g).tokenOpen = true))) ∧
  (∀ (s : State) (g q : Nat) (kind : BitVec 4) (unit : Byte) (row col : W16), g < 288 → s.repStatus = 1 →
    repKind s.hub.repairRun = 0 → s.standIn (repDie s.hub.repairRun) = some q → g ∈ quadCores (repDie s.hub.repairRun) q →
    ∃ u, exec (.coreUncorrectableError g kind unit row col) s = .next u ∧ u.repStatus = 3 ∧ u.cores = s.cores ∧ u.ord = s.ord) ∧
  (∀ (s : State) (inst pa : Nat), inst < 4 → ∃ u, exec (.sharedUncorrectableError 1 inst pa) s = .next u ∧
    (∀ g, (u.core g).files = (s.core g).files) ∧
    (∀ e ∈ vget [] s.ord.ingress inst, e.part < 64 → (u.part e.part).blastcount = (s.part e.part).blastcount + 1) ∧
    vget [] u.ord.ingress inst = (vget [] s.ord.ingress inst).map
      (fun e => if e.target / 64 = pa / 64 then { e with stuck := true } else e) ∧
    ((∀ g, g < 288 → s.isMet g (pa / 64) = false) → s.hub.hubCopy = none → (∀ e ∈ vget [] s.ord.ingress inst, e.part < 64) →
      u.cores = s.cores ∧
      ∀ p, p < 64 → (∀ e ∈ vget [] s.ord.ingress inst, e.part ≠ p) → (u.part p).blast = (s.part p).blast)) ∧
  (∀ (s : State) (row inst : Nat), row < 6 → amWf 0 s.hub.corrErr = true →
    ∃ u, exec (.correctableError row inst) s = .next u ∧ u.cores = s.cores ∧ u.ord = s.ord ∧
      amGet 0 u.hub.corrErr (row * 1024 + inst % 1024) = amGet 0 s.hub.corrErr (row * 1024 + inst % 1024) + 1) ∧
  (∀ (s : State) (inst : Nat), inst < 288 → amWf 0 s.hub.coreErr = true →
    ∃ u, exec (.correctableError 6 inst) s = .next u ∧ u.cores = s.cores ∧ u.ord = s.ord ∧
      amGet 0 u.hub.coreErr inst = amGet 0 s.hub.coreErr inst + 1)

/-! ## The host (R279, R298, R359 to R365) -/

/-- A host read gives the bytes of the hub region, of host memory, or of memory in the view of each byte's home die, all ones where the decoders
map nothing, or the registers of a block, and changes nothing; a host write to host memory is the host's own, one to the hub region changes no
core, no view and no host byte, and one to memory that no loaded partition maps performs at its home die (log entry 90); a function that
serves no partition reads zeros of its block, all ones of its memory, and writes nothing, and one that serves a partition reads the line that
its address translates to (R279, R298, R359, R363 to R365, R405). -/
def Obligations.HostAccessesReachTheirTargets : Prop :=
  (∀ (s : State) (pa n : Nat), exec (.hostRead { via := .memory, addr := pa } n) s = .next (s.onOrd fun o =>
    { o with hostRead := (List.range n).map fun i => s.hostByte (pa + i) })) ∧
  (∀ (s : State) (fn a n : Nat), fn < 64 → a < 2 ^ 20 → s.partOfVf fn = none →
    exec (.hostRead { via := .block fn, addr := a } n) s = .next (s.onOrd fun o => { o with hostRead := List.replicate n 0 })) ∧
  (∀ (s : State) (fn p n : Nat), fn < 64 → n ≤ 8 → s.partOfVf fn = some p →
    exec (.hostRead { via := .block fn, addr := 0x40 } n) s = .next (s.onOrd fun o =>
      { o with hostRead := (bytesOf 8 (s.part p).trbase).take n })) ∧
  (∀ (s : State) (n : Nat), n ≤ 8 →
    exec (.hostRead { via := .pfRegs, addr := 0 } n) s = .next (s.onOrd fun o => { o with hostRead :=
      (bytesOf 8 (BitVec.ofNat 64 ((if s.hub.ready then 1 else 0) + if s.hub.holdover then 2 else 0))).take n })) ∧
  (∀ (s : State) (pa : Nat), hubRegion pa = false → inHost pa = false →
    s.hostByte pa = (if inMemory pa then amGet 0 (s.ord.view (homeDie pa)) pa else 0xFF)) ∧
  (∀ (s : State) (p pa : Nat) (h : Bool) (bs : List Byte), hubRegion pa = false → inHost pa = true →
    exec (.hostWrite p pa h bs) s = .next (s.onOrd fun o => { o with host := amWrite o.host pa bs })) ∧
  (∀ (s : State) (p pa : Nat) (h : Bool) (bs : List Byte), hubRegion pa = true →
    ∃ u, exec (.hostWrite p pa h bs) s = .next u ∧ u.cores = s.cores ∧ u.ord = s.ord ∧ u.time = s.time) ∧
  (∀ (s : State) (p pa : Nat) (h : Bool) (bs : List Byte), hubRegion pa = false → inHost pa = false → inMemory pa = true →
    (∀ q, q < 64 → (s.part q).loaded = none) → bs ≠ [] → pa % 64 + bs.length ≤ 64 →
    exec (.hostWrite p pa h bs) s = .next (s.hubWrite (homeDie pa) pa bs)) ∧
  (∀ (s : State) (fn va : Nat) (bs : List Byte), fn < 64 → va + bs.length ≤ 2 ^ 46 → s.partOfVf fn = none →
    exec (.vfMemoryAccess fn va true bs) s = .next s ∧
    exec (.vfMemoryAccess fn va false bs) s = .next (s.onOrd fun o => { o with hostRead := List.replicate bs.length 0xFF })) ∧
  (∀ (s t : State) (fn va p : Nat) (bs : List Byte) (x : Xlated), fn < 64 → va + bs.length ≤ 2 ^ 46 → s.partOfVf fn = some p →
    bs ≠ [] → va % 64 + bs.length ≤ 64 → s.accessFor p none none (BitVec.ofNat 64 va) needR .memory = .ok t x →
    exec (.vfMemoryAccess fn va false bs) s = .next (t.onOrd fun o =>
      { o with hostRead := (List.range bs.length).map fun i => t.hostByte (x.pa + i) }))

namespace Sys2Proof.Claims

/-- Every write performed has been applied at every die (R292). -/
def AllApplied (s : State) : Prop := ∀ d j, d < 4 → j < 4 → clk (s.ord.dieClock d) d ≤ clk (s.ord.dieClock j) d

end Sys2Proof.Claims

/-- A command written while another of its partition runs, or during the drain of a reset, completes BUSY and does nothing else
(R362, R397).
Accepted commands: FLUSH, once the writes performed have been applied at every die, empties the partition's translations and takes the current
entries, and runs until then (log entry 87); RESET starts the reset and asks every resident step to stop; SCRUB of an idle partition starts
the elision engine on its cores, and one of a partition with a step resident or saved, or with a block READY or RUNNING, is BUSY; RELOAD refused gives its status, and with CORES as the entry last loaded
has them puts the entry in force at once, with no scrub, whatever cores a slice has passed on; that RELOAD and SCRUB wait for the scrub of a slice that runs is the model's
choice (log entry 39); LOGSTART, LOGROUND and LOGSTOP open a round, set or clear LOGGING, and hand the closed round over (R273, R361, R362, R368,
R369, R375, R376, R399). -/
def Obligations.CommandsWaitTheirTurnOrTakeEffect : Prop :=
  (∀ (s : State) (p : Nat) (i : Instr), p < 64 → ((s.part p).cmdRun = true ∨ (s.part p).resetting ≠ none) →
    i ∈ [Instr.reload p, .flush p, .reset p, .scrub p, .logstart p, .loground p, .logstop p] →
    exec i s = .next (s.onPart p fun pt => { pt with cmdstat := 2 })) ∧
  (∀ (s : State) (p : Nat), p < 64 → (s.part p).cmdRun = false → (s.part p).resetting = none →
    (AllApplied s → ∃ u, exec (.flush p) s = .next u ∧ (∀ g, g < 288 → ∀ e ∈ (u.core g).tlb, e.part ≠ p) ∧
      (∀ d, d < 4 → ∀ e ∈ vget [] u.dieTlb d, e.part ≠ p) ∧ (u.part p).ranges = (s.part p).inForce.ranges ∧
      (u.part p).newRanges = none ∧ (u.part p).ptroot = (s.part p).inForce.ptroot ∧ (u.part p).cmdstat = 1 ∧
      (u.part p).cmdRun = false ∧ (∀ g, g < 288 → (u.core g).files = (s.core g).files) ∧ u.ord = s.ord) ∧
    (¬ AllApplied s → ∃ u, exec (.flush p) s = .next u ∧ (u.part p).cmdRun = true ∧ (u.part p).cmdstat = 0 ∧
      (u.part p).ranges = (s.part p).ranges ∧ u.cores = s.cores ∧ u.ord = s.ord) ∧
    (∃ u, exec (.reset p) s = .next u ∧ (u.part p).cmdRun = true ∧ (u.part p).resetting = some .reset ∧ u.ord = s.ord ∧
      (∀ g ∈ s.residents p, (u.core g).req.drop = true)) ∧
    (s.occupied p = true ∨ s.busyBlocks p = true → exec (.scrub p) s = .next (s.onPart p fun pt => { pt with cmdstat := 2 })) ∧
    (s.occupied p = false → s.busyBlocks p = false → (s.part p).scrub = none →
      ∃ u, exec (.scrub p) s = .next u ∧ (u.part p).cmdRun = true ∧ u.cores = s.cores ∧
        (u.part p).scrub = some { reason := .scrub, cores := s.partCores p, cleared := false, found := [], outgoing := some (p, s.vfOf p) }) ∧
    (s.occupied p = false → s.busyBlocks p = false → (s.part p).scrub ≠ none → exec (.scrub p) s = .next (s.onPart p fun pt =>
      { pt with cmdRun := true, cmdstat := 0, pend := some { code := 4, need := clkZero, round := none } })) ∧
    (s.reloadWaits p = true → exec (.reload p) s = .next (s.onPart p fun pt =>
      { pt with cmdRun := true, cmdstat := 0, pend := some { code := 1, need := clkZero, round := none } })) ∧
    (∀ k, s.reloadWaits p = false → s.reloadRefused p = some k →
      exec (.reload p) s = .next (s.onPart p fun pt => { pt with cmdstat := k })) ∧
    (s.reloadWaits p = false → s.reloadRefused p = none → (s.part p).entry.state.getLsbD 0 = true →
      (s.part p).entry.cores = wantOf (s.part p) →
      ∃ u, exec (.reload p) s = .next u ∧ (u.part p).loaded = some (s.part p).entry ∧ (u.part p).held = (s.part p).held ∧
        (u.part p).cmdstat = 1 ∧ (u.part p).cmdRun = false ∧ u.cores = s.cores) ∧
    (∀ t, s.openRound p = some t → (t.part p).entry.logcount = 0 ∧ (t.part p).entry.state.getLsbD 3 = false ∧ (t.part p).logPages = []) ∧
    (∀ t, s.openRound p = some t → AllApplied t →
      (∃ u, exec (.logstart p) s = .next u ∧ u.ord = t.ord ∧ (u.part p).entry.state = (t.part p).entry.state ||| 4 ∧
        (u.part p).cmdstat = 1 ∧ (u.part p).cmdRun = false) ∧
      (∃ u, exec (.loground p) s = .next u ∧ u.ord = t.ord ∧ (u.part p).entry = (t.part p).entry ∧ (u.part p).cmdstat = 1 ∧
        (u.part p).cmdRun = false ∧ (u.part p).handed = some (s.logRound p)) ∧
      (∃ u, exec (.logstop p) s = .next u ∧ u.ord = t.ord ∧ (u.part p).entry.state = (t.part p).entry.state &&& ~~~(4 : W64) ∧
        (u.part p).cmdstat = 1 ∧ (u.part p).cmdRun = false ∧ (u.part p).handed = some (s.logRound p))))

/-- A free counter bank goes to the guest that claims it, with its counters zero; the hypervisor takes one over from a guest, saves its
counters and marks it stolen, and a release gives the saved counters back; a guest's read of LO latches the upper half for HI, one of a
bank it does not hold reads zero, and one of the control register clears STOLEN (R364, R378 to R380). -/
def Obligations.CounterBanksAreHeld : Prop :=
  (∀ (s : State) (d b f : Nat), d < 4 → b < 16 → (s.bank d b).holder = 0 →
    ∃ u, exec (.bankClaim d b (some f)) s = .next u ∧ u.cores = s.cores ∧ u.ord = s.ord ∧ (u.bank d b).holder = 1 ∧
      (u.bank d b).guest = f ∧ (u.bank d b).cnt = .replicate 8 0) ∧
  (∀ (s : State) (d b : Nat), d < 4 → b < 16 → (s.bank d b).holder = 1 →
    ∃ u, exec (.bankClaim d b none) s = .next u ∧ (u.bank d b).holder = 3 ∧ (u.bank d b).guest = (s.bank d b).guest ∧
      (u.bank d b).saveArea = (s.bank d b).cnt ∧ (u.bank d b).stolen = true ∧ u.ord = s.ord ∧
      (∃ v, exec (.bankRelease d b none) u = .next v ∧ (v.bank d b).holder = 1 ∧ (v.bank d b).cnt = (s.bank d b).cnt)) ∧
  (∀ (s : State) (fn d b c : Nat), fn < 64 → d < 4 → b < 16 → c < 8 →
    ((s.bank d b).holder = 1 → (s.bank d b).guest = fn →
      let v := vget 0 (s.bank d b).cnt c + vget 0 (s.bank d b).ofs c
      ∃ u, exec (.counterLoRead fn d b c) s = .next u ∧ u.ord.hostRead = bytesOf 4 v ∧
        vget 0 u.hub.hiLatch fn = v.extractLsb' 32 32 ∧ u.hub.banks = s.hub.banks ∧ u.cores = s.cores) ∧
    ((s.bank d b).guest ≠ fn →
      ∃ u, exec (.counterLoRead fn d b c) s = .next u ∧ u.ord.hostRead = natBytes 4 0 ∧ u.hub = s.hub)) ∧
  (∀ (s : State) (fn d b : Nat), fn < 64 → d < 4 → b < 16 → (s.bank d b).holder = 1 → (s.bank d b).guest = fn →
    ∃ u, exec (.counterBankControlRead fn d b) s = .next u ∧ u.ord.hostRead = bytesOf 8 (s.bank d b).control ∧
      (u.bank d b).stolen = false ∧ (u.bank d b).cnt = (s.bank d b).cnt)

/-! ## The package (R365, R382 to R384, R406 to R417) -/

namespace Sys2Proof.Claims

/-- A core waits at a BAR of the pod in a pod group in which a leaving module has a partition, or had one when the BAR was begun (R408). -/
def WaitsForModule (s : State) (r : Removal) (g : Nat) : Prop :=
  (s.core g).barScope = some 4 ∧ (s.core g).reached.released = false ∧ (s.part (s.partOf g)).podgroup ≠ 0 ∧
    ((s.part (s.partOf g)).podgroup ∈ r.groups ∨
      ∃ x ∈ r.cleared, x.1 = (s.part (s.partOf g)).podgroup ∧ ∃ t, (s.core g).reached.since = some t ∧ t < x.2)

end Sys2Proof.Claims

/-- A time step above 1 ms moves the time counter forward and ages every running step that no debugger holds, and one not above it, or of a module in
holdover, does nothing; the power limit is held to 1000 to 2800 W; an aligned write of PTPDOMAIN, POWERLIMIT, LANETHRESH, TIMESTEP or LATCHSAVE of the
physical function, or of CMD, SVADDR, NONCE, TRBASE, TRSIZE, TRTAIL, QSEL or DOORBELL of a partition, takes effect, one of a register that is only
read changes nothing, and one of a function without a partition is dropped; the loss of the parent's clock sets HOLDOVER; an event message is stamped at a port with at most two failed lanes, and a port with
more is down (R364, R365, R382 to R384, R406).
A temperature that calls for a lower clock steps a die's clock down at once; it goes one step up again only after 1 ms below the
threshold; a lane that fails is out of service; a module whose partitions are idle leaves, and a BAR of the pod that waits for a member on it,
or is begun in a group that it was not cleared from, never completes (R395, R406, R408, R416). -/
def Obligations.TimePowerClocksAndRegisters : Prop :=
  (∀ (s : State) (n : W64), (1000000 < n.toNat → s.hub.holdover = false → ∃ u, exec (.timestep n) s = .next u ∧ u.time = s.time + n ∧ u.ord = s.ord ∧
      (∀ g, g < 288 → (u.core g).files = (s.core g).files ∧
        (¬ ((s.core g).dbg.stopped = true ∧ (s.core g).dbg.owned = true) → (s.core g).status ≠ .restarting →
          ∀ st, (s.core g).step = some st → (u.core g).step = some { st with elapsed := st.elapsed + n.toNat }) ∧
        ((s.core g).dbg.stopped = true ∧ (s.core g).dbg.owned = true → (u.core g).step = (s.core g).step))) ∧
    (n.toNat ≤ 1000000 ∨ s.hub.holdover = true → exec (.timestep n) s = .next s)) ∧
  (∀ (s : State) (w : W64), ∃ u, exec (.powerlimit w) s = .next u ∧ u.hub.powerlimit = max 1000 (min 2800 (w.toNat % 4096)) ∧
    u.pkg.powerStep < 5 ∧ u.cores = s.cores ∧ u.ord = s.ord ∧ u.time = s.time) ∧
  (∀ (s : State) (v : W64), exec (.registerWrite none 0x20 v) s = .next { s with hub := { s.hub with lanethresh := v.setWidth 32 } } ∧
    (∃ u, exec (.registerWrite none 0x18 v) s = .next u ∧ u.hub.powerlimit = max 1000 (min 2800 (v.toNat % 4096))) ∧
    exec (.registerWrite none 0x10 v) s = .next { s with hub := { s.hub with ptpdomain := v.toNat % 128 } } ∧
    exec (.registerWrite none 0x28 v) s = exec (.timestep v) s ∧ exec (.registerWrite none 0 v) s = .next s ∧
    (∀ f, f < 64 → exec (.registerWrite none (0x100 + 8 * f) v) s =
      .next { s with hub := { s.hub with hiLatch := vset s.hub.hiLatch f (v.setWidth 32) } })) ∧
  (∀ (s : State) (f ofs : Nat) (v : W64), ofs % 8 = 0 → s.partOfVf f = none → exec (.registerWrite (some f) ofs v) s = .next s) ∧
  (∀ (s : State) (f p : Nat) (v : W64), s.partOfVf f = some p → p < 64 →
    exec (.registerWrite (some f) 0x40 v) s = .next (s.onPart p fun pt => { pt with trbase := v }) ∧
    exec (.registerWrite (some f) 0x48 v) s = .next (s.onPart p fun pt => { pt with trsize := v }) ∧
    exec (.registerWrite (some f) 0x58 v) s = .next (s.onPart p fun pt => { pt with trtail := v }) ∧
    exec (.registerWrite (some f) 0x78 v) s = .next (s.onPart p fun pt => { pt with qsel := v }) ∧
    (∀ k, k < 4 → exec (.registerWrite (some f) (0x20 + 8 * k) v) s =
      .next (s.onPart p fun pt => { pt with entry := { pt.entry with nonce := setElem 64 k pt.entry.nonce v } })) ∧
    (∀ k q, k < 65536 → s.queueOf p k = some q →
      exec (.registerWrite (some f) (0x80000 + 8 * k) v) s = .next (s.doorbell q (v.setWidth 32))) ∧
    (∀ t, v.toNat % 256 = 2 → exec (.flush p) s = .next t → exec (.registerWrite (some f) 0 v) s = .next t) ∧
    (∀ t, v.toNat % 256 = 3 → exec (.reset p) s = .next t → exec (.registerWrite (some f) 0 v) s = .next t) ∧
    (∀ t, v.toNat % 256 = 4 → exec (.scrub p) s = .next t → exec (.registerWrite (some f) 0 v) s = .next t) ∧
    (∀ t, exec (.startVectorWrite p v) s = .next t → exec (.registerWrite (some f) 0x10 v) s = .next t) ∧
    (∀ ofs, ofs ∈ [0x8, 0x18, 0x50, 0x60, 0x68, 0x70] → exec (.registerWrite (some f) ofs v) s = .next s)) ∧
  (∀ s : State, exec .parentClockLoss s = .next { s with hub := { s.hub with holdover := true } }) ∧
  (∀ (s : State) (port : Nat), port < 12 →
    let failed := ((List.range 5).filter fun l => (vget 0 s.pkg.lanes port).getLsbD l).length
    (failed ≤ 2 →
      exec (.ptpMessage port .sync) s = .next { s with pkg := { s.pkg with ptpStamps := s.pkg.ptpStamps ++ [(port, s.time)] } }) ∧
    (3 ≤ failed → exec (.ptpMessage port .sync) s = .refused (.notEnabled "PTP_MESSAGE"))) ∧
  (∀ (s : State) (d t : Nat), d < 4 → vget 0 s.pkg.clockStep d < stepForTemp t →
    ∃ u, exec (.clockStepDown d t) s = .next u ∧ vget 0 u.pkg.clockStep d = stepForTemp t ∧ u.cores = s.cores ∧ u.ord = s.ord ∧
      (∀ e, e ≠ d → vget 0 u.pkg.clockStep e = vget 0 s.pkg.clockStep e)) ∧
  (∀ (s : State) (d temp : Nat) (t : W64), d < 4 → vget 0 s.pkg.clockStep d ≠ 0 → temp < leaveTemp (vget 0 s.pkg.clockStep d) →
    vget none s.pkg.coolSince d = some t →
    ((s.time - t).toNat < 1000000 → exec (.clockStepUp d temp) s = .next s) ∧
    (1000000 ≤ (s.time - t).toNat → ∃ u, exec (.clockStepUp d temp) s = .next u ∧
      vget 0 u.pkg.clockStep d = vget 0 s.pkg.clockStep d - 1 ∧ u.cores = s.cores ∧ u.ord = s.ord)) ∧
  (∀ (s : State) (port lane : Nat), port < 12 → lane < 5 → (vget 0 s.pkg.lanes port).getLsbD lane = false →
    ∃ u, exec (.laneFailure port lane) s = .next u ∧ vget 0 u.pkg.lanes port = vget 0 s.pkg.lanes port ||| (1#5 <<< lane) ∧
      u.cores = s.cores ∧ u.hub = s.hub) ∧
  (∀ (s : State) (r : Removal), r.idle = true → r.module ∉ s.pkg.removed →
    ∃ u, exec (.moduleRemoval r) s = .next u ∧ u.ord = s.ord ∧ u.hub = s.hub ∧ u.time = s.time ∧
      u.pkg = { s.pkg with removed := s.pkg.removed ++ [r.module], lost := s.pkg.lost ++ r.groups.filter fun x => x != 0 } ∧
      (∀ g, g < 288 → (u.core g).files = (s.core g).files ∧
        (∀ st, (s.core g).step = some st → ∃ x, (u.core g).step = some x ∧ (x.orphan = true ↔ st.orphan = true ∨ WaitsForModule s r g)))) ∧
  (∀ (s : State) (g : Nat) (st : StepInfo), (s.core g).step = some st →
    (st.orphan = true ∧ g ∈ s.barMembers g 4 ∨ (s.part st.part).podgroup ∈ s.pkg.lost) → s.barReady g 4 = false)

/-- P1 is entered where every core is free and left to P0; P3 leaves READY clear; a device reset whose firmware verifies scrubs every
core, keeps memory as the greatest-keyed writes left it, zeroes the tables and keeps the classes of the cores; one whose firmware does
not verify halts before READY, with no partition defined and no step resident, and no core runs while READY is clear (R290, R300, R382, R416,
R417). That the classes of the cores and host memory stay, that P0 is the state that a device reset leaves, and what a halted bring-up leaves,
are the model's choice (log entry 46). -/
def Obligations.PowerStatesAndDeviceReset : Prop :=
  (∀ s : State, s.pkg.power = .p0 → (∀ g, g < 288 → (s.core g).status = .free) →
    exec (.powerStateChange .p1) s = .next { s with pkg := { s.pkg with power := .p1 } }) ∧
  (∀ s : State, s.pkg.power = .p1 → exec (.powerStateChange .p0) s = .next { s with pkg := { s.pkg with power := .p0 } }) ∧
  (∀ s : State, exec (.powerStateChange .p3) s =
    .next { s with pkg := { s.pkg with power := .p3 }, hub := { s.hub with ready := false } }) ∧
  (∀ s : State, s.pkg.firmwareOk = true →
    ∃ u, exec (.deviceReset false) s = .next u ∧ u.time = s.time ∧ u.ord.host = s.ord.host ∧
      (∀ g, g < 288 → (u.core g).files = CoreSt.reset.files ∧ (u.core g).status = .free ∧ (u.core g).classB = (s.core g).classB) ∧
      (∀ d, d < 4 → u.ord.view d = s.ord.settledMem) ∧ (∀ p, u.part p = Part.reset) ∧ u.pkg.power = .p0) ∧
  (∀ (s : State) (b : Bool), s.pkg.firmwareOk = false → ∃ u, exec (.deviceReset b) s = .next u ∧ u.hub.ready = false ∧
    (∀ p, u.part p = Part.reset) ∧ (∀ g, g < 288 → (u.core g).status = .free ∧ (u.core g).step = none)) ∧
  (∀ (s : State) (g : Nat) (ts : List Turn), g < 288 → s.hub.ready = false → s.agenda = .core g :: ts →
    step s = .next { s with agenda := ts, tick := s.tick + 1 })

/-- A bank repair of a core without a step makes it class B and is done, and the core stays with its partition where the partition's image serves it
(that an image serves it which colmer need not reschedule is the model's choice, log entry 117); a channel repair uses the spare of its stack; a quad repair of
free cores maps the stand-in quad and retires the failing one; each takes the fields with which the repair started (R411 to R414).
An image that the binding rules admit is bound to a loaded partition, with its handler's address, the comma tables that colmer writes and the
scratchpad images of its logical cores, where every update that its pages ask for may perform; a refused one gives the first code of its reasons and
changes nothing else (R21, R107, R246, R340, R341; log entry 91). -/
def Obligations.RepairsMapTheSparesAndImagesBind : Prop :=
  (∀ (s : State) (g : Nat), g < 288 → s.repStatus = 1 → repKind s.hub.repairRun = 1 → repUnit s.hub.repairRun = g →
    (s.core g).step = none → s.underScrub g = false → s.anyResetting [g] = false →
    ∃ u, exec (.bankRepair g) s = .next u ∧ (u.core g).classB = true ∧ u.repStatus = 2 ∧ u.ord = s.ord ∧
      (∀ h, h ≠ g → (u.core h).classB = (s.core h).classB) ∧
      (∀ p i, p < 64 → s.partHas p g = true → (s.part p).image = some i →
        (u.partHas p g = true ↔ i.classB = true ∨ i.other ≠ none ∨ i.policyCompat = true))) ∧
  (∀ (s : State) (die unit : Nat), s.repStatus = 1 → repKind s.hub.repairRun = 2 → repDie s.hub.repairRun = die →
    repUnit s.hub.repairRun = unit →
    ∃ u, exec (.channelRepair die unit) s = .next u ∧ u.pkg.chanSpare = s.pkg.chanSpare ++ [3 * die + unit / 17] ∧ u.repStatus = 2 ∧
      u.ord = s.ord ∧ u.cores = s.cores) ∧
  (∀ (s : State) (die quad r : Nat), s.repStatus = 1 → repKind s.hub.repairRun = 0 → repDie s.hub.repairRun = die →
    repQuad s.hub.repairRun = quad → die < 4 → quad < 18 →
    (∀ g ∈ quadCores die quad, (s.core g).step = none ∧ s.underScrub g = false) → s.anyResetting (quadCores die quad) = false →
    s.standIn die = some r → s.quadOn die quad = true →
    ∃ u, exec (.quadRepair die quad) s = .next u ∧ u.quadOn die r = true ∧ u.quadOn die quad = false ∧ u.quadGone die quad = true ∧
      u.repStatus = 2 ∧ u.ord = s.ord) ∧
  (∀ (s : State) (p : Nat) (i : Image), p < 64 → (s.part p).loaded ≠ none →
    (∀ k, s.bindRefusal p i = some k → exec (.colmerBind p i) s = .next (s.onPart p fun pt => { pt with refusal := some k })) ∧
    (s.bindRefusal p i = none → i.handlerImage = false → (∀ pa, s.ord.mayArbitrate (homeDie pa) pa = true) →
      ∃ u, exec (.colmerBind p i) s = .next u ∧ (u.part p).image = some (imageTabled i) ∧ (u.part p).tvec = i.tvec ∧
        (u.part p).refusal = none ∧ (i.scratch = [] → ∀ g, g < 288 → (u.core g).files = (s.core g).files) ∧
        (∀ k bs g, i.scratch = [(k, bs)] → vget none (u.part p).bound k = some g → g < 288 → (s.core g).step = none →
          (u.core g).files = ((s.core g).spadWrite 0 bs).files)))

/-! ## Encodings (R50 to R60, R71 to R78) -/

/-- For every well-formed instruction of a bundle, the word that the encoder writes for it, under any guard, decodes in its slot kind to
that instruction with that guard; the twelve bytes of the bundle that holds it alone decode to it; and the events of the device are the
operations that have no words (R50, R51, R57 to R60, R71 to R78). -/
def Obligations.DecodingReadsBackTheEncoding : Prop :=
  ∀ i : Instr, i.wf = true →
    (∀ k, i.kind = some k → ∀ (gp : BitVec 4) (gs : Bool),
      ∃ x, encodeSlot { gp := gp, gs := gs, op := i } = some x ∧ decodeSlot k x = .ok { gp := gp, gs := gs, op := i }) ∧
    (∀ k, i.kind = some k → ∃ bs, encode i = some bs ∧ bs.length = 12 ∧ decodeTableWord 96 (ofBytes 96 bs).toNat = some i) ∧
    (i.kind = none → encode i = none)

/-- Words that the manual writes out, in their slot kinds: a compare with a register above s31, a fused multiply-add with a latch, a tile
load, a conversion under a false guard, a repeated matrix command through matrix address registers, an interpolation, a clause with a
negative offset, a compare-and-swap, a put, a poll, a guarded branch backwards and the two operations that end a handler
(R57 to R60, R71 to R78). -/
def Obligations.WordsDecodeAsTheManualWritesThem : Prop :=
  decodeSlot .s 0x0109006220 = .ok { gp := 0, gs := false, op := .cmplt 2 (.reg 3) (.reg 40) } ∧
  decodeSlot .v0 0x023080C0C6 = .ok { gp := 0, gs := false, op := .vfma .rne 2 0 (.reg 6) (.reg 1) (.latch 3) } ∧
  decodeSlot .l 0x00814C1A02 = .ok { gp := 0, gs := false, op := .tld 5 (.reg 12) (.reg 13) 2 } ∧
  decodeSlot .v2 0x5C50C12218 = .ok { gp := 5, gs := true, op := .vcvt (.bf16f32 .rs) 3 0 (.reg 9) (.reg 4) (.reg 12) } ∧
  decodeSlot .m 0x00040C8409 = .ok { gp := 0, gs := false, op := .mma .bf16 3 0 (.ma 0) (.ma 1) 1 } ∧
  decodeSlot .a 0x002C400381 = .ok { gp := 0, gs := false, op := .alerp 4 0 1 (.reg 7) } ∧
  decodeSlot .d 0x02FC500556 = .ok { gp := 0, gs := false, op := .din 5 0x00AA 0x3F 6 } ∧
  decodeSlot .w 0x00C8828542 = .ok { gp := 0, gs := false, op := .amocas (.reg 8) (.reg 20) (.reg 21) 2 } ∧
  decodeSlot .x 0x0021E11001 = .ok { gp := 0, gs := false, op := .pput (.reg 30) (.reg 40) (.reg 0) 1 } ∧
  decodeSlot .y 0x004501458E = .ok { gp := 0, gs := false, op := .waitph 2 (.reg 10) (.reg 22) 14 } ∧
  decodeSlot .y 0x6804FFFFF1 = .ok { gp := 6, gs := true, op := .br 0xFFFFF1 } ∧
  decodeSlot .y 0x0088000000 = .ok { gp := 0, gs := false, op := .trapack } ∧
  decodeSlot .y 0x008C000000 = .ok { gp := 0, gs := false, op := .tret }

/-! ## The step (R31, R52, R53, R233, R293) -/

namespace Sys2Proof.Claims

/-- The state in which one slot of a group issues, the group's precise faults checked. -/
def atSlot (s : State) (x : Group) (k : SlotKind) (a : Addr) : State :=
  s.onCur fun c => { c with flow := { c.flow with
    slotIdx := k.num, bundleA := a, groupA := x.addr, groupEnd := x.addr + BitVec.ofNat 60 x.len, checked := true } }

/-- The state in which a group with one live slot begins to issue: its loop levels have noted it, and a watch range it touches is hit. -/
def groupNoted (s : State) (g : Nat) (x : Group) (k : SlotKind) (i : Instr) (a : Addr) : State :=
  s.onCore g fun c =>
    { c with
      flow := { c.flow with loops := c.flow.loops.map fun l => l.note x }
      dbg := { c.dbg with hit := (c.watchOf (s.slotSizeAt g) x.addr [{ slot := k.num, op := i, bundle := a }]).or c.dbg.hit } }

/-- A group that is reached with its bytes arrived, legal, and that nothing holds or faults. -/
structure MayIssue (s : State) (g : Nat) (x : Group) : Prop where
  arrived : (s.core g).reached.fetchLeft = 0
  broke : (s.core g).reached.broke = true
  running : (s.core g).status = .running
  going : (s.core g).dbg.stopped = false
  reached : (s.core g).reached.grp = some x
  plain : x.comma = false ∧ x.window = false ∧ x.bad = none
  timely : s.timedOut g = false
  free : (s.core g).compatHold = false ∧ (s.core g).bankHold (issuingOf ((s.core g).live x)) = false ∧
    (((s.core g).live x).any (fun y => y.1 == .m) = true → (s.core g).shadowFull = false)
  waits : ∀ i, yOf ((s.core g).live x) = some i → s.waitHolds g i = false ∧ (s.core g).reported x.addr i = none
  sound : (s.core g).groupFault x.addr (issuingOf ((s.core g).live x)) = none

end Sys2Proof.Claims

/-- While the device is READY a turn of a core whose clock runs, and whose cycles are not a ns ahead of the time counter already, is one cycle of its
clock, and takes that cycle's time (log entry 3: the model's choice); an event that the agenda names happens where its condition holds and leaves the state
otherwise, and then what waits in the hub goes on; bytes that a core fetches up to a bundle with STOP are the group of that bundle; a core reaches the group
that it fetches, whose bytes colmer has bound; a group that nothing holds or faults issues;
and the issue of a group with one live slot is `exec` of the instruction that its slot decodes to, at the state in which that slot
issues, with the counts of the group and the advance of the program counter around it (R5, R52, R53, R61, R131, R233, R293,
R416). -/
def Obligations.AStepRunsTheDecodedInstruction : Prop :=
  (∀ (s : State) (g : Nat) (ts : List Turn) (h : g < 288), s.hub.ready = true → s.agenda = .core g :: ts →
    let n : State := { s with agenda := ts, tick := s.tick + 1 }
    (s.clocked g = true → (s.core g).ahead < 1008 →
      step s = .next ((n.coreCycle ⟨g, h⟩).onCore g fun c => { c with ahead := c.ahead + cycleTime (s.clockOf (Config.dieOf g)) }).settle) ∧
    (s.clocked g = false ∨ 1008 ≤ (s.core g).ahead → step s = .next n.settle)) ∧
  (∀ (s : State) (i : Instr) (ts : List Turn), s.hub.ready = true → s.agenda = .act i :: ts → i.kind = none →
    (∀ t, exec i { s with agenda := ts, tick := s.tick + 1 } = .next t → step s = .next t.settle) ∧
    (∀ r, exec i { s with agenda := ts, tick := s.tick + 1 } = .refused r → step s = .next { s with agenda := ts, tick := s.tick + 1 })) ∧
  (∀ (s : State) (g : Nat) (va : W64) (h : W32) (bs : List Byte), s.fetchWord g va = .ok h → (headerOf h).stop = true →
    s.fetchWords g (bundleBytes (maskKinds (headerOf h).mask).length / 4) va = .ok bs →
    s.fetchGroup g va = .ok (groupOf (va.setWidth 60) [(va.setWidth 60, decodeBundle bs)])) ∧
  (∀ (s u : State) (g : Nat) (x : Group), (s.core g).dbg.stopped = false → (s.core g).flow.empty = 0 → (s.core g).dbg.hit = none →
    (s.core g).status = .running → s.stopNow g = none → g < 288 →
    ((s.core g).reached.grp = some x → s.runCycle g = s.groupCycle g x) ∧
    ((s.core g).reached.grp = none → (s.core g).reached.stuck = false → (s.core g).buffered (s.core g).pc = none →
      s.fetchGroup g (s.core g).pcVa = .ok x → s.boundCode g (s.core g).pcVa x.len = true →
      s.touchPages g 4 (s.core g).pcVa x.len = some u →
      s.runCycle g = ((u.findBodies g x.addr).onCore g fun c => { c with reached := { c.reached with
        grp := some x, since := some u.time, fetchLeft := (x.len - 1) / 64 } }).groupCycle g x) ∧
    ((s.core g).reached.grp = none → (s.core g).reached.stuck = false → (s.core g).pcHigh = 0 →
      (s.core g).buffered (s.core g).pc = some x →
      s.runCycle g = ((s.findBodies g x.addr).onCore g fun c => { c with reached := { c.reached with
        grp := some x, since := some s.time, fetchLeft := 0 } }).groupCycle g x)) ∧
  (∀ (s : State) (g : Nat) (x : Group), g < 288 → MayIssue s g x →
    s.groupCycle g x = (s.onCore g fun c => { c with reached := { c.reached with drain := none } }).issueGroup g x) ∧
  (∀ (s t : State) (x : Group) (k : SlotKind) (y : Slot) (a : Addr), x.slots = [(k, y, a)] → s.cc.guardOk y.gp y.gs = true →
    let g := s.cur.val
    let n := groupNoted s g x k y.op a
    let levels := s.cc.flow.loops.map fun l => l.note x
    let counted := fun (u : State) (e : Nat) => (u.coreDieEvent g 11 ((u.core g).faultCount - s.cc.faultCount)).countGroup g x levels e
    (k ≠ .y → exec y.op (atSlot n x k a) = .next t → s.issueGroup g x = (counted t x.e).afterGroup g x s.cc.ctrl.handler false x.e) ∧
    (k = .y → yFirst y.op = true → exec y.op (atSlot n x k a) = .next t →
      let e := if y.op = .endStep then 0 else x.e
      s.issueGroup g x = (counted t e).afterGroup g x s.cc.ctrl.handler false e) ∧
    (k = .y → yFirst y.op = false → exec y.op (atSlot (counted n x.e) x k a) = .next t →
      s.issueGroup g x = t.afterGroup g x s.cc.ctrl.handler (decide (y.op = .tret)) x.e))

/-- The device never refuses a step and never stops of itself: with nothing on the agenda a step has a next state, and one that the agenda
names stops only where it names a core that the device does not have. An instruction of a bundle always has a next state, whatever its
operands, its mode and the state of the core: its effect, its hold or the trap it takes (R31, R293). -/
def Obligations.TheDeviceNeverStops : Prop :=
  (∀ (s : State) (r : Refusal), step s ≠ .refused r) ∧
  (∀ s : State, s.agenda = [] → ∃ t, step s = .next t) ∧
  (∀ (s : State) (f : Fault), step s = .fault f → ∃ g, 288 ≤ g ∧ f = .noSuchCore g) ∧
  (∀ (i : Instr) (s : State), i.kind ≠ none → ∃ t, exec i s = .next t)

/-! ## Register 0 (R102) -/

namespace Sys2Proof.Claims

/-- The field of an instruction that names one scalar register or latch as its destination. -/
def scalarField : Instr → Option SDst
  | .add d _ _ | .sub d _ _ | .and d _ _ | .or d _ _ | .xor d _ _ | .andn d _ _ | .shl d _ _ | .shr d _ _ | .sar d _ _ | .min d _ _
  | .max d _ _ | .minu d _ _ | .maxu d _ _ | .adds d _ _ | .subs d _ _ | .mul d _ _ | .mulh d _ _ | .mulhu d _ _ | .div d _ _
  | .divu d _ _ | .rem d _ _ | .remu d _ _ => some d
  | .addi d _ _ | .andi d _ _ | .ori d _ _ | .xori d _ _ | .shli d _ _ | .shri d _ _ | .sari d _ _ => some d
  | .movq d _ _ _ | .movps d | .rdcnt d _ | .rdtime d | .rddesc d _ | .crrd d _ | .amag d _ | .adot d _ _ => some d
  | .fadd _ _ d _ _ | .fsub _ _ d _ _ | .fmul _ _ d _ _ | .fma _ _ d _ _ => some d
  | .cvtF64I64 _ d _ | .cvtI64F64 _ d _ | .cvtF32I64 _ d _ | .cvtI64F32 _ d _ | .cvtF32F64 _ d _ | .cvtF64F32 d _ => some d
  | .dlab d _ _ | .dval d _ _ | .dsize d _ _ | .dlo d _ _ | .dhi d _ _ => some d
  | .lds _ d _ _ | .arrive d _ _ _ | .binit d _ _ _ => some d
  | .amoadd d _ _ _ | .amoswp d _ _ _ | .amocas d _ _ _ | .amomin d _ _ _ | .amomax d _ _ _ | .amoand d _ _ _ | .amoor d _ _ _ => some d
  | _ => none

end Sys2Proof.Claims

/-- R102: s0 reads zero in every field that reads a scalar register, a destination field that is also read among them, whatever the register
holds; a result for it is discarded when it lands or is written. An operation's list of destinations, from which the rules of a duplicate
destination and of a landing collision are taken, never names it: where a scalar destination field names s0 the list is empty, and where it
names another register or a latch that one is the list. -/
def Obligations.RegisterZeroReadsZeroAndDiscards : Prop :=
  (∀ c : CoreSt, c.sreg 0 = 0 ∧ c.src (.reg 0) = 0 ∧ c.srcFlag (.reg 0) = 0 ∧ c.old (.reg 0) = 0 ∧ c.oldFlag (.reg 0) = 0) ∧
  (∀ (c : CoreSt) (x : W64), CoreSt.wS (.reg 0) x = [.sreg 0 x] ∧ c.applyWrite (.sreg 0 x) = (c, 0) ∧ c.putS (.reg 0) x = c) ∧
  (∀ (i : Instr) (n : Named), n ∈ i.dests → n.2 ≠ .s 0) ∧
  (∀ (i : Instr) (d : SDst), scalarField i = some d → destsOf i = (match d with
    | .reg n => if n = 0 then [] else [.s n.toNat]
    | .latch k => [.sl k.toNat])) ∧
  (∀ (s : State) (a b : SSrc), s.cc.flow.checked = true →
    exec (.add (.reg 0) a b) s = .next (s.onCur fun c =>
      c.fly ((Instr.add (.reg 0) a b).latency c.classB) [] (CoreSt.wS (.reg 0) (c.src a + c.src b)) (c.srcFlag a ||| c.srcFlag b)))

/-! ## The canonical form of memory, and reset (R290, R370, R417) -/

namespace Sys2Proof.Claims

/-- Every sparse memory of the device is in its canonical form: the dies' views with their keys and the line clocks, host memory, the
scratchpads, the bound code of the partitions, and the hub's queue descriptors with their rings, error counts, copies of evicted queues and channel
owners. -/
def CanonicalMemory (s : State) : Prop :=
  (∀ d, d < 4 → amWf 0 (s.ord.view d) = true ∧ amWf Order.keyZero (s.ord.viewKeys d) = true) ∧
  amWf clkZero s.ord.lclock = true ∧ amWf 0 s.ord.host = true ∧
  (∀ g, g < 288 → amWf 0 (s.core g).files.spad = true) ∧ (∀ p, p < 64 → amWf 0 (s.part p).code = true) ∧
  amWf .reset s.hub.queues = true ∧ (∀ q, amWf 0 (amGet .reset s.hub.queues q).ring = true) ∧ amWf 0 s.hub.corrErr = true ∧ amWf 0 s.hub.coreErr = true ∧
  amWf [] s.hub.copies = true ∧ amWf 0 s.hub.chanOwn = true

end Sys2Proof.Claims

/-- A step keeps every memory of the device in its canonical form: addresses strictly rising and no entry equal to what an unlisted
address reads as, so that equal memories are equal data (R289, R291; log entry 2). -/
def Obligations.EveryStepKeepsTheCanonicalMemory : Prop :=
  ∀ s t : State, CanonicalMemory s → step s = .next t → CanonicalMemory t

/-- At reset: every core is free, its registers, latches, predicates, tiles, accumulators and scratchpad read zero, its norms read the
code ZERO, its domains are {0}, its tokens are idle, its queues empty and its loop levels none; cr.dbudget, cr.solvtau and cr.solvdelta
hold the values of their rows; no partition is defined, no queue exists, the clocks of the dies are zero, and the memory, which lists
nothing, is in its canonical form. What memory then reads as (log entry 2) and the registers to which the manual gives no reset value (log
entry 4) are the model's choice. -/
def Obligations.ResetLeavesAScrubbedDevice : Prop :=
  (∀ g, g < 288 → let c := State.reset.core g
    c.status = .free ∧ c.step = none ∧ (∀ n, c.sreg n = 0) ∧ (∀ k, c.slatch k = 0) ∧ c.files.p = 0 ∧
    (∀ i n, c.vreg i n = 0) ∧ (∀ n, c.tile n = 0) ∧ (∀ n, vget 0 c.files.accMain n = 0) ∧ (∀ n, n < 16 → c.norm n = CoreSt.nZero) ∧
    (∀ n, n < 32 → c.creg n = domZero) ∧ (∀ x, amGet 0 c.files.spad x = 0) ∧
    (∀ w, c.token w = .idle) ∧ c.flow.mem = [] ∧ c.flow.mq = [] ∧ c.flow.xq = [] ∧ c.dom.ops = [] ∧ c.flow.loops = [] ∧
    c.crRead 0x000 = 0 ∧ c.ctrl.handler = false ∧ c.ctrl.frozen = false ∧ c.ctrl.dbudget = 1024 ∧
    c.ctrl.solvtau = 0x3D70000000000000 ∧ c.ctrl.solvdelta = 0x3E10000000000000) ∧
  (∀ p, (State.reset.part p).entry.state = 0 ∧ (State.reset.part p).loaded = none) ∧
  (∀ d, d < 4 → State.reset.ord.view d = [] ∧ State.reset.ord.dieClock d = clkZero) ∧
  State.reset.time = 0 ∧ State.reset.hub.queues = [] ∧ State.reset.hub.ready = true ∧ State.reset.agenda = [] ∧
  CanonicalMemory State.reset

/-! ## Division (R110) -/

namespace Sys2Proof.Claims

/-- The instructions of R109 other than the divisions and the saturating forms. -/
def plainInteger (d : SDst) (a b : SSrc) : List Instr :=
  [.add d a b, .sub d a b, .and d a b, .or d a b, .xor d a b, .andn d a b, .shl d a b, .shr d a b, .sar d a b, .min d a b, .max d a b,
   .minu d a b, .maxu d a b, .mul d a b, .mulh d a b, .mulhu d a b]

/-- In a group whose faults are checked an instruction puts one scalar result and its flags in flight, and changes nothing else. -/
def Lands (s : State) (i : Instr) (d : SDst) (x : W64) (f : Flg) : Prop :=
  exec i s = .next (s.onCur fun c => c.fly (i.latency c.classB) (destsOf i) (CoreSt.wS d x) f)

end Sys2Proof.Claims

/-- R110: a divisor of zero gives −1 from DIV, 2^64 − 1 from DIVU and the dividend from REM and REMU, with divide-by-zero; DIV of −2^63 by
−1 gives −2^63 and REM gives 0, with no flag; DIV, DIVU, REM and REMU raise none otherwise, and no other instruction of the family but
ADDS and SUBS raises any. A source that is a latch may add latch-lost, which reading it raises. -/
def Obligations.DivisionHasItsEdgeCases : Prop :=
  ∀ (s : State) (d : SDst) (a b : SSrc), s.cc.flow.checked = true →
    let x := s.cc.src a
    let y := s.cc.src b
    let lost := s.cc.srcFlag a ||| s.cc.srcFlag b
    (y = 0 → Lands s (.div d a b) d (-1) (.divz ||| lost) ∧ Lands s (.divu d a b) d (BitVec.ofNat 64 (2 ^ 64 - 1)) (.divz ||| lost) ∧
      Lands s (.rem d a b) d x (.divz ||| lost) ∧ Lands s (.remu d a b) d x (.divz ||| lost)) ∧
    (x = BitVec.ofInt 64 (-2 ^ 63) → y = -1 →
      Lands s (.div d a b) d (BitVec.ofInt 64 (-2 ^ 63)) lost ∧ Lands s (.rem d a b) d 0 lost) ∧
    (y ≠ 0 → ∀ i ∈ [Instr.div d a b, .divu d a b, .rem d a b, .remu d a b], ∃ z, Lands s i d z lost) ∧
    (∀ i ∈ plainInteger d a b, ∃ z, Lands s i d z lost)
end

