-- ==== Sys2Proof/Laws/Encoding.lean ====
section
/-! SUPPORT. The decoder reads back what the encoder writes, format by format (R57 to R60, R71 to R78). -/

namespace Sys2Proof.Laws

/-! ## Fields of concatenated words -/

theorem app_hi {a b : Nat} (x : BitVec a) (y : BitVec b) (lo w : Nat) (h : b ≤ lo) : fld lo w (x ++ y) = fld (lo - b) w x := by
  ext i hi
  simp [fld, BitVec.getLsbD_append, show ¬ lo + i < b by omega, show lo + i - b = lo - b + i by omega]
theorem app_lo {a b : Nat} (x : BitVec a) (y : BitVec b) (lo w : Nat) (h : lo + w ≤ b) : fld lo w (x ++ y) = fld lo w y := by
  ext i hi
  simp [fld, BitVec.getLsbD_append, show lo + i < b by omega]
theorem fld_all {w : Nat} (x : BitVec w) : fld 0 w x = x := by
  ext i hi
  simp [fld]
theorem fld_span {n : Nat} (x : BitVec n) (lo u v : Nat) : fld lo (u + v) x = fld (lo + v) u x ++ fld lo v x := by
  ext i hi
  by_cases h : i < v
  · simp [fld, BitVec.getElem_append, h]
  · simp [fld, BitVec.getElem_append, h, show lo + v + (i - v) = lo + i by omega]
theorem getLsbD_of {n : Nat} {x : BitVec n} {i : Nat} {b : Bool} (h : fld i 1 x = bit1 b) : x.getLsbD i = b := by
  have := congrArg (fun y : BitVec 1 => y.getLsbD 0) h
  simpa [fld, bit1] using this

/-! ## Operand fields -/

theorem encS_ok (a : SSrc) : sOk (encS a).1 (encS a).2 = true := by
  cases a with
  | reg n => revert n; decide
  | latch k => revert k; decide
theorem encD_ok (a : SDst) : sOk (encD a).1 (encD a).2 = true := by
  cases a with
  | reg n => revert n; decide
  | latch k => revert k; decide
theorem encS_of (a : SSrc) : srcOf (encS a).1 (encS a).2 = a := by
  cases a with
  | reg n => revert n; decide
  | latch k => revert k; decide
theorem encD_of (a : SDst) : dstOf (encD a).1 (encD a).2 = a := by
  cases a with
  | reg n => revert n; decide
  | latch k => revert k; decide
theorem encVS_ok (a : VSrc) : vOk (encVS a) = true := by
  cases a with
  | reg n => revert n; decide
  | latch k => revert k; decide
theorem encVD_ok (a : VDst) : vOk (encVD a) = true := by
  cases a with
  | reg n => revert n; decide
  | latch k => revert k; decide
theorem encVS_of (a : VSrc) : vsrcOf (encVS a) = a := by
  cases a with
  | reg n => revert n; decide
  | latch k => revert k; decide
theorem encVD_of (a : VDst) : vdstOf (encVD a) = a := by
  cases a with
  | reg n => revert n; decide
  | latch k => revert k; decide
theorem encTA_ok (a : TOp) : tAOk (encTA a).2 (encTA a).1 = true := by
  cases a with
  | tile n => revert n; decide
  | ma k => revert k; decide
theorem encTA_of (a : TOp) : tA (encTA a).2 (encTA a).1 = a := by
  cases a with
  | tile n => revert n; decide
  | ma k => revert k; decide
theorem encTB_ok (a : TOp) : tBOk (encTB a).2 (encTB a).1 = true := by
  cases a with
  | tile n => revert n; decide
  | ma k => revert k; decide
theorem encTB_of (a : TOp) : tB (encTB a).2 (encTB a).1 = a := by
  cases a with
  | tile n => revert n; decide
  | ma k => revert k; decide
theorem cOk_zero (n : BitVec 5) : cOk (0#1 ++ n) = true := by revert n; decide
theorem aOk_zero (n : BitVec 4) : aOk (0#2 ++ n) = true := by revert n; decide
theorem split6 (s : BitVec 6) : fld 5 1 s ++ fld 0 5 s = s := by revert s; decide
theorem bit1_eq (b : Bool) : (bit1 b == 1#1) = b := by cases b <;> rfl
theorem pairEven {pair : Bool} {t : BitVec 4} (h : (!pair || decide (t.toNat % 2 = 0)) = true) :
    (bit1 pair == 0#1 || fld 0 1 t == 0#1) = true := by revert h pair t; decide

/-! ## The formats -/

theorem fSR_eSR (c : SDst → SSrc → SSrc → Instr) (d : SDst) (a b : SSrc) :
    fSR c (eSR d a b) = .ok (c d a b) := by
  obtain ⟨x, hx⟩ : ∃ x : BitVec 26, x = (eSR d a b) := ⟨_, rfl⟩
  rw [← hx]
  have h0 : fld 20 6 x = (encD d).1 := by subst hx; exact (app_hi _ _ _ _ (by decide)).trans ((app_hi _ _ _ _ (by decide)).trans ((app_hi _ _ _ _ (by decide)).trans ((app_hi _ _ _ _ (by decide)).trans (fld_all _))))
  have h1 : fld 19 1 x = (encD d).2 := by subst hx; exact (app_hi _ _ _ _ (by decide)).trans ((app_hi _ _ _ _ (by decide)).trans ((app_hi _ _ _ _ (by decide)).trans ((app_lo _ _ _ _ (by decide)).trans (fld_all _))))
  have h2 : fld 13 6 x = (encS a).1 := by subst hx; exact (app_hi _ _ _ _ (by decide)).trans ((app_hi _ _ _ _ (by decide)).trans ((app_lo _ _ _ _ (by decide)).trans ((app_hi _ _ _ _ (by decide)).trans (fld_all _))))
  have h3 : fld 12 1 x = (encS a).2 := by subst hx; exact (app_hi _ _ _ _ (by decide)).trans ((app_hi _ _ _ _ (by decide)).trans ((app_lo _ _ _ _ (by decide)).trans ((app_lo _ _ _ _ (by decide)).trans (fld_all _))))
  have h4 : fld 6 6 x = (encS b).1 := by subst hx; exact (app_hi _ _ _ _ (by decide)).trans ((app_lo _ _ _ _ (by decide)).trans ((app_hi _ _ _ _ (by decide)).trans (fld_all _)))
  have h5 : fld 5 1 x = (encS b).2 := by subst hx; exact (app_hi _ _ _ _ (by decide)).trans ((app_lo _ _ _ _ (by decide)).trans ((app_lo _ _ _ _ (by decide)).trans (fld_all _)))
  have h6 : fld 0 5 x = 0#5 := by subst hx; exact (app_lo _ _ _ _ (by decide)).trans (fld_all _)
  simp [fSR, h0, h1, h2, h3, h4, h5, h6, checked, firstBad, encS_ok, encS_of, encD_ok, encD_of]

theorem fSR2_eSR2 (c : SDst → SSrc → Instr) (d : SDst) (a : SSrc) :
    fSR2 c (eSR2 d a) = .ok (c d a) := by
  obtain ⟨x, hx⟩ : ∃ x : BitVec 26, x = (eSR2 d a) := ⟨_, rfl⟩
  rw [← hx]
  have h0 : fld 20 6 x = (encD d).1 := by subst hx; exact (app_hi _ _ _ _ (by decide)).trans ((app_hi _ _ _ _ (by decide)).trans ((app_hi _ _ _ _ (by decide)).trans (fld_all _)))
  have h1 : fld 19 1 x = (encD d).2 := by subst hx; exact (app_hi _ _ _ _ (by decide)).trans ((app_hi _ _ _ _ (by decide)).trans ((app_lo _ _ _ _ (by decide)).trans (fld_all _)))
  have h2 : fld 13 6 x = (encS a).1 := by subst hx; exact (app_hi _ _ _ _ (by decide)).trans ((app_lo _ _ _ _ (by decide)).trans ((app_hi _ _ _ _ (by decide)).trans (fld_all _)))
  have h3 : fld 12 1 x = (encS a).2 := by subst hx; exact (app_hi _ _ _ _ (by decide)).trans ((app_lo _ _ _ _ (by decide)).trans ((app_lo _ _ _ _ (by decide)).trans (fld_all _)))
  have h4 : fld 5 7 x = 0#7 := by subst hx; exact (app_lo _ _ _ _ (by decide)).trans (rfl)
  have h5 : fld 0 5 x = 0#5 := by subst hx; exact (app_lo _ _ _ _ (by decide)).trans (rfl)
  simp [fSR2, h0, h1, h2, h3, h4, h5, checked, firstBad, encS_ok, encS_of, encD_ok, encD_of]

theorem fSR1_eSR1 (c : SDst → Instr) (d : SDst) :
    fSR1 c (eSR1 d) = .ok (c d) := by
  obtain ⟨x, hx⟩ : ∃ x : BitVec 26, x = (eSR1 d) := ⟨_, rfl⟩
  rw [← hx]
  have h0 : fld 20 6 x = (encD d).1 := by subst hx; exact (app_hi _ _ _ _ (by decide)).trans ((app_hi _ _ _ _ (by decide)).trans (fld_all _))
  have h1 : fld 19 1 x = (encD d).2 := by subst hx; exact (app_hi _ _ _ _ (by decide)).trans ((app_lo _ _ _ _ (by decide)).trans (fld_all _))
  have h2 : fld 12 7 x = 0#7 := by subst hx; exact (app_lo _ _ _ _ (by decide)).trans (rfl)
  have h3 : fld 5 7 x = 0#7 := by subst hx; exact (app_lo _ _ _ _ (by decide)).trans (rfl)
  have h4 : fld 0 5 x = 0#5 := by subst hx; exact (app_lo _ _ _ _ (by decide)).trans (rfl)
  simp [fSR1, h0, h1, h2, h3, h4, checked, firstBad, encD_ok, encD_of]

theorem fSRA_eYR (c : SSrc → Instr) (a : SSrc) :
    fSRA c (0#7 ++ fx (encS a) ++ 0#12 : BitVec 26) = .ok (c a) := by
  obtain ⟨x, hx⟩ : ∃ x : BitVec 26, x = (0#7 ++ fx (encS a) ++ 0#12 : BitVec 26) := ⟨_, rfl⟩
  rw [← hx]
  have h0 : fld 19 7 x = 0#7 := by subst hx; exact (app_hi _ _ _ _ (by decide)).trans ((app_hi _ _ _ _ (by decide)).trans (fld_all _))
  have h1 : fld 13 6 x = (encS a).1 := by subst hx; exact (app_hi _ _ _ _ (by decide)).trans ((app_lo _ _ _ _ (by decide)).trans ((app_hi _ _ _ _ (by decide)).trans (fld_all _)))
  have h2 : fld 12 1 x = (encS a).2 := by subst hx; exact (app_hi _ _ _ _ (by decide)).trans ((app_lo _ _ _ _ (by decide)).trans ((app_lo _ _ _ _ (by decide)).trans (fld_all _)))
  have h3 : fld 5 7 x = 0#7 := by subst hx; exact (app_lo _ _ _ _ (by decide)).trans (rfl)
  have h4 : fld 0 5 x = 0#5 := by subst hx; exact (app_lo _ _ _ _ (by decide)).trans (rfl)
  simp [fSRA, h0, h1, h2, h3, h4, checked, firstBad, encS_ok, encS_of]

theorem fSI_eSI (c : SDst → SSrc → BitVec 12 → Instr) (d : SDst) (a : SSrc) (i : BitVec 12) :
    fSI c (eSI d a i) = .ok (c d a i) := by
  obtain ⟨x, hx⟩ : ∃ x : BitVec 26, x = (eSI d a i) := ⟨_, rfl⟩
  rw [← hx]
  have h0 : fld 20 6 x = (encD d).1 := by subst hx; exact (app_hi _ _ _ _ (by decide)).trans ((app_hi _ _ _ _ (by decide)).trans ((app_hi _ _ _ _ (by decide)).trans (fld_all _)))
  have h1 : fld 19 1 x = (encD d).2 := by subst hx; exact (app_hi _ _ _ _ (by decide)).trans ((app_hi _ _ _ _ (by decide)).trans ((app_lo _ _ _ _ (by decide)).trans (fld_all _)))
  have h2 : fld 13 6 x = (encS a).1 := by subst hx; exact (app_hi _ _ _ _ (by decide)).trans ((app_lo _ _ _ _ (by decide)).trans ((app_hi _ _ _ _ (by decide)).trans (fld_all _)))
  have h3 : fld 12 1 x = (encS a).2 := by subst hx; exact (app_hi _ _ _ _ (by decide)).trans ((app_lo _ _ _ _ (by decide)).trans ((app_lo _ _ _ _ (by decide)).trans (fld_all _)))
  have h4 : fld 0 12 x = i := by subst hx; exact (app_lo _ _ _ _ (by decide)).trans (fld_all _)
  simp [fSI, h0, h1, h2, h3, h4, checked, firstBad, encS_ok, encS_of, encD_ok, encD_of]

theorem fSIS_eSI (c : SDst → SSrc → BitVec 6 → Instr) (d : SDst) (a : SSrc) (n : BitVec 6) :
    fSIS c (eSI d a (0#6 ++ n)) = .ok (c d a n) := by
  obtain ⟨x, hx⟩ : ∃ x : BitVec 26, x = (eSI d a (0#6 ++ n)) := ⟨_, rfl⟩
  rw [← hx]
  have h0 : fld 20 6 x = (encD d).1 := by subst hx; exact (app_hi _ _ _ _ (by decide)).trans ((app_hi _ _ _ _ (by decide)).trans ((app_hi _ _ _ _ (by decide)).trans (fld_all _)))
  have h1 : fld 19 1 x = (encD d).2 := by subst hx; exact (app_hi _ _ _ _ (by decide)).trans ((app_hi _ _ _ _ (by decide)).trans ((app_lo _ _ _ _ (by decide)).trans (fld_all _)))
  have h2 : fld 13 6 x = (encS a).1 := by subst hx; exact (app_hi _ _ _ _ (by decide)).trans ((app_lo _ _ _ _ (by decide)).trans ((app_hi _ _ _ _ (by decide)).trans (fld_all _)))
  have h3 : fld 12 1 x = (encS a).2 := by subst hx; exact (app_hi _ _ _ _ (by decide)).trans ((app_lo _ _ _ _ (by decide)).trans ((app_lo _ _ _ _ (by decide)).trans (fld_all _)))
  have h4 : fld 0 6 x = n := by subst hx; exact (app_lo _ _ _ _ (by decide)).trans ((app_lo _ _ _ _ (by decide)).trans (fld_all _))
  have h5 : fld 6 6 x = 0#6 := by subst hx; exact (app_lo _ _ _ _ (by decide)).trans ((app_hi _ _ _ _ (by decide)).trans (fld_all _))
  simp [fSIS, h0, h1, h2, h3, h4, h5, checked, firstBad, encS_ok, encS_of, encD_ok, encD_of]

theorem fSK_enc (d : SDst) (h : BitVec 2) (k : Bool) (i : BitVec 16) :
    fSK (fx (encD d) ++ h ++ bit1 k ++ i : BitVec 26) = .ok (.movq d h k i) := by
  obtain ⟨x, hx⟩ : ∃ x : BitVec 26, x = (fx (encD d) ++ h ++ bit1 k ++ i : BitVec 26) := ⟨_, rfl⟩
  rw [← hx]
  have h0 : fld 20 6 x = (encD d).1 := by subst hx; exact (app_hi _ _ _ _ (by decide)).trans ((app_hi _ _ _ _ (by decide)).trans ((app_hi _ _ _ _ (by decide)).trans ((app_hi _ _ _ _ (by decide)).trans (fld_all _))))
  have h1 : fld 19 1 x = (encD d).2 := by subst hx; exact (app_hi _ _ _ _ (by decide)).trans ((app_hi _ _ _ _ (by decide)).trans ((app_hi _ _ _ _ (by decide)).trans ((app_lo _ _ _ _ (by decide)).trans (fld_all _))))
  have h2 : fld 17 2 x = h := by subst hx; exact (app_hi _ _ _ _ (by decide)).trans ((app_hi _ _ _ _ (by decide)).trans ((app_lo _ _ _ _ (by decide)).trans (fld_all _)))
  have h3 : fld 0 16 x = i := by subst hx; exact (app_lo _ _ _ _ (by decide)).trans (fld_all _)
  have b0 : x[16] = k := by
    have := getLsbD_of (n := 26) (i := 16) (show fld 16 1 x = bit1 k by subst hx; exact (app_hi _ _ _ _ (by decide)).trans ((app_lo _ _ _ _ (by decide)).trans (fld_all _)))
    simpa using this
  simp [fSK, h0, h1, h2, h3, b0, checked, firstBad, encD_ok, encD_of]

theorem fSP_eSP (c : BitVec 3 → SSrc → SSrc → Instr) (p : BitVec 3) (a b : SSrc) (h : pairLegal p = true) :
    fSP c (eSP p a b) = .ok (c p a b) := by
  obtain ⟨x, hx⟩ : ∃ x : BitVec 26, x = (eSP p a b) := ⟨_, rfl⟩
  rw [← hx]
  have h0 : fld 23 3 x = p := by subst hx; exact (app_hi _ _ _ _ (by decide)).trans ((app_hi _ _ _ _ (by decide)).trans ((app_hi _ _ _ _ (by decide)).trans ((app_hi _ _ _ _ (by decide)).trans (fld_all _))))
  have h1 : fld 13 6 x = (encS a).1 := by subst hx; exact (app_hi _ _ _ _ (by decide)).trans ((app_hi _ _ _ _ (by decide)).trans ((app_lo _ _ _ _ (by decide)).trans ((app_hi _ _ _ _ (by decide)).trans (fld_all _))))
  have h2 : fld 12 1 x = (encS a).2 := by subst hx; exact (app_hi _ _ _ _ (by decide)).trans ((app_hi _ _ _ _ (by decide)).trans ((app_lo _ _ _ _ (by decide)).trans ((app_lo _ _ _ _ (by decide)).trans (fld_all _))))
  have h3 : fld 6 6 x = (encS b).1 := by subst hx; exact (app_hi _ _ _ _ (by decide)).trans ((app_lo _ _ _ _ (by decide)).trans ((app_hi _ _ _ _ (by decide)).trans (fld_all _)))
  have h4 : fld 5 1 x = (encS b).2 := by subst hx; exact (app_hi _ _ _ _ (by decide)).trans ((app_lo _ _ _ _ (by decide)).trans ((app_lo _ _ _ _ (by decide)).trans (fld_all _)))
  have h5 : fld 19 4 x = 0#4 := by subst hx; exact (app_hi _ _ _ _ (by decide)).trans ((app_hi _ _ _ _ (by decide)).trans ((app_hi _ _ _ _ (by decide)).trans ((app_lo _ _ _ _ (by decide)).trans (fld_all _))))
  have h6 : fld 0 5 x = 0#5 := by subst hx; exact (app_lo _ _ _ _ (by decide)).trans (fld_all _)
  simp [fSP, h0, h1, h2, h3, h4, h5, h6, checked, firstBad, encS_ok, encS_of, h]

theorem fSPI_eSPI (c : BitVec 3 → SSrc → BitVec 12 → Instr) (p : BitVec 3) (a : SSrc) (i : BitVec 12) (h : pairLegal p = true) :
    fSPI c (eSPI p a i) = .ok (c p a i) := by
  obtain ⟨x, hx⟩ : ∃ x : BitVec 26, x = (eSPI p a i) := ⟨_, rfl⟩
  rw [← hx]
  have h0 : fld 23 3 x = p := by subst hx; exact (app_hi _ _ _ _ (by decide)).trans ((app_hi _ _ _ _ (by decide)).trans ((app_hi _ _ _ _ (by decide)).trans (fld_all _)))
  have h1 : fld 13 6 x = (encS a).1 := by subst hx; exact (app_hi _ _ _ _ (by decide)).trans ((app_lo _ _ _ _ (by decide)).trans ((app_hi _ _ _ _ (by decide)).trans (fld_all _)))
  have h2 : fld 12 1 x = (encS a).2 := by subst hx; exact (app_hi _ _ _ _ (by decide)).trans ((app_lo _ _ _ _ (by decide)).trans ((app_lo _ _ _ _ (by decide)).trans (fld_all _)))
  have h3 : fld 0 12 x = i := by subst hx; exact (app_lo _ _ _ _ (by decide)).trans (fld_all _)
  have h4 : fld 19 4 x = 0#4 := by subst hx; exact (app_hi _ _ _ _ (by decide)).trans ((app_hi _ _ _ _ (by decide)).trans ((app_lo _ _ _ _ (by decide)).trans (fld_all _)))
  simp [fSPI, h0, h1, h2, h3, h4, checked, firstBad, encS_ok, encS_of, h]

theorem fSQ_eSQ (c : BitVec 3 → BitVec 4 → BitVec 4 → Instr) (p : BitVec 3) (a b : BitVec 4) (h : pairLegal p = true) :
    fSQ c (eSQ p a b) = .ok (c p a b) := by
  obtain ⟨x, hx⟩ : ∃ x : BitVec 26, x = (eSQ p a b) := ⟨_, rfl⟩
  rw [← hx]
  have h0 : fld 23 3 x = p := by subst hx; exact (app_hi _ _ _ _ (by decide)).trans ((app_hi _ _ _ _ (by decide)).trans ((app_hi _ _ _ _ (by decide)).trans ((app_hi _ _ _ _ (by decide)).trans (fld_all _))))
  have h1 : fld 15 4 x = a := by subst hx; exact (app_hi _ _ _ _ (by decide)).trans ((app_hi _ _ _ _ (by decide)).trans ((app_lo _ _ _ _ (by decide)).trans (fld_all _)))
  have h2 : fld 11 4 x = b := by subst hx; exact (app_hi _ _ _ _ (by decide)).trans ((app_lo _ _ _ _ (by decide)).trans (fld_all _))
  have h3 : fld 19 4 x = 0#4 := by subst hx; exact (app_hi _ _ _ _ (by decide)).trans ((app_hi _ _ _ _ (by decide)).trans ((app_hi _ _ _ _ (by decide)).trans ((app_lo _ _ _ _ (by decide)).trans (fld_all _))))
  have h4 : fld 0 11 x = 0#11 := by subst hx; exact (app_lo _ _ _ _ (by decide)).trans (fld_all _)
  simp [fSQ, h0, h1, h2, h3, h4, checked, firstBad, h]

theorem fDT_eDT (c : BitVec 5 → BitVec 5 → BitVec 5 → BitVec 3 → Instr) (x1 y z : BitVec 5) (w : BitVec 3) :
    fDT c (eDT x1 y z w) = .ok (c x1 y z w) := by
  obtain ⟨x, hx⟩ : ∃ x : BitVec 26, x = (eDT x1 y z w) := ⟨_, rfl⟩
  rw [← hx]
  have h0 : fld 20 5 x = x1 := by subst hx; exact (app_hi _ _ _ _ (by decide)).trans ((app_hi _ _ _ _ (by decide)).trans ((app_hi _ _ _ _ (by decide)).trans ((app_hi _ _ _ _ (by decide)).trans ((app_hi _ _ _ _ (by decide)).trans ((app_hi _ _ _ _ (by decide)).trans ((app_lo _ _ _ _ (by decide)).trans (fld_all _)))))))
  have h1 : fld 14 5 x = y := by subst hx; exact (app_hi _ _ _ _ (by decide)).trans ((app_hi _ _ _ _ (by decide)).trans ((app_hi _ _ _ _ (by decide)).trans ((app_hi _ _ _ _ (by decide)).trans ((app_lo _ _ _ _ (by decide)).trans (fld_all _)))))
  have h2 : fld 8 5 x = z := by subst hx; exact (app_hi _ _ _ _ (by decide)).trans ((app_hi _ _ _ _ (by decide)).trans ((app_lo _ _ _ _ (by decide)).trans (fld_all _)))
  have h3 : fld 0 3 x = w := by subst hx; exact (app_lo _ _ _ _ (by decide)).trans (fld_all _)
  have h4 : fld 20 6 x = (0#1 ++ x1) := by subst hx; exact (fld_span _ 20 1 5).trans (congrArg₂ (fun (a : BitVec 1) (b : BitVec 5) => a ++ b) ((app_hi _ _ _ _ (by decide)).trans ((app_hi _ _ _ _ (by decide)).trans ((app_hi _ _ _ _ (by decide)).trans ((app_hi _ _ _ _ (by decide)).trans ((app_hi _ _ _ _ (by decide)).trans ((app_hi _ _ _ _ (by decide)).trans ((app_hi _ _ _ _ (by decide)).trans (fld_all _)))))))) ((app_hi _ _ _ _ (by decide)).trans ((app_hi _ _ _ _ (by decide)).trans ((app_hi _ _ _ _ (by decide)).trans ((app_hi _ _ _ _ (by decide)).trans ((app_hi _ _ _ _ (by decide)).trans ((app_hi _ _ _ _ (by decide)).trans ((app_lo _ _ _ _ (by decide)).trans (fld_all _)))))))))
  have h5 : fld 14 6 x = (0#1 ++ y) := by subst hx; exact (fld_span _ 14 1 5).trans (congrArg₂ (fun (a : BitVec 1) (b : BitVec 5) => a ++ b) ((app_hi _ _ _ _ (by decide)).trans ((app_hi _ _ _ _ (by decide)).trans ((app_hi _ _ _ _ (by decide)).trans ((app_hi _ _ _ _ (by decide)).trans ((app_hi _ _ _ _ (by decide)).trans ((app_lo _ _ _ _ (by decide)).trans (fld_all _))))))) ((app_hi _ _ _ _ (by decide)).trans ((app_hi _ _ _ _ (by decide)).trans ((app_hi _ _ _ _ (by decide)).trans ((app_hi _ _ _ _ (by decide)).trans ((app_lo _ _ _ _ (by decide)).trans (fld_all _)))))))
  have h6 : fld 8 6 x = (0#1 ++ z) := by subst hx; exact (fld_span _ 8 1 5).trans (congrArg₂ (fun (a : BitVec 1) (b : BitVec 5) => a ++ b) ((app_hi _ _ _ _ (by decide)).trans ((app_hi _ _ _ _ (by decide)).trans ((app_hi _ _ _ _ (by decide)).trans ((app_lo _ _ _ _ (by decide)).trans (fld_all _))))) ((app_hi _ _ _ _ (by decide)).trans ((app_hi _ _ _ _ (by decide)).trans ((app_lo _ _ _ _ (by decide)).trans (fld_all _)))))
  have h7 : fld 7 1 x = 0#1 := by subst hx; exact (app_hi _ _ _ _ (by decide)).trans ((app_lo _ _ _ _ (by decide)).trans (rfl))
  have h8 : fld 3 4 x = 0#4 := by subst hx; exact (app_hi _ _ _ _ (by decide)).trans ((app_lo _ _ _ _ (by decide)).trans (rfl))
  simp [fDT, h0, h1, h2, h3, h4, h5, h6, h7, h8, checked, firstBad, cOk_zero]

theorem fDT2_eDT (c : BitVec 5 → BitVec 5 → BitVec 3 → Instr) (x1 y : BitVec 5) (w : BitVec 3) :
    fDT2 c (eDT x1 y 0 w) = .ok (c x1 y w) := by
  obtain ⟨x, hx⟩ : ∃ x : BitVec 26, x = (eDT x1 y 0 w) := ⟨_, rfl⟩
  rw [← hx]
  have h0 : fld 20 5 x = x1 := by subst hx; exact (app_hi _ _ _ _ (by decide)).trans ((app_hi _ _ _ _ (by decide)).trans ((app_hi _ _ _ _ (by decide)).trans ((app_hi _ _ _ _ (by decide)).trans ((app_hi _ _ _ _ (by decide)).trans ((app_hi _ _ _ _ (by decide)).trans ((app_lo _ _ _ _ (by decide)).trans (fld_all _)))))))
  have h1 : fld 14 5 x = y := by subst hx; exact (app_hi _ _ _ _ (by decide)).trans ((app_hi _ _ _ _ (by decide)).trans ((app_hi _ _ _ _ (by decide)).trans ((app_hi _ _ _ _ (by decide)).trans ((app_lo _ _ _ _ (by decide)).trans (fld_all _)))))
  have h2 : fld 0 3 x = w := by subst hx; exact (app_lo _ _ _ _ (by decide)).trans (fld_all _)
  have h3 : fld 20 6 x = (0#1 ++ x1) := by subst hx; exact (fld_span _ 20 1 5).trans (congrArg₂ (fun (a : BitVec 1) (b : BitVec 5) => a ++ b) ((app_hi _ _ _ _ (by decide)).trans ((app_hi _ _ _ _ (by decide)).trans ((app_hi _ _ _ _ (by decide)).trans ((app_hi _ _ _ _ (by decide)).trans ((app_hi _ _ _ _ (by decide)).trans ((app_hi _ _ _ _ (by decide)).trans ((app_hi _ _ _ _ (by decide)).trans (fld_all _)))))))) ((app_hi _ _ _ _ (by decide)).trans ((app_hi _ _ _ _ (by decide)).trans ((app_hi _ _ _ _ (by decide)).trans ((app_hi _ _ _ _ (by decide)).trans ((app_hi _ _ _ _ (by decide)).trans ((app_hi _ _ _ _ (by decide)).trans ((app_lo _ _ _ _ (by decide)).trans (fld_all _)))))))))
  have h4 : fld 14 6 x = (0#1 ++ y) := by subst hx; exact (fld_span _ 14 1 5).trans (congrArg₂ (fun (a : BitVec 1) (b : BitVec 5) => a ++ b) ((app_hi _ _ _ _ (by decide)).trans ((app_hi _ _ _ _ (by decide)).trans ((app_hi _ _ _ _ (by decide)).trans ((app_hi _ _ _ _ (by decide)).trans ((app_hi _ _ _ _ (by decide)).trans ((app_lo _ _ _ _ (by decide)).trans (fld_all _))))))) ((app_hi _ _ _ _ (by decide)).trans ((app_hi _ _ _ _ (by decide)).trans ((app_hi _ _ _ _ (by decide)).trans ((app_hi _ _ _ _ (by decide)).trans ((app_lo _ _ _ _ (by decide)).trans (fld_all _)))))))
  have h5 : fld 7 7 x = 0#7 := by subst hx; exact ((fld_span _ 7 1 6).trans (congrArg₂ (fun (a : BitVec 1) (b : BitVec 6) => a ++ b) ((app_hi _ _ _ _ (by decide)).trans ((app_hi _ _ _ _ (by decide)).trans ((app_hi _ _ _ _ (by decide)).trans ((app_lo _ _ _ _ (by decide)).trans (fld_all _))))) ((fld_span _ 7 5 1).trans (congrArg₂ (fun (a : BitVec 5) (b : BitVec 1) => a ++ b) ((app_hi _ _ _ _ (by decide)).trans ((app_hi _ _ _ _ (by decide)).trans ((app_lo _ _ _ _ (by decide)).trans (fld_all _)))) ((app_hi _ _ _ _ (by decide)).trans ((app_lo _ _ _ _ (by decide)).trans (rfl))))))).trans (by decide)
  have h6 : fld 3 4 x = 0#4 := by subst hx; exact (app_hi _ _ _ _ (by decide)).trans ((app_lo _ _ _ _ (by decide)).trans (rfl))
  simp [fDT2, h0, h1, h2, h3, h4, h5, h6, checked, firstBad, cOk_zero]

theorem fDTE_enc (z x1 : BitVec 5) (b : SSrc) (w : BitVec 3) :
    fDTE (0#1 ++ z ++ 0#1 ++ x1 ++ fx (encS b) ++ 0#4 ++ w : BitVec 26) = .ok (.delem z x1 b w) := by
  obtain ⟨x, hx⟩ : ∃ x : BitVec 26, x = (0#1 ++ z ++ 0#1 ++ x1 ++ fx (encS b) ++ 0#4 ++ w : BitVec 26) := ⟨_, rfl⟩
  rw [← hx]
  have h0 : fld 20 5 x = z := by subst hx; exact (app_hi _ _ _ _ (by decide)).trans ((app_hi _ _ _ _ (by decide)).trans ((app_hi _ _ _ _ (by decide)).trans ((app_hi _ _ _ _ (by decide)).trans ((app_hi _ _ _ _ (by decide)).trans ((app_lo _ _ _ _ (by decide)).trans (fld_all _))))))
  have h1 : fld 14 5 x = x1 := by subst hx; exact (app_hi _ _ _ _ (by decide)).trans ((app_hi _ _ _ _ (by decide)).trans ((app_hi _ _ _ _ (by decide)).trans ((app_lo _ _ _ _ (by decide)).trans (fld_all _))))
  have h2 : fld 8 6 x = (encS b).1 := by subst hx; exact (app_hi _ _ _ _ (by decide)).trans ((app_hi _ _ _ _ (by decide)).trans ((app_lo _ _ _ _ (by decide)).trans ((app_hi _ _ _ _ (by decide)).trans (fld_all _))))
  have h3 : fld 7 1 x = (encS b).2 := by subst hx; exact (app_hi _ _ _ _ (by decide)).trans ((app_hi _ _ _ _ (by decide)).trans ((app_lo _ _ _ _ (by decide)).trans ((app_lo _ _ _ _ (by decide)).trans (fld_all _))))
  have h4 : fld 0 3 x = w := by subst hx; exact (app_lo _ _ _ _ (by decide)).trans (fld_all _)
  have h5 : fld 20 6 x = (0#1 ++ z) := by subst hx; exact (fld_span _ 20 1 5).trans (congrArg₂ (fun (a : BitVec 1) (b : BitVec 5) => a ++ b) ((app_hi _ _ _ _ (by decide)).trans ((app_hi _ _ _ _ (by decide)).trans ((app_hi _ _ _ _ (by decide)).trans ((app_hi _ _ _ _ (by decide)).trans ((app_hi _ _ _ _ (by decide)).trans ((app_hi _ _ _ _ (by decide)).trans (fld_all _))))))) ((app_hi _ _ _ _ (by decide)).trans ((app_hi _ _ _ _ (by decide)).trans ((app_hi _ _ _ _ (by decide)).trans ((app_hi _ _ _ _ (by decide)).trans ((app_hi _ _ _ _ (by decide)).trans ((app_lo _ _ _ _ (by decide)).trans (fld_all _))))))))
  have h6 : fld 14 6 x = (0#1 ++ x1) := by subst hx; exact (fld_span _ 14 1 5).trans (congrArg₂ (fun (a : BitVec 1) (b : BitVec 5) => a ++ b) ((app_hi _ _ _ _ (by decide)).trans ((app_hi _ _ _ _ (by decide)).trans ((app_hi _ _ _ _ (by decide)).trans ((app_hi _ _ _ _ (by decide)).trans ((app_lo _ _ _ _ (by decide)).trans (fld_all _)))))) ((app_hi _ _ _ _ (by decide)).trans ((app_hi _ _ _ _ (by decide)).trans ((app_hi _ _ _ _ (by decide)).trans ((app_lo _ _ _ _ (by decide)).trans (fld_all _))))))
  have h7 : fld 3 4 x = 0#4 := by subst hx; exact (app_hi _ _ _ _ (by decide)).trans ((app_lo _ _ _ _ (by decide)).trans (fld_all _))
  simp [fDTE, h0, h1, h2, h3, h4, h5, h6, h7, checked, firstBad, cOk_zero, encS_ok, encS_of]

theorem fDI_eDI (c : BitVec 5 → BitVec 16 → BitVec 3 → Instr) (r : BitVec 5) (i : BitVec 16) (w : BitVec 3) :
    fDI c (eDI r i w) = .ok (c r i w) := by
  obtain ⟨x, hx⟩ : ∃ x : BitVec 26, x = (eDI r i w) := ⟨_, rfl⟩
  rw [← hx]
  have h0 : fld 20 5 x = r := by subst hx; exact (app_hi _ _ _ _ (by decide)).trans ((app_hi _ _ _ _ (by decide)).trans ((app_hi _ _ _ _ (by decide)).trans ((app_lo _ _ _ _ (by decide)).trans (fld_all _))))
  have h1 : fld 3 16 x = i := by subst hx; exact (app_hi _ _ _ _ (by decide)).trans ((app_lo _ _ _ _ (by decide)).trans (fld_all _))
  have h2 : fld 0 3 x = w := by subst hx; exact (app_lo _ _ _ _ (by decide)).trans (fld_all _)
  have h3 : fld 20 6 x = (0#1 ++ r) := by subst hx; exact (fld_span _ 20 1 5).trans (congrArg₂ (fun (a : BitVec 1) (b : BitVec 5) => a ++ b) ((app_hi _ _ _ _ (by decide)).trans ((app_hi _ _ _ _ (by decide)).trans ((app_hi _ _ _ _ (by decide)).trans ((app_hi _ _ _ _ (by decide)).trans (fld_all _))))) ((app_hi _ _ _ _ (by decide)).trans ((app_hi _ _ _ _ (by decide)).trans ((app_hi _ _ _ _ (by decide)).trans ((app_lo _ _ _ _ (by decide)).trans (fld_all _))))))
  have h4 : fld 19 1 x = 0#1 := by subst hx; exact (app_hi _ _ _ _ (by decide)).trans ((app_hi _ _ _ _ (by decide)).trans ((app_lo _ _ _ _ (by decide)).trans (fld_all _)))
  simp [fDI, h0, h1, h2, h3, h4, checked, firstBad, cOk_zero]

theorem fDR_eDR (c : SDst → BitVec 5 → BitVec 3 → Instr) (d : SDst) (r : BitVec 5) (w : BitVec 3) :
    fDR c (eDR d r w) = .ok (c d r w) := by
  obtain ⟨x, hx⟩ : ∃ x : BitVec 26, x = (eDR d r w) := ⟨_, rfl⟩
  rw [← hx]
  have h0 : fld 20 6 x = (encD d).1 := by subst hx; exact (app_hi _ _ _ _ (by decide)).trans ((app_hi _ _ _ _ (by decide)).trans ((app_hi _ _ _ _ (by decide)).trans ((app_hi _ _ _ _ (by decide)).trans ((app_hi _ _ _ _ (by decide)).trans (fld_all _)))))
  have h1 : fld 19 1 x = (encD d).2 := by subst hx; exact (app_hi _ _ _ _ (by decide)).trans ((app_hi _ _ _ _ (by decide)).trans ((app_hi _ _ _ _ (by decide)).trans ((app_hi _ _ _ _ (by decide)).trans ((app_lo _ _ _ _ (by decide)).trans (fld_all _)))))
  have h2 : fld 13 5 x = r := by subst hx; exact (app_hi _ _ _ _ (by decide)).trans ((app_hi _ _ _ _ (by decide)).trans ((app_lo _ _ _ _ (by decide)).trans (fld_all _)))
  have h3 : fld 0 3 x = w := by subst hx; exact (app_lo _ _ _ _ (by decide)).trans (fld_all _)
  have h4 : fld 13 6 x = (0#1 ++ r) := by subst hx; exact (fld_span _ 13 1 5).trans (congrArg₂ (fun (a : BitVec 1) (b : BitVec 5) => a ++ b) ((app_hi _ _ _ _ (by decide)).trans ((app_hi _ _ _ _ (by decide)).trans ((app_hi _ _ _ _ (by decide)).trans ((app_lo _ _ _ _ (by decide)).trans (fld_all _))))) ((app_hi _ _ _ _ (by decide)).trans ((app_hi _ _ _ _ (by decide)).trans ((app_lo _ _ _ _ (by decide)).trans (fld_all _)))))
  have h5 : fld 3 10 x = 0#10 := by subst hx; exact (app_hi _ _ _ _ (by decide)).trans ((app_lo _ _ _ _ (by decide)).trans (fld_all _))
  simp [fDR, h0, h1, h2, h3, h4, h5, checked, firstBad, cOk_zero, encD_ok, encD_of]

theorem fDS_enc (r : BitVec 5) (a b : SSrc) (w : BitVec 3) :
    fDS (0#1 ++ r ++ fx (encS a) ++ fx (encS b) ++ 0#3 ++ w : BitVec 26) = .ok (.dset r a b w) := by
  obtain ⟨x, hx⟩ : ∃ x : BitVec 26, x = (0#1 ++ r ++ fx (encS a) ++ fx (encS b) ++ 0#3 ++ w : BitVec 26) := ⟨_, rfl⟩
  rw [← hx]
  have h0 : fld 20 5 x = r := by subst hx; exact (app_hi _ _ _ _ (by decide)).trans ((app_hi _ _ _ _ (by decide)).trans ((app_hi _ _ _ _ (by decide)).trans ((app_hi _ _ _ _ (by decide)).trans ((app_lo _ _ _ _ (by decide)).trans (fld_all _)))))
  have h1 : fld 14 6 x = (encS a).1 := by subst hx; exact (app_hi _ _ _ _ (by decide)).trans ((app_hi _ _ _ _ (by decide)).trans ((app_hi _ _ _ _ (by decide)).trans ((app_lo _ _ _ _ (by decide)).trans ((app_hi _ _ _ _ (by decide)).trans (fld_all _)))))
  have h2 : fld 13 1 x = (encS a).2 := by subst hx; exact (app_hi _ _ _ _ (by decide)).trans ((app_hi _ _ _ _ (by decide)).trans ((app_hi _ _ _ _ (by decide)).trans ((app_lo _ _ _ _ (by decide)).trans ((app_lo _ _ _ _ (by decide)).trans (fld_all _)))))
  have h3 : fld 7 6 x = (encS b).1 := by subst hx; exact (app_hi _ _ _ _ (by decide)).trans ((app_hi _ _ _ _ (by decide)).trans ((app_lo _ _ _ _ (by decide)).trans ((app_hi _ _ _ _ (by decide)).trans (fld_all _))))
  have h4 : fld 6 1 x = (encS b).2 := by subst hx; exact (app_hi _ _ _ _ (by decide)).trans ((app_hi _ _ _ _ (by decide)).trans ((app_lo _ _ _ _ (by decide)).trans ((app_lo _ _ _ _ (by decide)).trans (fld_all _))))
  have h5 : fld 0 3 x = w := by subst hx; exact (app_lo _ _ _ _ (by decide)).trans (fld_all _)
  have h6 : fld 20 6 x = (0#1 ++ r) := by subst hx; exact (fld_span _ 20 1 5).trans (congrArg₂ (fun (a : BitVec 1) (b : BitVec 5) => a ++ b) ((app_hi _ _ _ _ (by decide)).trans ((app_hi _ _ _ _ (by decide)).trans ((app_hi _ _ _ _ (by decide)).trans ((app_hi _ _ _ _ (by decide)).trans ((app_hi _ _ _ _ (by decide)).trans (fld_all _)))))) ((app_hi _ _ _ _ (by decide)).trans ((app_hi _ _ _ _ (by decide)).trans ((app_hi _ _ _ _ (by decide)).trans ((app_hi _ _ _ _ (by decide)).trans ((app_lo _ _ _ _ (by decide)).trans (fld_all _)))))))
  have h7 : fld 3 3 x = 0#3 := by subst hx; exact (app_hi _ _ _ _ (by decide)).trans ((app_lo _ _ _ _ (by decide)).trans (fld_all _))
  simp [fDS, h0, h1, h2, h3, h4, h5, h6, h7, checked, firstBad, cOk_zero, encS_ok, encS_of]

theorem fDJ_enc (r : BitVec 5) (l h : BitVec 10) (hl : decide (l.toInt ≤ h.toInt) = true) :
    fDJ (0#1 ++ r ++ l ++ h : BitVec 26) = .ok (.dseti r l h) := by
  obtain ⟨x, hx⟩ : ∃ x : BitVec 26, x = (0#1 ++ r ++ l ++ h : BitVec 26) := ⟨_, rfl⟩
  rw [← hx]
  have h0 : fld 20 5 x = r := by subst hx; exact (app_hi _ _ _ _ (by decide)).trans ((app_hi _ _ _ _ (by decide)).trans ((app_lo _ _ _ _ (by decide)).trans (fld_all _)))
  have h1 : fld 10 10 x = l := by subst hx; exact (app_hi _ _ _ _ (by decide)).trans ((app_lo _ _ _ _ (by decide)).trans (fld_all _))
  have h2 : fld 0 10 x = h := by subst hx; exact (app_lo _ _ _ _ (by decide)).trans (fld_all _)
  have h3 : fld 20 6 x = (0#1 ++ r) := by subst hx; exact (fld_span _ 20 1 5).trans (congrArg₂ (fun (a : BitVec 1) (b : BitVec 5) => a ++ b) ((app_hi _ _ _ _ (by decide)).trans ((app_hi _ _ _ _ (by decide)).trans ((app_hi _ _ _ _ (by decide)).trans (fld_all _)))) ((app_hi _ _ _ _ (by decide)).trans ((app_hi _ _ _ _ (by decide)).trans ((app_lo _ _ _ _ (by decide)).trans (fld_all _)))))
  simp only [decide_eq_true_eq] at hl
  simp [fDJ, h0, h1, h2, h3, checked, firstBad, cOk_zero, hl]

theorem fW_eW (c : BitVec 3 → Instr) (w : BitVec 3) :
    fW c (eW w) = .ok (c w) := by
  obtain ⟨x, hx⟩ : ∃ x : BitVec 26, x = (eW w) := ⟨_, rfl⟩
  rw [← hx]
  have h0 : fld 0 3 x = w := by subst hx; exact (app_lo _ _ _ _ (by decide)).trans (fld_all _)
  have h1 : fld 3 23 x = 0#23 := by subst hx; exact (app_hi _ _ _ _ (by decide)).trans (fld_all _)
  simp [fW, h0, h1, checked, firstBad]

theorem fVR_eVR (c : BitVec 4 → BitVec 3 → VDst → VSrc → VSrc → Instr) (g : BitVec 4) (k : BitVec 3) (d : VDst) (a b : VSrc) :
    fVR c (eVR g k d a b) = .ok (c g k d a b) := by
  obtain ⟨x, hx⟩ : ∃ x : BitVec 26, x = (eVR g k d a b) := ⟨_, rfl⟩
  rw [← hx]
  have h0 : fld 22 4 x = g := by subst hx; exact (app_hi _ _ _ _ (by decide)).trans ((app_hi _ _ _ _ (by decide)).trans ((app_hi _ _ _ _ (by decide)).trans ((app_hi _ _ _ _ (by decide)).trans ((app_hi _ _ _ _ (by decide)).trans (fld_all _)))))
  have h1 : fld 19 3 x = k := by subst hx; exact (app_hi _ _ _ _ (by decide)).trans ((app_hi _ _ _ _ (by decide)).trans ((app_hi _ _ _ _ (by decide)).trans ((app_hi _ _ _ _ (by decide)).trans ((app_lo _ _ _ _ (by decide)).trans (fld_all _)))))
  have h2 : fld 13 6 x = encVD d := by subst hx; exact (app_hi _ _ _ _ (by decide)).trans ((app_hi _ _ _ _ (by decide)).trans ((app_hi _ _ _ _ (by decide)).trans ((app_lo _ _ _ _ (by decide)).trans (fld_all _))))
  have h3 : fld 7 6 x = encVS a := by subst hx; exact (app_hi _ _ _ _ (by decide)).trans ((app_hi _ _ _ _ (by decide)).trans ((app_lo _ _ _ _ (by decide)).trans (fld_all _)))
  have h4 : fld 1 6 x = encVS b := by subst hx; exact (app_hi _ _ _ _ (by decide)).trans ((app_lo _ _ _ _ (by decide)).trans (fld_all _))
  have h5 : fld 0 1 x = 0#1 := by subst hx; exact (app_lo _ _ _ _ (by decide)).trans (fld_all _)
  simp [fVR, h0, h1, h2, h3, h4, h5, checked, firstBad, encVS_ok, encVS_of, encVD_ok, encVD_of]

theorem fVR2_eVR2 (c : BitVec 4 → BitVec 3 → VDst → VSrc → Instr) (g : BitVec 4) (k : BitVec 3) (d : VDst) (a : VSrc) :
    fVR2 c (eVR2 g k d a) = .ok (c g k d a) := by
  obtain ⟨x, hx⟩ : ∃ x : BitVec 26, x = (eVR2 g k d a) := ⟨_, rfl⟩
  rw [← hx]
  have h0 : fld 22 4 x = g := by subst hx; exact (app_hi _ _ _ _ (by decide)).trans ((app_hi _ _ _ _ (by decide)).trans ((app_hi _ _ _ _ (by decide)).trans ((app_hi _ _ _ _ (by decide)).trans (fld_all _))))
  have h1 : fld 19 3 x = k := by subst hx; exact (app_hi _ _ _ _ (by decide)).trans ((app_hi _ _ _ _ (by decide)).trans ((app_hi _ _ _ _ (by decide)).trans ((app_lo _ _ _ _ (by decide)).trans (fld_all _))))
  have h2 : fld 13 6 x = encVD d := by subst hx; exact (app_hi _ _ _ _ (by decide)).trans ((app_hi _ _ _ _ (by decide)).trans ((app_lo _ _ _ _ (by decide)).trans (fld_all _)))
  have h3 : fld 7 6 x = encVS a := by subst hx; exact (app_hi _ _ _ _ (by decide)).trans ((app_lo _ _ _ _ (by decide)).trans (fld_all _))
  have h4 : fld 1 6 x = 0#6 := by subst hx; exact (app_lo _ _ _ _ (by decide)).trans (rfl)
  have h5 : fld 0 1 x = 0#1 := by subst hx; exact (app_lo _ _ _ _ (by decide)).trans (rfl)
  simp [fVR2, h0, h1, h2, h3, h4, h5, checked, firstBad, encVS_ok, encVS_of, encVD_ok, encVD_of]

theorem fVR2_eVR (c : BitVec 4 → BitVec 3 → VDst → VSrc → Instr) (g : BitVec 4) (k : BitVec 3) (d : VDst) (a : VSrc) :
    fVR2 c (eVR g k d a (.reg 0)) = .ok (c g k d a) := by
  obtain ⟨x, hx⟩ : ∃ x : BitVec 26, x = (eVR g k d a (.reg 0)) := ⟨_, rfl⟩
  rw [← hx]
  have h0 : fld 22 4 x = g := by subst hx; exact (app_hi _ _ _ _ (by decide)).trans ((app_hi _ _ _ _ (by decide)).trans ((app_hi _ _ _ _ (by decide)).trans ((app_hi _ _ _ _ (by decide)).trans ((app_hi _ _ _ _ (by decide)).trans (fld_all _)))))
  have h1 : fld 19 3 x = k := by subst hx; exact (app_hi _ _ _ _ (by decide)).trans ((app_hi _ _ _ _ (by decide)).trans ((app_hi _ _ _ _ (by decide)).trans ((app_hi _ _ _ _ (by decide)).trans ((app_lo _ _ _ _ (by decide)).trans (fld_all _)))))
  have h2 : fld 13 6 x = encVD d := by subst hx; exact (app_hi _ _ _ _ (by decide)).trans ((app_hi _ _ _ _ (by decide)).trans ((app_hi _ _ _ _ (by decide)).trans ((app_lo _ _ _ _ (by decide)).trans (fld_all _))))
  have h3 : fld 7 6 x = encVS a := by subst hx; exact (app_hi _ _ _ _ (by decide)).trans ((app_hi _ _ _ _ (by decide)).trans ((app_lo _ _ _ _ (by decide)).trans (fld_all _)))
  have h4 : fld 1 6 x = 0#6 := by subst hx; exact (app_hi _ _ _ _ (by decide)).trans ((app_lo _ _ _ _ (by decide)).trans (fld_all _))
  have h5 : fld 0 1 x = 0#1 := by subst hx; exact (app_lo _ _ _ _ (by decide)).trans (fld_all _)
  simp [fVR2, h0, h1, h2, h3, h4, h5, checked, firstBad, encVS_ok, encVS_of, encVD_ok, encVD_of]

theorem fVR1_enc (c : BitVec 4 → BitVec 3 → VDst → Instr) (g : BitVec 4) (k : BitVec 3) (d : VDst) :
    fVR1 c (g ++ k ++ encVD d ++ 0#13 : BitVec 26) = .ok (c g k d) := by
  obtain ⟨x, hx⟩ : ∃ x : BitVec 26, x = (g ++ k ++ encVD d ++ 0#13 : BitVec 26) := ⟨_, rfl⟩
  rw [← hx]
  have h0 : fld 22 4 x = g := by subst hx; exact (app_hi _ _ _ _ (by decide)).trans ((app_hi _ _ _ _ (by decide)).trans ((app_hi _ _ _ _ (by decide)).trans (fld_all _)))
  have h1 : fld 19 3 x = k := by subst hx; exact (app_hi _ _ _ _ (by decide)).trans ((app_hi _ _ _ _ (by decide)).trans ((app_lo _ _ _ _ (by decide)).trans (fld_all _)))
  have h2 : fld 13 6 x = encVD d := by subst hx; exact (app_hi _ _ _ _ (by decide)).trans ((app_lo _ _ _ _ (by decide)).trans (fld_all _))
  have h3 : fld 7 6 x = 0#6 := by subst hx; exact (app_lo _ _ _ _ (by decide)).trans (rfl)
  have h4 : fld 1 6 x = 0#6 := by subst hx; exact (app_lo _ _ _ _ (by decide)).trans (rfl)
  have h5 : fld 0 1 x = 0#1 := by subst hx; exact (app_lo _ _ _ _ (by decide)).trans (rfl)
  simp [fVR1, h0, h1, h2, h3, h4, h5, checked, firstBad, encVD_ok, encVD_of]

theorem fVS_enc (g : BitVec 4) (k : BitVec 3) (d : VDst) (s : BitVec 6) :
    fVS (g ++ k ++ encVD d ++ 0#1 ++ fld 0 5 s ++ fld 5 1 s ++ 0#6 : BitVec 26) = .ok (.vbcast g k d s) := by
  obtain ⟨x, hx⟩ : ∃ x : BitVec 26, x = (g ++ k ++ encVD d ++ 0#1 ++ fld 0 5 s ++ fld 5 1 s ++ 0#6 : BitVec 26) := ⟨_, rfl⟩
  rw [← hx]
  have h0 : fld 22 4 x = g := by subst hx; exact (app_hi _ _ _ _ (by decide)).trans ((app_hi _ _ _ _ (by decide)).trans ((app_hi _ _ _ _ (by decide)).trans ((app_hi _ _ _ _ (by decide)).trans ((app_hi _ _ _ _ (by decide)).trans ((app_hi _ _ _ _ (by decide)).trans (fld_all _))))))
  have h1 : fld 19 3 x = k := by subst hx; exact (app_hi _ _ _ _ (by decide)).trans ((app_hi _ _ _ _ (by decide)).trans ((app_hi _ _ _ _ (by decide)).trans ((app_hi _ _ _ _ (by decide)).trans ((app_hi _ _ _ _ (by decide)).trans ((app_lo _ _ _ _ (by decide)).trans (fld_all _))))))
  have h2 : fld 13 6 x = encVD d := by subst hx; exact (app_hi _ _ _ _ (by decide)).trans ((app_hi _ _ _ _ (by decide)).trans ((app_hi _ _ _ _ (by decide)).trans ((app_hi _ _ _ _ (by decide)).trans ((app_lo _ _ _ _ (by decide)).trans (fld_all _)))))
  have h3 : fld 6 1 x = fld 5 1 s := by subst hx; exact (app_hi _ _ _ _ (by decide)).trans ((app_lo _ _ _ _ (by decide)).trans (fld_all _))
  have h4 : fld 7 5 x = fld 0 5 s := by subst hx; exact (app_hi _ _ _ _ (by decide)).trans ((app_hi _ _ _ _ (by decide)).trans ((app_lo _ _ _ _ (by decide)).trans (fld_all _)))
  have h5 : fld 7 6 x = (0#1 ++ fld 0 5 s) := by subst hx; exact (fld_span _ 7 1 5).trans (congrArg₂ (fun (a : BitVec 1) (b : BitVec 5) => a ++ b) ((app_hi _ _ _ _ (by decide)).trans ((app_hi _ _ _ _ (by decide)).trans ((app_hi _ _ _ _ (by decide)).trans ((app_lo _ _ _ _ (by decide)).trans (fld_all _))))) ((app_hi _ _ _ _ (by decide)).trans ((app_hi _ _ _ _ (by decide)).trans ((app_lo _ _ _ _ (by decide)).trans (fld_all _)))))
  have h6 : fld 0 6 x = 0#6 := by subst hx; exact (app_lo _ _ _ _ (by decide)).trans (fld_all _)
  simp [fVS, h0, h1, h2, h3, h4, h5, h6, checked, firstBad, encVD_ok, encVD_of, cOk_zero, split6]

theorem fVC_eVC (c : BitVec 4 → BitVec 3 → BitVec 3 → VSrc → VSrc → Instr) (g : BitVec 4) (k kd : BitVec 3) (a b : VSrc) (h : (kd != 0#3) = true) :
    fVC c (eVC g k kd a b) = .ok (c g k kd a b) := by
  obtain ⟨x, hx⟩ : ∃ x : BitVec 26, x = (eVC g k kd a b) := ⟨_, rfl⟩
  rw [← hx]
  have h0 : fld 22 4 x = g := by subst hx; exact (app_hi _ _ _ _ (by decide)).trans ((app_hi _ _ _ _ (by decide)).trans ((app_hi _ _ _ _ (by decide)).trans ((app_hi _ _ _ _ (by decide)).trans ((app_hi _ _ _ _ (by decide)).trans ((app_hi _ _ _ _ (by decide)).trans (fld_all _))))))
  have h1 : fld 19 3 x = k := by subst hx; exact (app_hi _ _ _ _ (by decide)).trans ((app_hi _ _ _ _ (by decide)).trans ((app_hi _ _ _ _ (by decide)).trans ((app_hi _ _ _ _ (by decide)).trans ((app_hi _ _ _ _ (by decide)).trans ((app_lo _ _ _ _ (by decide)).trans (fld_all _))))))
  have h2 : fld 16 3 x = kd := by subst hx; exact (app_hi _ _ _ _ (by decide)).trans ((app_hi _ _ _ _ (by decide)).trans ((app_hi _ _ _ _ (by decide)).trans ((app_hi _ _ _ _ (by decide)).trans ((app_lo _ _ _ _ (by decide)).trans (fld_all _)))))
  have h3 : fld 7 6 x = encVS a := by subst hx; exact (app_hi _ _ _ _ (by decide)).trans ((app_hi _ _ _ _ (by decide)).trans ((app_lo _ _ _ _ (by decide)).trans (fld_all _)))
  have h4 : fld 1 6 x = encVS b := by subst hx; exact (app_hi _ _ _ _ (by decide)).trans ((app_lo _ _ _ _ (by decide)).trans (fld_all _))
  have h5 : fld 13 3 x = 0#3 := by subst hx; exact (app_hi _ _ _ _ (by decide)).trans ((app_hi _ _ _ _ (by decide)).trans ((app_hi _ _ _ _ (by decide)).trans ((app_lo _ _ _ _ (by decide)).trans (fld_all _))))
  have h6 : fld 0 1 x = 0#1 := by subst hx; exact (app_lo _ _ _ _ (by decide)).trans (fld_all _)
  simp [fVC, h0, h1, h2, h3, h4, h5, h6, checked, firstBad, encVS_ok, encVS_of, h]

theorem fVCK_eVCK (c : BitVec 4 → BitVec 3 → BitVec 3 → BitVec 3 → BitVec 3 → Instr) (g : BitVec 4) (k kd a b : BitVec 3) (h : (kd != 0#3) = true) :
    fVCK c (eVCK g k kd a b) = .ok (c g k kd a b) := by
  obtain ⟨x, hx⟩ : ∃ x : BitVec 26, x = (eVCK g k kd a b) := ⟨_, rfl⟩
  rw [← hx]
  have h0 : fld 22 4 x = g := by subst hx; exact (app_hi _ _ _ _ (by decide)).trans ((app_hi _ _ _ _ (by decide)).trans ((app_hi _ _ _ _ (by decide)).trans ((app_hi _ _ _ _ (by decide)).trans ((app_hi _ _ _ _ (by decide)).trans ((app_hi _ _ _ _ (by decide)).trans ((app_hi _ _ _ _ (by decide)).trans (fld_all _)))))))
  have h1 : fld 19 3 x = k := by subst hx; exact (app_hi _ _ _ _ (by decide)).trans ((app_hi _ _ _ _ (by decide)).trans ((app_hi _ _ _ _ (by decide)).trans ((app_hi _ _ _ _ (by decide)).trans ((app_hi _ _ _ _ (by decide)).trans ((app_hi _ _ _ _ (by decide)).trans ((app_lo _ _ _ _ (by decide)).trans (fld_all _)))))))
  have h2 : fld 16 3 x = kd := by subst hx; exact (app_hi _ _ _ _ (by decide)).trans ((app_hi _ _ _ _ (by decide)).trans ((app_hi _ _ _ _ (by decide)).trans ((app_hi _ _ _ _ (by decide)).trans ((app_hi _ _ _ _ (by decide)).trans ((app_lo _ _ _ _ (by decide)).trans (fld_all _))))))
  have h3 : fld 7 3 x = a := by subst hx; exact (app_hi _ _ _ _ (by decide)).trans ((app_hi _ _ _ _ (by decide)).trans ((app_hi _ _ _ _ (by decide)).trans ((app_lo _ _ _ _ (by decide)).trans (fld_all _))))
  have h4 : fld 1 3 x = b := by subst hx; exact (app_hi _ _ _ _ (by decide)).trans ((app_lo _ _ _ _ (by decide)).trans (fld_all _))
  have h5 : fld 10 3 x = 0#3 := by subst hx; exact (app_hi _ _ _ _ (by decide)).trans ((app_hi _ _ _ _ (by decide)).trans ((app_hi _ _ _ _ (by decide)).trans ((app_hi _ _ _ _ (by decide)).trans ((app_lo _ _ _ _ (by decide)).trans (rfl)))))
  have h6 : fld 4 3 x = 0#3 := by subst hx; exact (app_hi _ _ _ _ (by decide)).trans ((app_hi _ _ _ _ (by decide)).trans ((app_lo _ _ _ _ (by decide)).trans (fld_all _)))
  have h7 : fld 13 3 x = 0#3 := by subst hx; exact (app_hi _ _ _ _ (by decide)).trans ((app_hi _ _ _ _ (by decide)).trans ((app_hi _ _ _ _ (by decide)).trans ((app_hi _ _ _ _ (by decide)).trans ((app_lo _ _ _ _ (by decide)).trans (rfl)))))
  have h8 : fld 0 1 x = 0#1 := by subst hx; exact (app_lo _ _ _ _ (by decide)).trans (fld_all _)
  simp [fVCK, h0, h1, h2, h3, h4, h5, h6, h7, h8, checked, firstBad, h]

theorem fVX_enc (g : BitVec 4) (k : BitVec 3) (d : VDst) (a : VSrc) (sc : BitVec 3) :
    fVX (g ++ k ++ encVD d ++ encVS a ++ sc ++ 0#4 : BitVec 26) = .ok (.vxc g k d a sc) := by
  obtain ⟨x, hx⟩ : ∃ x : BitVec 26, x = (g ++ k ++ encVD d ++ encVS a ++ sc ++ 0#4 : BitVec 26) := ⟨_, rfl⟩
  rw [← hx]
  have h0 : fld 22 4 x = g := by subst hx; exact (app_hi _ _ _ _ (by decide)).trans ((app_hi _ _ _ _ (by decide)).trans ((app_hi _ _ _ _ (by decide)).trans ((app_hi _ _ _ _ (by decide)).trans ((app_hi _ _ _ _ (by decide)).trans (fld_all _)))))
  have h1 : fld 19 3 x = k := by subst hx; exact (app_hi _ _ _ _ (by decide)).trans ((app_hi _ _ _ _ (by decide)).trans ((app_hi _ _ _ _ (by decide)).trans ((app_hi _ _ _ _ (by decide)).trans ((app_lo _ _ _ _ (by decide)).trans (fld_all _)))))
  have h2 : fld 13 6 x = encVD d := by subst hx; exact (app_hi _ _ _ _ (by decide)).trans ((app_hi _ _ _ _ (by decide)).trans ((app_hi _ _ _ _ (by decide)).trans ((app_lo _ _ _ _ (by decide)).trans (fld_all _))))
  have h3 : fld 7 6 x = encVS a := by subst hx; exact (app_hi _ _ _ _ (by decide)).trans ((app_hi _ _ _ _ (by decide)).trans ((app_lo _ _ _ _ (by decide)).trans (fld_all _)))
  have h4 : fld 4 3 x = sc := by subst hx; exact (app_hi _ _ _ _ (by decide)).trans ((app_lo _ _ _ _ (by decide)).trans (fld_all _))
  have h5 : fld 0 4 x = 0#4 := by subst hx; exact (app_lo _ _ _ _ (by decide)).trans (fld_all _)
  simp [fVX, h0, h1, h2, h3, h4, h5, checked, firstBad, encVS_ok, encVS_of, encVD_ok, encVD_of]

theorem fWS_eWS (c : SSrc → SSrc → BitVec 12 → Instr) (a b : SSrc) (i : BitVec 12) :
    fWS c (eWS a b i) = .ok (c a b i) := by
  obtain ⟨x, hx⟩ : ∃ x : BitVec 26, x = (eWS a b i) := ⟨_, rfl⟩
  rw [← hx]
  have h0 : fld 20 6 x = (encS a).1 := by subst hx; exact (app_hi _ _ _ _ (by decide)).trans ((app_hi _ _ _ _ (by decide)).trans ((app_hi _ _ _ _ (by decide)).trans (fld_all _)))
  have h1 : fld 19 1 x = (encS a).2 := by subst hx; exact (app_hi _ _ _ _ (by decide)).trans ((app_hi _ _ _ _ (by decide)).trans ((app_lo _ _ _ _ (by decide)).trans (fld_all _)))
  have h2 : fld 13 6 x = (encS b).1 := by subst hx; exact (app_hi _ _ _ _ (by decide)).trans ((app_lo _ _ _ _ (by decide)).trans ((app_hi _ _ _ _ (by decide)).trans (fld_all _)))
  have h3 : fld 12 1 x = (encS b).2 := by subst hx; exact (app_hi _ _ _ _ (by decide)).trans ((app_lo _ _ _ _ (by decide)).trans ((app_lo _ _ _ _ (by decide)).trans (fld_all _)))
  have h4 : fld 0 12 x = i := by subst hx; exact (app_lo _ _ _ _ (by decide)).trans (fld_all _)
  simp [fWS, h0, h1, h2, h3, h4, checked, firstBad, encS_ok, encS_of]

theorem fLT_eLT (c : BitVec 4 → SSrc → SSrc → BitVec 3 → Instr) (t : BitVec 4) (a b : SSrc) (w : BitVec 3) :
    fLT c (eLT t a b w) = .ok (c t a b w) := by
  obtain ⟨x, hx⟩ : ∃ x : BitVec 26, x = (eLT t a b w) := ⟨_, rfl⟩
  rw [← hx]
  have h0 : fld 22 4 x = t := by subst hx; exact (app_hi _ _ _ _ (by decide)).trans ((app_hi _ _ _ _ (by decide)).trans ((app_hi _ _ _ _ (by decide)).trans ((app_hi _ _ _ _ (by decide)).trans (fld_all _))))
  have h1 : fld 16 6 x = (encS a).1 := by subst hx; exact (app_hi _ _ _ _ (by decide)).trans ((app_hi _ _ _ _ (by decide)).trans ((app_hi _ _ _ _ (by decide)).trans ((app_lo _ _ _ _ (by decide)).trans ((app_hi _ _ _ _ (by decide)).trans (fld_all _)))))
  have h2 : fld 15 1 x = (encS a).2 := by subst hx; exact (app_hi _ _ _ _ (by decide)).trans ((app_hi _ _ _ _ (by decide)).trans ((app_hi _ _ _ _ (by decide)).trans ((app_lo _ _ _ _ (by decide)).trans ((app_lo _ _ _ _ (by decide)).trans (fld_all _)))))
  have h3 : fld 9 6 x = (encS b).1 := by subst hx; exact (app_hi _ _ _ _ (by decide)).trans ((app_hi _ _ _ _ (by decide)).trans ((app_lo _ _ _ _ (by decide)).trans ((app_hi _ _ _ _ (by decide)).trans (fld_all _))))
  have h4 : fld 8 1 x = (encS b).2 := by subst hx; exact (app_hi _ _ _ _ (by decide)).trans ((app_hi _ _ _ _ (by decide)).trans ((app_lo _ _ _ _ (by decide)).trans ((app_lo _ _ _ _ (by decide)).trans (fld_all _))))
  have h5 : fld 0 3 x = w := by subst hx; exact (app_lo _ _ _ _ (by decide)).trans (fld_all _)
  have h6 : fld 3 5 x = 0#5 := by subst hx; exact (app_hi _ _ _ _ (by decide)).trans ((app_lo _ _ _ _ (by decide)).trans (fld_all _))
  simp [fLT, h0, h1, h2, h3, h4, h5, h6, checked, firstBad, encS_ok, encS_of]

theorem fWM_eWM (c : SDst → SSrc → SSrc → BitVec 3 → Instr) (d : SDst) (a b : SSrc) (w : BitVec 3) :
    fWM c (eWM d a b w) = .ok (c d a b w) := by
  obtain ⟨x, hx⟩ : ∃ x : BitVec 26, x = (eWM d a b w) := ⟨_, rfl⟩
  rw [← hx]
  have h0 : fld 20 6 x = (encD d).1 := by subst hx; exact (app_hi _ _ _ _ (by decide)).trans ((app_hi _ _ _ _ (by decide)).trans ((app_hi _ _ _ _ (by decide)).trans ((app_hi _ _ _ _ (by decide)).trans ((app_hi _ _ _ _ (by decide)).trans (fld_all _)))))
  have h1 : fld 19 1 x = (encD d).2 := by subst hx; exact (app_hi _ _ _ _ (by decide)).trans ((app_hi _ _ _ _ (by decide)).trans ((app_hi _ _ _ _ (by decide)).trans ((app_hi _ _ _ _ (by decide)).trans ((app_lo _ _ _ _ (by decide)).trans (fld_all _)))))
  have h2 : fld 13 6 x = (encS a).1 := by subst hx; exact (app_hi _ _ _ _ (by decide)).trans ((app_hi _ _ _ _ (by decide)).trans ((app_hi _ _ _ _ (by decide)).trans ((app_lo _ _ _ _ (by decide)).trans ((app_hi _ _ _ _ (by decide)).trans (fld_all _)))))
  have h3 : fld 12 1 x = (encS a).2 := by subst hx; exact (app_hi _ _ _ _ (by decide)).trans ((app_hi _ _ _ _ (by decide)).trans ((app_hi _ _ _ _ (by decide)).trans ((app_lo _ _ _ _ (by decide)).trans ((app_lo _ _ _ _ (by decide)).trans (fld_all _)))))
  have h4 : fld 6 6 x = (encS b).1 := by subst hx; exact (app_hi _ _ _ _ (by decide)).trans ((app_hi _ _ _ _ (by decide)).trans ((app_lo _ _ _ _ (by decide)).trans ((app_hi _ _ _ _ (by decide)).trans (fld_all _))))
  have h5 : fld 5 1 x = (encS b).2 := by subst hx; exact (app_hi _ _ _ _ (by decide)).trans ((app_hi _ _ _ _ (by decide)).trans ((app_lo _ _ _ _ (by decide)).trans ((app_lo _ _ _ _ (by decide)).trans (fld_all _))))
  have h6 : fld 0 3 x = w := by subst hx; exact (app_lo _ _ _ _ (by decide)).trans (fld_all _)
  have h7 : fld 3 2 x = 0#2 := by subst hx; exact (app_hi _ _ _ _ (by decide)).trans ((app_lo _ _ _ _ (by decide)).trans (fld_all _))
  simp [fWM, h0, h1, h2, h3, h4, h5, h6, h7, checked, firstBad, encS_ok, encS_of, encD_ok, encD_of]

theorem fWB_enc (d : SDst) (a : SSrc) (n : BitVec 4) (w : BitVec 3) (h : (n != 0#4) = true) :
    fWB (fx (encD d) ++ fx (encS a) ++ n ++ 0#5 ++ w : BitVec 26) = .ok (.arrive d a n w) := by
  obtain ⟨x, hx⟩ : ∃ x : BitVec 26, x = (fx (encD d) ++ fx (encS a) ++ n ++ 0#5 ++ w : BitVec 26) := ⟨_, rfl⟩
  rw [← hx]
  have h0 : fld 20 6 x = (encD d).1 := by subst hx; exact (app_hi _ _ _ _ (by decide)).trans ((app_hi _ _ _ _ (by decide)).trans ((app_hi _ _ _ _ (by decide)).trans ((app_hi _ _ _ _ (by decide)).trans ((app_hi _ _ _ _ (by decide)).trans (fld_all _)))))
  have h1 : fld 19 1 x = (encD d).2 := by subst hx; exact (app_hi _ _ _ _ (by decide)).trans ((app_hi _ _ _ _ (by decide)).trans ((app_hi _ _ _ _ (by decide)).trans ((app_hi _ _ _ _ (by decide)).trans ((app_lo _ _ _ _ (by decide)).trans (fld_all _)))))
  have h2 : fld 13 6 x = (encS a).1 := by subst hx; exact (app_hi _ _ _ _ (by decide)).trans ((app_hi _ _ _ _ (by decide)).trans ((app_hi _ _ _ _ (by decide)).trans ((app_lo _ _ _ _ (by decide)).trans ((app_hi _ _ _ _ (by decide)).trans (fld_all _)))))
  have h3 : fld 12 1 x = (encS a).2 := by subst hx; exact (app_hi _ _ _ _ (by decide)).trans ((app_hi _ _ _ _ (by decide)).trans ((app_hi _ _ _ _ (by decide)).trans ((app_lo _ _ _ _ (by decide)).trans ((app_lo _ _ _ _ (by decide)).trans (fld_all _)))))
  have h4 : fld 8 4 x = n := by subst hx; exact (app_hi _ _ _ _ (by decide)).trans ((app_hi _ _ _ _ (by decide)).trans ((app_lo _ _ _ _ (by decide)).trans (fld_all _)))
  have h5 : fld 0 3 x = w := by subst hx; exact (app_lo _ _ _ _ (by decide)).trans (fld_all _)
  have h6 : fld 3 5 x = 0#5 := by subst hx; exact (app_hi _ _ _ _ (by decide)).trans ((app_lo _ _ _ _ (by decide)).trans (fld_all _))
  simp [fWB, h0, h1, h2, h3, h4, h5, h6, checked, firstBad, encS_ok, encS_of, encD_ok, encD_of, h]

theorem fXF_eXF (c : SSrc → SSrc → SSrc → BitVec 3 → Instr) (a b e : SSrc) (w : BitVec 3) :
    fXF c (eXF a b e w) = .ok (c a b e w) := by
  obtain ⟨x, hx⟩ : ∃ x : BitVec 26, x = (eXF a b e w) := ⟨_, rfl⟩
  rw [← hx]
  have h0 : fld 20 6 x = (encS a).1 := by subst hx; exact (app_hi _ _ _ _ (by decide)).trans ((app_hi _ _ _ _ (by decide)).trans ((app_hi _ _ _ _ (by decide)).trans ((app_hi _ _ _ _ (by decide)).trans ((app_hi _ _ _ _ (by decide)).trans (fld_all _)))))
  have h1 : fld 19 1 x = (encS a).2 := by subst hx; exact (app_hi _ _ _ _ (by decide)).trans ((app_hi _ _ _ _ (by decide)).trans ((app_hi _ _ _ _ (by decide)).trans ((app_hi _ _ _ _ (by decide)).trans ((app_lo _ _ _ _ (by decide)).trans (fld_all _)))))
  have h2 : fld 13 6 x = (encS b).1 := by subst hx; exact (app_hi _ _ _ _ (by decide)).trans ((app_hi _ _ _ _ (by decide)).trans ((app_hi _ _ _ _ (by decide)).trans ((app_lo _ _ _ _ (by decide)).trans ((app_hi _ _ _ _ (by decide)).trans (fld_all _)))))
  have h3 : fld 12 1 x = (encS b).2 := by subst hx; exact (app_hi _ _ _ _ (by decide)).trans ((app_hi _ _ _ _ (by decide)).trans ((app_hi _ _ _ _ (by decide)).trans ((app_lo _ _ _ _ (by decide)).trans ((app_lo _ _ _ _ (by decide)).trans (fld_all _)))))
  have h4 : fld 6 6 x = (encS e).1 := by subst hx; exact (app_hi _ _ _ _ (by decide)).trans ((app_hi _ _ _ _ (by decide)).trans ((app_lo _ _ _ _ (by decide)).trans ((app_hi _ _ _ _ (by decide)).trans (fld_all _))))
  have h5 : fld 5 1 x = (encS e).2 := by subst hx; exact (app_hi _ _ _ _ (by decide)).trans ((app_hi _ _ _ _ (by decide)).trans ((app_lo _ _ _ _ (by decide)).trans ((app_lo _ _ _ _ (by decide)).trans (fld_all _))))
  have h6 : fld 0 3 x = w := by subst hx; exact (app_lo _ _ _ _ (by decide)).trans (fld_all _)
  have h7 : fld 3 2 x = 0#2 := by subst hx; exact (app_hi _ _ _ _ (by decide)).trans ((app_lo _ _ _ _ (by decide)).trans (fld_all _))
  simp [fXF, h0, h1, h2, h3, h4, h5, h6, h7, checked, firstBad, encS_ok, encS_of]

theorem fXT_eXT (c : Bool → BitVec 4 → SSrc → SSrc → BitVec 3 → Instr) (pair : Bool) (t : BitVec 4) (a b : SSrc) (w : BitVec 3) (h : (!pair || decide (t.toNat % 2 = 0)) = true) :
    fXT c (eXT pair t a b w) = .ok (c pair t a b w) := by
  obtain ⟨x, hx⟩ : ∃ x : BitVec 26, x = (eXT pair t a b w) := ⟨_, rfl⟩
  rw [← hx]
  have h0 : fld 5 1 x = bit1 pair := by subst hx; exact (app_hi _ _ _ _ (by decide)).trans ((app_hi _ _ _ _ (by decide)).trans ((app_lo _ _ _ _ (by decide)).trans (fld_all _)))
  have h1 : fld 20 6 x = (encS a).1 := by subst hx; exact (app_hi _ _ _ _ (by decide)).trans ((app_hi _ _ _ _ (by decide)).trans ((app_hi _ _ _ _ (by decide)).trans ((app_hi _ _ _ _ (by decide)).trans ((app_hi _ _ _ _ (by decide)).trans ((app_hi _ _ _ _ (by decide)).trans ((app_hi _ _ _ _ (by decide)).trans (fld_all _)))))))
  have h2 : fld 19 1 x = (encS a).2 := by subst hx; exact (app_hi _ _ _ _ (by decide)).trans ((app_hi _ _ _ _ (by decide)).trans ((app_hi _ _ _ _ (by decide)).trans ((app_hi _ _ _ _ (by decide)).trans ((app_hi _ _ _ _ (by decide)).trans ((app_hi _ _ _ _ (by decide)).trans ((app_lo _ _ _ _ (by decide)).trans (fld_all _)))))))
  have h3 : fld 13 6 x = (encS b).1 := by subst hx; exact (app_hi _ _ _ _ (by decide)).trans ((app_hi _ _ _ _ (by decide)).trans ((app_hi _ _ _ _ (by decide)).trans ((app_hi _ _ _ _ (by decide)).trans ((app_hi _ _ _ _ (by decide)).trans ((app_lo _ _ _ _ (by decide)).trans ((app_hi _ _ _ _ (by decide)).trans (fld_all _)))))))
  have h4 : fld 12 1 x = (encS b).2 := by subst hx; exact (app_hi _ _ _ _ (by decide)).trans ((app_hi _ _ _ _ (by decide)).trans ((app_hi _ _ _ _ (by decide)).trans ((app_hi _ _ _ _ (by decide)).trans ((app_hi _ _ _ _ (by decide)).trans ((app_lo _ _ _ _ (by decide)).trans ((app_lo _ _ _ _ (by decide)).trans (fld_all _)))))))
  have h5 : fld 6 4 x = t := by subst hx; exact (app_hi _ _ _ _ (by decide)).trans ((app_hi _ _ _ _ (by decide)).trans ((app_hi _ _ _ _ (by decide)).trans ((app_lo _ _ _ _ (by decide)).trans (fld_all _))))
  have h6 : fld 0 3 x = w := by subst hx; exact (app_lo _ _ _ _ (by decide)).trans (fld_all _)
  have h7 : fld 10 2 x = 0#2 := by subst hx; exact (app_hi _ _ _ _ (by decide)).trans ((app_hi _ _ _ _ (by decide)).trans ((app_hi _ _ _ _ (by decide)).trans ((app_hi _ _ _ _ (by decide)).trans ((app_lo _ _ _ _ (by decide)).trans (fld_all _)))))
  have h8 : fld 3 2 x = 0#2 := by subst hx; exact (app_hi _ _ _ _ (by decide)).trans ((app_lo _ _ _ _ (by decide)).trans (fld_all _))
  have h9 : fld 6 1 x = fld 0 1 (t) := by subst hx; exact (app_hi _ _ _ _ (by decide)).trans ((app_hi _ _ _ _ (by decide)).trans ((app_hi _ _ _ _ (by decide)).trans ((app_lo _ _ _ _ (by decide)).trans (rfl))))
  simp [fXT, h0, h1, h2, h3, h4, h5, h6, h7, h8, h9, checked, firstBad, encS_ok, encS_of, bit1_eq, pairEven h]

theorem fYR_eYR (c : SSrc → Instr) (a : SSrc) :
    fYR c (eYR a) = .ok (c a) := by
  obtain ⟨x, hx⟩ : ∃ x : BitVec 26, x = (eYR a) := ⟨_, rfl⟩
  rw [← hx]
  have h0 : fld 13 6 x = (encS a).1 := by subst hx; exact (app_hi _ _ _ _ (by decide)).trans ((app_lo _ _ _ _ (by decide)).trans ((app_hi _ _ _ _ (by decide)).trans (fld_all _)))
  have h1 : fld 12 1 x = (encS a).2 := by subst hx; exact (app_hi _ _ _ _ (by decide)).trans ((app_lo _ _ _ _ (by decide)).trans ((app_lo _ _ _ _ (by decide)).trans (fld_all _)))
  have h2 : fld 19 7 x = 0#7 := by subst hx; exact (app_hi _ _ _ _ (by decide)).trans ((app_hi _ _ _ _ (by decide)).trans (fld_all _))
  have h3 : fld 0 12 x = 0#12 := by subst hx; exact (app_lo _ _ _ _ (by decide)).trans (fld_all _)
  simp [fYR, h0, h1, h2, h3, checked, firstBad, encS_ok, encS_of]

theorem fYP_eYP (c : BitVec 3 → SSrc → SSrc → BitVec 5 → Instr) (p : BitVec 3) (a b : SSrc) (t : BitVec 5) (h : pairLegal p = true) :
    fYP c (eYP p a b t) = .ok (c p a b t) := by
  obtain ⟨x, hx⟩ : ∃ x : BitVec 26, x = (eYP p a b t) := ⟨_, rfl⟩
  rw [← hx]
  have h0 : fld 23 3 x = p := by subst hx; exact (app_hi _ _ _ _ (by decide)).trans ((app_hi _ _ _ _ (by decide)).trans ((app_hi _ _ _ _ (by decide)).trans ((app_hi _ _ _ _ (by decide)).trans (fld_all _))))
  have h1 : fld 13 6 x = (encS a).1 := by subst hx; exact (app_hi _ _ _ _ (by decide)).trans ((app_hi _ _ _ _ (by decide)).trans ((app_lo _ _ _ _ (by decide)).trans ((app_hi _ _ _ _ (by decide)).trans (fld_all _))))
  have h2 : fld 12 1 x = (encS a).2 := by subst hx; exact (app_hi _ _ _ _ (by decide)).trans ((app_hi _ _ _ _ (by decide)).trans ((app_lo _ _ _ _ (by decide)).trans ((app_lo _ _ _ _ (by decide)).trans (fld_all _))))
  have h3 : fld 6 6 x = (encS b).1 := by subst hx; exact (app_hi _ _ _ _ (by decide)).trans ((app_lo _ _ _ _ (by decide)).trans ((app_hi _ _ _ _ (by decide)).trans (fld_all _)))
  have h4 : fld 5 1 x = (encS b).2 := by subst hx; exact (app_hi _ _ _ _ (by decide)).trans ((app_lo _ _ _ _ (by decide)).trans ((app_lo _ _ _ _ (by decide)).trans (fld_all _)))
  have h5 : fld 0 5 x = t := by subst hx; exact (app_lo _ _ _ _ (by decide)).trans (fld_all _)
  have h6 : fld 19 4 x = 0#4 := by subst hx; exact (app_hi _ _ _ _ (by decide)).trans ((app_hi _ _ _ _ (by decide)).trans ((app_hi _ _ _ _ (by decide)).trans ((app_lo _ _ _ _ (by decide)).trans (fld_all _))))
  simp [fYP, h0, h1, h2, h3, h4, h5, h6, checked, firstBad, encS_ok, encS_of, h]

theorem afromv_enc (ad : BitVec 4) (vs : BitVec 5) :
    decodeA 0x001 (eA (ax ad) 0 (0#1 ++ vs) 0 0 0) = .ok (.afromv ad vs) := by
  obtain ⟨x, hx⟩ : ∃ x : BitVec 26, x = (eA (ax ad) 0 (0#1 ++ vs) 0 0 0) := ⟨_, rfl⟩
  rw [← hx]
  have h0 : fld 20 6 x = (0#2 ++ ad) := by subst hx; exact (fld_span _ 20 2 4).trans (congrArg₂ (fun (a : BitVec 2) (b : BitVec 4) => a ++ b) ((app_hi _ _ _ _ (by decide)).trans ((app_hi _ _ _ _ (by decide)).trans ((app_hi _ _ _ _ (by decide)).trans ((app_hi _ _ _ _ (by decide)).trans ((app_hi _ _ _ _ (by decide)).trans ((app_hi _ _ _ _ (by decide)).trans (fld_all _))))))) ((app_hi _ _ _ _ (by decide)).trans ((app_hi _ _ _ _ (by decide)).trans ((app_hi _ _ _ _ (by decide)).trans ((app_hi _ _ _ _ (by decide)).trans ((app_hi _ _ _ _ (by decide)).trans ((app_lo _ _ _ _ (by decide)).trans (fld_all _))))))))
  have h1 : fld 19 1 x = 0#1 := by subst hx; exact (app_hi _ _ _ _ (by decide)).trans ((app_hi _ _ _ _ (by decide)).trans ((app_hi _ _ _ _ (by decide)).trans ((app_hi _ _ _ _ (by decide)).trans ((app_lo _ _ _ _ (by decide)).trans (fld_all _)))))
  have h2 : fld 13 6 x = (0#1 ++ vs) := by subst hx; exact (fld_span _ 13 1 5).trans (congrArg₂ (fun (a : BitVec 1) (b : BitVec 5) => a ++ b) ((app_hi _ _ _ _ (by decide)).trans ((app_hi _ _ _ _ (by decide)).trans ((app_hi _ _ _ _ (by decide)).trans ((app_lo _ _ _ _ (by decide)).trans ((app_hi _ _ _ _ (by decide)).trans (fld_all _)))))) ((app_hi _ _ _ _ (by decide)).trans ((app_hi _ _ _ _ (by decide)).trans ((app_hi _ _ _ _ (by decide)).trans ((app_lo _ _ _ _ (by decide)).trans ((app_lo _ _ _ _ (by decide)).trans (fld_all _)))))))
  have h3 : fld 7 6 x = 0#6 := by subst hx; exact (app_hi _ _ _ _ (by decide)).trans ((app_hi _ _ _ _ (by decide)).trans ((app_lo _ _ _ _ (by decide)).trans (fld_all _)))
  have h4 : fld 6 1 x = 0#1 := by subst hx; exact (app_hi _ _ _ _ (by decide)).trans ((app_lo _ _ _ _ (by decide)).trans (fld_all _))
  have h5 : fld 0 6 x = 0#6 := by subst hx; exact (app_lo _ _ _ _ (by decide)).trans (fld_all _)
  have h6 : fld 20 4 x = ad := by subst hx; exact (app_hi _ _ _ _ (by decide)).trans ((app_hi _ _ _ _ (by decide)).trans ((app_hi _ _ _ _ (by decide)).trans ((app_hi _ _ _ _ (by decide)).trans ((app_hi _ _ _ _ (by decide)).trans ((app_lo _ _ _ _ (by decide)).trans (fld_all _))))))
  have h7 : fld 13 5 x = vs := by subst hx; exact (app_hi _ _ _ _ (by decide)).trans ((app_hi _ _ _ _ (by decide)).trans ((app_hi _ _ _ _ (by decide)).trans ((app_lo _ _ _ _ (by decide)).trans ((app_lo _ _ _ _ (by decide)).trans (fld_all _)))))
  simp [decodeA, h0, h1, h2, h3, h4, h5, h6, h7, checked, firstBad, fAF, aOk_zero, cOk_zero]

theorem atov_enc (vd : BitVec 5) (as : BitVec 4) :
    decodeA 0x002 (eA (ax as) 0 (0#1 ++ vd) 0 0 0) = .ok (.atov vd as) := by
  obtain ⟨x, hx⟩ : ∃ x : BitVec 26, x = (eA (ax as) 0 (0#1 ++ vd) 0 0 0) := ⟨_, rfl⟩
  rw [← hx]
  have h0 : fld 20 6 x = (0#2 ++ as) := by subst hx; exact (fld_span _ 20 2 4).trans (congrArg₂ (fun (a : BitVec 2) (b : BitVec 4) => a ++ b) ((app_hi _ _ _ _ (by decide)).trans ((app_hi _ _ _ _ (by decide)).trans ((app_hi _ _ _ _ (by decide)).trans ((app_hi _ _ _ _ (by decide)).trans ((app_hi _ _ _ _ (by decide)).trans ((app_hi _ _ _ _ (by decide)).trans (fld_all _))))))) ((app_hi _ _ _ _ (by decide)).trans ((app_hi _ _ _ _ (by decide)).trans ((app_hi _ _ _ _ (by decide)).trans ((app_hi _ _ _ _ (by decide)).trans ((app_hi _ _ _ _ (by decide)).trans ((app_lo _ _ _ _ (by decide)).trans (fld_all _))))))))
  have h1 : fld 19 1 x = 0#1 := by subst hx; exact (app_hi _ _ _ _ (by decide)).trans ((app_hi _ _ _ _ (by decide)).trans ((app_hi _ _ _ _ (by decide)).trans ((app_hi _ _ _ _ (by decide)).trans ((app_lo _ _ _ _ (by decide)).trans (fld_all _)))))
  have h2 : fld 13 6 x = (0#1 ++ vd) := by subst hx; exact (fld_span _ 13 1 5).trans (congrArg₂ (fun (a : BitVec 1) (b : BitVec 5) => a ++ b) ((app_hi _ _ _ _ (by decide)).trans ((app_hi _ _ _ _ (by decide)).trans ((app_hi _ _ _ _ (by decide)).trans ((app_lo _ _ _ _ (by decide)).trans ((app_hi _ _ _ _ (by decide)).trans (fld_all _)))))) ((app_hi _ _ _ _ (by decide)).trans ((app_hi _ _ _ _ (by decide)).trans ((app_hi _ _ _ _ (by decide)).trans ((app_lo _ _ _ _ (by decide)).trans ((app_lo _ _ _ _ (by decide)).trans (fld_all _)))))))
  have h3 : fld 7 6 x = 0#6 := by subst hx; exact (app_hi _ _ _ _ (by decide)).trans ((app_hi _ _ _ _ (by decide)).trans ((app_lo _ _ _ _ (by decide)).trans (fld_all _)))
  have h4 : fld 6 1 x = 0#1 := by subst hx; exact (app_hi _ _ _ _ (by decide)).trans ((app_lo _ _ _ _ (by decide)).trans (fld_all _))
  have h5 : fld 0 6 x = 0#6 := by subst hx; exact (app_lo _ _ _ _ (by decide)).trans (fld_all _)
  have h6 : fld 20 4 x = as := by subst hx; exact (app_hi _ _ _ _ (by decide)).trans ((app_hi _ _ _ _ (by decide)).trans ((app_hi _ _ _ _ (by decide)).trans ((app_hi _ _ _ _ (by decide)).trans ((app_hi _ _ _ _ (by decide)).trans ((app_lo _ _ _ _ (by decide)).trans (fld_all _))))))
  have h7 : fld 13 5 x = vd := by subst hx; exact (app_hi _ _ _ _ (by decide)).trans ((app_hi _ _ _ _ (by decide)).trans ((app_hi _ _ _ _ (by decide)).trans ((app_lo _ _ _ _ (by decide)).trans ((app_lo _ _ _ _ (by decide)).trans (fld_all _)))))
  simp [decodeA, h0, h1, h2, h3, h4, h5, h6, h7, checked, firstBad, fAF, aOk_zero, cOk_zero]

theorem adot_enc (d : SDst) (aa ab : BitVec 4) :
    decodeA 0x003 (eA (encD d).1 (encD d).2 (ax aa) 0 0 (ax ab)) = .ok (.adot d aa ab) := by
  obtain ⟨x, hx⟩ : ∃ x : BitVec 26, x = (eA (encD d).1 (encD d).2 (ax aa) 0 0 (ax ab)) := ⟨_, rfl⟩
  rw [← hx]
  have h0 : fld 20 6 x = (encD d).1 := by subst hx; exact (app_hi _ _ _ _ (by decide)).trans ((app_hi _ _ _ _ (by decide)).trans ((app_hi _ _ _ _ (by decide)).trans ((app_hi _ _ _ _ (by decide)).trans ((app_hi _ _ _ _ (by decide)).trans (fld_all _)))))
  have h1 : fld 19 1 x = (encD d).2 := by subst hx; exact (app_hi _ _ _ _ (by decide)).trans ((app_hi _ _ _ _ (by decide)).trans ((app_hi _ _ _ _ (by decide)).trans ((app_hi _ _ _ _ (by decide)).trans ((app_lo _ _ _ _ (by decide)).trans (fld_all _)))))
  have h2 : fld 13 6 x = (0#2 ++ aa) := by subst hx; exact (fld_span _ 13 2 4).trans (congrArg₂ (fun (a : BitVec 2) (b : BitVec 4) => a ++ b) ((app_hi _ _ _ _ (by decide)).trans ((app_hi _ _ _ _ (by decide)).trans ((app_hi _ _ _ _ (by decide)).trans ((app_lo _ _ _ _ (by decide)).trans ((app_hi _ _ _ _ (by decide)).trans (fld_all _)))))) ((app_hi _ _ _ _ (by decide)).trans ((app_hi _ _ _ _ (by decide)).trans ((app_hi _ _ _ _ (by decide)).trans ((app_lo _ _ _ _ (by decide)).trans ((app_lo _ _ _ _ (by decide)).trans (fld_all _)))))))
  have h3 : fld 7 6 x = 0#6 := by subst hx; exact (app_hi _ _ _ _ (by decide)).trans ((app_hi _ _ _ _ (by decide)).trans ((app_lo _ _ _ _ (by decide)).trans (fld_all _)))
  have h4 : fld 6 1 x = 0#1 := by subst hx; exact (app_hi _ _ _ _ (by decide)).trans ((app_lo _ _ _ _ (by decide)).trans (fld_all _))
  have h5 : fld 0 6 x = (0#2 ++ ab) := by subst hx; exact (fld_span _ 0 2 4).trans (congrArg₂ (fun (a : BitVec 2) (b : BitVec 4) => a ++ b) ((app_lo _ _ _ _ (by decide)).trans ((app_hi _ _ _ _ (by decide)).trans (fld_all _))) ((app_lo _ _ _ _ (by decide)).trans ((app_lo _ _ _ _ (by decide)).trans (fld_all _))))
  have h6 : fld 13 4 x = aa := by subst hx; exact (app_hi _ _ _ _ (by decide)).trans ((app_hi _ _ _ _ (by decide)).trans ((app_hi _ _ _ _ (by decide)).trans ((app_lo _ _ _ _ (by decide)).trans ((app_lo _ _ _ _ (by decide)).trans (fld_all _)))))
  have h7 : fld 0 4 x = ab := by subst hx; exact (app_lo _ _ _ _ (by decide)).trans ((app_lo _ _ _ _ (by decide)).trans (fld_all _))
  simp [decodeA, h0, h1, h2, h3, h4, h5, h6, h7, checked, firstBad, fAF, aOk_zero, encD_ok, encD_of]

theorem adotm_enc (vd : BitVec 5) (cl : BitVec 3) (aa : BitVec 4) (b : SSrc) :
    decodeA 0x004 (eA (0#1 ++ vd) 0 (ax aa) (encS b).1 (encS b).2 (0#3 ++ cl)) = .ok (.adotm vd cl aa b) := by
  obtain ⟨x, hx⟩ : ∃ x : BitVec 26, x = (eA (0#1 ++ vd) 0 (ax aa) (encS b).1 (encS b).2 (0#3 ++ cl)) := ⟨_, rfl⟩
  rw [← hx]
  have h0 : fld 20 6 x = (0#1 ++ vd) := by subst hx; exact (fld_span _ 20 1 5).trans (congrArg₂ (fun (a : BitVec 1) (b : BitVec 5) => a ++ b) ((app_hi _ _ _ _ (by decide)).trans ((app_hi _ _ _ _ (by decide)).trans ((app_hi _ _ _ _ (by decide)).trans ((app_hi _ _ _ _ (by decide)).trans ((app_hi _ _ _ _ (by decide)).trans ((app_hi _ _ _ _ (by decide)).trans (fld_all _))))))) ((app_hi _ _ _ _ (by decide)).trans ((app_hi _ _ _ _ (by decide)).trans ((app_hi _ _ _ _ (by decide)).trans ((app_hi _ _ _ _ (by decide)).trans ((app_hi _ _ _ _ (by decide)).trans ((app_lo _ _ _ _ (by decide)).trans (fld_all _))))))))
  have h1 : fld 19 1 x = 0#1 := by subst hx; exact (app_hi _ _ _ _ (by decide)).trans ((app_hi _ _ _ _ (by decide)).trans ((app_hi _ _ _ _ (by decide)).trans ((app_hi _ _ _ _ (by decide)).trans ((app_lo _ _ _ _ (by decide)).trans (fld_all _)))))
  have h2 : fld 13 6 x = (0#2 ++ aa) := by subst hx; exact (fld_span _ 13 2 4).trans (congrArg₂ (fun (a : BitVec 2) (b : BitVec 4) => a ++ b) ((app_hi _ _ _ _ (by decide)).trans ((app_hi _ _ _ _ (by decide)).trans ((app_hi _ _ _ _ (by decide)).trans ((app_lo _ _ _ _ (by decide)).trans ((app_hi _ _ _ _ (by decide)).trans (fld_all _)))))) ((app_hi _ _ _ _ (by decide)).trans ((app_hi _ _ _ _ (by decide)).trans ((app_hi _ _ _ _ (by decide)).trans ((app_lo _ _ _ _ (by decide)).trans ((app_lo _ _ _ _ (by decide)).trans (fld_all _)))))))
  have h3 : fld 7 6 x = (encS b).1 := by subst hx; exact (app_hi _ _ _ _ (by decide)).trans ((app_hi _ _ _ _ (by decide)).trans ((app_lo _ _ _ _ (by decide)).trans (fld_all _)))
  have h4 : fld 6 1 x = (encS b).2 := by subst hx; exact (app_hi _ _ _ _ (by decide)).trans ((app_lo _ _ _ _ (by decide)).trans (fld_all _))
  have h5 : fld 13 4 x = aa := by subst hx; exact (app_hi _ _ _ _ (by decide)).trans ((app_hi _ _ _ _ (by decide)).trans ((app_hi _ _ _ _ (by decide)).trans ((app_lo _ _ _ _ (by decide)).trans ((app_lo _ _ _ _ (by decide)).trans (fld_all _)))))
  have h6 : fld 20 5 x = vd := by subst hx; exact (app_hi _ _ _ _ (by decide)).trans ((app_hi _ _ _ _ (by decide)).trans ((app_hi _ _ _ _ (by decide)).trans ((app_hi _ _ _ _ (by decide)).trans ((app_hi _ _ _ _ (by decide)).trans ((app_lo _ _ _ _ (by decide)).trans (fld_all _))))))
  have h7 : fld 0 3 x = cl := by subst hx; exact (app_lo _ _ _ _ (by decide)).trans ((app_lo _ _ _ _ (by decide)).trans (fld_all _))
  have h8 : fld 3 3 x = 0#3 := by subst hx; exact (app_lo _ _ _ _ (by decide)).trans ((app_hi _ _ _ _ (by decide)).trans (fld_all _))
  simp [decodeA, h0, h1, h2, h3, h4, h5, h6, h7, h8, checked, firstBad, fAF, aOk_zero, cOk_zero, encS_ok, encS_of]

theorem ascl_enc (ad : BitVec 4) (b : SSrc) :
    decodeA 0x005 (eA (ax ad) 0 0 (encS b).1 (encS b).2 0) = .ok (.ascl ad b) := by
  obtain ⟨x, hx⟩ : ∃ x : BitVec 26, x = (eA (ax ad) 0 0 (encS b).1 (encS b).2 0) := ⟨_, rfl⟩
  rw [← hx]
  have h0 : fld 20 6 x = (0#2 ++ ad) := by subst hx; exact (fld_span _ 20 2 4).trans (congrArg₂ (fun (a : BitVec 2) (b : BitVec 4) => a ++ b) ((app_hi _ _ _ _ (by decide)).trans ((app_hi _ _ _ _ (by decide)).trans ((app_hi _ _ _ _ (by decide)).trans ((app_hi _ _ _ _ (by decide)).trans ((app_hi _ _ _ _ (by decide)).trans ((app_hi _ _ _ _ (by decide)).trans (fld_all _))))))) ((app_hi _ _ _ _ (by decide)).trans ((app_hi _ _ _ _ (by decide)).trans ((app_hi _ _ _ _ (by decide)).trans ((app_hi _ _ _ _ (by decide)).trans ((app_hi _ _ _ _ (by decide)).trans ((app_lo _ _ _ _ (by decide)).trans (fld_all _))))))))
  have h1 : fld 19 1 x = 0#1 := by subst hx; exact (app_hi _ _ _ _ (by decide)).trans ((app_hi _ _ _ _ (by decide)).trans ((app_hi _ _ _ _ (by decide)).trans ((app_hi _ _ _ _ (by decide)).trans ((app_lo _ _ _ _ (by decide)).trans (fld_all _)))))
  have h2 : fld 13 6 x = 0#6 := by subst hx; exact (app_hi _ _ _ _ (by decide)).trans ((app_hi _ _ _ _ (by decide)).trans ((app_hi _ _ _ _ (by decide)).trans ((app_lo _ _ _ _ (by decide)).trans (fld_all _))))
  have h3 : fld 7 6 x = (encS b).1 := by subst hx; exact (app_hi _ _ _ _ (by decide)).trans ((app_hi _ _ _ _ (by decide)).trans ((app_lo _ _ _ _ (by decide)).trans (fld_all _)))
  have h4 : fld 6 1 x = (encS b).2 := by subst hx; exact (app_hi _ _ _ _ (by decide)).trans ((app_lo _ _ _ _ (by decide)).trans (fld_all _))
  have h5 : fld 0 6 x = 0#6 := by subst hx; exact (app_lo _ _ _ _ (by decide)).trans (fld_all _)
  have h6 : fld 20 4 x = ad := by subst hx; exact (app_hi _ _ _ _ (by decide)).trans ((app_hi _ _ _ _ (by decide)).trans ((app_hi _ _ _ _ (by decide)).trans ((app_hi _ _ _ _ (by decide)).trans ((app_hi _ _ _ _ (by decide)).trans ((app_lo _ _ _ _ (by decide)).trans (fld_all _))))))
  simp [decodeA, h0, h1, h2, h3, h4, h5, h6, checked, firstBad, fAF, aOk_zero, encS_ok, encS_of]

theorem ascli_enc (ad : BitVec 4) (i : BitVec 19) :
    decodeA 0x006 (ax ad ++ 0#1 ++ i : BitVec 26) = .ok (.ascli ad i) := by
  obtain ⟨x, hx⟩ : ∃ x : BitVec 26, x = (ax ad ++ 0#1 ++ i : BitVec 26) := ⟨_, rfl⟩
  rw [← hx]
  have h0 : fld 20 6 x = (0#2 ++ ad) := by subst hx; exact (fld_span _ 20 2 4).trans (congrArg₂ (fun (a : BitVec 2) (b : BitVec 4) => a ++ b) ((app_hi _ _ _ _ (by decide)).trans ((app_hi _ _ _ _ (by decide)).trans ((app_hi _ _ _ _ (by decide)).trans (fld_all _)))) ((app_hi _ _ _ _ (by decide)).trans ((app_hi _ _ _ _ (by decide)).trans ((app_lo _ _ _ _ (by decide)).trans (fld_all _)))))
  have h1 : fld 19 1 x = 0#1 := by subst hx; exact (app_hi _ _ _ _ (by decide)).trans ((app_lo _ _ _ _ (by decide)).trans (fld_all _))
  have h2 : fld 20 4 x = ad := by subst hx; exact (app_hi _ _ _ _ (by decide)).trans ((app_hi _ _ _ _ (by decide)).trans ((app_lo _ _ _ _ (by decide)).trans (fld_all _)))
  have h3 : fld 0 19 x = i := by subst hx; exact (app_lo _ _ _ _ (by decide)).trans (fld_all _)
  simp [decodeA, h0, h1, h2, h3, checked, firstBad, aOk_zero]

theorem amag_enc (d : SDst) (as : BitVec 4) :
    decodeA 0x007 (eA (encD d).1 (encD d).2 (ax as) 0 0 0) = .ok (.amag d as) := by
  obtain ⟨x, hx⟩ : ∃ x : BitVec 26, x = (eA (encD d).1 (encD d).2 (ax as) 0 0 0) := ⟨_, rfl⟩
  rw [← hx]
  have h0 : fld 20 6 x = (encD d).1 := by subst hx; exact (app_hi _ _ _ _ (by decide)).trans ((app_hi _ _ _ _ (by decide)).trans ((app_hi _ _ _ _ (by decide)).trans ((app_hi _ _ _ _ (by decide)).trans ((app_hi _ _ _ _ (by decide)).trans (fld_all _)))))
  have h1 : fld 19 1 x = (encD d).2 := by subst hx; exact (app_hi _ _ _ _ (by decide)).trans ((app_hi _ _ _ _ (by decide)).trans ((app_hi _ _ _ _ (by decide)).trans ((app_hi _ _ _ _ (by decide)).trans ((app_lo _ _ _ _ (by decide)).trans (fld_all _)))))
  have h2 : fld 13 6 x = (0#2 ++ as) := by subst hx; exact (fld_span _ 13 2 4).trans (congrArg₂ (fun (a : BitVec 2) (b : BitVec 4) => a ++ b) ((app_hi _ _ _ _ (by decide)).trans ((app_hi _ _ _ _ (by decide)).trans ((app_hi _ _ _ _ (by decide)).trans ((app_lo _ _ _ _ (by decide)).trans ((app_hi _ _ _ _ (by decide)).trans (fld_all _)))))) ((app_hi _ _ _ _ (by decide)).trans ((app_hi _ _ _ _ (by decide)).trans ((app_hi _ _ _ _ (by decide)).trans ((app_lo _ _ _ _ (by decide)).trans ((app_lo _ _ _ _ (by decide)).trans (fld_all _)))))))
  have h3 : fld 7 6 x = 0#6 := by subst hx; exact (app_hi _ _ _ _ (by decide)).trans ((app_hi _ _ _ _ (by decide)).trans ((app_lo _ _ _ _ (by decide)).trans (fld_all _)))
  have h4 : fld 6 1 x = 0#1 := by subst hx; exact (app_hi _ _ _ _ (by decide)).trans ((app_lo _ _ _ _ (by decide)).trans (fld_all _))
  have h5 : fld 0 6 x = 0#6 := by subst hx; exact (app_lo _ _ _ _ (by decide)).trans (fld_all _)
  have h6 : fld 13 4 x = as := by subst hx; exact (app_hi _ _ _ _ (by decide)).trans ((app_hi _ _ _ _ (by decide)).trans ((app_hi _ _ _ _ (by decide)).trans ((app_lo _ _ _ _ (by decide)).trans ((app_lo _ _ _ _ (by decide)).trans (fld_all _)))))
  simp [decodeA, h0, h1, h2, h3, h4, h5, h6, checked, firstBad, fAF, aOk_zero, encD_ok, encD_of]

theorem aneg_enc (ad as : BitVec 4) :
    decodeA 0x008 (eA (ax ad) 0 (ax as) 0 0 0) = .ok (.aneg ad as) := by
  obtain ⟨x, hx⟩ : ∃ x : BitVec 26, x = (eA (ax ad) 0 (ax as) 0 0 0) := ⟨_, rfl⟩
  rw [← hx]
  have h0 : fld 20 6 x = (0#2 ++ ad) := by subst hx; exact (fld_span _ 20 2 4).trans (congrArg₂ (fun (a : BitVec 2) (b : BitVec 4) => a ++ b) ((app_hi _ _ _ _ (by decide)).trans ((app_hi _ _ _ _ (by decide)).trans ((app_hi _ _ _ _ (by decide)).trans ((app_hi _ _ _ _ (by decide)).trans ((app_hi _ _ _ _ (by decide)).trans ((app_hi _ _ _ _ (by decide)).trans (fld_all _))))))) ((app_hi _ _ _ _ (by decide)).trans ((app_hi _ _ _ _ (by decide)).trans ((app_hi _ _ _ _ (by decide)).trans ((app_hi _ _ _ _ (by decide)).trans ((app_hi _ _ _ _ (by decide)).trans ((app_lo _ _ _ _ (by decide)).trans (fld_all _))))))))
  have h1 : fld 19 1 x = 0#1 := by subst hx; exact (app_hi _ _ _ _ (by decide)).trans ((app_hi _ _ _ _ (by decide)).trans ((app_hi _ _ _ _ (by decide)).trans ((app_hi _ _ _ _ (by decide)).trans ((app_lo _ _ _ _ (by decide)).trans (fld_all _)))))
  have h2 : fld 13 6 x = (0#2 ++ as) := by subst hx; exact (fld_span _ 13 2 4).trans (congrArg₂ (fun (a : BitVec 2) (b : BitVec 4) => a ++ b) ((app_hi _ _ _ _ (by decide)).trans ((app_hi _ _ _ _ (by decide)).trans ((app_hi _ _ _ _ (by decide)).trans ((app_lo _ _ _ _ (by decide)).trans ((app_hi _ _ _ _ (by decide)).trans (fld_all _)))))) ((app_hi _ _ _ _ (by decide)).trans ((app_hi _ _ _ _ (by decide)).trans ((app_hi _ _ _ _ (by decide)).trans ((app_lo _ _ _ _ (by decide)).trans ((app_lo _ _ _ _ (by decide)).trans (fld_all _)))))))
  have h3 : fld 7 6 x = 0#6 := by subst hx; exact (app_hi _ _ _ _ (by decide)).trans ((app_hi _ _ _ _ (by decide)).trans ((app_lo _ _ _ _ (by decide)).trans (fld_all _)))
  have h4 : fld 6 1 x = 0#1 := by subst hx; exact (app_hi _ _ _ _ (by decide)).trans ((app_lo _ _ _ _ (by decide)).trans (fld_all _))
  have h5 : fld 0 6 x = 0#6 := by subst hx; exact (app_lo _ _ _ _ (by decide)).trans (fld_all _)
  have h6 : fld 20 4 x = ad := by subst hx; exact (app_hi _ _ _ _ (by decide)).trans ((app_hi _ _ _ _ (by decide)).trans ((app_hi _ _ _ _ (by decide)).trans ((app_hi _ _ _ _ (by decide)).trans ((app_hi _ _ _ _ (by decide)).trans ((app_lo _ _ _ _ (by decide)).trans (fld_all _))))))
  have h7 : fld 13 4 x = as := by subst hx; exact (app_hi _ _ _ _ (by decide)).trans ((app_hi _ _ _ _ (by decide)).trans ((app_hi _ _ _ _ (by decide)).trans ((app_lo _ _ _ _ (by decide)).trans ((app_lo _ _ _ _ (by decide)).trans (fld_all _)))))
  simp [decodeA, h0, h1, h2, h3, h4, h5, h6, h7, checked, firstBad, fAF, aOk_zero]

theorem aadd_enc (ad aa ab : BitVec 4) :
    decodeA 0x009 (eA (ax ad) 0 (ax aa) 0 0 (ax ab)) = .ok (.aadd ad aa ab) := by
  obtain ⟨x, hx⟩ : ∃ x : BitVec 26, x = (eA (ax ad) 0 (ax aa) 0 0 (ax ab)) := ⟨_, rfl⟩
  rw [← hx]
  have h0 : fld 20 6 x = (0#2 ++ ad) := by subst hx; exact (fld_span _ 20 2 4).trans (congrArg₂ (fun (a : BitVec 2) (b : BitVec 4) => a ++ b) ((app_hi _ _ _ _ (by decide)).trans ((app_hi _ _ _ _ (by decide)).trans ((app_hi _ _ _ _ (by decide)).trans ((app_hi _ _ _ _ (by decide)).trans ((app_hi _ _ _ _ (by decide)).trans ((app_hi _ _ _ _ (by decide)).trans (fld_all _))))))) ((app_hi _ _ _ _ (by decide)).trans ((app_hi _ _ _ _ (by decide)).trans ((app_hi _ _ _ _ (by decide)).trans ((app_hi _ _ _ _ (by decide)).trans ((app_hi _ _ _ _ (by decide)).trans ((app_lo _ _ _ _ (by decide)).trans (fld_all _))))))))
  have h1 : fld 19 1 x = 0#1 := by subst hx; exact (app_hi _ _ _ _ (by decide)).trans ((app_hi _ _ _ _ (by decide)).trans ((app_hi _ _ _ _ (by decide)).trans ((app_hi _ _ _ _ (by decide)).trans ((app_lo _ _ _ _ (by decide)).trans (fld_all _)))))
  have h2 : fld 13 6 x = (0#2 ++ aa) := by subst hx; exact (fld_span _ 13 2 4).trans (congrArg₂ (fun (a : BitVec 2) (b : BitVec 4) => a ++ b) ((app_hi _ _ _ _ (by decide)).trans ((app_hi _ _ _ _ (by decide)).trans ((app_hi _ _ _ _ (by decide)).trans ((app_lo _ _ _ _ (by decide)).trans ((app_hi _ _ _ _ (by decide)).trans (fld_all _)))))) ((app_hi _ _ _ _ (by decide)).trans ((app_hi _ _ _ _ (by decide)).trans ((app_hi _ _ _ _ (by decide)).trans ((app_lo _ _ _ _ (by decide)).trans ((app_lo _ _ _ _ (by decide)).trans (fld_all _)))))))
  have h3 : fld 7 6 x = 0#6 := by subst hx; exact (app_hi _ _ _ _ (by decide)).trans ((app_hi _ _ _ _ (by decide)).trans ((app_lo _ _ _ _ (by decide)).trans (fld_all _)))
  have h4 : fld 6 1 x = 0#1 := by subst hx; exact (app_hi _ _ _ _ (by decide)).trans ((app_lo _ _ _ _ (by decide)).trans (fld_all _))
  have h5 : fld 0 6 x = (0#2 ++ ab) := by subst hx; exact (fld_span _ 0 2 4).trans (congrArg₂ (fun (a : BitVec 2) (b : BitVec 4) => a ++ b) ((app_lo _ _ _ _ (by decide)).trans ((app_hi _ _ _ _ (by decide)).trans (fld_all _))) ((app_lo _ _ _ _ (by decide)).trans ((app_lo _ _ _ _ (by decide)).trans (fld_all _))))
  have h6 : fld 20 4 x = ad := by subst hx; exact (app_hi _ _ _ _ (by decide)).trans ((app_hi _ _ _ _ (by decide)).trans ((app_hi _ _ _ _ (by decide)).trans ((app_hi _ _ _ _ (by decide)).trans ((app_hi _ _ _ _ (by decide)).trans ((app_lo _ _ _ _ (by decide)).trans (fld_all _))))))
  have h7 : fld 13 4 x = aa := by subst hx; exact (app_hi _ _ _ _ (by decide)).trans ((app_hi _ _ _ _ (by decide)).trans ((app_hi _ _ _ _ (by decide)).trans ((app_lo _ _ _ _ (by decide)).trans ((app_lo _ _ _ _ (by decide)).trans (fld_all _)))))
  have h8 : fld 0 4 x = ab := by subst hx; exact (app_lo _ _ _ _ (by decide)).trans ((app_lo _ _ _ _ (by decide)).trans (fld_all _))
  simp [decodeA, h0, h1, h2, h3, h4, h5, h6, h7, h8, checked, firstBad, fAF, aOk_zero]

theorem asub_enc (ad aa ab : BitVec 4) :
    decodeA 0x00A (eA (ax ad) 0 (ax aa) 0 0 (ax ab)) = .ok (.asub ad aa ab) := by
  obtain ⟨x, hx⟩ : ∃ x : BitVec 26, x = (eA (ax ad) 0 (ax aa) 0 0 (ax ab)) := ⟨_, rfl⟩
  rw [← hx]
  have h0 : fld 20 6 x = (0#2 ++ ad) := by subst hx; exact (fld_span _ 20 2 4).trans (congrArg₂ (fun (a : BitVec 2) (b : BitVec 4) => a ++ b) ((app_hi _ _ _ _ (by decide)).trans ((app_hi _ _ _ _ (by decide)).trans ((app_hi _ _ _ _ (by decide)).trans ((app_hi _ _ _ _ (by decide)).trans ((app_hi _ _ _ _ (by decide)).trans ((app_hi _ _ _ _ (by decide)).trans (fld_all _))))))) ((app_hi _ _ _ _ (by decide)).trans ((app_hi _ _ _ _ (by decide)).trans ((app_hi _ _ _ _ (by decide)).trans ((app_hi _ _ _ _ (by decide)).trans ((app_hi _ _ _ _ (by decide)).trans ((app_lo _ _ _ _ (by decide)).trans (fld_all _))))))))
  have h1 : fld 19 1 x = 0#1 := by subst hx; exact (app_hi _ _ _ _ (by decide)).trans ((app_hi _ _ _ _ (by decide)).trans ((app_hi _ _ _ _ (by decide)).trans ((app_hi _ _ _ _ (by decide)).trans ((app_lo _ _ _ _ (by decide)).trans (fld_all _)))))
  have h2 : fld 13 6 x = (0#2 ++ aa) := by subst hx; exact (fld_span _ 13 2 4).trans (congrArg₂ (fun (a : BitVec 2) (b : BitVec 4) => a ++ b) ((app_hi _ _ _ _ (by decide)).trans ((app_hi _ _ _ _ (by decide)).trans ((app_hi _ _ _ _ (by decide)).trans ((app_lo _ _ _ _ (by decide)).trans ((app_hi _ _ _ _ (by decide)).trans (fld_all _)))))) ((app_hi _ _ _ _ (by decide)).trans ((app_hi _ _ _ _ (by decide)).trans ((app_hi _ _ _ _ (by decide)).trans ((app_lo _ _ _ _ (by decide)).trans ((app_lo _ _ _ _ (by decide)).trans (fld_all _)))))))
  have h3 : fld 7 6 x = 0#6 := by subst hx; exact (app_hi _ _ _ _ (by decide)).trans ((app_hi _ _ _ _ (by decide)).trans ((app_lo _ _ _ _ (by decide)).trans (fld_all _)))
  have h4 : fld 6 1 x = 0#1 := by subst hx; exact (app_hi _ _ _ _ (by decide)).trans ((app_lo _ _ _ _ (by decide)).trans (fld_all _))
  have h5 : fld 0 6 x = (0#2 ++ ab) := by subst hx; exact (fld_span _ 0 2 4).trans (congrArg₂ (fun (a : BitVec 2) (b : BitVec 4) => a ++ b) ((app_lo _ _ _ _ (by decide)).trans ((app_hi _ _ _ _ (by decide)).trans (fld_all _))) ((app_lo _ _ _ _ (by decide)).trans ((app_lo _ _ _ _ (by decide)).trans (fld_all _))))
  have h6 : fld 20 4 x = ad := by subst hx; exact (app_hi _ _ _ _ (by decide)).trans ((app_hi _ _ _ _ (by decide)).trans ((app_hi _ _ _ _ (by decide)).trans ((app_hi _ _ _ _ (by decide)).trans ((app_hi _ _ _ _ (by decide)).trans ((app_lo _ _ _ _ (by decide)).trans (fld_all _))))))
  have h7 : fld 13 4 x = aa := by subst hx; exact (app_hi _ _ _ _ (by decide)).trans ((app_hi _ _ _ _ (by decide)).trans ((app_hi _ _ _ _ (by decide)).trans ((app_lo _ _ _ _ (by decide)).trans ((app_lo _ _ _ _ (by decide)).trans (fld_all _)))))
  have h8 : fld 0 4 x = ab := by subst hx; exact (app_lo _ _ _ _ (by decide)).trans ((app_lo _ _ _ _ (by decide)).trans (fld_all _))
  simp [decodeA, h0, h1, h2, h3, h4, h5, h6, h7, h8, checked, firstBad, fAF, aOk_zero]

theorem alerp_enc (ad aa ab : BitVec 4) (b : SSrc) :
    decodeA 0x00B (eA (ax ad) 0 (ax aa) (encS b).1 (encS b).2 (ax ab)) = .ok (.alerp ad aa ab b) := by
  obtain ⟨x, hx⟩ : ∃ x : BitVec 26, x = (eA (ax ad) 0 (ax aa) (encS b).1 (encS b).2 (ax ab)) := ⟨_, rfl⟩
  rw [← hx]
  have h0 : fld 20 6 x = (0#2 ++ ad) := by subst hx; exact (fld_span _ 20 2 4).trans (congrArg₂ (fun (a : BitVec 2) (b : BitVec 4) => a ++ b) ((app_hi _ _ _ _ (by decide)).trans ((app_hi _ _ _ _ (by decide)).trans ((app_hi _ _ _ _ (by decide)).trans ((app_hi _ _ _ _ (by decide)).trans ((app_hi _ _ _ _ (by decide)).trans ((app_hi _ _ _ _ (by decide)).trans (fld_all _))))))) ((app_hi _ _ _ _ (by decide)).trans ((app_hi _ _ _ _ (by decide)).trans ((app_hi _ _ _ _ (by decide)).trans ((app_hi _ _ _ _ (by decide)).trans ((app_hi _ _ _ _ (by decide)).trans ((app_lo _ _ _ _ (by decide)).trans (fld_all _))))))))
  have h1 : fld 19 1 x = 0#1 := by subst hx; exact (app_hi _ _ _ _ (by decide)).trans ((app_hi _ _ _ _ (by decide)).trans ((app_hi _ _ _ _ (by decide)).trans ((app_hi _ _ _ _ (by decide)).trans ((app_lo _ _ _ _ (by decide)).trans (fld_all _)))))
  have h2 : fld 13 6 x = (0#2 ++ aa) := by subst hx; exact (fld_span _ 13 2 4).trans (congrArg₂ (fun (a : BitVec 2) (b : BitVec 4) => a ++ b) ((app_hi _ _ _ _ (by decide)).trans ((app_hi _ _ _ _ (by decide)).trans ((app_hi _ _ _ _ (by decide)).trans ((app_lo _ _ _ _ (by decide)).trans ((app_hi _ _ _ _ (by decide)).trans (fld_all _)))))) ((app_hi _ _ _ _ (by decide)).trans ((app_hi _ _ _ _ (by decide)).trans ((app_hi _ _ _ _ (by decide)).trans ((app_lo _ _ _ _ (by decide)).trans ((app_lo _ _ _ _ (by decide)).trans (fld_all _)))))))
  have h3 : fld 7 6 x = (encS b).1 := by subst hx; exact (app_hi _ _ _ _ (by decide)).trans ((app_hi _ _ _ _ (by decide)).trans ((app_lo _ _ _ _ (by decide)).trans (fld_all _)))
  have h4 : fld 6 1 x = (encS b).2 := by subst hx; exact (app_hi _ _ _ _ (by decide)).trans ((app_lo _ _ _ _ (by decide)).trans (fld_all _))
  have h5 : fld 0 6 x = (0#2 ++ ab) := by subst hx; exact (fld_span _ 0 2 4).trans (congrArg₂ (fun (a : BitVec 2) (b : BitVec 4) => a ++ b) ((app_lo _ _ _ _ (by decide)).trans ((app_hi _ _ _ _ (by decide)).trans (fld_all _))) ((app_lo _ _ _ _ (by decide)).trans ((app_lo _ _ _ _ (by decide)).trans (fld_all _))))
  have h6 : fld 20 4 x = ad := by subst hx; exact (app_hi _ _ _ _ (by decide)).trans ((app_hi _ _ _ _ (by decide)).trans ((app_hi _ _ _ _ (by decide)).trans ((app_hi _ _ _ _ (by decide)).trans ((app_hi _ _ _ _ (by decide)).trans ((app_lo _ _ _ _ (by decide)).trans (fld_all _))))))
  have h7 : fld 13 4 x = aa := by subst hx; exact (app_hi _ _ _ _ (by decide)).trans ((app_hi _ _ _ _ (by decide)).trans ((app_hi _ _ _ _ (by decide)).trans ((app_lo _ _ _ _ (by decide)).trans ((app_lo _ _ _ _ (by decide)).trans (fld_all _)))))
  have h8 : fld 0 4 x = ab := by subst hx; exact (app_lo _ _ _ _ (by decide)).trans ((app_lo _ _ _ _ (by decide)).trans (fld_all _))
  simp [decodeA, h0, h1, h2, h3, h4, h5, h6, h7, h8, checked, firstBad, fAF, aOk_zero, encS_ok, encS_of]

theorem azero_enc (ad : BitVec 4) :
    decodeA 0x00C (eA (ax ad) 0 0 0 0 0) = .ok (.azero ad) := by
  obtain ⟨x, hx⟩ : ∃ x : BitVec 26, x = (eA (ax ad) 0 0 0 0 0) := ⟨_, rfl⟩
  rw [← hx]
  have h0 : fld 20 6 x = (0#2 ++ ad) := by subst hx; exact (fld_span _ 20 2 4).trans (congrArg₂ (fun (a : BitVec 2) (b : BitVec 4) => a ++ b) ((app_hi _ _ _ _ (by decide)).trans ((app_hi _ _ _ _ (by decide)).trans ((app_hi _ _ _ _ (by decide)).trans ((app_hi _ _ _ _ (by decide)).trans ((app_hi _ _ _ _ (by decide)).trans ((app_hi _ _ _ _ (by decide)).trans (fld_all _))))))) ((app_hi _ _ _ _ (by decide)).trans ((app_hi _ _ _ _ (by decide)).trans ((app_hi _ _ _ _ (by decide)).trans ((app_hi _ _ _ _ (by decide)).trans ((app_hi _ _ _ _ (by decide)).trans ((app_lo _ _ _ _ (by decide)).trans (fld_all _))))))))
  have h1 : fld 19 1 x = 0#1 := by subst hx; exact (app_hi _ _ _ _ (by decide)).trans ((app_hi _ _ _ _ (by decide)).trans ((app_hi _ _ _ _ (by decide)).trans ((app_hi _ _ _ _ (by decide)).trans ((app_lo _ _ _ _ (by decide)).trans (fld_all _)))))
  have h2 : fld 13 6 x = 0#6 := by subst hx; exact (app_hi _ _ _ _ (by decide)).trans ((app_hi _ _ _ _ (by decide)).trans ((app_hi _ _ _ _ (by decide)).trans ((app_lo _ _ _ _ (by decide)).trans (fld_all _))))
  have h3 : fld 7 6 x = 0#6 := by subst hx; exact (app_hi _ _ _ _ (by decide)).trans ((app_hi _ _ _ _ (by decide)).trans ((app_lo _ _ _ _ (by decide)).trans (fld_all _)))
  have h4 : fld 6 1 x = 0#1 := by subst hx; exact (app_hi _ _ _ _ (by decide)).trans ((app_lo _ _ _ _ (by decide)).trans (fld_all _))
  have h5 : fld 0 6 x = 0#6 := by subst hx; exact (app_lo _ _ _ _ (by decide)).trans (fld_all _)
  have h6 : fld 20 4 x = ad := by subst hx; exact (app_hi _ _ _ _ (by decide)).trans ((app_hi _ _ _ _ (by decide)).trans ((app_hi _ _ _ _ (by decide)).trans ((app_hi _ _ _ _ (by decide)).trans ((app_hi _ _ _ _ (by decide)).trans ((app_lo _ _ _ _ (by decide)).trans (fld_all _))))))
  simp [decodeA, h0, h1, h2, h3, h4, h5, h6, checked, firstBad, fAF, aOk_zero]

theorem asetn_enc (ad : BitVec 4) (b : SSrc) :
    decodeA 0x00D (eA (ax ad) 0 0 (encS b).1 (encS b).2 0) = .ok (.asetn ad b) := by
  obtain ⟨x, hx⟩ : ∃ x : BitVec 26, x = (eA (ax ad) 0 0 (encS b).1 (encS b).2 0) := ⟨_, rfl⟩
  rw [← hx]
  have h0 : fld 20 6 x = (0#2 ++ ad) := by subst hx; exact (fld_span _ 20 2 4).trans (congrArg₂ (fun (a : BitVec 2) (b : BitVec 4) => a ++ b) ((app_hi _ _ _ _ (by decide)).trans ((app_hi _ _ _ _ (by decide)).trans ((app_hi _ _ _ _ (by decide)).trans ((app_hi _ _ _ _ (by decide)).trans ((app_hi _ _ _ _ (by decide)).trans ((app_hi _ _ _ _ (by decide)).trans (fld_all _))))))) ((app_hi _ _ _ _ (by decide)).trans ((app_hi _ _ _ _ (by decide)).trans ((app_hi _ _ _ _ (by decide)).trans ((app_hi _ _ _ _ (by decide)).trans ((app_hi _ _ _ _ (by decide)).trans ((app_lo _ _ _ _ (by decide)).trans (fld_all _))))))))
  have h1 : fld 19 1 x = 0#1 := by subst hx; exact (app_hi _ _ _ _ (by decide)).trans ((app_hi _ _ _ _ (by decide)).trans ((app_hi _ _ _ _ (by decide)).trans ((app_hi _ _ _ _ (by decide)).trans ((app_lo _ _ _ _ (by decide)).trans (fld_all _)))))
  have h2 : fld 13 6 x = 0#6 := by subst hx; exact (app_hi _ _ _ _ (by decide)).trans ((app_hi _ _ _ _ (by decide)).trans ((app_hi _ _ _ _ (by decide)).trans ((app_lo _ _ _ _ (by decide)).trans (fld_all _))))
  have h3 : fld 7 6 x = (encS b).1 := by subst hx; exact (app_hi _ _ _ _ (by decide)).trans ((app_hi _ _ _ _ (by decide)).trans ((app_lo _ _ _ _ (by decide)).trans (fld_all _)))
  have h4 : fld 6 1 x = (encS b).2 := by subst hx; exact (app_hi _ _ _ _ (by decide)).trans ((app_lo _ _ _ _ (by decide)).trans (fld_all _))
  have h5 : fld 0 6 x = 0#6 := by subst hx; exact (app_lo _ _ _ _ (by decide)).trans (fld_all _)
  have h6 : fld 20 4 x = ad := by subst hx; exact (app_hi _ _ _ _ (by decide)).trans ((app_hi _ _ _ _ (by decide)).trans ((app_hi _ _ _ _ (by decide)).trans ((app_hi _ _ _ _ (by decide)).trans ((app_hi _ _ _ _ (by decide)).trans ((app_lo _ _ _ _ (by decide)).trans (fld_all _))))))
  simp [decodeA, h0, h1, h2, h3, h4, h5, h6, checked, firstBad, fAF, aOk_zero, encS_ok, encS_of]

theorem mma_bf16_enc (rep : BitVec 8) (acc : BitVec 2) (a b : TOp) (w : BitVec 3) :
    decodeM 0x001 (eMF rep acc (encTA a) (encTB b) w) = .ok (.mma .bf16 rep acc a b w) := by
  obtain ⟨x, hx⟩ : ∃ x : BitVec 26, x = (eMF rep acc (encTA a) (encTB b) w) := ⟨_, rfl⟩
  rw [← hx]
  have h0 : fld 18 8 x = rep := by subst hx; exact (app_hi _ _ _ _ (by decide)).trans ((app_hi _ _ _ _ (by decide)).trans ((app_hi _ _ _ _ (by decide)).trans ((app_hi _ _ _ _ (by decide)).trans ((app_hi _ _ _ _ (by decide)).trans ((app_hi _ _ _ _ (by decide)).trans (fld_all _))))))
  have h1 : fld 16 2 x = acc := by subst hx; exact (app_hi _ _ _ _ (by decide)).trans ((app_hi _ _ _ _ (by decide)).trans ((app_hi _ _ _ _ (by decide)).trans ((app_hi _ _ _ _ (by decide)).trans ((app_hi _ _ _ _ (by decide)).trans ((app_lo _ _ _ _ (by decide)).trans (fld_all _))))))
  have h2 : fld 15 1 x = (encTA a).1 := by subst hx; exact (app_hi _ _ _ _ (by decide)).trans ((app_hi _ _ _ _ (by decide)).trans ((app_hi _ _ _ _ (by decide)).trans ((app_hi _ _ _ _ (by decide)).trans ((app_lo _ _ _ _ (by decide)).trans (fld_all _)))))
  have h3 : fld 11 4 x = (encTA a).2 := by subst hx; exact (app_hi _ _ _ _ (by decide)).trans ((app_hi _ _ _ _ (by decide)).trans ((app_hi _ _ _ _ (by decide)).trans ((app_lo _ _ _ _ (by decide)).trans (fld_all _))))
  have h4 : fld 10 1 x = (encTB b).1 := by subst hx; exact (app_hi _ _ _ _ (by decide)).trans ((app_hi _ _ _ _ (by decide)).trans ((app_lo _ _ _ _ (by decide)).trans (fld_all _)))
  have h5 : fld 3 7 x = (encTB b).2 := by subst hx; exact (app_hi _ _ _ _ (by decide)).trans ((app_lo _ _ _ _ (by decide)).trans (fld_all _))
  have h6 : fld 0 3 x = w := by subst hx; exact (app_lo _ _ _ _ (by decide)).trans (fld_all _)
  simp [decodeM, h0, h1, h2, h3, h4, h5, h6, checked, firstBad, fMF, encTA_ok, encTA_of, encTB_ok, encTB_of]

theorem mma_e4m3_enc (rep : BitVec 8) (acc : BitVec 2) (a b : TOp) (w : BitVec 3) :
    decodeM 0x002 (eMF rep acc (encTA a) (encTB b) w) = .ok (.mma .e4m3 rep acc a b w) := by
  obtain ⟨x, hx⟩ : ∃ x : BitVec 26, x = (eMF rep acc (encTA a) (encTB b) w) := ⟨_, rfl⟩
  rw [← hx]
  have h0 : fld 18 8 x = rep := by subst hx; exact (app_hi _ _ _ _ (by decide)).trans ((app_hi _ _ _ _ (by decide)).trans ((app_hi _ _ _ _ (by decide)).trans ((app_hi _ _ _ _ (by decide)).trans ((app_hi _ _ _ _ (by decide)).trans ((app_hi _ _ _ _ (by decide)).trans (fld_all _))))))
  have h1 : fld 16 2 x = acc := by subst hx; exact (app_hi _ _ _ _ (by decide)).trans ((app_hi _ _ _ _ (by decide)).trans ((app_hi _ _ _ _ (by decide)).trans ((app_hi _ _ _ _ (by decide)).trans ((app_hi _ _ _ _ (by decide)).trans ((app_lo _ _ _ _ (by decide)).trans (fld_all _))))))
  have h2 : fld 15 1 x = (encTA a).1 := by subst hx; exact (app_hi _ _ _ _ (by decide)).trans ((app_hi _ _ _ _ (by decide)).trans ((app_hi _ _ _ _ (by decide)).trans ((app_hi _ _ _ _ (by decide)).trans ((app_lo _ _ _ _ (by decide)).trans (fld_all _)))))
  have h3 : fld 11 4 x = (encTA a).2 := by subst hx; exact (app_hi _ _ _ _ (by decide)).trans ((app_hi _ _ _ _ (by decide)).trans ((app_hi _ _ _ _ (by decide)).trans ((app_lo _ _ _ _ (by decide)).trans (fld_all _))))
  have h4 : fld 10 1 x = (encTB b).1 := by subst hx; exact (app_hi _ _ _ _ (by decide)).trans ((app_hi _ _ _ _ (by decide)).trans ((app_lo _ _ _ _ (by decide)).trans (fld_all _)))
  have h5 : fld 3 7 x = (encTB b).2 := by subst hx; exact (app_hi _ _ _ _ (by decide)).trans ((app_lo _ _ _ _ (by decide)).trans (fld_all _))
  have h6 : fld 0 3 x = w := by subst hx; exact (app_lo _ _ _ _ (by decide)).trans (fld_all _)
  simp [decodeM, h0, h1, h2, h3, h4, h5, h6, checked, firstBad, fMF, encTA_ok, encTA_of, encTB_ok, encTB_of]

theorem mma_e5m2_enc (rep : BitVec 8) (acc : BitVec 2) (a b : TOp) (w : BitVec 3) :
    decodeM 0x003 (eMF rep acc (encTA a) (encTB b) w) = .ok (.mma .e5m2 rep acc a b w) := by
  obtain ⟨x, hx⟩ : ∃ x : BitVec 26, x = (eMF rep acc (encTA a) (encTB b) w) := ⟨_, rfl⟩
  rw [← hx]
  have h0 : fld 18 8 x = rep := by subst hx; exact (app_hi _ _ _ _ (by decide)).trans ((app_hi _ _ _ _ (by decide)).trans ((app_hi _ _ _ _ (by decide)).trans ((app_hi _ _ _ _ (by decide)).trans ((app_hi _ _ _ _ (by decide)).trans ((app_hi _ _ _ _ (by decide)).trans (fld_all _))))))
  have h1 : fld 16 2 x = acc := by subst hx; exact (app_hi _ _ _ _ (by decide)).trans ((app_hi _ _ _ _ (by decide)).trans ((app_hi _ _ _ _ (by decide)).trans ((app_hi _ _ _ _ (by decide)).trans ((app_hi _ _ _ _ (by decide)).trans ((app_lo _ _ _ _ (by decide)).trans (fld_all _))))))
  have h2 : fld 15 1 x = (encTA a).1 := by subst hx; exact (app_hi _ _ _ _ (by decide)).trans ((app_hi _ _ _ _ (by decide)).trans ((app_hi _ _ _ _ (by decide)).trans ((app_hi _ _ _ _ (by decide)).trans ((app_lo _ _ _ _ (by decide)).trans (fld_all _)))))
  have h3 : fld 11 4 x = (encTA a).2 := by subst hx; exact (app_hi _ _ _ _ (by decide)).trans ((app_hi _ _ _ _ (by decide)).trans ((app_hi _ _ _ _ (by decide)).trans ((app_lo _ _ _ _ (by decide)).trans (fld_all _))))
  have h4 : fld 10 1 x = (encTB b).1 := by subst hx; exact (app_hi _ _ _ _ (by decide)).trans ((app_hi _ _ _ _ (by decide)).trans ((app_lo _ _ _ _ (by decide)).trans (fld_all _)))
  have h5 : fld 3 7 x = (encTB b).2 := by subst hx; exact (app_hi _ _ _ _ (by decide)).trans ((app_lo _ _ _ _ (by decide)).trans (fld_all _))
  have h6 : fld 0 3 x = w := by subst hx; exact (app_lo _ _ _ _ (by decide)).trans (fld_all _)
  simp [decodeM, h0, h1, h2, h3, h4, h5, h6, checked, firstBad, fMF, encTA_ok, encTA_of, encTB_ok, encTB_of]

theorem mma_f32_enc (rep : BitVec 8) (acc : BitVec 2) (a b : TOp) (w : BitVec 3) :
    decodeM 0x008 (eMF rep acc (encTA a) (encTB b) w) = .ok (.mma .f32 rep acc a b w) := by
  obtain ⟨x, hx⟩ : ∃ x : BitVec 26, x = (eMF rep acc (encTA a) (encTB b) w) := ⟨_, rfl⟩
  rw [← hx]
  have h0 : fld 18 8 x = rep := by subst hx; exact (app_hi _ _ _ _ (by decide)).trans ((app_hi _ _ _ _ (by decide)).trans ((app_hi _ _ _ _ (by decide)).trans ((app_hi _ _ _ _ (by decide)).trans ((app_hi _ _ _ _ (by decide)).trans ((app_hi _ _ _ _ (by decide)).trans (fld_all _))))))
  have h1 : fld 16 2 x = acc := by subst hx; exact (app_hi _ _ _ _ (by decide)).trans ((app_hi _ _ _ _ (by decide)).trans ((app_hi _ _ _ _ (by decide)).trans ((app_hi _ _ _ _ (by decide)).trans ((app_hi _ _ _ _ (by decide)).trans ((app_lo _ _ _ _ (by decide)).trans (fld_all _))))))
  have h2 : fld 15 1 x = (encTA a).1 := by subst hx; exact (app_hi _ _ _ _ (by decide)).trans ((app_hi _ _ _ _ (by decide)).trans ((app_hi _ _ _ _ (by decide)).trans ((app_hi _ _ _ _ (by decide)).trans ((app_lo _ _ _ _ (by decide)).trans (fld_all _)))))
  have h3 : fld 11 4 x = (encTA a).2 := by subst hx; exact (app_hi _ _ _ _ (by decide)).trans ((app_hi _ _ _ _ (by decide)).trans ((app_hi _ _ _ _ (by decide)).trans ((app_lo _ _ _ _ (by decide)).trans (fld_all _))))
  have h4 : fld 10 1 x = (encTB b).1 := by subst hx; exact (app_hi _ _ _ _ (by decide)).trans ((app_hi _ _ _ _ (by decide)).trans ((app_lo _ _ _ _ (by decide)).trans (fld_all _)))
  have h5 : fld 3 7 x = (encTB b).2 := by subst hx; exact (app_hi _ _ _ _ (by decide)).trans ((app_lo _ _ _ _ (by decide)).trans (fld_all _))
  have h6 : fld 0 3 x = w := by subst hx; exact (app_lo _ _ _ _ (by decide)).trans (fld_all _)
  simp [decodeM, h0, h1, h2, h3, h4, h5, h6, checked, firstBad, fMF, encTA_ok, encTA_of, encTB_ok, encTB_of]

theorem mma_f64_enc (rep : BitVec 8) (acc : BitVec 2) (a b : TOp) (w : BitVec 3) :
    decodeM 0x009 (eMF rep acc (encTA a) (encTB b) w) = .ok (.mma .f64 rep acc a b w) := by
  obtain ⟨x, hx⟩ : ∃ x : BitVec 26, x = (eMF rep acc (encTA a) (encTB b) w) := ⟨_, rfl⟩
  rw [← hx]
  have h0 : fld 18 8 x = rep := by subst hx; exact (app_hi _ _ _ _ (by decide)).trans ((app_hi _ _ _ _ (by decide)).trans ((app_hi _ _ _ _ (by decide)).trans ((app_hi _ _ _ _ (by decide)).trans ((app_hi _ _ _ _ (by decide)).trans ((app_hi _ _ _ _ (by decide)).trans (fld_all _))))))
  have h1 : fld 16 2 x = acc := by subst hx; exact (app_hi _ _ _ _ (by decide)).trans ((app_hi _ _ _ _ (by decide)).trans ((app_hi _ _ _ _ (by decide)).trans ((app_hi _ _ _ _ (by decide)).trans ((app_hi _ _ _ _ (by decide)).trans ((app_lo _ _ _ _ (by decide)).trans (fld_all _))))))
  have h2 : fld 15 1 x = (encTA a).1 := by subst hx; exact (app_hi _ _ _ _ (by decide)).trans ((app_hi _ _ _ _ (by decide)).trans ((app_hi _ _ _ _ (by decide)).trans ((app_hi _ _ _ _ (by decide)).trans ((app_lo _ _ _ _ (by decide)).trans (fld_all _)))))
  have h3 : fld 11 4 x = (encTA a).2 := by subst hx; exact (app_hi _ _ _ _ (by decide)).trans ((app_hi _ _ _ _ (by decide)).trans ((app_hi _ _ _ _ (by decide)).trans ((app_lo _ _ _ _ (by decide)).trans (fld_all _))))
  have h4 : fld 10 1 x = (encTB b).1 := by subst hx; exact (app_hi _ _ _ _ (by decide)).trans ((app_hi _ _ _ _ (by decide)).trans ((app_lo _ _ _ _ (by decide)).trans (fld_all _)))
  have h5 : fld 3 7 x = (encTB b).2 := by subst hx; exact (app_hi _ _ _ _ (by decide)).trans ((app_lo _ _ _ _ (by decide)).trans (fld_all _))
  have h6 : fld 0 3 x = w := by subst hx; exact (app_lo _ _ _ _ (by decide)).trans (fld_all _)
  simp [decodeM, h0, h1, h2, h3, h4, h5, h6, checked, firstBad, fMF, encTA_ok, encTA_of, encTB_ok, encTB_of]

theorem mmaq_blk_enc (rep : BitVec 8) (acc : BitVec 2) (a : TOp) (b : BitVec 7) (w : BitVec 3) (h : decide (b.toNat ≤ 123) = true) :
    decodeM 0x010 (eMF rep acc (encTA a) (encWB (.blk b)) w) = .ok (.mmaq rep acc a (.blk b) w) := by
  obtain ⟨x, hx⟩ : ∃ x : BitVec 26, x = (eMF rep acc (encTA a) (encWB (.blk b)) w) := ⟨_, rfl⟩
  rw [← hx]
  have h0 : fld 18 8 x = rep := by subst hx; exact (app_hi _ _ _ _ (by decide)).trans ((app_hi _ _ _ _ (by decide)).trans ((app_hi _ _ _ _ (by decide)).trans ((app_hi _ _ _ _ (by decide)).trans ((app_hi _ _ _ _ (by decide)).trans ((app_hi _ _ _ _ (by decide)).trans (fld_all _))))))
  have h1 : fld 16 2 x = acc := by subst hx; exact (app_hi _ _ _ _ (by decide)).trans ((app_hi _ _ _ _ (by decide)).trans ((app_hi _ _ _ _ (by decide)).trans ((app_hi _ _ _ _ (by decide)).trans ((app_hi _ _ _ _ (by decide)).trans ((app_lo _ _ _ _ (by decide)).trans (fld_all _))))))
  have h2 : fld 15 1 x = (encTA a).1 := by subst hx; exact (app_hi _ _ _ _ (by decide)).trans ((app_hi _ _ _ _ (by decide)).trans ((app_hi _ _ _ _ (by decide)).trans ((app_hi _ _ _ _ (by decide)).trans ((app_lo _ _ _ _ (by decide)).trans (fld_all _)))))
  have h3 : fld 11 4 x = (encTA a).2 := by subst hx; exact (app_hi _ _ _ _ (by decide)).trans ((app_hi _ _ _ _ (by decide)).trans ((app_hi _ _ _ _ (by decide)).trans ((app_lo _ _ _ _ (by decide)).trans (fld_all _))))
  have h4 : fld 10 1 x = 0#1 := by subst hx; exact (app_hi _ _ _ _ (by decide)).trans ((app_hi _ _ _ _ (by decide)).trans ((app_lo _ _ _ _ (by decide)).trans (fld_all _)))
  have h5 : fld 3 7 x = b := by subst hx; exact (app_hi _ _ _ _ (by decide)).trans ((app_lo _ _ _ _ (by decide)).trans (fld_all _))
  have h6 : fld 0 3 x = w := by subst hx; exact (app_lo _ _ _ _ (by decide)).trans (fld_all _)
  simp [decodeM, h0, h1, h2, h3, h4, h5, h6, checked, firstBad, fMF, encTA_ok, encTA_of, of_decide_eq_true h]

theorem mmaq_ma_enc (rep : BitVec 8) (acc : BitVec 2) (a : TOp) (b : BitVec 2) (w : BitVec 3) :
    decodeM 0x010 (eMF rep acc (encTA a) (encWB (.ma b)) w) = .ok (.mmaq rep acc a (.ma b) w) := by
  obtain ⟨x, hx⟩ : ∃ x : BitVec 26, x = (eMF rep acc (encTA a) (encWB (.ma b)) w) := ⟨_, rfl⟩
  rw [← hx]
  have h0 : fld 18 8 x = rep := by subst hx; exact (app_hi _ _ _ _ (by decide)).trans ((app_hi _ _ _ _ (by decide)).trans ((app_hi _ _ _ _ (by decide)).trans ((app_hi _ _ _ _ (by decide)).trans ((app_hi _ _ _ _ (by decide)).trans ((app_hi _ _ _ _ (by decide)).trans (fld_all _))))))
  have h1 : fld 16 2 x = acc := by subst hx; exact (app_hi _ _ _ _ (by decide)).trans ((app_hi _ _ _ _ (by decide)).trans ((app_hi _ _ _ _ (by decide)).trans ((app_hi _ _ _ _ (by decide)).trans ((app_hi _ _ _ _ (by decide)).trans ((app_lo _ _ _ _ (by decide)).trans (fld_all _))))))
  have h2 : fld 15 1 x = (encTA a).1 := by subst hx; exact (app_hi _ _ _ _ (by decide)).trans ((app_hi _ _ _ _ (by decide)).trans ((app_hi _ _ _ _ (by decide)).trans ((app_hi _ _ _ _ (by decide)).trans ((app_lo _ _ _ _ (by decide)).trans (fld_all _)))))
  have h3 : fld 11 4 x = (encTA a).2 := by subst hx; exact (app_hi _ _ _ _ (by decide)).trans ((app_hi _ _ _ _ (by decide)).trans ((app_hi _ _ _ _ (by decide)).trans ((app_lo _ _ _ _ (by decide)).trans (fld_all _))))
  have h4 : fld 10 1 x = 1#1 := by subst hx; exact (app_hi _ _ _ _ (by decide)).trans ((app_hi _ _ _ _ (by decide)).trans ((app_lo _ _ _ _ (by decide)).trans (fld_all _)))
  have h5 : fld 0 3 x = w := by subst hx; exact (app_lo _ _ _ _ (by decide)).trans (fld_all _)
  have h6 : fld 3 2 x = b := by subst hx; exact (app_hi _ _ _ _ (by decide)).trans ((app_lo _ _ _ _ (by decide)).trans ((app_lo _ _ _ _ (by decide)).trans (fld_all _)))
  have h7 : fld 5 5 x = 0#5 := by subst hx; exact (app_hi _ _ _ _ (by decide)).trans ((app_lo _ _ _ _ (by decide)).trans ((app_hi _ _ _ _ (by decide)).trans (fld_all _)))
  simp [decodeM, h0, h1, h2, h3, h4, h5, h6, h7, checked, firstBad, fMF, encTA_ok, encTA_of]

theorem msca_enc (rep : BitVec 8) (acc : BitVec 2) (hi : Bool) (v : BitVec 5) (w : BitVec 3) :
    decodeM 0x018 (eMF rep acc (0, 0#3 ++ bit1 hi) (0, 0#2 ++ v) w) = .ok (.msca rep acc hi v w) := by
  obtain ⟨x, hx⟩ : ∃ x : BitVec 26, x = (eMF rep acc (0, 0#3 ++ bit1 hi) (0, 0#2 ++ v) w) := ⟨_, rfl⟩
  rw [← hx]
  have h0 : fld 18 8 x = rep := by subst hx; exact (app_hi _ _ _ _ (by decide)).trans ((app_hi _ _ _ _ (by decide)).trans ((app_hi _ _ _ _ (by decide)).trans ((app_hi _ _ _ _ (by decide)).trans ((app_hi _ _ _ _ (by decide)).trans ((app_hi _ _ _ _ (by decide)).trans (fld_all _))))))
  have h1 : fld 16 2 x = acc := by subst hx; exact (app_hi _ _ _ _ (by decide)).trans ((app_hi _ _ _ _ (by decide)).trans ((app_hi _ _ _ _ (by decide)).trans ((app_hi _ _ _ _ (by decide)).trans ((app_hi _ _ _ _ (by decide)).trans ((app_lo _ _ _ _ (by decide)).trans (fld_all _))))))
  have h2 : fld 15 1 x = 0#1 := by subst hx; exact (app_hi _ _ _ _ (by decide)).trans ((app_hi _ _ _ _ (by decide)).trans ((app_hi _ _ _ _ (by decide)).trans ((app_hi _ _ _ _ (by decide)).trans ((app_lo _ _ _ _ (by decide)).trans (fld_all _)))))
  have h3 : fld 10 1 x = 0#1 := by subst hx; exact (app_hi _ _ _ _ (by decide)).trans ((app_hi _ _ _ _ (by decide)).trans ((app_lo _ _ _ _ (by decide)).trans (fld_all _)))
  have h4 : fld 0 3 x = w := by subst hx; exact (app_lo _ _ _ _ (by decide)).trans (fld_all _)
  have h5 : fld 11 1 x = bit1 hi := by subst hx; exact (app_hi _ _ _ _ (by decide)).trans ((app_hi _ _ _ _ (by decide)).trans ((app_hi _ _ _ _ (by decide)).trans ((app_lo _ _ _ _ (by decide)).trans ((app_lo _ _ _ _ (by decide)).trans (fld_all _)))))
  have h6 : fld 3 5 x = v := by subst hx; exact (app_hi _ _ _ _ (by decide)).trans ((app_lo _ _ _ _ (by decide)).trans ((app_lo _ _ _ _ (by decide)).trans (fld_all _)))
  have h7 : fld 12 3 x = 0#3 := by subst hx; exact (app_hi _ _ _ _ (by decide)).trans ((app_hi _ _ _ _ (by decide)).trans ((app_hi _ _ _ _ (by decide)).trans ((app_lo _ _ _ _ (by decide)).trans ((app_hi _ _ _ _ (by decide)).trans (fld_all _)))))
  have h8 : fld 8 2 x = 0#2 := by subst hx; exact (app_hi _ _ _ _ (by decide)).trans ((app_lo _ _ _ _ (by decide)).trans ((app_hi _ _ _ _ (by decide)).trans (fld_all _)))
  simp [decodeM, h0, h1, h2, h3, h4, h5, h6, h7, h8, checked, firstBad, fMF, bit1_eq]

theorem mzero_enc (rep : BitVec 8) (acc : BitVec 2) (w : BitVec 3) :
    decodeM 0x019 (eMF rep acc (0, 0) (0, 0) w) = .ok (.mzero rep acc w) := by
  obtain ⟨x, hx⟩ : ∃ x : BitVec 26, x = (eMF rep acc (0, 0) (0, 0) w) := ⟨_, rfl⟩
  rw [← hx]
  have h0 : fld 18 8 x = rep := by subst hx; exact (app_hi _ _ _ _ (by decide)).trans ((app_hi _ _ _ _ (by decide)).trans ((app_hi _ _ _ _ (by decide)).trans ((app_hi _ _ _ _ (by decide)).trans ((app_hi _ _ _ _ (by decide)).trans ((app_hi _ _ _ _ (by decide)).trans (fld_all _))))))
  have h1 : fld 16 2 x = acc := by subst hx; exact (app_hi _ _ _ _ (by decide)).trans ((app_hi _ _ _ _ (by decide)).trans ((app_hi _ _ _ _ (by decide)).trans ((app_hi _ _ _ _ (by decide)).trans ((app_hi _ _ _ _ (by decide)).trans ((app_lo _ _ _ _ (by decide)).trans (fld_all _))))))
  have h2 : fld 15 1 x = 0#1 := by subst hx; exact (app_hi _ _ _ _ (by decide)).trans ((app_hi _ _ _ _ (by decide)).trans ((app_hi _ _ _ _ (by decide)).trans ((app_hi _ _ _ _ (by decide)).trans ((app_lo _ _ _ _ (by decide)).trans (fld_all _)))))
  have h3 : fld 11 4 x = 0#4 := by subst hx; exact (app_hi _ _ _ _ (by decide)).trans ((app_hi _ _ _ _ (by decide)).trans ((app_hi _ _ _ _ (by decide)).trans ((app_lo _ _ _ _ (by decide)).trans (fld_all _))))
  have h4 : fld 10 1 x = 0#1 := by subst hx; exact (app_hi _ _ _ _ (by decide)).trans ((app_hi _ _ _ _ (by decide)).trans ((app_lo _ _ _ _ (by decide)).trans (fld_all _)))
  have h5 : fld 3 7 x = 0#7 := by subst hx; exact (app_hi _ _ _ _ (by decide)).trans ((app_lo _ _ _ _ (by decide)).trans (fld_all _))
  have h6 : fld 0 3 x = w := by subst hx; exact (app_lo _ _ _ _ (by decide)).trans (fld_all _)
  simp [decodeM, h0, h1, h2, h3, h4, h5, h6, checked, firstBad, fMF]

theorem mret_enc (rep : BitVec 8) (acc : BitVec 2) (a : TOp) (part : Bool) (w : BitVec 3) (h : evenTile a = true) :
    decodeM 0x020 (eMF rep acc (encTA a) (0, 0#6 ++ bit1 part) w) = .ok (.mret rep acc a part w) := by
  obtain ⟨x, hx⟩ : ∃ x : BitVec 26, x = (eMF rep acc (encTA a) (0, 0#6 ++ bit1 part) w) := ⟨_, rfl⟩
  rw [← hx]
  have h0 : fld 18 8 x = rep := by subst hx; exact (app_hi _ _ _ _ (by decide)).trans ((app_hi _ _ _ _ (by decide)).trans ((app_hi _ _ _ _ (by decide)).trans ((app_hi _ _ _ _ (by decide)).trans ((app_hi _ _ _ _ (by decide)).trans ((app_hi _ _ _ _ (by decide)).trans (fld_all _))))))
  have h1 : fld 16 2 x = acc := by subst hx; exact (app_hi _ _ _ _ (by decide)).trans ((app_hi _ _ _ _ (by decide)).trans ((app_hi _ _ _ _ (by decide)).trans ((app_hi _ _ _ _ (by decide)).trans ((app_hi _ _ _ _ (by decide)).trans ((app_lo _ _ _ _ (by decide)).trans (fld_all _))))))
  have h2 : fld 15 1 x = (encTA a).1 := by subst hx; exact (app_hi _ _ _ _ (by decide)).trans ((app_hi _ _ _ _ (by decide)).trans ((app_hi _ _ _ _ (by decide)).trans ((app_hi _ _ _ _ (by decide)).trans ((app_lo _ _ _ _ (by decide)).trans (fld_all _)))))
  have h3 : fld 11 4 x = (encTA a).2 := by subst hx; exact (app_hi _ _ _ _ (by decide)).trans ((app_hi _ _ _ _ (by decide)).trans ((app_hi _ _ _ _ (by decide)).trans ((app_lo _ _ _ _ (by decide)).trans (fld_all _))))
  have h4 : fld 10 1 x = 0#1 := by subst hx; exact (app_hi _ _ _ _ (by decide)).trans ((app_hi _ _ _ _ (by decide)).trans ((app_lo _ _ _ _ (by decide)).trans (fld_all _)))
  have h5 : fld 0 3 x = w := by subst hx; exact (app_lo _ _ _ _ (by decide)).trans (fld_all _)
  have h6 : fld 3 1 x = bit1 part := by subst hx; exact (app_hi _ _ _ _ (by decide)).trans ((app_lo _ _ _ _ (by decide)).trans ((app_lo _ _ _ _ (by decide)).trans (fld_all _)))
  have h7 : fld 4 6 x = 0#6 := by subst hx; exact (app_hi _ _ _ _ (by decide)).trans ((app_lo _ _ _ _ (by decide)).trans ((app_hi _ _ _ _ (by decide)).trans (fld_all _)))
  simp [decodeM, h0, h1, h2, h3, h4, h5, h6, h7, checked, firstBad, fMF, bit1_eq, encTA_ok, encTA_of, h]

theorem mrets_enc (rep : BitVec 8) (acc : BitVec 2) (part : Bool) (b : SSrc) (w : BitVec 3) :
    decodeM 0x021 (eMF rep acc (0, 0#3 ++ bit1 part) (0, (encS b).2 ++ (encS b).1) w) = .ok (.mrets rep acc part b w) := by
  obtain ⟨x, hx⟩ : ∃ x : BitVec 26, x = (eMF rep acc (0, 0#3 ++ bit1 part) (0, (encS b).2 ++ (encS b).1) w) := ⟨_, rfl⟩
  rw [← hx]
  have h0 : fld 18 8 x = rep := by subst hx; exact (app_hi _ _ _ _ (by decide)).trans ((app_hi _ _ _ _ (by decide)).trans ((app_hi _ _ _ _ (by decide)).trans ((app_hi _ _ _ _ (by decide)).trans ((app_hi _ _ _ _ (by decide)).trans ((app_hi _ _ _ _ (by decide)).trans (fld_all _))))))
  have h1 : fld 16 2 x = acc := by subst hx; exact (app_hi _ _ _ _ (by decide)).trans ((app_hi _ _ _ _ (by decide)).trans ((app_hi _ _ _ _ (by decide)).trans ((app_hi _ _ _ _ (by decide)).trans ((app_hi _ _ _ _ (by decide)).trans ((app_lo _ _ _ _ (by decide)).trans (fld_all _))))))
  have h2 : fld 15 1 x = 0#1 := by subst hx; exact (app_hi _ _ _ _ (by decide)).trans ((app_hi _ _ _ _ (by decide)).trans ((app_hi _ _ _ _ (by decide)).trans ((app_hi _ _ _ _ (by decide)).trans ((app_lo _ _ _ _ (by decide)).trans (fld_all _)))))
  have h3 : fld 10 1 x = 0#1 := by subst hx; exact (app_hi _ _ _ _ (by decide)).trans ((app_hi _ _ _ _ (by decide)).trans ((app_lo _ _ _ _ (by decide)).trans (fld_all _)))
  have h4 : fld 0 3 x = w := by subst hx; exact (app_lo _ _ _ _ (by decide)).trans (fld_all _)
  have h5 : fld 11 1 x = bit1 part := by subst hx; exact (app_hi _ _ _ _ (by decide)).trans ((app_hi _ _ _ _ (by decide)).trans ((app_hi _ _ _ _ (by decide)).trans ((app_lo _ _ _ _ (by decide)).trans ((app_lo _ _ _ _ (by decide)).trans (fld_all _)))))
  have h6 : fld 12 3 x = 0#3 := by subst hx; exact (app_hi _ _ _ _ (by decide)).trans ((app_hi _ _ _ _ (by decide)).trans ((app_hi _ _ _ _ (by decide)).trans ((app_lo _ _ _ _ (by decide)).trans ((app_hi _ _ _ _ (by decide)).trans (fld_all _)))))
  have h7 : fld 3 6 x = (encS b).1 := by subst hx; exact (app_hi _ _ _ _ (by decide)).trans ((app_lo _ _ _ _ (by decide)).trans ((app_lo _ _ _ _ (by decide)).trans (fld_all _)))
  have h8 : fld 9 1 x = (encS b).2 := by subst hx; exact (app_hi _ _ _ _ (by decide)).trans ((app_lo _ _ _ _ (by decide)).trans ((app_hi _ _ _ _ (by decide)).trans (fld_all _)))
  simp [decodeM, h0, h1, h2, h3, h4, h5, h6, h7, h8, checked, firstBad, fMF, bit1_eq, encS_ok, encS_of]

theorem mcvt_bf16_rne_enc (rep : BitVec 8) (acc : BitVec 2) (a : TOp) (half : Bool) (w : BitVec 3) (h : half = false) :
    decodeM 0x28 (eMF rep acc (encTA a) (0, 0#6 ++ bit1 half) w) = .ok (.mcvt .bf16 .rne rep acc a half w) := by
  obtain ⟨x, hx⟩ : ∃ x : BitVec 26, x = (eMF rep acc (encTA a) (0, 0#6 ++ bit1 half) w) := ⟨_, rfl⟩
  rw [← hx]
  have h0 : fld 18 8 x = rep := by subst hx; exact (app_hi _ _ _ _ (by decide)).trans ((app_hi _ _ _ _ (by decide)).trans ((app_hi _ _ _ _ (by decide)).trans ((app_hi _ _ _ _ (by decide)).trans ((app_hi _ _ _ _ (by decide)).trans ((app_hi _ _ _ _ (by decide)).trans (fld_all _))))))
  have h1 : fld 16 2 x = acc := by subst hx; exact (app_hi _ _ _ _ (by decide)).trans ((app_hi _ _ _ _ (by decide)).trans ((app_hi _ _ _ _ (by decide)).trans ((app_hi _ _ _ _ (by decide)).trans ((app_hi _ _ _ _ (by decide)).trans ((app_lo _ _ _ _ (by decide)).trans (fld_all _))))))
  have h2 : fld 15 1 x = (encTA a).1 := by subst hx; exact (app_hi _ _ _ _ (by decide)).trans ((app_hi _ _ _ _ (by decide)).trans ((app_hi _ _ _ _ (by decide)).trans ((app_hi _ _ _ _ (by decide)).trans ((app_lo _ _ _ _ (by decide)).trans (fld_all _)))))
  have h3 : fld 11 4 x = (encTA a).2 := by subst hx; exact (app_hi _ _ _ _ (by decide)).trans ((app_hi _ _ _ _ (by decide)).trans ((app_hi _ _ _ _ (by decide)).trans ((app_lo _ _ _ _ (by decide)).trans (fld_all _))))
  have h4 : fld 10 1 x = 0#1 := by subst hx; exact (app_hi _ _ _ _ (by decide)).trans ((app_hi _ _ _ _ (by decide)).trans ((app_lo _ _ _ _ (by decide)).trans (fld_all _)))
  have h5 : fld 0 3 x = w := by subst hx; exact (app_lo _ _ _ _ (by decide)).trans (fld_all _)
  have h6 : fld 3 1 x = bit1 half := by subst hx; exact (app_hi _ _ _ _ (by decide)).trans ((app_lo _ _ _ _ (by decide)).trans ((app_lo _ _ _ _ (by decide)).trans (fld_all _)))
  have h7 : fld 4 6 x = 0#6 := by subst hx; exact (app_hi _ _ _ _ (by decide)).trans ((app_lo _ _ _ _ (by decide)).trans ((app_hi _ _ _ _ (by decide)).trans (fld_all _)))
  simp [decodeM, h0, h1, h2, h3, h4, h5, h6, h7, checked, firstBad, fMF, rm5Of, bit1_eq, encTA_ok, encTA_of, h, show (bit1 false == 0#1) = true from rfl]

theorem mcvt_bf16_rz_enc (rep : BitVec 8) (acc : BitVec 2) (a : TOp) (half : Bool) (w : BitVec 3) (h : half = false) :
    decodeM 0x29 (eMF rep acc (encTA a) (0, 0#6 ++ bit1 half) w) = .ok (.mcvt .bf16 .rz rep acc a half w) := by
  obtain ⟨x, hx⟩ : ∃ x : BitVec 26, x = (eMF rep acc (encTA a) (0, 0#6 ++ bit1 half) w) := ⟨_, rfl⟩
  rw [← hx]
  have h0 : fld 18 8 x = rep := by subst hx; exact (app_hi _ _ _ _ (by decide)).trans ((app_hi _ _ _ _ (by decide)).trans ((app_hi _ _ _ _ (by decide)).trans ((app_hi _ _ _ _ (by decide)).trans ((app_hi _ _ _ _ (by decide)).trans ((app_hi _ _ _ _ (by decide)).trans (fld_all _))))))
  have h1 : fld 16 2 x = acc := by subst hx; exact (app_hi _ _ _ _ (by decide)).trans ((app_hi _ _ _ _ (by decide)).trans ((app_hi _ _ _ _ (by decide)).trans ((app_hi _ _ _ _ (by decide)).trans ((app_hi _ _ _ _ (by decide)).trans ((app_lo _ _ _ _ (by decide)).trans (fld_all _))))))
  have h2 : fld 15 1 x = (encTA a).1 := by subst hx; exact (app_hi _ _ _ _ (by decide)).trans ((app_hi _ _ _ _ (by decide)).trans ((app_hi _ _ _ _ (by decide)).trans ((app_hi _ _ _ _ (by decide)).trans ((app_lo _ _ _ _ (by decide)).trans (fld_all _)))))
  have h3 : fld 11 4 x = (encTA a).2 := by subst hx; exact (app_hi _ _ _ _ (by decide)).trans ((app_hi _ _ _ _ (by decide)).trans ((app_hi _ _ _ _ (by decide)).trans ((app_lo _ _ _ _ (by decide)).trans (fld_all _))))
  have h4 : fld 10 1 x = 0#1 := by subst hx; exact (app_hi _ _ _ _ (by decide)).trans ((app_hi _ _ _ _ (by decide)).trans ((app_lo _ _ _ _ (by decide)).trans (fld_all _)))
  have h5 : fld 0 3 x = w := by subst hx; exact (app_lo _ _ _ _ (by decide)).trans (fld_all _)
  have h6 : fld 3 1 x = bit1 half := by subst hx; exact (app_hi _ _ _ _ (by decide)).trans ((app_lo _ _ _ _ (by decide)).trans ((app_lo _ _ _ _ (by decide)).trans (fld_all _)))
  have h7 : fld 4 6 x = 0#6 := by subst hx; exact (app_hi _ _ _ _ (by decide)).trans ((app_lo _ _ _ _ (by decide)).trans ((app_hi _ _ _ _ (by decide)).trans (fld_all _)))
  simp [decodeM, h0, h1, h2, h3, h4, h5, h6, h7, checked, firstBad, fMF, rm5Of, bit1_eq, encTA_ok, encTA_of, h, show (bit1 false == 0#1) = true from rfl]

theorem mcvt_bf16_ru_enc (rep : BitVec 8) (acc : BitVec 2) (a : TOp) (half : Bool) (w : BitVec 3) (h : half = false) :
    decodeM 0x2a (eMF rep acc (encTA a) (0, 0#6 ++ bit1 half) w) = .ok (.mcvt .bf16 .ru rep acc a half w) := by
  obtain ⟨x, hx⟩ : ∃ x : BitVec 26, x = (eMF rep acc (encTA a) (0, 0#6 ++ bit1 half) w) := ⟨_, rfl⟩
  rw [← hx]
  have h0 : fld 18 8 x = rep := by subst hx; exact (app_hi _ _ _ _ (by decide)).trans ((app_hi _ _ _ _ (by decide)).trans ((app_hi _ _ _ _ (by decide)).trans ((app_hi _ _ _ _ (by decide)).trans ((app_hi _ _ _ _ (by decide)).trans ((app_hi _ _ _ _ (by decide)).trans (fld_all _))))))
  have h1 : fld 16 2 x = acc := by subst hx; exact (app_hi _ _ _ _ (by decide)).trans ((app_hi _ _ _ _ (by decide)).trans ((app_hi _ _ _ _ (by decide)).trans ((app_hi _ _ _ _ (by decide)).trans ((app_hi _ _ _ _ (by decide)).trans ((app_lo _ _ _ _ (by decide)).trans (fld_all _))))))
  have h2 : fld 15 1 x = (encTA a).1 := by subst hx; exact (app_hi _ _ _ _ (by decide)).trans ((app_hi _ _ _ _ (by decide)).trans ((app_hi _ _ _ _ (by decide)).trans ((app_hi _ _ _ _ (by decide)).trans ((app_lo _ _ _ _ (by decide)).trans (fld_all _)))))
  have h3 : fld 11 4 x = (encTA a).2 := by subst hx; exact (app_hi _ _ _ _ (by decide)).trans ((app_hi _ _ _ _ (by decide)).trans ((app_hi _ _ _ _ (by decide)).trans ((app_lo _ _ _ _ (by decide)).trans (fld_all _))))
  have h4 : fld 10 1 x = 0#1 := by subst hx; exact (app_hi _ _ _ _ (by decide)).trans ((app_hi _ _ _ _ (by decide)).trans ((app_lo _ _ _ _ (by decide)).trans (fld_all _)))
  have h5 : fld 0 3 x = w := by subst hx; exact (app_lo _ _ _ _ (by decide)).trans (fld_all _)
  have h6 : fld 3 1 x = bit1 half := by subst hx; exact (app_hi _ _ _ _ (by decide)).trans ((app_lo _ _ _ _ (by decide)).trans ((app_lo _ _ _ _ (by decide)).trans (fld_all _)))
  have h7 : fld 4 6 x = 0#6 := by subst hx; exact (app_hi _ _ _ _ (by decide)).trans ((app_lo _ _ _ _ (by decide)).trans ((app_hi _ _ _ _ (by decide)).trans (fld_all _)))
  simp [decodeM, h0, h1, h2, h3, h4, h5, h6, h7, checked, firstBad, fMF, rm5Of, bit1_eq, encTA_ok, encTA_of, h, show (bit1 false == 0#1) = true from rfl]

theorem mcvt_bf16_rd_enc (rep : BitVec 8) (acc : BitVec 2) (a : TOp) (half : Bool) (w : BitVec 3) (h : half = false) :
    decodeM 0x2b (eMF rep acc (encTA a) (0, 0#6 ++ bit1 half) w) = .ok (.mcvt .bf16 .rd rep acc a half w) := by
  obtain ⟨x, hx⟩ : ∃ x : BitVec 26, x = (eMF rep acc (encTA a) (0, 0#6 ++ bit1 half) w) := ⟨_, rfl⟩
  rw [← hx]
  have h0 : fld 18 8 x = rep := by subst hx; exact (app_hi _ _ _ _ (by decide)).trans ((app_hi _ _ _ _ (by decide)).trans ((app_hi _ _ _ _ (by decide)).trans ((app_hi _ _ _ _ (by decide)).trans ((app_hi _ _ _ _ (by decide)).trans ((app_hi _ _ _ _ (by decide)).trans (fld_all _))))))
  have h1 : fld 16 2 x = acc := by subst hx; exact (app_hi _ _ _ _ (by decide)).trans ((app_hi _ _ _ _ (by decide)).trans ((app_hi _ _ _ _ (by decide)).trans ((app_hi _ _ _ _ (by decide)).trans ((app_hi _ _ _ _ (by decide)).trans ((app_lo _ _ _ _ (by decide)).trans (fld_all _))))))
  have h2 : fld 15 1 x = (encTA a).1 := by subst hx; exact (app_hi _ _ _ _ (by decide)).trans ((app_hi _ _ _ _ (by decide)).trans ((app_hi _ _ _ _ (by decide)).trans ((app_hi _ _ _ _ (by decide)).trans ((app_lo _ _ _ _ (by decide)).trans (fld_all _)))))
  have h3 : fld 11 4 x = (encTA a).2 := by subst hx; exact (app_hi _ _ _ _ (by decide)).trans ((app_hi _ _ _ _ (by decide)).trans ((app_hi _ _ _ _ (by decide)).trans ((app_lo _ _ _ _ (by decide)).trans (fld_all _))))
  have h4 : fld 10 1 x = 0#1 := by subst hx; exact (app_hi _ _ _ _ (by decide)).trans ((app_hi _ _ _ _ (by decide)).trans ((app_lo _ _ _ _ (by decide)).trans (fld_all _)))
  have h5 : fld 0 3 x = w := by subst hx; exact (app_lo _ _ _ _ (by decide)).trans (fld_all _)
  have h6 : fld 3 1 x = bit1 half := by subst hx; exact (app_hi _ _ _ _ (by decide)).trans ((app_lo _ _ _ _ (by decide)).trans ((app_lo _ _ _ _ (by decide)).trans (fld_all _)))
  have h7 : fld 4 6 x = 0#6 := by subst hx; exact (app_hi _ _ _ _ (by decide)).trans ((app_lo _ _ _ _ (by decide)).trans ((app_hi _ _ _ _ (by decide)).trans (fld_all _)))
  simp [decodeM, h0, h1, h2, h3, h4, h5, h6, h7, checked, firstBad, fMF, rm5Of, bit1_eq, encTA_ok, encTA_of, h, show (bit1 false == 0#1) = true from rfl]

theorem mcvt_bf16_rs_enc (rep : BitVec 8) (acc : BitVec 2) (a : TOp) (half : Bool) (w : BitVec 3) (h : half = false) :
    decodeM 0x2c (eMF rep acc (encTA a) (0, 0#6 ++ bit1 half) w) = .ok (.mcvt .bf16 .rs rep acc a half w) := by
  obtain ⟨x, hx⟩ : ∃ x : BitVec 26, x = (eMF rep acc (encTA a) (0, 0#6 ++ bit1 half) w) := ⟨_, rfl⟩
  rw [← hx]
  have h0 : fld 18 8 x = rep := by subst hx; exact (app_hi _ _ _ _ (by decide)).trans ((app_hi _ _ _ _ (by decide)).trans ((app_hi _ _ _ _ (by decide)).trans ((app_hi _ _ _ _ (by decide)).trans ((app_hi _ _ _ _ (by decide)).trans ((app_hi _ _ _ _ (by decide)).trans (fld_all _))))))
  have h1 : fld 16 2 x = acc := by subst hx; exact (app_hi _ _ _ _ (by decide)).trans ((app_hi _ _ _ _ (by decide)).trans ((app_hi _ _ _ _ (by decide)).trans ((app_hi _ _ _ _ (by decide)).trans ((app_hi _ _ _ _ (by decide)).trans ((app_lo _ _ _ _ (by decide)).trans (fld_all _))))))
  have h2 : fld 15 1 x = (encTA a).1 := by subst hx; exact (app_hi _ _ _ _ (by decide)).trans ((app_hi _ _ _ _ (by decide)).trans ((app_hi _ _ _ _ (by decide)).trans ((app_hi _ _ _ _ (by decide)).trans ((app_lo _ _ _ _ (by decide)).trans (fld_all _)))))
  have h3 : fld 11 4 x = (encTA a).2 := by subst hx; exact (app_hi _ _ _ _ (by decide)).trans ((app_hi _ _ _ _ (by decide)).trans ((app_hi _ _ _ _ (by decide)).trans ((app_lo _ _ _ _ (by decide)).trans (fld_all _))))
  have h4 : fld 10 1 x = 0#1 := by subst hx; exact (app_hi _ _ _ _ (by decide)).trans ((app_hi _ _ _ _ (by decide)).trans ((app_lo _ _ _ _ (by decide)).trans (fld_all _)))
  have h5 : fld 0 3 x = w := by subst hx; exact (app_lo _ _ _ _ (by decide)).trans (fld_all _)
  have h6 : fld 3 1 x = bit1 half := by subst hx; exact (app_hi _ _ _ _ (by decide)).trans ((app_lo _ _ _ _ (by decide)).trans ((app_lo _ _ _ _ (by decide)).trans (fld_all _)))
  have h7 : fld 4 6 x = 0#6 := by subst hx; exact (app_hi _ _ _ _ (by decide)).trans ((app_lo _ _ _ _ (by decide)).trans ((app_hi _ _ _ _ (by decide)).trans (fld_all _)))
  simp [decodeM, h0, h1, h2, h3, h4, h5, h6, h7, checked, firstBad, fMF, rm5Of, bit1_eq, encTA_ok, encTA_of, h, show (bit1 false == 0#1) = true from rfl]

theorem mcvt_e4m3_rne_enc (rep : BitVec 8) (acc : BitVec 2) (a : TOp) (half : Bool) (w : BitVec 3) :
    decodeM 0x30 (eMF rep acc (encTA a) (0, 0#6 ++ bit1 half) w) = .ok (.mcvt .e4m3 .rne rep acc a half w) := by
  obtain ⟨x, hx⟩ : ∃ x : BitVec 26, x = (eMF rep acc (encTA a) (0, 0#6 ++ bit1 half) w) := ⟨_, rfl⟩
  rw [← hx]
  have h0 : fld 18 8 x = rep := by subst hx; exact (app_hi _ _ _ _ (by decide)).trans ((app_hi _ _ _ _ (by decide)).trans ((app_hi _ _ _ _ (by decide)).trans ((app_hi _ _ _ _ (by decide)).trans ((app_hi _ _ _ _ (by decide)).trans ((app_hi _ _ _ _ (by decide)).trans (fld_all _))))))
  have h1 : fld 16 2 x = acc := by subst hx; exact (app_hi _ _ _ _ (by decide)).trans ((app_hi _ _ _ _ (by decide)).trans ((app_hi _ _ _ _ (by decide)).trans ((app_hi _ _ _ _ (by decide)).trans ((app_hi _ _ _ _ (by decide)).trans ((app_lo _ _ _ _ (by decide)).trans (fld_all _))))))
  have h2 : fld 15 1 x = (encTA a).1 := by subst hx; exact (app_hi _ _ _ _ (by decide)).trans ((app_hi _ _ _ _ (by decide)).trans ((app_hi _ _ _ _ (by decide)).trans ((app_hi _ _ _ _ (by decide)).trans ((app_lo _ _ _ _ (by decide)).trans (fld_all _)))))
  have h3 : fld 11 4 x = (encTA a).2 := by subst hx; exact (app_hi _ _ _ _ (by decide)).trans ((app_hi _ _ _ _ (by decide)).trans ((app_hi _ _ _ _ (by decide)).trans ((app_lo _ _ _ _ (by decide)).trans (fld_all _))))
  have h4 : fld 10 1 x = 0#1 := by subst hx; exact (app_hi _ _ _ _ (by decide)).trans ((app_hi _ _ _ _ (by decide)).trans ((app_lo _ _ _ _ (by decide)).trans (fld_all _)))
  have h5 : fld 0 3 x = w := by subst hx; exact (app_lo _ _ _ _ (by decide)).trans (fld_all _)
  have h6 : fld 3 1 x = bit1 half := by subst hx; exact (app_hi _ _ _ _ (by decide)).trans ((app_lo _ _ _ _ (by decide)).trans ((app_lo _ _ _ _ (by decide)).trans (fld_all _)))
  have h7 : fld 4 6 x = 0#6 := by subst hx; exact (app_hi _ _ _ _ (by decide)).trans ((app_lo _ _ _ _ (by decide)).trans ((app_hi _ _ _ _ (by decide)).trans (fld_all _)))
  simp [decodeM, h0, h1, h2, h3, h4, h5, h6, h7, checked, firstBad, fMF, rm5Of, bit1_eq, encTA_ok, encTA_of]

theorem mcvt_e4m3_rz_enc (rep : BitVec 8) (acc : BitVec 2) (a : TOp) (half : Bool) (w : BitVec 3) :
    decodeM 0x31 (eMF rep acc (encTA a) (0, 0#6 ++ bit1 half) w) = .ok (.mcvt .e4m3 .rz rep acc a half w) := by
  obtain ⟨x, hx⟩ : ∃ x : BitVec 26, x = (eMF rep acc (encTA a) (0, 0#6 ++ bit1 half) w) := ⟨_, rfl⟩
  rw [← hx]
  have h0 : fld 18 8 x = rep := by subst hx; exact (app_hi _ _ _ _ (by decide)).trans ((app_hi _ _ _ _ (by decide)).trans ((app_hi _ _ _ _ (by decide)).trans ((app_hi _ _ _ _ (by decide)).trans ((app_hi _ _ _ _ (by decide)).trans ((app_hi _ _ _ _ (by decide)).trans (fld_all _))))))
  have h1 : fld 16 2 x = acc := by subst hx; exact (app_hi _ _ _ _ (by decide)).trans ((app_hi _ _ _ _ (by decide)).trans ((app_hi _ _ _ _ (by decide)).trans ((app_hi _ _ _ _ (by decide)).trans ((app_hi _ _ _ _ (by decide)).trans ((app_lo _ _ _ _ (by decide)).trans (fld_all _))))))
  have h2 : fld 15 1 x = (encTA a).1 := by subst hx; exact (app_hi _ _ _ _ (by decide)).trans ((app_hi _ _ _ _ (by decide)).trans ((app_hi _ _ _ _ (by decide)).trans ((app_hi _ _ _ _ (by decide)).trans ((app_lo _ _ _ _ (by decide)).trans (fld_all _)))))
  have h3 : fld 11 4 x = (encTA a).2 := by subst hx; exact (app_hi _ _ _ _ (by decide)).trans ((app_hi _ _ _ _ (by decide)).trans ((app_hi _ _ _ _ (by decide)).trans ((app_lo _ _ _ _ (by decide)).trans (fld_all _))))
  have h4 : fld 10 1 x = 0#1 := by subst hx; exact (app_hi _ _ _ _ (by decide)).trans ((app_hi _ _ _ _ (by decide)).trans ((app_lo _ _ _ _ (by decide)).trans (fld_all _)))
  have h5 : fld 0 3 x = w := by subst hx; exact (app_lo _ _ _ _ (by decide)).trans (fld_all _)
  have h6 : fld 3 1 x = bit1 half := by subst hx; exact (app_hi _ _ _ _ (by decide)).trans ((app_lo _ _ _ _ (by decide)).trans ((app_lo _ _ _ _ (by decide)).trans (fld_all _)))
  have h7 : fld 4 6 x = 0#6 := by subst hx; exact (app_hi _ _ _ _ (by decide)).trans ((app_lo _ _ _ _ (by decide)).trans ((app_hi _ _ _ _ (by decide)).trans (fld_all _)))
  simp [decodeM, h0, h1, h2, h3, h4, h5, h6, h7, checked, firstBad, fMF, rm5Of, bit1_eq, encTA_ok, encTA_of]

theorem mcvt_e4m3_ru_enc (rep : BitVec 8) (acc : BitVec 2) (a : TOp) (half : Bool) (w : BitVec 3) :
    decodeM 0x32 (eMF rep acc (encTA a) (0, 0#6 ++ bit1 half) w) = .ok (.mcvt .e4m3 .ru rep acc a half w) := by
  obtain ⟨x, hx⟩ : ∃ x : BitVec 26, x = (eMF rep acc (encTA a) (0, 0#6 ++ bit1 half) w) := ⟨_, rfl⟩
  rw [← hx]
  have h0 : fld 18 8 x = rep := by subst hx; exact (app_hi _ _ _ _ (by decide)).trans ((app_hi _ _ _ _ (by decide)).trans ((app_hi _ _ _ _ (by decide)).trans ((app_hi _ _ _ _ (by decide)).trans ((app_hi _ _ _ _ (by decide)).trans ((app_hi _ _ _ _ (by decide)).trans (fld_all _))))))
  have h1 : fld 16 2 x = acc := by subst hx; exact (app_hi _ _ _ _ (by decide)).trans ((app_hi _ _ _ _ (by decide)).trans ((app_hi _ _ _ _ (by decide)).trans ((app_hi _ _ _ _ (by decide)).trans ((app_hi _ _ _ _ (by decide)).trans ((app_lo _ _ _ _ (by decide)).trans (fld_all _))))))
  have h2 : fld 15 1 x = (encTA a).1 := by subst hx; exact (app_hi _ _ _ _ (by decide)).trans ((app_hi _ _ _ _ (by decide)).trans ((app_hi _ _ _ _ (by decide)).trans ((app_hi _ _ _ _ (by decide)).trans ((app_lo _ _ _ _ (by decide)).trans (fld_all _)))))
  have h3 : fld 11 4 x = (encTA a).2 := by subst hx; exact (app_hi _ _ _ _ (by decide)).trans ((app_hi _ _ _ _ (by decide)).trans ((app_hi _ _ _ _ (by decide)).trans ((app_lo _ _ _ _ (by decide)).trans (fld_all _))))
  have h4 : fld 10 1 x = 0#1 := by subst hx; exact (app_hi _ _ _ _ (by decide)).trans ((app_hi _ _ _ _ (by decide)).trans ((app_lo _ _ _ _ (by decide)).trans (fld_all _)))
  have h5 : fld 0 3 x = w := by subst hx; exact (app_lo _ _ _ _ (by decide)).trans (fld_all _)
  have h6 : fld 3 1 x = bit1 half := by subst hx; exact (app_hi _ _ _ _ (by decide)).trans ((app_lo _ _ _ _ (by decide)).trans ((app_lo _ _ _ _ (by decide)).trans (fld_all _)))
  have h7 : fld 4 6 x = 0#6 := by subst hx; exact (app_hi _ _ _ _ (by decide)).trans ((app_lo _ _ _ _ (by decide)).trans ((app_hi _ _ _ _ (by decide)).trans (fld_all _)))
  simp [decodeM, h0, h1, h2, h3, h4, h5, h6, h7, checked, firstBad, fMF, rm5Of, bit1_eq, encTA_ok, encTA_of]

theorem mcvt_e4m3_rd_enc (rep : BitVec 8) (acc : BitVec 2) (a : TOp) (half : Bool) (w : BitVec 3) :
    decodeM 0x33 (eMF rep acc (encTA a) (0, 0#6 ++ bit1 half) w) = .ok (.mcvt .e4m3 .rd rep acc a half w) := by
  obtain ⟨x, hx⟩ : ∃ x : BitVec 26, x = (eMF rep acc (encTA a) (0, 0#6 ++ bit1 half) w) := ⟨_, rfl⟩
  rw [← hx]
  have h0 : fld 18 8 x = rep := by subst hx; exact (app_hi _ _ _ _ (by decide)).trans ((app_hi _ _ _ _ (by decide)).trans ((app_hi _ _ _ _ (by decide)).trans ((app_hi _ _ _ _ (by decide)).trans ((app_hi _ _ _ _ (by decide)).trans ((app_hi _ _ _ _ (by decide)).trans (fld_all _))))))
  have h1 : fld 16 2 x = acc := by subst hx; exact (app_hi _ _ _ _ (by decide)).trans ((app_hi _ _ _ _ (by decide)).trans ((app_hi _ _ _ _ (by decide)).trans ((app_hi _ _ _ _ (by decide)).trans ((app_hi _ _ _ _ (by decide)).trans ((app_lo _ _ _ _ (by decide)).trans (fld_all _))))))
  have h2 : fld 15 1 x = (encTA a).1 := by subst hx; exact (app_hi _ _ _ _ (by decide)).trans ((app_hi _ _ _ _ (by decide)).trans ((app_hi _ _ _ _ (by decide)).trans ((app_hi _ _ _ _ (by decide)).trans ((app_lo _ _ _ _ (by decide)).trans (fld_all _)))))
  have h3 : fld 11 4 x = (encTA a).2 := by subst hx; exact (app_hi _ _ _ _ (by decide)).trans ((app_hi _ _ _ _ (by decide)).trans ((app_hi _ _ _ _ (by decide)).trans ((app_lo _ _ _ _ (by decide)).trans (fld_all _))))
  have h4 : fld 10 1 x = 0#1 := by subst hx; exact (app_hi _ _ _ _ (by decide)).trans ((app_hi _ _ _ _ (by decide)).trans ((app_lo _ _ _ _ (by decide)).trans (fld_all _)))
  have h5 : fld 0 3 x = w := by subst hx; exact (app_lo _ _ _ _ (by decide)).trans (fld_all _)
  have h6 : fld 3 1 x = bit1 half := by subst hx; exact (app_hi _ _ _ _ (by decide)).trans ((app_lo _ _ _ _ (by decide)).trans ((app_lo _ _ _ _ (by decide)).trans (fld_all _)))
  have h7 : fld 4 6 x = 0#6 := by subst hx; exact (app_hi _ _ _ _ (by decide)).trans ((app_lo _ _ _ _ (by decide)).trans ((app_hi _ _ _ _ (by decide)).trans (fld_all _)))
  simp [decodeM, h0, h1, h2, h3, h4, h5, h6, h7, checked, firstBad, fMF, rm5Of, bit1_eq, encTA_ok, encTA_of]

theorem mcvt_e4m3_rs_enc (rep : BitVec 8) (acc : BitVec 2) (a : TOp) (half : Bool) (w : BitVec 3) :
    decodeM 0x34 (eMF rep acc (encTA a) (0, 0#6 ++ bit1 half) w) = .ok (.mcvt .e4m3 .rs rep acc a half w) := by
  obtain ⟨x, hx⟩ : ∃ x : BitVec 26, x = (eMF rep acc (encTA a) (0, 0#6 ++ bit1 half) w) := ⟨_, rfl⟩
  rw [← hx]
  have h0 : fld 18 8 x = rep := by subst hx; exact (app_hi _ _ _ _ (by decide)).trans ((app_hi _ _ _ _ (by decide)).trans ((app_hi _ _ _ _ (by decide)).trans ((app_hi _ _ _ _ (by decide)).trans ((app_hi _ _ _ _ (by decide)).trans ((app_hi _ _ _ _ (by decide)).trans (fld_all _))))))
  have h1 : fld 16 2 x = acc := by subst hx; exact (app_hi _ _ _ _ (by decide)).trans ((app_hi _ _ _ _ (by decide)).trans ((app_hi _ _ _ _ (by decide)).trans ((app_hi _ _ _ _ (by decide)).trans ((app_hi _ _ _ _ (by decide)).trans ((app_lo _ _ _ _ (by decide)).trans (fld_all _))))))
  have h2 : fld 15 1 x = (encTA a).1 := by subst hx; exact (app_hi _ _ _ _ (by decide)).trans ((app_hi _ _ _ _ (by decide)).trans ((app_hi _ _ _ _ (by decide)).trans ((app_hi _ _ _ _ (by decide)).trans ((app_lo _ _ _ _ (by decide)).trans (fld_all _)))))
  have h3 : fld 11 4 x = (encTA a).2 := by subst hx; exact (app_hi _ _ _ _ (by decide)).trans ((app_hi _ _ _ _ (by decide)).trans ((app_hi _ _ _ _ (by decide)).trans ((app_lo _ _ _ _ (by decide)).trans (fld_all _))))
  have h4 : fld 10 1 x = 0#1 := by subst hx; exact (app_hi _ _ _ _ (by decide)).trans ((app_hi _ _ _ _ (by decide)).trans ((app_lo _ _ _ _ (by decide)).trans (fld_all _)))
  have h5 : fld 0 3 x = w := by subst hx; exact (app_lo _ _ _ _ (by decide)).trans (fld_all _)
  have h6 : fld 3 1 x = bit1 half := by subst hx; exact (app_hi _ _ _ _ (by decide)).trans ((app_lo _ _ _ _ (by decide)).trans ((app_lo _ _ _ _ (by decide)).trans (fld_all _)))
  have h7 : fld 4 6 x = 0#6 := by subst hx; exact (app_hi _ _ _ _ (by decide)).trans ((app_lo _ _ _ _ (by decide)).trans ((app_hi _ _ _ _ (by decide)).trans (fld_all _)))
  simp [decodeM, h0, h1, h2, h3, h4, h5, h6, h7, checked, firstBad, fMF, rm5Of, bit1_eq, encTA_ok, encTA_of]

theorem mcvt_e5m2_rne_enc (rep : BitVec 8) (acc : BitVec 2) (a : TOp) (half : Bool) (w : BitVec 3) :
    decodeM 0x38 (eMF rep acc (encTA a) (0, 0#6 ++ bit1 half) w) = .ok (.mcvt .e5m2 .rne rep acc a half w) := by
  obtain ⟨x, hx⟩ : ∃ x : BitVec 26, x = (eMF rep acc (encTA a) (0, 0#6 ++ bit1 half) w) := ⟨_, rfl⟩
  rw [← hx]
  have h0 : fld 18 8 x = rep := by subst hx; exact (app_hi _ _ _ _ (by decide)).trans ((app_hi _ _ _ _ (by decide)).trans ((app_hi _ _ _ _ (by decide)).trans ((app_hi _ _ _ _ (by decide)).trans ((app_hi _ _ _ _ (by decide)).trans ((app_hi _ _ _ _ (by decide)).trans (fld_all _))))))
  have h1 : fld 16 2 x = acc := by subst hx; exact (app_hi _ _ _ _ (by decide)).trans ((app_hi _ _ _ _ (by decide)).trans ((app_hi _ _ _ _ (by decide)).trans ((app_hi _ _ _ _ (by decide)).trans ((app_hi _ _ _ _ (by decide)).trans ((app_lo _ _ _ _ (by decide)).trans (fld_all _))))))
  have h2 : fld 15 1 x = (encTA a).1 := by subst hx; exact (app_hi _ _ _ _ (by decide)).trans ((app_hi _ _ _ _ (by decide)).trans ((app_hi _ _ _ _ (by decide)).trans ((app_hi _ _ _ _ (by decide)).trans ((app_lo _ _ _ _ (by decide)).trans (fld_all _)))))
  have h3 : fld 11 4 x = (encTA a).2 := by subst hx; exact (app_hi _ _ _ _ (by decide)).trans ((app_hi _ _ _ _ (by decide)).trans ((app_hi _ _ _ _ (by decide)).trans ((app_lo _ _ _ _ (by decide)).trans (fld_all _))))
  have h4 : fld 10 1 x = 0#1 := by subst hx; exact (app_hi _ _ _ _ (by decide)).trans ((app_hi _ _ _ _ (by decide)).trans ((app_lo _ _ _ _ (by decide)).trans (fld_all _)))
  have h5 : fld 0 3 x = w := by subst hx; exact (app_lo _ _ _ _ (by decide)).trans (fld_all _)
  have h6 : fld 3 1 x = bit1 half := by subst hx; exact (app_hi _ _ _ _ (by decide)).trans ((app_lo _ _ _ _ (by decide)).trans ((app_lo _ _ _ _ (by decide)).trans (fld_all _)))
  have h7 : fld 4 6 x = 0#6 := by subst hx; exact (app_hi _ _ _ _ (by decide)).trans ((app_lo _ _ _ _ (by decide)).trans ((app_hi _ _ _ _ (by decide)).trans (fld_all _)))
  simp [decodeM, h0, h1, h2, h3, h4, h5, h6, h7, checked, firstBad, fMF, rm5Of, bit1_eq, encTA_ok, encTA_of]

theorem mcvt_e5m2_rz_enc (rep : BitVec 8) (acc : BitVec 2) (a : TOp) (half : Bool) (w : BitVec 3) :
    decodeM 0x39 (eMF rep acc (encTA a) (0, 0#6 ++ bit1 half) w) = .ok (.mcvt .e5m2 .rz rep acc a half w) := by
  obtain ⟨x, hx⟩ : ∃ x : BitVec 26, x = (eMF rep acc (encTA a) (0, 0#6 ++ bit1 half) w) := ⟨_, rfl⟩
  rw [← hx]
  have h0 : fld 18 8 x = rep := by subst hx; exact (app_hi _ _ _ _ (by decide)).trans ((app_hi _ _ _ _ (by decide)).trans ((app_hi _ _ _ _ (by decide)).trans ((app_hi _ _ _ _ (by decide)).trans ((app_hi _ _ _ _ (by decide)).trans ((app_hi _ _ _ _ (by decide)).trans (fld_all _))))))
  have h1 : fld 16 2 x = acc := by subst hx; exact (app_hi _ _ _ _ (by decide)).trans ((app_hi _ _ _ _ (by decide)).trans ((app_hi _ _ _ _ (by decide)).trans ((app_hi _ _ _ _ (by decide)).trans ((app_hi _ _ _ _ (by decide)).trans ((app_lo _ _ _ _ (by decide)).trans (fld_all _))))))
  have h2 : fld 15 1 x = (encTA a).1 := by subst hx; exact (app_hi _ _ _ _ (by decide)).trans ((app_hi _ _ _ _ (by decide)).trans ((app_hi _ _ _ _ (by decide)).trans ((app_hi _ _ _ _ (by decide)).trans ((app_lo _ _ _ _ (by decide)).trans (fld_all _)))))
  have h3 : fld 11 4 x = (encTA a).2 := by subst hx; exact (app_hi _ _ _ _ (by decide)).trans ((app_hi _ _ _ _ (by decide)).trans ((app_hi _ _ _ _ (by decide)).trans ((app_lo _ _ _ _ (by decide)).trans (fld_all _))))
  have h4 : fld 10 1 x = 0#1 := by subst hx; exact (app_hi _ _ _ _ (by decide)).trans ((app_hi _ _ _ _ (by decide)).trans ((app_lo _ _ _ _ (by decide)).trans (fld_all _)))
  have h5 : fld 0 3 x = w := by subst hx; exact (app_lo _ _ _ _ (by decide)).trans (fld_all _)
  have h6 : fld 3 1 x = bit1 half := by subst hx; exact (app_hi _ _ _ _ (by decide)).trans ((app_lo _ _ _ _ (by decide)).trans ((app_lo _ _ _ _ (by decide)).trans (fld_all _)))
  have h7 : fld 4 6 x = 0#6 := by subst hx; exact (app_hi _ _ _ _ (by decide)).trans ((app_lo _ _ _ _ (by decide)).trans ((app_hi _ _ _ _ (by decide)).trans (fld_all _)))
  simp [decodeM, h0, h1, h2, h3, h4, h5, h6, h7, checked, firstBad, fMF, rm5Of, bit1_eq, encTA_ok, encTA_of]

theorem mcvt_e5m2_ru_enc (rep : BitVec 8) (acc : BitVec 2) (a : TOp) (half : Bool) (w : BitVec 3) :
    decodeM 0x3a (eMF rep acc (encTA a) (0, 0#6 ++ bit1 half) w) = .ok (.mcvt .e5m2 .ru rep acc a half w) := by
  obtain ⟨x, hx⟩ : ∃ x : BitVec 26, x = (eMF rep acc (encTA a) (0, 0#6 ++ bit1 half) w) := ⟨_, rfl⟩
  rw [← hx]
  have h0 : fld 18 8 x = rep := by subst hx; exact (app_hi _ _ _ _ (by decide)).trans ((app_hi _ _ _ _ (by decide)).trans ((app_hi _ _ _ _ (by decide)).trans ((app_hi _ _ _ _ (by decide)).trans ((app_hi _ _ _ _ (by decide)).trans ((app_hi _ _ _ _ (by decide)).trans (fld_all _))))))
  have h1 : fld 16 2 x = acc := by subst hx; exact (app_hi _ _ _ _ (by decide)).trans ((app_hi _ _ _ _ (by decide)).trans ((app_hi _ _ _ _ (by decide)).trans ((app_hi _ _ _ _ (by decide)).trans ((app_hi _ _ _ _ (by decide)).trans ((app_lo _ _ _ _ (by decide)).trans (fld_all _))))))
  have h2 : fld 15 1 x = (encTA a).1 := by subst hx; exact (app_hi _ _ _ _ (by decide)).trans ((app_hi _ _ _ _ (by decide)).trans ((app_hi _ _ _ _ (by decide)).trans ((app_hi _ _ _ _ (by decide)).trans ((app_lo _ _ _ _ (by decide)).trans (fld_all _)))))
  have h3 : fld 11 4 x = (encTA a).2 := by subst hx; exact (app_hi _ _ _ _ (by decide)).trans ((app_hi _ _ _ _ (by decide)).trans ((app_hi _ _ _ _ (by decide)).trans ((app_lo _ _ _ _ (by decide)).trans (fld_all _))))
  have h4 : fld 10 1 x = 0#1 := by subst hx; exact (app_hi _ _ _ _ (by decide)).trans ((app_hi _ _ _ _ (by decide)).trans ((app_lo _ _ _ _ (by decide)).trans (fld_all _)))
  have h5 : fld 0 3 x = w := by subst hx; exact (app_lo _ _ _ _ (by decide)).trans (fld_all _)
  have h6 : fld 3 1 x = bit1 half := by subst hx; exact (app_hi _ _ _ _ (by decide)).trans ((app_lo _ _ _ _ (by decide)).trans ((app_lo _ _ _ _ (by decide)).trans (fld_all _)))
  have h7 : fld 4 6 x = 0#6 := by subst hx; exact (app_hi _ _ _ _ (by decide)).trans ((app_lo _ _ _ _ (by decide)).trans ((app_hi _ _ _ _ (by decide)).trans (fld_all _)))
  simp [decodeM, h0, h1, h2, h3, h4, h5, h6, h7, checked, firstBad, fMF, rm5Of, bit1_eq, encTA_ok, encTA_of]

theorem mcvt_e5m2_rd_enc (rep : BitVec 8) (acc : BitVec 2) (a : TOp) (half : Bool) (w : BitVec 3) :
    decodeM 0x3b (eMF rep acc (encTA a) (0, 0#6 ++ bit1 half) w) = .ok (.mcvt .e5m2 .rd rep acc a half w) := by
  obtain ⟨x, hx⟩ : ∃ x : BitVec 26, x = (eMF rep acc (encTA a) (0, 0#6 ++ bit1 half) w) := ⟨_, rfl⟩
  rw [← hx]
  have h0 : fld 18 8 x = rep := by subst hx; exact (app_hi _ _ _ _ (by decide)).trans ((app_hi _ _ _ _ (by decide)).trans ((app_hi _ _ _ _ (by decide)).trans ((app_hi _ _ _ _ (by decide)).trans ((app_hi _ _ _ _ (by decide)).trans ((app_hi _ _ _ _ (by decide)).trans (fld_all _))))))
  have h1 : fld 16 2 x = acc := by subst hx; exact (app_hi _ _ _ _ (by decide)).trans ((app_hi _ _ _ _ (by decide)).trans ((app_hi _ _ _ _ (by decide)).trans ((app_hi _ _ _ _ (by decide)).trans ((app_hi _ _ _ _ (by decide)).trans ((app_lo _ _ _ _ (by decide)).trans (fld_all _))))))
  have h2 : fld 15 1 x = (encTA a).1 := by subst hx; exact (app_hi _ _ _ _ (by decide)).trans ((app_hi _ _ _ _ (by decide)).trans ((app_hi _ _ _ _ (by decide)).trans ((app_hi _ _ _ _ (by decide)).trans ((app_lo _ _ _ _ (by decide)).trans (fld_all _)))))
  have h3 : fld 11 4 x = (encTA a).2 := by subst hx; exact (app_hi _ _ _ _ (by decide)).trans ((app_hi _ _ _ _ (by decide)).trans ((app_hi _ _ _ _ (by decide)).trans ((app_lo _ _ _ _ (by decide)).trans (fld_all _))))
  have h4 : fld 10 1 x = 0#1 := by subst hx; exact (app_hi _ _ _ _ (by decide)).trans ((app_hi _ _ _ _ (by decide)).trans ((app_lo _ _ _ _ (by decide)).trans (fld_all _)))
  have h5 : fld 0 3 x = w := by subst hx; exact (app_lo _ _ _ _ (by decide)).trans (fld_all _)
  have h6 : fld 3 1 x = bit1 half := by subst hx; exact (app_hi _ _ _ _ (by decide)).trans ((app_lo _ _ _ _ (by decide)).trans ((app_lo _ _ _ _ (by decide)).trans (fld_all _)))
  have h7 : fld 4 6 x = 0#6 := by subst hx; exact (app_hi _ _ _ _ (by decide)).trans ((app_lo _ _ _ _ (by decide)).trans ((app_hi _ _ _ _ (by decide)).trans (fld_all _)))
  simp [decodeM, h0, h1, h2, h3, h4, h5, h6, h7, checked, firstBad, fMF, rm5Of, bit1_eq, encTA_ok, encTA_of]

theorem mcvt_e5m2_rs_enc (rep : BitVec 8) (acc : BitVec 2) (a : TOp) (half : Bool) (w : BitVec 3) :
    decodeM 0x3c (eMF rep acc (encTA a) (0, 0#6 ++ bit1 half) w) = .ok (.mcvt .e5m2 .rs rep acc a half w) := by
  obtain ⟨x, hx⟩ : ∃ x : BitVec 26, x = (eMF rep acc (encTA a) (0, 0#6 ++ bit1 half) w) := ⟨_, rfl⟩
  rw [← hx]
  have h0 : fld 18 8 x = rep := by subst hx; exact (app_hi _ _ _ _ (by decide)).trans ((app_hi _ _ _ _ (by decide)).trans ((app_hi _ _ _ _ (by decide)).trans ((app_hi _ _ _ _ (by decide)).trans ((app_hi _ _ _ _ (by decide)).trans ((app_hi _ _ _ _ (by decide)).trans (fld_all _))))))
  have h1 : fld 16 2 x = acc := by subst hx; exact (app_hi _ _ _ _ (by decide)).trans ((app_hi _ _ _ _ (by decide)).trans ((app_hi _ _ _ _ (by decide)).trans ((app_hi _ _ _ _ (by decide)).trans ((app_hi _ _ _ _ (by decide)).trans ((app_lo _ _ _ _ (by decide)).trans (fld_all _))))))
  have h2 : fld 15 1 x = (encTA a).1 := by subst hx; exact (app_hi _ _ _ _ (by decide)).trans ((app_hi _ _ _ _ (by decide)).trans ((app_hi _ _ _ _ (by decide)).trans ((app_hi _ _ _ _ (by decide)).trans ((app_lo _ _ _ _ (by decide)).trans (fld_all _)))))
  have h3 : fld 11 4 x = (encTA a).2 := by subst hx; exact (app_hi _ _ _ _ (by decide)).trans ((app_hi _ _ _ _ (by decide)).trans ((app_hi _ _ _ _ (by decide)).trans ((app_lo _ _ _ _ (by decide)).trans (fld_all _))))
  have h4 : fld 10 1 x = 0#1 := by subst hx; exact (app_hi _ _ _ _ (by decide)).trans ((app_hi _ _ _ _ (by decide)).trans ((app_lo _ _ _ _ (by decide)).trans (fld_all _)))
  have h5 : fld 0 3 x = w := by subst hx; exact (app_lo _ _ _ _ (by decide)).trans (fld_all _)
  have h6 : fld 3 1 x = bit1 half := by subst hx; exact (app_hi _ _ _ _ (by decide)).trans ((app_lo _ _ _ _ (by decide)).trans ((app_lo _ _ _ _ (by decide)).trans (fld_all _)))
  have h7 : fld 4 6 x = 0#6 := by subst hx; exact (app_hi _ _ _ _ (by decide)).trans ((app_lo _ _ _ _ (by decide)).trans ((app_hi _ _ _ _ (by decide)).trans (fld_all _)))
  simp [decodeM, h0, h1, h2, h3, h4, h5, h6, h7, checked, firstBad, fMF, rm5Of, bit1_eq, encTA_ok, encTA_of]

theorem mtr_enc (rep : BitVec 8) (a b : TOp) (w : BitVec 3) :
    decodeM 0x040 (eMF rep 0 (encTA a) (encTB b) w) = .ok (.mtr rep a b w) := by
  obtain ⟨x, hx⟩ : ∃ x : BitVec 26, x = (eMF rep 0 (encTA a) (encTB b) w) := ⟨_, rfl⟩
  rw [← hx]
  have h0 : fld 18 8 x = rep := by subst hx; exact (app_hi _ _ _ _ (by decide)).trans ((app_hi _ _ _ _ (by decide)).trans ((app_hi _ _ _ _ (by decide)).trans ((app_hi _ _ _ _ (by decide)).trans ((app_hi _ _ _ _ (by decide)).trans ((app_hi _ _ _ _ (by decide)).trans (fld_all _))))))
  have h1 : fld 16 2 x = 0#2 := by subst hx; exact (app_hi _ _ _ _ (by decide)).trans ((app_hi _ _ _ _ (by decide)).trans ((app_hi _ _ _ _ (by decide)).trans ((app_hi _ _ _ _ (by decide)).trans ((app_hi _ _ _ _ (by decide)).trans ((app_lo _ _ _ _ (by decide)).trans (fld_all _))))))
  have h2 : fld 15 1 x = (encTA a).1 := by subst hx; exact (app_hi _ _ _ _ (by decide)).trans ((app_hi _ _ _ _ (by decide)).trans ((app_hi _ _ _ _ (by decide)).trans ((app_hi _ _ _ _ (by decide)).trans ((app_lo _ _ _ _ (by decide)).trans (fld_all _)))))
  have h3 : fld 11 4 x = (encTA a).2 := by subst hx; exact (app_hi _ _ _ _ (by decide)).trans ((app_hi _ _ _ _ (by decide)).trans ((app_hi _ _ _ _ (by decide)).trans ((app_lo _ _ _ _ (by decide)).trans (fld_all _))))
  have h4 : fld 10 1 x = (encTB b).1 := by subst hx; exact (app_hi _ _ _ _ (by decide)).trans ((app_hi _ _ _ _ (by decide)).trans ((app_lo _ _ _ _ (by decide)).trans (fld_all _)))
  have h5 : fld 3 7 x = (encTB b).2 := by subst hx; exact (app_hi _ _ _ _ (by decide)).trans ((app_lo _ _ _ _ (by decide)).trans (fld_all _))
  have h6 : fld 0 3 x = w := by subst hx; exact (app_lo _ _ _ _ (by decide)).trans (fld_all _)
  simp [decodeM, h0, h1, h2, h3, h4, h5, h6, checked, firstBad, encTA_ok, encTA_of, encTB_ok, encTB_of]

theorem mldl_enc (rep : BitVec 8) (a b : TOp) (w : BitVec 3) :
    decodeM 0x048 (eMF rep 0 (encTA a) (encTB b) w) = .ok (.mldl rep a b w) := by
  obtain ⟨x, hx⟩ : ∃ x : BitVec 26, x = (eMF rep 0 (encTA a) (encTB b) w) := ⟨_, rfl⟩
  rw [← hx]
  have h0 : fld 18 8 x = rep := by subst hx; exact (app_hi _ _ _ _ (by decide)).trans ((app_hi _ _ _ _ (by decide)).trans ((app_hi _ _ _ _ (by decide)).trans ((app_hi _ _ _ _ (by decide)).trans ((app_hi _ _ _ _ (by decide)).trans ((app_hi _ _ _ _ (by decide)).trans (fld_all _))))))
  have h1 : fld 16 2 x = 0#2 := by subst hx; exact (app_hi _ _ _ _ (by decide)).trans ((app_hi _ _ _ _ (by decide)).trans ((app_hi _ _ _ _ (by decide)).trans ((app_hi _ _ _ _ (by decide)).trans ((app_hi _ _ _ _ (by decide)).trans ((app_lo _ _ _ _ (by decide)).trans (fld_all _))))))
  have h2 : fld 15 1 x = (encTA a).1 := by subst hx; exact (app_hi _ _ _ _ (by decide)).trans ((app_hi _ _ _ _ (by decide)).trans ((app_hi _ _ _ _ (by decide)).trans ((app_hi _ _ _ _ (by decide)).trans ((app_lo _ _ _ _ (by decide)).trans (fld_all _)))))
  have h3 : fld 11 4 x = (encTA a).2 := by subst hx; exact (app_hi _ _ _ _ (by decide)).trans ((app_hi _ _ _ _ (by decide)).trans ((app_hi _ _ _ _ (by decide)).trans ((app_lo _ _ _ _ (by decide)).trans (fld_all _))))
  have h4 : fld 10 1 x = (encTB b).1 := by subst hx; exact (app_hi _ _ _ _ (by decide)).trans ((app_hi _ _ _ _ (by decide)).trans ((app_lo _ _ _ _ (by decide)).trans (fld_all _)))
  have h5 : fld 3 7 x = (encTB b).2 := by subst hx; exact (app_hi _ _ _ _ (by decide)).trans ((app_lo _ _ _ _ (by decide)).trans (fld_all _))
  have h6 : fld 0 3 x = w := by subst hx; exact (app_lo _ _ _ _ (by decide)).trans (fld_all _)
  simp [decodeM, h0, h1, h2, h3, h4, h5, h6, checked, firstBad, encTA_ok, encTA_of, encTB_ok, encTB_of]

theorem mtrs_full_enc (rep : BitVec 8) (a b : TOp) (w : BitVec 3) :
    decodeM 0x049 (eMF rep 0 (encTA a) (encTB b) w) = .ok (.mtrs rep .full a b w) := by
  obtain ⟨x, hx⟩ : ∃ x : BitVec 26, x = (eMF rep 0 (encTA a) (encTB b) w) := ⟨_, rfl⟩
  rw [← hx]
  have h0 : fld 18 8 x = rep := by subst hx; exact (app_hi _ _ _ _ (by decide)).trans ((app_hi _ _ _ _ (by decide)).trans ((app_hi _ _ _ _ (by decide)).trans ((app_hi _ _ _ _ (by decide)).trans ((app_hi _ _ _ _ (by decide)).trans ((app_hi _ _ _ _ (by decide)).trans (fld_all _))))))
  have h1 : fld 16 2 x = 0#2 := by subst hx; exact (app_hi _ _ _ _ (by decide)).trans ((app_hi _ _ _ _ (by decide)).trans ((app_hi _ _ _ _ (by decide)).trans ((app_hi _ _ _ _ (by decide)).trans ((app_hi _ _ _ _ (by decide)).trans ((app_lo _ _ _ _ (by decide)).trans (fld_all _))))))
  have h2 : fld 15 1 x = (encTA a).1 := by subst hx; exact (app_hi _ _ _ _ (by decide)).trans ((app_hi _ _ _ _ (by decide)).trans ((app_hi _ _ _ _ (by decide)).trans ((app_hi _ _ _ _ (by decide)).trans ((app_lo _ _ _ _ (by decide)).trans (fld_all _)))))
  have h3 : fld 11 4 x = (encTA a).2 := by subst hx; exact (app_hi _ _ _ _ (by decide)).trans ((app_hi _ _ _ _ (by decide)).trans ((app_hi _ _ _ _ (by decide)).trans ((app_lo _ _ _ _ (by decide)).trans (fld_all _))))
  have h4 : fld 10 1 x = (encTB b).1 := by subst hx; exact (app_hi _ _ _ _ (by decide)).trans ((app_hi _ _ _ _ (by decide)).trans ((app_lo _ _ _ _ (by decide)).trans (fld_all _)))
  have h5 : fld 3 7 x = (encTB b).2 := by subst hx; exact (app_hi _ _ _ _ (by decide)).trans ((app_lo _ _ _ _ (by decide)).trans (fld_all _))
  have h6 : fld 0 3 x = w := by subst hx; exact (app_lo _ _ _ _ (by decide)).trans (fld_all _)
  simp [decodeM, h0, h1, h2, h3, h4, h5, h6, checked, firstBad, fMF, encTA_ok, encTA_of, encTB_ok, encTB_of]

theorem mtrs_fwd_enc (rep : BitVec 8) (a b : TOp) (w : BitVec 3) :
    decodeM 0x049 (eMF rep 1 (encTA a) (encTB b) w) = .ok (.mtrs rep .fwd a b w) := by
  obtain ⟨x, hx⟩ : ∃ x : BitVec 26, x = (eMF rep 1 (encTA a) (encTB b) w) := ⟨_, rfl⟩
  rw [← hx]
  have h0 : fld 18 8 x = rep := by subst hx; exact (app_hi _ _ _ _ (by decide)).trans ((app_hi _ _ _ _ (by decide)).trans ((app_hi _ _ _ _ (by decide)).trans ((app_hi _ _ _ _ (by decide)).trans ((app_hi _ _ _ _ (by decide)).trans ((app_hi _ _ _ _ (by decide)).trans (fld_all _))))))
  have h1 : fld 16 2 x = 1#2 := by subst hx; exact (app_hi _ _ _ _ (by decide)).trans ((app_hi _ _ _ _ (by decide)).trans ((app_hi _ _ _ _ (by decide)).trans ((app_hi _ _ _ _ (by decide)).trans ((app_hi _ _ _ _ (by decide)).trans ((app_lo _ _ _ _ (by decide)).trans (fld_all _))))))
  have h2 : fld 15 1 x = (encTA a).1 := by subst hx; exact (app_hi _ _ _ _ (by decide)).trans ((app_hi _ _ _ _ (by decide)).trans ((app_hi _ _ _ _ (by decide)).trans ((app_hi _ _ _ _ (by decide)).trans ((app_lo _ _ _ _ (by decide)).trans (fld_all _)))))
  have h3 : fld 11 4 x = (encTA a).2 := by subst hx; exact (app_hi _ _ _ _ (by decide)).trans ((app_hi _ _ _ _ (by decide)).trans ((app_hi _ _ _ _ (by decide)).trans ((app_lo _ _ _ _ (by decide)).trans (fld_all _))))
  have h4 : fld 10 1 x = (encTB b).1 := by subst hx; exact (app_hi _ _ _ _ (by decide)).trans ((app_hi _ _ _ _ (by decide)).trans ((app_lo _ _ _ _ (by decide)).trans (fld_all _)))
  have h5 : fld 3 7 x = (encTB b).2 := by subst hx; exact (app_hi _ _ _ _ (by decide)).trans ((app_lo _ _ _ _ (by decide)).trans (fld_all _))
  have h6 : fld 0 3 x = w := by subst hx; exact (app_lo _ _ _ _ (by decide)).trans (fld_all _)
  simp [decodeM, h0, h1, h2, h3, h4, h5, h6, checked, firstBad, fMF, encTA_ok, encTA_of, encTB_ok, encTB_of]

theorem mtrs_diag_enc (rep : BitVec 8) (a b : TOp) (w : BitVec 3) :
    decodeM 0x049 (eMF rep 2 (encTA a) (encTB b) w) = .ok (.mtrs rep .diag a b w) := by
  obtain ⟨x, hx⟩ : ∃ x : BitVec 26, x = (eMF rep 2 (encTA a) (encTB b) w) := ⟨_, rfl⟩
  rw [← hx]
  have h0 : fld 18 8 x = rep := by subst hx; exact (app_hi _ _ _ _ (by decide)).trans ((app_hi _ _ _ _ (by decide)).trans ((app_hi _ _ _ _ (by decide)).trans ((app_hi _ _ _ _ (by decide)).trans ((app_hi _ _ _ _ (by decide)).trans ((app_hi _ _ _ _ (by decide)).trans (fld_all _))))))
  have h1 : fld 16 2 x = 2#2 := by subst hx; exact (app_hi _ _ _ _ (by decide)).trans ((app_hi _ _ _ _ (by decide)).trans ((app_hi _ _ _ _ (by decide)).trans ((app_hi _ _ _ _ (by decide)).trans ((app_hi _ _ _ _ (by decide)).trans ((app_lo _ _ _ _ (by decide)).trans (fld_all _))))))
  have h2 : fld 15 1 x = (encTA a).1 := by subst hx; exact (app_hi _ _ _ _ (by decide)).trans ((app_hi _ _ _ _ (by decide)).trans ((app_hi _ _ _ _ (by decide)).trans ((app_hi _ _ _ _ (by decide)).trans ((app_lo _ _ _ _ (by decide)).trans (fld_all _)))))
  have h3 : fld 11 4 x = (encTA a).2 := by subst hx; exact (app_hi _ _ _ _ (by decide)).trans ((app_hi _ _ _ _ (by decide)).trans ((app_hi _ _ _ _ (by decide)).trans ((app_lo _ _ _ _ (by decide)).trans (fld_all _))))
  have h4 : fld 10 1 x = (encTB b).1 := by subst hx; exact (app_hi _ _ _ _ (by decide)).trans ((app_hi _ _ _ _ (by decide)).trans ((app_lo _ _ _ _ (by decide)).trans (fld_all _)))
  have h5 : fld 3 7 x = (encTB b).2 := by subst hx; exact (app_hi _ _ _ _ (by decide)).trans ((app_lo _ _ _ _ (by decide)).trans (fld_all _))
  have h6 : fld 0 3 x = w := by subst hx; exact (app_lo _ _ _ _ (by decide)).trans (fld_all _)
  simp [decodeM, h0, h1, h2, h3, h4, h5, h6, checked, firstBad, fMF, encTA_ok, encTA_of, encTB_ok, encTB_of]

theorem mtrs_bwd_enc (rep : BitVec 8) (a b : TOp) (w : BitVec 3) :
    decodeM 0x049 (eMF rep 3 (encTA a) (encTB b) w) = .ok (.mtrs rep .bwd a b w) := by
  obtain ⟨x, hx⟩ : ∃ x : BitVec 26, x = (eMF rep 3 (encTA a) (encTB b) w) := ⟨_, rfl⟩
  rw [← hx]
  have h0 : fld 18 8 x = rep := by subst hx; exact (app_hi _ _ _ _ (by decide)).trans ((app_hi _ _ _ _ (by decide)).trans ((app_hi _ _ _ _ (by decide)).trans ((app_hi _ _ _ _ (by decide)).trans ((app_hi _ _ _ _ (by decide)).trans ((app_hi _ _ _ _ (by decide)).trans (fld_all _))))))
  have h1 : fld 16 2 x = 3#2 := by subst hx; exact (app_hi _ _ _ _ (by decide)).trans ((app_hi _ _ _ _ (by decide)).trans ((app_hi _ _ _ _ (by decide)).trans ((app_hi _ _ _ _ (by decide)).trans ((app_hi _ _ _ _ (by decide)).trans ((app_lo _ _ _ _ (by decide)).trans (fld_all _))))))
  have h2 : fld 15 1 x = (encTA a).1 := by subst hx; exact (app_hi _ _ _ _ (by decide)).trans ((app_hi _ _ _ _ (by decide)).trans ((app_hi _ _ _ _ (by decide)).trans ((app_hi _ _ _ _ (by decide)).trans ((app_lo _ _ _ _ (by decide)).trans (fld_all _)))))
  have h3 : fld 11 4 x = (encTA a).2 := by subst hx; exact (app_hi _ _ _ _ (by decide)).trans ((app_hi _ _ _ _ (by decide)).trans ((app_hi _ _ _ _ (by decide)).trans ((app_lo _ _ _ _ (by decide)).trans (fld_all _))))
  have h4 : fld 10 1 x = (encTB b).1 := by subst hx; exact (app_hi _ _ _ _ (by decide)).trans ((app_hi _ _ _ _ (by decide)).trans ((app_lo _ _ _ _ (by decide)).trans (fld_all _)))
  have h5 : fld 3 7 x = (encTB b).2 := by subst hx; exact (app_hi _ _ _ _ (by decide)).trans ((app_lo _ _ _ _ (by decide)).trans (fld_all _))
  have h6 : fld 0 3 x = w := by subst hx; exact (app_lo _ _ _ _ (by decide)).trans (fld_all _)
  simp [decodeM, h0, h1, h2, h3, h4, h5, h6, checked, firstBad, fMF, encTA_ok, encTA_of, encTB_ok, encTB_of]

theorem msetma_base_enc (i : BitVec 2) (a : SSrc) :
    decodeM 0x050 (i ++ 0#2 ++ fx (encS a) ++ 0#15 : BitVec 26) = .ok (.msetma i .base a) := by
  obtain ⟨x, hx⟩ : ∃ x : BitVec 26, x = (i ++ 0#2 ++ fx (encS a) ++ 0#15 : BitVec 26) := ⟨_, rfl⟩
  rw [← hx]
  have h0 : fld 24 2 x = i := by subst hx; exact (app_hi _ _ _ _ (by decide)).trans ((app_hi _ _ _ _ (by decide)).trans ((app_hi _ _ _ _ (by decide)).trans (fld_all _)))
  have h1 : fld 22 2 x = 0#2 := by subst hx; exact (app_hi _ _ _ _ (by decide)).trans ((app_hi _ _ _ _ (by decide)).trans ((app_lo _ _ _ _ (by decide)).trans (fld_all _)))
  have h2 : fld 16 6 x = (encS a).1 := by subst hx; exact (app_hi _ _ _ _ (by decide)).trans ((app_lo _ _ _ _ (by decide)).trans ((app_hi _ _ _ _ (by decide)).trans (fld_all _)))
  have h3 : fld 15 1 x = (encS a).2 := by subst hx; exact (app_hi _ _ _ _ (by decide)).trans ((app_lo _ _ _ _ (by decide)).trans ((app_lo _ _ _ _ (by decide)).trans (fld_all _)))
  have h4 : fld 0 15 x = 0#15 := by subst hx; exact (app_lo _ _ _ _ (by decide)).trans (fld_all _)
  simp [decodeM, h0, h1, h2, h3, h4, checked, firstBad, encS_ok, encS_of]

theorem msetma_stride_enc (i : BitVec 2) (a : SSrc) :
    decodeM 0x050 (i ++ 1#2 ++ fx (encS a) ++ 0#15 : BitVec 26) = .ok (.msetma i .stride a) := by
  obtain ⟨x, hx⟩ : ∃ x : BitVec 26, x = (i ++ 1#2 ++ fx (encS a) ++ 0#15 : BitVec 26) := ⟨_, rfl⟩
  rw [← hx]
  have h0 : fld 24 2 x = i := by subst hx; exact (app_hi _ _ _ _ (by decide)).trans ((app_hi _ _ _ _ (by decide)).trans ((app_hi _ _ _ _ (by decide)).trans (fld_all _)))
  have h1 : fld 22 2 x = 1#2 := by subst hx; exact (app_hi _ _ _ _ (by decide)).trans ((app_hi _ _ _ _ (by decide)).trans ((app_lo _ _ _ _ (by decide)).trans (fld_all _)))
  have h2 : fld 16 6 x = (encS a).1 := by subst hx; exact (app_hi _ _ _ _ (by decide)).trans ((app_lo _ _ _ _ (by decide)).trans ((app_hi _ _ _ _ (by decide)).trans (fld_all _)))
  have h3 : fld 15 1 x = (encS a).2 := by subst hx; exact (app_hi _ _ _ _ (by decide)).trans ((app_lo _ _ _ _ (by decide)).trans ((app_lo _ _ _ _ (by decide)).trans (fld_all _)))
  have h4 : fld 0 15 x = 0#15 := by subst hx; exact (app_lo _ _ _ _ (by decide)).trans (fld_all _)
  simp [decodeM, h0, h1, h2, h3, h4, checked, firstBad, encS_ok, encS_of]

theorem msetma_count_enc (i : BitVec 2) (a : SSrc) :
    decodeM 0x050 (i ++ 2#2 ++ fx (encS a) ++ 0#15 : BitVec 26) = .ok (.msetma i .count a) := by
  obtain ⟨x, hx⟩ : ∃ x : BitVec 26, x = (i ++ 2#2 ++ fx (encS a) ++ 0#15 : BitVec 26) := ⟨_, rfl⟩
  rw [← hx]
  have h0 : fld 24 2 x = i := by subst hx; exact (app_hi _ _ _ _ (by decide)).trans ((app_hi _ _ _ _ (by decide)).trans ((app_hi _ _ _ _ (by decide)).trans (fld_all _)))
  have h1 : fld 22 2 x = 2#2 := by subst hx; exact (app_hi _ _ _ _ (by decide)).trans ((app_hi _ _ _ _ (by decide)).trans ((app_lo _ _ _ _ (by decide)).trans (fld_all _)))
  have h2 : fld 16 6 x = (encS a).1 := by subst hx; exact (app_hi _ _ _ _ (by decide)).trans ((app_lo _ _ _ _ (by decide)).trans ((app_hi _ _ _ _ (by decide)).trans (fld_all _)))
  have h3 : fld 15 1 x = (encS a).2 := by subst hx; exact (app_hi _ _ _ _ (by decide)).trans ((app_lo _ _ _ _ (by decide)).trans ((app_lo _ _ _ _ (by decide)).trans (fld_all _)))
  have h4 : fld 0 15 x = 0#15 := by subst hx; exact (app_lo _ _ _ _ (by decide)).trans (fld_all _)
  simp [decodeM, h0, h1, h2, h3, h4, checked, firstBad, encS_ok, encS_of]

theorem ldv_enc (g : BitVec 4) (d : VDst) (a : SSrc) (o : BitVec 9) :
    decodeL 0x010 (encVD d ++ g ++ fx (encS a) ++ o : BitVec 26) = .ok (.ldv g d a o) := by
  obtain ⟨x, hx⟩ : ∃ x : BitVec 26, x = (encVD d ++ g ++ fx (encS a) ++ o : BitVec 26) := ⟨_, rfl⟩
  rw [← hx]
  have h0 : fld 16 4 x = g := by subst hx; exact (app_hi _ _ _ _ (by decide)).trans ((app_hi _ _ _ _ (by decide)).trans ((app_lo _ _ _ _ (by decide)).trans (fld_all _)))
  have h1 : fld 20 6 x = encVD d := by subst hx; exact (app_hi _ _ _ _ (by decide)).trans ((app_hi _ _ _ _ (by decide)).trans ((app_hi _ _ _ _ (by decide)).trans (fld_all _)))
  have h2 : fld 10 6 x = (encS a).1 := by subst hx; exact (app_hi _ _ _ _ (by decide)).trans ((app_lo _ _ _ _ (by decide)).trans ((app_hi _ _ _ _ (by decide)).trans (fld_all _)))
  have h3 : fld 9 1 x = (encS a).2 := by subst hx; exact (app_hi _ _ _ _ (by decide)).trans ((app_lo _ _ _ _ (by decide)).trans ((app_lo _ _ _ _ (by decide)).trans (fld_all _)))
  have h4 : fld 0 9 x = o := by subst hx; exact (app_lo _ _ _ _ (by decide)).trans (fld_all _)
  simp [decodeL, h0, h1, h2, h3, h4, checked, firstBad, encVD_ok, encVD_of, encS_ok, encS_of]

theorem ald_enc (ad : BitVec 4) (a : SSrc) (o : BitVec 12) :
    decodeL 0x018 (ax ad ++ 0#1 ++ fx (encS a) ++ o : BitVec 26) = .ok (.ald ad a o) := by
  obtain ⟨x, hx⟩ : ∃ x : BitVec 26, x = (ax ad ++ 0#1 ++ fx (encS a) ++ o : BitVec 26) := ⟨_, rfl⟩
  rw [← hx]
  have h0 : fld 20 4 x = ad := by subst hx; exact (app_hi _ _ _ _ (by decide)).trans ((app_hi _ _ _ _ (by decide)).trans ((app_hi _ _ _ _ (by decide)).trans ((app_lo _ _ _ _ (by decide)).trans (fld_all _))))
  have h1 : fld 20 6 x = (0#2 ++ ad) := by subst hx; exact (fld_span _ 20 2 4).trans (congrArg₂ (fun (a : BitVec 2) (b : BitVec 4) => a ++ b) ((app_hi _ _ _ _ (by decide)).trans ((app_hi _ _ _ _ (by decide)).trans ((app_hi _ _ _ _ (by decide)).trans ((app_hi _ _ _ _ (by decide)).trans (fld_all _))))) ((app_hi _ _ _ _ (by decide)).trans ((app_hi _ _ _ _ (by decide)).trans ((app_hi _ _ _ _ (by decide)).trans ((app_lo _ _ _ _ (by decide)).trans (fld_all _))))))
  have h2 : fld 19 1 x = 0#1 := by subst hx; exact (app_hi _ _ _ _ (by decide)).trans ((app_hi _ _ _ _ (by decide)).trans ((app_lo _ _ _ _ (by decide)).trans (fld_all _)))
  have h3 : fld 13 6 x = (encS a).1 := by subst hx; exact (app_hi _ _ _ _ (by decide)).trans ((app_lo _ _ _ _ (by decide)).trans ((app_hi _ _ _ _ (by decide)).trans (fld_all _)))
  have h4 : fld 12 1 x = (encS a).2 := by subst hx; exact (app_hi _ _ _ _ (by decide)).trans ((app_lo _ _ _ _ (by decide)).trans ((app_lo _ _ _ _ (by decide)).trans (fld_all _)))
  have h5 : fld 0 12 x = o := by subst hx; exact (app_lo _ _ _ _ (by decide)).trans (fld_all _)
  simp [decodeL, h0, h1, h2, h3, h4, h5, checked, firstBad, aOk_zero, encS_ok, encS_of]

theorem tldw_enc (wb : BitVec 7) (a : SSrc) (w : BitVec 3) (h : decide (wb.toNat ≤ 123) = true) :
    decodeL 0x021 (wb ++ fx (encS a) ++ 0#9 ++ w : BitVec 26) = .ok (.tldw wb a w) := by
  obtain ⟨x, hx⟩ : ∃ x : BitVec 26, x = (wb ++ fx (encS a) ++ 0#9 ++ w : BitVec 26) := ⟨_, rfl⟩
  rw [← hx]
  have h0 : fld 19 7 x = wb := by subst hx; exact (app_hi _ _ _ _ (by decide)).trans ((app_hi _ _ _ _ (by decide)).trans ((app_hi _ _ _ _ (by decide)).trans (fld_all _)))
  have h1 : fld 13 6 x = (encS a).1 := by subst hx; exact (app_hi _ _ _ _ (by decide)).trans ((app_hi _ _ _ _ (by decide)).trans ((app_lo _ _ _ _ (by decide)).trans ((app_hi _ _ _ _ (by decide)).trans (fld_all _))))
  have h2 : fld 12 1 x = (encS a).2 := by subst hx; exact (app_hi _ _ _ _ (by decide)).trans ((app_hi _ _ _ _ (by decide)).trans ((app_lo _ _ _ _ (by decide)).trans ((app_lo _ _ _ _ (by decide)).trans (fld_all _))))
  have h3 : fld 0 3 x = w := by subst hx; exact (app_lo _ _ _ _ (by decide)).trans (fld_all _)
  have h4 : fld 3 9 x = 0#9 := by subst hx; exact (app_hi _ _ _ _ (by decide)).trans ((app_lo _ _ _ _ (by decide)).trans (fld_all _))
  simp only [decide_eq_true_eq] at h
  simp [decodeL, h0, h1, h2, h3, h4, checked, firstBad, encS_ok, encS_of, h]

theorem stv_enc (g : BitVec 4) (a : VSrc) (b : SSrc) (o : BitVec 9) :
    decodeW 0x010 (encVS a ++ g ++ fx (encS b) ++ o : BitVec 26) = .ok (.stv g a b o) := by
  obtain ⟨x, hx⟩ : ∃ x : BitVec 26, x = (encVS a ++ g ++ fx (encS b) ++ o : BitVec 26) := ⟨_, rfl⟩
  rw [← hx]
  have h0 : fld 16 4 x = g := by subst hx; exact (app_hi _ _ _ _ (by decide)).trans ((app_hi _ _ _ _ (by decide)).trans ((app_lo _ _ _ _ (by decide)).trans (fld_all _)))
  have h1 : fld 20 6 x = encVS a := by subst hx; exact (app_hi _ _ _ _ (by decide)).trans ((app_hi _ _ _ _ (by decide)).trans ((app_hi _ _ _ _ (by decide)).trans (fld_all _)))
  have h2 : fld 10 6 x = (encS b).1 := by subst hx; exact (app_hi _ _ _ _ (by decide)).trans ((app_lo _ _ _ _ (by decide)).trans ((app_hi _ _ _ _ (by decide)).trans (fld_all _)))
  have h3 : fld 9 1 x = (encS b).2 := by subst hx; exact (app_hi _ _ _ _ (by decide)).trans ((app_lo _ _ _ _ (by decide)).trans ((app_lo _ _ _ _ (by decide)).trans (fld_all _)))
  have h4 : fld 0 9 x = o := by subst hx; exact (app_lo _ _ _ _ (by decide)).trans (fld_all _)
  simp [decodeW, h0, h1, h2, h3, h4, checked, firstBad, encVS_ok, encVS_of, encS_ok, encS_of]

theorem ast_enc (as : BitVec 4) (b : SSrc) (o : BitVec 12) :
    decodeW 0x018 (ax as ++ 0#1 ++ fx (encS b) ++ o : BitVec 26) = .ok (.ast as b o) := by
  obtain ⟨x, hx⟩ : ∃ x : BitVec 26, x = (ax as ++ 0#1 ++ fx (encS b) ++ o : BitVec 26) := ⟨_, rfl⟩
  rw [← hx]
  have h0 : fld 20 4 x = as := by subst hx; exact (app_hi _ _ _ _ (by decide)).trans ((app_hi _ _ _ _ (by decide)).trans ((app_hi _ _ _ _ (by decide)).trans ((app_lo _ _ _ _ (by decide)).trans (fld_all _))))
  have h1 : fld 20 6 x = (0#2 ++ as) := by subst hx; exact (fld_span _ 20 2 4).trans (congrArg₂ (fun (a : BitVec 2) (b : BitVec 4) => a ++ b) ((app_hi _ _ _ _ (by decide)).trans ((app_hi _ _ _ _ (by decide)).trans ((app_hi _ _ _ _ (by decide)).trans ((app_hi _ _ _ _ (by decide)).trans (fld_all _))))) ((app_hi _ _ _ _ (by decide)).trans ((app_hi _ _ _ _ (by decide)).trans ((app_hi _ _ _ _ (by decide)).trans ((app_lo _ _ _ _ (by decide)).trans (fld_all _))))))
  have h2 : fld 19 1 x = 0#1 := by subst hx; exact (app_hi _ _ _ _ (by decide)).trans ((app_hi _ _ _ _ (by decide)).trans ((app_lo _ _ _ _ (by decide)).trans (fld_all _)))
  have h3 : fld 13 6 x = (encS b).1 := by subst hx; exact (app_hi _ _ _ _ (by decide)).trans ((app_lo _ _ _ _ (by decide)).trans ((app_hi _ _ _ _ (by decide)).trans (fld_all _)))
  have h4 : fld 12 1 x = (encS b).2 := by subst hx; exact (app_hi _ _ _ _ (by decide)).trans ((app_lo _ _ _ _ (by decide)).trans ((app_lo _ _ _ _ (by decide)).trans (fld_all _)))
  have h5 : fld 0 12 x = o := by subst hx; exact (app_lo _ _ _ _ (by decide)).trans (fld_all _)
  simp [decodeW, h0, h1, h2, h3, h4, h5, checked, firstBad, aOk_zero, encS_ok, encS_of]

theorem xset_enc (cr : BitVec 3) (a : SSrc) :
    decodeX 0x010 (0#1 ++ cr ++ 0#3 ++ fx (encS a) ++ 0#12 : BitVec 26) = .ok (.xset cr a) := by
  obtain ⟨x, hx⟩ : ∃ x : BitVec 26, x = (0#1 ++ cr ++ 0#3 ++ fx (encS a) ++ 0#12 : BitVec 26) := ⟨_, rfl⟩
  rw [← hx]
  have h0 : fld 22 3 x = cr := by subst hx; exact (app_hi _ _ _ _ (by decide)).trans ((app_hi _ _ _ _ (by decide)).trans ((app_hi _ _ _ _ (by decide)).trans ((app_lo _ _ _ _ (by decide)).trans (fld_all _))))
  have h1 : fld 13 6 x = (encS a).1 := by subst hx; exact (app_hi _ _ _ _ (by decide)).trans ((app_lo _ _ _ _ (by decide)).trans ((app_hi _ _ _ _ (by decide)).trans (fld_all _)))
  have h2 : fld 12 1 x = (encS a).2 := by subst hx; exact (app_hi _ _ _ _ (by decide)).trans ((app_lo _ _ _ _ (by decide)).trans ((app_lo _ _ _ _ (by decide)).trans (fld_all _)))
  have h3 : fld 25 1 x = 0#1 := by subst hx; exact (app_hi _ _ _ _ (by decide)).trans ((app_hi _ _ _ _ (by decide)).trans ((app_hi _ _ _ _ (by decide)).trans ((app_hi _ _ _ _ (by decide)).trans (fld_all _))))
  have h4 : fld 19 3 x = 0#3 := by subst hx; exact (app_hi _ _ _ _ (by decide)).trans ((app_hi _ _ _ _ (by decide)).trans ((app_lo _ _ _ _ (by decide)).trans (fld_all _)))
  have h5 : fld 0 12 x = 0#12 := by subst hx; exact (app_lo _ _ _ _ (by decide)).trans (fld_all _)
  simp [decodeX, h0, h1, h2, h3, h4, h5, checked, firstBad, encS_ok, encS_of]

theorem br_enc (o : BitVec 24) :
    decodeY 0x001 (0#2 ++ o : BitVec 26) = .ok (.br o) := by
  obtain ⟨x, hx⟩ : ∃ x : BitVec 26, x = (0#2 ++ o : BitVec 26) := ⟨_, rfl⟩
  rw [← hx]
  have h0 : fld 0 24 x = o := by subst hx; exact (app_lo _ _ _ _ (by decide)).trans (fld_all _)
  have h1 : fld 24 2 x = 0#2 := by subst hx; exact (app_hi _ _ _ _ (by decide)).trans (fld_all _)
  simp [decodeY, h0, h1, checked, firstBad]

theorem call_enc (o : BitVec 24) :
    decodeY 0x002 (0#2 ++ o : BitVec 26) = .ok (.call o) := by
  obtain ⟨x, hx⟩ : ∃ x : BitVec 26, x = (0#2 ++ o : BitVec 26) := ⟨_, rfl⟩
  rw [← hx]
  have h0 : fld 0 24 x = o := by subst hx; exact (app_lo _ _ _ _ (by decide)).trans (fld_all _)
  have h1 : fld 24 2 x = 0#2 := by subst hx; exact (app_hi _ _ _ _ (by decide)).trans (fld_all _)
  simp [decodeY, h0, h1, checked, firstBad]

theorem loop_enc (b : BitVec 6) (n : BitVec 16) :
    decodeY 0x008 (b ++ 0#4 ++ n : BitVec 26) = .ok (.loop b n) := by
  obtain ⟨x, hx⟩ : ∃ x : BitVec 26, x = (b ++ 0#4 ++ n : BitVec 26) := ⟨_, rfl⟩
  rw [← hx]
  have h0 : fld 20 6 x = b := by subst hx; exact (app_hi _ _ _ _ (by decide)).trans ((app_hi _ _ _ _ (by decide)).trans (fld_all _))
  have h1 : fld 0 16 x = n := by subst hx; exact (app_lo _ _ _ _ (by decide)).trans (fld_all _)
  have h2 : fld 16 4 x = 0#4 := by subst hx; exact (app_hi _ _ _ _ (by decide)).trans ((app_lo _ _ _ _ (by decide)).trans (fld_all _))
  simp [decodeY, h0, h1, h2, checked, firstBad]

theorem loopr_enc (b : BitVec 6) (a : SSrc) :
    decodeY 0x009 (b ++ 0#1 ++ fx (encS a) ++ 0#12 : BitVec 26) = .ok (.loopr b a) := by
  obtain ⟨x, hx⟩ : ∃ x : BitVec 26, x = (b ++ 0#1 ++ fx (encS a) ++ 0#12 : BitVec 26) := ⟨_, rfl⟩
  rw [← hx]
  have h0 : fld 20 6 x = b := by subst hx; exact (app_hi _ _ _ _ (by decide)).trans ((app_hi _ _ _ _ (by decide)).trans ((app_hi _ _ _ _ (by decide)).trans (fld_all _)))
  have h1 : fld 13 6 x = (encS a).1 := by subst hx; exact (app_hi _ _ _ _ (by decide)).trans ((app_lo _ _ _ _ (by decide)).trans ((app_hi _ _ _ _ (by decide)).trans (fld_all _)))
  have h2 : fld 12 1 x = (encS a).2 := by subst hx; exact (app_hi _ _ _ _ (by decide)).trans ((app_lo _ _ _ _ (by decide)).trans ((app_lo _ _ _ _ (by decide)).trans (fld_all _)))
  have h3 : fld 19 1 x = 0#1 := by subst hx; exact (app_hi _ _ _ _ (by decide)).trans ((app_hi _ _ _ _ (by decide)).trans ((app_lo _ _ _ _ (by decide)).trans (fld_all _)))
  have h4 : fld 0 12 x = 0#12 := by subst hx; exact (app_lo _ _ _ _ (by decide)).trans (fld_all _)
  simp [decodeY, h0, h1, h2, h3, h4, checked, firstBad, encS_ok, encS_of]

theorem bar_enc (w : BitVec 3) (h : scopeLegal w = true) :
    decodeY 0x018 (eW w) = .ok (.bar w) := by
  obtain ⟨x, hx⟩ : ∃ x : BitVec 26, x = (eW w) := ⟨_, rfl⟩
  rw [← hx]
  have h0 : fld 0 3 x = w := by subst hx; exact (app_lo _ _ _ _ (by decide)).trans (fld_all _)
  have h1 : fld 3 23 x = 0#23 := by subst hx; exact (app_hi _ _ _ _ (by decide)).trans (fld_all _)
  simp [decodeY, h0, h1, checked, firstBad, h]

theorem fence_enc (w : BitVec 3) (h : fenceScopeLegal w = true) :
    decodeY 0x019 (eW w) = .ok (.fence w) := by
  obtain ⟨x, hx⟩ : ∃ x : BitVec 26, x = (eW w) := ⟨_, rfl⟩
  rw [← hx]
  have h0 : fld 0 3 x = w := by subst hx; exact (app_lo _ _ _ _ (by decide)).trans (fld_all _)
  have h1 : fld 3 23 x = 0#23 := by subst hx; exact (app_hi _ _ _ _ (by decide)).trans (fld_all _)
  simp [decodeY, h0, h1, checked, firstBad, h]

theorem trap_enc (i : BitVec 16) :
    decodeY 0x021 (0#10 ++ i : BitVec 26) = .ok (.trap i) := by
  obtain ⟨x, hx⟩ : ∃ x : BitVec 26, x = (0#10 ++ i : BitVec 26) := ⟨_, rfl⟩
  rw [← hx]
  have h0 : fld 0 16 x = i := by subst hx; exact (app_lo _ _ _ _ (by decide)).trans (fld_all _)
  have h1 : fld 16 10 x = 0#10 := by subst hx; exact (app_hi _ _ _ _ (by decide)).trans (fld_all _)
  simp [decodeY, h0, h1, checked, firstBad]

theorem crrd_enc (d : SDst) (cr : BitVec 12) (h : crLegal cr = true) :
    decodeY 0x028 (fx (encD d) ++ 0#7 ++ cr : BitVec 26) = .ok (.crrd d cr) := by
  obtain ⟨x, hx⟩ : ∃ x : BitVec 26, x = (fx (encD d) ++ 0#7 ++ cr : BitVec 26) := ⟨_, rfl⟩
  rw [← hx]
  have h0 : fld 20 6 x = (encD d).1 := by subst hx; exact (app_hi _ _ _ _ (by decide)).trans ((app_hi _ _ _ _ (by decide)).trans ((app_hi _ _ _ _ (by decide)).trans (fld_all _)))
  have h1 : fld 19 1 x = (encD d).2 := by subst hx; exact (app_hi _ _ _ _ (by decide)).trans ((app_hi _ _ _ _ (by decide)).trans ((app_lo _ _ _ _ (by decide)).trans (fld_all _)))
  have h2 : fld 0 12 x = cr := by subst hx; exact (app_lo _ _ _ _ (by decide)).trans (fld_all _)
  have h3 : fld 12 7 x = 0#7 := by subst hx; exact (app_hi _ _ _ _ (by decide)).trans ((app_lo _ _ _ _ (by decide)).trans (fld_all _))
  simp [decodeY, h0, h1, h2, h3, checked, firstBad, encD_ok, encD_of, h]

theorem crwr_enc (cr : BitVec 12) (a : SSrc) (h : crLegal cr = true) :
    decodeY 0x029 (0#7 ++ fx (encS a) ++ cr : BitVec 26) = .ok (.crwr cr a) := by
  obtain ⟨x, hx⟩ : ∃ x : BitVec 26, x = (0#7 ++ fx (encS a) ++ cr : BitVec 26) := ⟨_, rfl⟩
  rw [← hx]
  have h0 : fld 0 12 x = cr := by subst hx; exact (app_lo _ _ _ _ (by decide)).trans (fld_all _)
  have h1 : fld 13 6 x = (encS a).1 := by subst hx; exact (app_hi _ _ _ _ (by decide)).trans ((app_lo _ _ _ _ (by decide)).trans ((app_hi _ _ _ _ (by decide)).trans (fld_all _)))
  have h2 : fld 12 1 x = (encS a).2 := by subst hx; exact (app_hi _ _ _ _ (by decide)).trans ((app_lo _ _ _ _ (by decide)).trans ((app_lo _ _ _ _ (by decide)).trans (fld_all _)))
  have h3 : fld 19 7 x = 0#7 := by subst hx; exact (app_hi _ _ _ _ (by decide)).trans ((app_hi _ _ _ _ (by decide)).trans (fld_all _))
  simp [decodeY, h0, h1, h2, h3, checked, firstBad, encS_ok, encS_of, h]

end Sys2Proof.Laws
end

