-- ==== Sys2Proof/Laws/Issue.lean ====
section
/-! SUPPORT. When an instruction that issues alone takes no precise fault, and what issue then answers. -/

namespace Sys2Proof.Laws

open Sys2Proof.Machine

/-- No offence of any cause: the group takes no precise fault. -/
theorem groupFault_eq_none {c : CoreSt} {a : Addr} {g : List CoreSt.Issuing}
    (h1 : c.tokHaz g = []) (h2 : c.landColl g = []) (h3 : c.privFaults g = []) (h4 : c.loopFaults a g = [])
    (h5 : c.alignFaults g = []) (h6 : ∀ k, c.pollFaults k g = []) (h7 : c.permFaults g = []) (h8 : c.engineFaults g = []) :
    c.groupFault a g = none := by
  simp [CoreSt.groupFault, h1, h2, h3, h4, h5, h6, h7, h8]

/-- A checked group, or one that takes no precise fault, has its effect. -/
theorem issue_eq_next {s : State} {i : Instr} {eff : State → State}
    (h : s.cc.flow.checked = true ∨ s.cc.groupFault s.cc.flow.groupA (s.soloGroup i) = none) : s.issue i eff = .next (eff s) := by
  unfold State.issue
  rcases h with h | h
  · simp [h]
  · simp [h]

/-- At most one entry of a list without repeats meets a condition that no two do. -/
theorem filter_unique {α : Type} {l : List α} (p : α → Bool) (once : l.Nodup) (u : ∀ x y, p x = true → p y = true → x = y) :
    (l.filter p).length ≤ 1 := by
  match e : l.filter p with
  | [] => exact Nat.zero_le 1
  | [_] => exact Nat.le_refl 1
  | x :: y :: r =>
    have both : x ∈ l.filter p ∧ y ∈ l.filter p := by rw [e]; simp
    have apart : (x :: y :: r).Nodup := e ▸ once.filter p
    have := u x y (List.mem_filter.mp both.1).2 (List.mem_filter.mp both.2).2
    simp [this] at apart

/-- Registers that are not pending make no TOKHAZ. -/
theorem tokHaz_solo {i : Instr} {c : CoreSt} {k : Nat} {b : Addr}
    (h : ∀ n ∈ i.dests ++ i.srcs, ∀ p ∈ c.flow.pending, p.dest = n.2 → i.queue = some p.queue ∧ p.queue ≠ .mem) :
    c.tokHaz [{ slot := k, op := i, bundle := b }] = [] := by
  unfold CoreSt.tokHaz
  simp only [List.filterMap_cons, List.filterMap_nil]
  rw [List.find?_eq_none.mpr fun n hn => ?_]
  · rfl
  · rw [Bool.not_eq_true, List.any_eq_false]
    intro p hp
    by_cases e : p.dest = n.2
    · have := h n hn p hp e
      simp [this.1, this.2]
    · simp [e]

/-- Results that land alone make no LANDCOLL. -/
theorem landColl_solo {i : Instr} {c : CoreSt} {k : Nat} {b : Addr}
    (hn : (destsOf i).Nodup) (hc : ∀ q, ((i.dests.filter fun n => CoreSt.destCluster n.2 = some q).length ≤ 1))
    (h : ∀ n ∈ i.dests, i.latency (c.classB && !c.ctrl.compat) ≠ 0 →
      (∀ f ∈ c.flow.flight, f.due - f.lag = c.flow.cyc + i.latency (c.classB && !c.ctrl.compat) → n.2 ∉ f.dests) ∧
      (∀ q, CoreSt.destCluster n.2 = some q → (((c.flow.flight.flatMap fun f => f.dests.map fun d => (d, f.due - f.lag)).filter fun x =>
        decide (CoreSt.destCluster x.1 = some q ∧ x.2 = c.flow.cyc + i.latency (c.classB && !c.ctrl.compat))).length ≤ 1))) :
    c.landColl [{ slot := k, op := i, bundle := b }] = [] := by
  let lat := i.latency (c.classB && !c.ctrl.compat)
  let own := i.dests.map fun n => (k, n.1, n.2, c.flow.cyc + lat)
  let flying := c.flow.flight.flatMap fun f => f.dests.map fun d => (d, f.due - f.lag)
  have once (n : Named) : (own.filter fun m => decide (m.2.2.1 = n.2 ∧ m.2.2.2 = c.flow.cyc + lat)).length ≤ 1 := by
    simpa [own, destsOf, List.filter_map, Function.comp_def] using
      filter_unique (fun y => decide (y = n.2)) hn fun x y hx hy => (of_decide_eq_true hx).trans (of_decide_eq_true hy).symm
  have near (q : Nat) : (own.filter fun m => decide (CoreSt.destCluster m.2.2.1 = some q ∧ m.2.2.2 = c.flow.cyc + lat)).length ≤ 1 := by
    simpa [own, List.filter_map, Function.comp_def] using hc q
  have alone (n : Named) (at_ : n ∈ i.dests) (moves : lat ≠ 0) : flying.any (fun f => decide (f.1 = n.2 ∧ f.2 = c.flow.cyc + lat)) = false :=
    List.any_eq_false.mpr fun x hx same => by
      have ⟨f, hf, d, hd, e⟩ : ∃ f ∈ c.flow.flight, ∃ d ∈ f.dests, (d, f.due - f.lag) = x := by simpa [flying] using hx
      have ⟨reg, time⟩ := of_decide_eq_true same
      subst e
      exact (h n at_ moves).1 f hf time (reg ▸ hd)
  unfold CoreSt.landColl
  refine List.filterMap_eq_nil_iff.mpr fun l hl => ?_
  simp only [CoreSt.landings, List.flatMap_cons, List.flatMap_nil, List.append_nil] at hl ⊢
  by_cases moves : lat = 0
  · simp [lat] at moves; simp [moves] at hl
  · rw [if_neg moves] at hl ⊢
    obtain ⟨n, at_, rfl⟩ := List.mem_map.mp hl
    have few : ¬ 1 < (own.filter fun m => decide (m.2.2.1 = n.2 ∧ m.2.2.2 = c.flow.cyc + lat)).length := Nat.not_lt.mpr (once n)
    simp only [alone n at_ moves, few, own, flying, lat, decide_false, Bool.or_false, Bool.false_or] at few ⊢
    match e : CoreSt.destCluster n.2 with
    | none => simp
    | some q =>
      have total := Nat.add_le_add (near q) ((h n at_ moves).2 q e)
      exact if_neg (by simp only [decide_eq_true_eq]; exact Nat.not_lt.mpr total)

theorem clustersOf_nodup : ∀ g : BitVec 4, (clustersOf g).Nodup := by decide

theorem vdst_nodup (d : VDst) (f : Nat) (g : BitVec 4) : ((d.named f (clustersOf g)).map (·.2)).Nodup := by
  have h := clustersOf_nodup g
  cases d <;> simp only [VDst.named, List.map_map] <;>
    exact h.map (fun a b e => by simpa using e)

theorem kNamed_nodup (f : Nat) (g : BitVec 4) (k : BitVec 3) : ((kNamed f (clustersOf g) k).map (·.2)).Nodup := by
  have h := clustersOf_nodup g
  simp only [kNamed, List.map_map]
  exact h.map (fun a b e => by simpa using e)

theorem sdst_nodup (d : SDst) (f : Nat) : ((d.named f).map (·.2)).Nodup := by
  cases d <;> simp only [SDst.named] <;> (try split) <;> simp

/-- At most one of a vector result's destinations lies in a cluster. -/
theorem vdst_cluster (d : VDst) (f : Nat) (g : BitVec 4) (q : Nat) :
    (((d.named f (clustersOf g)).filter fun n => CoreSt.destCluster n.2 = some q).length ≤ 1) := by
  have h := filter_unique (fun y => decide (y = q)) (clustersOf_nodup g)
    (fun x y hx hy => (of_decide_eq_true hx).trans (of_decide_eq_true hy).symm)
  cases d <;> simpa [VDst.named, List.filter_map, CoreSt.destCluster, Function.comp_def] using h

/-- A scalar result lands in no cluster. -/
theorem sdst_cluster (d : SDst) (f : Nat) (q : Nat) :
    (((d.named f).filter fun n => CoreSt.destCluster n.2 = some q).length ≤ 1) := by
  cases d <;> simp only [SDst.named] <;> (try split) <;> simp [CoreSt.destCluster]

/-- A mask lands in no cluster's count. -/
theorem kNamed_cluster (f : Nat) (g : BitVec 4) (k : BitVec 3) (q : Nat) :
    (((kNamed f (clustersOf g) k).filter fun n => CoreSt.destCluster n.2 = some q).length ≤ 1) := by
  simp [kNamed, List.filter_map, CoreSt.destCluster, Function.comp_def]

/-- Destinations that are different registers, at most one of them in a cluster's count. -/
def Apart (l : List Named) : Prop :=
  (l.map (·.2)).Nodup ∧ ∀ q, ((l.filter fun n => CoreSt.destCluster n.2 = some q).length ≤ 1)

theorem apart_sdst (d : SDst) (f : Nat) : Apart (d.named f) := ⟨sdst_nodup d f, sdst_cluster d f⟩
theorem apart_vdst (d : VDst) (f : Nat) (g : BitVec 4) : Apart (d.named f (clustersOf g)) := ⟨vdst_nodup d f g, vdst_cluster d f g⟩
theorem apart_k (f : Nat) (g : BitVec 4) (k : BitVec 3) : Apart (kNamed f (clustersOf g) k) := ⟨kNamed_nodup f g k, kNamed_cluster f g k⟩
theorem apart_nil : Apart [] := ⟨by simp, by simp⟩
theorem apart_one (f : Nat) (d : Dest) : Apart [(f, d)] := by
  refine ⟨by simp, fun q => ?_⟩
  simp only [List.filter_cons, List.filter_nil]; split <;> simp
theorem apart_an (f : Nat) (a : Nat) : Apart [(f, .a a), (f, .n a)] := by
  refine ⟨by simp, fun q => ?_⟩
  simp [CoreSt.destCluster]
theorem apart_preds (f : Nat) : Apart ((List.range 7).map fun k => (f, .pair (k + 1))) := by
  refine ⟨?_, fun q => by simp [List.filter_map, CoreSt.destCluster, Function.comp_def]⟩
  simp only [List.map_map]
  exact List.nodup_range.map (fun a b e => by simpa using e)
theorem apart_all (f n : Nat) : Apart ((List.range 8).map fun c => (f, .v c n)) :=
  ⟨by simpa [Function.comp_def] using List.Nodup.map (f := fun c => Dest.v c n) (fun _ _ e => (Dest.v.inj e).1) List.nodup_range, fun q => by
    simpa [List.filter_map, CoreSt.destCluster, Function.comp_def] using
      filter_unique (fun y => decide (y = q)) (List.nodup_range (n := 8)) fun x y hx hy => (of_decide_eq_true hx).trans (of_decide_eq_true hy).symm⟩

/-- The destinations of a fixed-latency result are apart. -/
theorem dests_apart (i : Instr) (b : Bool) (hb : i.latency b ≠ 0) : Apart i.dests := by
  cases i
  all_goals first
    | exact absurd rfl hb
    | exact apart_sdst _ _
    | exact apart_one _ _
    | exact apart_an _ _
    | exact apart_nil
    | exact apart_vdst _ _ _
    | exact apart_k _ _ _
    | exact apart_preds _
    | exact apart_all _ _

/-- No poll, no fault of one. -/
theorem pollFaults_solo {i : Instr} {c : CoreSt} {k : Nat} {b : Addr} {q : Cause}
    (h : c.reached.pollFault = none ∨ ∀ p x y t, i ≠ .waitph p x y t ∧ i ≠ .waitbit p x y t) :
    c.pollFaults q [{ slot := k, op := i, bundle := b }] = [] := by
  unfold CoreSt.pollFaults
  rcases h with quiet | other
  · rw [quiet]
  · cases c.reached.pollFault with
    | none => rfl
    | some t =>
      refine ite_eq_right_iff.mpr fun _ => ?_
      cases i
      case waitph p x y t => exact ((other p x y t).1 rfl).elim
      case waitbit p x y t => exact ((other p x y t).2 rfl).elim
      all_goals rfl

/-- Aligned addresses make no ALIGN. -/
theorem alignFaults_solo {i : Instr} {c : CoreSt} {k : Nat} {b : Addr}
    (hl : ∀ x n al f, c.localAccess i = some (x, n, al, f) → x.toNat % al = 0) (ha : ∀ x ∈ c.aligned i, x.1.toNat % x.2.1 = 0) :
    c.alignFaults [{ slot := k, op := i, bundle := b }] = [] := by
  unfold CoreSt.alignFaults
  simp only [List.filterMap_cons, List.filterMap_nil]
  rw [List.find?_eq_none.mpr]
  · rfl
  · intro x hx
    rw [List.mem_append] at hx
    simp only [decide_eq_true_eq, Classical.not_not]
    refine hx.elim (fun here => ?_) (ha x)
    match e : c.localAccess i with
    | none => rw [e] at here; cases here
    | some (addr, size, al, lost) =>
      rw [e] at here
      rw [List.mem_singleton.mp here]
      exact hl addr size al lost e

/-- A scratchpad access inside the 2 MiB makes no PERM. -/
theorem permFaults_solo {i : Instr} {c : CoreSt} {k : Nat} {b : Addr}
    (hl : ∀ x n al f, c.localAccess i = some (x, n, al, f) → x.toNat + n ≤ Config.spadBytes) :
    c.permFaults [{ slot := k, op := i, bundle := b }] = [] := by
  unfold CoreSt.permFaults
  simp only [List.filterMap_cons, List.filterMap_nil]
  cases e : c.localAccess i with
  | none => rfl
  | some y =>
    obtain ⟨x, n, al, f⟩ := y
    have := hl _ _ _ _ e
    have h : CoreSt.past x n = false := by simp [CoreSt.past]; omega
    simp [h]

/-- An instruction that issues alone takes no precise fault: none of its registers is pending, its results land alone, and it meets
none of the faults of its own form. -/
theorem groupFault_solo {i : Instr} {c : CoreSt} {k : Nat} {a b : Addr}
    (h1 : ∀ n ∈ i.dests ++ i.srcs, ∀ p ∈ c.flow.pending, p.dest = n.2 → i.queue = some p.queue ∧ p.queue ≠ .mem)
    (h2 : ∀ n ∈ i.dests, i.latency (c.classB && !c.ctrl.compat) ≠ 0 →
      (∀ f ∈ c.flow.flight, f.due - f.lag = c.flow.cyc + i.latency (c.classB && !c.ctrl.compat) → n.2 ∉ f.dests) ∧
      (∀ q, CoreSt.destCluster n.2 = some q → (((c.flow.flight.flatMap fun f => f.dests.map fun d => (d, f.due - f.lag)).filter fun x =>
        decide (CoreSt.destCluster x.1 = some q ∧ x.2 = c.flow.cyc + i.latency (c.classB && !c.ctrl.compat))).length ≤ 1)))
    (h3 : c.privFaults [{ slot := k, op := i, bundle := b }] = []) (h4 : c.loopFaults a [{ slot := k, op := i, bundle := b }] = [])
    (h5 : ∀ x n al f, c.localAccess i = some (x, n, al, f) → x.toNat % al = 0 ∧ x.toNat + n ≤ Config.spadBytes)
    (h6 : ∀ x ∈ c.aligned i, x.1.toNat % x.2.1 = 0)
    (h7 : c.reached.pollFault = none ∨ ∀ p x y t, i ≠ .waitph p x y t ∧ i ≠ .waitbit p x y t)
    (h8 : c.engineFaults [{ slot := k, op := i, bundle := b }] = []) :
    c.groupFault a [{ slot := k, op := i, bundle := b }] = none := by
  refine groupFault_eq_none (tokHaz_solo h1) ?_ h3 h4 (alignFaults_solo (fun x n al f e => (h5 x n al f e).1) h6)
    (fun q => pollFaults_solo h7) (permFaults_solo fun x n al f e => (h5 x n al f e).2) h8
  by_cases hz : i.latency (c.classB && !c.ctrl.compat) = 0
  · simp [CoreSt.landColl, CoreSt.landings, hz]
  · exact landColl_solo (dests_apart i _ hz).1 (dests_apart i _ hz).2 h2

end Sys2Proof.Laws
end

