-- ==== Sys2Proof/Laws/State.lean ====
section
/-! SUPPORT. One lemma for each field under each update of the state, of a core and of its files, and what a core or a partition
reads as after a replacement. -/

namespace Sys2Proof.Machine

@[simp] theorem State.setCore_ord (s : State) (g : Nat) (c : CoreSt) : (s.setCore g c).ord = s.ord := rfl
@[simp] theorem State.setCore_hub (s : State) (g : Nat) (c : CoreSt) : (s.setCore g c).hub = s.hub := rfl
@[simp] theorem State.setCore_pkg (s : State) (g : Nat) (c : CoreSt) : (s.setCore g c).pkg = s.pkg := rfl
@[simp] theorem State.setCore_time (s : State) (g : Nat) (c : CoreSt) : (s.setCore g c).time = s.time := rfl
@[simp] theorem State.setCore_dieTime (s : State) (g : Nat) (c : CoreSt) : (s.setCore g c).dieTime = s.dieTime := rfl
@[simp] theorem State.setCore_dieTlb (s : State) (g : Nat) (c : CoreSt) : (s.setCore g c).dieTlb = s.dieTlb := rfl
@[simp] theorem State.setCore_cur (s : State) (g : Nat) (c : CoreSt) : (s.setCore g c).cur = s.cur := rfl
@[simp] theorem State.setCore_agenda (s : State) (g : Nat) (c : CoreSt) : (s.setCore g c).agenda = s.agenda := rfl
@[simp] theorem State.setCore_tick (s : State) (g : Nat) (c : CoreSt) : (s.setCore g c).tick = s.tick := rfl
@[simp] theorem State.onCore_ord (s : State) (g : Nat) (f : CoreSt → CoreSt) : (s.onCore g f).ord = s.ord := rfl
@[simp] theorem State.onCore_hub (s : State) (g : Nat) (f : CoreSt → CoreSt) : (s.onCore g f).hub = s.hub := rfl
@[simp] theorem State.onCore_pkg (s : State) (g : Nat) (f : CoreSt → CoreSt) : (s.onCore g f).pkg = s.pkg := rfl
@[simp] theorem State.onCore_time (s : State) (g : Nat) (f : CoreSt → CoreSt) : (s.onCore g f).time = s.time := rfl
@[simp] theorem State.onCore_dieTime (s : State) (g : Nat) (f : CoreSt → CoreSt) : (s.onCore g f).dieTime = s.dieTime := rfl
@[simp] theorem State.onCore_dieTlb (s : State) (g : Nat) (f : CoreSt → CoreSt) : (s.onCore g f).dieTlb = s.dieTlb := rfl
@[simp] theorem State.onCore_cur (s : State) (g : Nat) (f : CoreSt → CoreSt) : (s.onCore g f).cur = s.cur := rfl
@[simp] theorem State.onCore_agenda (s : State) (g : Nat) (f : CoreSt → CoreSt) : (s.onCore g f).agenda = s.agenda := rfl
@[simp] theorem State.onCore_tick (s : State) (g : Nat) (f : CoreSt → CoreSt) : (s.onCore g f).tick = s.tick := rfl
@[simp] theorem State.onCur_ord (s : State) (f : CoreSt → CoreSt) : (s.onCur f).ord = s.ord := rfl
@[simp] theorem State.onCur_hub (s : State) (f : CoreSt → CoreSt) : (s.onCur f).hub = s.hub := rfl
@[simp] theorem State.onCur_pkg (s : State) (f : CoreSt → CoreSt) : (s.onCur f).pkg = s.pkg := rfl
@[simp] theorem State.onCur_time (s : State) (f : CoreSt → CoreSt) : (s.onCur f).time = s.time := rfl
@[simp] theorem State.onCur_dieTime (s : State) (f : CoreSt → CoreSt) : (s.onCur f).dieTime = s.dieTime := rfl
@[simp] theorem State.onCur_dieTlb (s : State) (f : CoreSt → CoreSt) : (s.onCur f).dieTlb = s.dieTlb := rfl
@[simp] theorem State.onCur_cur (s : State) (f : CoreSt → CoreSt) : (s.onCur f).cur = s.cur := rfl
@[simp] theorem State.onCur_agenda (s : State) (f : CoreSt → CoreSt) : (s.onCur f).agenda = s.agenda := rfl
@[simp] theorem State.onCur_tick (s : State) (f : CoreSt → CoreSt) : (s.onCur f).tick = s.tick := rfl
@[simp] theorem State.setPart_cores (s : State) (p : Nat) (x : Part) : (s.setPart p x).cores = s.cores := rfl
@[simp] theorem State.setPart_ord (s : State) (p : Nat) (x : Part) : (s.setPart p x).ord = s.ord := rfl
@[simp] theorem State.setPart_pkg (s : State) (p : Nat) (x : Part) : (s.setPart p x).pkg = s.pkg := rfl
@[simp] theorem State.setPart_time (s : State) (p : Nat) (x : Part) : (s.setPart p x).time = s.time := rfl
@[simp] theorem State.setPart_dieTime (s : State) (p : Nat) (x : Part) : (s.setPart p x).dieTime = s.dieTime := rfl
@[simp] theorem State.setPart_dieTlb (s : State) (p : Nat) (x : Part) : (s.setPart p x).dieTlb = s.dieTlb := rfl
@[simp] theorem State.setPart_cur (s : State) (p : Nat) (x : Part) : (s.setPart p x).cur = s.cur := rfl
@[simp] theorem State.setPart_agenda (s : State) (p : Nat) (x : Part) : (s.setPart p x).agenda = s.agenda := rfl
@[simp] theorem State.setPart_tick (s : State) (p : Nat) (x : Part) : (s.setPart p x).tick = s.tick := rfl
@[simp] theorem State.onPart_cores (s : State) (p : Nat) (f : Part → Part) : (s.onPart p f).cores = s.cores := rfl
@[simp] theorem State.onPart_ord (s : State) (p : Nat) (f : Part → Part) : (s.onPart p f).ord = s.ord := rfl
@[simp] theorem State.onPart_pkg (s : State) (p : Nat) (f : Part → Part) : (s.onPart p f).pkg = s.pkg := rfl
@[simp] theorem State.onPart_time (s : State) (p : Nat) (f : Part → Part) : (s.onPart p f).time = s.time := rfl
@[simp] theorem State.onPart_dieTime (s : State) (p : Nat) (f : Part → Part) : (s.onPart p f).dieTime = s.dieTime := rfl
@[simp] theorem State.onPart_dieTlb (s : State) (p : Nat) (f : Part → Part) : (s.onPart p f).dieTlb = s.dieTlb := rfl
@[simp] theorem State.onPart_cur (s : State) (p : Nat) (f : Part → Part) : (s.onPart p f).cur = s.cur := rfl
@[simp] theorem State.onPart_agenda (s : State) (p : Nat) (f : Part → Part) : (s.onPart p f).agenda = s.agenda := rfl
@[simp] theorem State.onPart_tick (s : State) (p : Nat) (f : Part → Part) : (s.onPart p f).tick = s.tick := rfl
@[simp] theorem State.onOrd_cores (s : State) (f : Order → Order) : (s.onOrd f).cores = s.cores := rfl
@[simp] theorem State.onOrd_hub (s : State) (f : Order → Order) : (s.onOrd f).hub = s.hub := rfl
@[simp] theorem State.onOrd_pkg (s : State) (f : Order → Order) : (s.onOrd f).pkg = s.pkg := rfl
@[simp] theorem State.onOrd_time (s : State) (f : Order → Order) : (s.onOrd f).time = s.time := rfl
@[simp] theorem State.onOrd_dieTime (s : State) (f : Order → Order) : (s.onOrd f).dieTime = s.dieTime := rfl
@[simp] theorem State.onOrd_dieTlb (s : State) (f : Order → Order) : (s.onOrd f).dieTlb = s.dieTlb := rfl
@[simp] theorem State.onOrd_cur (s : State) (f : Order → Order) : (s.onOrd f).cur = s.cur := rfl
@[simp] theorem State.onOrd_agenda (s : State) (f : Order → Order) : (s.onOrd f).agenda = s.agenda := rfl
@[simp] theorem State.onOrd_tick (s : State) (f : Order → Order) : (s.onOrd f).tick = s.tick := rfl
@[simp] theorem State.onQueue_cores (s : State) (q : Nat) (f : Queue → Queue) : (s.onQueue q f).cores = s.cores := rfl
@[simp] theorem State.onQueue_ord (s : State) (q : Nat) (f : Queue → Queue) : (s.onQueue q f).ord = s.ord := rfl
@[simp] theorem State.onQueue_pkg (s : State) (q : Nat) (f : Queue → Queue) : (s.onQueue q f).pkg = s.pkg := rfl
@[simp] theorem State.onQueue_time (s : State) (q : Nat) (f : Queue → Queue) : (s.onQueue q f).time = s.time := rfl
@[simp] theorem State.onQueue_dieTime (s : State) (q : Nat) (f : Queue → Queue) : (s.onQueue q f).dieTime = s.dieTime := rfl
@[simp] theorem State.onQueue_dieTlb (s : State) (q : Nat) (f : Queue → Queue) : (s.onQueue q f).dieTlb = s.dieTlb := rfl
@[simp] theorem State.onQueue_cur (s : State) (q : Nat) (f : Queue → Queue) : (s.onQueue q f).cur = s.cur := rfl
@[simp] theorem State.onQueue_agenda (s : State) (q : Nat) (f : Queue → Queue) : (s.onQueue q f).agenda = s.agenda := rfl
@[simp] theorem State.onQueue_tick (s : State) (q : Nat) (f : Queue → Queue) : (s.onQueue q f).tick = s.tick := rfl
@[simp] theorem State.onHub_cores (s : State) (f : Hub → Hub) : (s.onHub f).cores = s.cores := rfl
@[simp] theorem State.onHub_ord (s : State) (f : Hub → Hub) : (s.onHub f).ord = s.ord := rfl
@[simp] theorem State.onHub_pkg (s : State) (f : Hub → Hub) : (s.onHub f).pkg = s.pkg := rfl
@[simp] theorem State.onHub_time (s : State) (f : Hub → Hub) : (s.onHub f).time = s.time := rfl
@[simp] theorem State.onHub_dieTime (s : State) (f : Hub → Hub) : (s.onHub f).dieTime = s.dieTime := rfl
@[simp] theorem State.onHub_dieTlb (s : State) (f : Hub → Hub) : (s.onHub f).dieTlb = s.dieTlb := rfl
@[simp] theorem State.onHub_cur (s : State) (f : Hub → Hub) : (s.onHub f).cur = s.cur := rfl
@[simp] theorem State.onHub_agenda (s : State) (f : Hub → Hub) : (s.onHub f).agenda = s.agenda := rfl
@[simp] theorem State.onHub_tick (s : State) (f : Hub → Hub) : (s.onHub f).tick = s.tick := rfl
@[simp] theorem State.onPkg_cores (s : State) (f : Package → Package) : (s.onPkg f).cores = s.cores := rfl
@[simp] theorem State.onPkg_ord (s : State) (f : Package → Package) : (s.onPkg f).ord = s.ord := rfl
@[simp] theorem State.onPkg_hub (s : State) (f : Package → Package) : (s.onPkg f).hub = s.hub := rfl
@[simp] theorem State.onPkg_time (s : State) (f : Package → Package) : (s.onPkg f).time = s.time := rfl
@[simp] theorem State.onPkg_dieTime (s : State) (f : Package → Package) : (s.onPkg f).dieTime = s.dieTime := rfl
@[simp] theorem State.onPkg_dieTlb (s : State) (f : Package → Package) : (s.onPkg f).dieTlb = s.dieTlb := rfl
@[simp] theorem State.onPkg_cur (s : State) (f : Package → Package) : (s.onPkg f).cur = s.cur := rfl
@[simp] theorem State.onPkg_agenda (s : State) (f : Package → Package) : (s.onPkg f).agenda = s.agenda := rfl
@[simp] theorem State.onPkg_tick (s : State) (f : Package → Package) : (s.onPkg f).tick = s.tick := rfl
@[simp] theorem State.setHubCopy_cores (s : State) (h : Option HubCopy) : (s.setHubCopy h).cores = s.cores := rfl
@[simp] theorem State.setHubCopy_ord (s : State) (h : Option HubCopy) : (s.setHubCopy h).ord = s.ord := rfl
@[simp] theorem State.setHubCopy_pkg (s : State) (h : Option HubCopy) : (s.setHubCopy h).pkg = s.pkg := rfl
@[simp] theorem State.setHubCopy_time (s : State) (h : Option HubCopy) : (s.setHubCopy h).time = s.time := rfl
@[simp] theorem State.setHubCopy_dieTime (s : State) (h : Option HubCopy) : (s.setHubCopy h).dieTime = s.dieTime := rfl
@[simp] theorem State.setHubCopy_dieTlb (s : State) (h : Option HubCopy) : (s.setHubCopy h).dieTlb = s.dieTlb := rfl
@[simp] theorem State.setHubCopy_cur (s : State) (h : Option HubCopy) : (s.setHubCopy h).cur = s.cur := rfl
@[simp] theorem State.setHubCopy_agenda (s : State) (h : Option HubCopy) : (s.setHubCopy h).agenda = s.agenda := rfl
@[simp] theorem State.setHubCopy_tick (s : State) (h : Option HubCopy) : (s.setHubCopy h).tick = s.tick := rfl
@[simp] theorem State.setBank_cores (s : State) (d b : Nat) (x : Bank) : (s.setBank d b x).cores = s.cores := rfl
@[simp] theorem State.setBank_ord (s : State) (d b : Nat) (x : Bank) : (s.setBank d b x).ord = s.ord := rfl
@[simp] theorem State.setBank_pkg (s : State) (d b : Nat) (x : Bank) : (s.setBank d b x).pkg = s.pkg := rfl
@[simp] theorem State.setBank_time (s : State) (d b : Nat) (x : Bank) : (s.setBank d b x).time = s.time := rfl
@[simp] theorem State.setBank_dieTime (s : State) (d b : Nat) (x : Bank) : (s.setBank d b x).dieTime = s.dieTime := rfl
@[simp] theorem State.setBank_dieTlb (s : State) (d b : Nat) (x : Bank) : (s.setBank d b x).dieTlb = s.dieTlb := rfl
@[simp] theorem State.setBank_cur (s : State) (d b : Nat) (x : Bank) : (s.setBank d b x).cur = s.cur := rfl
@[simp] theorem State.setBank_agenda (s : State) (d b : Nat) (x : Bank) : (s.setBank d b x).agenda = s.agenda := rfl
@[simp] theorem State.setBank_tick (s : State) (d b : Nat) (x : Bank) : (s.setBank d b x).tick = s.tick := rfl
@[simp] theorem State.onOrd_ord (s : State) (f : Order → Order) : (s.onOrd f).ord = f s.ord := rfl
@[simp] theorem State.onHub_hub (s : State) (f : Hub → Hub) : (s.onHub f).hub = f s.hub := rfl
@[simp] theorem State.onPkg_pkg (s : State) (f : Package → Package) : (s.onPkg f).pkg = f s.pkg := rfl
@[simp] theorem CoreSt.setClus_ctrl (c : CoreSt) (i : Nat) (x : Cluster) : (c.setClus i x).ctrl = c.ctrl := rfl
@[simp] theorem CoreSt.setClus_xc (c : CoreSt) (i : Nat) (x : Cluster) : (c.setClus i x).xc = c.xc := rfl
@[simp] theorem CoreSt.setClus_dom (c : CoreSt) (i : Nat) (x : Cluster) : (c.setClus i x).dom = c.dom := rfl
@[simp] theorem CoreSt.setClus_flow (c : CoreSt) (i : Nat) (x : Cluster) : (c.setClus i x).flow = c.flow := rfl
@[simp] theorem CoreSt.setClus_pc (c : CoreSt) (i : Nat) (x : Cluster) : (c.setClus i x).pc = c.pc := rfl
@[simp] theorem CoreSt.setClus_pcHigh (c : CoreSt) (i : Nat) (x : Cluster) : (c.setClus i x).pcHigh = c.pcHigh := rfl
@[simp] theorem CoreSt.setClus_next (c : CoreSt) (i : Nat) (x : Cluster) : (c.setClus i x).next = c.next := rfl
@[simp] theorem CoreSt.setClus_reached (c : CoreSt) (i : Nat) (x : Cluster) : (c.setClus i x).reached = c.reached := rfl
@[simp] theorem CoreSt.setClus_status (c : CoreSt) (i : Nat) (x : Cluster) : (c.setClus i x).status = c.status := rfl
@[simp] theorem CoreSt.setClus_step (c : CoreSt) (i : Nat) (x : Cluster) : (c.setClus i x).step = c.step := rfl
@[simp] theorem CoreSt.setClus_req (c : CoreSt) (i : Nat) (x : Cluster) : (c.setClus i x).req = c.req := rfl
@[simp] theorem CoreSt.setClus_dbg (c : CoreSt) (i : Nat) (x : Cluster) : (c.setClus i x).dbg = c.dbg := rfl
@[simp] theorem CoreSt.setClus_classB (c : CoreSt) (i : Nat) (x : Cluster) : (c.setClus i x).classB = c.classB := rfl
@[simp] theorem CoreSt.setClus_banks (c : CoreSt) (i : Nat) (x : Cluster) : (c.setClus i x).banks = c.banks := rfl
@[simp] theorem CoreSt.setClus_resvCyc (c : CoreSt) (i : Nat) (x : Cluster) : (c.setClus i x).resvCyc = c.resvCyc := rfl
@[simp] theorem CoreSt.setClus_logical (c : CoreSt) (i : Nat) (x : Cluster) : (c.setClus i x).logical = c.logical := rfl
@[simp] theorem CoreSt.setClus_throttleNs (c : CoreSt) (i : Nat) (x : Cluster) : (c.setClus i x).throttleNs = c.throttleNs := rfl
@[simp] theorem CoreSt.setClus_tlb (c : CoreSt) (i : Nat) (x : Cluster) : (c.setClus i x).tlb = c.tlb := rfl
@[simp] theorem CoreSt.setClus_files_s (c : CoreSt) (i : Nat) (x : Cluster) : (c.setClus i x).files.s = c.files.s := rfl
@[simp] theorem CoreSt.setClus_files_sl (c : CoreSt) (i : Nat) (x : Cluster) : (c.setClus i x).files.sl = c.files.sl := rfl
@[simp] theorem CoreSt.setClus_files_slLost (c : CoreSt) (i : Nat) (x : Cluster) : (c.setClus i x).files.slLost = c.files.slLost := rfl
@[simp] theorem CoreSt.setClus_files_p (c : CoreSt) (i : Nat) (x : Cluster) : (c.setClus i x).files.p = c.files.p := rfl
@[simp] theorem CoreSt.setClus_files_t (c : CoreSt) (i : Nat) (x : Cluster) : (c.setClus i x).files.t = c.files.t := rfl
@[simp] theorem CoreSt.setClus_files_accMain (c : CoreSt) (i : Nat) (x : Cluster) : (c.setClus i x).files.accMain = c.files.accMain := rfl
@[simp] theorem CoreSt.setClus_files_accPart (c : CoreSt) (i : Nat) (x : Cluster) : (c.setClus i x).files.accPart = c.files.accPart := rfl
@[simp] theorem CoreSt.setClus_files_openAcc (c : CoreSt) (i : Nat) (x : Cluster) : (c.setClus i x).files.openAcc = c.files.openAcc := rfl
@[simp] theorem CoreSt.setClus_files_wbCodes (c : CoreSt) (i : Nat) (x : Cluster) : (c.setClus i x).files.wbCodes = c.files.wbCodes := rfl
@[simp] theorem CoreSt.setClus_files_wbScales (c : CoreSt) (i : Nat) (x : Cluster) : (c.setClus i x).files.wbScales = c.files.wbScales := rfl
@[simp] theorem CoreSt.setClus_files_ma (c : CoreSt) (i : Nat) (x : Cluster) : (c.setClus i x).files.ma = c.files.ma := rfl
@[simp] theorem CoreSt.setClus_files_a (c : CoreSt) (i : Nat) (x : Cluster) : (c.setClus i x).files.a = c.files.a := rfl
@[simp] theorem CoreSt.setClus_files_n (c : CoreSt) (i : Nat) (x : Cluster) : (c.setClus i x).files.n = c.files.n := rfl
@[simp] theorem CoreSt.setClus_files_c (c : CoreSt) (i : Nat) (x : Cluster) : (c.setClus i x).files.c = c.files.c := rfl
@[simp] theorem CoreSt.setClus_files_spad (c : CoreSt) (i : Nat) (x : Cluster) : (c.setClus i x).files.spad = c.files.spad := rfl
@[simp] theorem CoreSt.setSlatch_ctrl (c : CoreSt) (k : Nat) (x : W64) : (c.setSlatch k x).ctrl = c.ctrl := rfl
@[simp] theorem CoreSt.setSlatch_xc (c : CoreSt) (k : Nat) (x : W64) : (c.setSlatch k x).xc = c.xc := rfl
@[simp] theorem CoreSt.setSlatch_dom (c : CoreSt) (k : Nat) (x : W64) : (c.setSlatch k x).dom = c.dom := rfl
@[simp] theorem CoreSt.setSlatch_flow (c : CoreSt) (k : Nat) (x : W64) : (c.setSlatch k x).flow = c.flow := rfl
@[simp] theorem CoreSt.setSlatch_pc (c : CoreSt) (k : Nat) (x : W64) : (c.setSlatch k x).pc = c.pc := rfl
@[simp] theorem CoreSt.setSlatch_pcHigh (c : CoreSt) (k : Nat) (x : W64) : (c.setSlatch k x).pcHigh = c.pcHigh := rfl
@[simp] theorem CoreSt.setSlatch_next (c : CoreSt) (k : Nat) (x : W64) : (c.setSlatch k x).next = c.next := rfl
@[simp] theorem CoreSt.setSlatch_reached (c : CoreSt) (k : Nat) (x : W64) : (c.setSlatch k x).reached = c.reached := rfl
@[simp] theorem CoreSt.setSlatch_status (c : CoreSt) (k : Nat) (x : W64) : (c.setSlatch k x).status = c.status := rfl
@[simp] theorem CoreSt.setSlatch_step (c : CoreSt) (k : Nat) (x : W64) : (c.setSlatch k x).step = c.step := rfl
@[simp] theorem CoreSt.setSlatch_req (c : CoreSt) (k : Nat) (x : W64) : (c.setSlatch k x).req = c.req := rfl
@[simp] theorem CoreSt.setSlatch_dbg (c : CoreSt) (k : Nat) (x : W64) : (c.setSlatch k x).dbg = c.dbg := rfl
@[simp] theorem CoreSt.setSlatch_classB (c : CoreSt) (k : Nat) (x : W64) : (c.setSlatch k x).classB = c.classB := rfl
@[simp] theorem CoreSt.setSlatch_banks (c : CoreSt) (k : Nat) (x : W64) : (c.setSlatch k x).banks = c.banks := rfl
@[simp] theorem CoreSt.setSlatch_resvCyc (c : CoreSt) (k : Nat) (x : W64) : (c.setSlatch k x).resvCyc = c.resvCyc := rfl
@[simp] theorem CoreSt.setSlatch_logical (c : CoreSt) (k : Nat) (x : W64) : (c.setSlatch k x).logical = c.logical := rfl
@[simp] theorem CoreSt.setSlatch_throttleNs (c : CoreSt) (k : Nat) (x : W64) : (c.setSlatch k x).throttleNs = c.throttleNs := rfl
@[simp] theorem CoreSt.setSlatch_tlb (c : CoreSt) (k : Nat) (x : W64) : (c.setSlatch k x).tlb = c.tlb := rfl
@[simp] theorem CoreSt.setSlatch_files_s (c : CoreSt) (k : Nat) (x : W64) : (c.setSlatch k x).files.s = c.files.s := rfl
@[simp] theorem CoreSt.setSlatch_files_p (c : CoreSt) (k : Nat) (x : W64) : (c.setSlatch k x).files.p = c.files.p := rfl
@[simp] theorem CoreSt.setSlatch_files_cl (c : CoreSt) (k : Nat) (x : W64) : (c.setSlatch k x).files.cl = c.files.cl := rfl
@[simp] theorem CoreSt.setSlatch_files_t (c : CoreSt) (k : Nat) (x : W64) : (c.setSlatch k x).files.t = c.files.t := rfl
@[simp] theorem CoreSt.setSlatch_files_accMain (c : CoreSt) (k : Nat) (x : W64) : (c.setSlatch k x).files.accMain = c.files.accMain := rfl
@[simp] theorem CoreSt.setSlatch_files_accPart (c : CoreSt) (k : Nat) (x : W64) : (c.setSlatch k x).files.accPart = c.files.accPart := rfl
@[simp] theorem CoreSt.setSlatch_files_openAcc (c : CoreSt) (k : Nat) (x : W64) : (c.setSlatch k x).files.openAcc = c.files.openAcc := rfl
@[simp] theorem CoreSt.setSlatch_files_wbCodes (c : CoreSt) (k : Nat) (x : W64) : (c.setSlatch k x).files.wbCodes = c.files.wbCodes := rfl
@[simp] theorem CoreSt.setSlatch_files_wbScales (c : CoreSt) (k : Nat) (x : W64) : (c.setSlatch k x).files.wbScales = c.files.wbScales := rfl
@[simp] theorem CoreSt.setSlatch_files_ma (c : CoreSt) (k : Nat) (x : W64) : (c.setSlatch k x).files.ma = c.files.ma := rfl
@[simp] theorem CoreSt.setSlatch_files_a (c : CoreSt) (k : Nat) (x : W64) : (c.setSlatch k x).files.a = c.files.a := rfl
@[simp] theorem CoreSt.setSlatch_files_n (c : CoreSt) (k : Nat) (x : W64) : (c.setSlatch k x).files.n = c.files.n := rfl
@[simp] theorem CoreSt.setSlatch_files_c (c : CoreSt) (k : Nat) (x : W64) : (c.setSlatch k x).files.c = c.files.c := rfl
@[simp] theorem CoreSt.setSlatch_files_spad (c : CoreSt) (k : Nat) (x : W64) : (c.setSlatch k x).files.spad = c.files.spad := rfl
@[simp] theorem CoreSt.setPair_ctrl (c : CoreSt) (p : Nat) (b : Bool) : (c.setPair p b).ctrl = c.ctrl := rfl
@[simp] theorem CoreSt.setPair_xc (c : CoreSt) (p : Nat) (b : Bool) : (c.setPair p b).xc = c.xc := rfl
@[simp] theorem CoreSt.setPair_dom (c : CoreSt) (p : Nat) (b : Bool) : (c.setPair p b).dom = c.dom := rfl
@[simp] theorem CoreSt.setPair_flow (c : CoreSt) (p : Nat) (b : Bool) : (c.setPair p b).flow = c.flow := rfl
@[simp] theorem CoreSt.setPair_pc (c : CoreSt) (p : Nat) (b : Bool) : (c.setPair p b).pc = c.pc := rfl
@[simp] theorem CoreSt.setPair_pcHigh (c : CoreSt) (p : Nat) (b : Bool) : (c.setPair p b).pcHigh = c.pcHigh := rfl
@[simp] theorem CoreSt.setPair_next (c : CoreSt) (p : Nat) (b : Bool) : (c.setPair p b).next = c.next := rfl
@[simp] theorem CoreSt.setPair_reached (c : CoreSt) (p : Nat) (b : Bool) : (c.setPair p b).reached = c.reached := rfl
@[simp] theorem CoreSt.setPair_status (c : CoreSt) (p : Nat) (b : Bool) : (c.setPair p b).status = c.status := rfl
@[simp] theorem CoreSt.setPair_step (c : CoreSt) (p : Nat) (b : Bool) : (c.setPair p b).step = c.step := rfl
@[simp] theorem CoreSt.setPair_req (c : CoreSt) (p : Nat) (b : Bool) : (c.setPair p b).req = c.req := rfl
@[simp] theorem CoreSt.setPair_dbg (c : CoreSt) (p : Nat) (b : Bool) : (c.setPair p b).dbg = c.dbg := rfl
@[simp] theorem CoreSt.setPair_classB (c : CoreSt) (p : Nat) (b : Bool) : (c.setPair p b).classB = c.classB := rfl
@[simp] theorem CoreSt.setPair_banks (c : CoreSt) (p : Nat) (b : Bool) : (c.setPair p b).banks = c.banks := rfl
@[simp] theorem CoreSt.setPair_resvCyc (c : CoreSt) (p : Nat) (b : Bool) : (c.setPair p b).resvCyc = c.resvCyc := rfl
@[simp] theorem CoreSt.setPair_logical (c : CoreSt) (p : Nat) (b : Bool) : (c.setPair p b).logical = c.logical := rfl
@[simp] theorem CoreSt.setPair_throttleNs (c : CoreSt) (p : Nat) (b : Bool) : (c.setPair p b).throttleNs = c.throttleNs := rfl
@[simp] theorem CoreSt.setPair_tlb (c : CoreSt) (p : Nat) (b : Bool) : (c.setPair p b).tlb = c.tlb := rfl
@[simp] theorem CoreSt.setPair_files_s (c : CoreSt) (p : Nat) (b : Bool) : (c.setPair p b).files.s = c.files.s := rfl
@[simp] theorem CoreSt.setPair_files_sl (c : CoreSt) (p : Nat) (b : Bool) : (c.setPair p b).files.sl = c.files.sl := rfl
@[simp] theorem CoreSt.setPair_files_slLost (c : CoreSt) (p : Nat) (b : Bool) : (c.setPair p b).files.slLost = c.files.slLost := rfl
@[simp] theorem CoreSt.setPair_files_cl (c : CoreSt) (p : Nat) (b : Bool) : (c.setPair p b).files.cl = c.files.cl := rfl
@[simp] theorem CoreSt.setPair_files_t (c : CoreSt) (p : Nat) (b : Bool) : (c.setPair p b).files.t = c.files.t := rfl
@[simp] theorem CoreSt.setPair_files_accMain (c : CoreSt) (p : Nat) (b : Bool) : (c.setPair p b).files.accMain = c.files.accMain := rfl
@[simp] theorem CoreSt.setPair_files_accPart (c : CoreSt) (p : Nat) (b : Bool) : (c.setPair p b).files.accPart = c.files.accPart := rfl
@[simp] theorem CoreSt.setPair_files_openAcc (c : CoreSt) (p : Nat) (b : Bool) : (c.setPair p b).files.openAcc = c.files.openAcc := rfl
@[simp] theorem CoreSt.setPair_files_wbCodes (c : CoreSt) (p : Nat) (b : Bool) : (c.setPair p b).files.wbCodes = c.files.wbCodes := rfl
@[simp] theorem CoreSt.setPair_files_wbScales (c : CoreSt) (p : Nat) (b : Bool) : (c.setPair p b).files.wbScales = c.files.wbScales := rfl
@[simp] theorem CoreSt.setPair_files_ma (c : CoreSt) (p : Nat) (b : Bool) : (c.setPair p b).files.ma = c.files.ma := rfl
@[simp] theorem CoreSt.setPair_files_a (c : CoreSt) (p : Nat) (b : Bool) : (c.setPair p b).files.a = c.files.a := rfl
@[simp] theorem CoreSt.setPair_files_n (c : CoreSt) (p : Nat) (b : Bool) : (c.setPair p b).files.n = c.files.n := rfl
@[simp] theorem CoreSt.setPair_files_c (c : CoreSt) (p : Nat) (b : Bool) : (c.setPair p b).files.c = c.files.c := rfl
@[simp] theorem CoreSt.setPair_files_spad (c : CoreSt) (p : Nat) (b : Bool) : (c.setPair p b).files.spad = c.files.spad := rfl
@[simp] theorem CoreSt.setVreg_ctrl (c : CoreSt) (i n : Nat) (x m : W512) : (c.setVreg i n x m).ctrl = c.ctrl := rfl
@[simp] theorem CoreSt.setVreg_xc (c : CoreSt) (i n : Nat) (x m : W512) : (c.setVreg i n x m).xc = c.xc := rfl
@[simp] theorem CoreSt.setVreg_dom (c : CoreSt) (i n : Nat) (x m : W512) : (c.setVreg i n x m).dom = c.dom := rfl
@[simp] theorem CoreSt.setVreg_flow (c : CoreSt) (i n : Nat) (x m : W512) : (c.setVreg i n x m).flow = c.flow := rfl
@[simp] theorem CoreSt.setVreg_pc (c : CoreSt) (i n : Nat) (x m : W512) : (c.setVreg i n x m).pc = c.pc := rfl
@[simp] theorem CoreSt.setVreg_pcHigh (c : CoreSt) (i n : Nat) (x m : W512) : (c.setVreg i n x m).pcHigh = c.pcHigh := rfl
@[simp] theorem CoreSt.setVreg_next (c : CoreSt) (i n : Nat) (x m : W512) : (c.setVreg i n x m).next = c.next := rfl
@[simp] theorem CoreSt.setVreg_reached (c : CoreSt) (i n : Nat) (x m : W512) : (c.setVreg i n x m).reached = c.reached := rfl
@[simp] theorem CoreSt.setVreg_status (c : CoreSt) (i n : Nat) (x m : W512) : (c.setVreg i n x m).status = c.status := rfl
@[simp] theorem CoreSt.setVreg_step (c : CoreSt) (i n : Nat) (x m : W512) : (c.setVreg i n x m).step = c.step := rfl
@[simp] theorem CoreSt.setVreg_req (c : CoreSt) (i n : Nat) (x m : W512) : (c.setVreg i n x m).req = c.req := rfl
@[simp] theorem CoreSt.setVreg_dbg (c : CoreSt) (i n : Nat) (x m : W512) : (c.setVreg i n x m).dbg = c.dbg := rfl
@[simp] theorem CoreSt.setVreg_classB (c : CoreSt) (i n : Nat) (x m : W512) : (c.setVreg i n x m).classB = c.classB := rfl
@[simp] theorem CoreSt.setVreg_banks (c : CoreSt) (i n : Nat) (x m : W512) : (c.setVreg i n x m).banks = c.banks := rfl
@[simp] theorem CoreSt.setVreg_resvCyc (c : CoreSt) (i n : Nat) (x m : W512) : (c.setVreg i n x m).resvCyc = c.resvCyc := rfl
@[simp] theorem CoreSt.setVreg_logical (c : CoreSt) (i n : Nat) (x m : W512) : (c.setVreg i n x m).logical = c.logical := rfl
@[simp] theorem CoreSt.setVreg_throttleNs (c : CoreSt) (i n : Nat) (x m : W512) : (c.setVreg i n x m).throttleNs = c.throttleNs := rfl
@[simp] theorem CoreSt.setVreg_tlb (c : CoreSt) (i n : Nat) (x m : W512) : (c.setVreg i n x m).tlb = c.tlb := rfl
@[simp] theorem CoreSt.setVreg_files_s (c : CoreSt) (i n : Nat) (x m : W512) : (c.setVreg i n x m).files.s = c.files.s := rfl
@[simp] theorem CoreSt.setVreg_files_sl (c : CoreSt) (i n : Nat) (x m : W512) : (c.setVreg i n x m).files.sl = c.files.sl := rfl
@[simp] theorem CoreSt.setVreg_files_slLost (c : CoreSt) (i n : Nat) (x m : W512) : (c.setVreg i n x m).files.slLost = c.files.slLost := rfl
@[simp] theorem CoreSt.setVreg_files_p (c : CoreSt) (i n : Nat) (x m : W512) : (c.setVreg i n x m).files.p = c.files.p := rfl
@[simp] theorem CoreSt.setVreg_files_t (c : CoreSt) (i n : Nat) (x m : W512) : (c.setVreg i n x m).files.t = c.files.t := rfl
@[simp] theorem CoreSt.setVreg_files_accMain (c : CoreSt) (i n : Nat) (x m : W512) : (c.setVreg i n x m).files.accMain = c.files.accMain := rfl
@[simp] theorem CoreSt.setVreg_files_accPart (c : CoreSt) (i n : Nat) (x m : W512) : (c.setVreg i n x m).files.accPart = c.files.accPart := rfl
@[simp] theorem CoreSt.setVreg_files_openAcc (c : CoreSt) (i n : Nat) (x m : W512) : (c.setVreg i n x m).files.openAcc = c.files.openAcc := rfl
@[simp] theorem CoreSt.setVreg_files_wbCodes (c : CoreSt) (i n : Nat) (x m : W512) : (c.setVreg i n x m).files.wbCodes = c.files.wbCodes := rfl
@[simp] theorem CoreSt.setVreg_files_wbScales (c : CoreSt) (i n : Nat) (x m : W512) : (c.setVreg i n x m).files.wbScales = c.files.wbScales := rfl
@[simp] theorem CoreSt.setVreg_files_ma (c : CoreSt) (i n : Nat) (x m : W512) : (c.setVreg i n x m).files.ma = c.files.ma := rfl
@[simp] theorem CoreSt.setVreg_files_a (c : CoreSt) (i n : Nat) (x m : W512) : (c.setVreg i n x m).files.a = c.files.a := rfl
@[simp] theorem CoreSt.setVreg_files_n (c : CoreSt) (i n : Nat) (x m : W512) : (c.setVreg i n x m).files.n = c.files.n := rfl
@[simp] theorem CoreSt.setVreg_files_c (c : CoreSt) (i n : Nat) (x m : W512) : (c.setVreg i n x m).files.c = c.files.c := rfl
@[simp] theorem CoreSt.setVreg_files_spad (c : CoreSt) (i n : Nat) (x m : W512) : (c.setVreg i n x m).files.spad = c.files.spad := rfl
@[simp] theorem CoreSt.setVlatch_ctrl (c : CoreSt) (i k : Nat) (x : W512) : (c.setVlatch i k x).ctrl = c.ctrl := rfl
@[simp] theorem CoreSt.setVlatch_xc (c : CoreSt) (i k : Nat) (x : W512) : (c.setVlatch i k x).xc = c.xc := rfl
@[simp] theorem CoreSt.setVlatch_dom (c : CoreSt) (i k : Nat) (x : W512) : (c.setVlatch i k x).dom = c.dom := rfl
@[simp] theorem CoreSt.setVlatch_flow (c : CoreSt) (i k : Nat) (x : W512) : (c.setVlatch i k x).flow = c.flow := rfl
@[simp] theorem CoreSt.setVlatch_pc (c : CoreSt) (i k : Nat) (x : W512) : (c.setVlatch i k x).pc = c.pc := rfl
@[simp] theorem CoreSt.setVlatch_pcHigh (c : CoreSt) (i k : Nat) (x : W512) : (c.setVlatch i k x).pcHigh = c.pcHigh := rfl
@[simp] theorem CoreSt.setVlatch_next (c : CoreSt) (i k : Nat) (x : W512) : (c.setVlatch i k x).next = c.next := rfl
@[simp] theorem CoreSt.setVlatch_reached (c : CoreSt) (i k : Nat) (x : W512) : (c.setVlatch i k x).reached = c.reached := rfl
@[simp] theorem CoreSt.setVlatch_status (c : CoreSt) (i k : Nat) (x : W512) : (c.setVlatch i k x).status = c.status := rfl
@[simp] theorem CoreSt.setVlatch_step (c : CoreSt) (i k : Nat) (x : W512) : (c.setVlatch i k x).step = c.step := rfl
@[simp] theorem CoreSt.setVlatch_req (c : CoreSt) (i k : Nat) (x : W512) : (c.setVlatch i k x).req = c.req := rfl
@[simp] theorem CoreSt.setVlatch_dbg (c : CoreSt) (i k : Nat) (x : W512) : (c.setVlatch i k x).dbg = c.dbg := rfl
@[simp] theorem CoreSt.setVlatch_classB (c : CoreSt) (i k : Nat) (x : W512) : (c.setVlatch i k x).classB = c.classB := rfl
@[simp] theorem CoreSt.setVlatch_banks (c : CoreSt) (i k : Nat) (x : W512) : (c.setVlatch i k x).banks = c.banks := rfl
@[simp] theorem CoreSt.setVlatch_resvCyc (c : CoreSt) (i k : Nat) (x : W512) : (c.setVlatch i k x).resvCyc = c.resvCyc := rfl
@[simp] theorem CoreSt.setVlatch_logical (c : CoreSt) (i k : Nat) (x : W512) : (c.setVlatch i k x).logical = c.logical := rfl
@[simp] theorem CoreSt.setVlatch_throttleNs (c : CoreSt) (i k : Nat) (x : W512) : (c.setVlatch i k x).throttleNs = c.throttleNs := rfl
@[simp] theorem CoreSt.setVlatch_tlb (c : CoreSt) (i k : Nat) (x : W512) : (c.setVlatch i k x).tlb = c.tlb := rfl
@[simp] theorem CoreSt.setVlatch_files_s (c : CoreSt) (i k : Nat) (x : W512) : (c.setVlatch i k x).files.s = c.files.s := rfl
@[simp] theorem CoreSt.setVlatch_files_sl (c : CoreSt) (i k : Nat) (x : W512) : (c.setVlatch i k x).files.sl = c.files.sl := rfl
@[simp] theorem CoreSt.setVlatch_files_slLost (c : CoreSt) (i k : Nat) (x : W512) : (c.setVlatch i k x).files.slLost = c.files.slLost := rfl
@[simp] theorem CoreSt.setVlatch_files_p (c : CoreSt) (i k : Nat) (x : W512) : (c.setVlatch i k x).files.p = c.files.p := rfl
@[simp] theorem CoreSt.setVlatch_files_t (c : CoreSt) (i k : Nat) (x : W512) : (c.setVlatch i k x).files.t = c.files.t := rfl
@[simp] theorem CoreSt.setVlatch_files_accMain (c : CoreSt) (i k : Nat) (x : W512) : (c.setVlatch i k x).files.accMain = c.files.accMain := rfl
@[simp] theorem CoreSt.setVlatch_files_accPart (c : CoreSt) (i k : Nat) (x : W512) : (c.setVlatch i k x).files.accPart = c.files.accPart := rfl
@[simp] theorem CoreSt.setVlatch_files_openAcc (c : CoreSt) (i k : Nat) (x : W512) : (c.setVlatch i k x).files.openAcc = c.files.openAcc := rfl
@[simp] theorem CoreSt.setVlatch_files_wbCodes (c : CoreSt) (i k : Nat) (x : W512) : (c.setVlatch i k x).files.wbCodes = c.files.wbCodes := rfl
@[simp] theorem CoreSt.setVlatch_files_wbScales (c : CoreSt) (i k : Nat) (x : W512) : (c.setVlatch i k x).files.wbScales = c.files.wbScales := rfl
@[simp] theorem CoreSt.setVlatch_files_ma (c : CoreSt) (i k : Nat) (x : W512) : (c.setVlatch i k x).files.ma = c.files.ma := rfl
@[simp] theorem CoreSt.setVlatch_files_a (c : CoreSt) (i k : Nat) (x : W512) : (c.setVlatch i k x).files.a = c.files.a := rfl
@[simp] theorem CoreSt.setVlatch_files_n (c : CoreSt) (i k : Nat) (x : W512) : (c.setVlatch i k x).files.n = c.files.n := rfl
@[simp] theorem CoreSt.setVlatch_files_c (c : CoreSt) (i k : Nat) (x : W512) : (c.setVlatch i k x).files.c = c.files.c := rfl
@[simp] theorem CoreSt.setVlatch_files_spad (c : CoreSt) (i k : Nat) (x : W512) : (c.setVlatch i k x).files.spad = c.files.spad := rfl
@[simp] theorem CoreSt.setAxis_ctrl (c : CoreSt) (i : Nat) (u : AxisBits) : (c.setAxis i u).ctrl = c.ctrl := rfl
@[simp] theorem CoreSt.setAxis_xc (c : CoreSt) (i : Nat) (u : AxisBits) : (c.setAxis i u).xc = c.xc := rfl
@[simp] theorem CoreSt.setAxis_dom (c : CoreSt) (i : Nat) (u : AxisBits) : (c.setAxis i u).dom = c.dom := rfl
@[simp] theorem CoreSt.setAxis_flow (c : CoreSt) (i : Nat) (u : AxisBits) : (c.setAxis i u).flow = c.flow := rfl
@[simp] theorem CoreSt.setAxis_pc (c : CoreSt) (i : Nat) (u : AxisBits) : (c.setAxis i u).pc = c.pc := rfl
@[simp] theorem CoreSt.setAxis_pcHigh (c : CoreSt) (i : Nat) (u : AxisBits) : (c.setAxis i u).pcHigh = c.pcHigh := rfl
@[simp] theorem CoreSt.setAxis_next (c : CoreSt) (i : Nat) (u : AxisBits) : (c.setAxis i u).next = c.next := rfl
@[simp] theorem CoreSt.setAxis_reached (c : CoreSt) (i : Nat) (u : AxisBits) : (c.setAxis i u).reached = c.reached := rfl
@[simp] theorem CoreSt.setAxis_status (c : CoreSt) (i : Nat) (u : AxisBits) : (c.setAxis i u).status = c.status := rfl
@[simp] theorem CoreSt.setAxis_step (c : CoreSt) (i : Nat) (u : AxisBits) : (c.setAxis i u).step = c.step := rfl
@[simp] theorem CoreSt.setAxis_req (c : CoreSt) (i : Nat) (u : AxisBits) : (c.setAxis i u).req = c.req := rfl
@[simp] theorem CoreSt.setAxis_dbg (c : CoreSt) (i : Nat) (u : AxisBits) : (c.setAxis i u).dbg = c.dbg := rfl
@[simp] theorem CoreSt.setAxis_classB (c : CoreSt) (i : Nat) (u : AxisBits) : (c.setAxis i u).classB = c.classB := rfl
@[simp] theorem CoreSt.setAxis_banks (c : CoreSt) (i : Nat) (u : AxisBits) : (c.setAxis i u).banks = c.banks := rfl
@[simp] theorem CoreSt.setAxis_resvCyc (c : CoreSt) (i : Nat) (u : AxisBits) : (c.setAxis i u).resvCyc = c.resvCyc := rfl
@[simp] theorem CoreSt.setAxis_logical (c : CoreSt) (i : Nat) (u : AxisBits) : (c.setAxis i u).logical = c.logical := rfl
@[simp] theorem CoreSt.setAxis_throttleNs (c : CoreSt) (i : Nat) (u : AxisBits) : (c.setAxis i u).throttleNs = c.throttleNs := rfl
@[simp] theorem CoreSt.setAxis_tlb (c : CoreSt) (i : Nat) (u : AxisBits) : (c.setAxis i u).tlb = c.tlb := rfl
@[simp] theorem CoreSt.setAxis_files_s (c : CoreSt) (i : Nat) (u : AxisBits) : (c.setAxis i u).files.s = c.files.s := rfl
@[simp] theorem CoreSt.setAxis_files_sl (c : CoreSt) (i : Nat) (u : AxisBits) : (c.setAxis i u).files.sl = c.files.sl := rfl
@[simp] theorem CoreSt.setAxis_files_slLost (c : CoreSt) (i : Nat) (u : AxisBits) : (c.setAxis i u).files.slLost = c.files.slLost := rfl
@[simp] theorem CoreSt.setAxis_files_p (c : CoreSt) (i : Nat) (u : AxisBits) : (c.setAxis i u).files.p = c.files.p := rfl
@[simp] theorem CoreSt.setAxis_files_cl (c : CoreSt) (i : Nat) (u : AxisBits) : (c.setAxis i u).files.cl = c.files.cl := rfl
@[simp] theorem CoreSt.setAxis_files_t (c : CoreSt) (i : Nat) (u : AxisBits) : (c.setAxis i u).files.t = c.files.t := rfl
@[simp] theorem CoreSt.setAxis_files_accMain (c : CoreSt) (i : Nat) (u : AxisBits) : (c.setAxis i u).files.accMain = c.files.accMain := rfl
@[simp] theorem CoreSt.setAxis_files_accPart (c : CoreSt) (i : Nat) (u : AxisBits) : (c.setAxis i u).files.accPart = c.files.accPart := rfl
@[simp] theorem CoreSt.setAxis_files_openAcc (c : CoreSt) (i : Nat) (u : AxisBits) : (c.setAxis i u).files.openAcc = c.files.openAcc := rfl
@[simp] theorem CoreSt.setAxis_files_wbCodes (c : CoreSt) (i : Nat) (u : AxisBits) : (c.setAxis i u).files.wbCodes = c.files.wbCodes := rfl
@[simp] theorem CoreSt.setAxis_files_wbScales (c : CoreSt) (i : Nat) (u : AxisBits) : (c.setAxis i u).files.wbScales = c.files.wbScales := rfl
@[simp] theorem CoreSt.setAxis_files_ma (c : CoreSt) (i : Nat) (u : AxisBits) : (c.setAxis i u).files.ma = c.files.ma := rfl
@[simp] theorem CoreSt.setAxis_files_n (c : CoreSt) (i : Nat) (u : AxisBits) : (c.setAxis i u).files.n = c.files.n := rfl
@[simp] theorem CoreSt.setAxis_files_c (c : CoreSt) (i : Nat) (u : AxisBits) : (c.setAxis i u).files.c = c.files.c := rfl
@[simp] theorem CoreSt.setAxis_files_spad (c : CoreSt) (i : Nat) (u : AxisBits) : (c.setAxis i u).files.spad = c.files.spad := rfl
@[simp] theorem CoreSt.setNorm_ctrl (c : CoreSt) (i : Nat) (n : W32) : (c.setNorm i n).ctrl = c.ctrl := rfl
@[simp] theorem CoreSt.setNorm_xc (c : CoreSt) (i : Nat) (n : W32) : (c.setNorm i n).xc = c.xc := rfl
@[simp] theorem CoreSt.setNorm_dom (c : CoreSt) (i : Nat) (n : W32) : (c.setNorm i n).dom = c.dom := rfl
@[simp] theorem CoreSt.setNorm_flow (c : CoreSt) (i : Nat) (n : W32) : (c.setNorm i n).flow = c.flow := rfl
@[simp] theorem CoreSt.setNorm_pc (c : CoreSt) (i : Nat) (n : W32) : (c.setNorm i n).pc = c.pc := rfl
@[simp] theorem CoreSt.setNorm_pcHigh (c : CoreSt) (i : Nat) (n : W32) : (c.setNorm i n).pcHigh = c.pcHigh := rfl
@[simp] theorem CoreSt.setNorm_next (c : CoreSt) (i : Nat) (n : W32) : (c.setNorm i n).next = c.next := rfl
@[simp] theorem CoreSt.setNorm_reached (c : CoreSt) (i : Nat) (n : W32) : (c.setNorm i n).reached = c.reached := rfl
@[simp] theorem CoreSt.setNorm_status (c : CoreSt) (i : Nat) (n : W32) : (c.setNorm i n).status = c.status := rfl
@[simp] theorem CoreSt.setNorm_step (c : CoreSt) (i : Nat) (n : W32) : (c.setNorm i n).step = c.step := rfl
@[simp] theorem CoreSt.setNorm_req (c : CoreSt) (i : Nat) (n : W32) : (c.setNorm i n).req = c.req := rfl
@[simp] theorem CoreSt.setNorm_dbg (c : CoreSt) (i : Nat) (n : W32) : (c.setNorm i n).dbg = c.dbg := rfl
@[simp] theorem CoreSt.setNorm_classB (c : CoreSt) (i : Nat) (n : W32) : (c.setNorm i n).classB = c.classB := rfl
@[simp] theorem CoreSt.setNorm_banks (c : CoreSt) (i : Nat) (n : W32) : (c.setNorm i n).banks = c.banks := rfl
@[simp] theorem CoreSt.setNorm_resvCyc (c : CoreSt) (i : Nat) (n : W32) : (c.setNorm i n).resvCyc = c.resvCyc := rfl
@[simp] theorem CoreSt.setNorm_logical (c : CoreSt) (i : Nat) (n : W32) : (c.setNorm i n).logical = c.logical := rfl
@[simp] theorem CoreSt.setNorm_throttleNs (c : CoreSt) (i : Nat) (n : W32) : (c.setNorm i n).throttleNs = c.throttleNs := rfl
@[simp] theorem CoreSt.setNorm_tlb (c : CoreSt) (i : Nat) (n : W32) : (c.setNorm i n).tlb = c.tlb := rfl
@[simp] theorem CoreSt.setNorm_files_s (c : CoreSt) (i : Nat) (n : W32) : (c.setNorm i n).files.s = c.files.s := rfl
@[simp] theorem CoreSt.setNorm_files_sl (c : CoreSt) (i : Nat) (n : W32) : (c.setNorm i n).files.sl = c.files.sl := rfl
@[simp] theorem CoreSt.setNorm_files_slLost (c : CoreSt) (i : Nat) (n : W32) : (c.setNorm i n).files.slLost = c.files.slLost := rfl
@[simp] theorem CoreSt.setNorm_files_p (c : CoreSt) (i : Nat) (n : W32) : (c.setNorm i n).files.p = c.files.p := rfl
@[simp] theorem CoreSt.setNorm_files_cl (c : CoreSt) (i : Nat) (n : W32) : (c.setNorm i n).files.cl = c.files.cl := rfl
@[simp] theorem CoreSt.setNorm_files_t (c : CoreSt) (i : Nat) (n : W32) : (c.setNorm i n).files.t = c.files.t := rfl
@[simp] theorem CoreSt.setNorm_files_accMain (c : CoreSt) (i : Nat) (n : W32) : (c.setNorm i n).files.accMain = c.files.accMain := rfl
@[simp] theorem CoreSt.setNorm_files_accPart (c : CoreSt) (i : Nat) (n : W32) : (c.setNorm i n).files.accPart = c.files.accPart := rfl
@[simp] theorem CoreSt.setNorm_files_openAcc (c : CoreSt) (i : Nat) (n : W32) : (c.setNorm i n).files.openAcc = c.files.openAcc := rfl
@[simp] theorem CoreSt.setNorm_files_wbCodes (c : CoreSt) (i : Nat) (n : W32) : (c.setNorm i n).files.wbCodes = c.files.wbCodes := rfl
@[simp] theorem CoreSt.setNorm_files_wbScales (c : CoreSt) (i : Nat) (n : W32) : (c.setNorm i n).files.wbScales = c.files.wbScales := rfl
@[simp] theorem CoreSt.setNorm_files_ma (c : CoreSt) (i : Nat) (n : W32) : (c.setNorm i n).files.ma = c.files.ma := rfl
@[simp] theorem CoreSt.setNorm_files_a (c : CoreSt) (i : Nat) (n : W32) : (c.setNorm i n).files.a = c.files.a := rfl
@[simp] theorem CoreSt.setNorm_files_c (c : CoreSt) (i : Nat) (n : W32) : (c.setNorm i n).files.c = c.files.c := rfl
@[simp] theorem CoreSt.setNorm_files_spad (c : CoreSt) (i : Nat) (n : W32) : (c.setNorm i n).files.spad = c.files.spad := rfl
@[simp] theorem CoreSt.setTile_ctrl (c : CoreSt) (n : Nat) (x : TileBits) : (c.setTile n x).ctrl = c.ctrl := rfl
@[simp] theorem CoreSt.setTile_xc (c : CoreSt) (n : Nat) (x : TileBits) : (c.setTile n x).xc = c.xc := rfl
@[simp] theorem CoreSt.setTile_dom (c : CoreSt) (n : Nat) (x : TileBits) : (c.setTile n x).dom = c.dom := rfl
@[simp] theorem CoreSt.setTile_flow (c : CoreSt) (n : Nat) (x : TileBits) : (c.setTile n x).flow = c.flow := rfl
@[simp] theorem CoreSt.setTile_pc (c : CoreSt) (n : Nat) (x : TileBits) : (c.setTile n x).pc = c.pc := rfl
@[simp] theorem CoreSt.setTile_pcHigh (c : CoreSt) (n : Nat) (x : TileBits) : (c.setTile n x).pcHigh = c.pcHigh := rfl
@[simp] theorem CoreSt.setTile_next (c : CoreSt) (n : Nat) (x : TileBits) : (c.setTile n x).next = c.next := rfl
@[simp] theorem CoreSt.setTile_reached (c : CoreSt) (n : Nat) (x : TileBits) : (c.setTile n x).reached = c.reached := rfl
@[simp] theorem CoreSt.setTile_status (c : CoreSt) (n : Nat) (x : TileBits) : (c.setTile n x).status = c.status := rfl
@[simp] theorem CoreSt.setTile_step (c : CoreSt) (n : Nat) (x : TileBits) : (c.setTile n x).step = c.step := rfl
@[simp] theorem CoreSt.setTile_req (c : CoreSt) (n : Nat) (x : TileBits) : (c.setTile n x).req = c.req := rfl
@[simp] theorem CoreSt.setTile_dbg (c : CoreSt) (n : Nat) (x : TileBits) : (c.setTile n x).dbg = c.dbg := rfl
@[simp] theorem CoreSt.setTile_classB (c : CoreSt) (n : Nat) (x : TileBits) : (c.setTile n x).classB = c.classB := rfl
@[simp] theorem CoreSt.setTile_banks (c : CoreSt) (n : Nat) (x : TileBits) : (c.setTile n x).banks = c.banks := rfl
@[simp] theorem CoreSt.setTile_resvCyc (c : CoreSt) (n : Nat) (x : TileBits) : (c.setTile n x).resvCyc = c.resvCyc := rfl
@[simp] theorem CoreSt.setTile_logical (c : CoreSt) (n : Nat) (x : TileBits) : (c.setTile n x).logical = c.logical := rfl
@[simp] theorem CoreSt.setTile_throttleNs (c : CoreSt) (n : Nat) (x : TileBits) : (c.setTile n x).throttleNs = c.throttleNs := rfl
@[simp] theorem CoreSt.setTile_tlb (c : CoreSt) (n : Nat) (x : TileBits) : (c.setTile n x).tlb = c.tlb := rfl
@[simp] theorem CoreSt.setTile_files_s (c : CoreSt) (n : Nat) (x : TileBits) : (c.setTile n x).files.s = c.files.s := rfl
@[simp] theorem CoreSt.setTile_files_sl (c : CoreSt) (n : Nat) (x : TileBits) : (c.setTile n x).files.sl = c.files.sl := rfl
@[simp] theorem CoreSt.setTile_files_slLost (c : CoreSt) (n : Nat) (x : TileBits) : (c.setTile n x).files.slLost = c.files.slLost := rfl
@[simp] theorem CoreSt.setTile_files_p (c : CoreSt) (n : Nat) (x : TileBits) : (c.setTile n x).files.p = c.files.p := rfl
@[simp] theorem CoreSt.setTile_files_cl (c : CoreSt) (n : Nat) (x : TileBits) : (c.setTile n x).files.cl = c.files.cl := rfl
@[simp] theorem CoreSt.setTile_files_accMain (c : CoreSt) (n : Nat) (x : TileBits) : (c.setTile n x).files.accMain = c.files.accMain := rfl
@[simp] theorem CoreSt.setTile_files_accPart (c : CoreSt) (n : Nat) (x : TileBits) : (c.setTile n x).files.accPart = c.files.accPart := rfl
@[simp] theorem CoreSt.setTile_files_openAcc (c : CoreSt) (n : Nat) (x : TileBits) : (c.setTile n x).files.openAcc = c.files.openAcc := rfl
@[simp] theorem CoreSt.setTile_files_wbCodes (c : CoreSt) (n : Nat) (x : TileBits) : (c.setTile n x).files.wbCodes = c.files.wbCodes := rfl
@[simp] theorem CoreSt.setTile_files_wbScales (c : CoreSt) (n : Nat) (x : TileBits) : (c.setTile n x).files.wbScales = c.files.wbScales := rfl
@[simp] theorem CoreSt.setTile_files_ma (c : CoreSt) (n : Nat) (x : TileBits) : (c.setTile n x).files.ma = c.files.ma := rfl
@[simp] theorem CoreSt.setTile_files_a (c : CoreSt) (n : Nat) (x : TileBits) : (c.setTile n x).files.a = c.files.a := rfl
@[simp] theorem CoreSt.setTile_files_n (c : CoreSt) (n : Nat) (x : TileBits) : (c.setTile n x).files.n = c.files.n := rfl
@[simp] theorem CoreSt.setTile_files_c (c : CoreSt) (n : Nat) (x : TileBits) : (c.setTile n x).files.c = c.files.c := rfl
@[simp] theorem CoreSt.setTile_files_spad (c : CoreSt) (n : Nat) (x : TileBits) : (c.setTile n x).files.spad = c.files.spad := rfl
@[simp] theorem CoreSt.setMareg_ctrl (c : CoreSt) (i : Nat) (x : MaReg) : (c.setMareg i x).ctrl = c.ctrl := rfl
@[simp] theorem CoreSt.setMareg_xc (c : CoreSt) (i : Nat) (x : MaReg) : (c.setMareg i x).xc = c.xc := rfl
@[simp] theorem CoreSt.setMareg_dom (c : CoreSt) (i : Nat) (x : MaReg) : (c.setMareg i x).dom = c.dom := rfl
@[simp] theorem CoreSt.setMareg_flow (c : CoreSt) (i : Nat) (x : MaReg) : (c.setMareg i x).flow = c.flow := rfl
@[simp] theorem CoreSt.setMareg_pc (c : CoreSt) (i : Nat) (x : MaReg) : (c.setMareg i x).pc = c.pc := rfl
@[simp] theorem CoreSt.setMareg_pcHigh (c : CoreSt) (i : Nat) (x : MaReg) : (c.setMareg i x).pcHigh = c.pcHigh := rfl
@[simp] theorem CoreSt.setMareg_next (c : CoreSt) (i : Nat) (x : MaReg) : (c.setMareg i x).next = c.next := rfl
@[simp] theorem CoreSt.setMareg_reached (c : CoreSt) (i : Nat) (x : MaReg) : (c.setMareg i x).reached = c.reached := rfl
@[simp] theorem CoreSt.setMareg_status (c : CoreSt) (i : Nat) (x : MaReg) : (c.setMareg i x).status = c.status := rfl
@[simp] theorem CoreSt.setMareg_step (c : CoreSt) (i : Nat) (x : MaReg) : (c.setMareg i x).step = c.step := rfl
@[simp] theorem CoreSt.setMareg_req (c : CoreSt) (i : Nat) (x : MaReg) : (c.setMareg i x).req = c.req := rfl
@[simp] theorem CoreSt.setMareg_dbg (c : CoreSt) (i : Nat) (x : MaReg) : (c.setMareg i x).dbg = c.dbg := rfl
@[simp] theorem CoreSt.setMareg_classB (c : CoreSt) (i : Nat) (x : MaReg) : (c.setMareg i x).classB = c.classB := rfl
@[simp] theorem CoreSt.setMareg_banks (c : CoreSt) (i : Nat) (x : MaReg) : (c.setMareg i x).banks = c.banks := rfl
@[simp] theorem CoreSt.setMareg_resvCyc (c : CoreSt) (i : Nat) (x : MaReg) : (c.setMareg i x).resvCyc = c.resvCyc := rfl
@[simp] theorem CoreSt.setMareg_logical (c : CoreSt) (i : Nat) (x : MaReg) : (c.setMareg i x).logical = c.logical := rfl
@[simp] theorem CoreSt.setMareg_throttleNs (c : CoreSt) (i : Nat) (x : MaReg) : (c.setMareg i x).throttleNs = c.throttleNs := rfl
@[simp] theorem CoreSt.setMareg_tlb (c : CoreSt) (i : Nat) (x : MaReg) : (c.setMareg i x).tlb = c.tlb := rfl
@[simp] theorem CoreSt.setMareg_files_s (c : CoreSt) (i : Nat) (x : MaReg) : (c.setMareg i x).files.s = c.files.s := rfl
@[simp] theorem CoreSt.setMareg_files_sl (c : CoreSt) (i : Nat) (x : MaReg) : (c.setMareg i x).files.sl = c.files.sl := rfl
@[simp] theorem CoreSt.setMareg_files_slLost (c : CoreSt) (i : Nat) (x : MaReg) : (c.setMareg i x).files.slLost = c.files.slLost := rfl
@[simp] theorem CoreSt.setMareg_files_p (c : CoreSt) (i : Nat) (x : MaReg) : (c.setMareg i x).files.p = c.files.p := rfl
@[simp] theorem CoreSt.setMareg_files_cl (c : CoreSt) (i : Nat) (x : MaReg) : (c.setMareg i x).files.cl = c.files.cl := rfl
@[simp] theorem CoreSt.setMareg_files_t (c : CoreSt) (i : Nat) (x : MaReg) : (c.setMareg i x).files.t = c.files.t := rfl
@[simp] theorem CoreSt.setMareg_files_accMain (c : CoreSt) (i : Nat) (x : MaReg) : (c.setMareg i x).files.accMain = c.files.accMain := rfl
@[simp] theorem CoreSt.setMareg_files_accPart (c : CoreSt) (i : Nat) (x : MaReg) : (c.setMareg i x).files.accPart = c.files.accPart := rfl
@[simp] theorem CoreSt.setMareg_files_openAcc (c : CoreSt) (i : Nat) (x : MaReg) : (c.setMareg i x).files.openAcc = c.files.openAcc := rfl
@[simp] theorem CoreSt.setMareg_files_wbCodes (c : CoreSt) (i : Nat) (x : MaReg) : (c.setMareg i x).files.wbCodes = c.files.wbCodes := rfl
@[simp] theorem CoreSt.setMareg_files_wbScales (c : CoreSt) (i : Nat) (x : MaReg) : (c.setMareg i x).files.wbScales = c.files.wbScales := rfl
@[simp] theorem CoreSt.setMareg_files_a (c : CoreSt) (i : Nat) (x : MaReg) : (c.setMareg i x).files.a = c.files.a := rfl
@[simp] theorem CoreSt.setMareg_files_n (c : CoreSt) (i : Nat) (x : MaReg) : (c.setMareg i x).files.n = c.files.n := rfl
@[simp] theorem CoreSt.setMareg_files_c (c : CoreSt) (i : Nat) (x : MaReg) : (c.setMareg i x).files.c = c.files.c := rfl
@[simp] theorem CoreSt.setMareg_files_spad (c : CoreSt) (i : Nat) (x : MaReg) : (c.setMareg i x).files.spad = c.files.spad := rfl
@[simp] theorem CoreSt.setCreg_ctrl (c : CoreSt) (i : Nat) (x : W128) : (c.setCreg i x).ctrl = c.ctrl := rfl
@[simp] theorem CoreSt.setCreg_xc (c : CoreSt) (i : Nat) (x : W128) : (c.setCreg i x).xc = c.xc := rfl
@[simp] theorem CoreSt.setCreg_dom (c : CoreSt) (i : Nat) (x : W128) : (c.setCreg i x).dom = c.dom := rfl
@[simp] theorem CoreSt.setCreg_flow (c : CoreSt) (i : Nat) (x : W128) : (c.setCreg i x).flow = c.flow := rfl
@[simp] theorem CoreSt.setCreg_pc (c : CoreSt) (i : Nat) (x : W128) : (c.setCreg i x).pc = c.pc := rfl
@[simp] theorem CoreSt.setCreg_pcHigh (c : CoreSt) (i : Nat) (x : W128) : (c.setCreg i x).pcHigh = c.pcHigh := rfl
@[simp] theorem CoreSt.setCreg_next (c : CoreSt) (i : Nat) (x : W128) : (c.setCreg i x).next = c.next := rfl
@[simp] theorem CoreSt.setCreg_reached (c : CoreSt) (i : Nat) (x : W128) : (c.setCreg i x).reached = c.reached := rfl
@[simp] theorem CoreSt.setCreg_status (c : CoreSt) (i : Nat) (x : W128) : (c.setCreg i x).status = c.status := rfl
@[simp] theorem CoreSt.setCreg_step (c : CoreSt) (i : Nat) (x : W128) : (c.setCreg i x).step = c.step := rfl
@[simp] theorem CoreSt.setCreg_req (c : CoreSt) (i : Nat) (x : W128) : (c.setCreg i x).req = c.req := rfl
@[simp] theorem CoreSt.setCreg_dbg (c : CoreSt) (i : Nat) (x : W128) : (c.setCreg i x).dbg = c.dbg := rfl
@[simp] theorem CoreSt.setCreg_classB (c : CoreSt) (i : Nat) (x : W128) : (c.setCreg i x).classB = c.classB := rfl
@[simp] theorem CoreSt.setCreg_banks (c : CoreSt) (i : Nat) (x : W128) : (c.setCreg i x).banks = c.banks := rfl
@[simp] theorem CoreSt.setCreg_resvCyc (c : CoreSt) (i : Nat) (x : W128) : (c.setCreg i x).resvCyc = c.resvCyc := rfl
@[simp] theorem CoreSt.setCreg_logical (c : CoreSt) (i : Nat) (x : W128) : (c.setCreg i x).logical = c.logical := rfl
@[simp] theorem CoreSt.setCreg_throttleNs (c : CoreSt) (i : Nat) (x : W128) : (c.setCreg i x).throttleNs = c.throttleNs := rfl
@[simp] theorem CoreSt.setCreg_tlb (c : CoreSt) (i : Nat) (x : W128) : (c.setCreg i x).tlb = c.tlb := rfl
@[simp] theorem CoreSt.setCreg_files_s (c : CoreSt) (i : Nat) (x : W128) : (c.setCreg i x).files.s = c.files.s := rfl
@[simp] theorem CoreSt.setCreg_files_sl (c : CoreSt) (i : Nat) (x : W128) : (c.setCreg i x).files.sl = c.files.sl := rfl
@[simp] theorem CoreSt.setCreg_files_slLost (c : CoreSt) (i : Nat) (x : W128) : (c.setCreg i x).files.slLost = c.files.slLost := rfl
@[simp] theorem CoreSt.setCreg_files_p (c : CoreSt) (i : Nat) (x : W128) : (c.setCreg i x).files.p = c.files.p := rfl
@[simp] theorem CoreSt.setCreg_files_cl (c : CoreSt) (i : Nat) (x : W128) : (c.setCreg i x).files.cl = c.files.cl := rfl
@[simp] theorem CoreSt.setCreg_files_t (c : CoreSt) (i : Nat) (x : W128) : (c.setCreg i x).files.t = c.files.t := rfl
@[simp] theorem CoreSt.setCreg_files_accMain (c : CoreSt) (i : Nat) (x : W128) : (c.setCreg i x).files.accMain = c.files.accMain := rfl
@[simp] theorem CoreSt.setCreg_files_accPart (c : CoreSt) (i : Nat) (x : W128) : (c.setCreg i x).files.accPart = c.files.accPart := rfl
@[simp] theorem CoreSt.setCreg_files_openAcc (c : CoreSt) (i : Nat) (x : W128) : (c.setCreg i x).files.openAcc = c.files.openAcc := rfl
@[simp] theorem CoreSt.setCreg_files_wbCodes (c : CoreSt) (i : Nat) (x : W128) : (c.setCreg i x).files.wbCodes = c.files.wbCodes := rfl
@[simp] theorem CoreSt.setCreg_files_wbScales (c : CoreSt) (i : Nat) (x : W128) : (c.setCreg i x).files.wbScales = c.files.wbScales := rfl
@[simp] theorem CoreSt.setCreg_files_ma (c : CoreSt) (i : Nat) (x : W128) : (c.setCreg i x).files.ma = c.files.ma := rfl
@[simp] theorem CoreSt.setCreg_files_a (c : CoreSt) (i : Nat) (x : W128) : (c.setCreg i x).files.a = c.files.a := rfl
@[simp] theorem CoreSt.setCreg_files_n (c : CoreSt) (i : Nat) (x : W128) : (c.setCreg i x).files.n = c.files.n := rfl
@[simp] theorem CoreSt.setCreg_files_spad (c : CoreSt) (i : Nat) (x : W128) : (c.setCreg i x).files.spad = c.files.spad := rfl
@[simp] theorem CoreSt.loseLatches_ctrl (c : CoreSt) : (c.loseLatches).ctrl = c.ctrl := rfl
@[simp] theorem CoreSt.loseLatches_xc (c : CoreSt) : (c.loseLatches).xc = c.xc := rfl
@[simp] theorem CoreSt.loseLatches_dom (c : CoreSt) : (c.loseLatches).dom = c.dom := rfl
@[simp] theorem CoreSt.loseLatches_pc (c : CoreSt) : (c.loseLatches).pc = c.pc := rfl
@[simp] theorem CoreSt.loseLatches_pcHigh (c : CoreSt) : (c.loseLatches).pcHigh = c.pcHigh := rfl
@[simp] theorem CoreSt.loseLatches_next (c : CoreSt) : (c.loseLatches).next = c.next := rfl
@[simp] theorem CoreSt.loseLatches_reached (c : CoreSt) : (c.loseLatches).reached = c.reached := rfl
@[simp] theorem CoreSt.loseLatches_status (c : CoreSt) : (c.loseLatches).status = c.status := rfl
@[simp] theorem CoreSt.loseLatches_step (c : CoreSt) : (c.loseLatches).step = c.step := rfl
@[simp] theorem CoreSt.loseLatches_req (c : CoreSt) : (c.loseLatches).req = c.req := rfl
@[simp] theorem CoreSt.loseLatches_dbg (c : CoreSt) : (c.loseLatches).dbg = c.dbg := rfl
@[simp] theorem CoreSt.loseLatches_classB (c : CoreSt) : (c.loseLatches).classB = c.classB := rfl
@[simp] theorem CoreSt.loseLatches_banks (c : CoreSt) : (c.loseLatches).banks = c.banks := rfl
@[simp] theorem CoreSt.loseLatches_resvCyc (c : CoreSt) : (c.loseLatches).resvCyc = c.resvCyc := rfl
@[simp] theorem CoreSt.loseLatches_logical (c : CoreSt) : (c.loseLatches).logical = c.logical := rfl
@[simp] theorem CoreSt.loseLatches_throttleNs (c : CoreSt) : (c.loseLatches).throttleNs = c.throttleNs := rfl
@[simp] theorem CoreSt.loseLatches_tlb (c : CoreSt) : (c.loseLatches).tlb = c.tlb := rfl
@[simp] theorem CoreSt.loseLatches_files_s (c : CoreSt) : (c.loseLatches).files.s = c.files.s := rfl
@[simp] theorem CoreSt.loseLatches_files_sl (c : CoreSt) : (c.loseLatches).files.sl = c.files.sl := rfl
@[simp] theorem CoreSt.loseLatches_files_p (c : CoreSt) : (c.loseLatches).files.p = c.files.p := rfl
@[simp] theorem CoreSt.loseLatches_files_t (c : CoreSt) : (c.loseLatches).files.t = c.files.t := rfl
@[simp] theorem CoreSt.loseLatches_files_accMain (c : CoreSt) : (c.loseLatches).files.accMain = c.files.accMain := rfl
@[simp] theorem CoreSt.loseLatches_files_accPart (c : CoreSt) : (c.loseLatches).files.accPart = c.files.accPart := rfl
@[simp] theorem CoreSt.loseLatches_files_openAcc (c : CoreSt) : (c.loseLatches).files.openAcc = c.files.openAcc := rfl
@[simp] theorem CoreSt.loseLatches_files_wbCodes (c : CoreSt) : (c.loseLatches).files.wbCodes = c.files.wbCodes := rfl
@[simp] theorem CoreSt.loseLatches_files_wbScales (c : CoreSt) : (c.loseLatches).files.wbScales = c.files.wbScales := rfl
@[simp] theorem CoreSt.loseLatches_files_ma (c : CoreSt) : (c.loseLatches).files.ma = c.files.ma := rfl
@[simp] theorem CoreSt.loseLatches_files_a (c : CoreSt) : (c.loseLatches).files.a = c.files.a := rfl
@[simp] theorem CoreSt.loseLatches_files_n (c : CoreSt) : (c.loseLatches).files.n = c.files.n := rfl
@[simp] theorem CoreSt.loseLatches_files_c (c : CoreSt) : (c.loseLatches).files.c = c.files.c := rfl
@[simp] theorem CoreSt.loseLatches_files_spad (c : CoreSt) : (c.loseLatches).files.spad = c.files.spad := rfl
@[simp] theorem CoreSt.raise_files (c : CoreSt) (k : Nat) (b : Addr) (f : Flg) : (c.raise k b f).files = c.files := rfl
@[simp] theorem CoreSt.raise_xc (c : CoreSt) (k : Nat) (b : Addr) (f : Flg) : (c.raise k b f).xc = c.xc := rfl
@[simp] theorem CoreSt.raise_dom (c : CoreSt) (k : Nat) (b : Addr) (f : Flg) : (c.raise k b f).dom = c.dom := rfl
@[simp] theorem CoreSt.raise_flow (c : CoreSt) (k : Nat) (b : Addr) (f : Flg) : (c.raise k b f).flow = c.flow := rfl
@[simp] theorem CoreSt.raise_pc (c : CoreSt) (k : Nat) (b : Addr) (f : Flg) : (c.raise k b f).pc = c.pc := rfl
@[simp] theorem CoreSt.raise_pcHigh (c : CoreSt) (k : Nat) (b : Addr) (f : Flg) : (c.raise k b f).pcHigh = c.pcHigh := rfl
@[simp] theorem CoreSt.raise_next (c : CoreSt) (k : Nat) (b : Addr) (f : Flg) : (c.raise k b f).next = c.next := rfl
@[simp] theorem CoreSt.raise_reached (c : CoreSt) (k : Nat) (b : Addr) (f : Flg) : (c.raise k b f).reached = c.reached := rfl
@[simp] theorem CoreSt.raise_status (c : CoreSt) (k : Nat) (b : Addr) (f : Flg) : (c.raise k b f).status = c.status := rfl
@[simp] theorem CoreSt.raise_step (c : CoreSt) (k : Nat) (b : Addr) (f : Flg) : (c.raise k b f).step = c.step := rfl
@[simp] theorem CoreSt.raise_req (c : CoreSt) (k : Nat) (b : Addr) (f : Flg) : (c.raise k b f).req = c.req := rfl
@[simp] theorem CoreSt.raise_dbg (c : CoreSt) (k : Nat) (b : Addr) (f : Flg) : (c.raise k b f).dbg = c.dbg := rfl
@[simp] theorem CoreSt.raise_classB (c : CoreSt) (k : Nat) (b : Addr) (f : Flg) : (c.raise k b f).classB = c.classB := rfl
@[simp] theorem CoreSt.raise_banks (c : CoreSt) (k : Nat) (b : Addr) (f : Flg) : (c.raise k b f).banks = c.banks := rfl
@[simp] theorem CoreSt.raise_resvCyc (c : CoreSt) (k : Nat) (b : Addr) (f : Flg) : (c.raise k b f).resvCyc = c.resvCyc := rfl
@[simp] theorem CoreSt.raise_logical (c : CoreSt) (k : Nat) (b : Addr) (f : Flg) : (c.raise k b f).logical = c.logical := rfl
@[simp] theorem CoreSt.raise_throttleNs (c : CoreSt) (k : Nat) (b : Addr) (f : Flg) : (c.raise k b f).throttleNs = c.throttleNs := rfl
@[simp] theorem CoreSt.raise_tlb (c : CoreSt) (k : Nat) (b : Addr) (f : Flg) : (c.raise k b f).tlb = c.tlb := rfl
@[simp] theorem CoreSt.fly_files (c : CoreSt) (l : Nat) (ds : List Dest) (ws : List Write) (f : Flg) (ld : Option Load) : (c.fly l ds ws f ld).files = c.files := rfl
@[simp] theorem CoreSt.fly_ctrl (c : CoreSt) (l : Nat) (ds : List Dest) (ws : List Write) (f : Flg) (ld : Option Load) : (c.fly l ds ws f ld).ctrl = c.ctrl := rfl
@[simp] theorem CoreSt.fly_xc (c : CoreSt) (l : Nat) (ds : List Dest) (ws : List Write) (f : Flg) (ld : Option Load) : (c.fly l ds ws f ld).xc = c.xc := rfl
@[simp] theorem CoreSt.fly_dom (c : CoreSt) (l : Nat) (ds : List Dest) (ws : List Write) (f : Flg) (ld : Option Load) : (c.fly l ds ws f ld).dom = c.dom := rfl
@[simp] theorem CoreSt.fly_pc (c : CoreSt) (l : Nat) (ds : List Dest) (ws : List Write) (f : Flg) (ld : Option Load) : (c.fly l ds ws f ld).pc = c.pc := rfl
@[simp] theorem CoreSt.fly_pcHigh (c : CoreSt) (l : Nat) (ds : List Dest) (ws : List Write) (f : Flg) (ld : Option Load) : (c.fly l ds ws f ld).pcHigh = c.pcHigh := rfl
@[simp] theorem CoreSt.fly_next (c : CoreSt) (l : Nat) (ds : List Dest) (ws : List Write) (f : Flg) (ld : Option Load) : (c.fly l ds ws f ld).next = c.next := rfl
@[simp] theorem CoreSt.fly_reached (c : CoreSt) (l : Nat) (ds : List Dest) (ws : List Write) (f : Flg) (ld : Option Load) : (c.fly l ds ws f ld).reached = c.reached := rfl
@[simp] theorem CoreSt.fly_status (c : CoreSt) (l : Nat) (ds : List Dest) (ws : List Write) (f : Flg) (ld : Option Load) : (c.fly l ds ws f ld).status = c.status := rfl
@[simp] theorem CoreSt.fly_step (c : CoreSt) (l : Nat) (ds : List Dest) (ws : List Write) (f : Flg) (ld : Option Load) : (c.fly l ds ws f ld).step = c.step := rfl
@[simp] theorem CoreSt.fly_req (c : CoreSt) (l : Nat) (ds : List Dest) (ws : List Write) (f : Flg) (ld : Option Load) : (c.fly l ds ws f ld).req = c.req := rfl
@[simp] theorem CoreSt.fly_dbg (c : CoreSt) (l : Nat) (ds : List Dest) (ws : List Write) (f : Flg) (ld : Option Load) : (c.fly l ds ws f ld).dbg = c.dbg := rfl
@[simp] theorem CoreSt.fly_classB (c : CoreSt) (l : Nat) (ds : List Dest) (ws : List Write) (f : Flg) (ld : Option Load) : (c.fly l ds ws f ld).classB = c.classB := rfl
@[simp] theorem CoreSt.fly_banks (c : CoreSt) (l : Nat) (ds : List Dest) (ws : List Write) (f : Flg) (ld : Option Load) : (c.fly l ds ws f ld).banks = c.banks := rfl
@[simp] theorem CoreSt.fly_resvCyc (c : CoreSt) (l : Nat) (ds : List Dest) (ws : List Write) (f : Flg) (ld : Option Load) : (c.fly l ds ws f ld).resvCyc = c.resvCyc := rfl
@[simp] theorem CoreSt.fly_logical (c : CoreSt) (l : Nat) (ds : List Dest) (ws : List Write) (f : Flg) (ld : Option Load) : (c.fly l ds ws f ld).logical = c.logical := rfl
@[simp] theorem CoreSt.fly_throttleNs (c : CoreSt) (l : Nat) (ds : List Dest) (ws : List Write) (f : Flg) (ld : Option Load) : (c.fly l ds ws f ld).throttleNs = c.throttleNs := rfl
@[simp] theorem CoreSt.fly_tlb (c : CoreSt) (l : Nat) (ds : List Dest) (ws : List Write) (f : Flg) (ld : Option Load) : (c.fly l ds ws f ld).tlb = c.tlb := rfl
@[simp] theorem CoreSt.setToken_files (c : CoreSt) (w : Nat) (t : Token) : (c.setToken w t).files = c.files := rfl
@[simp] theorem CoreSt.setToken_ctrl (c : CoreSt) (w : Nat) (t : Token) : (c.setToken w t).ctrl = c.ctrl := rfl
@[simp] theorem CoreSt.setToken_xc (c : CoreSt) (w : Nat) (t : Token) : (c.setToken w t).xc = c.xc := rfl
@[simp] theorem CoreSt.setToken_dom (c : CoreSt) (w : Nat) (t : Token) : (c.setToken w t).dom = c.dom := rfl
@[simp] theorem CoreSt.setToken_pc (c : CoreSt) (w : Nat) (t : Token) : (c.setToken w t).pc = c.pc := rfl
@[simp] theorem CoreSt.setToken_pcHigh (c : CoreSt) (w : Nat) (t : Token) : (c.setToken w t).pcHigh = c.pcHigh := rfl
@[simp] theorem CoreSt.setToken_next (c : CoreSt) (w : Nat) (t : Token) : (c.setToken w t).next = c.next := rfl
@[simp] theorem CoreSt.setToken_reached (c : CoreSt) (w : Nat) (t : Token) : (c.setToken w t).reached = c.reached := rfl
@[simp] theorem CoreSt.setToken_status (c : CoreSt) (w : Nat) (t : Token) : (c.setToken w t).status = c.status := rfl
@[simp] theorem CoreSt.setToken_step (c : CoreSt) (w : Nat) (t : Token) : (c.setToken w t).step = c.step := rfl
@[simp] theorem CoreSt.setToken_req (c : CoreSt) (w : Nat) (t : Token) : (c.setToken w t).req = c.req := rfl
@[simp] theorem CoreSt.setToken_dbg (c : CoreSt) (w : Nat) (t : Token) : (c.setToken w t).dbg = c.dbg := rfl
@[simp] theorem CoreSt.setToken_classB (c : CoreSt) (w : Nat) (t : Token) : (c.setToken w t).classB = c.classB := rfl
@[simp] theorem CoreSt.setToken_banks (c : CoreSt) (w : Nat) (t : Token) : (c.setToken w t).banks = c.banks := rfl
@[simp] theorem CoreSt.setToken_resvCyc (c : CoreSt) (w : Nat) (t : Token) : (c.setToken w t).resvCyc = c.resvCyc := rfl
@[simp] theorem CoreSt.setToken_logical (c : CoreSt) (w : Nat) (t : Token) : (c.setToken w t).logical = c.logical := rfl
@[simp] theorem CoreSt.setToken_throttleNs (c : CoreSt) (w : Nat) (t : Token) : (c.setToken w t).throttleNs = c.throttleNs := rfl
@[simp] theorem CoreSt.setToken_tlb (c : CoreSt) (w : Nat) (t : Token) : (c.setToken w t).tlb = c.tlb := rfl
@[simp] theorem CoreSt.goto_files (c : CoreSt) (t : W64) : (c.goto t).files = c.files := rfl
@[simp] theorem CoreSt.goto_ctrl (c : CoreSt) (t : W64) : (c.goto t).ctrl = c.ctrl := rfl
@[simp] theorem CoreSt.goto_xc (c : CoreSt) (t : W64) : (c.goto t).xc = c.xc := rfl
@[simp] theorem CoreSt.goto_dom (c : CoreSt) (t : W64) : (c.goto t).dom = c.dom := rfl
@[simp] theorem CoreSt.goto_flow (c : CoreSt) (t : W64) : (c.goto t).flow = c.flow := rfl
@[simp] theorem CoreSt.goto_pc (c : CoreSt) (t : W64) : (c.goto t).pc = c.pc := rfl
@[simp] theorem CoreSt.goto_pcHigh (c : CoreSt) (t : W64) : (c.goto t).pcHigh = c.pcHigh := rfl
@[simp] theorem CoreSt.goto_reached (c : CoreSt) (t : W64) : (c.goto t).reached = c.reached := rfl
@[simp] theorem CoreSt.goto_status (c : CoreSt) (t : W64) : (c.goto t).status = c.status := rfl
@[simp] theorem CoreSt.goto_step (c : CoreSt) (t : W64) : (c.goto t).step = c.step := rfl
@[simp] theorem CoreSt.goto_req (c : CoreSt) (t : W64) : (c.goto t).req = c.req := rfl
@[simp] theorem CoreSt.goto_dbg (c : CoreSt) (t : W64) : (c.goto t).dbg = c.dbg := rfl
@[simp] theorem CoreSt.goto_classB (c : CoreSt) (t : W64) : (c.goto t).classB = c.classB := rfl
@[simp] theorem CoreSt.goto_banks (c : CoreSt) (t : W64) : (c.goto t).banks = c.banks := rfl
@[simp] theorem CoreSt.goto_resvCyc (c : CoreSt) (t : W64) : (c.goto t).resvCyc = c.resvCyc := rfl
@[simp] theorem CoreSt.goto_logical (c : CoreSt) (t : W64) : (c.goto t).logical = c.logical := rfl
@[simp] theorem CoreSt.goto_throttleNs (c : CoreSt) (t : W64) : (c.goto t).throttleNs = c.throttleNs := rfl
@[simp] theorem CoreSt.goto_tlb (c : CoreSt) (t : W64) : (c.goto t).tlb = c.tlb := rfl
@[simp] theorem CoreSt.tokOpen_files (c : CoreSt) (w : Nat) (q : QueueId) (ds : List Dest) : (c.tokOpen w q ds).files = c.files := rfl
@[simp] theorem CoreSt.tokOpen_ctrl (c : CoreSt) (w : Nat) (q : QueueId) (ds : List Dest) : (c.tokOpen w q ds).ctrl = c.ctrl := rfl
@[simp] theorem CoreSt.tokOpen_xc (c : CoreSt) (w : Nat) (q : QueueId) (ds : List Dest) : (c.tokOpen w q ds).xc = c.xc := rfl
@[simp] theorem CoreSt.tokOpen_dom (c : CoreSt) (w : Nat) (q : QueueId) (ds : List Dest) : (c.tokOpen w q ds).dom = c.dom := rfl
@[simp] theorem CoreSt.tokOpen_pc (c : CoreSt) (w : Nat) (q : QueueId) (ds : List Dest) : (c.tokOpen w q ds).pc = c.pc := rfl
@[simp] theorem CoreSt.tokOpen_pcHigh (c : CoreSt) (w : Nat) (q : QueueId) (ds : List Dest) : (c.tokOpen w q ds).pcHigh = c.pcHigh := rfl
@[simp] theorem CoreSt.tokOpen_next (c : CoreSt) (w : Nat) (q : QueueId) (ds : List Dest) : (c.tokOpen w q ds).next = c.next := rfl
@[simp] theorem CoreSt.tokOpen_reached (c : CoreSt) (w : Nat) (q : QueueId) (ds : List Dest) : (c.tokOpen w q ds).reached = c.reached := rfl
@[simp] theorem CoreSt.tokOpen_status (c : CoreSt) (w : Nat) (q : QueueId) (ds : List Dest) : (c.tokOpen w q ds).status = c.status := rfl
@[simp] theorem CoreSt.tokOpen_step (c : CoreSt) (w : Nat) (q : QueueId) (ds : List Dest) : (c.tokOpen w q ds).step = c.step := rfl
@[simp] theorem CoreSt.tokOpen_req (c : CoreSt) (w : Nat) (q : QueueId) (ds : List Dest) : (c.tokOpen w q ds).req = c.req := rfl
@[simp] theorem CoreSt.tokOpen_dbg (c : CoreSt) (w : Nat) (q : QueueId) (ds : List Dest) : (c.tokOpen w q ds).dbg = c.dbg := rfl
@[simp] theorem CoreSt.tokOpen_classB (c : CoreSt) (w : Nat) (q : QueueId) (ds : List Dest) : (c.tokOpen w q ds).classB = c.classB := rfl
@[simp] theorem CoreSt.tokOpen_banks (c : CoreSt) (w : Nat) (q : QueueId) (ds : List Dest) : (c.tokOpen w q ds).banks = c.banks := rfl
@[simp] theorem CoreSt.tokOpen_resvCyc (c : CoreSt) (w : Nat) (q : QueueId) (ds : List Dest) : (c.tokOpen w q ds).resvCyc = c.resvCyc := rfl
@[simp] theorem CoreSt.tokOpen_logical (c : CoreSt) (w : Nat) (q : QueueId) (ds : List Dest) : (c.tokOpen w q ds).logical = c.logical := rfl
@[simp] theorem CoreSt.tokOpen_throttleNs (c : CoreSt) (w : Nat) (q : QueueId) (ds : List Dest) : (c.tokOpen w q ds).throttleNs = c.throttleNs := rfl
@[simp] theorem CoreSt.tokOpen_tlb (c : CoreSt) (w : Nat) (q : QueueId) (ds : List Dest) : (c.tokOpen w q ds).tlb = c.tlb := rfl
@[simp] theorem CoreSt.setSreg_ctrl (c : CoreSt) (n : Nat) (x : W64) : (c.setSreg n x).ctrl = c.ctrl := by
  unfold CoreSt.setSreg; split <;> rfl
@[simp] theorem CoreSt.setSreg_xc (c : CoreSt) (n : Nat) (x : W64) : (c.setSreg n x).xc = c.xc := by
  unfold CoreSt.setSreg; split <;> rfl
@[simp] theorem CoreSt.setSreg_dom (c : CoreSt) (n : Nat) (x : W64) : (c.setSreg n x).dom = c.dom := by
  unfold CoreSt.setSreg; split <;> rfl
@[simp] theorem CoreSt.setSreg_flow (c : CoreSt) (n : Nat) (x : W64) : (c.setSreg n x).flow = c.flow := by
  unfold CoreSt.setSreg; split <;> rfl
@[simp] theorem CoreSt.setSreg_pc (c : CoreSt) (n : Nat) (x : W64) : (c.setSreg n x).pc = c.pc := by
  unfold CoreSt.setSreg; split <;> rfl
@[simp] theorem CoreSt.setSreg_pcHigh (c : CoreSt) (n : Nat) (x : W64) : (c.setSreg n x).pcHigh = c.pcHigh := by
  unfold CoreSt.setSreg; split <;> rfl
@[simp] theorem CoreSt.setSreg_next (c : CoreSt) (n : Nat) (x : W64) : (c.setSreg n x).next = c.next := by
  unfold CoreSt.setSreg; split <;> rfl
@[simp] theorem CoreSt.setSreg_reached (c : CoreSt) (n : Nat) (x : W64) : (c.setSreg n x).reached = c.reached := by
  unfold CoreSt.setSreg; split <;> rfl
@[simp] theorem CoreSt.setSreg_status (c : CoreSt) (n : Nat) (x : W64) : (c.setSreg n x).status = c.status := by
  unfold CoreSt.setSreg; split <;> rfl
@[simp] theorem CoreSt.setSreg_step (c : CoreSt) (n : Nat) (x : W64) : (c.setSreg n x).step = c.step := by
  unfold CoreSt.setSreg; split <;> rfl
@[simp] theorem CoreSt.setSreg_req (c : CoreSt) (n : Nat) (x : W64) : (c.setSreg n x).req = c.req := by
  unfold CoreSt.setSreg; split <;> rfl
@[simp] theorem CoreSt.setSreg_dbg (c : CoreSt) (n : Nat) (x : W64) : (c.setSreg n x).dbg = c.dbg := by
  unfold CoreSt.setSreg; split <;> rfl
@[simp] theorem CoreSt.setSreg_classB (c : CoreSt) (n : Nat) (x : W64) : (c.setSreg n x).classB = c.classB := by
  unfold CoreSt.setSreg; split <;> rfl
@[simp] theorem CoreSt.setSreg_banks (c : CoreSt) (n : Nat) (x : W64) : (c.setSreg n x).banks = c.banks := by
  unfold CoreSt.setSreg; split <;> rfl
@[simp] theorem CoreSt.setSreg_resvCyc (c : CoreSt) (n : Nat) (x : W64) : (c.setSreg n x).resvCyc = c.resvCyc := by
  unfold CoreSt.setSreg; split <;> rfl
@[simp] theorem CoreSt.setSreg_logical (c : CoreSt) (n : Nat) (x : W64) : (c.setSreg n x).logical = c.logical := by
  unfold CoreSt.setSreg; split <;> rfl
@[simp] theorem CoreSt.setSreg_throttleNs (c : CoreSt) (n : Nat) (x : W64) : (c.setSreg n x).throttleNs = c.throttleNs := by
  unfold CoreSt.setSreg; split <;> rfl
@[simp] theorem CoreSt.setSreg_tlb (c : CoreSt) (n : Nat) (x : W64) : (c.setSreg n x).tlb = c.tlb := by
  unfold CoreSt.setSreg; split <;> rfl
@[simp] theorem CoreSt.setSreg_files_sl (c : CoreSt) (n : Nat) (x : W64) : (c.setSreg n x).files.sl = c.files.sl := by
  unfold CoreSt.setSreg; split <;> rfl
@[simp] theorem CoreSt.setSreg_files_slLost (c : CoreSt) (n : Nat) (x : W64) : (c.setSreg n x).files.slLost = c.files.slLost := by
  unfold CoreSt.setSreg; split <;> rfl
@[simp] theorem CoreSt.setSreg_files_p (c : CoreSt) (n : Nat) (x : W64) : (c.setSreg n x).files.p = c.files.p := by
  unfold CoreSt.setSreg; split <;> rfl
@[simp] theorem CoreSt.setSreg_files_cl (c : CoreSt) (n : Nat) (x : W64) : (c.setSreg n x).files.cl = c.files.cl := by
  unfold CoreSt.setSreg; split <;> rfl
@[simp] theorem CoreSt.setSreg_files_t (c : CoreSt) (n : Nat) (x : W64) : (c.setSreg n x).files.t = c.files.t := by
  unfold CoreSt.setSreg; split <;> rfl
@[simp] theorem CoreSt.setSreg_files_accMain (c : CoreSt) (n : Nat) (x : W64) : (c.setSreg n x).files.accMain = c.files.accMain := by
  unfold CoreSt.setSreg; split <;> rfl
@[simp] theorem CoreSt.setSreg_files_accPart (c : CoreSt) (n : Nat) (x : W64) : (c.setSreg n x).files.accPart = c.files.accPart := by
  unfold CoreSt.setSreg; split <;> rfl
@[simp] theorem CoreSt.setSreg_files_openAcc (c : CoreSt) (n : Nat) (x : W64) : (c.setSreg n x).files.openAcc = c.files.openAcc := by
  unfold CoreSt.setSreg; split <;> rfl
@[simp] theorem CoreSt.setSreg_files_wbCodes (c : CoreSt) (n : Nat) (x : W64) : (c.setSreg n x).files.wbCodes = c.files.wbCodes := by
  unfold CoreSt.setSreg; split <;> rfl
@[simp] theorem CoreSt.setSreg_files_wbScales (c : CoreSt) (n : Nat) (x : W64) : (c.setSreg n x).files.wbScales = c.files.wbScales := by
  unfold CoreSt.setSreg; split <;> rfl
@[simp] theorem CoreSt.setSreg_files_ma (c : CoreSt) (n : Nat) (x : W64) : (c.setSreg n x).files.ma = c.files.ma := by
  unfold CoreSt.setSreg; split <;> rfl
@[simp] theorem CoreSt.setSreg_files_a (c : CoreSt) (n : Nat) (x : W64) : (c.setSreg n x).files.a = c.files.a := by
  unfold CoreSt.setSreg; split <;> rfl
@[simp] theorem CoreSt.setSreg_files_n (c : CoreSt) (n : Nat) (x : W64) : (c.setSreg n x).files.n = c.files.n := by
  unfold CoreSt.setSreg; split <;> rfl
@[simp] theorem CoreSt.setSreg_files_c (c : CoreSt) (n : Nat) (x : W64) : (c.setSreg n x).files.c = c.files.c := by
  unfold CoreSt.setSreg; split <;> rfl
@[simp] theorem CoreSt.setSreg_files_spad (c : CoreSt) (n : Nat) (x : W64) : (c.setSreg n x).files.spad = c.files.spad := by
  unfold CoreSt.setSreg; split <;> rfl
@[simp] theorem CoreSt.setK_ctrl (c : CoreSt) (i n : Nat) (x : W16) : (c.setK i n x).ctrl = c.ctrl := by
  unfold CoreSt.setK; split <;> rfl
@[simp] theorem CoreSt.setK_xc (c : CoreSt) (i n : Nat) (x : W16) : (c.setK i n x).xc = c.xc := by
  unfold CoreSt.setK; split <;> rfl
@[simp] theorem CoreSt.setK_dom (c : CoreSt) (i n : Nat) (x : W16) : (c.setK i n x).dom = c.dom := by
  unfold CoreSt.setK; split <;> rfl
@[simp] theorem CoreSt.setK_flow (c : CoreSt) (i n : Nat) (x : W16) : (c.setK i n x).flow = c.flow := by
  unfold CoreSt.setK; split <;> rfl
@[simp] theorem CoreSt.setK_pc (c : CoreSt) (i n : Nat) (x : W16) : (c.setK i n x).pc = c.pc := by
  unfold CoreSt.setK; split <;> rfl
@[simp] theorem CoreSt.setK_pcHigh (c : CoreSt) (i n : Nat) (x : W16) : (c.setK i n x).pcHigh = c.pcHigh := by
  unfold CoreSt.setK; split <;> rfl
@[simp] theorem CoreSt.setK_next (c : CoreSt) (i n : Nat) (x : W16) : (c.setK i n x).next = c.next := by
  unfold CoreSt.setK; split <;> rfl
@[simp] theorem CoreSt.setK_reached (c : CoreSt) (i n : Nat) (x : W16) : (c.setK i n x).reached = c.reached := by
  unfold CoreSt.setK; split <;> rfl
@[simp] theorem CoreSt.setK_status (c : CoreSt) (i n : Nat) (x : W16) : (c.setK i n x).status = c.status := by
  unfold CoreSt.setK; split <;> rfl
@[simp] theorem CoreSt.setK_step (c : CoreSt) (i n : Nat) (x : W16) : (c.setK i n x).step = c.step := by
  unfold CoreSt.setK; split <;> rfl
@[simp] theorem CoreSt.setK_req (c : CoreSt) (i n : Nat) (x : W16) : (c.setK i n x).req = c.req := by
  unfold CoreSt.setK; split <;> rfl
@[simp] theorem CoreSt.setK_dbg (c : CoreSt) (i n : Nat) (x : W16) : (c.setK i n x).dbg = c.dbg := by
  unfold CoreSt.setK; split <;> rfl
@[simp] theorem CoreSt.setK_classB (c : CoreSt) (i n : Nat) (x : W16) : (c.setK i n x).classB = c.classB := by
  unfold CoreSt.setK; split <;> rfl
@[simp] theorem CoreSt.setK_banks (c : CoreSt) (i n : Nat) (x : W16) : (c.setK i n x).banks = c.banks := by
  unfold CoreSt.setK; split <;> rfl
@[simp] theorem CoreSt.setK_resvCyc (c : CoreSt) (i n : Nat) (x : W16) : (c.setK i n x).resvCyc = c.resvCyc := by
  unfold CoreSt.setK; split <;> rfl
@[simp] theorem CoreSt.setK_logical (c : CoreSt) (i n : Nat) (x : W16) : (c.setK i n x).logical = c.logical := by
  unfold CoreSt.setK; split <;> rfl
@[simp] theorem CoreSt.setK_throttleNs (c : CoreSt) (i n : Nat) (x : W16) : (c.setK i n x).throttleNs = c.throttleNs := by
  unfold CoreSt.setK; split <;> rfl
@[simp] theorem CoreSt.setK_tlb (c : CoreSt) (i n : Nat) (x : W16) : (c.setK i n x).tlb = c.tlb := by
  unfold CoreSt.setK; split <;> rfl
@[simp] theorem CoreSt.setK_files_s (c : CoreSt) (i n : Nat) (x : W16) : (c.setK i n x).files.s = c.files.s := by
  unfold CoreSt.setK; split <;> rfl
@[simp] theorem CoreSt.setK_files_sl (c : CoreSt) (i n : Nat) (x : W16) : (c.setK i n x).files.sl = c.files.sl := by
  unfold CoreSt.setK; split <;> rfl
@[simp] theorem CoreSt.setK_files_slLost (c : CoreSt) (i n : Nat) (x : W16) : (c.setK i n x).files.slLost = c.files.slLost := by
  unfold CoreSt.setK; split <;> rfl
@[simp] theorem CoreSt.setK_files_p (c : CoreSt) (i n : Nat) (x : W16) : (c.setK i n x).files.p = c.files.p := by
  unfold CoreSt.setK; split <;> rfl
@[simp] theorem CoreSt.setK_files_t (c : CoreSt) (i n : Nat) (x : W16) : (c.setK i n x).files.t = c.files.t := by
  unfold CoreSt.setK; split <;> rfl
@[simp] theorem CoreSt.setK_files_accMain (c : CoreSt) (i n : Nat) (x : W16) : (c.setK i n x).files.accMain = c.files.accMain := by
  unfold CoreSt.setK; split <;> rfl
@[simp] theorem CoreSt.setK_files_accPart (c : CoreSt) (i n : Nat) (x : W16) : (c.setK i n x).files.accPart = c.files.accPart := by
  unfold CoreSt.setK; split <;> rfl
@[simp] theorem CoreSt.setK_files_openAcc (c : CoreSt) (i n : Nat) (x : W16) : (c.setK i n x).files.openAcc = c.files.openAcc := by
  unfold CoreSt.setK; split <;> rfl
@[simp] theorem CoreSt.setK_files_wbCodes (c : CoreSt) (i n : Nat) (x : W16) : (c.setK i n x).files.wbCodes = c.files.wbCodes := by
  unfold CoreSt.setK; split <;> rfl
@[simp] theorem CoreSt.setK_files_wbScales (c : CoreSt) (i n : Nat) (x : W16) : (c.setK i n x).files.wbScales = c.files.wbScales := by
  unfold CoreSt.setK; split <;> rfl
@[simp] theorem CoreSt.setK_files_ma (c : CoreSt) (i n : Nat) (x : W16) : (c.setK i n x).files.ma = c.files.ma := by
  unfold CoreSt.setK; split <;> rfl
@[simp] theorem CoreSt.setK_files_a (c : CoreSt) (i n : Nat) (x : W16) : (c.setK i n x).files.a = c.files.a := by
  unfold CoreSt.setK; split <;> rfl
@[simp] theorem CoreSt.setK_files_n (c : CoreSt) (i n : Nat) (x : W16) : (c.setK i n x).files.n = c.files.n := by
  unfold CoreSt.setK; split <;> rfl
@[simp] theorem CoreSt.setK_files_c (c : CoreSt) (i n : Nat) (x : W16) : (c.setK i n x).files.c = c.files.c := by
  unfold CoreSt.setK; split <;> rfl
@[simp] theorem CoreSt.setK_files_spad (c : CoreSt) (i n : Nat) (x : W16) : (c.setK i n x).files.spad = c.files.spad := by
  unfold CoreSt.setK; split <;> rfl
@[simp] theorem CoreSt.spadWrite_ctrl (c : CoreSt) (x : Nat) (bs : List Byte) : (c.spadWrite x bs).ctrl = c.ctrl := by
  unfold CoreSt.spadWrite; split <;> rfl
@[simp] theorem CoreSt.spadWrite_xc (c : CoreSt) (x : Nat) (bs : List Byte) : (c.spadWrite x bs).xc = c.xc := by
  unfold CoreSt.spadWrite; split <;> rfl
@[simp] theorem CoreSt.spadWrite_dom (c : CoreSt) (x : Nat) (bs : List Byte) : (c.spadWrite x bs).dom = c.dom := by
  unfold CoreSt.spadWrite; split <;> rfl
@[simp] theorem CoreSt.spadWrite_flow (c : CoreSt) (x : Nat) (bs : List Byte) : (c.spadWrite x bs).flow = c.flow := by
  unfold CoreSt.spadWrite; split <;> rfl
@[simp] theorem CoreSt.spadWrite_pc (c : CoreSt) (x : Nat) (bs : List Byte) : (c.spadWrite x bs).pc = c.pc := by
  unfold CoreSt.spadWrite; split <;> rfl
@[simp] theorem CoreSt.spadWrite_pcHigh (c : CoreSt) (x : Nat) (bs : List Byte) : (c.spadWrite x bs).pcHigh = c.pcHigh := by
  unfold CoreSt.spadWrite; split <;> rfl
@[simp] theorem CoreSt.spadWrite_next (c : CoreSt) (x : Nat) (bs : List Byte) : (c.spadWrite x bs).next = c.next := by
  unfold CoreSt.spadWrite; split <;> rfl
@[simp] theorem CoreSt.spadWrite_reached (c : CoreSt) (x : Nat) (bs : List Byte) : (c.spadWrite x bs).reached = c.reached := by
  unfold CoreSt.spadWrite; split <;> rfl
@[simp] theorem CoreSt.spadWrite_status (c : CoreSt) (x : Nat) (bs : List Byte) : (c.spadWrite x bs).status = c.status := by
  unfold CoreSt.spadWrite; split <;> rfl
@[simp] theorem CoreSt.spadWrite_step (c : CoreSt) (x : Nat) (bs : List Byte) : (c.spadWrite x bs).step = c.step := by
  unfold CoreSt.spadWrite; split <;> rfl
@[simp] theorem CoreSt.spadWrite_req (c : CoreSt) (x : Nat) (bs : List Byte) : (c.spadWrite x bs).req = c.req := by
  unfold CoreSt.spadWrite; split <;> rfl
@[simp] theorem CoreSt.spadWrite_dbg (c : CoreSt) (x : Nat) (bs : List Byte) : (c.spadWrite x bs).dbg = c.dbg := by
  unfold CoreSt.spadWrite; split <;> rfl
@[simp] theorem CoreSt.spadWrite_classB (c : CoreSt) (x : Nat) (bs : List Byte) : (c.spadWrite x bs).classB = c.classB := by
  unfold CoreSt.spadWrite; split <;> rfl
@[simp] theorem CoreSt.spadWrite_banks (c : CoreSt) (x : Nat) (bs : List Byte) : (c.spadWrite x bs).banks = c.banks := by
  unfold CoreSt.spadWrite; split <;> rfl
@[simp] theorem CoreSt.spadWrite_resvCyc (c : CoreSt) (x : Nat) (bs : List Byte) : (c.spadWrite x bs).resvCyc = c.resvCyc := by
  unfold CoreSt.spadWrite; split <;> rfl
@[simp] theorem CoreSt.spadWrite_logical (c : CoreSt) (x : Nat) (bs : List Byte) : (c.spadWrite x bs).logical = c.logical := by
  unfold CoreSt.spadWrite; split <;> rfl
@[simp] theorem CoreSt.spadWrite_throttleNs (c : CoreSt) (x : Nat) (bs : List Byte) : (c.spadWrite x bs).throttleNs = c.throttleNs := by
  unfold CoreSt.spadWrite; split <;> rfl
@[simp] theorem CoreSt.spadWrite_tlb (c : CoreSt) (x : Nat) (bs : List Byte) : (c.spadWrite x bs).tlb = c.tlb := by
  unfold CoreSt.spadWrite; split <;> rfl
@[simp] theorem CoreSt.spadWrite_files_s (c : CoreSt) (x : Nat) (bs : List Byte) : (c.spadWrite x bs).files.s = c.files.s := by
  unfold CoreSt.spadWrite; split <;> rfl
@[simp] theorem CoreSt.spadWrite_files_sl (c : CoreSt) (x : Nat) (bs : List Byte) : (c.spadWrite x bs).files.sl = c.files.sl := by
  unfold CoreSt.spadWrite; split <;> rfl
@[simp] theorem CoreSt.spadWrite_files_slLost (c : CoreSt) (x : Nat) (bs : List Byte) : (c.spadWrite x bs).files.slLost = c.files.slLost := by
  unfold CoreSt.spadWrite; split <;> rfl
@[simp] theorem CoreSt.spadWrite_files_p (c : CoreSt) (x : Nat) (bs : List Byte) : (c.spadWrite x bs).files.p = c.files.p := by
  unfold CoreSt.spadWrite; split <;> rfl
@[simp] theorem CoreSt.spadWrite_files_cl (c : CoreSt) (x : Nat) (bs : List Byte) : (c.spadWrite x bs).files.cl = c.files.cl := by
  unfold CoreSt.spadWrite; split <;> rfl
@[simp] theorem CoreSt.spadWrite_files_t (c : CoreSt) (x : Nat) (bs : List Byte) : (c.spadWrite x bs).files.t = c.files.t := by
  unfold CoreSt.spadWrite; split <;> rfl
@[simp] theorem CoreSt.spadWrite_files_accMain (c : CoreSt) (x : Nat) (bs : List Byte) : (c.spadWrite x bs).files.accMain = c.files.accMain := by
  unfold CoreSt.spadWrite; split <;> rfl
@[simp] theorem CoreSt.spadWrite_files_accPart (c : CoreSt) (x : Nat) (bs : List Byte) : (c.spadWrite x bs).files.accPart = c.files.accPart := by
  unfold CoreSt.spadWrite; split <;> rfl
@[simp] theorem CoreSt.spadWrite_files_openAcc (c : CoreSt) (x : Nat) (bs : List Byte) : (c.spadWrite x bs).files.openAcc = c.files.openAcc := by
  unfold CoreSt.spadWrite; split <;> rfl
@[simp] theorem CoreSt.spadWrite_files_wbCodes (c : CoreSt) (x : Nat) (bs : List Byte) : (c.spadWrite x bs).files.wbCodes = c.files.wbCodes := by
  unfold CoreSt.spadWrite; split <;> rfl
@[simp] theorem CoreSt.spadWrite_files_wbScales (c : CoreSt) (x : Nat) (bs : List Byte) : (c.spadWrite x bs).files.wbScales = c.files.wbScales := by
  unfold CoreSt.spadWrite; split <;> rfl
@[simp] theorem CoreSt.spadWrite_files_ma (c : CoreSt) (x : Nat) (bs : List Byte) : (c.spadWrite x bs).files.ma = c.files.ma := by
  unfold CoreSt.spadWrite; split <;> rfl
@[simp] theorem CoreSt.spadWrite_files_a (c : CoreSt) (x : Nat) (bs : List Byte) : (c.spadWrite x bs).files.a = c.files.a := by
  unfold CoreSt.spadWrite; split <;> rfl
@[simp] theorem CoreSt.spadWrite_files_n (c : CoreSt) (x : Nat) (bs : List Byte) : (c.spadWrite x bs).files.n = c.files.n := by
  unfold CoreSt.spadWrite; split <;> rfl
@[simp] theorem CoreSt.spadWrite_files_c (c : CoreSt) (x : Nat) (bs : List Byte) : (c.spadWrite x bs).files.c = c.files.c := by
  unfold CoreSt.spadWrite; split <;> rfl
@[simp] theorem CoreSt.crWrite_files (c : CoreSt) (n : Nat) (x : W64) : (c.crWrite n x).files = c.files := by
  unfold CoreSt.crWrite; repeat' split
  all_goals rfl
@[simp] theorem CoreSt.tokRelease_files (c : CoreSt) (w : Nat) : (c.tokRelease w).files = c.files := by
  unfold CoreSt.tokRelease; split <;> rfl
@[simp] theorem CoreSt.tokDone_files (c : CoreSt) (w : Option Nat) : (c.tokDone w).files = c.files := by
  cases w <;> rfl
@[simp] theorem CoreSt.tokRelease_ctrl (c : CoreSt) (w : Nat) : (c.tokRelease w).ctrl = c.ctrl := by
  unfold CoreSt.tokRelease; split <;> rfl
@[simp] theorem CoreSt.tokDone_ctrl (c : CoreSt) (w : Option Nat) : (c.tokDone w).ctrl = c.ctrl := by
  cases w <;> rfl
@[simp] theorem CoreSt.crWrite_xc (c : CoreSt) (n : Nat) (x : W64) : (c.crWrite n x).xc = c.xc := by
  unfold CoreSt.crWrite; repeat' split
  all_goals rfl
@[simp] theorem CoreSt.tokRelease_xc (c : CoreSt) (w : Nat) : (c.tokRelease w).xc = c.xc := by
  unfold CoreSt.tokRelease; split <;> rfl
@[simp] theorem CoreSt.tokDone_xc (c : CoreSt) (w : Option Nat) : (c.tokDone w).xc = c.xc := by
  cases w <;> rfl
@[simp] theorem CoreSt.crWrite_dom (c : CoreSt) (n : Nat) (x : W64) : (c.crWrite n x).dom = c.dom := by
  unfold CoreSt.crWrite; repeat' split
  all_goals rfl
@[simp] theorem CoreSt.tokRelease_dom (c : CoreSt) (w : Nat) : (c.tokRelease w).dom = c.dom := by
  unfold CoreSt.tokRelease; split <;> rfl
@[simp] theorem CoreSt.tokDone_dom (c : CoreSt) (w : Option Nat) : (c.tokDone w).dom = c.dom := by
  cases w <;> rfl
@[simp] theorem CoreSt.crWrite_flow (c : CoreSt) (n : Nat) (x : W64) : (c.crWrite n x).flow = c.flow := by
  unfold CoreSt.crWrite; repeat' split
  all_goals rfl
@[simp] theorem CoreSt.crWrite_pc (c : CoreSt) (n : Nat) (x : W64) : (c.crWrite n x).pc = c.pc := by
  unfold CoreSt.crWrite; repeat' split
  all_goals rfl
@[simp] theorem CoreSt.tokRelease_pc (c : CoreSt) (w : Nat) : (c.tokRelease w).pc = c.pc := by
  unfold CoreSt.tokRelease; split <;> rfl
@[simp] theorem CoreSt.tokDone_pc (c : CoreSt) (w : Option Nat) : (c.tokDone w).pc = c.pc := by
  cases w <;> rfl
@[simp] theorem CoreSt.crWrite_pcHigh (c : CoreSt) (n : Nat) (x : W64) : (c.crWrite n x).pcHigh = c.pcHigh := by
  unfold CoreSt.crWrite; repeat' split
  all_goals rfl
@[simp] theorem CoreSt.tokRelease_pcHigh (c : CoreSt) (w : Nat) : (c.tokRelease w).pcHigh = c.pcHigh := by
  unfold CoreSt.tokRelease; split <;> rfl
@[simp] theorem CoreSt.tokDone_pcHigh (c : CoreSt) (w : Option Nat) : (c.tokDone w).pcHigh = c.pcHigh := by
  cases w <;> rfl
@[simp] theorem CoreSt.crWrite_next (c : CoreSt) (n : Nat) (x : W64) : (c.crWrite n x).next = c.next := by
  unfold CoreSt.crWrite; repeat' split
  all_goals rfl
@[simp] theorem CoreSt.tokRelease_next (c : CoreSt) (w : Nat) : (c.tokRelease w).next = c.next := by
  unfold CoreSt.tokRelease; split <;> rfl
@[simp] theorem CoreSt.tokDone_next (c : CoreSt) (w : Option Nat) : (c.tokDone w).next = c.next := by
  cases w <;> rfl
@[simp] theorem CoreSt.crWrite_reached (c : CoreSt) (n : Nat) (x : W64) : (c.crWrite n x).reached = c.reached := by
  unfold CoreSt.crWrite; repeat' split
  all_goals rfl
@[simp] theorem CoreSt.tokRelease_reached (c : CoreSt) (w : Nat) : (c.tokRelease w).reached = c.reached := by
  unfold CoreSt.tokRelease; split <;> rfl
@[simp] theorem CoreSt.tokDone_reached (c : CoreSt) (w : Option Nat) : (c.tokDone w).reached = c.reached := by
  cases w <;> rfl
@[simp] theorem CoreSt.crWrite_status (c : CoreSt) (n : Nat) (x : W64) : (c.crWrite n x).status = c.status := by
  unfold CoreSt.crWrite; repeat' split
  all_goals rfl
@[simp] theorem CoreSt.tokRelease_status (c : CoreSt) (w : Nat) : (c.tokRelease w).status = c.status := by
  unfold CoreSt.tokRelease; split <;> rfl
@[simp] theorem CoreSt.tokDone_status (c : CoreSt) (w : Option Nat) : (c.tokDone w).status = c.status := by
  cases w <;> rfl
@[simp] theorem CoreSt.crWrite_step (c : CoreSt) (n : Nat) (x : W64) : (c.crWrite n x).step = c.step := by
  unfold CoreSt.crWrite; repeat' split
  all_goals rfl
@[simp] theorem CoreSt.tokRelease_step (c : CoreSt) (w : Nat) : (c.tokRelease w).step = c.step := by
  unfold CoreSt.tokRelease; split <;> rfl
@[simp] theorem CoreSt.tokDone_step (c : CoreSt) (w : Option Nat) : (c.tokDone w).step = c.step := by
  cases w <;> rfl
@[simp] theorem CoreSt.crWrite_req (c : CoreSt) (n : Nat) (x : W64) : (c.crWrite n x).req = c.req := by
  unfold CoreSt.crWrite; repeat' split
  all_goals rfl
@[simp] theorem CoreSt.tokRelease_req (c : CoreSt) (w : Nat) : (c.tokRelease w).req = c.req := by
  unfold CoreSt.tokRelease; split <;> rfl
@[simp] theorem CoreSt.tokDone_req (c : CoreSt) (w : Option Nat) : (c.tokDone w).req = c.req := by
  cases w <;> rfl
@[simp] theorem CoreSt.crWrite_dbg (c : CoreSt) (n : Nat) (x : W64) : (c.crWrite n x).dbg = c.dbg := by
  unfold CoreSt.crWrite; repeat' split
  all_goals rfl
@[simp] theorem CoreSt.tokRelease_dbg (c : CoreSt) (w : Nat) : (c.tokRelease w).dbg = c.dbg := by
  unfold CoreSt.tokRelease; split <;> rfl
@[simp] theorem CoreSt.tokDone_dbg (c : CoreSt) (w : Option Nat) : (c.tokDone w).dbg = c.dbg := by
  cases w <;> rfl
@[simp] theorem CoreSt.crWrite_classB (c : CoreSt) (n : Nat) (x : W64) : (c.crWrite n x).classB = c.classB := by
  unfold CoreSt.crWrite; repeat' split
  all_goals rfl
@[simp] theorem CoreSt.tokRelease_classB (c : CoreSt) (w : Nat) : (c.tokRelease w).classB = c.classB := by
  unfold CoreSt.tokRelease; split <;> rfl
@[simp] theorem CoreSt.tokDone_classB (c : CoreSt) (w : Option Nat) : (c.tokDone w).classB = c.classB := by
  cases w <;> rfl
@[simp] theorem CoreSt.crWrite_banks (c : CoreSt) (n : Nat) (x : W64) : (c.crWrite n x).banks = c.banks := by
  unfold CoreSt.crWrite; repeat' split
  all_goals rfl
@[simp] theorem CoreSt.tokRelease_banks (c : CoreSt) (w : Nat) : (c.tokRelease w).banks = c.banks := by
  unfold CoreSt.tokRelease; split <;> rfl
@[simp] theorem CoreSt.tokDone_banks (c : CoreSt) (w : Option Nat) : (c.tokDone w).banks = c.banks := by
  cases w <;> rfl
@[simp] theorem CoreSt.crWrite_resvCyc (c : CoreSt) (n : Nat) (x : W64) : (c.crWrite n x).resvCyc = c.resvCyc := by
  unfold CoreSt.crWrite; repeat' split
  all_goals rfl
@[simp] theorem CoreSt.tokRelease_resvCyc (c : CoreSt) (w : Nat) : (c.tokRelease w).resvCyc = c.resvCyc := by
  unfold CoreSt.tokRelease; split <;> rfl
@[simp] theorem CoreSt.tokDone_resvCyc (c : CoreSt) (w : Option Nat) : (c.tokDone w).resvCyc = c.resvCyc := by
  cases w <;> rfl
@[simp] theorem CoreSt.crWrite_logical (c : CoreSt) (n : Nat) (x : W64) : (c.crWrite n x).logical = c.logical := by
  unfold CoreSt.crWrite; repeat' split
  all_goals rfl
@[simp] theorem CoreSt.tokRelease_logical (c : CoreSt) (w : Nat) : (c.tokRelease w).logical = c.logical := by
  unfold CoreSt.tokRelease; split <;> rfl
@[simp] theorem CoreSt.tokDone_logical (c : CoreSt) (w : Option Nat) : (c.tokDone w).logical = c.logical := by
  cases w <;> rfl
@[simp] theorem CoreSt.crWrite_throttleNs (c : CoreSt) (n : Nat) (x : W64) : (c.crWrite n x).throttleNs = c.throttleNs := by
  unfold CoreSt.crWrite; repeat' split
  all_goals rfl
@[simp] theorem CoreSt.tokRelease_throttleNs (c : CoreSt) (w : Nat) : (c.tokRelease w).throttleNs = c.throttleNs := by
  unfold CoreSt.tokRelease; split <;> rfl
@[simp] theorem CoreSt.tokDone_throttleNs (c : CoreSt) (w : Option Nat) : (c.tokDone w).throttleNs = c.throttleNs := by
  cases w <;> rfl
@[simp] theorem CoreSt.crWrite_tlb (c : CoreSt) (n : Nat) (x : W64) : (c.crWrite n x).tlb = c.tlb := by
  unfold CoreSt.crWrite; repeat' split
  all_goals rfl
@[simp] theorem CoreSt.tokRelease_tlb (c : CoreSt) (w : Nat) : (c.tokRelease w).tlb = c.tlb := by
  unfold CoreSt.tokRelease; split <;> rfl
@[simp] theorem CoreSt.tokDone_tlb (c : CoreSt) (w : Option Nat) : (c.tokDone w).tlb = c.tlb := by
  cases w <;> rfl

/-! ## Vectors -/

theorem vget_vset_same {α : Type} {n : Nat} (d : α) (v : Vector α n) (i : Nat) (x : α) (h : i < n) :
    vget d (vset v i x) i = x := by
  simp [vget, vset, h]
theorem vget_vset_other {α : Type} {n : Nat} (d : α) (v : Vector α n) (i j : Nat) (x : α) (h : j ≠ i) :
    vget d (vset v i x) j = vget d v j := by
  by_cases hi : i < n <;> by_cases hj : j < n <;> simp [vget, vset, hi, hj, Ne.symm h]
theorem vget_vset {α : Type} {n : Nat} (d : α) (v : Vector α n) (i j : Nat) (x : α) :
    vget d (vset v i x) j = if j = i ∧ i < n then x else vget d v j := by
  by_cases h : j = i
  · subst h
    by_cases hi : j < n
    · simp [hi, vget_vset_same]
    · simp [hi, vset]
  · simp [h, vget_vset_other]
theorem vset_outside {α : Type} {n : Nat} (v : Vector α n) (i : Nat) (x : α) (h : ¬ i < n) : vset v i x = v := by
  simp [vset, h]

/-! ## Cores and partitions -/

@[simp] theorem State.onCur_cc (s : State) (f : CoreSt → CoreSt) : (s.onCur f).cc = f s.cc := by
  show vget _ (vset s.cores s.cur (f s.cc)) s.cur = f s.cc
  exact vget_vset_same _ _ _ _ s.cur.isLt
theorem State.setCore_core_same (s : State) (g : Nat) (c : CoreSt) (h : g < 288) : (s.setCore g c).core g = c :=
  vget_vset_same _ _ _ _ h
theorem State.setCore_core_other (s : State) (g h : Nat) (c : CoreSt) (hne : h ≠ g) : (s.setCore g c).core h = s.core h :=
  vget_vset_other _ _ _ _ _ hne
theorem State.onCore_core_same (s : State) (g : Nat) (f : CoreSt → CoreSt) (h : g < 288) : (s.onCore g f).core g = f (s.core g) :=
  vget_vset_same _ _ _ _ h
theorem State.onCore_core_other (s : State) (g h : Nat) (f : CoreSt → CoreSt) (hne : h ≠ g) : (s.onCore g f).core h = s.core h :=
  vget_vset_other _ _ _ _ _ hne
theorem State.onPart_part_same (s : State) (p : Nat) (f : Part → Part) (h : p < 64) : (s.onPart p f).part p = f (s.part p) :=
  vget_vset_same _ _ _ _ h
theorem State.onPart_part_other (s : State) (p q : Nat) (f : Part → Part) (hne : q ≠ p) : (s.onPart p f).part q = s.part q :=
  vget_vset_other _ _ _ _ _ hne
@[simp] theorem State.onOrd_core (s : State) (f : Order → Order) (g : Nat) : (s.onOrd f).core g = s.core g := rfl
@[simp] theorem State.onPart_core (s : State) (p : Nat) (f : Part → Part) (g : Nat) : (s.onPart p f).core g = s.core g := rfl
@[simp] theorem State.onHub_core (s : State) (f : Hub → Hub) (g : Nat) : (s.onHub f).core g = s.core g := rfl
@[simp] theorem State.onPkg_core (s : State) (f : Package → Package) (g : Nat) : (s.onPkg f).core g = s.core g := rfl
@[simp] theorem State.onCore_part (s : State) (g : Nat) (f : CoreSt → CoreSt) (p : Nat) : (s.onCore g f).part p = s.part p := rfl
@[simp] theorem State.setCore_part (s : State) (g : Nat) (c : CoreSt) (p : Nat) : (s.setCore g c).part p = s.part p := rfl
@[simp] theorem State.onCur_part (s : State) (f : CoreSt → CoreSt) (p : Nat) : (s.onCur f).part p = s.part p := rfl

/-! ## Registers -/

theorem CoreSt.setSreg_sreg (c : CoreSt) (n m : Nat) (x : W64) :
    (c.setSreg n x).sreg m = if m = n ∧ n ≠ 0 ∧ n < 64 then x else c.sreg m := by
  unfold CoreSt.setSreg CoreSt.sreg
  by_cases hm : m = 0
  · subst hm
    by_cases hn : n = 0
    · simp [hn]
    · simp [hn, Ne.symm hn]
  · by_cases hn : n = 0
    · simp [hn, hm]
    · simp [hn, hm, vget_vset]
/-- s0 reads zero whatever is held or written (R102). -/
@[simp] theorem CoreSt.sreg_zero (c : CoreSt) : c.sreg 0 = 0 := rfl
/-- p0 and p1 are constant (R101). -/
@[simp] theorem CoreSt.pred_zero (c : CoreSt) : c.pred 0 = true := rfl
@[simp] theorem CoreSt.pred_one (c : CoreSt) : c.pred 1 = false := rfl
/-- k0 is all ones (R135). -/
@[simp] theorem CoreSt.kmask_zero (c : CoreSt) (i : Nat) : c.kmask i 0 = 0xFFFF := rfl

end Sys2Proof.Machine
end

