-- ==== Sys2Proof/Laws/Memory.lean ====
section
/-! SUPPORT. The laws of the sparse memories: a read after a write, writes elsewhere, and that every memory operation keeps the
canonical form. -/

namespace Sys2Proof.Laws

open Sys2Proof.Machine

section Sparse

variable {α : Type} {d : α}

theorem amAbove_of_le {b c : Nat} {m : AMap α} (h : amAbove c m = true) (hb : b ≤ c) : amAbove b m = true := by
  cases m with
  | nil => rfl
  | cons x m => simp only [amAbove, decide_eq_true_eq] at *; omega

theorem amAbove_amSet [DecidableEq α] {b : Nat} {m : AMap α} {a : Nat} {v : α} (h : amAbove b m = true) (ha : b < a) :
    amAbove b (amSet d m a v) = true ∨ (∃ k w ms, m = (k, w) :: ms ∧ k = a ∧ v = d) := by
  cases m with
  | nil => left; unfold amSet amCell; split <;> simp [amAbove, ha]
  | cons x m =>
    obtain ⟨k, w⟩ := x
    simp only [amAbove, decide_eq_true_eq] at h
    unfold amSet amCell
    split
    · left; split <;> simp [amAbove, h, ha]
    · split
      · split
        · right; exact ⟨k, w, m, rfl, by omega, by assumption⟩
        · left; simp [amAbove, ha]
      · left; simp [amAbove, h]

/-- Writing one entry keeps the canonical form. -/
theorem amWf_amSet [DecidableEq α] {m : AMap α} (a : Nat) (v : α) (h : amWf d m = true) : amWf d (amSet d m a v) = true := by
  induction m with
  | nil => unfold amSet amCell; split <;> simp_all [amWf, amAbove]
  | cons x m ih =>
    obtain ⟨k, w⟩ := x
    simp only [amWf, Bool.and_eq_true, decide_eq_true_eq] at h
    unfold amSet amCell
    split
    · split
      · simp [amWf, h]
      · simp_all [amWf, amAbove]
    · split
      · split
        · exact h.2
        · subst a; simp_all [amWf]
      · simp only [amWf, Bool.and_eq_true, decide_eq_true_eq]
        refine ⟨⟨h.1.1, ?_⟩, ih h.2⟩
        rcases amAbove_amSet (d := d) (v := v) h.1.2 (show k < a by omega) with h1 | ⟨k', w', ms, rfl, rfl, rfl⟩
        · exact h1
        · unfold amSet amCell
          simp only [lt_irrefl, ↓reduceIte]
          have := h.2
          simp only [amWf, Bool.and_eq_true, decide_eq_true_eq] at this
          exact amAbove_of_le this.1.2 (by omega)

theorem amGet_of_above {m : AMap α} {a b : Nat} (h : amAbove b m = true) (ha : a ≤ b) : amGet d m a = d := by
  cases m with
  | nil => rfl
  | cons x m =>
    obtain ⟨k, w⟩ := x
    simp only [amAbove, decide_eq_true_eq] at h
    unfold amGet
    rw [if_neg (by omega), if_pos (by omega)]

/-- A read of the address just written gives the value written. -/
theorem amGet_amSet_same [DecidableEq α] {m : AMap α} (a : Nat) (v : α) (h : amWf d m = true) : amGet d (amSet d m a v) a = v := by
  induction m with
  | nil => unfold amSet amCell; split <;> simp_all [amGet]
  | cons x m ih =>
    obtain ⟨k, w⟩ := x
    simp only [amWf, Bool.and_eq_true, decide_eq_true_eq] at h
    unfold amSet amCell
    split
    · split
      · rename_i h1 h2; unfold amGet; rw [if_neg (by omega), if_pos h1]; exact h2.symm
      · simp [amGet]
    · split
      · split
        · rename_i h2 h3; subst h2; rw [amGet_of_above h.1.2 (by omega)]; exact h3.symm
        · simp [amGet]
      · unfold amGet; rw [if_neg (by omega), if_neg (by omega)]; exact ih h.2

/-- A write leaves every other address alone. -/
theorem amGet_amSet_other [DecidableEq α] {m : AMap α} (a b : Nat) (v : α) (h : amWf d m = true) (hb : b ≠ a) :
    amGet d (amSet d m a v) b = amGet d m b := by
  induction m with
  | nil =>
    unfold amSet amCell; split
    · rfl
    · unfold amGet; rw [if_neg (Ne.symm hb)]; split <;> rfl
  | cons x m ih =>
    obtain ⟨k, w⟩ := x
    simp only [amWf, Bool.and_eq_true, decide_eq_true_eq] at h
    unfold amSet amCell
    split
    · split
      · rfl
      · show (if a = b then v else if b < a then d else amGet d ((k, w) :: m) b) = _
        rw [if_neg (Ne.symm hb)]
        split
        · exact (amGet_of_above (d := d) (m := (k, w) :: m) (b := b) (by simp [amAbove]; omega) (by omega)).symm
        · rfl
    · split
      · rename_i h2
        subst h2
        split
        · show _ = (if a = b then w else if b < a then d else amGet d m b)
          rw [if_neg (Ne.symm hb)]
          split
          · exact amGet_of_above h.1.2 (by omega)
          · rfl
        · show (if a = b then v else if b < a then d else amGet d m b) = (if a = b then w else if b < a then d else amGet d m b)
          rw [if_neg (Ne.symm hb), if_neg (Ne.symm hb)]
      · show (if k = b then w else if b < k then d else amGet d (amSet d m a v) b) = (if k = b then w else if b < k then d else amGet d m b)
        rw [ih h.2]

/-- A memory in canonical form holds at its first entry a value other than the default, which a read there gives. -/
theorem amGet_head {k : Nat} {w : α} {m : AMap α} [DecidableEq α] (h : amWf d ((k, w) :: m) = true) : amGet d ((k, w) :: m) k = w ∧ w ≠ d := by
  simp_all [amWf, amGet]

/-- Of memories that read alike, one in canonical form does not begin below the other. -/
theorem head_le_of_amGet [DecidableEq α] {k l : Nat} {v w : α} {m n : AMap α} (hm : amWf d ((k, v) :: m) = true)
    (h : ∀ a, amGet d ((k, v) :: m) a = amGet d ((l, w) :: n) a) : l ≤ k :=
  Nat.le_of_not_lt fun below =>
    have here : amGet d ((k, v) :: m) k = d := (h k).trans (amGet_of_above (b := k) (by simpa [amAbove] using below) Nat.le.refl)
    (amGet_head hm).2 ((amGet_head hm).1.symm.trans here)

/-- Two memories in canonical form that read alike are equal. -/
theorem eq_of_amGet [DecidableEq α] {m n : AMap α} (hm : amWf d m = true) (hn : amWf d n = true) (h : ∀ a, amGet d m a = amGet d n a) : m = n := by
  induction m generalizing n with
  | nil => match n with
    | [] => rfl
    | y :: _ => exact absurd ((amGet_head hn).1.symm.trans (h y.1).symm) (amGet_head hn).2
  | cons x m tails => match n with
    | [] => exact absurd ((amGet_head hm).1.symm.trans (h x.1)) (amGet_head hm).2
    | (l, w) :: n =>
      have place : x.1 = l := Nat.le_antisymm (head_le_of_amGet hn fun a => (h a).symm) (head_le_of_amGet hm h)
      have value : x.2 = w := (amGet_head hm).1.symm.trans ((h x.1).trans (place ▸ (amGet_head hn).1))
      obtain rfl : x = (l, w) := Prod.ext place value
      have above : amAbove l m = true ∧ amAbove l n = true ∧ amWf d m = true ∧ amWf d n = true := by simp_all [amWf]
      refine congrArg _ (tails above.2.2.1 above.2.2.2 fun a => (Nat.lt_or_ge l a).elim (fun past => ?_) fun upto => ?_)
      · simpa [amGet, Nat.ne_of_lt past, Nat.not_lt_of_lt past] using h a
      · exact (amGet_of_above above.1 upto).trans (amGet_of_above above.2.1 upto).symm

end Sparse

/-- Writing consecutive bytes keeps the canonical form. -/
theorem amWf_amWrite {m : AMap Byte} (a : Nat) (bs : List Byte) (h : amWf 0 m = true) : amWf 0 (amWrite m a bs) = true := by
  induction bs generalizing m a with
  | nil => exact h
  | cons b bs ih => exact ih (a + 1) (amWf_amSet a b h)

/-- Consecutive bytes written leave every byte outside them alone. -/
theorem amGet_amWrite_other {m : AMap Byte} (a x : Nat) (bs : List Byte) (h : amWf 0 m = true) (hx : x < a ∨ a + bs.length ≤ x) :
    amGet 0 (amWrite m a bs) x = amGet 0 m x := by
  induction bs generalizing m a with
  | nil => rfl
  | cons b bs ih =>
    simp only [List.length_cons] at hx
    show amGet 0 (amWrite (amSet 0 m a b) (a + 1) bs) x = _
    rw [ih (a + 1) (amWf_amSet a b h) (by omega)]
    exact amGet_amSet_other a x b h (by omega)

/-- A byte written reads back. -/
theorem amGet_amWrite_same {m : AMap Byte} (a i : Nat) (bs : List Byte) (h : amWf 0 m = true) (hi : i < bs.length) :
    amGet 0 (amWrite m a bs) (a + i) = bs[i] := by
  induction bs generalizing m a i with
  | nil => simp at hi
  | cons b bs ih =>
    show amGet 0 (amWrite (amSet 0 m a b) (a + 1) bs) (a + i) = _
    cases i with
    | zero =>
      rw [amGet_amWrite_other (a + 1) (a + 0) bs (amWf_amSet a b h) (by omega)]
      exact amGet_amSet_same a b h
    | succ i =>
      have := ih (a + 1) i (amWf_amSet a b h) (by simpa using hi)
      rw [show a + (i + 1) = a + 1 + i by omega, this]
      rfl

/-- Writing listed bytes keeps the canonical form. -/
theorem amWf_amPut {m : AMap Byte} (bs : List (Nat × Byte)) (h : amWf 0 m = true) : amWf 0 (amPut m bs) = true := by
  induction bs generalizing m with
  | nil => exact h
  | cons b bs ih => exact ih (amWf_amSet b.1 b.2 h)

/-- Placing the bytes of a write keeps a view and its keys in canonical form. -/
theorem amWf_place (k : ByteKey) (bs : List (Nat × Byte)) (v : AMap Byte × AMap ByteKey)
    (h : amWf 0 v.1 = true ∧ amWf Order.keyZero v.2 = true) :
    amWf 0 (Order.place k bs v).1 = true ∧ amWf Order.keyZero (Order.place k bs v).2 = true := by
  induction bs generalizing v with
  | nil => exact h
  | cons b bs ih =>
    obtain ⟨a, b⟩ := b
    refine ih _ ?_
    split
    · exact ⟨amWf_amSet a b h.1, amWf_amSet a k h.2⟩
    · exact h

/-- Each die's view and its keys are in canonical form. -/
def ViewsWf (o : Order) : Prop := ∀ d, amWf 0 (o.view d) = true ∧ amWf Order.keyZero (o.viewKeys d) = true

theorem viewsWf_reset : ViewsWf Order.reset := by
  intro d
  unfold Order.view Order.viewKeys vget
  constructor <;> (split <;> simp [Order.reset, amWf])

theorem viewsWf_intoView (o : Order) (j : Nat) (w : Wr) (h : ViewsWf o) : ViewsWf (o.intoView j w) := by
  intro d
  have hp := amWf_place { sum := clkSum w.stamp, die := w.die, own := clk w.stamp w.die } w.bytes (o.view j, o.viewKeys j) (h j)
  unfold Order.intoView Order.view Order.viewKeys
  simp only [vget_vset]
  constructor
  · split
    · exact hp.1
    · exact (h d).1
  · split
    · exact hp.2
    · exact (h d).2

theorem viewsWf_congr {o p : Order} (hm : p.mem = o.mem) (hk : p.keys = o.keys) (h : ViewsWf o) : ViewsWf p := by
  intro d
  have := h d
  unfold Order.view Order.viewKeys at *
  rwa [hm, hk]

/-- A write that a die performs keeps the canonical form. -/
theorem viewsWf_perform (o : Order) (d : Nat) (bs : List (Nat × Byte)) (h : ViewsWf o) : ViewsWf (o.perform d bs) := by
  refine List.foldlRecOn _ _ (viewsWf_intoView _ _ _ (viewsWf_congr rfl rfl h)) fun p hp j _ => ?_
  by_cases hj : j = d
  · rwa [if_pos hj]
  · rw [if_neg hj]; exact viewsWf_congr rfl rfl hp

/-- Delivering a write keeps the canonical form. -/
theorem viewsWf_deliver {o p : Order} {i j : Nat} (h : ViewsWf o) (e : o.deliver i j = some p) : ViewsWf p := by
  unfold Order.deliver at e
  split at e
  · split at e
    · simp at e
    · simp only [Option.some.injEq] at e; subst e; exact viewsWf_congr rfl rfl h
  · simp at e

/-- Applying a write keeps the canonical form. -/
theorem viewsWf_applyAt {o p : Order} {j k : Nat} (h : ViewsWf o) (e : o.applyAt j k = some p) : ViewsWf p := by
  unfold Order.applyAt at e
  split at e
  · split at e
    · simp at e
    · split at e
      · simp only [Option.some.injEq] at e; subst e; exact viewsWf_intoView _ _ _ (viewsWf_congr rfl rfl h)
      · simp at e
  · simp at e

/-- What memory holds once every write has been applied is in canonical form. -/
theorem amWf_settledMem (o : Order) : amWf 0 o.settledMem = true := by
  exact List.foldlRecOn (motive := fun m => amWf 0 m = true) _ _ rfl fun _ h a _ => amWf_amSet a _ h

/-- A scratchpad write keeps the canonical form. -/
theorem amWf_spadWrite (c : CoreSt) (x : Nat) (bs : List Byte) (h : amWf 0 c.files.spad = true) :
    amWf 0 (c.spadWrite x bs).files.spad = true := by
  unfold CoreSt.spadWrite
  split
  · exact amWf_amWrite x bs h
  · exact h

/-- A deposit in a core's window keeps its scratchpad in canonical form. -/
theorem amWf_setWindowByte (c : CoreSt) (off : Nat) (b : Byte) (h : amWf 0 c.files.spad = true) :
    amWf 0 (c.setWindowByte off b).files.spad = true := by
  have ht : ∀ n x, (c.setTile n x).files.spad = c.files.spad := fun _ _ => rfl
  have hv : ∀ i n x m, (c.setVreg i n x m).files.spad = c.files.spad := fun _ _ _ _ => rfl
  have ha : ∀ n x, (c.setAxis n x).files.spad = c.files.spad := fun _ _ => rfl
  have hn : ∀ n x, (c.setNorm n x).files.spad = c.files.spad := fun _ _ => rfl
  have hc : ∀ n x, (c.setCreg n x).files.spad = c.files.spad := fun _ _ => rfl
  have hs : ∀ n x, (c.setSreg n x).files.spad = c.files.spad := by intro n x; unfold CoreSt.setSreg; split <;> rfl
  have hp : ∀ x, ({ c with files := { c.files with p := x } } : CoreSt).files.spad = c.files.spad := fun _ => rfl
  have ham : ∀ o x, (c.setAccByte o x).files.spad = c.files.spad := by intro o x; unfold CoreSt.setAccByte; split <;> rfl
  have hw : ∀ o x, (c.setWeightByte o x).files.spad = c.files.spad := by
    intro o x; unfold CoreSt.setWeightByte; split
    · rfl
    · split <;> rfl
  unfold CoreSt.setWindowByte
  by_cases h1 : off < 0x200000
  · rw [if_pos h1]; exact amWf_spadWrite c off [b] h
  rw [if_neg h1]
  by_cases h2 : off < 0x220000
  · rw [if_pos h2, ht]; exact h
  rw [if_neg h2]
  by_cases h3 : off < 0x240000
  · rw [if_pos h3, ham]; exact h
  rw [if_neg h3]
  by_cases h4 : off < 0x280000
  · rw [if_pos h4, hw]; exact h
  rw [if_neg h4]
  by_cases h5 : off < 0x284000
  · rw [if_pos h5, hv]; exact h
  rw [if_neg h5]
  by_cases h6 : off < 0x285000
  · rw [if_pos h6, ha]; exact h
  rw [if_neg h6]
  by_cases h7 : off < 0x285040
  · rw [if_pos h7, hn]; exact h
  rw [if_neg h7]
  repeat' split
  all_goals first
    | rwa [hc]
    | rwa [hs]
    | rwa [hp]

/-- So do consecutive ones. -/
theorem amWf_setWindow (c : CoreSt) (off : Nat) (bs : List Byte) (h : amWf 0 c.files.spad = true) :
    amWf 0 (c.setWindow off bs).files.spad = true := by
  induction bs generalizing c off with
  | nil => exact h
  | cons b bs ih => exact ih _ _ (amWf_setWindowByte c off b h)

/-- The queue descriptors keep their canonical form when one is replaced. -/
theorem amWf_onQueue (s : State) (q : Nat) (f : Queue → Queue) (h : amWf .reset s.hub.queues = true) :
    amWf .reset (s.onQueue q f).hub.queues = true := amWf_amSet q _ h

theorem amAbove_filterMap (b : Nat) (f : Nat × Queue → Nat × Queue) (p : Nat × Queue → Bool) (hf : ∀ x, (f x).1 = x.1)
    (m : AMap Queue) (hm : amWf .reset m = true) (h : amAbove b m = true) : amAbove b ((m.map f).filter p) = true := by
  induction m generalizing b with
  | nil => rfl
  | cons x m ih =>
    obtain ⟨k, v⟩ := x
    simp only [amWf, Bool.and_eq_true, decide_eq_true_eq] at hm
    simp only [amAbove, decide_eq_true_eq] at h
    simp only [List.map_cons, List.filter_cons]
    split
    · simp only [amAbove, hf, decide_eq_true_eq]; exact h
    · exact ih b hm.2 (amAbove_of_le hm.1.2 (by omega))

/-- Descriptors changed in place, those that are as unlisted ones read left out, stay in canonical form. -/
theorem amWf_filterMap (f : Nat × Queue → Nat × Queue) (hf : ∀ x, (f x).1 = x.1) {m : AMap Queue} (h : amWf .reset m = true) :
    amWf .reset ((m.map f).filter fun x => x.2 ≠ Queue.reset) = true := by
  induction m with
  | nil => rfl
  | cons x m tail =>
    have ⟨⟨_, above⟩, rest⟩ : (x.2 ≠ Queue.reset ∧ amAbove x.1 m = true) ∧ amWf .reset m = true := by simpa [amWf] using h
    rw [List.map_cons, List.filter_cons]
    by_cases listed : (f x).2 = Queue.reset
    · simpa [listed] using tail rest
    · have past := amAbove_filterMap x.1 f (fun x => decide (x.2 ≠ Queue.reset)) hf m rest above
      simpa [listed, amWf, hf] using And.intro past (tail rest)

/-- The end of a round keeps the queue descriptors in canonical form. -/
theorem amWf_endRound (s : State) (p prio : Nat) (qs : List Nat) (h : amWf .reset s.hub.queues = true) :
    amWf .reset (s.endRound p prio qs).hub.queues = true :=
  amWf_filterMap (fun x => if x.2.part = p ∧ x.2.prio = prio ∧ !qs.contains x.1 ∧ !x.2.evicted then (x.1, { x.2 with deficit := 0 }) else x)
    (fun x => by dsimp only; split <;> rfl) h

/-- Memory after reset is in canonical form (R290). -/
theorem reset_memory_wf : ViewsWf State.reset.ord ∧ amWf 0 State.reset.ord.host = true ∧ amWf .reset State.reset.hub.queues = true :=
  ⟨viewsWf_reset, rfl, rfl⟩

end Sys2Proof.Laws
end

