-- ==== Sys2Proof/Laws/Outcome.lean ====
section
/-! SUPPORT. What the shared forms of a meaning can answer: an event, an issue, a wait, and the landing of a result. -/

namespace Sys2Proof.Laws

open Sys2Proof.Machine

/-! ## Events -/

/-- An event answers a next state exactly where its condition holds. -/
theorem event_eq_next {n : String} {r : Option State} {t : State} : event n r = .next t ↔ r = some t := by
  cases r <;> simp [event]
theorem event_eq_refused {n : String} {r : Option State} {x : Refusal} : event n r = .refused x ↔ r = none ∧ x = .notEnabled n := by
  cases r <;> simp [event, eq_comm]
theorem event_ne_fault {n : String} {r : Option State} {x : Fault} : event n r ≠ .fault x := by
  cases r <;> simp [event]
/-- An event of a core answers a next state exactly where the device has the core and its condition holds. -/
theorem coreEvent_eq_next {n : String} {g : Nat} {r : Option State} {t : State} :
    coreEvent n g r = .next t ↔ g < 288 ∧ r = some t := by
  unfold coreEvent
  split
  · rename_i known; rw [event_eq_next]; exact (and_iff_right known).symm
  · rename_i unknown; constructor
    · exact nofun
    · exact fun both => (unknown both.1).elim
/-- It faults exactly where the device does not have the core. -/
theorem coreEvent_eq_fault {n : String} {g : Nat} {r : Option State} {x : Fault} :
    coreEvent n g r = .fault x ↔ 288 ≤ g ∧ x = .noSuchCore g := by
  unfold coreEvent
  split
  · rename_i h
    exact ⟨fun e => absurd e event_ne_fault, fun e => absurd h (by simpa [Config.nCores] using e.1)⟩
  · rename_i h
    simp only [Host.Outcome.fault.injEq]
    exact ⟨fun e => ⟨by simpa [Config.nCores] using h, e.symm⟩, fun e => e.2.symm⟩

/-! ## Issue -/

/-- An instruction that issues alone has its effect or takes the trap of its first precise fault. -/
theorem issue_cases (s : State) (i : Instr) (eff : State → State) :
    s.issue i eff = .next (eff s) ∨
      (∃ t, s.cc.groupFault s.cc.flow.groupA (s.soloGroup i) = some t ∧ s.cc.flow.checked = false ∧
        s.issue i eff = .next (s.takeTrapOn s.cur t)) := by
  unfold State.issue
  split
  · exact .inl rfl
  · rename_i h
    cases fault : s.cc.groupFault s.cc.flow.groupA (s.soloGroup i) with
    | some t => exact .inr ⟨t, rfl, by simpa using h, rfl⟩
    | none => exact .inl rfl
/-- It always answers a next state. -/
theorem issue_next (s : State) (i : Instr) (eff : State → State) : ∃ t, s.issue i eff = .next t := by
  rcases issue_cases s i eff with h | ⟨t, _, _, h⟩ <;> exact ⟨_, h⟩

/-- A wait form is held, reports a held fault, or issues. -/
theorem issueWait_cases (s : State) (i : Instr) (eff : State → State) :
    (s.waitHolds s.cur i = true ∧ s.issueWait i eff = .next (s.waitHeld s.cur i)) ∨
      (s.waitHolds s.cur i = false ∧ ∃ t, s.cc.reported s.cc.flow.groupA i = some t ∧
        s.issueWait i eff = .next (s.takeTrapOn s.cur t)) ∨
      (s.waitHolds s.cur i = false ∧ s.cc.reported s.cc.flow.groupA i = none ∧ s.issueWait i eff = s.issue i eff) := by
  unfold State.issueWait
  split
  · rename_i h; exact .inl ⟨h, rfl⟩
  · rename_i free
    refine .inr ?_
    rw [Bool.not_eq_true] at free
    cases fault : s.cc.reported s.cc.flow.groupA i with
    | some t => exact .inl ⟨free, t, rfl, rfl⟩
    | none => exact .inr ⟨free, rfl, rfl⟩
theorem issueWait_next (s : State) (i : Instr) (eff : State → State) : ∃ t, s.issueWait i eff = .next t := by
  rcases issueWait_cases s i eff with held | told | went
  · exact ⟨_, held.2⟩
  · exact told.2.elim fun _ e => ⟨_, e.2⟩
  · rw [went.2.2]; exact issue_next s i eff

/-- A matrix command issues, or is held for the shadow. -/
theorem issueM_next (s : State) (i : Instr) (eff : CoreSt → CoreSt) : ∃ t, s.issueM i eff = .next t := by
  unfold State.issueM
  split
  · exact ⟨_, rfl⟩
  · exact issue_next s i _

/-! ## Results in flight (R65)

In a group whose faults have been checked, a result is put in flight and nothing else changes. -/

theorem landS_checked {s : State} {i : Instr} {d : SDst} {f : CoreSt → W64 × Flg} (h : s.cc.flow.checked = true) :
    landS i d f s = .next (s.onCur fun c => c.fly (i.latency c.classB) (destsOf i) (CoreSt.wS d (f c).1) (f c).2) :=
  issue_eq_next (.inl h)
theorem landP_checked {s : State} {i : Instr} {p : BitVec 3} {f : CoreSt → Bool × Flg} (h : s.cc.flow.checked = true) :
    landP i p f s = .next (s.onCur fun c => c.fly (i.latency c.classB) (destsOf i) [.pair p.toNat (f c).1] (f c).2) :=
  issue_eq_next (.inl h)
theorem landN_checked {s : State} {i : Instr} {ad : BitVec 4} {f : CoreSt → W32 × Flg} (h : s.cc.flow.checked = true) :
    landN i ad f s = .next (s.onCur fun c => c.fly 1 (destsOf i) [.norm ad.toNat (f c).1] (f c).2) :=
  issue_eq_next (.inl h)
theorem landD_checked {s : State} {i : Instr} (h : s.cc.flow.checked = true) :
    landD i s = .next (s.onCur (Dom.issue i 0 0 0)) := issue_eq_next (.inl h)
theorem issueQ_checked {s : State} {i : Instr} {f : CoreSt → QArgs} (h : s.cc.flow.checked = true) :
    s.issueQ i f = .next (s.enqueue i (f s.cc)) := issue_eq_next (.inl h)
theorem issueM_checked {s : State} {i : Instr} {f : CoreSt → CoreSt} (h : s.cc.flow.checked = true) :
    s.issueM i f = .next (s.onCur f) := by
  unfold State.issueM
  rw [if_neg (by simp [h])]
  exact issue_eq_next (.inl h)

end Sys2Proof.Laws
end

