-- ==== Sys2Proof/Laws/PerInstr.lean ====
section
/-! SUPPORT. For each instruction, the decoder reads back the word that the encoder writes. -/

namespace Sys2Proof.Laws

theorem decodeD_din (o : BitVec 6) (x : BitVec 26) : decodeD (2#3 ++ o) x = fDI (fun c k w => .din c k o w) x := by
  have h : fld 6 3 (2#3 ++ o) = 2#3 := by revert o; decide
  have h2 : fld 0 6 (2#3 ++ o) = o := by revert o; decide
  unfold decodeD
  erw [h, h2]
  rfl
theorem decodeD_dnotin (o : BitVec 6) (x : BitVec 26) : decodeD (3#3 ++ o) x = fDI (fun c k w => .dnotin c k o w) x := by
  have h : fld 6 3 (3#3 ++ o) = 3#3 := by revert o; decide
  have h2 : fld 0 6 (3#3 ++ o) = o := by revert o; decide
  unfold decodeD
  erw [h, h2]
  rfl
theorem decodeV_cvt (f : CvtForm) (x : BitVec 26) : decodeV (opCvt f) x = fVCvt f x := by
  rcases f with m | m | m | _ | m | m | _ | _ | m <;> (first | rfl | (cases m <;> rfl))
theorem fVCvt_eVR (f : CvtForm) (g : BitVec 4) (k : BitVec 3) (d : VDst) (a b : VSrc)
    (h : (f.scaled || decide (b = .reg 0)) = true) : fVCvt f (eVR g k d a b) = .ok (.vcvt f g k d a b) := by
  unfold fVCvt
  by_cases hs : f.scaled = true
  · rw [if_pos hs]
    exact fVR_eVR (.vcvt f) g k d a b
  · rw [if_neg hs]
    have hb : b = .reg 0 := by simpa [hs] using h
    subst hb
    exact fVR2_eVR (fun g k d a => .vcvt f g k d a (.reg 0)) g k d a

namespace RoundTrip

/-- What the encoder writes for a well-formed instruction, the decoder of its slot kind reads back (R57 to R60, R71 to R78). -/
def Statement (i : Instr) : Prop :=
  match i.kind, encodeOp i with
  | some k, some p => i.wf = true → decodeOp k p.1 p.2 = .ok i
  | none, none => True
  | _, _ => False

theorem add (d : SDst) (a : SSrc) (b : SSrc) : Statement (.add d a b) := fun _ => fSR_eSR .add d a b
theorem sub (d : SDst) (a : SSrc) (b : SSrc) : Statement (.sub d a b) := fun _ => fSR_eSR .sub d a b
theorem and (d : SDst) (a : SSrc) (b : SSrc) : Statement (.and d a b) := fun _ => fSR_eSR .and d a b
theorem or (d : SDst) (a : SSrc) (b : SSrc) : Statement (.or d a b) := fun _ => fSR_eSR .or d a b
theorem xor (d : SDst) (a : SSrc) (b : SSrc) : Statement (.xor d a b) := fun _ => fSR_eSR .xor d a b
theorem andn (d : SDst) (a : SSrc) (b : SSrc) : Statement (.andn d a b) := fun _ => fSR_eSR .andn d a b
theorem shl (d : SDst) (a : SSrc) (b : SSrc) : Statement (.shl d a b) := fun _ => fSR_eSR .shl d a b
theorem shr (d : SDst) (a : SSrc) (b : SSrc) : Statement (.shr d a b) := fun _ => fSR_eSR .shr d a b
theorem sar (d : SDst) (a : SSrc) (b : SSrc) : Statement (.sar d a b) := fun _ => fSR_eSR .sar d a b
theorem min (d : SDst) (a : SSrc) (b : SSrc) : Statement (.min d a b) := fun _ => fSR_eSR .min d a b
theorem max (d : SDst) (a : SSrc) (b : SSrc) : Statement (.max d a b) := fun _ => fSR_eSR .max d a b
theorem minu (d : SDst) (a : SSrc) (b : SSrc) : Statement (.minu d a b) := fun _ => fSR_eSR .minu d a b
theorem maxu (d : SDst) (a : SSrc) (b : SSrc) : Statement (.maxu d a b) := fun _ => fSR_eSR .maxu d a b
theorem adds (d : SDst) (a : SSrc) (b : SSrc) : Statement (.adds d a b) := fun _ => fSR_eSR .adds d a b
theorem subs (d : SDst) (a : SSrc) (b : SSrc) : Statement (.subs d a b) := fun _ => fSR_eSR .subs d a b
theorem mul (d : SDst) (a : SSrc) (b : SSrc) : Statement (.mul d a b) := fun _ => fSR_eSR .mul d a b
theorem mulh (d : SDst) (a : SSrc) (b : SSrc) : Statement (.mulh d a b) := fun _ => fSR_eSR .mulh d a b
theorem mulhu (d : SDst) (a : SSrc) (b : SSrc) : Statement (.mulhu d a b) := fun _ => fSR_eSR .mulhu d a b
theorem div (d : SDst) (a : SSrc) (b : SSrc) : Statement (.div d a b) := fun _ => fSR_eSR .div d a b
theorem divu (d : SDst) (a : SSrc) (b : SSrc) : Statement (.divu d a b) := fun _ => fSR_eSR .divu d a b
theorem rem (d : SDst) (a : SSrc) (b : SSrc) : Statement (.rem d a b) := fun _ => fSR_eSR .rem d a b
theorem remu (d : SDst) (a : SSrc) (b : SSrc) : Statement (.remu d a b) := fun _ => fSR_eSR .remu d a b
theorem addi (d : SDst) (a : SSrc) (imm : BitVec 12) : Statement (.addi d a imm) := fun _ => fSI_eSI .addi d a imm
theorem andi (d : SDst) (a : SSrc) (imm : BitVec 12) : Statement (.andi d a imm) := fun _ => fSI_eSI .andi d a imm
theorem ori (d : SDst) (a : SSrc) (imm : BitVec 12) : Statement (.ori d a imm) := fun _ => fSI_eSI .ori d a imm
theorem xori (d : SDst) (a : SSrc) (imm : BitVec 12) : Statement (.xori d a imm) := fun _ => fSI_eSI .xori d a imm
theorem shli (d : SDst) (a : SSrc) (n : BitVec 6) : Statement (.shli d a n) := fun _ => fSIS_eSI .shli d a n
theorem shri (d : SDst) (a : SSrc) (n : BitVec 6) : Statement (.shri d a n) := fun _ => fSIS_eSI .shri d a n
theorem sari (d : SDst) (a : SSrc) (n : BitVec 6) : Statement (.sari d a n) := fun _ => fSIS_eSI .sari d a n
theorem movq (d : SDst) (h : BitVec 2) (keep : Bool) (imm : BitVec 16) : Statement (.movq d h keep imm) := fun _ => fSK_enc d h keep imm
theorem cmpeq (p : BitVec 3) (a : SSrc) (b : SSrc) : Statement (.cmpeq p a b) := fun hw => fSP_eSP .cmpeq p a b hw
theorem cmpne (p : BitVec 3) (a : SSrc) (b : SSrc) : Statement (.cmpne p a b) := fun hw => fSP_eSP .cmpne p a b hw
theorem cmplt (p : BitVec 3) (a : SSrc) (b : SSrc) : Statement (.cmplt p a b) := fun hw => fSP_eSP .cmplt p a b hw
theorem cmple (p : BitVec 3) (a : SSrc) (b : SSrc) : Statement (.cmple p a b) := fun hw => fSP_eSP .cmple p a b hw
theorem cmpltu (p : BitVec 3) (a : SSrc) (b : SSrc) : Statement (.cmpltu p a b) := fun hw => fSP_eSP .cmpltu p a b hw
theorem cmpleu (p : BitVec 3) (a : SSrc) (b : SSrc) : Statement (.cmpleu p a b) := fun hw => fSP_eSP .cmpleu p a b hw
theorem cmpeqi (p : BitVec 3) (a : SSrc) (imm : BitVec 12) : Statement (.cmpeqi p a imm) := fun hw => fSPI_eSPI .cmpeqi p a imm hw
theorem cmpnei (p : BitVec 3) (a : SSrc) (imm : BitVec 12) : Statement (.cmpnei p a imm) := fun hw => fSPI_eSPI .cmpnei p a imm hw
theorem cmplti (p : BitVec 3) (a : SSrc) (imm : BitVec 12) : Statement (.cmplti p a imm) := fun hw => fSPI_eSPI .cmplti p a imm hw
theorem cmplei (p : BitVec 3) (a : SSrc) (imm : BitVec 12) : Statement (.cmplei p a imm) := fun hw => fSPI_eSPI .cmplei p a imm hw
theorem cmpltui (p : BitVec 3) (a : SSrc) (imm : BitVec 12) : Statement (.cmpltui p a imm) := fun hw => fSPI_eSPI .cmpltui p a imm hw
theorem cmpleui (p : BitVec 3) (a : SSrc) (imm : BitVec 12) : Statement (.cmpleui p a imm) := fun hw => fSPI_eSPI .cmpleui p a imm hw
theorem pand (p : BitVec 3) (pa : BitVec 4) (pb : BitVec 4) : Statement (.pand p pa pb) := fun hw => fSQ_eSQ .pand p pa pb hw
theorem por (p : BitVec 3) (pa : BitVec 4) (pb : BitVec 4) : Statement (.por p pa pb) := fun hw => fSQ_eSQ .por p pa pb hw
theorem pxor (p : BitVec 3) (pa : BitVec 4) (pb : BitVec 4) : Statement (.pxor p pa pb) := fun hw => fSQ_eSQ .pxor p pa pb hw
theorem pandn (p : BitVec 3) (pa : BitVec 4) (pb : BitVec 4) : Statement (.pandn p pa pb) := fun hw => fSQ_eSQ .pandn p pa pb hw
theorem movps (d : SDst) : Statement (.movps d) := fun _ => fSR1_eSR1 .movps d
theorem movsp (a : SSrc) : Statement (.movsp a) := fun _ => fSRA_eYR .movsp a
theorem rdcnt (d : SDst) (a : SSrc) : Statement (.rdcnt d a) := fun _ => fSR2_eSR2 .rdcnt d a
theorem rdtime (d : SDst) : Statement (.rdtime d) := fun _ => fSR1_eSR1 .rdtime d
theorem rddesc (d : SDst) (a : SSrc) : Statement (.rddesc d a) := fun _ => fSR2_eSR2 .rddesc d a
theorem fadd (t : FTy) (m : Rm) (d : SDst) (a : SSrc) (b : SSrc) : Statement (.fadd t m d a b) := fun _ =>
  ((show ∀ x, decodeS (opF 0x080 t m) x = fSR (.fadd t m) x by intro x; cases t <;> cases m <;> rfl) _).trans (fSR_eSR (.fadd t m) d a b)
theorem fsub (t : FTy) (m : Rm) (d : SDst) (a : SSrc) (b : SSrc) : Statement (.fsub t m d a b) := fun _ =>
  ((show ∀ x, decodeS (opF 0x088 t m) x = fSR (.fsub t m) x by intro x; cases t <;> cases m <;> rfl) _).trans (fSR_eSR (.fsub t m) d a b)
theorem fmul (t : FTy) (m : Rm) (d : SDst) (a : SSrc) (b : SSrc) : Statement (.fmul t m d a b) := fun _ =>
  ((show ∀ x, decodeS (opF 0x090 t m) x = fSR (.fmul t m) x by intro x; cases t <;> cases m <;> rfl) _).trans (fSR_eSR (.fmul t m) d a b)
theorem fma (t : FTy) (m : Rm) (d : SDst) (a : SSrc) (b : SSrc) : Statement (.fma t m d a b) := fun _ =>
  ((show ∀ x, decodeS (opF 0x098 t m) x = fSR (.fma t m) x by intro x; cases t <;> cases m <;> rfl) _).trans (fSR_eSR (.fma t m) d a b)
theorem fcmpeq (t : FTy) (p : BitVec 3) (a : SSrc) (b : SSrc) : Statement (.fcmpeq t p a b) := fun hw =>
  ((show ∀ x, decodeS (opFC 0x0A0 t) x = fSP (.fcmpeq t) x by intro x; cases t <;> rfl) _).trans (fSP_eSP (.fcmpeq t) p a b hw)
theorem fcmplt (t : FTy) (p : BitVec 3) (a : SSrc) (b : SSrc) : Statement (.fcmplt t p a b) := fun hw =>
  ((show ∀ x, decodeS (opFC 0x0A1 t) x = fSP (.fcmplt t) x by intro x; cases t <;> rfl) _).trans (fSP_eSP (.fcmplt t) p a b hw)
theorem fcmple (t : FTy) (p : BitVec 3) (a : SSrc) (b : SSrc) : Statement (.fcmple t p a b) := fun hw =>
  ((show ∀ x, decodeS (opFC 0x0A2 t) x = fSP (.fcmple t) x by intro x; cases t <;> rfl) _).trans (fSP_eSP (.fcmple t) p a b hw)
theorem fcmpun (t : FTy) (p : BitVec 3) (a : SSrc) (b : SSrc) : Statement (.fcmpun t p a b) := fun hw =>
  ((show ∀ x, decodeS (opFC 0x0A3 t) x = fSP (.fcmpun t) x by intro x; cases t <;> rfl) _).trans (fSP_eSP (.fcmpun t) p a b hw)
theorem cvtF64I64 (m : Rm) (d : SDst) (a : SSrc) : Statement (.cvtF64I64 m d a) := fun _ =>
  ((show ∀ x, decodeS (opM 0x0C0 m) x = fSR2 (.cvtF64I64 m) x by intro x; cases m <;> rfl) _).trans (fSR2_eSR2 (.cvtF64I64 m) d a)
theorem cvtI64F64 (m : Rm) (d : SDst) (a : SSrc) : Statement (.cvtI64F64 m d a) := fun _ =>
  ((show ∀ x, decodeS (opM 0x0C4 m) x = fSR2 (.cvtI64F64 m) x by intro x; cases m <;> rfl) _).trans (fSR2_eSR2 (.cvtI64F64 m) d a)
theorem cvtF32I64 (m : Rm) (d : SDst) (a : SSrc) : Statement (.cvtF32I64 m d a) := fun _ =>
  ((show ∀ x, decodeS (opM 0x0C8 m) x = fSR2 (.cvtF32I64 m) x by intro x; cases m <;> rfl) _).trans (fSR2_eSR2 (.cvtF32I64 m) d a)
theorem cvtI64F32 (m : Rm) (d : SDst) (a : SSrc) : Statement (.cvtI64F32 m d a) := fun _ =>
  ((show ∀ x, decodeS (opM 0x0CC m) x = fSR2 (.cvtI64F32 m) x by intro x; cases m <;> rfl) _).trans (fSR2_eSR2 (.cvtI64F32 m) d a)
theorem cvtF32F64 (m : Rm) (d : SDst) (a : SSrc) : Statement (.cvtF32F64 m d a) := fun _ =>
  ((show ∀ x, decodeS (opM 0x0D0 m) x = fSR2 (.cvtF32F64 m) x by intro x; cases m <;> rfl) _).trans (fSR2_eSR2 (.cvtF32F64 m) d a)
theorem cvtF64F32 (d : SDst) (a : SSrc) : Statement (.cvtF64F32 d a) := fun _ => fSR2_eSR2 .cvtF64F32 d a
theorem br (ofs : BitVec 24) : Statement (.br ofs) := fun _ => br_enc ofs
theorem call (ofs : BitVec 24) : Statement (.call ofs) := fun _ => call_enc ofs
theorem brr (a : SSrc) : Statement (.brr a) := fun _ => fYR_eYR .brr a
theorem callr (a : SSrc) : Statement (.callr a) := fun _ => fYR_eYR .callr a
theorem ret : Statement .ret := fun _ => rfl
theorem loop (body : BitVec 6) (count : BitVec 16) : Statement (.loop body count) := fun _ => loop_enc body count
theorem loopr (body : BitVec 6) (a : SSrc) : Statement (.loopr body a) := fun _ => loopr_enc body a
theorem wait (w : BitVec 3) : Statement (.wait w) := fun _ => fW_eW .wait w
theorem waitph (p : BitVec 3) (a : SSrc) (b : SSrc) (tmo : BitVec 5) : Statement (.waitph p a b tmo) := fun hw => fYP_eYP .waitph p a b tmo hw
theorem waitbit (p : BitVec 3) (a : SSrc) (b : SSrc) (tmo : BitVec 5) : Statement (.waitbit p a b tmo) := fun hw => fYP_eYP .waitbit p a b tmo hw
theorem bar (sc : BitVec 3) : Statement (.bar sc) := fun hw => bar_enc sc hw
theorem fence (sc : BitVec 3) : Statement (.fence sc) := fun hw => fence_enc sc hw
theorem endStep : Statement .endStep := fun _ => rfl
theorem trap (imm : BitVec 16) : Statement (.trap imm) := fun _ => trap_enc imm
theorem trapack : Statement .trapack := fun _ => rfl
theorem tret : Statement .tret := fun _ => rfl
theorem crrd (d : SDst) (cr : BitVec 12) : Statement (.crrd d cr) := fun hw => crrd_enc d cr hw
theorem crwr (cr : BitVec 12) (a : SSrc) : Statement (.crwr cr a) := fun hw => crwr_enc cr a hw
theorem dadd (x : BitVec 5) (y : BitVec 5) (z : BitVec 5) (w : BitVec 3) : Statement (.dadd x y z w) := fun _ =>
  ((show ∀ x, decodeD 0x001 x = fDT .dadd x from fun _ => rfl) _).trans (fDT_eDT .dadd x y z w)
theorem dsub (x : BitVec 5) (y : BitVec 5) (z : BitVec 5) (w : BitVec 3) : Statement (.dsub x y z w) := fun _ =>
  ((show ∀ x, decodeD 0x002 x = fDT .dsub x from fun _ => rfl) _).trans (fDT_eDT .dsub x y z w)
theorem dmul (x : BitVec 5) (y : BitVec 5) (z : BitVec 5) (w : BitVec 3) : Statement (.dmul x y z w) := fun _ =>
  ((show ∀ x, decodeD 0x003 x = fDT .dmul x from fun _ => rfl) _).trans (fDT_eDT .dmul x y z w)
theorem dmin (x : BitVec 5) (y : BitVec 5) (z : BitVec 5) (w : BitVec 3) : Statement (.dmin x y z w) := fun _ =>
  ((show ∀ x, decodeD 0x004 x = fDT .dmin x from fun _ => rfl) _).trans (fDT_eDT .dmin x y z w)
theorem dmax (x : BitVec 5) (y : BitVec 5) (z : BitVec 5) (w : BitVec 3) : Statement (.dmax x y z w) := fun _ =>
  ((show ∀ x, decodeD 0x005 x = fDT .dmax x from fun _ => rfl) _).trans (fDT_eDT .dmax x y z w)
theorem deq (x : BitVec 5) (y : BitVec 5) (w : BitVec 3) : Statement (.deq x y w) := fun _ =>
  ((show ∀ x, decodeD 0x008 x = fDT2 .deq x from fun _ => rfl) _).trans (fDT2_eDT .deq x y w)
theorem dne (x : BitVec 5) (y : BitVec 5) (w : BitVec 3) : Statement (.dne x y w) := fun _ =>
  ((show ∀ x, decodeD 0x009 x = fDT2 .dne x from fun _ => rfl) _).trans (fDT2_eDT .dne x y w)
theorem dlt (x : BitVec 5) (y : BitVec 5) (w : BitVec 3) : Statement (.dlt x y w) := fun _ =>
  ((show ∀ x, decodeD 0x00A x = fDT2 .dlt x from fun _ => rfl) _).trans (fDT2_eDT .dlt x y w)
theorem dle (x : BitVec 5) (y : BitVec 5) (w : BitVec 3) : Statement (.dle x y w) := fun _ =>
  ((show ∀ x, decodeD 0x00B x = fDT2 .dle x from fun _ => rfl) _).trans (fDT2_eDT .dle x y w)
theorem deqi (c : BitVec 5) (imm : BitVec 16) (w : BitVec 3) : Statement (.deqi c imm w) := fun _ =>
  ((show ∀ x, decodeD 0x010 x = fDI .deqi x from fun _ => rfl) _).trans (fDI_eDI .deqi c imm w)
theorem dnei (c : BitVec 5) (imm : BitVec 16) (w : BitVec 3) : Statement (.dnei c imm w) := fun _ =>
  ((show ∀ x, decodeD 0x011 x = fDI .dnei x from fun _ => rfl) _).trans (fDI_eDI .dnei c imm w)
theorem dlti (c : BitVec 5) (imm : BitVec 16) (w : BitVec 3) : Statement (.dlti c imm w) := fun _ =>
  ((show ∀ x, decodeD 0x012 x = fDI .dlti x from fun _ => rfl) _).trans (fDI_eDI .dlti c imm w)
theorem dlei (c : BitVec 5) (imm : BitVec 16) (w : BitVec 3) : Statement (.dlei c imm w) := fun _ =>
  ((show ∀ x, decodeD 0x013 x = fDI .dlei x from fun _ => rfl) _).trans (fDI_eDI .dlei c imm w)
theorem dgti (c : BitVec 5) (imm : BitVec 16) (w : BitVec 3) : Statement (.dgti c imm w) := fun _ =>
  ((show ∀ x, decodeD 0x014 x = fDI .dgti x from fun _ => rfl) _).trans (fDI_eDI .dgti c imm w)
theorem dgei (c : BitVec 5) (imm : BitVec 16) (w : BitVec 3) : Statement (.dgei c imm w) := fun _ =>
  ((show ∀ x, decodeD 0x015 x = fDI .dgei x from fun _ => rfl) _).trans (fDI_eDI .dgei c imm w)
theorem din (c : BitVec 5) (map : BitVec 16) (o : BitVec 6) (w : BitVec 3) : Statement (.din c map o w) := fun _ => (decodeD_din o _).trans (fDI_eDI (fun c k w => .din c k o w) c map w)
theorem dnotin (c : BitVec 5) (map : BitVec 16) (o : BitVec 6) (w : BitVec 3) : Statement (.dnotin c map o w) := fun _ => (decodeD_dnotin o _).trans (fDI_eDI (fun c k w => .dnotin c k o w) c map w)
theorem delem (z : BitVec 5) (x : BitVec 5) (b : SSrc) (w : BitVec 3) : Statement (.delem z x b w) := fun _ =>
  ((show ∀ x, decodeD 0x018 x = fDTE x from fun _ => rfl) _).trans (fDTE_enc z x b w)
theorem dset (c : BitVec 5) (a : SSrc) (b : SSrc) (w : BitVec 3) : Statement (.dset c a b w) := fun _ =>
  ((show ∀ x, decodeD 0x020 x = fDS x from fun _ => rfl) _).trans (fDS_enc c a b w)
theorem dseti (c : BitVec 5) (lo : BitVec 10) (hi : BitVec 10) : Statement (.dseti c lo hi) := fun hw =>
  ((show ∀ x, decodeD 0x021 x = fDJ x from fun _ => rfl) _).trans (fDJ_enc c lo hi hw)
theorem dlab (d : SDst) (c : BitVec 5) (w : BitVec 3) : Statement (.dlab d c w) := fun _ =>
  ((show ∀ x, decodeD 0x028 x = fDR .dlab x from fun _ => rfl) _).trans (fDR_eDR .dlab d c w)
theorem dval (d : SDst) (c : BitVec 5) (w : BitVec 3) : Statement (.dval d c w) := fun _ =>
  ((show ∀ x, decodeD 0x029 x = fDR .dval x from fun _ => rfl) _).trans (fDR_eDR .dval d c w)
theorem dsize (d : SDst) (c : BitVec 5) (w : BitVec 3) : Statement (.dsize d c w) := fun _ =>
  ((show ∀ x, decodeD 0x02A x = fDR .dsize x from fun _ => rfl) _).trans (fDR_eDR .dsize d c w)
theorem dlo (d : SDst) (c : BitVec 5) (w : BitVec 3) : Statement (.dlo d c w) := fun _ =>
  ((show ∀ x, decodeD 0x02B x = fDR .dlo x from fun _ => rfl) _).trans (fDR_eDR .dlo d c w)
theorem dhi (d : SDst) (c : BitVec 5) (w : BitVec 3) : Statement (.dhi d c w) := fun _ =>
  ((show ∀ x, decodeD 0x02C x = fDR .dhi x from fun _ => rfl) _).trans (fDR_eDR .dhi d c w)
theorem dsettle (w : BitVec 3) : Statement (.dsettle w) := fun _ =>
  ((show ∀ x, decodeD 0x030 x = fW .dsettle x from fun _ => rfl) _).trans (fW_eW .dsettle w)
theorem dclr : Statement .dclr := fun _ => rfl
theorem dopen (ofs : BitVec 26) : Statement (.dopen ofs) := fun _ => (show ∀ x, decodeD 0x033 x = .ok (.dopen x) from fun _ => rfl) ofs
theorem dclose : Statement .dclose := fun _ => rfl
theorem vadd (t : ITy) (g : BitVec 4) (k : BitVec 3) (d : VDst) (a : VSrc) (b : VSrc) : Statement (.vadd t g k d a b) := fun _ =>
  ((show ∀ x, decodeV (opI 0x004 t) x = fVR (.vadd t) x by intro x; cases t <;> rfl) _).trans (fVR_eVR (.vadd t) g k d a b)
theorem vsub (t : ITy) (g : BitVec 4) (k : BitVec 3) (d : VDst) (a : VSrc) (b : VSrc) : Statement (.vsub t g k d a b) := fun _ =>
  ((show ∀ x, decodeV (opI 0x008 t) x = fVR (.vsub t) x by intro x; cases t <;> rfl) _).trans (fVR_eVR (.vsub t) g k d a b)
theorem vadds (t : ITy) (g : BitVec 4) (k : BitVec 3) (d : VDst) (a : VSrc) (b : VSrc) : Statement (.vadds t g k d a b) := fun _ =>
  ((show ∀ x, decodeV (opI 0x00C t) x = fVR (.vadds t) x by intro x; cases t <;> rfl) _).trans (fVR_eVR (.vadds t) g k d a b)
theorem vaddsu (t : ITy) (g : BitVec 4) (k : BitVec 3) (d : VDst) (a : VSrc) (b : VSrc) : Statement (.vaddsu t g k d a b) := fun _ =>
  ((show ∀ x, decodeV (opI 0x010 t) x = fVR (.vaddsu t) x by intro x; cases t <;> rfl) _).trans (fVR_eVR (.vaddsu t) g k d a b)
theorem vsubs (t : ITy) (g : BitVec 4) (k : BitVec 3) (d : VDst) (a : VSrc) (b : VSrc) : Statement (.vsubs t g k d a b) := fun _ =>
  ((show ∀ x, decodeV (opI 0x014 t) x = fVR (.vsubs t) x by intro x; cases t <;> rfl) _).trans (fVR_eVR (.vsubs t) g k d a b)
theorem vsubsu (t : ITy) (g : BitVec 4) (k : BitVec 3) (d : VDst) (a : VSrc) (b : VSrc) : Statement (.vsubsu t g k d a b) := fun _ =>
  ((show ∀ x, decodeV (opI 0x018 t) x = fVR (.vsubsu t) x by intro x; cases t <;> rfl) _).trans (fVR_eVR (.vsubsu t) g k d a b)
theorem vmul (t : ITy) (g : BitVec 4) (k : BitVec 3) (d : VDst) (a : VSrc) (b : VSrc) : Statement (.vmul t g k d a b) := fun _ =>
  ((show ∀ x, decodeV (opI 0x01C t) x = fVR (.vmul t) x by intro x; cases t <;> rfl) _).trans (fVR_eVR (.vmul t) g k d a b)
theorem vmin (t : ITy) (g : BitVec 4) (k : BitVec 3) (d : VDst) (a : VSrc) (b : VSrc) : Statement (.vmin t g k d a b) := fun _ =>
  ((show ∀ x, decodeV (opI 0x020 t) x = fVR (.vmin t) x by intro x; cases t <;> rfl) _).trans (fVR_eVR (.vmin t) g k d a b)
theorem vmax (t : ITy) (g : BitVec 4) (k : BitVec 3) (d : VDst) (a : VSrc) (b : VSrc) : Statement (.vmax t g k d a b) := fun _ =>
  ((show ∀ x, decodeV (opI 0x024 t) x = fVR (.vmax t) x by intro x; cases t <;> rfl) _).trans (fVR_eVR (.vmax t) g k d a b)
theorem vminu (t : ITy) (g : BitVec 4) (k : BitVec 3) (d : VDst) (a : VSrc) (b : VSrc) : Statement (.vminu t g k d a b) := fun _ =>
  ((show ∀ x, decodeV (opI 0x028 t) x = fVR (.vminu t) x by intro x; cases t <;> rfl) _).trans (fVR_eVR (.vminu t) g k d a b)
theorem vmaxu (t : ITy) (g : BitVec 4) (k : BitVec 3) (d : VDst) (a : VSrc) (b : VSrc) : Statement (.vmaxu t g k d a b) := fun _ =>
  ((show ∀ x, decodeV (opI 0x02C t) x = fVR (.vmaxu t) x by intro x; cases t <;> rfl) _).trans (fVR_eVR (.vmaxu t) g k d a b)
theorem vshl (t : ITy) (g : BitVec 4) (k : BitVec 3) (d : VDst) (a : VSrc) (b : VSrc) : Statement (.vshl t g k d a b) := fun _ =>
  ((show ∀ x, decodeV (opI 0x030 t) x = fVR (.vshl t) x by intro x; cases t <;> rfl) _).trans (fVR_eVR (.vshl t) g k d a b)
theorem vshr (t : ITy) (g : BitVec 4) (k : BitVec 3) (d : VDst) (a : VSrc) (b : VSrc) : Statement (.vshr t g k d a b) := fun _ =>
  ((show ∀ x, decodeV (opI 0x034 t) x = fVR (.vshr t) x by intro x; cases t <;> rfl) _).trans (fVR_eVR (.vshr t) g k d a b)
theorem vsar (t : ITy) (g : BitVec 4) (k : BitVec 3) (d : VDst) (a : VSrc) (b : VSrc) : Statement (.vsar t g k d a b) := fun _ =>
  ((show ∀ x, decodeV (opI 0x038 t) x = fVR (.vsar t) x by intro x; cases t <;> rfl) _).trans (fVR_eVR (.vsar t) g k d a b)
theorem vand (g : BitVec 4) (k : BitVec 3) (d : VDst) (a : VSrc) (b : VSrc) : Statement (.vand g k d a b) := fun _ =>
  ((show ∀ x, decodeV 0x040 x = fVR .vand x from fun _ => rfl) _).trans (fVR_eVR .vand g k d a b)
theorem vor (g : BitVec 4) (k : BitVec 3) (d : VDst) (a : VSrc) (b : VSrc) : Statement (.vor g k d a b) := fun _ =>
  ((show ∀ x, decodeV 0x041 x = fVR .vor x from fun _ => rfl) _).trans (fVR_eVR .vor g k d a b)
theorem vxor (g : BitVec 4) (k : BitVec 3) (d : VDst) (a : VSrc) (b : VSrc) : Statement (.vxor g k d a b) := fun _ =>
  ((show ∀ x, decodeV 0x042 x = fVR .vxor x from fun _ => rfl) _).trans (fVR_eVR .vxor g k d a b)
theorem vandn (g : BitVec 4) (k : BitVec 3) (d : VDst) (a : VSrc) (b : VSrc) : Statement (.vandn g k d a b) := fun _ =>
  ((show ∀ x, decodeV 0x043 x = fVR .vandn x from fun _ => rfl) _).trans (fVR_eVR .vandn g k d a b)
theorem vmov (g : BitVec 4) (k : BitVec 3) (d : VDst) (a : VSrc) : Statement (.vmov g k d a) := fun _ =>
  ((show ∀ x, decodeV 0x044 x = fVR2 .vmov x from fun _ => rfl) _).trans (fVR2_eVR2 .vmov g k d a)
theorem vsel (g : BitVec 4) (k : BitVec 3) (d : VDst) (a : VSrc) (b : VSrc) : Statement (.vsel g k d a b) := fun _ =>
  ((show ∀ x, decodeV 0x045 x = fVR .vsel x from fun _ => rfl) _).trans (fVR_eVR .vsel g k d a b)
theorem vperm (g : BitVec 4) (k : BitVec 3) (d : VDst) (a : VSrc) (b : VSrc) : Statement (.vperm g k d a b) := fun _ =>
  ((show ∀ x, decodeV 0x046 x = fVR .vperm x from fun _ => rfl) _).trans (fVR_eVR .vperm g k d a b)
theorem vbcast (g : BitVec 4) (k : BitVec 3) (d : VDst) (s : BitVec 6) : Statement (.vbcast g k d s) := fun _ =>
  ((show ∀ x, decodeV 0x047 x = fVS x from fun _ => rfl) _).trans (fVS_enc g k d s)
theorem vidx (g : BitVec 4) (k : BitVec 3) (d : VDst) : Statement (.vidx g k d) := fun _ =>
  ((show ∀ x, decodeV 0x048 x = fVR1 .vidx x from fun _ => rfl) _).trans (fVR1_enc .vidx g k d)
theorem vcmpeq (g : BitVec 4) (k : BitVec 3) (kd : BitVec 3) (a : VSrc) (b : VSrc) : Statement (.vcmpeq g k kd a b) := fun hw =>
  ((show ∀ x, decodeV 0x050 x = fVC .vcmpeq x from fun _ => rfl) _).trans (fVC_eVC .vcmpeq g k kd a b hw)
theorem vcmplt (g : BitVec 4) (k : BitVec 3) (kd : BitVec 3) (a : VSrc) (b : VSrc) : Statement (.vcmplt g k kd a b) := fun hw =>
  ((show ∀ x, decodeV 0x051 x = fVC .vcmplt x from fun _ => rfl) _).trans (fVC_eVC .vcmplt g k kd a b hw)
theorem vcmple (g : BitVec 4) (k : BitVec 3) (kd : BitVec 3) (a : VSrc) (b : VSrc) : Statement (.vcmple g k kd a b) := fun hw =>
  ((show ∀ x, decodeV 0x052 x = fVC .vcmple x from fun _ => rfl) _).trans (fVC_eVC .vcmple g k kd a b hw)
theorem vcmpltu (g : BitVec 4) (k : BitVec 3) (kd : BitVec 3) (a : VSrc) (b : VSrc) : Statement (.vcmpltu g k kd a b) := fun hw =>
  ((show ∀ x, decodeV 0x053 x = fVC .vcmpltu x from fun _ => rfl) _).trans (fVC_eVC .vcmpltu g k kd a b hw)
theorem vcmpleu (g : BitVec 4) (k : BitVec 3) (kd : BitVec 3) (a : VSrc) (b : VSrc) : Statement (.vcmpleu g k kd a b) := fun hw =>
  ((show ∀ x, decodeV 0x054 x = fVC .vcmpleu x from fun _ => rfl) _).trans (fVC_eVC .vcmpleu g k kd a b hw)
theorem vfcmpeq (g : BitVec 4) (k : BitVec 3) (kd : BitVec 3) (a : VSrc) (b : VSrc) : Statement (.vfcmpeq g k kd a b) := fun hw =>
  ((show ∀ x, decodeV 0x058 x = fVC .vfcmpeq x from fun _ => rfl) _).trans (fVC_eVC .vfcmpeq g k kd a b hw)
theorem vfcmplt (g : BitVec 4) (k : BitVec 3) (kd : BitVec 3) (a : VSrc) (b : VSrc) : Statement (.vfcmplt g k kd a b) := fun hw =>
  ((show ∀ x, decodeV 0x059 x = fVC .vfcmplt x from fun _ => rfl) _).trans (fVC_eVC .vfcmplt g k kd a b hw)
theorem vfcmple (g : BitVec 4) (k : BitVec 3) (kd : BitVec 3) (a : VSrc) (b : VSrc) : Statement (.vfcmple g k kd a b) := fun hw =>
  ((show ∀ x, decodeV 0x05A x = fVC .vfcmple x from fun _ => rfl) _).trans (fVC_eVC .vfcmple g k kd a b hw)
theorem vfcmpun (g : BitVec 4) (k : BitVec 3) (kd : BitVec 3) (a : VSrc) (b : VSrc) : Statement (.vfcmpun g k kd a b) := fun hw =>
  ((show ∀ x, decodeV 0x05B x = fVC .vfcmpun x from fun _ => rfl) _).trans (fVC_eVC .vfcmpun g k kd a b hw)
theorem kand (g : BitVec 4) (k : BitVec 3) (kd : BitVec 3) (ka : BitVec 3) (kb : BitVec 3) : Statement (.kand g k kd ka kb) := fun hw =>
  ((show ∀ x, decodeV 0x060 x = fVCK .kand x from fun _ => rfl) _).trans (fVCK_eVCK .kand g k kd ka kb hw)
theorem kor (g : BitVec 4) (k : BitVec 3) (kd : BitVec 3) (ka : BitVec 3) (kb : BitVec 3) : Statement (.kor g k kd ka kb) := fun hw =>
  ((show ∀ x, decodeV 0x061 x = fVCK .kor x from fun _ => rfl) _).trans (fVCK_eVCK .kor g k kd ka kb hw)
theorem kxor (g : BitVec 4) (k : BitVec 3) (kd : BitVec 3) (ka : BitVec 3) (kb : BitVec 3) : Statement (.kxor g k kd ka kb) := fun hw =>
  ((show ∀ x, decodeV 0x062 x = fVCK .kxor x from fun _ => rfl) _).trans (fVCK_eVCK .kxor g k kd ka kb hw)
theorem kandn (g : BitVec 4) (k : BitVec 3) (kd : BitVec 3) (ka : BitVec 3) (kb : BitVec 3) : Statement (.kandn g k kd ka kb) := fun hw =>
  ((show ∀ x, decodeV 0x063 x = fVCK .kandn x from fun _ => rfl) _).trans (fVCK_eVCK .kandn g k kd ka kb hw)
theorem vfadd (m : Rm) (g : BitVec 4) (k : BitVec 3) (d : VDst) (a : VSrc) (b : VSrc) : Statement (.vfadd m g k d a b) := fun _ =>
  ((show ∀ x, decodeV (opM 0x080 m) x = fVR (.vfadd m) x by intro x; cases m <;> rfl) _).trans (fVR_eVR (.vfadd m) g k d a b)
theorem vfsub (m : Rm) (g : BitVec 4) (k : BitVec 3) (d : VDst) (a : VSrc) (b : VSrc) : Statement (.vfsub m g k d a b) := fun _ =>
  ((show ∀ x, decodeV (opM 0x084 m) x = fVR (.vfsub m) x by intro x; cases m <;> rfl) _).trans (fVR_eVR (.vfsub m) g k d a b)
theorem vfmul (m : Rm) (g : BitVec 4) (k : BitVec 3) (d : VDst) (a : VSrc) (b : VSrc) : Statement (.vfmul m g k d a b) := fun _ =>
  ((show ∀ x, decodeV (opM 0x088 m) x = fVR (.vfmul m) x by intro x; cases m <;> rfl) _).trans (fVR_eVR (.vfmul m) g k d a b)
theorem vfma (m : Rm) (g : BitVec 4) (k : BitVec 3) (d : VDst) (a : VSrc) (b : VSrc) : Statement (.vfma m g k d a b) := fun _ =>
  ((show ∀ x, decodeV (opM 0x08C m) x = fVR (.vfma m) x by intro x; cases m <;> rfl) _).trans (fVR_eVR (.vfma m) g k d a b)
theorem vfmin (g : BitVec 4) (k : BitVec 3) (d : VDst) (a : VSrc) (b : VSrc) : Statement (.vfmin g k d a b) := fun _ =>
  ((show ∀ x, decodeV 0x090 x = fVR .vfmin x from fun _ => rfl) _).trans (fVR_eVR .vfmin g k d a b)
theorem vfmax (g : BitVec 4) (k : BitVec 3) (d : VDst) (a : VSrc) (b : VSrc) : Statement (.vfmax g k d a b) := fun _ =>
  ((show ∀ x, decodeV 0x091 x = fVR .vfmax x from fun _ => rfl) _).trans (fVR_eVR .vfmax g k d a b)
theorem vfabs (g : BitVec 4) (k : BitVec 3) (d : VDst) (a : VSrc) : Statement (.vfabs g k d a) := fun _ =>
  ((show ∀ x, decodeV 0x092 x = fVR2 .vfabs x from fun _ => rfl) _).trans (fVR2_eVR2 .vfabs g k d a)
theorem vfneg (g : BitVec 4) (k : BitVec 3) (d : VDst) (a : VSrc) : Statement (.vfneg g k d a) := fun _ =>
  ((show ∀ x, decodeV 0x093 x = fVR2 .vfneg x from fun _ => rfl) _).trans (fVR2_eVR2 .vfneg g k d a)
theorem vrcp (g : BitVec 4) (k : BitVec 3) (d : VDst) (a : VSrc) : Statement (.vrcp g k d a) := fun _ =>
  ((show ∀ x, decodeV 0x0A0 x = fVR2 .vrcp x from fun _ => rfl) _).trans (fVR2_eVR2 .vrcp g k d a)
theorem vrsqrt (g : BitVec 4) (k : BitVec 3) (d : VDst) (a : VSrc) : Statement (.vrsqrt g k d a) := fun _ =>
  ((show ∀ x, decodeV 0x0A1 x = fVR2 .vrsqrt x from fun _ => rfl) _).trans (fVR2_eVR2 .vrsqrt g k d a)
theorem vexp2 (g : BitVec 4) (k : BitVec 3) (d : VDst) (a : VSrc) : Statement (.vexp2 g k d a) := fun _ =>
  ((show ∀ x, decodeV 0x0A2 x = fVR2 .vexp2 x from fun _ => rfl) _).trans (fVR2_eVR2 .vexp2 g k d a)
theorem vlog2 (g : BitVec 4) (k : BitVec 3) (d : VDst) (a : VSrc) : Statement (.vlog2 g k d a) := fun _ =>
  ((show ∀ x, decodeV 0x0A3 x = fVR2 .vlog2 x from fun _ => rfl) _).trans (fVR2_eVR2 .vlog2 g k d a)
theorem vradd (t : RedTy) (g : BitVec 4) (k : BitVec 3) (d : VDst) (a : VSrc) : Statement (.vradd t g k d a) := fun _ =>
  ((show ∀ x, decodeV (opRed 0 t) x = fVR2 (.vradd t) x by intro x; cases t <;> rfl) _).trans (fVR2_eVR2 (.vradd t) g k d a)
theorem vrmax (t : RedTy) (g : BitVec 4) (k : BitVec 3) (d : VDst) (a : VSrc) : Statement (.vrmax t g k d a) := fun _ =>
  ((show ∀ x, decodeV (opRed 1 t) x = fVR2 (.vrmax t) x by intro x; cases t <;> rfl) _).trans (fVR2_eVR2 (.vrmax t) g k d a)
theorem vrmin (t : RedTy) (g : BitVec 4) (k : BitVec 3) (d : VDst) (a : VSrc) : Statement (.vrmin t g k d a) := fun _ =>
  ((show ∀ x, decodeV (opRed 2 t) x = fVR2 (.vrmin t) x by intro x; cases t <;> rfl) _).trans (fVR2_eVR2 (.vrmin t) g k d a)
theorem vxc (g : BitVec 4) (k : BitVec 3) (d : VDst) (a : VSrc) (sc : BitVec 3) : Statement (.vxc g k d a sc) := fun _ =>
  ((show ∀ x, decodeV 0x0C0 x = fVX x from fun _ => rfl) _).trans (fVX_enc g k d a sc)
theorem vcvt (f : CvtForm) (g : BitVec 4) (k : BitVec 3) (d : VDst) (a : VSrc) (b : VSrc) : Statement (.vcvt f g k d a b) := fun hw => (decodeV_cvt f _).trans (fVCvt_eVR f g k d a b hw)
theorem afromv (ad : BitVec 4) (vs : BitVec 5) : Statement (.afromv ad vs) := fun _ => afromv_enc ad vs
theorem atov (vd : BitVec 5) (as : BitVec 4) : Statement (.atov vd as) := fun _ => atov_enc vd as
theorem adot (d : SDst) (aa : BitVec 4) (ab : BitVec 4) : Statement (.adot d aa ab) := fun _ => adot_enc d aa ab
theorem adotm (vd : BitVec 5) (cl : BitVec 3) (aa : BitVec 4) (b : SSrc) : Statement (.adotm vd cl aa b) := fun _ => adotm_enc vd cl aa b
theorem ascl (ad : BitVec 4) (b : SSrc) : Statement (.ascl ad b) := fun _ => ascl_enc ad b
theorem ascli (ad : BitVec 4) (imm : BitVec 19) : Statement (.ascli ad imm) := fun _ => ascli_enc ad imm
theorem amag (d : SDst) (as : BitVec 4) : Statement (.amag d as) := fun _ => amag_enc d as
theorem aneg (ad : BitVec 4) (as : BitVec 4) : Statement (.aneg ad as) := fun _ => aneg_enc ad as
theorem aadd (ad : BitVec 4) (aa : BitVec 4) (ab : BitVec 4) : Statement (.aadd ad aa ab) := fun _ => aadd_enc ad aa ab
theorem asub (ad : BitVec 4) (aa : BitVec 4) (ab : BitVec 4) : Statement (.asub ad aa ab) := fun _ => asub_enc ad aa ab
theorem alerp (ad : BitVec 4) (aa : BitVec 4) (ab : BitVec 4) (t : SSrc) : Statement (.alerp ad aa ab t) := fun _ => alerp_enc ad aa ab t
theorem azero (ad : BitVec 4) : Statement (.azero ad) := fun _ => azero_enc ad
theorem asetn (ad : BitVec 4) (b : SSrc) : Statement (.asetn ad b) := fun _ => asetn_enc ad b
theorem mma (f : MmaFmt) (rep : BitVec 8) (acc : BitVec 2) (a : TOp) (b : TOp) (w : BitVec 3) : Statement (.mma f rep acc a b w) := by
  cases f
  · exact fun _ => mma_bf16_enc rep acc a b w
  · exact fun _ => mma_e4m3_enc rep acc a b w
  · exact fun _ => mma_e5m2_enc rep acc a b w
  · exact fun _ => mma_f32_enc rep acc a b w
  · exact fun _ => mma_f64_enc rep acc a b w
theorem mmaq (rep : BitVec 8) (acc : BitVec 2) (a : TOp) (b : WOp) (w : BitVec 3) : Statement (.mmaq rep acc a b w) := by
  cases b with
  | blk n => exact fun hw => mmaq_blk_enc rep acc a n w hw
  | ma i => exact fun _ => mmaq_ma_enc rep acc a i w
theorem msca (rep : BitVec 8) (acc : BitVec 2) (hi : Bool) (v : BitVec 5) (w : BitVec 3) : Statement (.msca rep acc hi v w) := fun _ => msca_enc rep acc hi v w
theorem mzero (rep : BitVec 8) (acc : BitVec 2) (w : BitVec 3) : Statement (.mzero rep acc w) := fun _ => mzero_enc rep acc w
theorem mret (rep : BitVec 8) (acc : BitVec 2) (d : TOp) (part : Bool) (w : BitVec 3) : Statement (.mret rep acc d part w) := fun hw => mret_enc rep acc d part w hw
theorem mrets (rep : BitVec 8) (acc : BitVec 2) (part : Bool) (b : SSrc) (w : BitVec 3) : Statement (.mrets rep acc part b w) := fun _ => mrets_enc rep acc part b w
theorem mcvt (f : McvtFmt) (m : Rm5) (rep : BitVec 8) (acc : BitVec 2) (d : TOp) (half : Bool) (w : BitVec 3) : Statement (.mcvt f m rep acc d half w) := by
  cases f <;> cases m
  · exact fun hw => mcvt_bf16_rne_enc rep acc d half w (by simpa [Instr.wf] using hw)
  · exact fun hw => mcvt_bf16_rz_enc rep acc d half w (by simpa [Instr.wf] using hw)
  · exact fun hw => mcvt_bf16_ru_enc rep acc d half w (by simpa [Instr.wf] using hw)
  · exact fun hw => mcvt_bf16_rd_enc rep acc d half w (by simpa [Instr.wf] using hw)
  · exact fun hw => mcvt_bf16_rs_enc rep acc d half w (by simpa [Instr.wf] using hw)
  · exact fun _ => mcvt_e4m3_rne_enc rep acc d half w
  · exact fun _ => mcvt_e4m3_rz_enc rep acc d half w
  · exact fun _ => mcvt_e4m3_ru_enc rep acc d half w
  · exact fun _ => mcvt_e4m3_rd_enc rep acc d half w
  · exact fun _ => mcvt_e4m3_rs_enc rep acc d half w
  · exact fun _ => mcvt_e5m2_rne_enc rep acc d half w
  · exact fun _ => mcvt_e5m2_rz_enc rep acc d half w
  · exact fun _ => mcvt_e5m2_ru_enc rep acc d half w
  · exact fun _ => mcvt_e5m2_rd_enc rep acc d half w
  · exact fun _ => mcvt_e5m2_rs_enc rep acc d half w
theorem mtr (rep : BitVec 8) (a : TOp) (d : TOp) (w : BitVec 3) : Statement (.mtr rep a d w) := fun _ => mtr_enc rep a d w
theorem mldl (rep : BitVec 8) (a : TOp) (d : TOp) (w : BitVec 3) : Statement (.mldl rep a d w) := fun _ => mldl_enc rep a d w
theorem mtrs (rep : BitVec 8) (mode : TrsMode) (a : TOp) (b : TOp) (w : BitVec 3) : Statement (.mtrs rep mode a b w) := by
  cases mode
  · exact fun _ => mtrs_full_enc rep a b w
  · exact fun _ => mtrs_fwd_enc rep a b w
  · exact fun _ => mtrs_diag_enc rep a b w
  · exact fun _ => mtrs_bwd_enc rep a b w
theorem msetma (ma : BitVec 2) (sel : MaSel) (a : SSrc) : Statement (.msetma ma sel a) := by
  cases sel
  · exact fun _ => msetma_base_enc ma a
  · exact fun _ => msetma_stride_enc ma a
  · exact fun _ => msetma_count_enc ma a
theorem lds (t : LdTy) (d : SDst) (a : SSrc) (ofs : BitVec 12) : Statement (.lds t d a ofs) := by
  cases t
  · exact fun _ => ((show ∀ x, decodeL 1 x = fSI (.lds .i8) x from fun _ => rfl) _).trans (fSI_eSI (.lds .i8) d a ofs)
  · exact fun _ => ((show ∀ x, decodeL 2 x = fSI (.lds .n8) x from fun _ => rfl) _).trans (fSI_eSI (.lds .n8) d a ofs)
  · exact fun _ => ((show ∀ x, decodeL 3 x = fSI (.lds .i16) x from fun _ => rfl) _).trans (fSI_eSI (.lds .i16) d a ofs)
  · exact fun _ => ((show ∀ x, decodeL 4 x = fSI (.lds .n16) x from fun _ => rfl) _).trans (fSI_eSI (.lds .n16) d a ofs)
  · exact fun _ => ((show ∀ x, decodeL 5 x = fSI (.lds .i32) x from fun _ => rfl) _).trans (fSI_eSI (.lds .i32) d a ofs)
  · exact fun _ => ((show ∀ x, decodeL 6 x = fSI (.lds .n32) x from fun _ => rfl) _).trans (fSI_eSI (.lds .n32) d a ofs)
  · exact fun _ => ((show ∀ x, decodeL 7 x = fSI (.lds .i64) x from fun _ => rfl) _).trans (fSI_eSI (.lds .i64) d a ofs)
theorem ldv (g : BitVec 4) (d : VDst) (a : SSrc) (ofs : BitVec 9) : Statement (.ldv g d a ofs) := fun _ => ldv_enc g d a ofs
theorem ald (ad : BitVec 4) (a : SSrc) (ofs : BitVec 12) : Statement (.ald ad a ofs) := fun _ => ald_enc ad a ofs
theorem tld (t : BitVec 4) (a : SSrc) (b : SSrc) (w : BitVec 3) : Statement (.tld t a b w) := fun _ => fLT_eLT .tld t a b w
theorem tldw (wb : BitVec 7) (a : SSrc) (w : BitVec 3) : Statement (.tldw wb a w) := fun hw => tldw_enc wb a w hw
theorem sts (t : StTy) (a : SSrc) (b : SSrc) (ofs : BitVec 12) : Statement (.sts t a b ofs) := by
  cases t
  · exact fun _ => ((show ∀ x, decodeW 1 x = fWS (.sts .i8) x from fun _ => rfl) _).trans (fWS_eWS (.sts .i8) a b ofs)
  · exact fun _ => ((show ∀ x, decodeW 2 x = fWS (.sts .i16) x from fun _ => rfl) _).trans (fWS_eWS (.sts .i16) a b ofs)
  · exact fun _ => ((show ∀ x, decodeW 3 x = fWS (.sts .i32) x from fun _ => rfl) _).trans (fWS_eWS (.sts .i32) a b ofs)
  · exact fun _ => ((show ∀ x, decodeW 4 x = fWS (.sts .i64) x from fun _ => rfl) _).trans (fWS_eWS (.sts .i64) a b ofs)
theorem stv (g : BitVec 4) (a : VSrc) (b : SSrc) (ofs : BitVec 9) : Statement (.stv g a b ofs) := fun _ => stv_enc g a b ofs
theorem ast (as : BitVec 4) (b : SSrc) (ofs : BitVec 12) : Statement (.ast as b ofs) := fun _ => ast_enc as b ofs
theorem tst (t : BitVec 4) (a : SSrc) (b : SSrc) (w : BitVec 3) : Statement (.tst t a b w) := fun _ => fLT_eLT .tst t a b w
theorem amoadd (d : SDst) (a : SSrc) (b : SSrc) (w : BitVec 3) : Statement (.amoadd d a b w) := fun _ => fWM_eWM .amoadd d a b w
theorem amoswp (d : SDst) (a : SSrc) (b : SSrc) (w : BitVec 3) : Statement (.amoswp d a b w) := fun _ => fWM_eWM .amoswp d a b w
theorem amocas (d : SDst) (a : SSrc) (b : SSrc) (w : BitVec 3) : Statement (.amocas d a b w) := fun _ => fWM_eWM .amocas d a b w
theorem amomin (d : SDst) (a : SSrc) (b : SSrc) (w : BitVec 3) : Statement (.amomin d a b w) := fun _ => fWM_eWM .amomin d a b w
theorem amomax (d : SDst) (a : SSrc) (b : SSrc) (w : BitVec 3) : Statement (.amomax d a b w) := fun _ => fWM_eWM .amomax d a b w
theorem amoand (d : SDst) (a : SSrc) (b : SSrc) (w : BitVec 3) : Statement (.amoand d a b w) := fun _ => fWM_eWM .amoand d a b w
theorem amoor (d : SDst) (a : SSrc) (b : SSrc) (w : BitVec 3) : Statement (.amoor d a b w) := fun _ => fWM_eWM .amoor d a b w
theorem binit (d : SDst) (a : SSrc) (b : SSrc) (w : BitVec 3) : Statement (.binit d a b w) := fun _ => fWM_eWM .binit d a b w
theorem arrive (d : SDst) (a : SSrc) (n : BitVec 4) (w : BitVec 3) : Statement (.arrive d a n w) := fun hw => fWB_enc d a n w hw
theorem xtld (pair : Bool) (t : BitVec 4) (a : SSrc) (b : SSrc) (w : BitVec 3) : Statement (.xtld pair t a b w) := fun hw => fXT_eXT .xtld pair t a b w hw
theorem xtst (pair : Bool) (t : BitVec 4) (a : SSrc) (b : SSrc) (w : BitVec 3) : Statement (.xtst pair t a b w) := fun hw => fXT_eXT .xtst pair t a b w hw
theorem xcpy (a : SSrc) (b : SSrc) (c : SSrc) (w : BitVec 3) : Statement (.xcpy a b c w) := fun _ => fXF_eXF .xcpy a b c w
theorem pput (a : SSrc) (b : SSrc) (c : SSrc) (w : BitVec 3) : Statement (.pput a b c w) := fun _ => fXF_eXF .pput a b c w
theorem pget (a : SSrc) (b : SSrc) (c : SSrc) (w : BitVec 3) : Statement (.pget a b c w) := fun _ => fXF_eXF .pget a b c w
theorem xset (cr : BitVec 3) (a : SSrc) : Statement (.xset cr a) := fun _ => xset_enc cr a
theorem xgo (w : BitVec 3) : Statement (.xgo w) := fun _ => fW_eW .xgo w
theorem read (g : Nat) (x : Bool) : Statement (.read g x) := trivial
theorem write (g : Nat) (x : Bool) : Statement (.write g x) := trivial
theorem send (g : Nat) : Statement (.send g) := trivial
theorem arbitrate (i : Nat) : Statement (.arbitrate i) := trivial
theorem port (g : Nat) (x : Bool) : Statement (.port g x) := trivial
theorem deposit (g : Nat) (x : Bool) : Statement (.deposit g x) := trivial
theorem hostop (g : Nat) (x : Bool) : Statement (.hostop g x) := trivial
theorem observe (i : Nat) : Statement (.observe i) := trivial
theorem deliver (i : Nat) (j : Nat) : Statement (.deliver i j) := trivial
theorem apply (j : Nat) (k : Nat) : Statement (.apply j k) := trivial
theorem drain (g : Nat) : Statement (.drain g) := trivial
theorem copyCommandStart (g : Nat) : Statement (.copyCommandStart g) := trivial
theorem copyCommandComplete (g : Nat) : Statement (.copyCommandComplete g) := trivial
theorem copyNodeRun (p : Nat) : Statement (.copyNodeRun p) := trivial
theorem barrierCompletion (g : Nat) : Statement (.barrierCompletion g) := trivial
theorem dequeue (q : Nat) : Statement (.dequeue q) := trivial
theorem dispatch (p : Nat) (cores : List Nat) : Statement (.dispatch p cores) := trivial
theorem gangReservationExpiry (p : Nat) : Statement (.gangReservationExpiry p) := trivial
theorem preemptionRequest (g : Nat) : Statement (.preemptionRequest g) := trivial
theorem yield (g : Nat) : Statement (.yield g) := trivial
theorem restore (p : Nat) (slot : Nat) (cores : List Nat) (err : Bool) : Statement (.restore p slot cores err) := trivial
theorem sliceEnd (outgoing : Nat) (incoming : Nat) : Statement (.sliceEnd outgoing incoming) := trivial
theorem deadlineExpiry (p : Nat) (node : W64) : Statement (.deadlineExpiry p node) := trivial
theorem watchdogExpiry (g : Nat) : Statement (.watchdogExpiry g) := trivial
theorem hardCoreReset (g : Nat) : Statement (.hardCoreReset g) := trivial
theorem elisionScrub (p : ScrubTurn) : Statement (.elisionScrub p) := trivial
theorem tokenDelivery (p : Nat) (node : W64) : Statement (.tokenDelivery p node) := trivial
theorem quadRepair (die : Nat) (quad : Nat) : Statement (.quadRepair die quad) := trivial
theorem bankRepair (g : Nat) : Statement (.bankRepair g) := trivial
theorem channelRepair (die : Nat) (unit : Nat) : Statement (.channelRepair die unit) := trivial
theorem groupFetch (g : Nat) : Statement (.groupFetch g) := trivial
theorem resultLanding (g : Nat) : Statement (.resultLanding g) := trivial
theorem matrixCommandStart (g : Nat) : Statement (.matrixCommandStart g) := trivial
theorem matrixCommandComplete (g : Nat) : Statement (.matrixCommandComplete g) := trivial
theorem dOperationStart (g : Nat) : Statement (.dOperationStart g) := trivial
theorem dOperationComplete (g : Nat) : Statement (.dOperationComplete g) := trivial
theorem waitTimeout (g : Nat) : Statement (.waitTimeout g) := trivial
theorem launchAbiLoadEnd (g : Nat) : Statement (.launchAbiLoadEnd g) := trivial
theorem stepRetirement (g : Nat) : Statement (.stepRetirement g) := trivial
theorem saveAtComma (g : Nat) : Statement (.saveAtComma g) := trivial
theorem trapEntry (g : Nat) : Statement (.trapEntry g) := trivial
theorem breakpoint (g : Nat) (b : Nat) : Statement (.breakpoint g b) := trivial
theorem watchHit (g : Nat) (r : Nat) : Statement (.watchHit g r) := trivial
theorem coreUncorrectableError (g : Nat) (kind : BitVec 4) (unit : Byte) (row : W16) (col : W16) : Statement (.coreUncorrectableError g kind unit row col) := trivial
theorem sharedUncorrectableError (row : Nat) (inst : Nat) (pa : Nat) : Statement (.sharedUncorrectableError row inst pa) := trivial
theorem correctableError (row : Nat) (inst : Nat) : Statement (.correctableError row inst) := trivial
theorem stopreq (g : Nat) : Statement (.stopreq g) := trivial
theorem debuggerResume (g : Nat) : Statement (.debuggerResume g) := trivial
theorem debugStateWrite (g : Nat) (ofs : Nat) (data : List Byte) : Statement (.debugStateWrite g ofs data) := trivial
theorem latchPortWrite (g : Nat) (data : W512) : Statement (.latchPortWrite g data) := trivial
theorem hostDoorbell (q : Nat) (tail : W32) (entries : List W64) : Statement (.hostDoorbell q tail entries) := trivial
theorem startVectorWrite (p : Nat) (va : W64) : Statement (.startVectorWrite p va) := trivial
theorem copyNodeResume (p : Nat) (node : W64) : Statement (.copyNodeResume p node) := trivial
theorem hostRead (a : HostPlace) (n : Nat) : Statement (.hostRead a n) := trivial
theorem hostWrite (p : Nat) (pa : Nat) (h : Bool) (data : List Byte) : Statement (.hostWrite p pa h data) := trivial
theorem vfMemoryAccess (fn : Nat) (va : Nat) (wr : Bool) (data : List Byte) : Statement (.vfMemoryAccess fn va wr data) := trivial
theorem reload (p : Nat) : Statement (.reload p) := trivial
theorem flush (p : Nat) : Statement (.flush p) := trivial
theorem reset (p : Nat) : Statement (.reset p) := trivial
theorem scrub (p : Nat) : Statement (.scrub p) := trivial
theorem logstart (p : Nat) : Statement (.logstart p) := trivial
theorem loground (p : Nat) : Statement (.loground p) := trivial
theorem logstop (p : Nat) : Statement (.logstop p) := trivial
theorem bankClaim (die : Nat) (bank : Nat) (fn : Option Nat) : Statement (.bankClaim die bank fn) := trivial
theorem bankRelease (die : Nat) (bank : Nat) (fn : Option Nat) : Statement (.bankRelease die bank fn) := trivial
theorem counterLoRead (fn : Nat) (die : Nat) (bank : Nat) (c : Nat) : Statement (.counterLoRead fn die bank c) := trivial
theorem timestep (n : W64) : Statement (.timestep n) := trivial
theorem powerlimit (w : W64) : Statement (.powerlimit w) := trivial
theorem registerWrite (fn : Option Nat) (ofs : Nat) (v : W64) : Statement (.registerWrite fn ofs v) := trivial
theorem clockStepDown (die : Nat) (temp : Nat) : Statement (.clockStepDown die temp) := trivial
theorem clockStepUp (die : Nat) (temp : Nat) : Statement (.clockStepUp die temp) := trivial
theorem laneFailure (port : Nat) (lane : Nat) : Statement (.laneFailure port lane) := trivial
theorem moduleRemoval (m : Removal) : Statement (.moduleRemoval m) := trivial
theorem parentClockLoss : Statement .parentClockLoss := trivial
theorem ptpMessage (port : Nat) (kind : PtpKind) : Statement (.ptpMessage port kind) := trivial
theorem deviceReset (powerOn : Bool) : Statement (.deviceReset powerOn) := trivial
theorem colmerBind (p : Nat) (img : Image) : Statement (.colmerBind p img) := trivial
theorem counterBankControlRead (fn : Nat) (die : Nat) (bank : Nat) : Statement (.counterBankControlRead fn die bank) := trivial
theorem powerStateChange (st : PowerState) : Statement (.powerStateChange st) := trivial

end RoundTrip

end Sys2Proof.Laws
end

