-- ==== Sys2Proof/Tests/Slice0.lean ====
section
/-! SUPPORT. The model's own tests: words of the encoding tables decoded, ill-formed operations refused, a state that meets the premises
of every statement, and single steps with results taken from the manual's examples or worked out by hand. -/

namespace Sys2Proof.Tests

open Sys2Proof.Machine Sys2Proof.Claims

set_option maxRecDepth 100000
set_option Elab.async false
set_option exponentiation.threshold 600

/-! ## Words of the encoding tables of spec/03 (R57 to R60, R71 to R78)

Each word is put together field by field from the format of its instruction, apart from the decoder and the encoder. -/

/-- Every word decodes in its slot kind, under the guard p0, to the instruction beside it. -/
def decodes (k : SlotKind) (ws : List (BitVec 40 × Instr)) : Bool :=
  ws.all fun x => decide (decodeSlot k x.1 = .ok { gp := 0, gs := false, op := x.2 })

/-- Words of the S slot. -/
def wordsS : List (BitVec 40 × Instr) :=
  [(0x000498B940, .add (.reg 41) (.reg 37) (.latch 5)),
   (0x000898B940, .sub (.reg 41) (.reg 37) (.latch 5)),
   (0x000C98B940, .and (.reg 41) (.reg 37) (.latch 5)),
   (0x001098B940, .or (.reg 41) (.reg 37) (.latch 5)),
   (0x001498B940, .xor (.reg 41) (.reg 37) (.latch 5)),
   (0x001898B940, .andn (.reg 41) (.reg 37) (.latch 5)),
   (0x001C98B940, .shl (.reg 41) (.reg 37) (.latch 5)),
   (0x002098B940, .shr (.reg 41) (.reg 37) (.latch 5)),
   (0x002498B940, .sar (.reg 41) (.reg 37) (.latch 5)),
   (0x002898B940, .min (.reg 41) (.reg 37) (.latch 5)),
   (0x002C98B940, .max (.reg 41) (.reg 37) (.latch 5)),
   (0x003098B940, .minu (.reg 41) (.reg 37) (.latch 5)),
   (0x003498B940, .maxu (.reg 41) (.reg 37) (.latch 5)),
   (0x003898B940, .adds (.reg 41) (.reg 37) (.latch 5)),
   (0x003C98B940, .subs (.reg 41) (.reg 37) (.latch 5)),
   (0x004098B940, .mul (.reg 41) (.reg 37) (.latch 5)),
   (0x004498B940, .mulh (.reg 41) (.reg 37) (.latch 5)),
   (0x004898B940, .mulhu (.reg 41) (.reg 37) (.latch 5)),
   (0x004C98B940, .div (.reg 41) (.reg 37) (.latch 5)),
   (0x005098B940, .divu (.reg 41) (.reg 37) (.latch 5)),
   (0x005498B940, .rem (.reg 41) (.reg 37) (.latch 5)),
   (0x005898B940, .remu (.reg 41) (.reg 37) (.latch 5)),
   (0x008098B9A5, .addi (.reg 41) (.reg 37) 0x9A5),
   (0x008498B9A5, .andi (.reg 41) (.reg 37) 0x9A5),
   (0x008898B9A5, .ori (.reg 41) (.reg 37) 0x9A5),
   (0x008C98B9A5, .xori (.reg 41) (.reg 37) 0x9A5),
   (0x009231202B, .shli (.latch 3) (.reg 9) 0x2B),
   (0x009631202B, .shri (.latch 3) (.reg 9) 0x2B),
   (0x009A31202B, .sari (.latch 3) (.reg 9) 0x2B),
   (0x00C09DBEEF, .movq (.reg 41) 2 true 0xBEEF),
   (0x010280B940, .cmpeq 5 (.reg 37) (.latch 5)),
   (0x0123006F01, .cmpeqi 6 (.reg 3) 0xF01),
   (0x010680B940, .cmpne 5 (.reg 37) (.latch 5)),
   (0x0127006F01, .cmpnei 6 (.reg 3) 0xF01),
   (0x010A80B940, .cmplt 5 (.reg 37) (.latch 5)),
   (0x012B006F01, .cmplti 6 (.reg 3) 0xF01),
   (0x010E80B940, .cmple 5 (.reg 37) (.latch 5)),
   (0x012F006F01, .cmplei 6 (.reg 3) 0xF01),
   (0x011280B940, .cmpltu 5 (.reg 37) (.latch 5)),
   (0x0133006F01, .cmpltui 6 (.reg 3) 0xF01),
   (0x011680B940, .cmpleu 5 (.reg 37) (.latch 5)),
   (0x0137006F01, .cmpleui 6 (.reg 3) 0xF01),
   (0x014184E000, .pand 3 9 12),
   (0x014584E000, .por 3 9 12),
   (0x014984E000, .pxor 3 9 12)]
  ++
  [(0x014D84E000, .pandn 3 9 12),
   (0x0160980000, .movps (.reg 41)),
   (0x016400B000, .movsp (.reg 37)),
   (0x018098B000, .rdcnt (.reg 41) (.reg 37)),
   (0x0184980000, .rdtime (.reg 41)),
   (0x018898B000, .rddesc (.reg 41) (.reg 37)),
   (0x020098B940, .fadd .f64 .rne (.reg 41) (.reg 37) (.latch 5)),
   (0x021C98B940, .fadd .f32 .rd (.reg 41) (.reg 37) (.latch 5)),
   (0x022498B940, .fsub .f64 .rz (.reg 41) (.reg 37) (.latch 5)),
   (0x023898B940, .fsub .f32 .ru (.reg 41) (.reg 37) (.latch 5)),
   (0x024898B940, .fmul .f64 .ru (.reg 41) (.reg 37) (.latch 5)),
   (0x025498B940, .fmul .f32 .rz (.reg 41) (.reg 37) (.latch 5)),
   (0x026C98B940, .fma .f64 .rd (.reg 41) (.reg 37) (.latch 5)),
   (0x027098B940, .fma .f32 .rne (.reg 41) (.reg 37) (.latch 5)),
   (0x028280B940, .fcmpeq .f64 5 (.reg 37) (.latch 5)),
   (0x029280B940, .fcmpeq .f32 5 (.reg 37) (.latch 5)),
   (0x028680B940, .fcmplt .f64 5 (.reg 37) (.latch 5)),
   (0x029680B940, .fcmplt .f32 5 (.reg 37) (.latch 5)),
   (0x028A80B940, .fcmple .f64 5 (.reg 37) (.latch 5)),
   (0x029A80B940, .fcmple .f32 5 (.reg 37) (.latch 5)),
   (0x028E80B940, .fcmpun .f64 5 (.reg 37) (.latch 5)),
   (0x029E80B940, .fcmpun .f32 5 (.reg 37) (.latch 5)),
   (0x030098B000, .cvtF64I64 .rne (.reg 41) (.reg 37)),
   (0x031498B000, .cvtI64F64 .rz (.reg 41) (.reg 37)),
   (0x032898B000, .cvtF32I64 .ru (.reg 41) (.reg 37)),
   (0x033C98B000, .cvtI64F32 .rd (.reg 41) (.reg 37)),
   (0x034098B000, .cvtF32F64 .rne (.reg 41) (.reg 37)),
   (0x035098B000, .cvtF64F32 (.reg 41) (.reg 37))]
theorem test_decode_s_slot : decodes .s wordsS = true := by decide +kernel

/-- Words of the D slot. -/
def wordsD : List (BitVec 40 × Instr) :=
  [(0x0005109D06, .dadd 17 2 29 6),
   (0x0009109D06, .dsub 17 2 29 6),
   (0x000D109D06, .dmul 17 2 29 6),
   (0x0011109D06, .dmin 17 2 29 6),
   (0x0015109D06, .dmax 17 2 29 6),
   (0x0021108006, .deq 17 2 6),
   (0x0025108006, .dne 17 2 6),
   (0x0029108006, .dlt 17 2 6),
   (0x002D108006, .dle 17 2 6),
   (0x004157FC2B, .deqi 21 0xFF85 3),
   (0x004557FC2B, .dnei 21 0xFF85 3),
   (0x004957FC2B, .dlti 21 0xFF85 3),
   (0x004D57FC2B, .dlei 21 0xFF85 3),
   (0x005157FC2B, .dgti 21 0xFF85 3),
   (0x005557FC2B, .dgei 21 0xFF85 3),
   (0x0061108586, .delem 17 2 (.reg 37) 6),
   (0x0081317282, .dset 19 (.reg 37) (.latch 5) 2),
   (0x00853FF955, .dseti 19 0x3FE 0x155),
   (0x00A09AC004, .dlab (.reg 41) 22 4),
   (0x00A49AC004, .dval (.reg 41) 22 4),
   (0x00A89AC004, .dsize (.reg 41) 22 4),
   (0x00AC9AC004, .dlo (.reg 41) 22 4),
   (0x00B09AC004, .dhi (.reg 41) 22 4),
   (0x00C0000005, .dsettle 5),
   (0x00C4000000, .dclr),
   (0x00C8000000, .dclose),
   (0x00CFFFFFF0, .dopen 0x3FFFFF0),
   (0x0284B4000F, .din 11 0x8001 0x21 7),
   (0x0378B4000F, .dnotin 11 0x8001 0x1E 7)]
theorem test_decode_d_slot : decodes .d wordsD = true := by decide +kernel

/-- Words of the V slot. -/
def wordsV : List (BitVec 40 × Instr) :=
  [(0x00126A7338, .vadd .i32 9 5 (.reg 19) (.latch 6) (.reg 28)),
   (0x00266A7338, .vsub .i16 9 5 (.reg 19) (.latch 6) (.reg 28)),
   (0x003A6A7338, .vadds .i8 9 5 (.reg 19) (.latch 6) (.reg 28)),
   (0x00426A7338, .vaddsu .i32 9 5 (.reg 19) (.latch 6) (.reg 28)),
   (0x00566A7338, .vsubs .i16 9 5 (.reg 19) (.latch 6) (.reg 28)),
   (0x006A6A7338, .vsubsu .i8 9 5 (.reg 19) (.latch 6) (.reg 28)),
   (0x00726A7338, .vmul .i32 9 5 (.reg 19) (.latch 6) (.reg 28)),
   (0x00866A7338, .vmin .i16 9 5 (.reg 19) (.latch 6) (.reg 28)),
   (0x009A6A7338, .vmax .i8 9 5 (.reg 19) (.latch 6) (.reg 28)),
   (0x00A26A7338, .vminu .i32 9 5 (.reg 19) (.latch 6) (.reg 28)),
   (0x00B66A7338, .vmaxu .i16 9 5 (.reg 19) (.latch 6) (.reg 28)),
   (0x00CA6A7338, .vshl .i8 9 5 (.reg 19) (.latch 6) (.reg 28)),
   (0x00D26A7338, .vshr .i32 9 5 (.reg 19) (.latch 6) (.reg 28)),
   (0x00E66A7338, .vsar .i16 9 5 (.reg 19) (.latch 6) (.reg 28)),
   (0x01026A7338, .vand 9 5 (.reg 19) (.latch 6) (.reg 28)),
   (0x01066A7338, .vor 9 5 (.reg 19) (.latch 6) (.reg 28)),
   (0x010A6A7338, .vxor 9 5 (.reg 19) (.latch 6) (.reg 28)),
   (0x010E6A7338, .vandn 9 5 (.reg 19) (.latch 6) (.reg 28)),
   (0x01126A7300, .vmov 9 5 (.reg 19) (.latch 6)),
   (0x01166A7338, .vsel 9 5 (.reg 19) (.latch 6) (.reg 28)),
   (0x011A6A7338, .vperm 9 5 (.reg 19) (.latch 6) (.reg 28)),
   (0x011E6C62C0, .vbcast 9 5 (.latch 3) 37),
   (0x01226A6000, .vidx 9 5 (.reg 19)),
   (0x01426B1338, .vcmpeq 9 5 3 (.latch 6) (.reg 28)),
   (0x01466B1338, .vcmplt 9 5 3 (.latch 6) (.reg 28)),
   (0x014A6B1338, .vcmple 9 5 3 (.latch 6) (.reg 28)),
   (0x014E6B1338, .vcmpltu 9 5 3 (.latch 6) (.reg 28)),
   (0x01526B1338, .vcmpleu 9 5 3 (.latch 6) (.reg 28)),
   (0x01626B1338, .vfcmpeq 9 5 3 (.latch 6) (.reg 28)),
   (0x01666B1338, .vfcmplt 9 5 3 (.latch 6) (.reg 28)),
   (0x016A6B1338, .vfcmple 9 5 3 (.latch 6) (.reg 28)),
   (0x016E6B1338, .vfcmpun 9 5 3 (.latch 6) (.reg 28)),
   (0x01826B030E, .kand 9 5 3 6 7),
   (0x01866B030E, .kor 9 5 3 6 7),
   (0x018A6B030E, .kxor 9 5 3 6 7),
   (0x018E6B030E, .kandn 9 5 3 6 7),
   (0x020E6A7338, .vfadd .rd 9 5 (.reg 19) (.latch 6) (.reg 28)),
   (0x021A6A7338, .vfsub .ru 9 5 (.reg 19) (.latch 6) (.reg 28)),
   (0x02266A7338, .vfmul .rz 9 5 (.reg 19) (.latch 6) (.reg 28)),
   (0x02326A7338, .vfma .rne 9 5 (.reg 19) (.latch 6) (.reg 28)),
   (0x02426A7338, .vfmin 9 5 (.reg 19) (.latch 6) (.reg 28)),
   (0x02466A7338, .vfmax 9 5 (.reg 19) (.latch 6) (.reg 28)),
   (0x024A6A7300, .vfabs 9 5 (.reg 19) (.latch 6)),
   (0x024E6A7300, .vfneg 9 5 (.reg 19) (.latch 6)),
   (0x02826A7300, .vrcp 9 5 (.reg 19) (.latch 6))]
  ++
  [(0x02866A7300, .vrsqrt 9 5 (.reg 19) (.latch 6)),
   (0x028A6A7300, .vexp2 9 5 (.reg 19) (.latch 6)),
   (0x028E6A7300, .vlog2 9 5 (.reg 19) (.latch 6)),
   (0x02C26A7300, .vradd .f32 9 5 (.reg 19) (.latch 6)),
   (0x02D26A7300, .vradd .i32 9 5 (.reg 19) (.latch 6)),
   (0x02C66A7300, .vrmax .f32 9 5 (.reg 19) (.latch 6)),
   (0x02D66A7300, .vrmax .i32 9 5 (.reg 19) (.latch 6)),
   (0x02CA6A7300, .vrmin .f32 9 5 (.reg 19) (.latch 6)),
   (0x02DA6A7300, .vrmin .i32 9 5 (.reg 19) (.latch 6)),
   (0x03026A7360, .vxc 9 5 (.reg 19) (.latch 6) 6),
   (0x040E6A7300, .vcvt (.f32i32 .rd) 9 5 (.reg 19) (.latch 6) (.reg 0)),
   (0x042A6A7300, .vcvt (.i32f32 .ru) 9 5 (.reg 19) (.latch 6) (.reg 0)),
   (0x04526A7338, .vcvt (.bf16f32 .rs) 9 5 (.reg 19) (.latch 6) (.reg 28)),
   (0x04626A7300, .vcvt (.f32bf16) 9 5 (.reg 19) (.latch 6) (.reg 0)),
   (0x04866A7338, .vcvt (.e4m3f32 .rz) 9 5 (.reg 19) (.latch 6) (.reg 28)),
   (0x04B26A7338, .vcvt (.e5m2f32 .rs) 9 5 (.reg 19) (.latch 6) (.reg 28)),
   (0x04C26A7300, .vcvt (.f32e4m3) 9 5 (.reg 19) (.latch 6) (.reg 0)),
   (0x04E26A7300, .vcvt (.f32e5m2) 9 5 (.reg 19) (.latch 6) (.reg 0)),
   (0x05066A7338, .vcvt (.f32q4 .rz) 9 5 (.reg 19) (.latch 6) (.reg 28))]
theorem test_decode_v_slot : decodes .v2 wordsV = true := by decide +kernel

/-- Words of the A slot. -/
def wordsA : List (BitVec 40 × Instr) :=
  [(0x0004B3A000, .afromv 11 29),
   (0x0008B3A000, .atov 29 11),
   (0x000C996006, .adot (.reg 41) 11 6),
   (0x0011D162C5, .adotm 29 5 11 (.reg 37)),
   (0x0014B002C0, .ascl 11 (.reg 37)),
   (0x0018B52345, .ascli 11 0x52345),
   (0x001C996000, .amag (.reg 41) 11),
   (0x0020B0C000, .aneg 11 6),
   (0x0024B0C00D, .aadd 11 6 13),
   (0x0028B0C00D, .asub 11 6 13),
   (0x002CB0D28D, .alerp 11 6 13 (.latch 5)),
   (0x0030B00000, .azero 11),
   (0x0034B01280, .asetn 11 (.latch 5))]
theorem test_decode_a_slot : decodes .a wordsA = true := by decide +kernel

/-- Words of the M slot. -/
def wordsM : List (BitVec 40 × Instr) :=
  [(0x0006966C1E, .mma .bf16 0xA5 2 (.tile 13) (.ma 3) 6),
   (0x000A966C1E, .mma .e4m3 0xA5 2 (.tile 13) (.ma 3) 6),
   (0x000E966C1E, .mma .e5m2 0xA5 2 (.tile 13) (.ma 3) 6),
   (0x0022966C1E, .mma .f32 0xA5 2 (.tile 13) (.ma 3) 6),
   (0x0026966C1E, .mma .f64 0xA5 2 (.tile 13) (.ma 3) 6),
   (0x0042969B2E, .mmaq 0xA5 2 (.ma 3) (.blk 101) 6),
   (0x00629608EE, .msca 0xA5 2 true 29 6),
   (0x0066960006, .mzero 0xA5 2 6),
   (0x008296600E, .mret 0xA5 2 (.tile 12) true 6),
   (0x0086960A2E, .mrets 0xA5 2 true (.reg 37) 6),
   (0x00B2966806, .mcvt .bf16 .rs 0xA5 2 (.tile 13) false 6),
   (0x00CE96680E, .mcvt .e4m3 .rd 0xA5 2 (.tile 13) true 6),
   (0x00EA96680E, .mcvt .e5m2 .ru 0xA5 2 (.tile 13) true 6),
   (0x0102946836, .mtr 0xA5 (.tile 13) (.tile 6) 6),
   (0x0122946C16, .mldl 0xA5 (.tile 13) (.ma 2) 6),
   (0x0126946836, .mtrs 0xA5 .full (.tile 13) (.tile 6) 6),
   (0x0126956836, .mtrs 0xA5 .fwd (.tile 13) (.tile 6) 6),
   (0x0126966836, .mtrs 0xA5 .diag (.tile 13) (.tile 6) 6),
   (0x0126976836, .mtrs 0xA5 .bwd (.tile 13) (.tile 6) 6),
   (0x0143058000, .msetma 3 .base (.reg 37)),
   (0x0143458000, .msetma 3 .stride (.reg 37)),
   (0x0143858000, .msetma 3 .count (.reg 37))]
theorem test_decode_m_slot : decodes .m wordsM = true := by decide +kernel

/-- Words of the L slot. -/
def wordsL : List (BitVec 40 × Instr) :=
  [(0x000498B9A5, .lds .i8 (.reg 41) (.reg 37) 0x9A5),
   (0x000898B9A5, .lds .n8 (.reg 41) (.reg 37) 0x9A5),
   (0x000C98B9A5, .lds .i16 (.reg 41) (.reg 37) 0x9A5),
   (0x001098B9A5, .lds .n16 (.reg 41) (.reg 37) 0x9A5),
   (0x001498B9A5, .lds .i32 (.reg 41) (.reg 37) 0x9A5),
   (0x001898B9A5, .lds .n32 (.reg 41) (.reg 37) 0x9A5),
   (0x001C98B9A5, .lds .i64 (.reg 41) (.reg 37) 0x9A5),
   (0x00422C17A5, .ldv 12 (.latch 2) (.reg 37) 0x1A5),
   (0x0060B0B9A5, .ald 11 (.reg 37) 0x9A5),
   (0x008345CA06, .tld 13 (.reg 37) (.latch 5) 6),
   (0x008728B006, .tldw 101 (.reg 37) 6)]
theorem test_decode_l_slot : decodes .l wordsL = true := by decide +kernel

/-- Words of the W slot. -/
def wordsW : List (BitVec 40 × Instr) :=
  [(0x00045CA9A5, .sts .i8 (.reg 37) (.latch 5) 0x9A5),
   (0x00085CA9A5, .sts .i16 (.reg 37) (.latch 5) 0x9A5),
   (0x000C5CA9A5, .sts .i32 (.reg 37) (.latch 5) 0x9A5),
   (0x00105CA9A5, .sts .i64 (.reg 37) (.latch 5) 0x9A5),
   (0x00422C17A5, .stv 12 (.latch 2) (.reg 37) 0x1A5),
   (0x0060B0B9A5, .ast 11 (.reg 37) 0x9A5),
   (0x008345CA06, .tst 13 (.reg 37) (.latch 5) 6),
   (0x00C098B946, .amoadd (.reg 41) (.reg 37) (.latch 5) 6),
   (0x00C498B946, .amoswp (.reg 41) (.reg 37) (.latch 5) 6),
   (0x00C898B946, .amocas (.reg 41) (.reg 37) (.latch 5) 6),
   (0x00CC98B946, .amomin (.reg 41) (.reg 37) (.latch 5) 6),
   (0x00D098B946, .amomax (.reg 41) (.reg 37) (.latch 5) 6),
   (0x00D498B946, .amoand (.reg 41) (.reg 37) (.latch 5) 6),
   (0x00D898B946, .amoor (.reg 41) (.reg 37) (.latch 5) 6),
   (0x010098B946, .binit (.reg 41) (.reg 37) (.latch 5) 6),
   (0x010498BD06, .arrive (.reg 41) (.reg 37) 13 6)]
theorem test_decode_w_slot : decodes .w wordsW = true := by decide +kernel

/-- Words of the X slot. -/
def wordsX : List (BitVec 40 × Instr) :=
  [(0x00045CA326, .xtld true 12 (.reg 37) (.latch 5) 6),
   (0x00085CA326, .xtst true 12 (.reg 37) (.latch 5) 6),
   (0x000C5CA326, .xcpy (.reg 37) (.latch 5) (.reg 44) 6),
   (0x00205CA326, .pput (.reg 37) (.latch 5) (.reg 44) 6),
   (0x00245CA326, .pget (.reg 37) (.latch 5) (.reg 44) 6),
   (0x004140B000, .xset 5 (.reg 37)),
   (0x0044000006, .xgo 6)]
theorem test_decode_x_slot : decodes .x wordsX = true := by decide +kernel

/-- Words of the Y slot. -/
def wordsY : List (BitVec 40 × Instr) :=
  [(0x0004800003, .br 0x800003),
   (0x0008800003, .call 0x800003),
   (0x000C00B000, .brr (.reg 37)),
   (0x001000B000, .callr (.reg 37)),
   (0x0014000000, .ret),
   (0x0022A0BEEF, .loop 0x2A 0xBEEF),
   (0x0026A0B000, .loopr 0x2A (.reg 37)),
   (0x0040000006, .wait 6),
   (0x004680B953, .waitph 5 (.reg 37) (.latch 5) 0x13),
   (0x004A80B953, .waitbit 5 (.reg 37) (.latch 5) 0x13),
   (0x0060000004, .bar 4),
   (0x0064000005, .fence 5),
   (0x0080000000, .endStep),
   (0x008400BEEF, .trap 0xBEEF),
   (0x0088000000, .trapack),
   (0x008C000000, .tret),
   (0x00A0980035, .crrd (.reg 41) 0x035),
   (0x00A400B002, .crwr 0x002 (.reg 37))]
theorem test_decode_y_slot : decodes .y wordsY = true := by decide +kernel

/-! ## Ill-formed operations, refused (R28, R58, R60, R105, R143, R151, R165, R213, R349) -/

theorem test_ill_formed_pair_zero_compare : Instr.wf (.cmpeq 0 (.reg 1) (.reg 2)) = false := by decide
theorem test_ill_formed_pair_zero_compare_immediate : Instr.wf (.cmpleui 0 (.reg 1) 5) = false := by decide
theorem test_ill_formed_pair_zero_logic : Instr.wf (.pxor 0 1 2) = false := by decide
theorem test_ill_formed_pair_zero_float_compare : Instr.wf (.fcmpun .f32 0 (.reg 1) (.reg 2)) = false := by decide
theorem test_ill_formed_pair_zero_poll : Instr.wf (.waitph 0 (.reg 1) (.reg 2) 3) = false := by decide
theorem test_ill_formed_bar_scope_5 : Instr.wf (.bar 5) = false := by decide
theorem test_ill_formed_fence_scope_6 : Instr.wf (.fence 6) = false := by decide
theorem test_ill_formed_crrd_unlisted : Instr.wf (.crrd (.reg 1) 0x009) = false := by decide
theorem test_ill_formed_crwr_unlisted : Instr.wf (.crwr 0x014 (.reg 1)) = false := by decide
theorem test_ill_formed_dseti_bounds_crossed : Instr.wf (.dseti 1 5 4) = false := by decide
theorem test_ill_formed_vcmp_into_k0 : Instr.wf (.vcmpltu 2 0 0 (.reg 1) (.reg 2)) = false := by decide
theorem test_ill_formed_vfcmp_into_k0 : Instr.wf (.vfcmpun 2 0 0 (.reg 1) (.reg 2)) = false := by decide
theorem test_ill_formed_mask_logic_into_k0 : Instr.wf (.kandn 2 0 0 1 2) = false := by decide
theorem test_ill_formed_vcvt_unscaled_with_scale : Instr.wf (.vcvt .f32bf16 2 0 (.reg 1) (.reg 2) (.reg 3)) = false := by decide
theorem test_ill_formed_mmaq_block_124 : Instr.wf (.mmaq 0 0 (.tile 1) (.blk 124) 1) = false := by decide
theorem test_ill_formed_mret_odd_tile : Instr.wf (.mret 0 1 (.tile 3) false 1) = false := by decide
theorem test_ill_formed_mcvt_bf16_half : Instr.wf (.mcvt .bf16 .rne 0 1 (.tile 2) true 1) = false := by decide
theorem test_ill_formed_tldw_block_124 : Instr.wf (.tldw 124 (.reg 1) 1) = false := by decide
theorem test_ill_formed_arrive_zero : Instr.wf (.arrive (.reg 1) (.reg 2) 0 1) = false := by decide
theorem test_ill_formed_xtld_odd_pair : Instr.wf (.xtld true 3 (.reg 1) (.reg 2) 1) = false := by decide
theorem test_ill_formed_xtst_odd_pair : Instr.wf (.xtst true 3 (.reg 1) (.reg 2) 1) = false := by decide

/-! ## Witnesses: states and operands that meet the premises of the statements -/

/-- The reset state with one core changed. -/
def onC (f : CoreSt → CoreSt) : State := State.reset.onCore 0 f
/-- The reset state with its issuing core changed, in a group whose precise faults are checked. -/
def chk (f : CoreSt → CoreSt) : State := State.reset.onCore 0 fun c => f { c with flow := { c.flow with checked := true } }
/-- The same with nothing changed. -/
def chk0 : State := chk id
/-- A test of what an access of a core gives, where it is the access itself. -/
def okWith (r : Access) (p : State → Xlated → Bool) : Bool := match r with | .ok t x => p t x | _ => false
theorem of_okWith {r : Access} {p : State → Xlated → Bool} : okWith r p = true → ∃ t x, r = .ok t x ∧ p t x = true :=
  Access.casesOn (motive := fun r => okWith r p = true → ∃ t x, r = .ok t x ∧ p t x = true) r (absurd · Bool.false_ne_true)
    (fun _ => (absurd · Bool.false_ne_true)) (fun _ _ => (absurd · Bool.false_ne_true)) fun t x h => ⟨t, x, rfl, h⟩
/-- The same of an access of the hub. -/
def okFor (r : Prepared) (p : State → Xlated → Bool) : Bool := match r with | .ok t x => p t x | _ => false
theorem of_okFor {r : Prepared} {p : State → Xlated → Bool} : okFor r p = true → ∃ t x, r = .ok t x ∧ p t x = true :=
  Prepared.casesOn (motive := fun r => okFor r p = true → ∃ t x, r = .ok t x ∧ p t x = true) r (fun _ => (absurd · Bool.false_ne_true))
    (fun _ _ => (absurd · Bool.false_ne_true)) fun t x h => ⟨t, x, rfl, h⟩
/-- A test of what an operation made, where it did not stop. -/
def passes {stop made : Type} (p : made → Bool) : Except stop made → Bool
  | .ok x => p x
  | .error _ => false
theorem of_passes {stop made : Type} {p : made → Bool} : ∀ {r : Except stop made}, passes p r = true → ∃ x, r = .ok x ∧ p x = true
  | .ok x, h => ⟨x, rfl, h⟩
/-- An operation that the kernel evaluates to a value gives one. -/
theorem of_made {stop made : Type} {r : Except stop made} (h : passes (fun _ => true) r = true) : ∃ t, r = .ok t :=
  let ⟨t, made, _⟩ := of_passes h
  ⟨t, made⟩
/-- At reset nothing is pending and nothing is in flight. -/
theorem reset_quiet : State.reset.cc.flow.pending = [] ∧ State.reset.cc.flow.flight = [] := by decide +kernel
theorem reset_unpending (i : Instr) : Unpending i State.reset.cc :=
  fun _ _ p h => (List.not_mem_nil (a := p) (reset_quiet.1 ▸ h)).elim
theorem reset_landsAlone (i : Instr) : LandsAlone i State.reset.cc :=
  fun _ _ _ => ⟨fun f h => (List.not_mem_nil (a := f) (reset_quiet.2 ▸ h)).elim, fun k _ => by simp [landing, reset_quiet.2]⟩

/-! ### One instruction (O1 to O10) -/

theorem witness_integer : ∃ (s : State) (i : Instr) (d : SDst) (lat : Nat) (x : W64) (fl : Flg),
    integerResult s.cc i = some (d, lat, x, fl) ∧ Goes i s True :=
  ⟨chk0, .add (.reg 1) (.reg 0) (.reg 2), .reg 1, 1, 0, 0, by decide +kernel, Or.inl (by decide +kernel)⟩
/-- The discarding destination s0 under the second way to go: an instruction that issues alone at reset (O1). -/
theorem witness_integer_alone : ∃ (s : State) (d : SDst) (x : W64) (fl : Flg) (a b : SSrc),
    s.cc.flow.checked = false ∧ integerResult s.cc (.add d a b) = some (d, 1, x, fl) ∧ Goes (.add d a b) s True :=
  ⟨State.reset, .reg 0, 0, 0, .reg 1, .reg 2, by decide +kernel, by decide +kernel,
    Or.inr ⟨reset_unpending _, reset_landsAlone _, trivial⟩⟩
theorem witness_integer_latch : ∃ (s : State) (i : Instr) (d : SDst) (lat : Nat) (x : W64) (fl : Flg),
    integerResult s.cc i = some (d, lat, x, fl) ∧ fl ≠ 0 ∧ Goes i s True :=
  ⟨chk0, .shl (.latch 7) (.latch 0) (.reg 63), .latch 7, 1, 0, .latch, by decide +kernel, by decide, Or.inl (by decide +kernel)⟩
theorem witness_float : ∃ (s : State) (i : Instr) (d : SDst) (lat : Nat) (x : W64) (fl : Flg),
    floatResult s.cc i = some (d, lat, x, fl) ∧ Goes i s True :=
  ⟨chk0, .fadd .f64 .rne (.reg 1) (.reg 2) (.reg 3), .reg 1, 3, 0, 0, by decide +kernel, Or.inl (by decide +kernel)⟩
theorem witness_pair : ∃ (s : State) (i : Instr) (p : BitVec 3) (lat : Nat) (b : Bool) (fl : Flg),
    pairResult s.cc i = some (p, lat, b, fl) ∧ Goes i s True :=
  ⟨chk0, .cmpeq 7 (.reg 0) (.reg 1), 7, 2, true, 0, by decide +kernel, Or.inl (by decide +kernel)⟩
theorem witness_time : ∃ (s : State) (d : SDst) (n m k : Nat), Goes (.rdtime d) s True ∧ k < 4 ∧ n ≠ 0 ∧ m ≠ 0 ∧ s.time.toNat + n + m < 2 ^ 64 :=
  ⟨chk0, .reg 1, 3, 5, 3, Or.inl (by decide +kernel), by decide, by decide, by decide, by decide +kernel⟩
theorem witness_vector : ∃ (s : State) (i : Instr) (lat : Nat) (ws : List Write) (fl : Flg),
    vectorResult s.cc i = some (lat, ws, fl) ∧ ws ≠ [] ∧ Goes i s True :=
  ⟨chk0, .vadd .i32 1 0 (.reg 1) (.reg 2) (.reg 3), 2, [.vreg 1 1 0 (.allOnes 512)], 0, by decide +kernel, by decide, Or.inl (by decide +kernel)⟩
theorem witness_vector_mask : ∃ (s : State) (i : Instr) (lat : Nat) (ws : List Write) (fl : Flg),
    vectorResult s.cc i = some (lat, ws, fl) ∧ ws ≠ [] ∧ Goes i s True :=
  ⟨chk0, .kand 7 0 7 0 0, 2, [.kreg 7 7 0xFFFF], 0, by decide +kernel, by decide, Or.inl (by decide +kernel)⟩
theorem witness_lanes : (15 < 16 ∧ 0 < 16) ∧ (3 < 32 / ityW .i8 ∧ 0 < 32 / ityW .i32) := by decide
theorem witness_small : ∃ (s : State) (i : Instr) (lat : Nat) (ws : List Write) (fl : Flg),
    smallResult s i = some (lat, ws, fl) ∧ Goes i s (smallMay s i) :=
  ⟨chk0, .azero 15, 1, [.norm 15 0x80000000], 0, by decide +kernel, Or.inl (by decide +kernel)⟩
theorem witness_small_may : smallMay State.reset (.msetma 3 .base (.reg 1)) ∧ smallMay State.reset (.crwr 2 (.reg 1)) ∧
    smallMay (onC fun c => { c with ctrl := { c.ctrl with handler := true } }) (.crwr 3 (.reg 1)) :=
  ⟨by unfold smallMay; decide +kernel, by unfold smallMay writable; decide +kernel, by unfold smallMay writable; decide +kernel⟩
theorem witness_scratchpad_load : ∃ (s : State) (i : Instr) (x : W64) (fl : Flg) (lat : Nat) (l : Load) (counted : Bool),
    spadAddress s.cc i = some x ∧ Goes i s (Fits s.cc i) ∧ loadOf s.cc x.toNat i = some (lat, l, counted, fl) :=
  ⟨chk0, .lds .i64 (.reg 1) (.reg 0) 0x7F8, 0x7F8, 0, 4, .lds .i64 (.reg 1) 0x7F8, true, by decide +kernel, Or.inl (by decide +kernel),
    by decide +kernel⟩
theorem witness_scratchpad_fits : ∃ c : CoreSt, Fits c (.sts .i8 (.reg 1) (.reg 2) 0) ∧
    spadAddress c (.sts .i8 (.reg 1) (.reg 2) 0) = some 0x1FFFFF := by
  refine ⟨CoreSt.reset.setSreg 2 0x1FFFFF, ?_, by decide +kernel⟩
  intro x hx
  have h : spadAddress (CoreSt.reset.setSreg 2 0x1FFFFF) (.sts .i8 (.reg 1) (.reg 2) 0) = some 0x1FFFFF := by decide +kernel
  rw [h] at hx; cases hx; decide
theorem witness_scratchpad_store : ∃ (s : State) (i : Instr) (x : W64) (fl : Flg) (bs : List Byte),
    spadAddress s.cc i = some x ∧ Goes i s (Fits s.cc i) ∧ storeOf s.cc i = some (bs, fl) ∧ bs ≠ [] :=
  ⟨chk0, .sts .i16 (.reg 1) (.reg 2) 0, 0, 0, [0, 0], by decide +kernel, Or.inl (by decide +kernel), by decide +kernel⟩
/-- A result that writes bytes. -/
def aStore (x : Nat) (bs : List Byte) : InFlight :=
  { due := 1, lag := 0, issued := 0, slot := 9, bundle := 0, dests := [], load := none, loadAt := none, writes := [.spad x bs], flags := 0 }
theorem witness_store_landing : ∃ (c : CoreSt) (f : InFlight) (x : Nat) (bs : List Byte),
    amWf 0 c.files.spad = true ∧ f.writes = [.spad x bs] ∧ x + bs.length ≤ 2 ^ 21 ∧ bs ≠ [] :=
  ⟨.reset, aStore 0x1FFFFF [7], 0x1FFFFF, [7], by decide +kernel, rfl, by decide +kernel⟩

/-! ### Queues (O11, O12) -/

theorem witness_matrix : ∃ (s : State) (i : Instr) (b : W64) (scales : BitVec 2048) (lost : Flg),
    matrixTakes s.cc i = some (b, scales, lost) ∧ Goes i s (s.cc.shadowFull = false) :=
  ⟨chk0, .mzero 0 1 2, 0, 0, 0, by decide +kernel, Or.inl (by decide +kernel)⟩
theorem witness_matrix_shadow : State.reset.cc.shadowFull = false := by decide +kernel
theorem witness_domain : ∃ (s : State) (i : Instr) (a b : W64) (lost : Flg),
    domainTakes s.cc i = some (a, b, lost) ∧ Goes i s (domainMay s.cc i) ∧ ¬ Cancelled s.cc i :=
  ⟨chk0, .dadd 1 2 3 0, 0, 0, 0, by decide +kernel, Or.inl (by decide +kernel), fun h => absurd h.1 (by decide +kernel)⟩
theorem witness_domain_cancelled : ∃ (s : State) (i : Instr) (a b : W64) (lost : Flg),
    domainTakes s.cc i = some (a, b, lost) ∧ Goes i s (domainMay s.cc i) ∧ Cancelled s.cc i :=
  ⟨chk fun c => { c with dom := { c.dom with cancel := some 3 } }, .dadd 1 2 3 0, 0, 0, 0, by decide +kernel,
    Or.inl (by decide +kernel), by unfold Cancelled; decide +kernel⟩
theorem witness_domain_may : domainMay CoreSt.reset (.delem 1 2 (.reg 3) 0) := by
  refine ⟨by decide +kernel, ?_⟩
  intro z x b w h; cases h; decide +kernel
theorem witness_memory : ∃ (s : State) (i : Instr) (x : QArgs),
    memoryTakes s.cc i = some x ∧ Goes i s (s.cc.flow.mem.length + s.cc.flow.memHeld.length < 64 ∧ memoryAligned s.cc i) :=
  ⟨chk0, .tldw 0 (.reg 1) 2, { addr := 0, stride := 64, rows := 0, snap := 0, b := 0, c := 0, lost := 0 }, by rfl, Or.inl (by decide +kernel)⟩
theorem witness_memory_may : State.reset.cc.flow.mem.length + State.reset.cc.flow.memHeld.length < 64 ∧ memoryAligned State.reset.cc (.tld 1 (.reg 2) (.reg 3) 0) ∧
    memoryAligned State.reset.cc (.binit (.reg 1) (.reg 2) (.reg 3) 0) ∧ memoryAligned State.reset.cc (.amoadd (.reg 1) (.reg 2) (.reg 3) 0) := by
  unfold memoryAligned; decide +kernel
theorem witness_copy : ∃ (s : State) (i : Instr) (a : XArgs), copyTakes s.cc i = some a ∧ Goes i s (copyMay s.cc i) :=
  ⟨chk0, .xcpy (.reg 1) (.reg 2) (.reg 3) 0,
    { fill := false, dst := 0, src := 0, len := 0, rows := 1, dstride := 0, sstride := 0, node := 0, desc := 0, lost := 0 },
    by rfl, Or.inl (by decide +kernel)⟩
theorem witness_copy_may : copyMay State.reset.cc (.xcpy (.reg 1) (.reg 2) (.reg 3) 0) ∧ copyMay State.reset.cc (.xgo 7) := by
  unfold copyMay; decide +kernel

/-! ### Control (O13 to O20) -/

theorem witness_branch : ∃ (s : State) (i : Instr) (t : W64), target s.cc i = some t ∧
    Goes i s (match i with | .br _ | .call _ => True | _ => t.toNat % 4 = 0) :=
  ⟨chk0, .br 0x800000, 0xFFFFFFFFFE000000, by decide +kernel, Or.inl (by decide +kernel)⟩
theorem witness_return : ∃ t : W64, target State.reset.cc .ret = some t ∧ t.toNat % 4 = 0 := ⟨0, by decide +kernel⟩
theorem witness_loop : ∃ (s : State) (i : Instr) (body trips : Nat) (fl : Flg), loopShape s.cc i = some (body, trips, fl) ∧
    Goes i s (loopMay s.cc body trips) ∧ trips ≠ 0 :=
  ⟨chk0, .loop 63 1, 64, 1, 0, by decide +kernel, Or.inl (by decide +kernel), by decide⟩
theorem witness_loop_may : loopMay State.reset.cc 64 0 ∧ loopMay State.reset.cc 64 1 :=
  ⟨Or.inl rfl, Or.inr ⟨by decide +kernel, fun l h => by
    have none_open : State.reset.cc.flow.loops = [] := by decide +kernel
    simp [none_open] at h⟩⟩
/-- An open level of the groups at 0 and 0x40, of which so many are noted to follow the issuing one. -/
def openLevel (after : Option Nat) : Loop :=
  { addrs := [0, 0x40], found := 0x4C, endA := some 0x4C, left := 0, remain := 1, buf := [], begun := true, inHandler := false, after := after }
/-- A body of one group within a level whose last group follows the LOOP, and within one that is noted to go on for one group (R124). -/
theorem witness_loop_within (after : Option Nat) (h : after = none ∨ after = some 1) :
    loopMay { CoreSt.reset with flow := { CoreSt.reset.flow with loops := [openLevel after] } } 1 1 := by
  refine Or.inr ⟨by rcases h with rfl | rfl <;> decide +kernel, fun l hl => ?_⟩
  obtain rfl : openLevel after = l := Option.some.inj hl
  rcases h with rfl | rfl <;> decide +kernel
theorem witness_wait : State.reset.cc.waitMeets 7 = false ∧ (State.reset.cc.token 7).out = 0 := by decide +kernel
theorem witness_wait_holds : ∃ s : State, s.cc.waitMeets 1 = false ∧ (s.cc.token 1).out ≠ 0 :=
  ⟨onC fun c => { c with flow := { c.flow with tokens := vset c.flow.tokens 1 { Token.idle with out := 1 } } }, by decide +kernel⟩
theorem witness_poll : ∃ (s : State) (i : Instr) (p : BitVec 3) (a b : SSrc) (n : Nat) (x : Bool), pollOf i = some (p, a, b, n) ∧
    s.cc.reached.polled = some x ∧ s.cc.reached.pollFault = none ∧ Goes i s ((s.cc.src a).toNat % n = 0) :=
  ⟨chk fun c => { c with reached := { c.reached with polled := some true } }, .waitph 1 (.reg 2) (.reg 3) 31, 1, .reg 2, .reg 3, 16, true,
    rfl, by decide +kernel, by decide +kernel, Or.inl (by decide +kernel)⟩
theorem witness_bar : ∃ s : State, s.cc.reached.released = true ∧ s.cc.step ≠ none :=
  ⟨onC fun c => { c with step := some bareStep, reached := { c.reached with released := true } }, by decide +kernel⟩
theorem witness_bar_pod : ∃ (s : State) (st : StepInfo), s.cc.step = some st ∧ (s.part (s.partOf s.cur)).podgroup = 0 :=
  ⟨onC fun c => { c with step := some bareStep }, bareStep, by decide +kernel⟩
theorem witness_fence : State.reset.cc.fenceMeets 5 = false ∧ State.reset.fenceReached State.reset.cur 5 = true := by decide +kernel
theorem witness_end : State.reset.cc.heldFaults = [] := by decide +kernel
theorem witness_trapack : ∃ s : State, s.cc.ctrl.handler = true :=
  ⟨onC fun c => { c with ctrl := { c.ctrl with handler := true } }, by decide +kernel⟩
/-- A pending trap. -/
def aTrap : TrapInfo := CoreSt.blankTrap .swtrap
theorem witness_trap_pending : ∃ (s : State) (g : Nat) (t : TrapInfo), g < 288 ∧ (s.core g).status = .trapping t ∧
    (s.core g).settled = true ∧ (s.core g).next = none ∧ (s.core g).flow.loops = [] :=
  ⟨State.reset.onCore 287 fun c => { c with status := .trapping aTrap }, 287, aTrap, by decide +kernel⟩
theorem witness_trap_unsettled : ∃ (s : State) (g : Nat) (t : TrapInfo), g < 288 ∧ (s.core g).status = .trapping t ∧
    (s.core g).settled = false :=
  ⟨State.reset.onCore 0 fun c => { c with
      status := .trapping aTrap, flow := { c.flow with mrun := some (⟨⟨.mzero 0 1 2, 0, 0, 2, 0, 0, 0, 0, 0, 0, 0, 0, 0, false, none⟩, 0, 0, 0, 0⟩) } },
    0, aTrap, by decide +kernel⟩
theorem witness_tret : ∃ s : State, s.cur.val < 288 ∧ s.cc.ctrl.handler = true ∧ s.cc.recRestart = false ∧ s.cc.recEnded = false ∧
    (∀ o ∈ s.cc.dom.held, o.lost = false) :=
  ⟨onC fun c => { c with ctrl := { c.ctrl with handler := true } }, by decide +kernel⟩
theorem witness_tret_ended : ∃ s : State, s.cc.ctrl.handler = true ∧ s.cc.recRestart = false ∧ s.cc.recEnded = true :=
  ⟨onC fun c => { c with ctrl := { c.ctrl with handler := true, trec := vset c.ctrl.trec 0 0x200000 } }, by decide +kernel⟩
/-- A restart with room in the ready list and one with 4,096 entries in it (R317). -/
theorem witness_tret_restart (full : Bool) : ∃ (s : State) (st : StepInfo), s.cur.val < 288 ∧ st.part < 64 ∧ s.cc.ctrl.handler = true ∧
    s.cc.recRestart = true ∧ s.cc.step = some st ∧ (s.part st.part).readyFull = full :=
  ⟨(onC fun c => { c with step := some bareStep, ctrl := { c.ctrl with handler := true, trec := vset c.ctrl.trec 0 0x20000000000000 } }).onPart 0
      fun p => { p with ready := List.replicate (if full then 4096 else 4095) (.node 0) },
    bareStep, by cases full <;> decide +kernel⟩
theorem witness_priv : ∃ (s : State), s.cc.flow.checked = false ∧ (∀ i, Unpending i s.cc ∧ LandsAlone i s.cc) ∧
    s.cc.ctrl.handler = false ∧ ¬ writable s.cc 1 ∧ ¬ writable s.cc 0x13 ∧ ¬ writable s.cc 0x27 ∧ ¬ writable s.cc 3 :=
  ⟨State.reset, by decide +kernel, fun i => ⟨reset_unpending i, reset_landsAlone i⟩, by decide +kernel,
    by unfold writable; decide +kernel, by unfold writable; decide +kernel, by unfold writable; decide +kernel,
    by unfold writable; decide +kernel⟩
theorem witness_spad_align : ∃ (s : State) (i : Instr) (x : W64), spadAddress s.cc i = some x ∧ s.cc.flow.checked = false ∧
    Unpending i s.cc ∧ LandsAlone i s.cc ∧ x.toNat % (spadSize i).2 ≠ 0 :=
  ⟨State.reset, .lds .i16 (.reg 1) (.reg 0) 1, 1, by decide +kernel, by decide +kernel, reset_unpending _, reset_landsAlone _, by decide⟩
theorem witness_spad_perm : ∃ (s : State) (i : Instr) (x : W64), spadAddress s.cc i = some x ∧ s.cc.flow.checked = false ∧
    Unpending i s.cc ∧ LandsAlone i s.cc ∧ x.toNat % (spadSize i).2 = 0 ∧ 2 ^ 21 < x.toNat + (spadSize i).1 :=
  ⟨State.reset, .lds .i64 (.reg 1) (.reg 0) 0xFF8, 0xFFFFFFFFFFFFFFF8, by decide +kernel, by decide +kernel, reset_unpending _,
    reset_landsAlone _, by decide +kernel⟩
theorem witness_trap_entry : ∃ (s : State) (g : Nat), g < 288 ∧ (s.core g).ctrl.frozen = false ∧ (s.core g).ctrl.tvec ≠ 0 ∧
    (s.core g).flow.flight = [] :=
  ⟨onC fun c => { c with ctrl := { c.ctrl with tvec := 0x1000 } }, 0, by decide +kernel⟩
theorem witness_frozen : ∃ (s : State) (g : Nat), g < 288 ∧ (s.core g).ctrl.frozen = true ∧ (s.core g).flow.flight = [] :=
  ⟨onC fun c => { c with ctrl := { c.ctrl with frozen := true } }, 0, by decide +kernel⟩
theorem witness_halt : (State.reset.core 287).ctrl.frozen = false ∧ (State.reset.core 287).ctrl.tvec = 0 := by decide +kernel
theorem witness_halted : ∃ (s : State) (g : Fin 288), (s.core g).status = .halted :=
  ⟨onC fun c => { c with status := .halted }, 0, by decide +kernel⟩

/-! ### The ordering machine (O25 to O30) -/

/-- Range entries (R267): the pages at 0, 0x1000, 0x2000 and 0x3000 lead to tier 1, to the scratchpad and the registers of core 1, and
to the host, with every right. -/
def maps (r : Vector W64 256) : Vector W64 256 :=
  [(0, 0x1), (1, 0), (2, 0), (3, 0x3F),
   (4, 0x1001), (5, 0x1000), (6, 0xF00000FFF000), (7, 0x040000000000003F),
   (8, 0x2001), (9, 0x2000), (10, 0xF000011FE000), (11, 0x040000000000003F),
   (12, 0x3001), (13, 0x3000), (14, 0x1FFFFFFFD000), (15, 0x0C0000000000003F)].foldl (fun v x => vset v x.1 x.2) r
/-- Cores 0 and 1 run the steps of partition 0, whose pages are mapped. -/
def mapped : State :=
  ((State.reset.onPart 0 fun p => { p with ranges := maps p.ranges, held := 3 }).onCore 0 fun c =>
    { c with status := .running, step := some bareStep, flow := { c.flow with cyc := 100 } }).onCore 1 fun c =>
    { c with status := .running, step := some bareStep }
/-- A memory operation that issued long ago. -/
def aQ (i : Instr) (addr : W64) : QOp :=
  { op := i, slot := 8, bundle := 0, sched := 0, tok := i.token, seq := 0, issued := 0, addr := addr, stride := 128, rows := 64, snap := 0
    got := 0, done := 0, b := 0, c := 0, sent := false, served := none, vc := none, portAt := none, lost := false, stuck := false
    fault := none }
/-- That operation at the head of core 0's queue. -/
def withQ (q : QOp) : State := mapped.onCore 0 fun c => { c with flow := { c.flow with mem := [q] } }
/-- A copy command under way. -/
def aX (i : Instr) (dst src : W64) : XCmd :=
  { op := i, bundle := 0, sched := 0, tok := 0, seq := 0, fill := false, dst := dst, src := src, len := 64, rows := 1, dstride := 0
    sstride := 0, node := 0, desc := 0, started := true, bytes := 0, buf := none, peer := 0, served := none, vc := none, portAt := none
    wrote := none, moved := false, lost := false, stuck := false, fault := none }
/-- That command at the head of core 0's copy engine. -/
def withX (x : XCmd) : State := mapped.onCore 0 fun c => { c with flow := { c.flow with xq := [x] } }
/-- A translation that leads to memory. -/
def toMem : State → Xlated → Bool := fun _ x => match x.loc with | .mem _ => true | _ => false
theorem of_toMem {t : State} {x : Xlated} (h : toMem t x = true) : ∃ home, x.loc = .mem home :=
  match at_ : x.loc with
  | .mem home => ⟨home, rfl⟩
  | .host | .port _ _ | .reg _ _ => absurd h (by simp [toMem, at_])

theorem witness_read : ∃ (s t : State) (g : Nat) (q : QOp) (x : Xlated) (home : Option Nat), g < 288 ∧ (s.core g).headOp = some q ∧
    q.reads = true ∧ q.done < q.lines ∧ (s.core g).loadWaits q = false ∧ s.access g q.lineVa needR .scratchpads = .ok t x ∧ x.loc = .mem home := by
  let q := aQ (.tld 1 (.reg 1) (.reg 2) 0) 0
  obtain ⟨t, x, h, hx⟩ := of_okWith (p := toMem) (r := (withQ q).access 0 q.lineVa needR .scratchpads) (by decide +kernel)
  obtain ⟨home, hm⟩ := of_toMem hx
  exact ⟨withQ q, t, 0, q, x, home, by decide, by decide +kernel, by decide, by decide, by decide +kernel, h, hm⟩
/-- Bytes of memory as every die sees them. -/
def State.holding (s : State) (a : Nat) (bs : List Byte) : State :=
  s.onOrd fun o => { o with mem := (List.range 4).foldl (fun v d => vset v d (amWrite (vget [] v d) a bs)) o.mem }
/-- A table at 0x10000 whose first entry names the table itself at every level, with R, W and X set and A clear (R268, R269), is the root of
partition 0, which has no range entry. -/
def walked (s : State) : State :=
  State.holding (s.onPart 0 fun p => { p with ranges := Part.reset.ranges, ptroot := 0x10000 }) 0x10000 [0x0F, 0, 1]
/-- The state that an access of a core leaves which sets an A or D bit first. -/
def updatedBy : Access → Option State
  | .updated t => some t
  | .wait | .fault _ _ | .ok _ _ => none
theorem of_updatedBy {r : Access} {t : State} : updatedBy r = some t → r = .updated t :=
  Access.casesOn (motive := fun r => updatedBy r = some t → r = .updated t) r (fun h => nomatch h)
    (fun _ h => congrArg Access.updated (Option.some.inj h)) (fun _ _ h => nomatch h) fun _ _ h => nomatch h
theorem witness_read_updated : ∃ (s t : State) (g : Nat) (q : QOp), g < 288 ∧ (s.core g).headOp = some q ∧ q.reads = true ∧
    q.done < q.lines ∧ s.access g q.lineVa needR .scratchpads = .updated t := by
  let q := aQ (.tld 1 (.reg 1) (.reg 2) 0) 0
  obtain ⟨t, h⟩ : ∃ t, updatedBy ((walked (withQ q)).access 0 q.lineVa needR .scratchpads) = some t :=
    Option.isSome_iff_exists.mp (by decide +kernel)
  exact ⟨walked (withQ q), t, 0, q, by decide, by decide +kernel, by decide, by decide, of_updatedBy h⟩
theorem witness_copy_read : ∃ (s t : State) (g : Nat) (x : XCmd) (y : Xlated) (home : Option Nat), g < 288 ∧
    (s.core g).headCopy = some x ∧ x.pipe = false ∧ x.line = none ∧ s.access g x.srcVa needR .scratchpads = .ok t y ∧ y.loc = .mem home := by
  let x := aX (.xcpy (.reg 1) (.reg 2) (.reg 3) 0) 0x400 0x800
  obtain ⟨t, y, h, hx⟩ := of_okWith (p := toMem) (r := (withX x).access 0 x.srcVa needR .scratchpads) (by decide +kernel)
  obtain ⟨home, hm⟩ := of_toMem hx
  exact ⟨withX x, t, 0, x, y, home, by decide, by decide +kernel, by decide, by decide, h, hm⟩
theorem witness_write : ∃ (s t : State) (g : Nat) (q : QOp) (x : Xlated) (home : Option Nat), g < 288 ∧ (s.core g).headOp = some q ∧
    q.writes = true ∧ q.done < q.lines ∧ s.access g q.lineVa needW .windows = .ok t x ∧ x.loc = .mem home := by
  let q := aQ (.tst 1 (.reg 1) (.reg 2) 0) 0
  obtain ⟨t, x, h, hx⟩ := of_okWith (p := toMem) (r := (withQ q).access 0 q.lineVa needW .windows) (by decide +kernel)
  obtain ⟨home, hm⟩ := of_toMem hx
  exact ⟨withQ q, t, 0, q, x, home, by decide, by decide +kernel, by decide, by decide, h, hm⟩
theorem witness_copy_write : ∃ (s t : State) (g : Nat) (x : XCmd) (y : Xlated) (l : W512) (home : Option Nat), g < 288 ∧
    (s.core g).headCopy = some x ∧ x.pipe = false ∧ x.line = some l ∧ s.covered g x.served = true ∧
    s.access g x.dstVa needW .windows = .ok t y ∧ y.loc = .mem home := by
  let x : XCmd := { aX (.xcpy (.reg 1) (.reg 2) (.reg 3) 0) 0x400 0x800 with buf := some 5#512 }
  obtain ⟨t, y, h, hx⟩ := of_okWith (p := toMem) (r := (withX x).access 0 x.dstVa needW .windows) (by decide +kernel)
  obtain ⟨home, hm⟩ := of_toMem hx
  exact ⟨withX x, t, 0, x, y, 5#512, home, by decide, by decide +kernel, by decide, rfl, by decide +kernel, h, hm⟩
/-- A write of the last two bytes of memory, at distinct addresses. -/
theorem witness_perform : ∃ (o : Order) (d i j : Nat) (bs : List (Nat × Byte)), d < 4 ∧ j < 4 ∧ j ≠ d ∧ i < 4 ∧ i ≠ d ∧
    (bs.map Prod.fst).Nodup ∧ bs.length = 2 ∧ amWf 0 (o.view d) = true ∧ amWf Order.keyZero (o.viewKeys d) = true ∧
    clk (o.dieClock d) d + 1 < 2 ^ 64 ∧
    ∀ c ∈ bs, Order.keyLt (amGet Order.keyZero (o.viewKeys d) c.1)
      { sum := clkSum (vset (o.dieClock d) d (clk (o.dieClock d) d + 1)), die := d, own := 1 } = true :=
  ⟨Order.reset, 3, 0, 1, [(0xBFFFFFFFFF, 7), (0xBFFFFFFFFE, 8)], by decide +kernel⟩
theorem witness_keys : (∀ k, k < 4 → clk clkZero k ≤ clk (vset clkZero 2 1) k) ∧ clk clkZero 2 < clk (vset clkZero 2 1) 2 := by decide
theorem witness_send : ∃ (s t : State) (g : Nat) (q : QOp) (x : Xlated) (home : Option Nat), g < 288 ∧ (s.core g).headOp = some q ∧
    q.reads = false ∧ q.writes = false ∧ q.sent = false ∧ q.done = 0 ∧ s.access g q.lineVa needRW .scratchpads = .ok t x ∧ x.loc = .mem home := by
  let q := aQ (.amoadd (.reg 1) (.reg 2) (.reg 3) 0) 8
  obtain ⟨t, x, h, hx⟩ := of_okWith (p := toMem) (r := (withQ q).access 0 q.lineVa needRW .scratchpads) (by decide +kernel)
  obtain ⟨home, hm⟩ := of_toMem hx
  exact ⟨withQ q, t, 0, q, x, home, by decide, by decide +kernel, by decide, by decide, by decide, by decide, h, hm⟩
theorem witness_arbitrate : ∃ (s : State) (i g line : Nat) (q : QOp) (dst : SDst), g < 288 ∧
    s.ord.waiting[i]? = some { core := g, line := line, dec := none } ∧ (s.core g).flow.mem = q :: [] ∧ q.sent = true ∧ q.stuck = false ∧
    clkGe (s.ord.dieClock (Config.dieOf g)) (s.ord.lineClock line) = true ∧ wordDst q.op = some dst ∧ dst ≠ .reg 0 := by
  let q : QOp := { aQ (.amoadd (.reg 1) (.reg 2) (.reg 3) 0) 8 with sent := true }
  exact ⟨(withQ q).onOrd fun o => { o with waiting := [{ core := 0, line := 0, dec := none }] }, 0, 0, 0, q, .reg 1, by decide +kernel⟩
theorem witness_atomic_word : ∃ (q : QOp) (old : List Byte) (n : W64), atomicWord (ofBytes 64 (old.take 8)) q.b q.c q.op = some n :=
  ⟨aQ (.amocas (.reg 1) (.reg 2) (.reg 3) 0) 8, List.replicate 8 0, 0, by decide +kernel⟩
theorem witness_binit : ∃ (q : QOp) (d : SDst) (a b : SSrc) (w : BitVec 3), q.op = .binit d a b w :=
  ⟨aQ (.binit (.reg 1) (.reg 2) (.reg 3) 0) 16, .reg 1, .reg 2, .reg 3, 0, rfl⟩
/-- The clauses of ARRIVE meet at COUNT + n = EXPECTED: one below, at it, and one above, with every field at its largest value. -/
theorem witness_arrive (count : Nat) (h : count = 65519 ∨ count = 65520 ∨ count = 65535) : ∃ (q : QOp) (d : SDst) (a : SSrc) (n : BitVec 4) (w : BitVec 3)
    (old : List Byte), q.op = .arrive d a n w ∧ q.b = n.setWidth 64 ∧ n = 15 ∧ count < 2 ^ 16 ∧
      (ofBytes 64 (old.take 8) : W64) = barrierWord 65535 count 15 1 255 := by
  refine ⟨{ aQ (.arrive (.reg 1) (.reg 2) 15 0) 16 with b := 15 }, .reg 1, .reg 2, 15, 0, bytesOf 8 (barrierWord 65535 count 15 1 255),
    rfl, rfl, rfl, ?_⟩
  rcases h with at_15 | at_0 | above
  · rw [at_15]; decide +kernel
  · rw [at_0]; decide +kernel
  · rw [above]; decide +kernel
/-- A line at the port of core 1, which is free. -/
def toPort : State → Xlated → Bool := fun t x =>
  decide (x.loc = .port 1 0) && decide (t.portWaiting 1 = []) && !(t.core 1).flow.portBusy.getLsbD 0 && decide (0 ∉ (t.core 1).localBanks)
theorem of_toPort {t : State} {x : Xlated} (h : toPort t x = true) : x.loc = .port 1 0 ∧ PortFree t 1 0 := by
  simpa [toPort, PortFree, and_assoc] using h
theorem witness_port_write : ∃ (s t : State) (g p off : Nat) (q : QOp) (x : Xlated) (v : Clock), g < 288 ∧ p < 288 ∧
    (s.core g).headOp = some q ∧ q.done < q.lines ∧ q.writes = true ∧ q.vc = some v ∧ clkGe (s.ord.dieClock (Config.dieOf p)) v = true ∧
    s.access g q.lineVa needW .windows = .ok t x ∧ x.loc = .port p off ∧ PortFree t p off := by
  let q : QOp := { aQ (.tst 1 (.reg 1) (.reg 2) 0) 0x1000 with vc := some clkZero }
  obtain ⟨t, x, h, hx⟩ := of_okWith (p := toPort) (r := (withQ q).access 0 q.lineVa needW .windows) (by decide +kernel)
  exact ⟨withQ q, t, 0, 1, 0, q, x, clkZero, by decide, by decide, by decide +kernel, by decide, by decide, rfl, by decide +kernel, h,
    (of_toPort hx).1, (of_toPort hx).2⟩
theorem witness_port_read : ∃ (s t : State) (g p off : Nat) (q : QOp) (x : Xlated), g < 288 ∧ p < 288 ∧
    (s.core g).headOp = some q ∧ q.reads = true ∧ q.done + 1 < q.lines ∧ s.access g q.lineVa needR .scratchpads = .ok t x ∧
    x.loc = .port p off ∧ PortFree t p off := by
  let q := aQ (.tld 1 (.reg 1) (.reg 2) 0) 0x1000
  obtain ⟨t, x, h, hx⟩ := of_okWith (p := toPort) (r := (withQ q).access 0 q.lineVa needR .scratchpads) (by decide +kernel)
  exact ⟨withQ q, t, 0, 1, 0, q, x, by decide, by decide, by decide +kernel, by decide, by decide, h, (of_toPort hx).1, (of_toPort hx).2⟩
/-- The line that a copy command holds goes to a port whose die covers the command's clock, the ports that it read being covered (R295). -/
theorem witness_port_copy : ∃ (s t : State) (g p off : Nat) (x : XCmd) (l : W512) (y : Xlated), g < 288 ∧ p < 288 ∧
    (s.core g).headCopy = some x ∧ x.pipe = false ∧ x.line = some l ∧ s.access g x.dstVa needW .windows = .ok t y ∧ y.loc = .port p off ∧
    t.portClock g p x.vc = true ∧ t.covered g x.served = true ∧ PortFree t p off := by
  let x : XCmd := { aX (.xcpy (.reg 1) (.reg 2) (.reg 3) 0) 0x1000 0x800 with buf := some 5#512, vc := some clkZero }
  obtain ⟨t, y, h, hx⟩ := of_okWith (p := fun t y => (t.portClock 0 1 (some clkZero) && t.covered 0 none) && toPort t y)
    (r := (withX x).access 0 x.dstVa needW .windows) (by decide +kernel)
  have ⟨clocks, free⟩ := Bool.and_eq_true_iff.mp hx
  exact ⟨withX x, t, 0, 1, 0, x, 5#512, y, by decide, by decide, by decide +kernel, by decide, rfl, h, (of_toPort free).1,
    (Bool.and_eq_true_iff.mp clocks).1, (Bool.and_eq_true_iff.mp clocks).2, (of_toPort free).2⟩
theorem witness_deposit : ∃ (s t : State) (g p off : Nat) (q : QOp) (x : Xlated), g < 288 ∧ (s.core g).headOp = some q ∧ q.writes = true ∧
    q.done + 1 < q.lines ∧ s.access g q.lineVa needW .windows = .ok t x ∧ x.loc = .reg p off ∧ t.ingressRoom p = true ∧ t.underScrub p = false := by
  let q := aQ (.tst 1 (.reg 1) (.reg 2) 0) 0x2000
  obtain ⟨t, x, h, hx⟩ := of_okWith (p := fun t x => decide (x.loc = .reg 1 0x200000 ∧ t.ingressRoom 1 = true ∧ t.underScrub 1 = false))
    (r := (withQ q).access 0 q.lineVa needW .windows) (by decide +kernel)
  exact ⟨withQ q, t, 0, 1, 0x200000, q, x, by decide, by decide +kernel, by decide, by decide, h, of_decide_eq_true hx⟩
/-- An entry of core 0. -/
def anEntry : Entry := { core := 0, host := false, addr := 0x200008, bytes := List.replicate 8 1, part := 0, va := none, stuck := false }
/-- A window bundle that has taken one entry, and one that has taken two: the last entry and an earlier one (R181). -/
theorem witness_drain (n : Nat) (h : n = 0 ∨ n = 1) : ∃ (s : State) (g : Nat) (e : Entry) (es : List Entry), g < 288 ∧
    (s.core g).reached.drain = some (n + 1) ∧ s.ingressOf g = e :: es ∧ (s.core g).mayApply e = true ∧ e.stuck = false ∧ e.host = false ∧ e.va = none := by
  refine ⟨((mapped.onCore 0 fun c => { c with reached := { c.reached with drain := some (n + 1) } }).ingressPush anEntry).ingressPush anEntry, 0,
    anEntry, [anEntry], ?_⟩
  rcases h with rfl | rfl <;> decide +kernel
theorem witness_hostop : ∃ (s t : State) (g : Nat) (q : QOp) (x : Xlated), g < 288 ∧ (s.core g).headOp = some q ∧ q.writes = true ∧
    q.done < q.lines ∧ s.access g q.lineVa needW .windows = .ok t x ∧ x.loc = .host := by
  let q := aQ (.tst 1 (.reg 1) (.reg 2) 0) 0x3000
  obtain ⟨t, x, h, hx⟩ := of_okWith (p := fun _ x => decide (x.loc = .host)) (r := (withQ q).access 0 q.lineVa needW .windows) (by decide +kernel)
  exact ⟨withQ q, t, 0, q, x, by decide, by decide +kernel, by decide, by decide, h, of_decide_eq_true hx⟩
theorem witness_host_load : ∃ (s t : State) (g : Nat) (q : QOp) (x : Xlated), g < 288 ∧ (s.core g).headOp = some q ∧ q.reads = true ∧
    q.done + 1 < q.lines ∧ s.access g q.lineVa needR .scratchpads = .ok t x ∧ x.loc = .host := by
  let q := aQ (.tld 1 (.reg 1) (.reg 2) 0) 0x3000
  obtain ⟨t, x, h, hx⟩ := of_okWith (p := fun _ x => decide (x.loc = .host)) (r := (withQ q).access 0 q.lineVa needR .scratchpads) (by decide +kernel)
  exact ⟨withQ q, t, 0, q, x, by decide, by decide +kernel, by decide, by decide, h, of_decide_eq_true hx⟩
/-- A sent line. -/
def aSent : Sent := { core := 1, copy := false, line := 2, bytes := [(128, 1)] }
theorem witness_observe : ∃ (s : State) (i : Nat) (w : Sent), s.ord.sent[i]? = some w ∧
    (∀ e ∈ s.ord.sent.take i, ¬ (e.core = w.core ∧ e.line = w.line)) ∧ i ≠ 0 :=
  ⟨State.reset.onOrd fun o => { o with sent := [{ aSent with core := 0 }, aSent] }, 1, aSent, by decide +kernel⟩
/-- The first write of die 1, of two bytes. -/
def aWr : Wr := { die := 1, stamp := vset clkZero 1 1, bytes := [(7, 9), (8, 1)] }
theorem witness_deliver : ∃ (s : State) (i j : Nat) (w : Wr) (ws : List Wr), i < 4 ∧ j < 4 ∧ i ≠ j ∧
    vget [] s.ord.chan (4 * i + j) = w :: ws :=
  ⟨State.reset.onOrd fun o => { o with chan := vset o.chan 7 [aWr] }, 1, 3, aWr, [], by decide +kernel⟩
/-- An apply buffer whose entry is next, and one whose entry's stamp is 2 in its own entry: the two clauses of APPLY (R292). -/
theorem witness_apply (n : Nat) (h : n = 1 ∨ n = 2) : ∃ (s : State) (j k : Nat) (w : Wr), j < 4 ∧ (vget [] s.ord.buf j)[k]? = some w ∧
    w.die < 4 ∧ clk w.stamp w.die = n ∧ clk (s.ord.dieClock j) w.die = 0 ∧ (∀ i, i < 4 → i ≠ w.die → clk w.stamp i ≤ clk (s.ord.dieClock j) i) ∧
    amWf 0 (s.ord.view j) = true ∧ amWf Order.keyZero (s.ord.viewKeys j) = true ∧ (w.bytes.map Prod.fst).Nodup := by
  refine ⟨State.reset.onOrd fun o => { o with buf := vset o.buf 0 [{ aWr with stamp := vset clkZero 1 n }] }, 0, 0,
    { aWr with stamp := vset clkZero 1 n }, ?_⟩
  rcases h with rfl | rfl <;> decide +kernel

/-- An image without code, for a number of cores. -/
def anImage (n : Nat) : Image :=
  { cores := n, classB := false, policyCompat := false, own := { code := [], commas := [], entries := [] }, other := none, handlerImage := false, tvec := 0x1000
    pages := [], data := [], scratch := [] }
/-- The same with a word of code at 0. -/
def codeImage (n : Nat) : Image := { anImage n with own := { code := [(0, [0, 0, 0, 0])], commas := [], entries := [0] } }

/-! ### Copy engines (O30) -/

theorem witness_copy_start : ∃ (s : State) (g : Nat) (x : XCmd), g < 288 ∧ (s.core g).flow.xq = x :: [] ∧ x.started = false ∧
    x.fault = none ∧ plainCopy x.op ∧ x.len < 2 ^ 32 ∧ EarlierDone (s.core g) x :=
  let x : XCmd := { aX (.xcpy (.reg 1) (.reg 2) (.reg 3) 0) 0x400 0x800 with started := false }
  ⟨withX x, 0, x, by decide, by decide +kernel, rfl, rfl, trivial, by decide, by unfold EarlierDone; decide +kernel⟩
theorem witness_copy_complete : ∃ (s : State) (g : Nat) (x : XCmd), g < 288 ∧ (s.core g).flow.xq = x :: [] ∧ x.started = true ∧
    x.fault = none ∧ plainCopy x.op ∧ x.rows * x.len ≤ x.bytes ∧ s.covered g x.served = true ∧ s.covered g x.wrote = true ∧ x.tok < 8 := by
  let x : XCmd := { aX (.xgo 0) 0x400 0x800 with bytes := 64, node := 0x40, wrote := some clkZero }
  exact ⟨withX x, 0, x, by decide, by decide +kernel, rfl, rfl, trivial, by decide +kernel⟩
/-- A node as the hub has read it. -/
def aNode (b : List Byte) : Node :=
  { addr := 0x200, part := 0, queue := 0, block := b, succs := [], copy := false, next := 0, total := 4, instances := [], gate := none
    progress := 0, parked := false, subst := none, need := clkZero, prior := [] }
/-- The command of a copy node: LEN 128 at 0x20, ROWS 1 at 0x28, SRC 0x800 at 0x18 (R328, R346). -/
def copyBytes : List Byte := List.replicate 0x18 0 ++ [0, 8] ++ List.replicate 6 0 ++ [0x80] ++ List.replicate 7 0 ++ [1] ++ List.replicate 215 0
/-- The node of partition 0, and the hub copy engine that runs it. -/
def withCopyNode (parked : Bool) : State :=
  let s := mapped.onPart 0 fun p => { p with nodes := [{ aNode copyBytes with copy := true, parked := parked }] }
  { s with hub := { s.hub with hubCopy := some { part := 0, node := 0x200, buf := none, vc := clkZero, served := none, wrote := none, need := clkZero, portAt := none, stuck := false } } }
theorem witness_copy_node : ∃ (s t : State) (h : HubCopy) (n : Node) (y : Xlated) (home : Option Nat), s.hub.hubCopy = some h ∧
    s.node? h.part h.node = some n ∧ n.progress < (nodeCmd n).total ∧ (nodeCmd n).fill = false ∧ h.buf = none ∧ h.stuck = false ∧
    s.accessFor h.part none (some (s.nodeDie h.part h.node)) (nodeCmd n).srcVa needR .scratchpads = .ok t y ∧ y.loc = .mem home := by
  let n : Node := { aNode copyBytes with copy := true, parked := false }
  obtain ⟨t, x, h, hx⟩ := of_okFor (p := toMem)
    (r := (withCopyNode false).accessFor 0 none (some ((withCopyNode false).nodeDie 0 0x200)) (nodeCmd n).srcVa needR .scratchpads) (by decide +kernel)
  obtain ⟨home, hm⟩ := of_toMem hx
  exact ⟨withCopyNode false, t, _, n, x, home, rfl, by decide +kernel, by decide +kernel, by decide +kernel, rfl, rfl, h, hm⟩
theorem witness_copy_resume : ∃ (s t : State) (p : Nat) (node : W64) (n : Node), p < 64 ∧ s.node? p node = some n ∧ n.parked = true ∧
    s.setStatus p none node stReady = .ok t := by
  obtain ⟨t, h⟩ := of_made (r := (withCopyNode true).setStatus 0 none 0x200 stReady) (by decide +kernel)
  exact ⟨withCopyNode true, t, 0, 0x200, { aNode copyBytes with copy := true, parked := true }, by decide, by decide +kernel, rfl, h⟩

/-! ### Landings, fetches, units, traps and barriers (O32 to O35) -/

/-- A result that lands one register, so many cycles after its place in the landing order. -/
def aResult (w : Write) (lag : Nat) : InFlight :=
  { due := lag, lag := lag, issued := 0, slot := 11, bundle := 0, dests := [], load := none, loadAt := none, writes := [w], flags := 0 }
theorem witness_landing (w : Write) (lag : Nat) : ∃ (s : State) (g : Nat) (f : InFlight), g < 288 ∧ (s.core g).flow.flight = [f] ∧
    f.due - f.lag ≤ (s.core g).flow.cyc ∧ f.load = none ∧ f.slot < 12 ∧ f.writes = [w] ∧ f.due = lag :=
  ⟨State.reset.onCore 0 fun c => { c with flow := { c.flow with flight := [aResult w lag] } }, 0, aResult w lag, by decide, by rfl,
    Nat.le_trans (Nat.le_of_eq (Nat.sub_self lag)) (Nat.zero_le _), rfl, Nat.lt_succ_self 11, rfl, rfl⟩
/-- A core that runs where nothing is mapped. -/
def unmapped : State := State.reset.onCore 0 fun c => { c with status := .running }
/-- How a fetch ended, if it faulted. -/
def faultOf {stop made : Type} : Except stop made → Option stop
  | .error e => some e
  | .ok _ => none
theorem of_faultOf {stop made : Type} {e : stop} : ∀ {r : Except stop made}, faultOf r = some e → r = .error e
  | .error _, h => congrArg Except.error (Option.some.inj h)
theorem witness_fetch_fault : ∃ (s : State) (g : Nat) (k : Cause) (va : Addr) (u : State), g < 288 ∧ (s.core g).fetches = true ∧
    s.fetchOwed g = none ∧ (s.core g).buffered (s.core g).pc = none ∧ s.fetchGroup g (s.core g).pcVa = .error (k, va) ∧
    s.touchPages g 4 (s.core g).pcVa (va.toNat - (s.core g).pc.toNat) = some s ∧ s.touchFault g va = some u := by
  obtain ⟨u, hu⟩ : ∃ u, unmapped.touchFault 0 0 = some u := Option.isSome_iff_exists.mp (by decide +kernel)
  exact ⟨unmapped, 0, .xlate, 0, u, by decide, by decide +kernel, by decide +kernel, by decide +kernel, of_faultOf (by decide +kernel), rfl, hu⟩
/-- ADDI s5, s0, 7 alone in a bundle with STOP at address 0: the header 0x00001001, then the slot 0x0080500007 (R50, R57). -/
def addiState : State := State.reset.withFetchWord 96 9245890065056403457
/-- The bytes at 0 are bound, and with none bound they are not (R5). -/
theorem witness_fetch (bound : Bool) : ∃ (s t : State) (g : Nat) (x : Group), g < 288 ∧ (s.core g).fetches = true ∧ s.fetchOwed g = none ∧
    (s.core g).buffered (s.core g).pc = none ∧ s.fetchGroup g (s.core g).pcVa = .ok x ∧ s.boundCode g (s.core g).pcVa x.len = bound ∧
    s.touchPages g 4 (s.core g).pcVa x.len = some t := by
  let s : State := if bound then addiState else addiState.onPart 0 fun p => { p with code := [] }
  have made : passes (fun (x : Group) => decide (x.len = 12)) (s.fetchGroup 0 (s.core 0).pcVa) = true := by cases bound <;> decide +kernel
  obtain ⟨x, h, len⟩ := of_passes made
  obtain ⟨t, ht⟩ : ∃ t, s.touchPages 0 4 (s.core 0).pcVa 12 = some t := Option.isSome_iff_exists.mp (by cases bound <;> decide +kernel)
  have twelve : x.len = 12 := of_decide_eq_true len
  refine ⟨s, t, 0, x, by decide, ?_, ?_, ?_, h, ?_, by rw [twelve]; exact ht⟩
  · cases bound <;> decide +kernel
  · cases bound <;> decide +kernel
  · cases bound <;> decide +kernel
  · rw [twelve]; cases bound <;> decide +kernel
theorem witness_fetch_owed : ∃ (s u : State) (g : Nat) (va : W64), g < 288 ∧ (s.core g).fetches = true ∧ s.fetchOwed g = some va ∧
    s.touchX g va = some u := by
  obtain ⟨u, h⟩ : ∃ u, (walked unmapped).touchX 0 0 = some u := Option.isSome_iff_exists.mp (by decide +kernel)
  exact ⟨walked unmapped, u, 0, 0, by decide, by decide +kernel, by decide +kernel, h⟩
/-- The group at 0x40 that a loop's buffer holds. -/
def loopGroup : Group := { addr := 0x40, len := 12, comma := false, window := false, e := 0, slots := [], bad := none }
theorem witness_fetch_buffered : ∃ (s : State) (g : Nat) (x : Group), g < 288 ∧ (s.core g).fetches = true ∧ (s.core g).pcHigh = 0 ∧
    (s.core g).buffered (s.core g).pc = some x :=
  ⟨State.reset.onCore 0 fun c => { c with
      status := .running, pc := 0x40
      flow := { c.flow with loops := [{ addrs := [0x40], found := 0x4C, endA := some 0x4C, left := 0, remain := 1, buf := [loopGroup], begun := true, inHandler := false, after := none }] } },
    0, loopGroup, by decide +kernel⟩
/-- A matrix command. -/
def aM (i : Instr) (left : Nat) : MCmd :=
  { op := i, bundle := 0, sched := 0, tok := 0, seq := 0, left := left, k := 0, scales := 0, b := 0, tau := 0, delta := 0, seed := 0
    flags := 0, lost := false, fault := none }
theorem witness_matrix_start : ∃ (s : State) (g : Nat) (m : MCmd), g < 288 ∧ (s.core g).flow.mrun = none ∧ (s.core g).flow.mq = m :: [] ∧
    m.fault = none ∧ CoreSt.mFault m.b m.op ((s.core g).mOperands m.op) = none :=
  ⟨State.reset.onCore 0 fun c => { c with flow := { c.flow with mq := [aM (.mzero 0 1 0) 1] } }, 0, aM (.mzero 0 1 0) 1, by decide,
    by decide +kernel, by rfl, rfl, by decide +kernel⟩
theorem witness_matrix_complete : ∃ (s : State) (g : Nat) (r : MRun), g < 288 ∧ (s.core g).flow.mrun = some r ∧
    r.start + busyTime r.cmd.op ≤ (s.core g).flow.cyc ∧ r.cmd.left = 0 ∧ r.cmd.tok < 8 :=
  ⟨State.reset.onCore 0 fun c => { c with flow := { c.flow with cyc := 100000, mrun := some ⟨aM (.mzero 0 1 0) 0, 0, 0, 0, 0⟩ } }, 0,
    ⟨aM (.mzero 0 1 0) 0, 0, 0, 0, 0⟩, by decide, by rfl, by decide +kernel, rfl, by decide⟩
/-- A domain operation. -/
def aD (i : Instr) : DOp :=
  { op := i, bundle := 0, group := 0, sched := 0, tok := i.token, seq := 0, a := 0, b := 0, budget := 1024, lost := false, fault := none }
theorem witness_domain_start : ∃ (s : State) (g : Nat) (q : DOp), g < 288 ∧ (s.core g).dom.run = none ∧ (s.core g).dom.ops = q :: [] ∧
    q.fault = none :=
  ⟨State.reset.onCore 0 fun c => { c with dom := { c.dom with ops := [aD (.dadd 1 2 3 0)] } }, 0, aD (.dadd 1 2 3 0), by decide, by decide +kernel,
    by rfl, rfl⟩
/-- A domain operation whose last execution has ended. -/
def aRun : DRun :=
  { op := aD (.dadd 1 2 3 7), n := 0, until_ := 0, failed := false, restored := false, target := 0, result := 0, flags := 0, fault := none }
theorem witness_domain_complete : ∃ (s : State) (g : Nat) (r : DRun), g < 288 ∧ (s.core g).dom.run = some r ∧
    r.until_ < (s.core g).flow.cyc ∧ Dom.more (s.core g) r = false ∧ r.fault = none ∧ r.failed = false ∧ r.op.tok = some 7 :=
  ⟨State.reset.onCore 0 fun c => { c with flow := { c.flow with cyc := 1 }, dom := { c.dom with run := some aRun } }, 0, aRun, by decide, by rfl,
    by decide +kernel, by decide +kernel, rfl, rfl, by decide⟩
theorem witness_timeout : ∃ (s : State) (g : Nat) (i : Instr) (p : BitVec 3) (a b : SSrc) (tmo : BitVec 5) (t : W64), g < 288 ∧
    i = .waitbit p a b tmo ∧ tmo ≠ 0 ∧ (s.core g).reached.polling = some i ∧ (s.core g).reached.since = some t ∧
    (s.core g).reached.polled = none ∧ (s.core g).reached.pollFault = none ∧ 2 ^ tmo.toNat ≤ (s.time - t).toNat := by
  let s := State.reset.onCore 0 fun c => { c with reached := { c.reached with polling := some (.waitbit 1 (.reg 1) (.reg 2) 31), since := some 0 } }
  exact ⟨{ s with time := 0x80000000 }, 0, .waitbit 1 (.reg 1) (.reg 2) 31, 1, .reg 1, .reg 2, 31, 0, by decide, rfl, by decide +kernel⟩
/-- A group of one BAR that a core waits at. -/
def barGroup : Group := { addr := 0, len := 12, comma := false, window := false, e := 0, slots := [(.y, { gp := 0, gs := false, op := .bar 0 }, 0)], bad := none }
theorem witness_barrier : ∃ (s : State) (g : Nat) (sc : BitVec 3), g < 288 ∧ (s.core g).barScope = some sc ∧
    (s.core g).reached.released = false ∧ s.barReady g sc = true :=
  ⟨mapped.onCore 0 fun c => { c with reached := { c.reached with arrived := true, grp := some barGroup } }, 0, 0, by decide +kernel⟩

/-! ### The scheduler (O36 to O42) -/

/-- A block node of four steps. -/
def aBlock : Node := { aNode (List.replicate 256 0) with next := 1 }
/-- Partition 0 holds cores 0 and 1, both free, and has a block of the enabled queue 5 ready. -/
def schedState : State :=
  let s := State.reset.onPart 0 fun p => { p with
    ranges := maps p.ranges, loaded := some .reset, held := 3, image := some (codeImage 2), rr := vset p.rr 3 (some 5), nodes := [{ aBlock with queue := 5 }], ready := [.node 0x200], slots := [0, 1] }
  s.onQueue 5 fun q => { q with prio := 3, weight := 1, size := 8, tail := 2, state := 1, deficit := 1 }
theorem witness_doorbell : ∃ (s : State) (q : Nat), q < 65536 ∧ amWf .reset s.hub.queues = true ∧ (s.queue 5).enabled = true :=
  ⟨schedState, 65535, by decide +kernel⟩
theorem witness_dequeue : ∃ (s t : State) (q : Nat), (s.queue q).enabled = true ∧ (s.queue q).faulted = false ∧ (s.queue q).count ≠ 0 ∧
    (s.part (s.queue q).part).purged = false ∧ (s.part (s.queue q).part).resetting = none ∧
    (s.part (s.queue q).part).ready.length < 4096 ∧
    ((s.swapIn q).onQueue q fun x => { x with head := x.head + 1, lastuse := (s.swapIn q).time }).takeNode (s.queue q).part q
      (amGet 0 (s.queue q).ring ((s.queue q).head.toNat % max 1 (s.queue q).size.toNat)) false = .ok t := by
  obtain ⟨t, h⟩ := of_made (r := ((schedState.swapIn 5).onQueue 5 fun x => { x with head := x.head + 1, lastuse := (schedState.swapIn 5).time }).takeNode
    (schedState.queue 5).part 5 (amGet 0 (schedState.queue 5).ring ((schedState.queue 5).head.toNat % max 1 (schedState.queue 5).size.toNat)) false)
    (by decide +kernel)
  have idle : (schedState.part (schedState.queue 5).part).purged = false ∧ (schedState.part (schedState.queue 5).part).resetting = none ∧
      (schedState.part (schedState.queue 5).part).ready.length < 4096 := by decide +kernel
  exact ⟨schedState, t, 5, by decide +kernel, by decide +kernel, by decide +kernel, idle.1, idle.2.1, idle.2.2, h⟩
/-- A block of one step that waits for one predecessor: PREDS 1, DIMS 1, BOUND0 and TILE0 1 (R321). -/
def waitingBlock : List Byte :=
  [0, 0, 0, 0, 1] ++ List.replicate 11 0 ++ [1] ++ List.replicate 7 0 ++ [1] ++ List.replicate 23 0 ++ [1] ++ List.replicate 207 0
/-- Queue 5 names that block. -/
def queuedState : State := (State.holding schedState 0x300 waitingBlock).onQueue 5 fun q => { q with ring := [(0, 0x300)] }
def queuedNext : State := (queuedState.swapIn 5).onQueue 5 fun x => { x with head := x.head + 1, lastuse := (queuedState.swapIn 5).time }
theorem witness_dequeue_block : ∃ (s t u v : State) (q : Nat) (b : List Byte) (succs : List W64), (s.queue q).enabled = true ∧
    (s.queue q).faulted = false ∧ (s.queue q).count ≠ 0 ∧ (s.queue q).part < 64 ∧ (s.part (s.queue q).part).purged = false ∧
    (s.part (s.queue q).part).resetting = none ∧ (s.part (s.queue q).part).ready.length < 4096 ∧
    (amGet 0 (s.queue q).ring ((s.queue q).head.toNat % max 1 (s.queue q).size.toNat)).toNat % 256 = 0 ∧
    ((s.swapIn q).onQueue q fun x => { x with head := x.head + 1, lastuse := (s.swapIn q).time }).hubGet (s.queue q).part none 5
      (amGet 0 (s.queue q).ring ((s.queue q).head.toNat % max 1 (s.queue q).size.toNat)) 256 = .ok (b, t) ∧
    t.setStatus (s.queue q).part none (amGet 0 (s.queue q).ring ((s.queue q).head.toNat % max 1 (s.queue q).size.toNat)) stWaiting = .ok u ∧
    u.blockCheck (s.queue q).part b = .ok ((0, succs), v) ∧ blkFlag b 1 = false ∧ blkCopy b = false ∧ Machine.fld b 4 2 ≠ 0 := by
  let status (t : State) := t.setStatus 0 none 0x300 stWaiting
  let check (u : State) := u.blockCheck 0 waitingBlock
  obtain ⟨⟨b, t⟩, hb, hk⟩ := of_passes (r := queuedNext.hubGet 0 none 5 0x300 256)
    (p := fun (y : List Byte × State) => decide (y.1 = waitingBlock) &&
      passes (fun (u : State) => passes (fun (v : (Nat × List W64) × State) => decide (v.1.1 = 0)) (check u)) (status y.2)) (by decide +kernel)
  have ⟨same, hk⟩ := Bool.and_eq_true_iff.mp hk
  obtain ⟨u, hu, hk⟩ := of_passes hk
  obtain ⟨⟨⟨n, succs⟩, v⟩, hv, zero⟩ := of_passes hk
  obtain rfl : b = waitingBlock := of_decide_eq_true same
  obtain rfl : n = 0 := of_decide_eq_true zero
  have place : amGet 0 (queuedState.queue 5).ring ((queuedState.queue 5).head.toNat % max 1 (queuedState.queue 5).size.toNat) = 0x300 ∧
      (queuedState.queue 5).part = 0 := by decide +kernel
  have enabled : (queuedState.queue 5).enabled = true ∧ (queuedState.queue 5).faulted = false ∧ (queuedState.queue 5).count ≠ 0 := by decide +kernel
  have idle : (queuedState.part 0).purged = false ∧ (queuedState.part 0).resetting = none ∧ (queuedState.part 0).ready.length < 4096 := by
    decide +kernel
  refine ⟨queuedState, t, u, v, 5, waitingBlock, succs, enabled.1, enabled.2.1, enabled.2.2, ?_⟩
  rw [place.1, place.2]
  exact ⟨by decide, idle.1, idle.2.1, idle.2.2, by decide, hb, hu, hv, by decide +kernel⟩
theorem witness_one_block : OneBlockReady schedState 0 { aBlock with queue := 5 } ∧ 1 ∈ schedState.freeCores 0 ∧
    (schedState.core 1).dbg.trstep = false :=
  ⟨{ served := by decide +kernel, bound := by decide +kernel, entry := by decide +kernel, more := by decide +kernel, queue := by decide +kernel, turn := by decide +kernel },
    by decide +kernel⟩
theorem witness_dispatch : ∃ (s t u : State) (p g : Nat) (k : Key) (b : Node), g < 288 ∧ p < 64 ∧ b.part = p ∧ s.placesNow p = true ∧
    s.freeCores p ≠ [] ∧ s.choose p = (t, some (k, .block b)) ∧ t.coresOk p [g] = true ∧ t.freeCores p ≠ [] ∧ t.gangDesc b = none ∧
    t.placeBlock b [g] = .ok u := by
  obtain ⟨u, h⟩ := of_made (r := (schedState.choose 0).1.placeBlock { aBlock with queue := 5 } [1]) (by decide +kernel)
  exact ⟨schedState, (schedState.choose 0).1, u, 0, 1, .node 0x200, { aBlock with queue := 5 }, by decide, by decide, rfl, by decide +kernel,
    by decide +kernel, Prod.ext rfl (by decide +kernel), by decide +kernel, by decide +kernel, by decide +kernel, h⟩
/-- The block has the flag GANG (R329), with a descriptor of 8 members at 0. -/
def gangBlock : Node := { aBlock with queue := 5, block := List.replicate 2 0 ++ [4] ++ List.replicate 253 0 }
def gangState : State := State.holding (schedState.onPart 0 fun p => { p with nodes := [gangBlock] }) 0 [8, 0, 1]
theorem witness_reserve : ∃ (s t : State) (p : Nat) (k : Key) (b : Node), p < 64 ∧ s.placesNow p = true ∧ s.freeCores p ≠ [] ∧
    s.choose p = (t, some (k, .block b)) ∧ (t.freeCores p).length < t.membersOf b ∧ (t.part p).reserve = none :=
  ⟨gangState, (gangState.choose 0).1, 0, .node 0x200, gangBlock, by decide, by decide +kernel, by decide +kernel,
    Prod.ext rfl (by decide +kernel), by decide +kernel⟩
theorem witness_launch : ∃ (s : State) (g : Nat) (st : StepInfo), g < 288 ∧ st.part < 64 ∧ (s.core g).dbg.trstep = false :=
  ⟨State.reset, 287, { bareStep with part := 63 }, by decide +kernel⟩
theorem witness_abi : ∃ (s : State) (g : Nat) (st : StepInfo), g < 288 ∧ (s.core g).status = .loading 0 ∧ (s.core g).step = some st ∧
    st.gated = false ∧ st.isStatic = false :=
  ⟨onC fun c => { c with status := .loading 0, step := some { bareStep with isStatic := false } }, 0, { bareStep with isStatic := false },
    by decide, by decide +kernel, by rfl, rfl, rfl⟩
theorem witness_expiry : ∃ (s : State) (p : Nat) (va t : W64), p < 64 ∧ (s.part p).reserve = some (va, t) ∧ 20000 ≤ (s.time - t).toNat :=
  ⟨{ schedState.onPart 0 fun p => { p with reserve := some (0x200, 0) } with time := 20000 }, 0, 0x200, 0, by decide +kernel⟩
/-- Two blocks of one queue are ready, the first behind the reservation. -/
theorem witness_expiry_drops : ∃ (s : State) (p : Nat) (va t : W64) (n m : Node), p < 64 ∧ (s.part p).reserve = some (va, t) ∧
    20000 ≤ (s.time - t).toNat ∧ (s.part p).ready = [.node va, .node m.addr] ∧ s.node? p va = some n ∧ s.node? p m.addr = some m ∧
    va ≠ m.addr ∧ n.queue = m.queue ∧ s.offerable p (.block n) = true ∧ gateHolds n = false :=
  ⟨{ schedState.onPart 0 fun p => { p with
        reserve := some (0x200, 0), nodes := [{ aBlock with queue := 5 }, { aBlock with queue := 5, addr := 0x500 }]
        ready := [.node 0x200, .node 0x500] } with time := 20000 }, 0, 0x200, 0, { aBlock with queue := 5 }, { aBlock with queue := 5, addr := 0x500 },
    by decide, by decide +kernel, by decide +kernel, by decide +kernel, by decide +kernel, by decide +kernel, by decide, rfl, by decide +kernel⟩
/-- Partition 0 idle: nothing ready. -/
def idleState : State := schedState.onPart 0 fun p => { p with nodes := [], ready := [] }
theorem witness_start_vector : ∃ (s t : State) (p : Nat) (va : W64), p < 64 ∧ s.startVector p va = .ok t := by
  obtain ⟨t, h⟩ := of_made (r := idleState.startVector 0 0x400) (by decide +kernel)
  exact ⟨idleState, t, 0, 0x400, by decide, h⟩
/-- A start vector for two cores at 0x400 (R43). -/
def vectorState : State := State.holding idleState 0x400 [2]
theorem core_outside (s t : State) (g : Nat) (h : ¬ g < 288) : t.core g = s.core g := by
  simp [State.core, vget, h]
/-- What the hub reads is a record for two cores, with its entries in the bound image of the partition, and the read leaves the cores' places,
the partition's cores and its image as they were. -/
abbrev WholeRecord (s : State) (b : List Byte) (t : State) : Prop :=
  Machine.fld b 0 2 = 2 ∧ zeroAt b 2 6 = true ∧ (∀ k : Nat, k < 2 → Machine.fld b (0x48 + 8 * k) 8 % 4 = 0) ∧
  (∀ k : Nat, k < 2 → (s.part 0).entryOk (fldW b (0x48 + 8 * k)) = true) ∧ t.partCores 0 = s.partCores 0 ∧ (t.part 0).image = (s.part 0).image ∧
  ∀ g : Nat, g < 288 → (t.core g).dbg = (s.core g).dbg ∧ (t.core g).classB = (s.core g).classB ∧ (t.core g).logical = (s.core g).logical
/-- Partition 0 can start a vector, and its two cores do not stop at a launch. -/
theorem vectorState_ready : vectorState.svReady 0 = true ∧ vectorState.partCores 0 = [0, 1] ∧
    ∀ g ∈ vectorState.partCores 0, (vectorState.core g).dbg.trstep = false := by decide +kernel
theorem witness_start_vector_whole : ∃ (s t : State) (p : Nat) (va : W64) (b : List Byte), p < 64 ∧ s.svReady p = true ∧
    (∀ g ∈ s.partCores p, (s.core g).dbg.trstep = false) ∧ va.toNat % 64 = 0 ∧
    s.hubTry p va (0x48 + 8 * (s.partCores p).length) = .ok (some b, t) ∧ Machine.fld b 0 2 = (s.partCores p).length ∧ (s.partCores p).length = 2 ∧
    zeroAt b 2 6 = true ∧ (∀ k, k < (s.partCores p).length → Machine.fld b (0x48 + 8 * k) 8 % 4 = 0) ∧
    (∀ k, k < (s.partCores p).length → (s.part p).entryOk (fldW b (0x48 + 8 * k)) = true) ∧
    (∀ g, (t.core g).dbg = (s.core g).dbg ∧ (t.core g).classB = (s.core g).classB ∧ (t.core g).logical = (s.core g).logical) ∧
    t.partCores p = s.partCores p ∧ (t.part p).image = (s.part p).image := by
  have two : (vectorState.partCores 0).length = 2 := congrArg List.length vectorState_ready.2.1
  obtain ⟨b, t, h, good⟩ : ∃ b t, vectorState.hubTry 0 0x400 88 = .ok (some b, t) ∧ WholeRecord vectorState b t := by
    obtain ⟨y, h, good⟩ := of_passes (r := vectorState.hubTry 0 0x400 88) (p := fun (y : Option (List Byte) × State) =>
      decide (some (y.1.getD []) = y.1 ∧ WholeRecord vectorState (y.1.getD []) y.2)) (by decide +kernel)
    have ⟨read, whole⟩ := of_decide_eq_true good
    exact ⟨y.1.getD [], y.2, h.trans (congrArg (fun z => Except.ok (z, y.2)) read.symm), whole⟩
  refine ⟨vectorState, t, 0, 0x400, b, by decide, vectorState_ready.1, vectorState_ready.2.2, by decide, ?_⟩
  rw [two]
  refine ⟨h, good.1, rfl, good.2.1, good.2.2.1, good.2.2.2.1, fun g => ?_, good.2.2.2.2.1, good.2.2.2.2.2.1⟩
  rcases Nat.lt_or_ge g 288 with hg | hg
  · exact good.2.2.2.2.2.2 g hg
  · rw [core_outside vectorState t g (Nat.not_lt.mpr hg)]; exact ⟨rfl, rfl, rfl⟩
theorem witness_start_vector_busy : (schedState.part 0).ready ≠ [] ∧ schedState.bindApplied 0 = true := by decide +kernel
/-- A binding some of whose writes are not yet applied everywhere (R340). -/
theorem witness_start_vector_waits : (idleState.onPart 0 fun p => { p with bindNeed := vset clkZero 1 1 }).bindApplied 0 = false := by decide +kernel
/-- A record for one core, and one for two cores of which the second enters at 0x40, outside the image's code. -/
theorem witness_start_vector_refused (n : Nat) (h : n = 1 ∨ n = 2) : ∃ (s t : State) (p : Nat) (va : W64) (b : List Byte), p < 64 ∧ s.svReady p = true ∧
    va.toNat % 64 = 0 ∧ s.hubTry p va (0x48 + 8 * (s.partCores p).length) = .ok (some b, t) ∧ (s.partCores p).length = 2 ∧ Machine.fld b 0 2 = n ∧
    zeroAt b 2 6 = true ∧ (∀ k : Nat, k < 2 → Machine.fld b (0x48 + 8 * k) 8 % 4 = 0) ∧ (s.part p).entryOk (fldW b 0x50) = false := by
  let record (n : Byte) : List Byte := n :: List.replicate 0x4F 0 ++ [0x40]
  let s (n : Byte) := State.holding idleState 0x400 (record n)
  have key (n : Byte) (hn : n = 1 ∨ n = 2) : (s n).svReady 0 = true ∧ (s n).partCores 0 = [0, 1] ∧
      passes (fun (y : Option (List Byte) × State) => decide (y.1 = some (record n ++ List.replicate 7 0))) ((s n).hubTry 0 0x400 88) = true ∧
      ((s n).part 0).entryOk (fldW (record n ++ List.replicate 7 0) 0x50) = false := by
    rcases hn with rfl | rfl <;> decide +kernel
  have all (n : Byte) (hn : n = 1 ∨ n = 2) : ∃ (s t : State) (p : Nat) (va : W64) (b : List Byte), p < 64 ∧ s.svReady p = true ∧
      va.toNat % 64 = 0 ∧ s.hubTry p va (0x48 + 8 * (s.partCores p).length) = .ok (some b, t) ∧ (s.partCores p).length = 2 ∧ Machine.fld b 0 2 = n.toNat ∧
      zeroAt b 2 6 = true ∧ (∀ k : Nat, k < 2 → Machine.fld b (0x48 + 8 * k) 8 % 4 = 0) ∧ (s.part p).entryOk (fldW b 0x50) = false := by
    obtain ⟨y, hy, same⟩ := of_passes (key n hn).2.2.1
    have two : ((s n).partCores 0).length = 2 := congrArg List.length (key n hn).2.1
    refine ⟨s n, y.2, 0, 0x400, record n ++ List.replicate 7 0, by decide, (key n hn).1, by decide, ?_, two, ?_, ?_, ?_, (key n hn).2.2.2⟩
    · rw [two]; exact hy.trans (congrArg (fun z => Except.ok (z, y.2)) (of_decide_eq_true same))
    · rcases hn with rfl | rfl <;> decide +kernel
    · rcases hn with rfl | rfl <;> decide +kernel
    · rcases hn with rfl | rfl <;> decide +kernel
  rcases h with rfl | rfl
  · exact all 1 (Or.inl rfl)
  · exact all 2 (Or.inr rfl)
theorem witness_start_vector_malformed : ∃ (s : State) (p : Nat) (va : W64), p < 64 ∧ s.svReady p = true ∧ va.toNat % 64 ≠ 0 :=
  ⟨idleState, 0, 63, by decide +kernel⟩
/-- Core 0 runs a step of the block that its partition still holds. -/
def stepOf : StepInfo := { bareStep with isStatic := false, node := 0x200 }
def savingState (drop : Bool) : State := schedState.onCore 0 fun c => { c with status := .saving 0, step := some stepOf, req := { c.req with drop := drop } }
theorem witness_save_dropped : ∃ (s : State) (g : Nat) (st : StepInfo), g < 288 ∧ (s.core g).status = .saving 0 ∧ (s.core g).step = some st ∧
    (s.core g).req.drop = true := ⟨savingState true, 0, stepOf, by decide +kernel⟩
theorem witness_save : ∃ (s : State) (g slot : Nat) (slots : List Nat) (st : StepInfo), g < 288 ∧ (s.core g).status = .saving 0 ∧
    (s.core g).step = some st ∧ st.part < 64 ∧ (s.core g).req.drop = false ∧ (s.core g).req.yield = false ∧ st.member = none ∧
    (s.core g).dbg.trtrap = false ∧ (s.part st.part).ready.length < 4096 ∧ (s.part st.part).slots = slot :: slots :=
  ⟨savingState false, 0, 0, [1], stepOf, by decide, by decide +kernel, by decide +kernel, by decide, by decide +kernel, by decide +kernel, rfl,
    by decide +kernel⟩
/-- A step saved in slot 1, whose block is no more known to the hub: it has no queue, as a step of a static launch. -/
def aSaved : Saved := { slot := 1, step := bareStep, yielded := false }
def savedState : State := schedState.onPart 0 fun p => { p with nodes := [], ready := [.saved 1], saved := [aSaved], slots := [0], staticRun := true }
theorem witness_restore : ∃ (s t : State) (p slot g : Nat) (x : Saved), g < 288 ∧ p < 64 ∧ s.placesNow p = true ∧
    s.choose p = (t, some (.saved slot, .resume [x])) ∧ t.coresOk p [g] = true ∧ x.step.part = p ∧ x.slot = slot ∧ x.step.member = none ∧
    t.offerQueue p (.resume [x]) = none :=
  ⟨savedState, (savedState.choose 0).1, 0, 1, 1, aSaved, by decide, by decide, by decide +kernel, Prod.ext rfl (by decide +kernel), by decide +kernel,
    rfl, rfl, rfl, by decide +kernel⟩
theorem witness_restore_static : ∃ (s : State) (p slot g : Nat) (x : Saved), g < 288 ∧ p < 64 ∧ s.placesNow p = true ∧
    (s.part p).staticRun = true ∧ (s.part p).reserve = none ∧ (s.part p).missing = [] ∧ (s.part p).ready = [.saved slot] ∧
    (s.part p).saved = [x] ∧ x.slot = slot ∧ x.step.part = p ∧ x.step.member = none ∧ s.node? p x.step.node = none ∧ g ∈ s.freeCores p :=
  ⟨savedState, 0, 1, 1, aSaved, by decide +kernel⟩
theorem witness_resume_on : ∃ (s : State) (x : Saved) (g : Nat), g < 288 ∧ x.step.part < 64 ∧ (s.core g).dbg.trtrap = false ∧ (s.core g).flow.flight = [] :=
  ⟨savedState, aSaved, 287, by decide +kernel⟩
theorem witness_restore_discarded : ∃ (s : State) (p slot : Nat) (x : Saved), p < 64 ∧
    (s.part p).saved.find? (fun y => y.slot == slot) = some x ∧ x.step.member = none ∧ (s.part p).ready.length < 4096 :=
  ⟨savedState, 0, 1, aSaved, by decide, by decide +kernel, rfl, by decide +kernel⟩
/-- Core 0 has ended its step. -/
def endedState (st : StepInfo) : State := mapped.onCore 0 fun c => { c with status := .ended, step := some st }
theorem witness_retire : ∃ (s : State) (g : Nat) (st : StepInfo), g < 288 ∧ st.part < 64 ∧ (s.core g).step = some st ∧ (s.core g).status = .ended ∧
    (∀ w, w < 8 → ((s.core g).token w).out = 0) ∧ (s.core g).flow.mem = [] ∧ (s.core g).flow.flight = [] ∧ (s.core g).dom.run = none ∧
    (s.core g).dom.ops = [] ∧ s.writesOut g st = true ∧
    (s.core g).dbg.trstep = false ∧ st.isStatic = true ∧ st.member = none :=
  ⟨endedState bareStep, 0, bareStep, by decide +kernel⟩
theorem witness_retire_last : ∃ s : State, (s.core 0).status = .ended ∧ s.residents 0 = [0] ∧ (s.part 0).saved = [] ∧ (s.part 0).restarts = [] :=
  ⟨(endedState bareStep).onPart 0 fun p => { p with held := 1 }, by decide +kernel⟩
theorem witness_retire_block : ∃ (s : State) (g : Nat) (st : StepInfo) (t : State), (s.core g).status = .ended ∧ (s.core g).step = some st ∧
    st.isStatic = false ∧ st.member = none ∧ s.node? st.part st.node = none ∧ s.retireBlock g st = .ok t ∧ (t.core g).dbg.trstep = false :=
  ⟨endedState stepOf, 0, stepOf, endedState stepOf, by decide +kernel, by rfl, rfl, rfl, by rfl, by rfl, by decide +kernel⟩

/-! ### Requests, resets, substitution and elision (O43 to O46) -/

/-- A slice of partition 0 that has ended, with a step resident on core 0. -/
def slicedState : State :=
  { (schedState.onPart 0 fun p => { p with slice := some { start := 0, len := 1, ninths := 0 } }).onCore 0 fun c =>
      { c with status := .running, step := some stepOf } with time := 100 }
theorem witness_preempt : ∃ (s : State) (g : Nat) (st : StepInfo), g < 288 ∧ (s.core g).step = some st ∧ st.part < 64 ∧ st.member = none ∧
    (s.core g).req.preempt = false ∧ s.sliceOver st.part = true ∧ (s.part st.part).slots ≠ [] :=
  ⟨slicedState, 0, stepOf, by decide, by decide +kernel, by decide, rfl, by decide +kernel⟩
/-- A group of one poll that carries COMMA. -/
def pollGroup : Group :=
  { addr := 0, len := 12, comma := true, window := false, e := 0, slots := [(.y, { gp := 0, gs := false, op := .waitph 1 (.reg 1) (.reg 2) 5 }, 0)], bad := none }
/-- Both cores of partition 0 run steps of its block, held at a wait comma. -/
def waitingState : State :=
  let f (n : Nat) (c : CoreSt) : CoreSt := { c with
    status := .running, step := some { stepOf with order := n }, reached := { c.reached with grp := some pollGroup, polling := some (.waitph 1 (.reg 1) (.reg 2) 5) } }
  (schedState.onCore 0 (f 3)).onCore 1 (f 4)
theorem witness_yield : ∃ (s : State) (g : Nat) (st : StepInfo) (n : Node), g < 288 ∧ (s.core g).step = some st ∧ st.part < 64 ∧
    st.member = none ∧ st.isStatic = false ∧ g ∈ s.residents st.part ∧ (s.part st.part).nodes = [n] ∧ n.addr = st.node ∧
    .node n.addr ∈ (s.part st.part).ready ∧ s.offerable st.part (.block n) = true ∧ gateHolds n = false ∧ (s.part st.part).missing = [] ∧
    s.freeCores st.part = [] ∧ s.atWaitComma g = true ∧ (s.core g).asked = false ∧
    (∀ h ∈ s.residents st.part, h ≠ g → ∀ t, (s.core h).step = some t → t.node = st.node → t.isStatic = false →
      s.atWaitComma h = true ∧ (s.core h).asked = false ∧ st.order < t.order) ∧ s.residents st.part ≠ [g] ∧
    (s.part st.part).slots ≠ [] ∧ (∀ h ∈ s.residents st.part, s.stepExpired h = false) := by
  have both : ∀ h ∈ waitingState.residents 0, h ≠ 0 → h = 1 := by decide +kernel
  have younger : (waitingState.core 1).step = some { stepOf with order := 4 } ∧ waitingState.atWaitComma 1 = true ∧ (waitingState.core 1).asked = false :=
    ⟨rfl, by decide +kernel, by decide +kernel⟩
  have block : waitingState.offerable 0 (.block { aBlock with queue := 5 }) = true ∧ gateHolds { aBlock with queue := 5 } = false ∧
      (waitingState.part 0).missing = [] ∧ waitingState.freeCores 0 = [] ∧ .node 0x200 ∈ (waitingState.part 0).ready := by decide +kernel
  have asks : waitingState.atWaitComma 0 = true ∧ (waitingState.core 0).asked = false := by decide +kernel
  refine ⟨waitingState, 0, { stepOf with order := 3 }, { aBlock with queue := 5 }, by decide, by rfl, by decide, rfl, rfl, by decide +kernel,
    by decide +kernel, rfl, block.2.2.2.2, block.1, block.2.1, block.2.2.1, block.2.2.2.1, asks.1, asks.2, fun h hh hne t ht _ _ => ?_, by decide +kernel⟩
  obtain rfl : h = 1 := both h hh hne
  have order : t.order = 4 := congrArg StepInfo.order (Option.some.inj (ht.symm.trans younger.1))
  exact ⟨younger.2.1, younger.2.2, by rw [order]; decide⟩
/-- Partitions 0 and 63 of which the first holds the cores and its slice has ended. -/
def guestState : State :=
  let e : PartEntry := { PartEntry.reset with slice := 1000, state := 1, cores := 3 }
  { (State.reset.onPart 0 fun p => { p with loaded := some e, held := 3, slice := some { start := 0, len := 1, ninths := 0 } }).onPart 63 fun p =>
      { p with loaded := some e } with time := 100 }
theorem witness_slice_end : ShareBySlice guestState 0 63 ∧ guestState.sliceOver 0 = true ∧ guestState.residents 0 = [] :=
  ⟨{ two := by decide, loaded := by decide +kernel, sliced := by decide +kernel, waits := by decide +kernel, alone := by decide +kernel
     quiet := by decide +kernel }, by decide +kernel⟩
/-- One partition whose slice has ended and that shares its cores with no other. -/
def loneState : State :=
  { State.reset.onPart 0 fun p => { p with loaded := some { PartEntry.reset with slice := 1000, state := 1, cores := 3 }, held := 3
                                           slice := some { start := 0, len := 1, ninths := 0 } } with time := 100 }
theorem witness_slice_end_alone : 0 < 64 ∧ loneState.nextSharer 0 = 0 ∧ (loneState.part 0).loaded ≠ none ∧ (loneState.part 0).inForce.slice ≠ 0 ∧
    loneState.sliceOver 0 = true ∧ loneState.residents 0 = [] ∧ (loneState.part 0).resetting = none ∧ (loneState.part 0).scrub = none := by
  refine ⟨by decide, ?_⟩; decide +kernel
/-- A block with DEADLINE and a substitute at time 0 (R339). -/
def dueBlock : Node := { aBlock with queue := 5, block := List.replicate 2 0 ++ [0x11] ++ List.replicate 253 0 }
theorem witness_deadline : ∃ (s : State) (p : Nat) (va : W64) (n : Node), p < 64 ∧ s.node? p va = some n ∧ n.part = p ∧ n.addr = va ∧
    s.deadlineDue n = true ∧ (s.part p).resetting = none ∧ s.substPending n = true :=
  ⟨schedState.onPart 0 fun p => { p with nodes := [dueBlock] }, 0, 0x200, dueBlock, by decide, by decide +kernel, rfl, rfl, by decide +kernel⟩
theorem witness_watchdog : ∃ (s : State) (g : Nat) (st : StepInfo), g < 288 ∧ st.part < 64 ∧ (s.core g).step = some st ∧ st.limit ≠ 0 ∧
    1000 * st.limit ≤ st.elapsed ∧ ¬ ((s.core g).dbg.stopped = true ∧ (s.core g).dbg.owned = true) ∧ (s.part st.part).resetting = none ∧ (s.part st.part).scrub = none ∧
    (∀ n ∈ (s.part st.part).nodes, s.deadlineDue n = false) :=
  ⟨schedState.onCore 0 fun c => { c with step := some { stepOf with limit := 5, elapsed := 5000 } }, 0, { stepOf with limit := 5, elapsed := 5000 },
    by decide, by decide, by rfl, by decide +kernel⟩
theorem witness_watchdog_held : ∃ (s : State) (g : Nat) (st : StepInfo), g < 288 ∧ (s.core g).step = some st ∧ st.limit ≠ 0 ∧
    1000 * st.limit ≤ st.elapsed ∧ (s.core g).dbg.stopped = true ∧ (s.core g).dbg.owned = true :=
  ⟨schedState.onCore 0 fun c => { c with step := some { stepOf with limit := 5, elapsed := 5000 }, dbg := { c.dbg with stopped := true, owned := true } },
    0, { stepOf with limit := 5, elapsed := 5000 }, by decide, by rfl, by decide +kernel⟩
/-- A partition reset of partition 0, with core 0 halted, or running on 8 µs after it. -/
def resettingState (st : Status) : State :=
  { (schedState.onPart 0 fun p => { p with resetting := some .reset }).onCore 0 fun c => { c with status := st, step := some stepOf } with time := 8000 }
theorem witness_hard_reset (st : Status) (h : st = .halted ∨ st = .running) : ∃ (s : State) (g : Nat) (x : StepInfo), g < 288 ∧ (s.core g).step = some x ∧
    (s.part x.part).resetting ≠ none ∧ (s.core g).status = st ∧ 8000 ≤ (s.time - (s.part x.part).resetAt).toNat := by
  refine ⟨resettingState st, 0, stepOf, ?_⟩
  rcases h with rfl | rfl <;> decide +kernel
/-- A run of the elision engine on cores 0 and 287, which partition 7 gave up. -/
def aScrub (cleared : Bool) : Scrub := { reason := .scrub, cores := [0, 287], cleared := cleared, found := [], outgoing := some (7, 7) }
def scrubState (b : Bool) : State := State.reset.onPart 63 fun p => { p with scrub := some (aScrub b), cmdRun := true }
/-- The clearing, with correctable errors found on one core, and the token after it. -/
theorem witness_elision : ∃ (s : State) (p : Nat) (r : Scrub) (found : List (Nat × Nat × Nat)), p < 64 ∧ (s.part p).scrub = some r ∧
    r.cleared = false ∧ (∀ g ∈ r.cores, g < 288 ∧ (s.core g).step = none) ∧ (∀ x ∈ found, x.1 ∈ r.cores) ∧ (found.map fun x => x.1).Nodup ∧
    (∀ q x, q < 64 → q ≠ p → (s.part q).scrub = some x → ∀ g ∈ x.cores, g ∉ r.cores) ∧ found = [(287, 2, 1)] ∧ r.outgoing = some (7, 7) ∧
    amWf 0 s.hub.coreErr = true := by
  refine ⟨scrubState false, 63, aScrub false, [(287, 2, 1)], by decide, by rfl, rfl, by decide +kernel, by decide, by decide, ?_, rfl, rfl, by decide +kernel⟩
  intro q x hq hne hx
  have h : ∀ q, q < 64 → q ≠ 63 → ((scrubState false).part q).scrub = none := by decide +kernel
  rw [h q hq hne] at hx; cases hx
theorem witness_elision_token : ∃ (s : State) (p : Nat) (r : Scrub), p < 64 ∧ (s.part p).scrub = some r ∧ r.cleared = true ∧
    (s.part p).cmdRun = true ∧ r.reason ∈ [.reload, .scrub, .reset] ∧ (s.part p).image = none :=
  ⟨scrubState true, 63, aScrub true, by decide, by rfl, rfl, by decide +kernel⟩
theorem witness_purge : ∃ (s t : State) (p : Nat) (why : ScrubReason), p < 64 ∧ (s.part p).scrub = none ∧ (s.part p).resetting = some why ∧
    s.residents p = [] ∧ s.purge p why = .ok t := by
  obtain ⟨t, h⟩ := of_made (r := (schedState.onPart 0 fun p => { p with resetting := some .watchdog }).purge 0 .watchdog) (by decide +kernel)
  exact ⟨_, t, 0, .watchdog, by decide, by decide +kernel, by decide +kernel, by decide +kernel, h⟩
theorem witness_token : (63 < 64) ∧ (List.range 288).length ≤ 288 := by decide +kernel
/-- A block that asks for a token of the nonce 7, and a token of that nonce in its partition. -/
def gateState : State :=
  schedState.onPart 0 fun p => { p with
    nodes := [{ aBlock with queue := 5, gate := some { nonce := 7, sent := none } }]
    token := List.replicate 0x48 0 ++ [7] ++ List.replicate 183 0 }
theorem witness_token_delivery : ∃ (s t : State) (p : Nat) (va : W64) (n : Node) (gt : Gate), p < 64 ∧ s.node? p va = some n ∧ n.gate = some gt ∧
    gt.sent = none ∧ (s.part p).token ≠ [] ∧ ofBytes 256 (((s.part p).token.drop 0x48).take 32) = gt.nonce ∧
    s.hubPut p none 5 (fldW n.block 0xF0 + 64) (s.part p).token = .ok t ∧ t.node? p va = some n := by
  obtain ⟨t, h, kept⟩ := of_passes (r := gateState.hubPut 0 none 5 64 (gateState.part 0).token)
    (p := fun (t : State) => decide (t.node? 0 0x200 = some { aBlock with queue := 5, gate := some { nonce := 7, sent := none } })) (by decide +kernel)
  have place : fldW aBlock.block 0xF0 + 64 = 64 := by decide +kernel
  exact ⟨gateState, t, 0, 0x200, { aBlock with queue := 5, gate := some { nonce := 7, sent := none } }, { nonce := 7, sent := none }, by decide,
    by decide +kernel, rfl, rfl, by decide +kernel, by decide +kernel,
    (congrArg (fun a => gateState.hubPut 0 none 5 a (gateState.part 0).token) place).trans h, of_decide_eq_true kept⟩

/-! ### Stops, debugger, errors, the host and the package (O44 to O52) -/

/-- A core whose group has a breakpoint on it; an owned core stops, another takes BREAK. -/
def breakState (owned : Bool) : State := State.reset.onCore 0 fun c => { c with
  status := .running, reached := { c.reached with grp := some { barGroup with addr := 0x40 } }
  dbg := { c.dbg with owned := owned, bp := vset c.dbg.bp 7 0x41 } }
theorem witness_breakpoint (o : Bool) : ∃ (s : State) (g b : Nat) (x : Group), g < 288 ∧ b < 8 ∧ (s.core g).atGroup = some x ∧
    (s.core g).reached.broke = false ∧ (s.core g).bpAt b x.addr = true ∧ (s.core g).bpTraces b = false ∧ (s.core g).dbg.owned = o := by
  refine ⟨breakState o, 0, 7, { barGroup with addr := 0x40 }, ?_⟩
  cases o <;> decide +kernel
/-- A core whose group has hit watch range 3. -/
def hitState (owned : Bool) : State := State.reset.onCore 0 fun c => { c with
  status := .running, dbg := { c.dbg with owned := owned, hit := some { range := 3, va := 8, slots := 1, group := 0x40, sched := 9 } } }
theorem witness_watch (o : Bool) : ∃ (s : State) (g r : Nat) (h : WatchHit), g < 288 ∧ (s.core g).dbg.hit = some h ∧ h.range = r ∧
    (s.core g).status = .running ∧ (s.core g).ctrl.handler = false ∧ (s.core g).dbg.trace = false ∧ (s.core g).dbg.stopped = false ∧ (s.core g).dbg.owned = o := by
  refine ⟨hitState o, 0, 3, { range := 3, va := 8, slots := 1, group := 0x40, sched := 9 }, ?_⟩
  cases o <;> decide +kernel
/-- A core at a stop. -/
def stoppedState (domain : BitVec 4) : State := State.reset.onCore 287 fun c => { c with dbg := { c.dbg with stopped := true, domain := domain } }
theorem witness_stopped : ∃ (s : State) (g : Nat), g < 288 ∧ (s.core g).dbg.stopped = true ∧ (s.core g).dbg.domain = 0 :=
  ⟨stoppedState 0, 287, by decide +kernel⟩
theorem witness_debug_write : ∃ (ofs : Nat) (bs : List Byte), ofs + bs.length < 0x286000 ∧ bs ≠ [] := ⟨0x285FFE, [1], by decide +kernel⟩
theorem witness_latch_port : ∃ (s : State) (g k : Nat), g < 288 ∧ k < 8 ∧ (s.core g).dbg.stopped = true ∧ (s.core g).dbg.domain.toNat = k + 1 :=
  ⟨stoppedState 8, 287, 7, by decide +kernel⟩
theorem witness_core_error : ∃ (s : State) (g : Nat) (kind : BitVec 4), g < 288 ∧ (s.core g).status = .ended ∧ kind ≠ 6 ∧ s.repStatus ≠ 1 ∧
    (s.core g).tokenOpen = false :=
  ⟨onC fun c => { c with status := .ended }, 0, 15, by decide +kernel⟩
theorem witness_shared_error : ∃ (s : State) (inst p : Nat), inst < 4 ∧ p < 64 ∧ (∀ g, g < 288 → s.isMet g 0 = false) ∧ s.hub.hubCopy = none ∧ (∀ e ∈ vget [] s.ord.ingress inst, e.part ≠ p) ∧
    (∀ e ∈ vget [] s.ord.ingress inst, e.part < 64) ∧ vget [] s.ord.ingress inst ≠ [] :=
  ⟨State.reset.ingressPush anEntry, 0, 63, by decide +kernel⟩
theorem witness_counts : amWf 0 State.reset.hub.corrErr = true ∧ amWf 0 State.reset.hub.coreErr = true ∧ 5 < 6 ∧ 287 < 288 := by decide +kernel
theorem witness_host_memory : ∃ pa, hubRegion pa = false ∧ inHost pa = false ∧ inMemory pa = true :=
  ⟨0xBFFFFFFFFF, by decide +kernel⟩
theorem witness_host_window : hubRegion 0x2FFFFFFFFFFF = false ∧ inHost 0x2FFFFFFFFFFF = true ∧ hubRegion 0x100003FFFFFF = true := by
  decide +kernel
theorem witness_host_unmapped : hubRegion 0xF00000000000 = false ∧ inHost 0xF00000000000 = false ∧ inMemory 0xF00000000000 = false := by
  decide +kernel
theorem witness_host_write : ∃ (s : State) (pa : Nat) (bs : List Byte), hubRegion pa = false ∧ inHost pa = false ∧ inMemory pa = true ∧
    (∀ q, q < 64 → (s.part q).loaded = none) ∧ bs ≠ [] ∧ pa % 64 + bs.length ≤ 64 :=
  ⟨State.reset, 0xBFFFFFFFFF, [1], by decide +kernel⟩
theorem witness_vf : (63 < 64) ∧ (2 ^ 46 - 1) + [(0 : Byte)].length ≤ 2 ^ 46 ∧ State.reset.partOfVf 63 = none ∧ 2 ^ 20 - 1 < 2 ^ 20 := by decide +kernel
theorem witness_block : schedState.partOfVf 0 = some 0 ∧ (8 : Nat) ≤ 8 := by decide +kernel
theorem witness_vf_read : ∃ (s t : State) (fn va p : Nat) (bs : List Byte) (x : Xlated), fn < 64 ∧ va + bs.length ≤ 2 ^ 46 ∧
    s.partOfVf fn = some p ∧ bs ≠ [] ∧ va % 64 + bs.length ≤ 64 ∧ s.accessFor p none none (BitVec.ofNat 64 va) needR .memory = .ok t x := by
  obtain ⟨t, x, h, _⟩ := of_okFor (p := toMem) (r := schedState.accessFor 0 none none 0x3F needR .memory) (by decide +kernel)
  exact ⟨schedState, t, 0, 0x3F, 0, [0], x, by decide, by decide, by decide +kernel, by decide, by decide, h⟩
theorem witness_commands_busy : ∃ (s t : State) (p : Nat), p < 64 ∧ (s.part p).cmdRun = true ∧ (t.part p).resetting ≠ none ∧
    Instr.flush p ∈ [Instr.reload p, .flush p, .reset p, .scrub p, .logstart p, .loground p, .logstop p] :=
  ⟨State.reset.onPart 63 fun p => { p with cmdRun := true }, State.reset.onPart 63 fun p => { p with resetting := some .reset }, 63, by decide +kernel⟩
/-- A partition with a block READY and no step, and one with a scrub under way. -/
theorem witness_commands : (State.reset.part 0).cmdRun = false ∧ (State.reset.part 0).resetting = none ∧ (State.reset.part 0).scrub = none ∧
    State.reset.occupied 0 = false ∧ State.reset.busyBlocks 0 = false ∧ schedState.occupied 0 = false ∧ schedState.busyBlocks 0 = true ∧
    (schedState.part 0).cmdRun = false ∧ (schedState.part 0).resetting = none ∧ slicedState.occupied 0 = true := by
  decide +kernel
theorem witness_commands_wait :
    let s := State.reset.onPart 63 fun p => { p with scrub := some { aScrub false with reason := .slice } }
    (s.part 63).cmdRun = false ∧ (s.part 63).resetting = none ∧ s.occupied 63 = false ∧ s.busyBlocks 63 = false ∧ (s.part 63).scrub ≠ none ∧
      s.reloadWaits 63 = true := by decide +kernel
/-- An entry that a RELOAD refuses with MALFORMED: its page table root is misaligned. -/
def badEntry : State := State.reset.onPart 0 fun p => { p with entry := { p.entry with state := 1, ptroot := 0x1000 } }
theorem witness_reload_refused : badEntry.reloadWaits 0 = false ∧ badEntry.reloadRefused 0 = some 4 := by decide +kernel
/-- An entry of the cores of the entry last loaded, one of which a slice has passed on. -/
def goodEntry : State := State.reset.onPart 0 fun p => { p with
  entry := { p.entry with state := 1, cores := 3 }, loaded := some { PartEntry.reset with state := 1, cores := 3 }, held := 1 }
theorem witness_reload : goodEntry.reloadWaits 0 = false ∧ goodEntry.reloadRefused 0 = none ∧ (goodEntry.part 0).entry.state.getLsbD 0 = true ∧
    (goodEntry.part 0).entry.cores = wantOf (goodEntry.part 0) ∧ (goodEntry.part 0).cmdRun = false ∧ (goodEntry.part 0).resetting = none := by
  decide +kernel
/-- The root table of partition 0 lies in the host window, where the walk enters no table: its round opens. -/
theorem witness_flush : AllApplied State.reset ∧ ¬ AllApplied (State.reset.onOrd fun o => { o with vc := vset o.vc 3 (vset clkZero 3 1) }) := by
  refine ⟨fun d j hd hj => ?_, fun h => ?_⟩
  · have : ∀ d : Nat, d < 4 → ∀ j : Nat, j < 4 → clk (State.reset.ord.dieClock d) d ≤ clk (State.reset.ord.dieClock j) d := by decide +kernel
    exact this d hd j hj
  · exact absurd (h 3 0 (by decide) (by decide)) (by decide +kernel)
theorem witness_round : ∃ t, (State.reset.onPart 0 fun p => { p with ptroot := 0x200000000000 }).openRound 0 = some t ∧ AllApplied t := by
  obtain ⟨t, h⟩ : ∃ t, (State.reset.onPart 0 fun p => { p with ptroot := 0x200000000000 }).openRound 0 = some t :=
    Option.isSome_iff_exists.mp (by decide +kernel)
  refine ⟨t, h, fun d j hd hj => ?_⟩
  have hk : (match (State.reset.onPart 0 fun p => { p with ptroot := 0x200000000000 }).openRound 0 with
      | some t => decide (∀ d : Nat, d < 4 → ∀ j : Nat, j < 4 → clk (t.ord.dieClock d) d ≤ clk (t.ord.dieClock j) d) | none => false) = true := by decide +kernel
  rw [h] at hk
  exact of_decide_eq_true hk d hd j hj
/-- A bank of guest 63. -/
def bankState : State := State.reset.setBank 3 15 { Bank.reset with holder := 1, guest := 63 }
theorem witness_banks : ∃ (s t : State) (d b fn : Nat), d < 4 ∧ b < 16 ∧ fn < 64 ∧ (s.bank d b).holder = 0 ∧ (t.bank d b).holder = 1 ∧
    (t.bank d b).guest = fn ∧ (t.bank d b).guest ≠ 0 :=
  ⟨State.reset, bankState, 3, 15, 63, by decide +kernel⟩
theorem witness_timestep : 1000000 < (1000001 : W64).toNat ∧ (1000000 : W64).toNat ≤ 1000000 ∧ State.reset.hub.holdover = false := by decide +kernel
theorem witness_registers : ∃ (s t : State) (f p : Nat), 0x38 % 8 = 0 ∧ s.partOfVf f = none ∧ t.partOfVf f = some p ∧ p < 64 :=
  ⟨State.reset, schedState, 0, 0, by decide +kernel⟩
/-- The last doorbell of a partition with 65536 queues. -/
theorem witness_doorbell_register : ∃ (s : State) (p k q : Nat), k < 65536 ∧ s.queueOf p k = some q ∧ q = 65535 :=
  ⟨State.reset.onPart 63 fun p => { p with loaded := some { PartEntry.reset with qcount := 65536 } }, 63, 65535, 65535, by decide +kernel⟩
/-- A step that ages, and one that a debugger holds at a stop. -/
theorem witness_ages (held : Bool) : ∃ (s : State) (g : Nat) (st : StepInfo), g < 288 ∧ (s.core g).step = some st ∧
    ((s.core g).dbg.stopped = true ∧ (s.core g).dbg.owned = true ↔ held = true) ∧ (s.core g).status ≠ .restarting :=
  ⟨State.reset.onCore 287 fun c => { c with status := .running, step := some bareStep, dbg := { c.dbg with stopped := held, owned := held } }, 287,
    bareStep, by cases held <;> decide +kernel⟩
/-- A die at 3.2 GHz that has been below its threshold since 0. -/
def coolState (t : W64) : State :=
  { State.reset with time := t, pkg := { State.reset.pkg with clockStep := vset State.reset.pkg.clockStep 3 1, coolSince := vset State.reset.pkg.coolSince 3 (some 0) } }
theorem witness_clock_step : vget 0 State.reset.pkg.clockStep 3 < stepForTemp 95 ∧ vget 0 (coolState 999999).pkg.clockStep 3 ≠ 0 ∧
    94 < leaveTemp (vget 0 (coolState 999999).pkg.clockStep 3) ∧ vget none (coolState 999999).pkg.coolSince 3 = some 0 ∧
    ((coolState 999999).time - 0).toNat < 1000000 ∧ 1000000 ≤ ((coolState 1000000).time - 0).toNat := by decide +kernel
theorem witness_lane : 11 < 12 ∧ 4 < 5 ∧ (vget 0 State.reset.pkg.lanes 11).getLsbD 4 = false ∧ 5 ∉ State.reset.pkg.removed := by decide +kernel
/-- A port with two failed lanes, which still works, and one with three, which is down (R406). -/
theorem witness_ports : ∃ s t : State, ((List.range 5).filter fun l => (vget 0 s.pkg.lanes 11).getLsbD l).length = 2 ∧
    ((List.range 5).filter fun l => (vget 0 t.pkg.lanes 11).getLsbD l).length = 3 :=
  ⟨{ State.reset with pkg := { State.reset.pkg with lanes := vset State.reset.pkg.lanes 11 0x11 } },
    { State.reset with pkg := { State.reset.pkg with lanes := vset State.reset.pkg.lanes 11 0x19 } }, by decide +kernel⟩
theorem witness_removal : ∃ r : Removal, r.idle = true ∧ r.module ∉ State.reset.pkg.removed := ⟨{ module := 5, idle := true, groups := [3], cleared := [(7, 9)] }, rfl, by decide +kernel⟩
/-- A member whose barrier waits for a removed module. -/
theorem witness_orphan : ∃ (s : State) (g : Nat) (st : StepInfo), (s.core g).step = some st ∧ st.orphan = true ∧ g ∈ s.barMembers g 4 :=
  ⟨mapped.onCore 0 fun c => { c with step := some { bareStep with orphan := true } }, 0, { bareStep with orphan := true }, by rfl, rfl, by decide +kernel⟩
/-- A core at a BAR of the pod, in a pod group that a removed module leaves or was cleared from after the BAR was begun. -/
def podBar (lost : List (BitVec 16)) : State :=
  { (mapped.onPart 0 fun p => { p with podgroup := 7 }).onCore 0 fun c => { c with
      reached := { c.reached with arrived := true, since := some 3, grp := some { barGroup with slots := [(.y, { gp := 0, gs := false, op := .bar 4 }, 0)] } } } with
    pkg := { State.reset.pkg with lost := lost } }
theorem witness_waits_for_module : WaitsForModule (podBar []) { module := 5, idle := true, groups := [7], cleared := [] } 0 ∧
    WaitsForModule (podBar []) { module := 5, idle := true, groups := [], cleared := [(7, 9)] } 0 ∧
    ¬ WaitsForModule (podBar []) { module := 5, idle := true, groups := [8], cleared := [] } 0 := by
  have hb : ((podBar []).core 0).barScope = some 4 ∧ ((podBar []).core 0).reached.released = false ∧
      ((podBar []).part ((podBar []).partOf 0)).podgroup = 7 ∧ ((podBar []).core 0).reached.since = some 3 := by decide +kernel
  refine ⟨⟨hb.1, hb.2.1, by rw [hb.2.2.1]; decide, Or.inl (by rw [hb.2.2.1]; decide)⟩,
    ⟨hb.1, hb.2.1, by rw [hb.2.2.1]; decide, Or.inr ⟨(7, 9), by decide, by rw [hb.2.2.1], 3, hb.2.2.2, by decide⟩⟩, ?_⟩
  rintro ⟨-, -, -, h | ⟨x, hx, -⟩⟩
  · rw [hb.2.2.1] at h; revert h; decide
  · cases hx
theorem witness_lost : ∃ (s : State) (g : Nat) (st : StepInfo), (s.core g).step = some st ∧ (s.part st.part).podgroup ∈ s.pkg.lost :=
  ⟨podBar [7], 0, bareStep, by rfl, by decide +kernel⟩
theorem witness_power : State.reset.pkg.power = .p0 ∧ (∀ g, g < 288 → (State.reset.core g).status = .free) ∧ State.reset.pkg.firmwareOk = true :=
  ⟨rfl, by decide +kernel, rfl⟩
theorem witness_power_other : ∃ s t : State, s.pkg.power = .p1 ∧ t.pkg.firmwareOk = false :=
  ⟨{ State.reset with pkg := { State.reset.pkg with power := .p1 } }, { State.reset with pkg := { State.reset.pkg with firmwareOk := false } }, rfl, rfl⟩
/-- A repair under way, by the word of REPAIR. -/
def repairState (w : W64) : State := { State.reset with hub := { State.reset.hub with repair := w, repairRun := w } }
theorem witness_bank_repair : ∃ (s : State) (g : Nat), g < 288 ∧ s.repStatus = 1 ∧ repKind s.hub.repairRun = 1 ∧ repUnit s.hub.repairRun = g ∧ (s.core g).step = none ∧
    s.underScrub g = false ∧ s.anyResetting [g] = false := ⟨repairState 0x5000047C, 287, by decide +kernel⟩
/-- Core 287 serves a partition whose image a class-B core runs as it is, and one whose image it does not run at all (R413). -/
theorem witness_bank_image (compat : Bool) : ∃ (s : State) (g p : Nat) (i : Image), g < 288 ∧ s.repStatus = 1 ∧ repKind s.hub.repairRun = 1 ∧
    repUnit s.hub.repairRun = g ∧ (s.core g).step = none ∧ s.underScrub g = false ∧ s.anyResetting [g] = false ∧ p < 64 ∧ s.partHas p g = true ∧
    (s.part p).image = some i ∧ i.classB = false ∧ i.other = none ∧ i.policyCompat = compat := by
  let i : Image := { anImage 1 with policyCompat := compat }
  refine ⟨(repairState 0x5000047C).onPart 63 fun p => { p with held := 1#320 <<< 287, image := some i }, 287, 63, i, ?_⟩
  cases compat <;> decide +kernel
theorem witness_channel_repair : ∃ (s : State) (die unit : Nat), s.repStatus = 1 ∧ repKind s.hub.repairRun = 2 ∧ repDie s.hub.repairRun = die ∧ repUnit s.hub.repairRun = unit :=
  ⟨repairState 0x600300C4, 3, 49, by decide +kernel⟩
theorem witness_quad_repair : ∃ (s : State) (die quad r : Nat), s.repStatus = 1 ∧ repKind s.hub.repairRun = 0 ∧ repDie s.hub.repairRun = die ∧ repQuad s.hub.repairRun = quad ∧ die < 4 ∧
    quad < 18 ∧ (∀ g ∈ quadCores die quad, (s.core g).step = none ∧ s.underScrub g = false) ∧
    s.anyResetting (quadCores die quad) = false ∧ s.standIn die = some r ∧ s.quadOn die quad = true :=
  ⟨repairState 0x40037800, 3, 15, 16, by decide +kernel⟩
/-- A quad repair of die 3 under way, whose stand-in quad has an uncorrectable error (R415). -/
theorem witness_stand_in : ∃ (s : State) (g q : Nat), g < 288 ∧ s.repStatus = 1 ∧ repKind s.hub.repairRun = 0 ∧
    s.standIn (repDie s.hub.repairRun) = some q ∧ g ∈ quadCores (repDie s.hub.repairRun) q :=
  ⟨repairState 0x40037800, 280, 16, by decide +kernel⟩
theorem witness_bind : (schedState.part 0).loaded ≠ none ∧ schedState.bindRefusal 0 (anImage 3) = some 6 ∧ schedState.bindRefusal 0 (anImage 2) = none ∧
    (anImage 2).handlerImage = false ∧ (anImage 2).scratch = [] ∧ (∀ pa, schedState.ord.mayArbitrate (homeDie pa) pa = true) :=
  ⟨by decide +kernel, by decide +kernel, by decide +kernel, rfl, rfl, fun pa => by
    have none_yet : schedState.ord.lclock = [] := by decide +kernel
    simp +contextual [Order.mayArbitrate, Order.lineClock, none_yet, amGet, clkGe, clk, clkZero, vget]⟩
/-- An image with a scratchpad image for logical core 1. -/
def scratchImage : Image := { anImage 2 with scratch := [(1, [5, 6])] }
theorem witness_bind_scratch : schedState.bindRefusal 0 scratchImage = none ∧ (match exec (.colmerBind 0 scratchImage) schedState with
    | .next u => decide (vget none (u.part 0).bound 1 = some 1) | _ => false) = true ∧ (schedState.core 1).step = none := by decide +kernel

/-! ### Encodings, the step and the memory (O53 to O60) -/

theorem witness_wf : ∃ (i j : Instr) (k : SlotKind), i.wf = true ∧ i.kind = some k ∧ j.wf = true ∧ j.kind = none :=
  ⟨.vxc 15 7 (.latch 7) (.reg 31) 7, .parentClockLoss, .v0, by decide +kernel⟩
theorem witness_turns : ∃ (s t : State) (g : Nat) (i : Instr), g < 288 ∧ s.clocked g = true ∧ (s.core g).ahead < 1008 ∧ s.hub.ready = true ∧ t.hub.ready = true ∧ s.agenda = .core g :: [] ∧ t.agenda = .act i :: [] ∧ i.kind = none ∧
    (exec i { t with agenda := [], tick := t.tick + 1 } = .refused (.notEnabled "READ")) :=
  ⟨{ State.reset with agenda := [.core 287] }, { State.reset with agenda := [.act (.read 0 false)] }, 287, .read 0 false, by decide,
    by decide +kernel, by decide +kernel, rfl, rfl, rfl, rfl, by decide, by rfl⟩
/-- A core whose cycles are a ns ahead of the time counter, and one whose die's clock is stopped. -/
theorem witness_turns_idle : ∃ s t : State, s.hub.ready = true ∧ s.agenda = .core 287 :: [] ∧ 1008 ≤ (s.core 287).ahead ∧
    t.hub.ready = true ∧ t.agenda = .core 287 :: [] ∧ t.clocked 287 = false :=
  ⟨{ State.reset.onCore 287 fun c => { c with ahead := 1008 } with agenda := [.core 287] },
    { State.reset with agenda := [.core 287], pkg := { State.reset.pkg with clockStep := vset State.reset.pkg.clockStep 3 4 } },
    rfl, rfl, by decide +kernel, rfl, rfl, by decide +kernel⟩
/-- The hub with READY clear (R417). -/
theorem witness_not_ready : ∃ s : State, s.hub.ready = false ∧ s.agenda = .core 287 :: [] :=
  ⟨{ State.reset with agenda := [.core 287], hub := { State.reset.hub with ready := false } }, rfl, rfl⟩
theorem witness_event : ∃ t : State, exec .parentClockLoss { State.reset with agenda := [], tick := 1 } = .next t := ⟨_, rfl⟩
/-- The header of the bundle at 0 (R50). -/
theorem witness_bundle : ∃ (h : W32) (bs : List Byte), addiState.fetchWord 0 0 = .ok h ∧ (headerOf h).stop = true ∧
    addiState.fetchWords 0 (bundleBytes (maskKinds (headerOf h).mask).length / 4) 0 = .ok bs := by
  obtain ⟨bs, hb⟩ := of_made (r := addiState.fetchWords 0 (bundleBytes (maskKinds (headerOf 0x00001001).mask).length / 4) 0) (by decide +kernel)
  exact ⟨0x00001001, bs, by rfl, by decide +kernel, hb⟩
/-- The group of that bundle. -/
def addiGroup : Group :=
  { addr := 0, len := 12, comma := false, window := false, e := 0, slots := [(.s, { gp := 0, gs := false, op := .addi (.reg 5) (.reg 0) 7 }, 0)], bad := none }
/-- A core that has reached it. -/
def reachedState : State := addiState.onCore 0 fun c => { c with reached := { c.reached with grp := some addiGroup } }
theorem witness_run : (addiState.core 0).dbg.stopped = false ∧ (addiState.core 0).flow.empty = 0 ∧ (addiState.core 0).dbg.hit = none ∧
    (addiState.core 0).status = .running ∧ addiState.stopNow 0 = none ∧ (addiState.core 0).reached.grp = none ∧
    (reachedState.core 0).reached.grp = some addiGroup ∧ addiState.boundCode 0 (addiState.core 0).pcVa 12 = true :=
  ⟨by decide +kernel, by decide +kernel, by decide +kernel, by decide +kernel, by rfl, by decide +kernel, by decide +kernel, by decide +kernel⟩
theorem witness_may_issue : MayIssue reachedState 0 addiGroup := by
  have hy : yOf ((reachedState.core 0).live addiGroup) = none := by decide +kernel
  exact { arrived := by decide +kernel, broke := by decide +kernel, running := by decide +kernel, going := by decide +kernel, reached := by decide +kernel
          plain := by decide +kernel, timely := by decide +kernel, free := by decide +kernel
          waits := fun i h => by rw [hy] at h; cases h
          sound := by decide +kernel }
theorem witness_slot : ∃ (s t : State) (x : Group) (k : SlotKind) (y : Slot) (a : Addr), x.slots = [(k, y, a)] ∧ s.cc.guardOk y.gp y.gs = true ∧ k ≠ .y ∧
    exec y.op (atSlot (groupNoted s s.cur x k y.op a) x k a) = .next t :=
  ⟨reachedState, _, addiGroup, .s, { gp := 0, gs := false, op := .addi (.reg 5) (.reg 0) 7 }, 0, rfl, by decide +kernel, by decide, by rfl⟩
/-- A group of one Y-slot instruction. -/
def yGroup (i : Instr) : Group := { addiGroup with slots := [(.y, { gp := 0, gs := false, op := i }, 0)] }
theorem witness_slot_y : ∃ (s t : State) (i : Instr), yFirst i = true ∧
    exec i (atSlot (groupNoted s s.cur (yGroup i) .y i 0) (yGroup i) .y 0) = .next t := ⟨reachedState, _, .wait 0, by decide, by rfl⟩
theorem witness_slot_y_after : ∃ (s t : State) (i : Instr), yFirst i = false ∧
    exec i (atSlot ((groupNoted s s.cur (yGroup i) .y i 0).countGroup 0 (yGroup i) [] 0) (yGroup i) .y 0) = .next t :=
  ⟨reachedState, _, .br 4, by decide, by rfl⟩
theorem witness_agenda : State.reset.agenda = [] := rfl
theorem witness_canonical : CanonicalMemory State.reset := by
  have first : (∀ d : Nat, d < 4 → amWf 0 (State.reset.ord.view d) = true ∧ amWf Order.keyZero (State.reset.ord.viewKeys d) = true) ∧
      (∀ g : Nat, g < 288 → amWf 0 (State.reset.core g).files.spad = true) ∧ ∀ p : Nat, p < 64 → amWf 0 (State.reset.part p).code = true := by decide +kernel
  exact ⟨first.1, rfl, rfl, first.2.1, first.2.2, rfl, fun q => by rfl, by decide +kernel⟩
theorem witness_canonical_step : ∃ s t : State, CanonicalMemory s ∧ step s = .next t :=
  ⟨{ State.reset with agenda := [.elapse 5] }, _, witness_canonical, rfl⟩
/-- A fused multiply-add into s0, into another register and into a latch: the three forms of a destination (R102). -/
theorem witness_register_zero : scalarField (.fma .f32 .rne (.reg 0) (.reg 1) (.reg 2)) = some (.reg 0) ∧
    scalarField (.fma .f32 .rne (.reg 63) (.reg 1) (.reg 2)) = some (.reg 63) ∧ scalarField (.dval (.latch 7) 0 1) = some (.latch 7) ∧
    chk0.cc.flow.checked = true := ⟨rfl, rfl, rfl, by decide +kernel⟩
theorem witness_division : ∃ (s : State) (a b : SSrc), s.cc.flow.checked = true ∧ s.cc.src a = BitVec.ofInt 64 (-2 ^ 63) ∧ s.cc.src b = -1 ∧
    s.cc.src (.reg 0) = 0 :=
  ⟨chk fun c => (c.setSreg 1 0x8000000000000000).setSreg 2 0xFFFFFFFFFFFFFFFF, .reg 1, .reg 2, by decide +kernel⟩

/-! ## Words that the manual prints, slot by slot

Each is copied from a table of the chapters "Bundles", "The matrix unit", "Axis units", "Domains", "Traps", "Ordering and operations",
"Queues" and of the worked programs, with the fields given there. -/

theorem test_printed_s_words : decodes .s
  [(0x0080600001, .addi (.reg 6) (.reg 0) 1), (0x012100A037, .cmpeqi 2 (.reg 5) 55), (0x010900A1C0, .cmplt 2 (.reg 5) (.reg 7)),
   (0x0180A93000, .rdcnt (.reg 42) (.reg 41)), (0x004090E180, .mul (.reg 9) (.reg 7) (.reg 6)), (0x0004B16240, .add (.reg 11) (.reg 11) (.reg 9)),
   (0x002CA14240, .max (.reg 10) (.reg 10) (.reg 9))] = true := by decide +kernel
theorem test_printed_d_words : decodes .d
  [(0x0028310001, .dlt 3 4 1), (0x00843001F4, .dseti 3 0 500), (0x00A0906005, .dlab (.reg 9) 3 5), (0x00C4000000, .dclr),
   (0x0004004201, .dadd 0 1 2 1), (0x0050000029, .dgti 0 5 1), (0x0048200041, .dlti 2 8 1), (0x00CC000018, .dopen 24),
   (0x004010000A, .deqi 1 1 2)] = true := by decide +kernel
theorem test_printed_a_words : decodes .a
  [(0x000CC00001, .adot (.reg 12) 0 1), (0x0018370000, .ascli 3 0x70000), (0x0004302000, .afromv 3 1), (0x0010200180, .adotm 2 0 0 (.reg 3)),
   (0x0024000001, .aadd 0 0 1), (0x0018010000, .ascli 0 0x10000), (0x001C500000, .amag (.reg 5) 0)] = true := by decide +kernel
theorem test_printed_m_words : decodes .m
  [(0x00040C8409, .mma .bf16 3 0 (.ma 0) (.ma 1) 1), (0x0080004001, .mret 0 0 (.tile 8) false 1), (0x0060000044, .msca 0 0 false 8 4)] = true := by
  decide +kernel
theorem test_printed_l_words : decodes .l
  [(0x0060211100, .ald 2 (.reg 40) 0x100), (0x0014706FF8, .lds .i32 (.reg 7) (.reg 3) 0xFF8), (0x00403F1002, .ldv 15 (.reg 3) (.reg 4) 2),
   (0x0080162E01, .tld 0 (.reg 22) (.reg 23) 1), (0x0014504040, .lds .i32 (.reg 5) (.reg 2) 0x40)] = true := by decide +kernel
theorem test_printed_w_words : decodes .w
  [(0x001050C010, .sts .i64 (.reg 5) (.reg 6) 0x10), (0x0104928301, .arrive (.reg 9) (.reg 20) 3 1), (0x00C1714002, .amoadd (.reg 23) (.reg 10) (.reg 0) 2),
   (0x000C9040BC, .sts .i32 (.reg 9) (.reg 2) 0xBC)] = true := by decide +kernel
theorem test_printed_x_words : decodes .x
  [(0x0004C1A122, .xtld true 4 (.reg 12) (.reg 13) 2), (0x000D42A583, .xcpy (.reg 20) (.reg 21) (.reg 22) 3), (0x0021E11001, .pput (.reg 30) (.reg 40) (.reg 0) 1),
   (0x0040412000, .xset 1 (.reg 9)), (0x0044000005, .xgo 5), (0x0024E38742, .pget (.reg 14) (.reg 28) (.reg 29) 2)] = true := by decide +kernel
theorem test_printed_y_words : decodes .y
  [(0x002010000A, .loop 1 10), (0x0040000003, .wait 3), (0x0088000000, .trapack), (0x008C000000, .tret), (0x004902000E, .waitbit 2 (.reg 16) (.reg 0) 14),
   (0x0020B00010, .loop 11 16)] = true := by decide +kernel
/-- An illegal field is rejected by the number of the lowest offending one: a pair of 0, and an undefined opcode (R60, R63). -/
theorem test_illegal_words : decodeSlot .s 0x0108006220 ≠ decodeSlot .s 0x0109006220 ∧
    (∀ o, decodeSlot .s 0x0108006220 ≠ .ok o) ∧ (∀ o, decodeSlot .y 0x07FC000000 ≠ .ok o) := by
  refine ⟨by decide +kernel, fun o h => ?_, fun o h => ?_⟩ <;> cases h

/-! ## Single instructions and events, one step each -/

/-- What an instruction puts in flight at a checked state: the cycle it lands, its writes and its flags. -/
def flown (i : Instr) (f : CoreSt → CoreSt) : Option (Nat × List Write × Flg) :=
  match exec i (chk f) with
  | .next t => t.cc.flow.flight.getLast?.map fun x => (x.due, x.writes, x.flags)
  | _ => none
/-- Two scalar registers. -/
def two2 (x y : W64) (c : CoreSt) : CoreSt := (c.setSreg 1 x).setSreg 2 y

theorem test_add_wraps : flown (.add (.reg 3) (.reg 1) (.reg 2)) (two2 0xFFFFFFFFFFFFFFFF 2) = some (1, [.sreg 3 1], 0) := by decide +kernel
theorem test_adds_saturates : flown (.adds (.reg 3) (.reg 1) (.reg 2)) (two2 0x7FFFFFFFFFFFFFFF 1) = some (1, [.sreg 3 0x7FFFFFFFFFFFFFFF], .sat) := by
  decide +kernel
theorem test_sub_order : flown (.sub (.reg 3) (.reg 1) (.reg 2)) (two2 5 7) = some (1, [.sreg 3 0xFFFFFFFFFFFFFFFE], 0) := by decide +kernel
theorem test_andn : flown (.andn (.reg 3) (.reg 1) (.reg 2)) (two2 0xFF 0x0F) = some (1, [.sreg 3 0xF0], 0) := by decide +kernel
theorem test_sar_count_six_bits : flown (.sar (.reg 3) (.reg 1) (.reg 2)) (two2 0x8000000000000000 65) = some (1, [.sreg 3 0xC000000000000000], 0) := by
  decide +kernel
theorem test_mulh_signed : flown (.mulh (.reg 3) (.reg 1) (.reg 2)) (two2 0xFFFFFFFFFFFFFFFF 2) = some (3, [.sreg 3 0xFFFFFFFFFFFFFFFF], 0) := by
  decide +kernel
theorem test_mulhu : flown (.mulhu (.reg 3) (.reg 1) (.reg 2)) (two2 0xFFFFFFFFFFFFFFFF 2) = some (3, [.sreg 3 1], 0) := by decide +kernel
theorem test_div_truncates : flown (.div (.reg 3) (.reg 1) (.reg 2)) (two2 0xFFFFFFFFFFFFFFF9 2) = some (18, [.sreg 3 0xFFFFFFFFFFFFFFFD], 0) := by
  decide +kernel
theorem test_rem_sign_of_dividend : flown (.rem (.reg 3) (.reg 1) (.reg 2)) (two2 0xFFFFFFFFFFFFFFF9 2) = some (18, [.sreg 3 0xFFFFFFFFFFFFFFFF], 0) := by
  decide +kernel
theorem test_divu_by_zero : flown (.divu (.reg 3) (.reg 1) (.reg 2)) (two2 9 0) = some (18, [.sreg 3 0xFFFFFFFFFFFFFFFF], .divz) := by decide +kernel
theorem test_addi_sign : flown (.addi (.reg 3) (.reg 1) 0xFFF) (two2 5 0) = some (1, [.sreg 3 4], 0) := by decide +kernel
theorem test_movq_keeps : flown (.movq (.reg 1) 2 true 0xABCD) (two2 0x1111222233334444 0) = some (1, [.sreg 1 0x1111ABCD33334444], 0) := by decide +kernel
theorem test_movq_sign : flown (.movq (.reg 1) 1 false 0x8000) id = some (1, [.sreg 1 0xFFFFFFFF80000000], 0) := by decide +kernel
theorem test_latch_lost : flown (.add (.reg 3) (.latch 2) (.reg 1)) (two2 5 0) = some (1, [.sreg 3 5], .latch) := by decide +kernel
theorem test_cmplt_signed : flown (.cmplt 2 (.reg 1) (.reg 2)) (two2 0xFFFFFFFFFFFFFFFF 0) = some (2, [.pair 2 true], 0) := by decide +kernel
theorem test_cmpltu : flown (.cmpltu 2 (.reg 1) (.reg 2)) (two2 0xFFFFFFFFFFFFFFFF 0) = some (2, [.pair 2 false], 0) := by decide +kernel
theorem test_movps : flown (.movps (.reg 3)) (fun c => c.setPair 2 true) = some (1, [.sreg 3 0x11], 0) := by decide +kernel
theorem test_fadd_f64 : flown (.fadd .f64 .rne (.reg 3) (.reg 1) (.reg 2)) (two2 0x3FF0000000000000 0x4000000000000000) =
    some (3, [.sreg 3 0x4008000000000000], 0) := by decide +kernel
theorem test_fmul_f32_invalid : flown (.fmul .f32 .rne (.reg 3) (.reg 1) (.reg 2)) (two2 0x7F800000 0) = some (3, [.sreg 3 0x7FC00000], .invalid) := by
  decide +kernel
theorem test_fma_rounds_once : flown (.fma .f32 .rne (.reg 3) (.reg 1) (.reg 2)) (fun c => (two2 0x3F800001 0x3F800001 c).setSreg 3 0xBF800002) =
    some (4, [.sreg 3 0x28800000], 0) := by decide +kernel
theorem test_cvt_to_integer_beyond_range : flown (.cvtI64F64 .rz (.reg 3) (.reg 1)) (two2 0x43E0000000000000 0) =
    some (3, [.sreg 3 0x7FFFFFFFFFFFFFFF], .invalid) := by decide +kernel
theorem test_cvt_nan : flown (.cvtI64F32 .rz (.reg 3) (.reg 1)) (two2 0x7FC00000 0) = some (3, [.sreg 3 0], .invalid) := by decide +kernel
/-- "VEXP2 of 128.0 overflows to +∞" and the two VRCP examples of chapter "Vector units" (R147). -/
theorem test_function_examples : FP.vexp2 0 0x43000000 = (0x7F800000, .ovf ||| .inexact) ∧ FP.vrcp 0x00000001 = (0x7F800000, .ovf ||| .inexact) ∧
    (FP.vrcp 0x7F400000).2 = .unf ||| .inexact ∧ FP.vexp2 0 0x40400000 = (0x41000000, 0) ∧ FP.vlog2 0 0x41000000 = (0x40400000, 0) := by decide +kernel
theorem test_vadds_halves : flown (.vadds .i16 0 0 (.reg 4) (.reg 5) (.reg 6)) (fun c => (c.setVreg 0 5 0x00017FFF (.allOnes 512)).setVreg 0 6 0x00010001 (.allOnes 512)) =
    some (2, [.vreg 0 4 0x00027FFF (.allOnes 512)], .sat) := by decide +kernel
theorem test_vadd_masked_lane : flown (.vadd .i32 0 3 (.reg 4) (.reg 5) (.reg 5)) (fun c => (c.setVreg 0 5 0x0000000300000002 (.allOnes 512)).setK 0 3 2) =
    some (2, [.vreg 0 4 0x0000000600000000 0xFFFFFFFF00000000], 0) := by decide +kernel
theorem test_vcmpeq_disabled_lane : flown (.vcmpeq 0 3 1 (.reg 4) (.reg 4)) (fun c => c.setK 0 3 0x8001) = some (2, [.kreg 0 1 0x8001], 0) := by decide +kernel
/-- Lane 0 of cluster 0 holds 3.0 and lane 1 holds 4.0. -/
def threeFour (c : CoreSt) : CoreSt := c.setVreg 0 1 0x4080000040400000 (.allOnes 512)
/-- The example under R183: AFROMV of (3, 4, 0, …) gives N = 152,170, u0 = 9,830 and u1 = 13,107, the others 0. -/
theorem test_afromv_example : flown (.afromv 3 1) threeFour = some (8, [.axis 3 (9830 ||| (13107 <<< 16)) 152170], 0) := by decide +kernel
/-- The example of chapter "Axis units": AADD of that register to itself gives N = 217,704 with the same components. -/
theorem test_aadd_example : flown (.aadd 2 0 0) (fun c => (c.setAxis 0 (9830 ||| (13107 <<< 16))).setNorm 0 152170) =
    some (8, [.axis 2 (9830 ||| (13107 <<< 16)) 217704], 0) := by decide +kernel
/-- A row of R315: ASCL of 65,536 on that norm gives 217,706 at +1. -/
theorem test_ascl_example : flown (.ascli 0 0x10000) (fun c => c.setNorm 0 152170) = some (1, [.norm 0 217706], 0) := by decide +kernel
theorem test_ascl_saturates : flown (.ascl 0 (.reg 1)) (fun c => (c.setSreg 1 0x7FFFFFFFFFFFFFFF).setNorm 0 1) = some (1, [.norm 0 0x7FFFFFFF], .sat) := by
  decide +kernel
theorem test_adot_orthogonal : flown (.adot (.reg 7) 0 1) (fun c => (((c.setAxis 0 (9830 ||| (13107 <<< 16))).setNorm 0 152170).setAxis 1
    (0xCCCD ||| (9830 <<< 16))).setNorm 1 152170) = some (5, [.sreg 7 0], 0) := by decide +kernel
theorem test_lds_misaligned : (match exec (.lds .i32 (.reg 1) (.reg 0) 2) (onC fun c => { c with
      ctrl := { c.ctrl with tvec := 0x1000 }, flow := { c.flow with slotIdx := 8 } }) with
    | .next t => (vget 0 t.cc.ctrl.trec 0 >>> 56, vget 0 t.cc.ctrl.trec 1, vget 0 t.cc.ctrl.trec 4, t.cc.pc, t.cc.ctrl.handler)
    | _ => (0, 0, 0, 0, false)) = (0x06, 0x400000000, 2, 0x1000, true) := by decide +kernel
theorem test_sts_bytes : flown (.sts .i32 (.reg 1) (.reg 2) 0xFFC) (two2 0x1122334455667788 0x104) = some (1, [.spad 0x100 [0x88, 0x77, 0x66, 0x55]], 0) := by
  decide +kernel
theorem test_landing_order : ((aStore 0x40 [1, 2]).writes.foldl (fun c w => (CoreSt.applyWrite c w).1) CoreSt.reset).files.spad = [(0x40, 1), (0x41, 2)] := by
  decide +kernel
theorem test_br_target : (match exec (.br 0xFFFFFF) (chk fun c => { c with flow := { c.flow with groupA := 0x100 } }) with
    | .next t => decide (t.cc.next = some 0xFC) | _ => false) = true := by decide +kernel
theorem test_call_links : flown (.call 4) (fun c => { c with flow := { c.flow with groupA := 0x100, groupEnd := 0x10C } }) =
    some (1, [.sreg 63 0x10C], 0) := by decide +kernel
theorem test_crwr_budget : CoreSt.clampBudget 0 = 1 ∧ CoreSt.clampBudget 8191 = 4096 ∧ CoreSt.clampBudget 0x2005 = 5 := by decide +kernel
/-- The walk worked through in chapter "Memories": the page at PA 0x20_5000 has its home on die 3. -/
theorem test_walk_example : tierDie 0x205000 = 3 ∧ ptePA 0x0000000000205117 = 0x205000 ∧ ptePlace 0x0000000000205117 = 0 := by decide +kernel
/-- The example under R38: step 4 of the block of 2 × 3 tiles has s2 = 64 and s3 = 64, step 2 has 0 and 128. -/
def sixSteps : List Byte :=
  List.replicate 0x10 0 ++ [2, 0] ++ List.replicate 6 0 ++ [128, 0, 0, 0, 160, 0, 0, 0] ++ List.replicate 16 0 ++ [64, 0, 64, 0] ++ List.replicate 0xCC 0
theorem test_six_steps : (vget 0 (blkCoords sixSteps 4) 0, vget 0 (blkCoords sixSteps 4) 1, vget 0 (blkCoords sixSteps 2) 0, vget 0 (blkCoords sixSteps 2) 1) =
    (64, 64, 0, 128) := by decide +kernel
theorem test_sticky_first : stickyRaise 0 0x44 .sat = 0x1000000000000011 ∧ stickyRaise 0x1000000000000011 0x88 .divz = 0x1100000000000011 := by decide +kernel
theorem test_addi_from_memory : (match step addiState with
    | .next t => t.cc.flow.flight.map fun f => (f.writes, f.bundle) | _ => []) = [([.sreg 5 7], 0)] := by decide +kernel
theorem test_addi_advances : (match step addiState with | .next t => decide (t.cc.pc = 12 ∧ t.agenda = []) | _ => false) = true := by decide +kernel
theorem test_no_such_core : step { State.reset with agenda := [.core 288] } = .fault (.noSuchCore 288) := by rfl
theorem test_event_not_enabled : ∃ t, step { State.reset with agenda := [.act (.arbitrate 0)] } = .next t := ⟨_, rfl⟩

end Sys2Proof.Tests
end

section
/-! One turn of the device down to the issue of one instruction: turns and events, the fetch of a group, the group that a core reaches,
its holds, and the issue of its slot. -/

namespace Sys2Proof.Proofs

open Sys2Proof.Machine Sys2Proof.Claims

/-! ## Turns (R31, R293, R416) -/

/-- The state with its next turn taken off the agenda. -/
def turnTaken (s : State) (ts : List Turn) : State := { s with agenda := ts, tick := s.tick + 1 }

theorem step_of_agenda {s : State} {t : Turn} {ts : List Turn} (agenda : s.agenda = t :: ts) : step s = (turnTaken s ts).turn t := by
  simp only [step, State.nextTurn, agenda]
  rfl

theorem turn_core_of_ready {s : State} {g : Nat} (known : g < 288) (ready : s.hub.ready = true) :
    s.turn (.core g) = .next (s.coreTurn ⟨g, known⟩).settle := by
  simp [State.turn, known, ready]

theorem coreTurn_of_clocked {s : State} {g : Fin 288} (clocked : s.clocked g = true) (due : (s.core g).ahead < 1008) :
    s.coreTurn g = (s.coreCycle g).onCore g fun c => { c with ahead := c.ahead + cycleTime (s.clockOf (Config.dieOf g)) } := by
  rw [State.coreTurn, if_neg (by simpa [clocked] using due)]

theorem coreTurn_of_not_due {s : State} {g : Fin 288} (idle : s.clocked g = false ∨ 1008 ≤ (s.core g).ahead) :
    s.coreTurn g = s := by
  rw [State.coreTurn, if_pos (by simpa using idle)]

section Events

variable {s : State} {i : Instr} (ready : s.hub.ready = true) (event : i.kind = none)
include ready event

theorem turn_act_of_next {t : State} (happens : exec i s = .next t) : s.turn (.act i) = .next t.settle := by
  simp [State.turn, ready, event, happens]

theorem turn_act_of_refused {r : Refusal} (refused : exec i s = .refused r) : s.turn (.act i) = .next s := by
  simp [State.turn, ready, event, refused]

end Events

/-! ## The bytes of a word (R79) -/

/-- The low digits of a number, put together again. -/
theorem packNat_digits (w n x : Nat) :
    packNat w ((List.range n).map fun i => x / 2 ^ (w * i) % 2 ^ w) = x % 2 ^ (w * n) := by
  induction n generalizing x with
  | zero => simp [packNat, Nat.mod_one]
  | succ n ih =>
    have upper (i : Nat) : x / 2 ^ (w * (i + 1)) = x / 2 ^ w / 2 ^ (w * i) := by
      rw [Nat.div_div_eq_div_mul, ← pow_add, Nat.mul_succ, Nat.add_comm]
    rw [List.range_succ_eq_map, List.map_cons, List.map_map, packNat]
    simp only [Function.comp_def, Nat.succ_eq_add_one, upper, ih]
    rw [Nat.mul_succ, Nat.add_comm (w * n), pow_add, Nat.mod_mul]
    simp

theorem ofBytes_bytesOf {n : Nat} (x : BitVec (8 * n)) : ofBytes (8 * n) (bytesOf n x) = x := by
  have digits : (bytesOf n x).map BitVec.toNat = (List.range n).map fun i => x.toNat / 2 ^ (8 * i) % 2 ^ 8 := by
    simp [bytesOf, elem, Nat.shiftRight_eq_div_pow]
  apply BitVec.eq_of_toNat_eq
  rw [ofBytes, packElems, digits, packNat_digits, BitVec.toNat_ofNat, Nat.mod_mod, Nat.mod_eq_of_lt x.isLt]

/-! ## The fetch of a group (R50 to R53) -/

theorem header_of_fetchWords {s : State} {g n : Nat} {va : W64} {h : W32} {bs : List Byte}
    (first : s.fetchWord g va = .ok h) (bytes : s.fetchWords g (n + 1) va = .ok bs) : (decodeBundle bs).header = headerOf h := by
  rw [State.fetchWords, first] at bytes
  cases rest : s.fetchWords g n (va + 4) with
  | error e => rw [rest] at bytes; cases bytes
  | ok tail =>
    rw [rest] at bytes
    cases bytes
    have head : (bytesOf 4 h ++ tail).take 4 = bytesOf 4 h := List.take_left' (by simp [bytesOf])
    show headerOf (ofBytes 32 ((bytesOf 4 h ++ tail).take 4)) = headerOf h
    rw [head, ofBytes_bytesOf (n := 4) h]

theorem fetchBundle_of_words {s : State} {g : Nat} {va : W64} {h : W32} {bs : List Byte} (first : s.fetchWord g va = .ok h)
    (bytes : s.fetchWords g (bundleBytes (maskKinds (headerOf h).mask).length / 4) va = .ok bs) :
    s.fetchBundle g va = .ok (decodeBundle bs) := by
  simp [State.fetchBundle, first, bytes]

theorem fetchGroup_of_stop {s : State} {g : Nat} {va : W64} {b : Bundle} (fetched : s.fetchBundle g va = .ok b)
    (last : b.header.stop = true) : s.fetchGroup g va = .ok (groupOf (va.setWidth 60) [(va.setWidth 60, b)]) := by
  simp [State.fetchGroup, State.fetchBundles, fetched, last]

/-- A bundle has its header word, so that the first word fetched is the header that its bytes decode to. -/
theorem header_of_bundle {s : State} {g : Nat} {va : W64} {h : W32} {bs : List Byte} (first : s.fetchWord g va = .ok h)
    (bytes : s.fetchWords g (bundleBytes (maskKinds (headerOf h).mask).length / 4) va = .ok bs) :
    (decodeBundle bs).header = headerOf h := by
  obtain ⟨n, words⟩ : ∃ n, bundleBytes (maskKinds (headerOf h).mask).length / 4 = n + 1 :=
    Nat.exists_eq_add_one.mpr (by unfold bundleBytes; omega)
  exact header_of_fetchWords first (words ▸ bytes)

theorem fetchGroup_of_words {s : State} {g : Nat} {va : W64} {h : W32} {bs : List Byte} (first : s.fetchWord g va = .ok h)
    (stop : (headerOf h).stop = true)
    (bytes : s.fetchWords g (bundleBytes (maskKinds (headerOf h).mask).length / 4) va = .ok bs) :
    s.fetchGroup g va = .ok (groupOf (va.setWidth 60) [(va.setWidth 60, decodeBundle bs)]) :=
  fetchGroup_of_stop (fetchBundle_of_words first bytes) (header_of_bundle first bytes ▸ stop)

/-! ## The group that a core reaches (R53, R123) -/

/-- What a fetch within bound code leaves: the group is reached, and the loop levels have looked for their groups. -/
theorem fetchNow_of_memory {s u : State} {g : Nat} {x : Group} (going : (s.core g).reached.stuck = false)
    (outside : (s.core g).buffered (s.core g).pc = none) (fetched : s.fetchGroup g (s.core g).pcVa = .ok x)
    (bound : s.boundCode g (s.core g).pcVa x.len = true) (touched : s.touchPages g 4 (s.core g).pcVa x.len = some u) :
    s.fetchNow g = some ((u.findBodies g x.addr).onCore g fun c => c.reach x ((x.len - 1) / 64) u.time) := by
  simp [State.fetchNow, going, outside, fetched, bound, touched]

theorem fetchNow_of_buffered {s : State} {g : Nat} {x : Group} (going : (s.core g).reached.stuck = false)
    (low : (s.core g).pcHigh = 0) (buffered : (s.core g).buffered (s.core g).pc = some x) :
    s.fetchNow g = some ((s.findBodies g x.addr).onCore g fun c => c.reach x 0 s.time) := by
  simp [State.fetchNow, going, low, buffered]

section Runs

variable {s : State} {g : Nat} (going : (s.core g).dbg.stopped = false) (paid : (s.core g).flow.empty = 0)
  (clear : (s.core g).dbg.hit = none) (running : (s.core g).status = .running) (unstopped : s.stopNow g = none)
include going paid clear running unstopped

theorem runCycle_of_reached {x : Group} (reached : (s.core g).reached.grp = some x) : s.runCycle g = s.groupCycle g x := by
  simp [State.runCycle, going, paid, clear, running, unstopped, reached]

theorem runCycle_of_fetchNow {t : State} {x : Group} {stalls : Nat} {now : W64} (known : g < 288)
    (unreached : (s.core g).reached.grp = none) (fetched : s.fetchNow g = some (t.onCore g fun c => c.reach x stalls now)) :
    s.runCycle g = (t.onCore g fun c => c.reach x stalls now).groupCycle g x := by
  have reached : ((t.onCore g fun c => c.reach x stalls now).core g).reached.grp = some x := by
    rw [State.onCore_core_same t g _ known, CoreSt.reach]
  simp [State.runCycle, going, paid, clear, running, unstopped, unreached, fetched, reached]

end Runs

/-! ## A group that nothing holds or faults (R44, R61, R233) -/

/-- The core with no window drain begun. -/
def undrained (c : CoreSt) : CoreSt := { c with reached := { c.reached with drain := none } }

theorem waitHolds_undrained {g : Nat} (known : g < 288) (s : State) (i : Instr) :
    (s.onCore g undrained).waitHolds g i = s.waitHolds g i := by
  have core := State.onCore_core_same s g undrained known
  have part : (s.onCore g undrained).partOf g = s.partOf g := by simp only [State.partOf, core]; rfl
  have fence (sc : BitVec 3) : (s.onCore g undrained).fenceReached g sc = s.fenceReached g sc := by
    simp only [State.fenceReached, State.fenceApplied, State.fenceObserved, core]; rfl
  simp only [State.waitHolds, core, part, fence]
  rfl

/-- What lets a group issue does not depend on a window drain. -/
theorem mayIssue_undrained {s : State} {g : Nat} {x : Group} (known : g < 288) (may : MayIssue s g x) :
    MayIssue (s.onCore g undrained) g x := by
  have core := State.onCore_core_same s g undrained known
  exact
    { arrived := by rw [core]; exact may.arrived
      broke := by rw [core]; exact may.broke
      running := by rw [core]; exact may.running
      going := by rw [core]; exact may.going
      reached := by rw [core]; exact may.reached
      plain := may.plain
      timely := by rw [← may.timely]; simp only [State.timedOut, core]; rfl
      free := by rw [core]; exact may.free
      waits := fun i y => by rw [waitHolds_undrained known, core]; rw [core] at y; exact may.waits i y
      sound := by rw [core]; exact may.sound }

theorem goGroup_of_mayIssue {s : State} {g : Nat} {x : Group} (may : MayIssue s g x) : s.goGroup g x = s.issueGroup g x := by
  have unreported : ((yOf ((s.core g).live x)).bind fun i => (s.core g).reported x.addr i) = none :=
    Option.bind_eq_none_iff.mpr fun i y => (may.waits i y).2
  simp [State.goGroup, unreported, may.sound]

theorem holdGroup_of_mayIssue {s : State} {g : Nat} {x : Group} (may : MayIssue s g x) : s.holdGroup g x = s.issueGroup g x := by
  obtain ⟨compat, bank, shadow⟩ := may.free
  have unshadowed : (((s.core g).live x).any (fun y => y.1 == .m) && (s.core g).shadowFull) = false := by
    simpa only [Bool.and_eq_false_imp] using shadow
  rw [← goGroup_of_mayIssue may]
  cases y : yOf ((s.core g).live x) with
  | none => simp [State.holdGroup, may.timely, y, compat, bank, unshadowed]
  | some i => simp [State.holdGroup, may.timely, y, (may.waits i y).1, compat, bank, unshadowed]

theorem serveGroup_of_mayIssue {s : State} {g : Nat} {x : Group} (known : g < 288) (may : MayIssue s g x) :
    s.serveGroup g x = (s.onCore g undrained).issueGroup g x := by
  obtain ⟨comma, window, legal⟩ := may.plain
  rw [← holdGroup_of_mayIssue (mayIssue_undrained known may)]
  simp only [State.serveGroup, comma, Bool.false_and, Bool.false_eq_true, ↓reduceIte, legal, window]
  rfl

theorem breakpoints_of_broke {s : State} {g : Nat} (broke : (s.core g).reached.broke = true) : s.breakpoints g = s := by
  unfold State.breakpoints
  cases (s.core g).atGroup with
  | none => rfl
  | some x => simp [broke]

theorem groupCycle_of_mayIssue {s : State} {g : Nat} {x : Group} (known : g < 288) (may : MayIssue s g x) :
    s.groupCycle g x = (s.onCore g undrained).issueGroup g x := by
  rw [← serveGroup_of_mayIssue known may]
  simp [State.groupCycle, may.arrived, breakpoints_of_broke may.broke, may.running, may.going, may.reached]

/-! ## The issue of a group with one live slot (R52, R61, R131) -/

theorem live_of_guardOk {c : CoreSt} {x : Group} {k : SlotKind} {y : Slot} {a : Addr} (slots : x.slots = [(k, y, a)])
    (guard : c.guardOk y.gp y.gs = true) : c.live x = [(k, y, a)] := by
  simp [CoreSt.live, slots, guard]

theorem issueSlot_of_exec {s t : State} {x : Group} {k : SlotKind} {y : Slot} {a : Addr}
    (issues : exec y.op (atSlot s x k a) = .next t) : s.issueSlot x (k, y, a) = t := by
  rw [atSlot] at issues
  rw [State.issueSlot, issues, State.try']

/-- The state once a group has been counted, its empty cycles with it (R386, R391). -/
def groupCounted (s u : State) (g : Nat) (x : Group) (e : Nat) : State :=
  (u.coreDieEvent g 11 ((u.core g).faultCount - (s.core g).faultCount)).countGroup g x ((s.core g).flow.loops.map fun l => l.note x) e

section OneSlot

variable {s t : State} {g : Nat} {x : Group} {k : SlotKind} {y : Slot} {a : Addr} (slots : x.slots = [(k, y, a)])
  (guard : (s.core g).guardOk y.gp y.gs = true)
include slots guard

/-- A slot other than Y issues before the counts. -/
theorem issueGroup_of_other (other : k ≠ .y) (issues : exec y.op (atSlot (groupNoted s g x k y.op a) x k a) = .next t) :
    s.issueGroup g x = (groupCounted s t g x x.e).afterGroup g x (s.core g).ctrl.handler false x.e := by
  rw [← issueSlot_of_exec issues]
  simp [State.issueGroup, live_of_guardOk slots guard, yOf, issuingOf, groupCounted, groupNoted, State.onCore, other]

/-- So does a wait form or END; an END takes no empty cycles (R131). -/
theorem issueGroup_of_first (kind : k = .y) (first : yFirst y.op = true)
    (issues : exec y.op (atSlot (groupNoted s g x k y.op a) x k a) = .next t) :
    s.issueGroup g x = (groupCounted s t g x (if y.op = .endStep then 0 else x.e)).afterGroup g x (s.core g).ctrl.handler false
      (if y.op = .endStep then 0 else x.e) := by
  subst kind
  rw [← issueSlot_of_exec issues]
  have noTret : y.op ≠ .tret := fun op => by simp [op, yFirst] at first
  by_cases ends : y.op = .endStep
  · simp [State.issueGroup, live_of_guardOk slots guard, yOf, issuingOf, groupCounted, groupNoted, State.onCore, ends, ends ▸ first]
  · simp [State.issueGroup, live_of_guardOk slots guard, yOf, issuingOf, groupCounted, groupNoted, State.onCore, first, ends, noTret]

/-- Any other Y slot issues after them. -/
theorem issueGroup_of_last (kind : k = .y) (last : yFirst y.op = false)
    (issues : exec y.op (atSlot (groupCounted s (groupNoted s g x k y.op a) g x x.e) x k a) = .next t) :
    s.issueGroup g x = t.afterGroup g x (s.core g).ctrl.handler (decide (y.op = .tret)) x.e := by
  subst kind
  rw [← issueSlot_of_exec issues]
  have goesOn : y.op ≠ .endStep := fun op => by simp [op, yFirst] at last
  by_cases ends : y.op = .tret
  · simp [State.issueGroup, live_of_guardOk slots guard, yOf, issuingOf, groupCounted, groupNoted, State.onCore, ends, ends ▸ last]
  · simp [State.issueGroup, live_of_guardOk slots guard, yOf, issuingOf, groupCounted, groupNoted, State.onCore, last, ends, goesOn]

end OneSlot

end Sys2Proof.Proofs

open Sys2Proof Sys2Proof.Machine Sys2Proof.Claims Sys2Proof.Proofs

/-- Settles O55: each clause by the lemma on that stage of a step, from the turn to the issue of the group's one slot. -/
theorem aStepRunsTheDecodedInstruction : Obligations.AStepRunsTheDecodedInstruction := by
  unfold Obligations.AStepRunsTheDecodedInstruction
  refine ⟨?turns, ?events, ?fetch, ?reach, ?free, ?slot⟩
  case turns =>
    intro s g ts known ready agenda
    have turn : step s = .next ((turnTaken s ts).coreTurn ⟨g, known⟩).settle :=
      (step_of_agenda agenda).trans (turn_core_of_ready known ready)
    exact ⟨fun clocked due => turn.trans (by rw [coreTurn_of_clocked clocked due]; rfl),
      fun idle => turn.trans (by rw [coreTurn_of_not_due idle]; rfl)⟩
  case events =>
    intro s i ts ready agenda event
    rw [step_of_agenda agenda]
    exact ⟨fun t happens => turn_act_of_next (s := turnTaken s ts) ready event happens,
      fun r refused => turn_act_of_refused (s := turnTaken s ts) ready event refused⟩
  case fetch => exact fun s g va h bs first stop bytes => fetchGroup_of_words first stop bytes
  case reach =>
    intro s u g x going paid clear running unstopped known
    exact ⟨runCycle_of_reached going paid clear running unstopped,
      fun unreached alive outside fetched bound touched =>
        runCycle_of_fetchNow going paid clear running unstopped known unreached (fetchNow_of_memory alive outside fetched bound touched),
      fun unreached alive low buffered =>
        runCycle_of_fetchNow going paid clear running unstopped known unreached (fetchNow_of_buffered alive low buffered)⟩
  case free => exact fun s g x known may => groupCycle_of_mayIssue known may
  case slot =>
    intro s t x k y a slots guard
    exact ⟨issueGroup_of_other slots guard, issueGroup_of_first slots guard, issueGroup_of_last slots guard⟩
end

section
/-! The elision engine: what it clears at the scrub of a partition's cores, and what the token of the scrub and the binding after it leave
behind. -/

namespace Sys2Proof.Proofs

open Sys2Proof.Machine Sys2Proof.Laws

/-! ## Runs of updates -/

/-- What every update of a run keeps, the run keeps. -/
theorem foldl_keeps {σ α β : Type} {f : σ → α → σ} (view : σ → β) (keeps : ∀ s x, view (f s x) = view s) (xs : List α) (s : σ) :
    view (xs.foldl f s) = view s :=
  List.foldlRecOn (motive := fun t => view t = view s) xs f rfl fun t kept x _ => (keeps t x).trans kept

theorem vget_map {α β : Type} {n : Nat} {d : α} {e : β} {f : α → β} (v : Vector α n) (i : Nat) (outside : f d = e) :
    vget e (v.map f) i = f (vget d v i) := by
  unfold vget
  split
  · simp
  · exact outside.symm

/-- What an update of a core keeps of it, that core and every other keep. -/
theorem onCore_keeps {β : Type} {f : CoreSt → CoreSt} (view : CoreSt → β) (keeps : ∀ c, view (f c) = view c) (s : State) (g h : Nat) :
    view ((s.onCore g f).core h) = view (s.core h) := by
  by_cases same : h = g
  · subst same
    by_cases known : h < 288
    · rw [State.onCore_core_same _ _ _ known, keeps]
    · rw [State.onCore, State.setCore, vset_outside _ _ _ known]
  · rw [State.onCore_core_other _ _ _ _ same]

/-- An update that is the same done twice, run over a list of cores: each of them has it, whether listed once or more often, and no other. -/
theorem core_foldl_onCore {f : CoreSt → CoreSt} (once : ∀ c, f (f c) = f c) {gs : List Nat} (known : ∀ g ∈ gs, g < 288) (s : State) (h : Nat) :
    (gs.foldl (fun s g => s.onCore g f) s).core h = if h ∈ gs then f (s.core h) else s.core h := by
  induction gs generalizing s with
  | nil => simp
  | cons g gs ih =>
    rw [List.foldl_cons, ih fun x listed => known x (List.mem_cons_of_mem g listed)]
    by_cases same : h = g
    · subst same
      simp [State.onCore_core_same s h f (known h List.mem_cons_self), once]
    · simp [State.onCore_core_other s g h f same, same]

theorem foldl_onCore_cores (f : CoreSt → CoreSt) (gs : List Nat) (s : State) :
    gs.foldl (fun s g => s.onCore g f) s = { s with cores := (gs.foldl (fun s g => s.onCore g f) s).cores } := by
  induction gs generalizing s with
  | nil => rfl
  | cons g gs ih => exact ih (s.onCore g f)

/-! ## The clearing (R370) -/

theorem scrubbed_twice (c : CoreSt) : c.scrubbed.scrubbed = c.scrubbed := rfl

theorem scrubbed_token (c : CoreSt) (w : Nat) : c.scrubbed.token w = .idle := by
  simp [CoreSt.token, CoreSt.scrubbed, Flow.reset, vget]

theorem scrubCores_core {r : Scrub} (known : ∀ g ∈ r.cores, g < 288) (s : State) (h : Nat) :
    (s.scrubCores r).core h = if h ∈ r.cores then (s.core h).scrubbed else s.core h := by
  rw [← core_foldl_onCore scrubbed_twice known]
  unfold State.scrubCores
  split <;> rfl

/-- No ingress entry of a core named is left. -/
theorem scrubCores_ingress (s : State) (r : Scrub) (d : Nat) :
    vget [] (s.scrubCores r).ord.ingress d = (vget [] s.ord.ingress d).filter fun e => !r.cores.contains e.core := by
  rw [← vget_map s.ord.ingress d List.filter_nil, State.scrubCores, foldl_onCore_cores]
  split <;> rfl

/-- No translation of the partition that leaves the cores is left in a die's cache. -/
theorem scrubCores_dieTlb {r : Scrub} {q vf : Nat} (leaves : r.outgoing = some (q, vf)) (s : State) (d : Nat) :
    vget [] (s.scrubCores r).dieTlb d = (vget [] s.dieTlb d).filter fun e => e.part != q := by
  rw [← vget_map s.dieTlb d List.filter_nil, State.scrubCores, foldl_onCore_cores, leaves]
  rfl

theorem scrubCores_coreErr (s : State) (r : Scrub) : (s.scrubCores r).hub.coreErr = s.hub.coreErr := by
  rw [State.scrubCores, foldl_onCore_cores]
  split <;> rfl

/-! ## The read-back (R371, R381) -/

@[simp] theorem dieError_cores (s : State) (d : Nat) (owners : W64) (n : Nat) : (s.dieError d owners n).cores = s.cores := by
  unfold State.dieError; split <;> rfl
@[simp] theorem dieError_ord (s : State) (d : Nat) (owners : W64) (n : Nat) : (s.dieError d owners n).ord = s.ord := by
  unfold State.dieError; split <;> rfl
@[simp] theorem dieError_dieTlb (s : State) (d : Nat) (owners : W64) (n : Nat) : (s.dieError d owners n).dieTlb = s.dieTlb := by
  unfold State.dieError; split <;> rfl
@[simp] theorem dieError_coreErr (s : State) (d : Nat) (owners : W64) (n : Nat) :
    (s.dieError d owners n).hub.coreErr = s.hub.coreErr := by
  unfold State.dieError; split <;> rfl

theorem readBack_cores (s : State) (found : List (Nat × Nat × Nat)) : (s.readBack found).cores = s.cores :=
  foldl_keeps State.cores (fun _ _ => by exact dieError_cores _ _ _ _) found s
theorem readBack_core (s : State) (found : List (Nat × Nat × Nat)) (g : Nat) : (s.readBack found).core g = s.core g := by
  rw [State.core, State.core, readBack_cores]
theorem readBack_ord (s : State) (found : List (Nat × Nat × Nat)) : (s.readBack found).ord = s.ord :=
  foldl_keeps State.ord (fun _ _ => by exact dieError_ord _ _ _ _) found s
theorem readBack_dieTlb (s : State) (found : List (Nat × Nat × Nat)) : (s.readBack found).dieTlb = s.dieTlb :=
  foldl_keeps State.dieTlb (fun _ _ => by exact dieError_dieTlb _ _ _ _) found s

/-- Errors found on one core are added to the count of that core. -/
theorem readBack_coreErr_one {s : State} (g k m : Nat) (canonical : amWf 0 s.hub.coreErr = true) :
    amGet 0 (s.readBack [(g, k, m)]).hub.coreErr g = amGet 0 s.hub.coreErr g + BitVec.ofNat 64 k := by
  simp only [State.readBack, List.foldl_cons, List.foldl_nil, State.coreErrors, dieError_coreErr]
  exact amGet_amSet_same g _ canonical

/-! ## The engine's next act (R371, R372) -/

/-- What a RELOAD takes from the others, it takes from their partitions only. -/
theorem takeFromOthers_kept (s : State) (p : Nat) (cores : List Nat) :
    (s.takeFromOthers p cores).cores = s.cores ∧ (s.takeFromOthers p cores).hub.coreErr = s.hub.coreErr := by
  unfold State.takeFromOthers
  constructor
  · exact foldl_keeps State.cores (fun t q => by dsimp only; split <;> rfl) _ _
  · exact foldl_keeps (fun t : State => t.hub.coreErr) (fun t q => by dsimp only; split <;> rfl) _ _

theorem exec_elisionScrub (a : ScrubTurn) (s : State) : exec (.elisionScrub a) s = execElisionScrub a s := rfl

/-- No scrub of another partition holds up one that shares no core with any. -/
theorem scrubHeld_of_apart {s : State} {p : Nat} {r : Scrub}
    (apart : ∀ q x, q < 64 → q ≠ p → (s.part q).scrub = some x → ∀ g ∈ x.cores, g ∉ r.cores) : s.scrubHeld p r = false := by
  refine List.any_eq_false.mpr fun q listed => ?_
  by_cases same : q = p
  · simp [same]
  · cases runs : (s.part q).scrub with
    | none => simp
    | some x => simpa [same] using fun _ => apart q x (List.mem_range.mp listed) same runs

section Turn

variable {s : State} {a : ScrubTurn} {r : Scrub} (known : a.part < 64)
include known

/-- The scrub's first act clears the cores, of the state itself or, for a RELOAD, with what it takes from the others. -/
theorem exec_elisionScrub_clears (runs : (s.part a.part).scrub = some r) (uncleared : r.cleared = false)
    (free : ∀ g ∈ r.cores, (s.core g).step = none) (inside : ∀ x ∈ a.found, x.1 ∈ r.cores) (once : (a.found.map fun x => x.1).Nodup)
    (apart : ∀ q x, q < 64 → q ≠ a.part → (s.part q).scrub = some x → ∀ g ∈ x.cores, g ∉ r.cores) :
    ∃ t : State, (t.cores = s.cores ∧ t.hub.coreErr = s.hub.coreErr) ∧ exec (.elisionScrub a) s =
      .next (((t.scrubCores r).readBack a.found).onPart a.part fun pt => { pt with scrub := some { r with cleared := true, found := a.found } }) := by
  have unheld := scrubHeld_of_apart apart
  have idle : r.cores.any (fun g => (s.core g).step.isSome) = false := List.any_eq_false.mpr fun g listed => by simp [free g listed]
  have named : (a.found.all fun x => r.cores.contains x.1) = true := List.all_eq_true.mpr fun x listed => by simpa using inside x listed
  refine ⟨if r.reason == .reload then s.takeFromOthers a.part r.cores else s, ?_, ?_⟩
  · split
    · exact takeFromOthers_kept s a.part r.cores
    · exact ⟨rfl, rfl⟩
  · rw [exec_elisionScrub, execElisionScrub, event_eq_next, if_neg (Nat.not_le.mpr known)]
    simp only [runs, uncleared, unheld, idle, named, once]
    rfl

theorem exec_elisionScrub_storesToken (runs : (s.part a.part).scrub = some r) (cleared : r.cleared = true) :
    exec (.elisionScrub a) s = .next (s.storeToken a.part r) := by
  rw [exec_elisionScrub, execElisionScrub, event_eq_next, if_neg (Nat.not_le.mpr known)]
  simp [runs, cleared]

/-- Before a reset's scrub the partition is purged. -/
theorem exec_elisionScrub_purges {t : State} {why : ScrubReason} (quiet : (s.part a.part).scrub = none)
    (resets : (s.part a.part).resetting = some why) (free : s.residents a.part = []) (purged : s.purge a.part why = .ok t) :
    exec (.elisionScrub a) s = .next t := by
  rw [exec_elisionScrub, execElisionScrub, event_eq_next, if_neg (Nat.not_le.mpr known)]
  simp [quiet, resets, free, purged, State.hubNext]

end Turn

/-! ## What a slice that starts and a binding keep (R21, R32, R107, R336) -/

/-- What a slice that starts and the binding of a partition's cores leave alone in the hub: SEQ, and of the partition all but its slice, its debt
and the numbers of its cores. -/
def lasting (p : Nat) (s : State) : W64 × Part :=
  (s.hub.seq, { s.part p with slice := none, debt := 0, bound := .replicate 256 none })

/-- A slice that starts changes a partition's slice and its debt alone. -/
theorem startSlice_kept (pt : Part) (now : W64) :
    pt.startSlice now = { pt with slice := (pt.startSlice now).slice, debt := (pt.startSlice now).debt } := by
  unfold Part.startSlice
  dsimp only
  split <;> rfl

theorem startSlice_lasting {p : Nat} (known : p < 64) (s : State) (now : W64) :
    lasting p (s.onPart p fun pt => pt.startSlice now) = lasting p s := by
  rw [lasting, State.onPart_part_same _ _ _ known, startSlice_kept]
  rfl

theorem physWrite_lasting (s : State) (p q a : Nat) (bs : List Byte) : lasting p (s.physWrite q a bs) = lasting p s :=
  foldl_keeps (lasting p) (fun _ _ => by rfl) _ s

theorem homePage_lasting (s : State) (p : Nat) (x : LocalPage) : lasting p (s.homePage p x) = lasting p s := by
  unfold State.homePage
  dsimp only
  split
  · split
    · rfl
    · split
      · exact physWrite_lasting _ _ _ _ _
      · rfl
  · rfl

theorem fillScratch_lasting (s : State) (p : Nat) (x : Nat × List Byte) : lasting p (s.fillScratch p x) = lasting p s := by
  unfold State.fillScratch
  split
  · split <;> rfl
  · rfl

/-- The numbering of cores gives each core its number and the partition its list, and changes nothing else. -/
theorem bindCores_stages (s : State) (p : Nat) : s.bindCores p = s ∨
    ∃ (now : Vector (Option Nat) 256) (ks : List Nat), s.bindCores p = ks.foldl (fun s k => match vget none now k with
      | some g => s.onCore g fun c => { c with logical := k }
      | none => s) (s.onPart p fun pt => { pt with bound := now }) := by
  unfold State.bindCores
  dsimp only
  split
  · exact .inl rfl
  · exact .inr ⟨_, _, rfl⟩

/-- What neither of the two changes, the numbering keeps. -/
theorem bindCores_keeps {β : Type} (view : State → β) (s : State) (p : Nat)
    (numbers : ∀ (t : State) (g k : Nat), view (t.onCore g fun c => { c with logical := k }) = view t)
    (lists : ∀ now, view (s.onPart p fun pt => { pt with bound := now }) = view s) : view (s.bindCores p) = view s := by
  obtain same | ⟨now, ks, e⟩ := bindCores_stages s p
  · rw [same]
  · rw [e, ← lists now]
    refine foldl_keeps view (fun t k => ?_) ks _
    split
    · exact numbers _ _ _
    · rfl

theorem bindCores_lasting {p : Nat} (known : p < 64) (s : State) : lasting p (s.bindCores p) = lasting p s := by
  refine bindCores_keeps (lasting p) s p (fun _ _ _ => rfl) fun now => ?_
  rw [lasting, State.onPart_part_same _ _ _ known]
  rfl
theorem bindCores_ord (s : State) (p : Nat) : (s.bindCores p).ord = s.ord :=
  bindCores_keeps State.ord s p (fun _ _ _ => rfl) fun _ => rfl
theorem bindCores_files (s : State) (p g : Nat) : ((s.bindCores p).core g).files = (s.core g).files :=
  bindCores_keeps (fun t => (t.core g).files) s p (fun t h _ => onCore_keeps CoreSt.files (fun _ => by rfl) t h g) fun _ => rfl

theorem bindOn_lasting {p : Nat} (known : p < 64) (s : State) (i : Image) : lasting p (s.bindOn p i) = lasting p s :=
  calc lasting p (s.bindOn p i)
    _ = lasting p (i.pages.foldl (fun s x => s.homePage p x) (s.bindCores p)) :=
      foldl_keeps (lasting p) (fun t x => fillScratch_lasting t p x) _ _
    _ = lasting p (s.bindCores p) := foldl_keeps (lasting p) (fun t x => homePage_lasting t p x) _ _
    _ = lasting p s := bindCores_lasting known s

theorem numberAgain_lasting {p : Nat} (known : p < 64) (s : State) : lasting p (s.numberAgain p) = lasting p s := by
  unfold State.numberAgain
  dsimp only
  split
  · exact bindCores_lasting known s
  · split
    · exact bindOn_lasting known s _
    · rfl

/-- Where an image was bound before, or none is, cores are numbered at most. -/
theorem numberAgain_of_met {s : State} {p : Nat} (met : (s.part p).bound.any Option.isSome = true ∨ (s.part p).image = none) :
    s.numberAgain p = s.bindCores p ∨ s.numberAgain p = s := by
  unfold State.numberAgain
  obtain before | imageless := met
  · exact .inl (if_pos before)
  · simp only [imageless]
    split
    · exact .inl rfl
    · exact .inr rfl

/-- The registers that a binding gives are control registers of cores (R107). -/
theorem bindRegs_keeps {β : Type} (view : State → β)
    (regs : ∀ (t : State) (g : Nat) (compat : CoreSt → Bool) (tvec : W64),
      view (t.onCore g fun c => { c with ctrl := { c.ctrl with compat := compat c, tvec := tvec } }) = view t) (s : State) (p : Nat) :
    view (s.bindRegs p) = view s := by
  unfold State.bindRegs
  split
  · rfl
  · refine foldl_keeps view (fun t g => ?_) _ s
    split
    · rfl
    · exact regs _ _ _ _

theorem bindRegs_lasting (s : State) (p : Nat) : lasting p (s.bindRegs p) = lasting p s :=
  bindRegs_keeps (lasting p) (fun _ _ _ _ => rfl) s p
theorem bindRegs_ord (s : State) (p : Nat) : (s.bindRegs p).ord = s.ord := bindRegs_keeps State.ord (fun _ _ _ _ => rfl) s p
theorem bindRegs_files (s : State) (p g : Nat) : ((s.bindRegs p).core g).files = (s.core g).files :=
  bindRegs_keeps (fun t => (t.core g).files) (fun t h _ _ => onCore_keeps CoreSt.files (fun _ => by rfl) t h g) s p

/-- The whole binding after a token, of numbers and of registers. -/
theorem bound_lasting {p : Nat} (known : p < 64) (s : State) : lasting p ((s.numberAgain p).bindRegs p) = lasting p s :=
  (bindRegs_lasting _ p).trans (numberAgain_lasting known s)

/-- Where an image was bound before, or none is, it keeps the cores' files and memory: a scratchpad image is not written again (log entry 107). -/
theorem bound_of_met {s : State} {p : Nat} (met : (s.part p).bound.any Option.isSome = true ∨ (s.part p).image = none) :
    (∀ g, (((s.numberAgain p).bindRegs p).core g).files = (s.core g).files) ∧ ((s.numberAgain p).bindRegs p).ord = s.ord := by
  simp only [bindRegs_files, bindRegs_ord]
  obtain numbered | same := numberAgain_of_met met
  · exact ⟨fun g => by rw [numbered, bindCores_files], by rw [numbered, bindCores_ord]⟩
  · exact ⟨fun g => by rw [same], by rw [same]⟩

/-! ## The token (R371, R373) -/

/-- The token of a scrub is stored: SEQ has counted it, and the partition's scrub and its command are done. -/
structure TokenStored (s : State) (p : Nat) (r : Scrub) (x : W64 × Part) : Prop where
  seq : x.1 = s.hub.seq + 1
  scrub : x.2.scrub = none
  lastseq : x.2.entry.lastseq = s.hub.seq + 1
  token : x.2.token = scrubToken p r (s.hub.seq + 1) s.time (s.part p).entry.nonce
  command : (s.part p).cmdRun = true → r.reason ∈ [.reload, .scrub, .reset] → x.2.cmdstat = 1 ∧ x.2.cmdRun = false

/-- A state whose cores and memory are those of another, and which a partition's binding finds as it would find that. -/
structure AsBound (s t : State) (p : Nat) : Prop where
  cores : t.cores = s.cores
  ord : t.ord = s.ord
  bound : (t.part p).bound = (s.part p).bound
  image : (t.part p).image = (s.part p).image

/-- A slice that starts does not change what the binding finds. -/
theorem startSlice_asBound {s t : State} {p : Nat} (known : p < 64) (alike : AsBound s t p) (now : W64) :
    AsBound s (t.onPart p fun pt => pt.startSlice now) p := by
  have slice : (t.onPart p fun pt => pt.startSlice now).part p = (t.part p).startSlice now := State.onPart_part_same _ _ _ known
  rw [startSlice_kept] at slice
  exact ⟨alike.cores, alike.ord, by rw [slice]; exact alike.bound, by rw [slice]; exact alike.image⟩

/-- The token is stored, and a slice starts where the scrub brings one; then the partition's cores are bound. -/
theorem storeToken_stages {p : Nat} (known : p < 64) (s : State) (r : Scrub) :
    ∃ t, TokenStored s p r (lasting p t) ∧ AsBound s t p ∧ s.storeToken p r = (t.numberAgain p).bindRegs p := by
  have first : ∃ t, (TokenStored s p r (lasting p t) ∧ AsBound s t p) ∧ s.storeToken p r =
      ((if r.reason == .slice || r.reason == .reload then t.onPart p fun pt => pt.startSlice t.time else t).numberAgain p).bindRegs p := by
    refine ⟨_, ⟨?stored, ?alike⟩, rfl⟩
    case stored =>
      rw [lasting, State.onPart_part_same _ _ _ known]
      refine ⟨rfl, rfl, rfl, rfl, fun runs reason => ?_⟩
      have own : (r.reason == .reload || r.reason == .scrub || r.reason == .reset) = true := by simpa [or_assoc] using reason
      exact ⟨if_pos (Bool.and_eq_true_iff.mpr ⟨runs, own⟩), (congrArg (fun b => _ && !b) own).trans (Bool.and_false _)⟩
    case alike => exact ⟨rfl, rfl, by rw [State.onPart_part_same _ _ _ known]; rfl, by rw [State.onPart_part_same _ _ _ known]; rfl⟩
  obtain ⟨t, ⟨stored, alike⟩, e⟩ := first
  split at e
  · exact ⟨_, startSlice_lasting known t t.time ▸ stored, startSlice_asBound known alike _, e⟩
  · exact ⟨t, stored, alike, e⟩

/-- The binding keeps the token as it is stored. -/
theorem storeToken_stored {p : Nat} (known : p < 64) (s : State) (r : Scrub) : TokenStored s p r (lasting p (s.storeToken p r)) := by
  obtain ⟨t, stored, _, e⟩ := storeToken_stages known s r
  rwa [e, bound_lasting known]

/-- Where an image was bound before, or none is, cores keep their files, and memory stays as it is. -/
theorem storeToken_of_met {s : State} {p : Nat} (known : p < 64) (r : Scrub)
    (met : (s.part p).bound.any Option.isSome = true ∨ (s.part p).image = none) :
    (∀ g, ((s.storeToken p r).core g).files = (s.core g).files) ∧ (s.storeToken p r).ord = s.ord := by
  obtain ⟨t, _, alike, e⟩ := storeToken_stages known s r
  rw [← alike.bound, ← alike.image] at met
  have ⟨files, ord⟩ := bound_of_met met
  have core (g : Nat) : t.core g = s.core g := by rw [State.core, State.core, alike.cores]
  exact e ▸ ⟨fun g => core g ▸ files g, ord.trans alike.ord⟩

end Sys2Proof.Proofs

open Sys2Proof Sys2Proof.Machine Sys2Proof.Proofs

/-- Settles O42: the clearing core by core, the token through the binding that follows it, and the purge of a reset. -/
theorem elisionClearsThenStoresTheToken : Obligations.ElisionClearsThenStoresTheToken := by
  unfold Obligations.ElisionClearsThenStoresTheToken
  refine ⟨?clears, ?stores, ?purges⟩
  case clears =>
    intro s p r found known runs uncleared cores inside once apart
    obtain ⟨t, ⟨sameCores, sameCounts⟩, next⟩ := exec_elisionScrub_clears (a := ⟨p, found⟩) known runs uncleared
      (fun g listed => (cores g listed).2) inside once apart
    refine ⟨_, next, ?_⟩
    have before (g : Nat) : t.core g = s.core g := by rw [State.core, State.core, sameCores]
    have cleared (g : Nat) := (readBack_core (t.scrubCores r) found g).trans (scrubCores_core (fun g listed => (cores g listed).1) t g)
    simp only [State.onPart_part_same _ _ _ known, State.onPart_core, State.onPart_dieTlb, State.onPart_ord, cleared, before, readBack_ord,
      readBack_dieTlb]
    refine ⟨trivial, fun g listed => ?_, fun g unlisted => if_neg unlisted, fun q vf leaves d _ e left => ?_, fun d _ e left => ?_,
      fun g k m one canonical => ?_⟩
    · rw [if_pos listed]
      exact ⟨rfl, rfl, rfl, rfl, rfl, rfl, rfl, rfl, rfl, rfl, fun w _ => scrubbed_token _ w, rfl, rfl, rfl⟩
    · rw [scrubCores_dieTlb leaves] at left
      simpa using (List.mem_filter.mp left).2
    · rw [scrubCores_ingress] at left
      simpa using (List.mem_filter.mp left).2
    · subst one
      rw [← sameCounts, ← scrubCores_coreErr t r] at canonical ⊢
      exact readBack_coreErr_one g k m canonical
  case stores =>
    intro s a r known runs cleared
    obtain ⟨seq, scrub, lastseq, token, command⟩ := storeToken_stored known s r
    refine ⟨_, exec_elisionScrub_storesToken known runs cleared, scrub, seq, lastseq, token, command, fun met => ?_⟩
    have ⟨files, ord⟩ := storeToken_of_met known r met
    exact ⟨fun g _ => files g, ord⟩
  case purges => exact fun s t a why known quiet resets free purged => exec_elisionScrub_purges known quiet resets free purged
end

section
/-! The hold and the release of WAIT. -/

namespace Sys2Proof.Proofs

open Sys2Proof.Machine Sys2Proof.Claims Sys2Proof.Laws

/-- An update that leaves a core as it is leaves the device as it is. -/
theorem onCore_id (s : State) (g : Nat) : (s.onCore g fun c => c) = s := by
  have same : vset s.cores g (vget .reset s.cores g) = s.cores := by
    unfold vset vget
    split <;> simp
  rw [State.onCore, State.setCore, State.core, same]

/-- WAIT names no register, address or queue: it meets no precise fault. -/
theorem groupFault_wait (s : State) (w : BitVec 3) : s.cc.groupFault s.cc.flow.groupA (s.soloGroup (.wait w)) = none :=
  groupFault_solo (i := .wait w) nofun nofun rfl rfl nofun nofun (.inr fun _ _ _ _ => ⟨nofun, nofun⟩) rfl

/-- A token with nothing outstanding is idle once it is released. -/
theorem tokRelease_of_complete {c : CoreSt} {w : Nat} (complete : (c.token w).out = 0) :
    c.tokRelease w = { c with flow := { c.flow with
      tokens := vset c.flow.tokens w .idle, pending := c.flow.pending.filter fun p => p.tok != w } } := by
  simp only [CoreSt.tokRelease, if_pos complete]
  rfl

/-- What a WAIT that issues does to its core (R67, R126, R222). -/
def waitIssued (w : BitVec 3) (c : CoreSt) : CoreSt :=
  let c := if (c.token w.toNat).failed then c.goto ((c.token w.toNat).target.setWidth 64) else c
  (if c.dom.cancel = some w.toNat then { c with dom := { c.dom with cancel := none } } else c).tokRelease w.toNat

theorem exec_wait (w : BitVec 3) (s : State) : exec (.wait w) s = s.issueWait (.wait w) fun s => s.onCur (waitIssued w) := rfl

theorem waitIssued_of_complete {c : CoreSt} {w : BitVec 3} (complete : (c.token w.toNat).out = 0) : waitIssued w c = waited c w := by
  unfold waitIssued waited
  by_cases failed : (c.token w.toNat).failed = true <;> by_cases cancels : c.dom.cancel = some w.toNat <;>
    simp only [failed, cancels, CoreSt.goto_dom, Bool.false_eq_true, if_true, if_false] <;> exact tokRelease_of_complete complete

section Wait

variable {s : State} {w : BitVec 3} (unmet : s.cc.waitMeets w.toNat = false)
include unmet

theorem exec_wait_releases (complete : (s.cc.token w.toNat).out = 0) : exec (.wait w) s = .next (s.setCore s.cur (waited s.cc w)) := by
  have free : s.waitHolds s.cur (.wait w) = false := by
    show (decide ((s.cc.token w.toNat).out ≠ 0) && !s.cc.waitMeets w.toNat) = false
    simp [complete]
  have silent : s.cc.reported s.cc.flow.groupA (.wait w) = none := by simp [CoreSt.reported, unmet]
  obtain ⟨holds, -⟩ | ⟨-, t, told, -⟩ | ⟨-, -, issues⟩ := issueWait_cases s (.wait w) fun s => s.onCur (waitIssued w)
  · exact (Bool.false_ne_true (free.symm.trans holds)).elim
  · cases silent.symm.trans told
  · rw [exec_wait, issues, issue_eq_next (.inr (groupFault_wait s w)), State.onCur, waitIssued_of_complete complete]

theorem exec_wait_holds (outstanding : (s.cc.token w.toNat).out ≠ 0) : exec (.wait w) s = .next (s.stall s.cur cWait) := by
  have holds : s.waitHolds s.cur (.wait w) = true := by
    show (decide ((s.cc.token w.toNat).out ≠ 0) && !s.cc.waitMeets w.toNat) = true
    simp [outstanding, unmet]
  rw [exec_wait, State.issueWait, if_pos holds, State.waitHeld]
  exact congrArg (fun t : State => Host.Outcome.next (t.stall s.cur cWait)) (onCore_id s s.cur)

end Wait

/-- Settles O14: the hold and the release, each by its own lemma. -/
theorem waitHoldsThenReleasesItsToken : Obligations.WaitHoldsThenReleasesItsToken :=
  fun _ _ unmet => ⟨exec_wait_releases unmet, exec_wait_holds unmet⟩

end Sys2Proof.Proofs
end

section
/-! The device never stops: what the shared forms of an instruction's meaning answer, which core an event names, and what a turn answers. -/

namespace Sys2Proof.Proofs

open Sys2Proof.Machine Sys2Proof.Claims Sys2Proof.Laws

/-! ## The shared forms of an instruction's meaning (R233) -/

section Forms

variable (s : State) (i : Instr)

theorem issue_safe (eff : State → State) : Safe (s.issue i eff) := issue_next s i eff
theorem issueWait_safe (eff : State → State) : Safe (s.issueWait i eff) := issueWait_next s i eff
theorem issueM_safe (eff : CoreSt → CoreSt) : Safe (s.issueM i eff) := issueM_next s i eff
theorem issueQ_safe (f : CoreSt → QArgs) : Safe (s.issueQ i f) := issue_safe s i _
theorem landS_safe (d : SDst) (f : CoreSt → W64 × Flg) : Safe (landS i d f s) := issue_safe s i _
theorem landP_safe (p : BitVec 3) (f : CoreSt → Bool × Flg) : Safe (landP i p f s) := issue_safe s i _
theorem landD_safe : Safe (landD i s) := issue_safe s i _
theorem landA_safe (ad : BitVec 4) (f : State → Axis.AxRes × Flg) : Safe (landA i ad f s) := issue_safe s i _
theorem landN_safe (ad : BitVec 4) (f : CoreSt → W32 × Flg) : Safe (landN i ad f s) := issue_safe s i _
theorem landV_safe (g : BitVec 4) (d : VDst) (f : CoreSt → Nat → W512 × W512 × Flg) : Safe (landV i g d f s) := issue_safe s i _
theorem landK_safe (g : BitVec 4) (kd : BitVec 3) (f : CoreSt → Nat → W16 × Flg) : Safe (landK i g kd f s) := issue_safe s i _

end Forms

/-- An instruction of a bundle has its effect, is held or takes a trap: it always has a next state. -/
theorem exec_safe_of_kind {i : Instr} (instruction : i.kind ≠ none) (s : State) : Safe (exec i s) := by
  unfold exec
  cases i
  case add | sub | and | or | xor | andn | shl | shr | sar | min | max | minu | maxu | adds | subs | mul | mulh | mulhu | div | divu | rem
      | remu | addi | andi | ori | xori | shli | shri | sari | movq | movps | rdcnt | rdtime | rddesc | fadd | fsub | fmul | fma | cvtF64I64
      | cvtI64F64 | cvtF32I64 | cvtI64F32 | cvtF32F64 | cvtF64F32 | crrd | adot | amag =>
    exact landS_safe s _ _ _
  case cmpeq | cmpne | cmplt | cmple | cmpltu | cmpleu | cmpeqi | cmpnei | cmplti | cmplei | cmpltui | cmpleui | pand | por | pxor | pandn
      | fcmpeq | fcmplt | fcmple | fcmpun =>
    exact landP_safe s _ _ _
  case dadd | dsub | dmul | dmin | dmax | deq | dne | dlt | dle | deqi | dnei | dlti | dlei | dgti | dgei | din | dnotin | dseti | dlab
      | dval | dsize | dlo | dhi | dsettle | dclr | dopen | dclose =>
    exact landD_safe s _
  case vadd | vsub | vadds | vaddsu | vsubs | vsubsu | vmul | vmin | vmax | vminu | vmaxu | vshl | vshr | vsar | vand | vor | vxor | vandn
      | vmov | vsel | vperm | vbcast | vidx | vfadd | vfsub | vfmul | vfma | vfmin | vfmax | vfabs | vfneg | vrcp | vrsqrt | vexp2 | vlog2
      | vradd | vrmax | vrmin | vxc | vcvt =>
    exact landV_safe s _ _ _ _
  case vcmpeq | vcmplt | vcmple | vcmpltu | vcmpleu | vfcmpeq | vfcmplt | vfcmple | vfcmpun | kand | kor | kxor | kandn =>
    exact landK_safe s _ _ _ _
  case afromv | aneg | aadd | asub | alerp => exact landA_safe s _ _ _
  case ascl | ascli | azero => exact landN_safe s _ _ _
  case mma | mmaq | msca | mzero | mret | mrets | mcvt | mtr | mldl | mtrs | msetma => exact issueM_safe s _ _
  case tld | tldw | tst | amoadd | amoswp | amocas | amomin | amomax | amoand | amoor | binit | arrive | xtld | xtst =>
    exact issueQ_safe s _ _
  case wait | waitph | waitbit | bar | fence | endStep => exact issueWait_safe s _ _
  case movsp | br | call | brr | callr | ret | loop | loopr | trap | trapack | tret | crwr | delem | dset | atov | adotm | asetn | lds | ldv
      | ald | sts | stv | ast | xcpy | pput | pget | xset | xgo =>
    exact issue_safe s _ _
  all_goals exact (instruction rfl).elim

/-! ## The core that an event names (R31) -/

/-- The physical core that an event names. -/
def coreNamed : Instr → Option Nat
  | .read g _ | .write g _ | .send g | .port g _ | .deposit g _ | .hostop g _ | .drain g | .copyCommandStart g | .copyCommandComplete g
  | .barrierCompletion g | .preemptionRequest g | .yield g | .watchdogExpiry g | .hardCoreReset g | .bankRepair g | .groupFetch g
  | .resultLanding g | .matrixCommandStart g | .matrixCommandComplete g | .dOperationStart g | .dOperationComplete g | .waitTimeout g
  | .launchAbiLoadEnd g | .stepRetirement g | .saveAtComma g | .trapEntry g | .breakpoint g _ | .watchHit g _
  | .coreUncorrectableError g _ _ _ _ | .stopreq g | .debuggerResume g | .debugStateWrite g _ _ | .latchPortWrite g _ => some g
  | _ => none

/-- An event happens where its condition holds, and one that names a core also where the device has the core. -/
theorem exec_of_event {i : Instr} (isEvent : i.kind = none) (s : State) :
    ∃ name r, exec i s = match coreNamed i with | some g => coreEvent name g r | none => event name r := by
  unfold exec
  cases i
  all_goals cases isEvent
  all_goals exact ⟨_, _, rfl⟩

theorem exec_fault {i : Instr} {s : State} {f : Fault} (isEvent : i.kind = none) (faults : exec i s = .fault f) :
    ∃ g, coreNamed i = some g ∧ 288 ≤ g ∧ f = .noSuchCore g := by
  obtain ⟨name, r, happens⟩ := exec_of_event isEvent s
  rw [happens] at faults
  cases named : coreNamed i with
  | none => rw [named] at faults; exact (event_ne_fault faults).elim
  | some g => rw [named] at faults; exact ⟨g, rfl, coreEvent_eq_fault.mp faults⟩

/-! ## Turns (R31, R293) -/

/-- The physical core that a turn names. -/
def turnCore : Turn → Option Nat
  | .core g => some g
  | .act i => coreNamed i
  | .elapse _ => none

/-- A turn has a next state, or names a core that the device does not have and faults for it. -/
theorem turn_cases (s : State) (t : Turn) :
    (∃ u, s.turn t = .next u) ∨ ∃ g, turnCore t = some g ∧ 288 ≤ g ∧ s.turn t = .fault (.noSuchCore g) := by
  cases t with
  | core g =>
    by_cases known : g < 288
    · exact .inl ⟨_, by simp only [State.turn, dif_pos known]; rfl⟩
    · exact .inr ⟨g, rfl, Nat.le_of_not_lt known, by simp only [State.turn, dif_neg known]⟩
  | act i =>
    by_cases passed : (i.kind.isSome || !(s.hub.ready || whileDown i)) = true
    · exact .inl ⟨s, by simp only [State.turn, if_pos passed]⟩
    · have isEvent : i.kind = none := by simpa using (not_or.mp (mt Bool.or_eq_true_iff.mpr passed)).1
      cases outcome : exec i s with
      | next u => exact .inl ⟨u.settle, by simp only [State.turn, if_neg passed, outcome]⟩
      | refused r => exact .inl ⟨s, by simp only [State.turn, if_neg passed, outcome]⟩
      | fault f =>
        obtain ⟨g, named, unknown, rfl⟩ := exec_fault isEvent outcome
        exact .inr ⟨g, named, unknown, by simp only [State.turn, if_neg passed, outcome]⟩
  | elapse n => exact .inl ⟨_, rfl⟩

/-- A free choice names no core that the device does not have. -/
theorem freeTurn_known {n g : Nat} (named : turnCore (freeTurn n) = some g) : g < 288 := by
  have known : n / 64 % 288 < 288 := Nat.mod_lt _ (by decide)
  unfold freeTurn at named
  split at named <;> cases named <;> exact known

/-- Settles O56: a turn never refuses, and it faults only for a core named that the device does not have, which a free choice never names. -/
theorem theDeviceNeverStops : Obligations.TheDeviceNeverStops := by
  refine ⟨fun s r refused => ?_, fun s idle => ?_, fun s f faults => ?_, fun i s instruction => exec_safe_of_kind instruction s⟩
  · obtain ⟨u, next⟩ | ⟨g, -, -, fault⟩ := turn_cases s.nextTurn.2 s.nextTurn.1
    · cases next.symm.trans refused
    · cases fault.symm.trans refused
  · obtain next | ⟨g, named, unknown, -⟩ := turn_cases s.nextTurn.2 s.nextTurn.1
    · exact next
    · rw [State.nextTurn, idle] at named
      exact (Nat.not_lt.mpr unknown (freeTurn_known named)).elim
  · obtain ⟨u, next⟩ | ⟨g, -, unknown, fault⟩ := turn_cases s.nextTurn.2 s.nextTurn.1
    · cases next.symm.trans faults
    · cases fault.symm.trans faults
      exact ⟨g, unknown, rfl⟩

end Sys2Proof.Proofs
end

section
/-! Launches: what landing results leave alone, the launch of a step on a core, and dispatch. -/

namespace Sys2Proof.Proofs

open Sys2Proof.Machine Sys2Proof.Claims Sys2Proof.Laws

/-! ## What the landing of results leaves alone (R65) -/

/-- A core without its files, its control registers, its copy registers and its flow, which are all that results in flight change. -/
def resting (c : CoreSt) : CoreSt := { c with files := .reset, ctrl := .reset, xc := .reset, flow := .reset }

theorem checkLanding_resting (c : CoreSt) (i : Nat) : resting (c.checkLanding i) = resting c := by
  unfold CoreSt.checkLanding CoreSt.checkAxis
  split
  · rfl
  · split <;> rfl

theorem crWrite_resting (c : CoreSt) (n : Nat) (x : W64) : resting (c.crWrite n x) = resting c := by
  unfold CoreSt.crWrite
  repeat' split
  all_goals rfl

theorem applyWrite_resting (c : CoreSt) (w : Write) : resting (c.applyWrite w).1 = resting c := by
  cases w with
  | sreg n x => simp only [CoreSt.applyWrite, CoreSt.setSreg]; split <;> rfl
  | kreg i n x => simp only [CoreSt.applyWrite, CoreSt.setK]; split <;> rfl
  | spad x bs => simp only [CoreSt.applyWrite, CoreSt.spadWrite]; split <;> rfl
  | norm i n => exact checkLanding_resting _ i
  | setn i n =>
    simp only [CoreSt.applyWrite]
    split
    · rfl
    · split
      · rfl
      · exact checkLanding_resting _ i
  | cr n x => exact crWrite_resting c n x
  | slatch | pair | preds | vreg | vlatch | axis | aload | ma | xc => rfl

theorem land_resting (c : CoreSt) (f : InFlight) : resting (c.land f) = resting c :=
  foldl_keeps (f := fun (x : CoreSt × Flg) w => let y := x.1.applyWrite w; (y.1, x.2 ||| y.2)) (fun x => resting x.1)
    (fun x w => applyWrite_resting x.1 w) f.writes (c, f.flags)

theorem landAt_resting (c : CoreSt) (k : Nat) : resting (c.landAt k) = resting c :=
  (foldl_keeps resting land_resting _ _).trans (foldl_keeps resting land_resting _ _)

theorem landStores_resting (c : CoreSt) (k : Nat) : resting (c.landStores k) = resting c := foldl_keeps resting land_resting _ _

theorem landAll_resting (c : CoreSt) : resting c.landAll = resting c :=
  foldl_keeps resting (fun c i => by
    split
    · rfl
    · exact (landStores_resting _ _).trans (landAt_resting _ _)) _ c

@[simp] theorem landAll_dbg (c : CoreSt) : c.landAll.dbg = c.dbg := by
  have kept := congrArg (fun x : CoreSt => x.dbg) (landAll_resting c)
  exact kept
@[simp] theorem landAll_classB (c : CoreSt) : c.landAll.classB = c.classB := by
  have kept := congrArg (fun x : CoreSt => x.classB) (landAll_resting c)
  exact kept

/-! ## Counting on a die, traces and reservations (R47, R391, R393) -/

section Frames

variable (s : State) (d p ev n : Nat)

@[simp] theorem dieEvent_cores : (s.dieEvent d p ev n).cores = s.cores := by unfold State.dieEvent; split <;> rfl
@[simp] theorem dieEvent_core (g : Nat) : (s.dieEvent d p ev n).core g = s.core g := by rw [State.core, State.core, dieEvent_cores]
@[simp] theorem dieEvent_ord : (s.dieEvent d p ev n).ord = s.ord := by unfold State.dieEvent; split <;> rfl
@[simp] theorem dieEvent_part (q : Nat) : (s.dieEvent d p ev n).part q = s.part q := by unfold State.dieEvent; split <;> rfl

end Frames

theorem traceIf_of_off {s : State} {on : Bool} (off : on = false) (g kind index : Nat) (bundle : Addr) : s.traceIf g on kind index bundle = s := by
  rw [State.traceIf, off, Bool.and_false]
  rfl

theorem dropReserve_of_none {s : State} {p : Nat} (none : (s.part p).reserve = none) : s.dropReserve p = s := by
  rw [State.dropReserve, none]
  rfl

/-! ## The launch of a step (R39, R245, R332) -/

/-- The core that takes a step of a partition, once it has counted the cycles of a gang's reservation. -/
def launched (pt : Part) (gang g : Nat) (st : StepInfo) (c : CoreSt) : CoreSt :=
  let c := ((c.landAll.loseLatches).zeroBank 0).addCounter 0 cGang gang
  { c with
    status := .loading 64, step := some { st with order := pt.orders, place := g }, pc := pt.mapAddr c.classB st.entry, pcHigh := 0, next := none
    reached := .none, req := .none, resvCyc := 0
    ctrl := { c.ctrl with unsettled := false }
    dom := { c.dom with table := [], queue := [], stack := [], ops := [], run := none, cancel := none, held := [] }
    flow := { Flow.reset with cyc := c.flow.cyc, portQ := c.flow.portQ, before := c.flow.before } }

theorem launched_dbg (pt : Part) (gang g : Nat) (st : StepInfo) (c : CoreSt) : (launched pt gang g st c).dbg = c.dbg := landAll_dbg c
theorem launched_pc (pt : Part) (gang g : Nat) (st : StepInfo) (c : CoreSt) :
    (launched pt gang g st c).pc = pt.mapAddr c.classB st.entry := congrArg (fun b => pt.mapAddr b st.entry) (landAll_classB c)

/-- The state after a launch but for the trace of it: the step is numbered in its partition and counted on the die, and the core has it. -/
def launchedState (s : State) (g : Nat) (st : StepInfo) (gang : Nat) : State :=
  ((s.onPart st.part fun pt => { pt with orders := pt.orders + 1 }).dieEvent (Config.dieOf g) st.part 4 gang).onCore g
    (launched (s.part st.part) gang g st)

theorem launch_eq_traceIf (s : State) (g : Nat) (st : StepInfo) :
    ∃ gang, s.launch g st = (launchedState s g st gang).traceIf g ((launchedState s g st gang).core g).dbg.trstep 6 0
      ((launchedState s g st gang).core g).pc :=
  ⟨if (s.part st.part).reserve.isSome then (s.core g).resvCyc else 0, rfl⟩

theorem placed_core_same {s : State} {g : Nat} {st : StepInfo} (known : g < 288) (gang : Nat) :
    (launchedState s g st gang).core g = launched (s.part st.part) gang g st (s.core g) := by
  rw [launchedState, State.onCore_core_same _ _ _ known, dieEvent_core, State.onPart_core]

/-- A core that does not trace its steps leaves no trace of a launch. -/
theorem launch_of_untraced {s : State} {g : Nat} {st : StepInfo} (known : g < 288) (untraced : (s.core g).dbg.trstep = false) :
    ∃ gang, s.launch g st = launchedState s g st gang := by
  obtain ⟨gang, e⟩ := launch_eq_traceIf s g st
  refine ⟨gang, e.trans (traceIf_of_off ?_ _ _ _ _)⟩
  rw [placed_core_same known, launched_dbg, untraced]

section Launch

variable {s : State} {g : Nat} {st : StepInfo} (known : g < 288) (untraced : (s.core g).dbg.trstep = false)
include known untraced

theorem launch_core_same : ∃ gang, (s.launch g st).core g = launched (s.part st.part) gang g st (s.core g) := by
  obtain ⟨gang, e⟩ := launch_of_untraced (st := st) known untraced
  exact ⟨gang, e ▸ placed_core_same known gang⟩

theorem launch_core_other {h : Nat} (other : h ≠ g) : (s.launch g st).core h = s.core h := by
  obtain ⟨gang, e⟩ := launch_of_untraced (st := st) known untraced
  rw [e, launchedState, State.onCore_core_other _ _ _ _ other, dieEvent_core, State.onPart_core]

theorem launch_ord : (s.launch g st).ord = s.ord := by
  obtain ⟨gang, e⟩ := launch_of_untraced (st := st) known untraced
  rw [e, launchedState, State.onCore_ord, dieEvent_ord, State.onPart_ord]

theorem launch_part (q : Nat) :
    (s.launch g st).part q = (s.onPart st.part fun pt => { pt with orders := pt.orders + 1 }).part q := by
  obtain ⟨gang, e⟩ := launch_of_untraced (st := st) known untraced
  rw [e, launchedState, State.onCore_part, dieEvent_part]

end Launch

end Sys2Proof.Proofs
end

section
/-! Dispatch: the choice where one block is ready, and the placing of its step. -/

namespace Sys2Proof.Proofs

open Sys2Proof.Machine Sys2Proof.Claims Sys2Proof.Laws

/-! ## The choice of a dispatch (R331, R333) -/

theorem amGet_listed {α : Type} {d : α} {m : AMap α} {k : Nat} (set : amGet d m k ≠ d) : k ∈ m.map fun x => x.1 := by
  induction m with
  | nil => exact absurd rfl set
  | cons x m ih =>
    obtain ⟨a, v⟩ := x
    simp only [amGet] at set
    split at set
    next here => exact here ▸ List.mem_cons_self
    next =>
      split at set
      · exact absurd rfl set
      · exact List.mem_cons_of_mem _ (ih set)

theorem queue_listed {s : State} {q : Nat} (enabled : (s.queue q).enabled = true) : q ∈ s.hub.queues.map fun x => x.1 :=
  amGet_listed fun reset => by
    rw [State.queue, reset] at enabled
    exact absurd enabled (by decide)

theorem gangDesc_of_no_gang {s : State} {n : Node} (alone : blkFlag n.block 2 = false) : s.gangDesc n = none := by
  rw [State.gangDesc, alone]
  rfl

theorem membersOf_of_no_gang {s : State} {n : Node} (alone : s.gangDesc n = none) : s.membersOf n = 1 := by rw [State.membersOf, alone]

theorem drr_serves {s : State} {p prio q f : Nat} {qs : List Nat} (steps : 0 < f) (ready : qs.contains q = true)
    (owed : 0 < (s.queue q).deficit) : s.drr p prio qs f (some q) = (s, some q) := by
  obtain ⟨f, rfl⟩ := Nat.exists_eq_succ_of_ne_zero steps.ne'
  simp only [State.drr, ready, owed, decide_true, Bool.and_self, if_true]

theorem reserveAge_of_none {s : State} {p : Nat} (none : (s.part p).reserve = none) : s.reserveAge p = 0 := by rw [State.reserveAge, none]

/-- The state once the scheduler has served the queue of a block whose turn it is: the round stands at that queue. -/
def blockTurn (s : State) (b : Node) : State := s.onPart b.part fun pt => { pt with rr := vset pt.rr (s.queue b.queue).prio (some b.queue) }

section OneBlock

variable {s : State} {p : Nat} {b : Node} (one : OneBlockReady s p b)
include one

theorem oneBlock_offer : (s.part p).offer (.node b.addr) = some (.block b) := congrArg (Option.map Offer.block) one.entry.2.1

theorem oneBlock_offerable : s.offerable p (.block b) = true := by
  obtain ⟨copy, begun, left, alone, free⟩ := one.more
  obtain ⟨enabled, fault, evicted⟩ := one.queue
  have offered : s.offered p (.block b) = true := by
    simp [State.offered, State.offerQueue, State.entriesOf, gangDesc_of_no_gang alone, one.served.2.1, one.bound, copy, left, alone, enabled,
      fault, evicted]
  have waits : s.tileWaits p (.block b) = false := by
    simp [State.tileWaits, Offer.node, one.entry.2.1, free]
  rw [State.offerable, offered, waits]
  rfl

theorem oneBlock_heads : s.heads p (s.part p).ready [] = [(some b.queue, .node b.addr, .block b)] := by
  have open_ : gateHolds b = false := by simp [gateHolds, one.more.2.1.ne']
  simp [one.entry.1, State.heads, oneBlock_offer one, State.offerQueue, open_, oneBlock_offerable one]

theorem oneBlock_choose : s.choose p = (blockTurn s b, some (.node b.addr, .block b)) := by
  obtain ⟨-, static, reserve, missing⟩ := one.served
  obtain ⟨pos, owed⟩ := one.turn
  have young : ¬ 20000 < s.reserveAge p := by rw [reserveAge_of_none reserve]; omega
  have served (f : Nat) (steps : 0 < f) :
      s.drr p (s.queue b.queue).prio ((s.hub.queues.map fun x => x.1).filter fun q => b.queue == q) f (some b.queue) =
        (s, some b.queue) :=
    drr_serves steps (by simpa using queue_listed one.queue.1) owed
  unfold State.choose blockTurn
  simp [one.entry.2.2, young, oneBlock_heads one, missing, reserve, dropReserve_of_none reserve, static, State.prioOf, pos, served, headWith]

end OneBlock

/-! ## What a change of a partition keeps -/

theorem onPart_part_keeps {β : Type} (view : Part → β) {s : State} {p : Nat} {f : Part → Part} (keeps : view (f (s.part p)) = view (s.part p))
    (q : Nat) : view ((s.onPart p f).part q) = view (s.part q) := by
  by_cases other : q = p
  · subst other
    by_cases inside : q < 64
    · rw [State.onPart_part_same _ _ _ inside, keeps]
    · rw [State.onPart, State.setPart, vset_outside _ _ _ inside]
  · rw [State.onPart_part_other _ _ _ _ other]

/-- What the scheduler sees of a partition when it looks for free cores (R37, R332, R372). -/
def coreView (pt : Part) : BitVec 320 × Option Image × Option Scrub := (pt.held, pt.image, pt.scrub)

theorem freeCores_onPart {s : State} {p : Nat} {f : Part → Part} (keeps : coreView (f (s.part p)) = coreView (s.part p)) (q : Nat) :
    (s.onPart p f).freeCores q = s.freeCores q := by
  have held (r : Nat) : ((s.onPart p f).part r).held = (s.part r).held := congrArg (fun x => x.1) (onPart_part_keeps coreView keeps r)
  have image (r : Nat) : ((s.onPart p f).part r).image = (s.part r).image := congrArg (fun x => x.2.1) (onPart_part_keeps coreView keeps r)
  have scrub (r : Nat) : ((s.onPart p f).part r).scrub = (s.part r).scrub := congrArg (fun x => x.2.2) (onPart_part_keeps coreView keeps r)
  simp only [State.freeCores, State.partCores, State.partHas, Part.coreBits, Part.admits, State.underScrub, held, image, scrub, State.onPart_core,
    State.onPart_pkg]
  rfl

end Sys2Proof.Proofs
end

section
/-! The placing of a block's step, and O36. -/

namespace Sys2Proof.Proofs

open Sys2Proof.Machine Sys2Proof.Claims Sys2Proof.Laws

/-! ## The placing of a step (R39, R332) -/

theorem vget_foldl_vset {α : Type} (d : α) (f : Nat → α) {m k : Nat} (v : Vector α m) (inside : k < m) :
    ∀ n, vget d ((List.range n).foldl (fun v i => vset v i (f i)) v) k = if k < n then f k else vget d v k
  | 0 => rfl
  | n + 1 => by
    rw [List.range_succ, List.foldl_append, List.foldl_cons, List.foldl_nil]
    by_cases here : k = n
    · subst here
      rw [vget_vset_same _ _ _ _ inside, if_pos (Nat.lt_succ_self k)]
    · rw [vget_vset_other _ _ _ _ _ here, vget_foldl_vset d f v inside n]
      simp only [show k < n + 1 ↔ k < n by omega]

/-- The next step of a block without a gang, as a core takes it. -/
def blockStep (s : State) (n : Node) (g limit : Nat) : StepInfo where
  part := n.part
  node := n.addr
  number := BitVec.ofNat 64 n.next
  q := (s.core g).logical
  entry := (fldW n.block 8).setWidth 60
  member := none
  isStatic := false
  elapsed := 0
  limit := limit
  gated := n.gate.isSome && decide (n.next = 0)
  order := 0
  args := (List.range 8).foldl (fun v i => vset v i (fldW n.block (0x40 + 8 * i))) (.replicate 8 0)
  coords := blkCoords n.block n.next
  need := clkZero
  prior := []
  place := 0
  orphan := false

theorem blockStep_args (s : State) (n : Node) (g limit : Nat) {k : Nat} (inside : k < 8) :
    vget 0 (blockStep s n g limit).args k = fldW n.block (0x40 + 8 * k) := by
  rw [blockStep, vget_foldl_vset 0 (fun i => fldW n.block (0x40 + 8 * i)) _ inside 8, if_pos inside]

/-- The state in which a block's step launches: the block counts it, and its queue has paid for its core. -/
def blockCounted (s : State) (n : Node) : State :=
  (s.onNode n.part n.addr fun m => { m with next := n.next + 1 }).onQueue n.queue fun x => { x with deficit := x.deficit - 1 }

/-- What a partition's ready list and its missing steps are once a block has placed its next step. -/
def blockListed (n : Node) (pt : Part) : Part :=
  { pt with
    ready := (if n.next + 1 = n.total then pt.ready.filter fun x => x != .node n.addr else pt.ready)
    missing := pt.missing.filter fun va => va != n.addr }

theorem placeBlock_of_begun {s : State} {n : Node} (alone : s.gangDesc n = none) (begun : n.next ≠ 0) (g : Nat) :
    ∃ limit, s.placeBlock n [g] =
      .ok ((((blockCounted s n).launch g (blockStep s n g limit)).dropReserve n.part).onPart n.part (blockListed n)) := by
  refine ⟨(blockCounted s n).limitOf n, ?_⟩
  unfold State.placeBlock
  simp only [alone, if_pos begun]
  rfl

theorem onNode_node? {s : State} {p : Nat} {va : W64} {f : Node → Node} (inside : p < 64) (keeps : ∀ m, (f m).addr = m.addr) :
    (s.onNode p va f).node? p va = (s.node? p va).map f := by
  have keyed : ((fun m : Node => m.addr == va) ∘ fun m => if m.addr == va then f m else m) = fun m => m.addr == va := by
    funext m
    by_cases here : m.addr = va <;> simp [here, keeps]
  rw [State.node?, State.onNode, State.onPart_part_same _ _ _ inside, List.find?_map, keyed, State.node?]
  cases found : (s.part p).nodes.find? fun m => m.addr == va with
  | none => rfl
  | some n =>
    have named := List.find?_some (p := fun m : Node => m.addr == va) found
    rw [Option.map_some, Option.map_some, if_pos named]

theorem blockCounted_node? {s : State} {n : Node} (inside : n.part < 64) (found : s.node? n.part n.addr = some n) :
    (blockCounted s n).node? n.part n.addr = some { n with next := n.next + 1 } :=
  (onNode_node? (f := fun m => { m with next := n.next + 1 }) inside fun _ => rfl).trans (congrArg (Option.map _) found)

theorem launch_node? {s : State} {g : Nat} {st : StepInfo} (known : g < 288) (untraced : (s.core g).dbg.trstep = false) (p : Nat) (va : W64) :
    (s.launch g st).node? p va = s.node? p va := by
  rw [State.node?, State.node?, launch_part known untraced, onPart_part_keeps Part.nodes (by rfl)]

/-- A block without a gang whose partition reserves no cores places its next step on one core. -/
theorem placeBlock_alone {s : State} {n : Node} {g : Nat} (alone : s.gangDesc n = none) (begun : n.next ≠ 0) (known : g < 288)
    (untraced : (s.core g).dbg.trstep = false) (reserve : (s.part n.part).reserve = none) :
    ∃ limit, s.placeBlock n [g] = .ok (((blockCounted s n).launch g (blockStep s n g limit)).onPart n.part (blockListed n)) := by
  obtain ⟨limit, e⟩ := placeBlock_of_begun alone begun g
  have counted : ((blockCounted s n).part n.part).reserve = none :=
    (onPart_part_keeps (s := s) (p := n.part) (f := fun pt => { pt with nodes := pt.nodes.map _ }) Part.reserve rfl n.part).trans reserve
  have kept : (((blockCounted s n).launch g (blockStep s n g limit)).part n.part).reserve = none := by
    rw [launch_part (s := blockCounted s n) known untraced]
    exact (onPart_part_keeps Part.reserve (by rfl) n.part).trans counted
  exact ⟨limit, by rw [e, dropReserve_of_none kept]⟩

/-! ## DISPATCH (R332) -/

theorem exec_dispatch (p : Nat) (cores : List Nat) (s : State) : exec (.dispatch p cores) s = execDispatch p cores s := rfl

section Dispatch

variable {s t : State} {p : Nat} {k : Key} {b : Node} (places : s.placesNow p = true) (free : s.freeCores p ≠ [])
  (chosen : s.choose p = (t, some (k, .block b)))
include places free chosen

theorem dispatch_places {u : State} {g : Nat} (ok : t.coresOk p [g] = true) (room : t.freeCores p ≠ []) (alone : t.gangDesc b = none)
    (placed : t.placeBlock b [g] = .ok u) : exec (.dispatch p [g]) s = .next u := by
  have enough : ¬ (t.freeCores p).length < 1 := by have := List.length_pos_iff.mpr room; omega
  rw [exec_dispatch, execDispatch, event_eq_next]
  simp [places, free, chosen, State.offerNeed, membersOf_of_no_gang alone, enough, ok, placed, State.hubNext]

theorem dispatch_reserves (few : (t.freeCores p).length < t.membersOf b) (reserve : (t.part p).reserve = none) :
    exec (.dispatch p []) s = .next (t.onPart p fun pt => { pt with reserve := some (b.addr, t.time) }) := by
  rw [exec_dispatch, execDispatch, event_eq_next]
  simp [places, free, chosen, State.offerNeed, few, reserve, State.reserveFor, Offer.node]

end Dispatch

theorem launch_loads (s : State) {g : Nat} {st : StepInfo} (known : g < 288) (untraced : (s.core g).dbg.trstep = false) :
    let c := (s.launch g st).core g
    c.status = .loading 64 ∧ c.step = some { st with order := (s.part st.part).orders, place := g } ∧
      c.pc = (s.part st.part).mapAddr (s.core g).classB st.entry ∧ c.dom.table = [] ∧ c.dom.queue = [] ∧ c.flow.mem = [] ∧
      c.flow.loops = [] ∧ c.files.slLost = .allOnes 8 := by
  obtain ⟨gang, e⟩ := launch_core_same (s := s) (st := st) known untraced
  dsimp only
  rw [e]
  exact ⟨rfl, rfl, launched_pc _ _ _ _ _, rfl, rfl, rfl, rfl, rfl⟩

/-! ## The dispatch of the only block that is ready (O36) -/

theorem coresOk_singleton {s : State} {p g : Nat} (free : g ∈ s.freeCores p) : s.coresOk p [g] = true := by simpa [State.coresOk] using free

theorem blockTurn_freeCores (s : State) (b : Node) (p : Nat) : (blockTurn s b).freeCores p = s.freeCores p := freeCores_onPart (by rfl) p
theorem blockTurn_node? (s : State) (b : Node) (p : Nat) (va : W64) : (blockTurn s b).node? p va = s.node? p va :=
  congrArg (List.find? _) (onPart_part_keeps (s := s) Part.nodes (by rfl) p)

theorem dispatch_oneBlock {s : State} {g : Nat} {b : Node} (one : OneBlockReady s b.part b) (known : g < 288) (free : g ∈ s.freeCores b.part)
    (untraced : (s.core g).dbg.trstep = false) :
    ∃ limit, exec (.dispatch b.part [g]) s =
      .next (((blockCounted (blockTurn s b) b).launch g (blockStep (blockTurn s b) b g limit)).onPart b.part (blockListed b)) := by
  have alone : (blockTurn s b).gangDesc b = none := gangDesc_of_no_gang one.more.2.2.2.1
  have reserve : ((blockTurn s b).part b.part).reserve = none := (onPart_part_keeps (s := s) Part.reserve (by rfl) b.part).trans one.served.2.2.1
  obtain ⟨limit, placed⟩ := placeBlock_alone (s := blockTurn s b) alone one.more.2.1.ne' known untraced reserve
  have room : (blockTurn s b).freeCores b.part ≠ [] := by
    rw [blockTurn_freeCores]
    exact List.ne_nil_of_mem free
  exact ⟨limit, dispatch_places one.served.1 (List.ne_nil_of_mem free) (oneBlock_choose one)
    (coresOk_singleton (by rw [blockTurn_freeCores]; exact free)) room alone placed⟩

theorem mapAddr_of_image {x y : Part} (same : x.image = y.image) (classB : Bool) (a : Addr) : x.mapAddr classB a = y.mapAddr classB a := by
  rw [Part.mapAddr, Part.mapAddr, same]

theorem blockCounted_image (s : State) (b : Node) (p : Nat) : ((blockCounted s b).part p).image = (s.part p).image :=
  onPart_part_keeps (s := s) (f := fun pt => { pt with nodes := pt.nodes.map _ }) Part.image rfl p
theorem blockTurn_image (s : State) (b : Node) (p : Nat) : ((blockTurn s b).part p).image = (s.part p).image :=
  onPart_part_keeps (s := s) Part.image (by rfl) p
theorem blockListed_node? (s : State) (b : Node) (p : Nat) (va : W64) : (s.onPart b.part (blockListed b)).node? p va = s.node? p va :=
  congrArg (List.find? _) (onPart_part_keeps (s := s) Part.nodes (by rfl) p)

/-- Settles O36: the scheduler's choice where one block is ready, the rule of the launch on a core, and the branches of DISPATCH. -/
theorem dispatchPlacesTheChosenStep : Obligations.DispatchPlacesTheChosenStep := by
  refine ⟨?oneBlock, ?chosen, ?gang, fun s g st known _ untraced => launch_loads s known untraced⟩
  case chosen => exact fun s t u p g k b _ _ _ places free chosen ok room alone placed => dispatch_places places free chosen ok room alone placed
  case gang => exact fun s t p k b _ places free chosen few reserve => dispatch_reserves places free chosen few reserve
  case oneBlock =>
    intro s p g b known inside one free untraced
    obtain rfl : b.part = p := one.entry.2.2
    obtain ⟨limit, step⟩ := dispatch_oneBlock one known free untraced
    have untraced' : ((blockCounted (blockTurn s b) b).core g).dbg.trstep = false := untraced
    obtain ⟨status, held, pc, -⟩ := launch_loads (blockCounted (blockTurn s b) b) (st := blockStep (blockTurn s b) b g limit) known untraced'
    refine ⟨_, _, step, status, held, pc.trans ?pc, rfl, rfl, rfl, rfl, fun k inside => ?args, rfl, rfl, rfl, ?node, ?ord, fun h other => ?core⟩
    case pc => exact mapAddr_of_image ((blockCounted_image _ _ _).trans (blockTurn_image _ _ _)) _ _
    case args => exact blockStep_args (blockTurn s b) b g limit inside
    case node =>
      rw [blockListed_node?]
      rw [launch_node? known untraced']
      exact blockCounted_node? inside ((blockTurn_node? _ _ _ _).trans one.entry.2.1)
    case ord =>
      rw [State.onPart_ord, launch_ord known untraced']
      rfl
    case core =>
      rw [State.onPart_core, launch_core_other known untraced' other]
      rfl

end Sys2Proof.Proofs
end

section
/-! The launch ABI, reservations that expire, and static launches (O37). -/

namespace Sys2Proof.Proofs

open Sys2Proof.Machine Sys2Proof.Claims Sys2Proof.Laws

/-! ## The launch ABI (R39) -/

theorem sreg_foldl_setSreg (a : Nat) (f : Nat → W64) (c : CoreSt) (n : Nat) (pos : 0 < a) : ∀ k, a + k ≤ 64 →
    ((List.range k).foldl (fun c i => c.setSreg (a + i) (f i)) c).sreg n = if a ≤ n ∧ n < a + k then f (n - a) else c.sreg n
  | 0, _ => by rw [if_neg (by omega)]; rfl
  | k + 1, inside => by
    rw [List.range_succ, List.foldl_append, List.foldl_cons, List.foldl_nil, CoreSt.setSreg_sreg, sreg_foldl_setSreg a f c n pos k (by omega)]
    by_cases here : n = a + k
    · subst here
      rw [if_pos ⟨rfl, by omega, by omega⟩, if_pos (by omega), Nat.add_sub_cancel_left]
    · rw [if_neg (fun h => here h.1)]
      simp only [show n < a + (k + 1) ↔ n < a + k by omega]

theorem logical_foldl_setSreg (a : Nat) (f : Nat → W64) (c : CoreSt) (k : Nat) :
    ((List.range k).foldl (fun c i => c.setSreg (a + i) (f i)) c).logical = c.logical :=
  foldl_keeps (fun x : CoreSt => x.logical) (fun _ _ => CoreSt.setSreg_logical ..) _ c

/-- The registers once the launch ABI of a block's step has loaded. -/
theorem loadAbi_sreg (c : CoreSt) {st : StepInfo} (block : st.isStatic = false) (n : Nat) :
    (c.loadAbi st).sreg n =
      if n = 1 then st.node else if 2 ≤ n ∧ n ≤ 7 then vget 0 st.coords (n - 2) else if n = 8 then st.number
      else if n = 9 then BitVec.ofNat 64 c.logical else if 10 ≤ n ∧ n ≤ 17 then vget 0 st.args (n - 10) else c.sreg n := by
  simp only [CoreSt.loadAbi, block, Bool.false_eq_true, if_false]
  rw [sreg_foldl_setSreg 10 (fun i => vget 0 st.args i) _ n (by omega) 8 (by omega), CoreSt.setSreg_sreg, CoreSt.setSreg_sreg,
    sreg_foldl_setSreg 2 (fun i => vget 0 st.coords i) _ n (by omega) 6 (by omega), CoreSt.setSreg_sreg, CoreSt.setSreg_logical,
    logical_foldl_setSreg 2 (fun i => vget 0 st.coords i), CoreSt.setSreg_logical]
  grind

theorem exec_launchAbiLoadEnd (g : Nat) (s : State) : exec (.launchAbiLoadEnd g) s = execLaunchAbiLoadEnd g s := rfl

theorem launchAbiLoadEnd_runs {s : State} {g : Nat} {st : StepInfo} (known : g < 288) (loaded : (s.core g).status = .loading 0)
    (step : (s.core g).step = some st) (open_ : s.stepOpen st = true) :
    exec (.launchAbiLoadEnd g) s = .next (s.setCore g { (s.core g).loadAbi st with status := .running }) := by
  rw [exec_launchAbiLoadEnd, execLaunchAbiLoadEnd, coreEvent_eq_next]
  exact ⟨known, by simp only [loaded, step, open_, if_true]⟩

/-! ## Reservations that end (R47) -/

/-- The state in which the cores of a partition have counted no cycle of a reservation. -/
def uncounted (s : State) (p : Nat) : State := (s.partCores p).foldl (fun s g => s.onCore g fun c => { c with resvCyc := 0 }) s

theorem uncounted_ord (s : State) (p : Nat) : (uncounted s p).ord = s.ord := by rw [uncounted, foldl_onCore_cores]
theorem uncounted_part (s : State) (p q : Nat) : (uncounted s p).part q = s.part q := by
  rw [uncounted, foldl_onCore_cores]
  rfl

theorem dropReserve_of_some {s : State} {p : Nat} (held : (s.part p).reserve ≠ none) :
    s.dropReserve p = (uncounted s p).onPart p fun pt => { pt with reserve := none } :=
  if_neg fun none => held (Option.isNone_iff_eq_none.mp none)

section DropReserve

variable (s : State) (p : Nat)

@[simp] theorem dropReserve_ord : (s.dropReserve p).ord = s.ord := by
  by_cases held : (s.part p).reserve = none
  · rw [dropReserve_of_none held]
  · rw [dropReserve_of_some held, State.onPart_ord, uncounted_ord]

theorem dropReserve_core_keeps {β : Type} (view : CoreSt → β) (keeps : ∀ c : CoreSt, view { c with resvCyc := 0 } = view c) (g : Nat) :
    view ((s.dropReserve p).core g) = view (s.core g) := by
  by_cases held : (s.part p).reserve = none
  · rw [dropReserve_of_none held]
  · rw [dropReserve_of_some held, State.onPart_core]
    exact foldl_keeps (fun t : State => view (t.core g)) (fun t h => onCore_keeps view keeps t h g) _ s

theorem dropReserve_part_same (inside : p < 64) : (s.dropReserve p).part p = { s.part p with reserve := none } := by
  by_cases held : (s.part p).reserve = none
  · rw [dropReserve_of_none held, ← held]
  · rw [dropReserve_of_some held, State.onPart_part_same _ _ _ inside, uncounted_part]

end DropReserve

theorem mem_partCores_lt {s : State} {p g : Nat} (listed : g ∈ s.partCores p) : g < 288 := List.mem_range.mp (List.mem_filter.mp listed).1

theorem dropReserve_resvCyc {s : State} {p g : Nat} (held : (s.part p).reserve ≠ none) (listed : g ∈ s.partCores p) :
    ((s.dropReserve p).core g).resvCyc = 0 := by
  have counted := core_foldl_onCore (f := fun c => { c with resvCyc := 0 }) (fun _ => rfl) (fun _ => mem_partCores_lt (s := s) (p := p)) s g
  rw [dropReserve_of_some held, State.onPart_core, uncounted, counted, if_pos listed]

theorem exec_gangReservationExpiry (p : Nat) (s : State) : exec (.gangReservationExpiry p) s = execGangReservationExpiry p s := rfl

/-- An expired reservation drops the entry of its gang, where its queue offers that entry first, behind the queue's next one. -/
theorem expireReserve_eq {s : State} {p : Nat} {va t : W64} (held : (s.part p).reserve = some (va, t)) :
    ∃ ready, s.expireReserve p = ((s.dropReserve p).onPart p fun pt => { pt with ready := ready }) ∧
      ∀ h, ((s.heads p (s.part p).ready []).find? fun h => h.2.2.node == va) = some h → ready = s.dropBehind p h.2.1 h.1 := by
  rw [State.expireReserve, held]
  exact ⟨_, rfl, fun h found => by rw [found]⟩

theorem gangReservationExpiry_expires {s : State} {p : Nat} {va t : W64} (held : (s.part p).reserve = some (va, t))
    (old : 20000 ≤ (s.time - t).toNat) :
    exec (.gangReservationExpiry p) s = .next (s.expireReserve p) := by
  have age : s.reserveAge p = (s.time - t).toNat := by rw [State.reserveAge, held]
  rw [exec_gangReservationExpiry, execGangReservationExpiry, event_eq_next]
  rw [held, age, decide_eq_true old]
  rfl

theorem offer_node {s : State} {p : Nat} {va : W64} {n : Node} (found : s.node? p va = some n) : (s.part p).offer (.node va) = some (.block n) :=
  congrArg (Option.map Offer.block) found

section TwoBlocks

variable {s : State} {p : Nat} {va : W64} {n m : Node} (ready : (s.part p).ready = [.node va, .node m.addr])
  (second : s.node? p m.addr = some m) (queue : n.queue = m.queue)
include ready second queue

theorem heads_of_two (first : s.node? p va = some n) (offer : s.offerable p (.block n) = true) (open_ : gateHolds n = false) :
    s.heads p (s.part p).ready [] = [(some n.queue, .node va, .block n)] := by
  simp [ready, State.heads, offer_node first, offer_node second, State.offerQueue, offer, open_, queue]

theorem dropBehind_of_two (distinct : va ≠ m.addr) : s.dropBehind p (.node va) (some n.queue) = [.node m.addr, .node va] := by
  simp [State.dropBehind, ready, offer_node second, State.offerQueue, queue, distinct.symm]

end TwoBlocks

theorem node?_addr {s : State} {p : Nat} {va : W64} {n : Node} (found : s.node? p va = some n) : n.addr = va :=
  eq_of_beq (List.find?_some (p := fun n : Node => n.addr == va) found)

end Sys2Proof.Proofs
end

section
/-! Static launches, and O37. -/

namespace Sys2Proof.Proofs

open Sys2Proof.Machine Sys2Proof.Claims Sys2Proof.Laws

/-! ## Launches on several cores -/

/-- Each core of a list takes a step that may depend on the state in which it launches. -/
def launchEach (make : State → Nat → StepInfo) (gs : List Nat) (s : State) : State := gs.foldl (fun s g => s.launch g (make s g)) s

/-- A partition without the number of its next step. -/
def unnumbered (pt : Part) : Part := { pt with orders := 0 }

/-- What a state keeps of another in which cores of a list have launched steps since: every partition but for its numbers, and the other cores. -/
structure SinceLaunches (gs : List Nat) (s u : State) : Prop where
  part : ∀ q, unnumbered (u.part q) = unnumbered (s.part q)
  core : ∀ h, h ∉ gs → u.core h = s.core h

theorem launch_since {s : State} {g : Nat} {st : StepInfo} (known : g < 288) (untraced : (s.core g).dbg.trstep = false) :
    SinceLaunches [g] s (s.launch g st) where
  part q := by rw [launch_part known untraced, onPart_part_keeps unnumbered rfl]
  core _ outside := launch_core_other known untraced (List.mem_singleton.not.mp outside)

theorem SinceLaunches.trans {gs hs : List Nat} {s v u : State} (first : SinceLaunches gs s v) (then_ : SinceLaunches hs v u) :
    SinceLaunches (gs ++ hs) s u where
  part q := (then_.part q).trans (first.part q)
  core h outside := by
    obtain ⟨out₁, out₂⟩ := List.mem_append.not.trans not_or |>.mp outside
    exact (then_.core h out₂).trans (first.core h out₁)

/-- A launch on each of some distinct cores that do not trace their steps: each one's step launches on the core as it was, in its turn. -/
theorem launchEach_since {make : State → Nat → StepInfo} {gs : List Nat} (known : ∀ g ∈ gs, g < 288) (distinct : gs.Nodup) {s : State}
    (untraced : ∀ g ∈ gs, (s.core g).dbg.trstep = false) :
    SinceLaunches gs s (launchEach make gs s) ∧
      ∀ g ∈ gs, ∃ hs v, g ∉ hs ∧ SinceLaunches hs s v ∧ (launchEach make gs s).core g = (v.launch g (make v g)).core g := by
  induction gs generalizing s with
  | nil => exact ⟨⟨fun _ => rfl, fun _ _ => rfl⟩, fun _ none => absurd none List.not_mem_nil⟩
  | cons g gs ih =>
    obtain ⟨fresh, distinct⟩ := List.nodup_cons.mp distinct
    have first := launch_since (st := make s g) (known g List.mem_cons_self) (untraced g List.mem_cons_self)
    have ne {x : Nat} (listed : x ∈ gs) : x ∉ [g] := fun h => fresh (List.mem_singleton.mp h ▸ listed)
    obtain ⟨rest, turns⟩ := ih (s := s.launch g (make s g)) (fun x m => known x (List.mem_cons_of_mem g m)) distinct
      fun x m => by rw [first.core x (ne m)]; exact untraced x (List.mem_cons_of_mem g m)
    refine ⟨first.trans rest, fun x listed => ?_⟩
    obtain rfl | later := List.mem_cons.mp listed
    · exact ⟨[], s, List.not_mem_nil, ⟨fun _ => rfl, fun _ _ => rfl⟩, rest.core x fresh⟩
    · obtain ⟨hs, v, out, since, e⟩ := turns x later
      exact ⟨[g] ++ hs, v, List.mem_append.not.trans not_or |>.mpr ⟨ne later, out⟩, first.trans since, e⟩

/-! ## START_VECTOR_WRITE (R43, R364) -/

theorem bindApplied_of_svReady {s : State} {p : Nat} (ready : s.svReady p = true) : s.bindApplied p = true := by
  simp only [State.svReady, State.placesNow, Bool.and_eq_true] at ready
  tauto

/-- A partition that may not place steps, runs a static launch, has a ready entry or a core that is not free is not ready for a start vector. -/
theorem svReady_eq_false {s : State} {p : Nat} (busy : (∃ g ∈ s.partCores p, (s.core g).status ≠ .free) ∨ (s.part p).ready ≠ [] ∨
    (s.part p).staticRun = true ∨ s.placesNow p = false) : s.svReady p = false := by
  by_contra ready
  simp only [Bool.not_eq_false, State.svReady, Bool.and_eq_true, Bool.not_eq_true', decide_eq_true_eq, List.all_eq_true, beq_iff_eq] at ready
  obtain ⟨⟨⟨⟨⟨places, static⟩, empty⟩, -⟩, -⟩, free⟩ := ready
  obtain ⟨g, listed, resident⟩ | entries | runs | closed := busy
  · exact resident (free g listed).1.1.1
  · exact entries empty
  · exact absurd (static.symm.trans runs) Bool.false_ne_true
  · exact absurd (closed.symm.trans places) Bool.false_ne_true

theorem svOk_iff {n : Nat} {b : List Byte} :
    svOk n b = true ↔ Machine.fld b 0 2 = n ∧ zeroAt b 2 6 = true ∧ ∀ k, k < n → Machine.fld b (0x48 + 8 * k) 8 % 4 = 0 := by
  simp [svOk, and_assoc]

/-- The step of a static launch that a core takes. -/
def staticStep (b : List Byte) (p : Nat) (s : State) (g : Nat) : StepInfo where
  part := p
  node := 0
  number := 0
  q := (s.core g).logical
  entry := (fldW b (0x48 + 8 * (s.core g).logical)).setWidth 60
  member := none
  isStatic := true
  elapsed := 0
  limit := (s.part p).inForce.wdog.toNat
  gated := false
  order := 0
  args := (List.range 8).foldl (fun v i => vset v i (fldW b (8 + 8 * i))) (.replicate 8 0)
  coords := .replicate 6 0
  need := clkZero
  prior := []
  place := g
  orphan := false

theorem staticStep_args (b : List Byte) (p : Nat) (s : State) (g : Nat) {k : Nat} (inside : k < 8) :
    vget 0 (staticStep b p s g).args k = fldW b (8 + 8 * k) := by
  rw [staticStep, vget_foldl_vset 0 (fun i => fldW b (8 + 8 * i)) _ inside 8, if_pos inside]

/-- The state in which a static launch starts: the partition runs it, and STATE of SVSTAT is 1. -/
def staticStarted (s : State) (p : Nat) : State :=
  (s.onPart p fun pt => { pt with svstat := 1 }).onPart p fun pt => { pt with staticRun := true }

section StartVector

variable {s : State} {p : Nat} {va : W64}

theorem startVector_waits (unbound : s.bindApplied p = false) : s.startVector p va = .error .wait := by
  simp only [State.startVector, unbound, Bool.not_false, if_true]

theorem startVector_busy (bound : s.bindApplied p = true) (busy : s.svReady p = false) :
    s.startVector p va = .ok (s.onPart p fun pt => { pt with svstat := pt.svstat ||| 256 }) := by
  simp only [State.startVector, bound, busy, Bool.not_true, Bool.not_false, if_true, Bool.false_eq_true, if_false]

variable (ready : s.svReady p = true)
include ready

theorem startVector_unaligned (odd : va.toNat % 64 ≠ 0) : s.startVector p va = .ok (s.onPart p fun pt => { pt with svstat := 5 }) := by
  unfold State.startVector
  simp only [bindApplied_of_svReady ready, ready, Bool.not_true, Bool.false_eq_true, if_false]
  rw [if_pos odd]
  rfl

variable {t : State} {b : List Byte} (aligned : va.toNat % 64 = 0) (read : s.hubTry p va (0x48 + 8 * (s.partCores p).length) = .ok (some b, t))
include aligned read

/-- What a start vector that has been read does: it is malformed, names an entry outside the image, or launches. -/
theorem startVector_read : s.startVector p va =
    if !svOk (s.partCores p).length b then .ok (t.onPart p fun pt => { pt with svstat := 5 })
    else if !(List.range (s.partCores p).length).all (fun k => (s.part p).entryOk (fldW b (0x48 + 8 * k))) then
      .ok (t.onPart p fun pt => { pt with svstat := pt.svstat ||| 256 })
    else .ok (launchEach (staticStep b p) ((staticStarted t p).partCores p) (staticStarted t p)) := by
  unfold State.startVector
  simp only [bindApplied_of_svReady ready, ready, Bool.not_true, Bool.false_eq_true, if_false]
  rw [if_neg (not_not_intro aligned), read]
  rfl

theorem startVector_malformed (bad : svOk (s.partCores p).length b = false) :
    s.startVector p va = .ok (t.onPart p fun pt => { pt with svstat := 5 }) := by
  rw [startVector_read ready aligned read, bad]
  rfl

variable (good : svOk (s.partCores p).length b = true)
include good

theorem startVector_outside {k : Nat} (listed : k < (s.partCores p).length) (outside : (s.part p).entryOk (fldW b (0x48 + 8 * k)) = false) :
    s.startVector p va = .ok (t.onPart p fun pt => { pt with svstat := pt.svstat ||| 256 }) := by
  have some_ : (List.range (s.partCores p).length).all (fun k => (s.part p).entryOk (fldW b (0x48 + 8 * k))) = false :=
    List.all_eq_false.mpr ⟨k, List.mem_range.mpr listed, Bool.eq_false_iff.mp outside⟩
  rw [startVector_read ready aligned read, good, some_]
  rfl

theorem startVector_launches (image : ∀ k, k < (s.partCores p).length → (s.part p).entryOk (fldW b (0x48 + 8 * k)) = true) :
    s.startVector p va = .ok (launchEach (staticStep b p) ((staticStarted t p).partCores p) (staticStarted t p)) := by
  have all : (List.range (s.partCores p).length).all (fun k => (s.part p).entryOk (fldW b (0x48 + 8 * k))) = true :=
    List.all_eq_true.mpr fun k listed => image k (List.mem_range.mp listed)
  rw [startVector_read ready aligned read, good, all]
  rfl

end StartVector

theorem exec_startVectorWrite (p : Nat) (va : W64) (s : State) : exec (.startVectorWrite p va) s = execStartVectorWrite p va s := rfl

theorem startVectorWrite_next {s t : State} {p : Nat} {va : W64} (inside : p < 64) (done : s.startVector p va = .ok t) :
    exec (.startVectorWrite p va) s = .next t := by
  rw [exec_startVectorWrite, execStartVectorWrite, event_eq_next, if_pos inside, done]
  rfl

/-! ## A static launch on every core (R43) -/

theorem partCores_onPart {s : State} {p : Nat} {f : Part → Part} (keeps : (f (s.part p)).held = (s.part p).held) (q : Nat) :
    (s.onPart p f).partCores q = s.partCores q := by
  have held : ((s.onPart p f).part q).held = (s.part q).held := onPart_part_keeps Part.held keeps q
  simp only [State.partCores, State.partHas, Part.coreBits, held]

theorem partCores_nodup (s : State) (p : Nat) : (s.partCores p).Nodup := List.nodup_range.filter _

theorem staticStarted_partCores (s : State) (p q : Nat) : (staticStarted s p).partCores q = s.partCores q :=
  (partCores_onPart (by rfl) q).trans (partCores_onPart (by rfl) q)
theorem staticStarted_part {s : State} {p : Nat} (inside : p < 64) : (staticStarted s p).part p = { s.part p with svstat := 1, staticRun := true } := by
  rw [staticStarted, State.onPart_part_same _ _ _ inside, State.onPart_part_same _ _ _ inside]

/-- Every core of the partition launches the static step that the vector names for it. -/
theorem staticLaunch_loads {s : State} {p : Nat} {b : List Byte} (inside : p < 64) (untraced : ∀ g ∈ s.partCores p, (s.core g).dbg.trstep = false) :
    let u := launchEach (staticStep b p) ((staticStarted s p).partCores p) (staticStarted s p)
    (u.part p).staticRun = true ∧ (u.part p).svstat = 1 ∧
      ∀ g ∈ s.partCores p, ∃ st, (u.core g).status = .loading 64 ∧ (u.core g).step = some st ∧ st.isStatic = true ∧
        (u.core g).pc = (s.part p).mapAddr (s.core g).classB ((fldW b (0x48 + 8 * (s.core g).logical)).setWidth 60) ∧
        ∀ k, k < 8 → vget 0 st.args k = fldW b (8 + 8 * k) := by
  rw [staticStarted_partCores]
  obtain ⟨all, turns⟩ :=
    launchEach_since (make := staticStep b p) (s := staticStarted s p) (fun _ => mem_partCores_lt) (partCores_nodup s p) untraced
  have started := all.part p
  rw [staticStarted_part inside] at started
  refine ⟨congrArg Part.staticRun started, congrArg Part.svstat started, fun g listed => ?_⟩
  obtain ⟨hs, v, out, since, e⟩ := turns g listed
  have same : v.core g = s.core g := since.core g out
  have image : (v.part p).image = (s.part p).image := (congrArg Part.image (since.part p)).trans (by rw [staticStarted_part inside]; rfl)
  obtain ⟨status, step, pc, -⟩ := launch_loads v (st := staticStep b p v g) (mem_partCores_lt listed) (by rw [same]; exact untraced g listed)
  rw [← e] at status step pc
  refine ⟨_, status, step, rfl, pc.trans ?_, fun k inside => staticStep_args b p v g inside⟩
  rw [staticStep, same]
  exact mapAddr_of_image image _ _

theorem sreg_of_status (c : CoreSt) (x : Status) (n : Nat) : ({ c with status := x } : CoreSt).sreg n = c.sreg n := rfl

/-- Settles O37: the registers that the ABI load writes, the end of a reservation, and each branch of a start vector's write. -/
theorem launchesLoadTheAbi : Obligations.LaunchesLoadTheAbi := by
  refine ⟨?abi, ?expiry, ?launches, fun s t p va inside done => startVectorWrite_next inside done, ?waits, ?busy, ?malformed, ?unaligned⟩
  case abi =>
    intro s g st known loaded step ungated block
    have open_ : s.stepOpen st = true := by rw [State.stepOpen, ungated]; rfl
    refine ⟨_, launchAbiLoadEnd_runs known loaded step open_, ?_⟩
    rw [State.setCore_core_same _ _ _ known]
    exact ⟨rfl, rfl, rfl, fun n _ => (sreg_of_status _ _ n).trans (loadAbi_sreg _ block n)⟩
  case expiry =>
    intro s p va t inside held old
    obtain ⟨ready, e, drops⟩ := expireReserve_eq held
    have reserved : (s.part p).reserve ≠ none := by rw [held]; exact Option.some_ne_none _
    refine ⟨_, gangReservationExpiry_expires held old, ?_⟩
    rw [e, State.onPart_part_same _ _ _ inside, dropReserve_part_same _ _ inside]
    refine ⟨rfl, dropReserve_ord s p, fun g _ => ⟨dropReserve_core_keeps s p CoreSt.files (fun _ => rfl) g, dropReserve_resvCyc reserved⟩, ?_⟩
    intro n m entries first second distinct queue offer open_
    have listed : ((s.heads p (s.part p).ready []).find? fun h => h.2.2.node == va) = some (some n.queue, .node va, .block n) := by
      rw [heads_of_two entries second queue first offer open_]
      simp [Offer.node, node?_addr first]
    exact (drops _ listed).trans (dropBehind_of_two entries second queue distinct)
  case launches =>
    intro s t p va b inside ready untraced aligned read count zero entries image same cores kept
    have untraced' : ∀ g ∈ t.partCores p, (t.core g).dbg.trstep = false := fun g listed => by rw [(same g).1]; exact untraced g (cores ▸ listed)
    obtain ⟨runs, state, loads⟩ := staticLaunch_loads (b := b) inside untraced'
    have done := startVector_launches ready aligned read (svOk_iff.mpr ⟨count, zero, entries⟩) image
    refine ⟨_, startVectorWrite_next inside done, runs, state, fun g listed => ?_⟩
    obtain ⟨st, status, step, static, pc, args⟩ := loads g (cores ▸ listed)
    refine ⟨st, status, step, static, pc.trans ?_, args⟩
    rw [(same g).2.1, (same g).2.2]
    exact mapAddr_of_image kept _ _
  case waits =>
    intro s p va inside unbound
    rw [exec_startVectorWrite, execStartVectorWrite, if_pos inside, startVector_waits unbound]
    rfl
  case busy => exact fun s p va inside bound busy => startVectorWrite_next inside (startVector_busy bound (svReady_eq_false busy))
  case malformed =>
    intro s t p va b inside ready aligned read
    refine ⟨fun bad => startVectorWrite_next inside (startVector_malformed ready aligned read ?_),
      fun good ⟨k, listed, outside⟩ => startVectorWrite_next inside (startVector_outside ready aligned read (svOk_iff.mpr good) listed outside)⟩
    rw [← Bool.not_eq_true, svOk_iff]
    exact bad
  case unaligned => exact fun s p va inside ready odd => startVectorWrite_next inside (startVector_unaligned ready odd)

end Sys2Proof.Proofs
end

section
/-! The retirement of steps (O39). -/

namespace Sys2Proof.Proofs

open Sys2Proof.Machine Sys2Proof.Claims Sys2Proof.Laws

/-! ## STEP_RETIREMENT (R35, R297) -/

theorem exec_stepRetirement (g : Nat) (s : State) : exec (.stepRetirement g) s = execStepRetirement g s := rfl

theorem retires_of_done {c : CoreSt} (ended : c.status = .ended) (tokens : ∀ w, w < 8 → (c.token w).out = 0) (mem : c.flow.mem = [])
    (flight : c.flow.flight = []) (run : c.dom.run = none) (ops : c.dom.ops = []) : c.retires = true := by
  have idle : (List.range 8).all (fun w => (c.token w).out == 0) = true :=
    List.all_eq_true.mpr fun w listed => beq_iff_eq.mpr (tokens w (List.mem_range.mp listed))
  simp [CoreSt.retires, ended, idle, mem, flight, run, ops]

theorem gangLeft_of_alone {s : State} {st : StepInfo} (alone : st.member = none) : s.gangLeft st = .ok s := by
  rw [State.gangLeft, alone]
  rfl

/-- A step that is no gang's member retires once its block, where it has one, has counted it: its core is free. -/
theorem stepRetirement_next {s t : State} {g : Nat} {st : StepInfo} (known : g < 288) (step : (s.core g).step = some st)
    (retires : (s.core g).retires = true) (out : s.writesOut g st = true) (alone : st.member = none)
    (counted : (if st.isStatic then .ok s else s.retireBlock g st) = .ok t) (untraced : (t.core g).dbg.trstep = false) :
    exec (.stepRetirement g) s = .next (State.launchOver st (t.onCore g CoreSt.freed)) := by
  rw [exec_stepRetirement, execStepRetirement, coreEvent_eq_next]
  refine ⟨known, ?_⟩
  simp only [step, retires, out, counted, Bool.not_true, Bool.or_self, Bool.false_eq_true, if_false, Except.bind, traceIf_of_off untraced,
    gangLeft_of_alone alone]
  rfl

theorem launchOver_cores (st : StepInfo) (s : State) : (State.launchOver st s).cores = s.cores := by
  unfold State.launchOver
  split <;> rfl
theorem launchOver_core (st : StepInfo) (s : State) (g : Nat) : (State.launchOver st s).core g = s.core g := by
  rw [State.core, State.core, launchOver_cores]
theorem launchOver_ord (st : StepInfo) (s : State) : (State.launchOver st s).ord = s.ord := by
  unfold State.launchOver
  split <;> rfl

/-- The core of a step that has retired is free, and nothing else of the cores or the memory changes. -/
theorem retired_core {t : State} {g : Nat} (known : g < 288) (st : StepInfo) :
    let u := State.launchOver st (t.onCore g CoreSt.freed)
    (u.core g).status = .free ∧ (u.core g).step = none ∧ u.ord = t.ord ∧ ∀ h, h ≠ g → u.core h = t.core h := by
  simp only [launchOver_core, launchOver_ord, State.onCore_core_same _ _ _ known]
  exact ⟨rfl, rfl, rfl, fun h other => State.onCore_core_other _ _ _ _ other⟩

theorem mem_residents {s : State} {p g : Nat} : g ∈ s.residents p ↔ g ∈ s.partCores p ∧ (s.core g).step.isSome = true := List.mem_filter

/-- The only resident step of a partition leaves none when it retires. -/
theorem residents_freed {s : State} {p g : Nat} (known : g < 288) (only : s.residents p = [g]) : (s.onCore g CoreSt.freed).residents p = [] := by
  refine List.eq_nil_iff_forall_not_mem.mpr fun h resident => ?_
  obtain ⟨listed, step⟩ := mem_residents.mp resident
  by_cases same : h = g
  · rw [same, State.onCore_core_same _ _ _ known] at step
    exact absurd step Bool.false_ne_true
  · rw [State.onCore_core_other _ _ _ _ same] at step
    have other : h ∈ s.residents p := mem_residents.mpr ⟨listed, step⟩
    rw [only] at other
    exact same (List.mem_singleton.mp other)

/-- With its last step a static launch is over. -/
theorem launchOver_last {s : State} {st : StepInfo} (inside : st.part < 64) (static : st.isStatic = true) (residents : s.residents st.part = [])
    (saved : (s.part st.part).saved = []) (restarts : (s.part st.part).restarts = []) :
    (State.launchOver st s).part st.part = { s.part st.part with staticRun := false, svstat := (s.part st.part).svstat &&& 256 ||| 2 } := by
  rw [State.launchOver, if_pos (by simp [static, residents, saved, restarts])]
  exact State.onPart_part_same _ _ _ inside

/-- Settles O39: the retirement of a step that is no gang's member, on a static launch and of a block, and the end of the launch. -/
theorem stepsRetire : Obligations.StepsRetire := by
  intro s g st known inside step ended tokens mem flight run ops out untraced
  have retires := retires_of_done ended tokens mem flight run ops
  refine ⟨fun static alone => ?_, fun block alone gone => ?_, fun t block alone counted untraced' => ?_⟩
  · have next := stepRetirement_next known step retires out alone (t := s) (if_pos static) untraced
    obtain ⟨status, left, ord, others⟩ := retired_core (t := s) known st
    refine ⟨_, next, status, left, ord, others, fun only saved restarts => ?_⟩
    rw [launchOver_last inside static (residents_freed known only) saved restarts]
    exact ⟨rfl, rfl⟩
  · have counted : s.retireBlock g st = .ok s := by rw [State.retireBlock, gone]
    have next := stepRetirement_next known step retires out alone (by rw [block, if_neg Bool.false_ne_true, counted]) untraced
    obtain ⟨status, left, ord, -⟩ := retired_core (t := s) known st
    exact ⟨_, next, status, left, ord⟩
  · have next := stepRetirement_next known step retires out alone (by rw [block, if_neg Bool.false_ne_true, counted]) untraced'
    obtain ⟨status, -, ord, -⟩ := retired_core (t := t) known st
    exact ⟨_, next, status, ord⟩

end Sys2Proof.Proofs
end

section
/-! Requests to save and to yield, and the ends of slices (O40). -/

namespace Sys2Proof.Proofs

open Sys2Proof.Machine Sys2Proof.Claims Sys2Proof.Laws

/-! ## PREEMPTION_REQUEST (R334) -/

theorem mates_of_alone {s : State} {g : Nat} {st : StepInfo} (step : (s.core g).step = some st) (alone : st.member = none) : s.mates g = [g] := by
  simp [State.mates, step, StepInfo.gang, alone]

theorem exec_preemptionRequest (g : Nat) (s : State) : exec (.preemptionRequest g) s = execPreemptionRequest g s := rfl

/-- The core on which a step is asked to save itself. -/
def askedToSave (c : CoreSt) : CoreSt := { c with req := { c.req with preempt := true } }

theorem preemptionRequest_asks {s : State} {g : Nat} {st : StepInfo} (known : g < 288) (step : (s.core g).step = some st) (alone : st.member = none)
    (fresh : (s.core g).req.preempt = false) (ended : s.sliceOver st.part = true) (slots : (s.part st.part).slots ≠ []) :
    exec (.preemptionRequest g) s = .next ((s.onCore g askedToSave).dropReserve st.part) := by
  rw [exec_preemptionRequest, execPreemptionRequest, coreEvent_eq_next]
  refine ⟨known, ?_⟩
  simp only [step, mates_of_alone step alone, fresh, slots, ended, decide_false, Bool.or_self, Bool.false_eq_true, if_false, Bool.true_or, if_true]
  rfl

/-! ## YIELD (R46, R335) -/

theorem argmax_mem {f : Nat → Int} {xs : List Nat} {y : Nat} (found : argmax f xs = some y) : y ∈ xs := by
  induction xs generalizing y with
  | nil => exact absurd found (by simp [argmax])
  | cons x xs ih =>
    rw [argmax] at found
    split at found
    · exact Option.some.inj found ▸ List.mem_cons_self
    next z rest =>
      split at found
      · exact Option.some.inj found ▸ List.mem_cons_self
      · exact Option.some.inj found ▸ List.mem_cons_of_mem x (ih rest)

/-- A member above all the others is the greatest. -/
theorem argmax_eq_some {f : Nat → Int} {xs : List Nat} {g : Nat} (listed : g ∈ xs) (above : ∀ h ∈ xs, h ≠ g → f h < f g) :
    argmax f xs = some g := by
  induction xs with
  | nil => exact absurd listed List.not_mem_nil
  | cons x xs ih =>
    rw [argmax]
    by_cases first : x = g
    · subst first
      split
      · rfl
      next y rest =>
        have le : f y ≤ f x := by
          by_cases same : y = x
          · rw [same]
          · exact (above y (List.mem_cons_of_mem x (argmax_mem rest)) same).le
        rw [if_pos le]
    · have later : g ∈ xs := (List.mem_cons.mp listed).resolve_left (Ne.symm first)
      have lower := above x List.mem_cons_self first
      rw [ih later fun h m => above h (List.mem_cons_of_mem x m)]
      exact if_neg (by omega)

/-- The one block of a partition has a step missing, which only the waiting steps of that block can make room for (R46). -/
structure OneBlockWaits (s : State) (p g : Nat) (st : StepInfo) (n : Node) : Prop where
  step : (s.core g).step = some st ∧ st.isStatic = false ∧ n.addr = st.node ∧ g ∈ s.residents p
  block : (s.part p).nodes = [n] ∧ .node n.addr ∈ (s.part p).ready ∧ s.offerable p (.block n) = true ∧ gateHolds n = false
  fresh : (s.part p).missing = [] ∧ s.freeCores p = []
  waits : s.atWaitComma g = true ∧ (s.core g).asked = false
  others : ∀ h ∈ s.residents p, h ≠ g → ∀ t, (s.core h).step = some t → t.node = st.node → t.isStatic = false →
    s.atWaitComma h = true ∧ (s.core h).asked = false ∧ st.order < t.order

section OneBlockWaits

variable {s : State} {p g : Nat} {st : StepInfo} {n : Node} (one : OneBlockWaits s p g st n)
include one

theorem oneBlockWaits_missingOf : s.missingOf p n.addr = some (.node n.addr, .block n) := by
  obtain ⟨nodes, ready, offer, open_⟩ := one.block
  have found : s.node? p n.addr = some n := by simp [State.node?, nodes]
  simp [State.missingOf, ready, offer_node found, offer, open_]

theorem oneBlockWaits_yieldSets : (s.part p).yieldSets = [[n.addr]] := by simp [Part.yieldSets, one.block.1]

theorem oneBlockWaits_mem {h : Nat} : h ∈ s.residentsOf p [n.addr] ↔
    h ∈ s.residents p ∧ ∃ t, (s.core h).step = some t ∧ t.node = st.node ∧ t.isStatic = false := by
  rw [State.residentsOf, List.mem_filter, one.step.2.2.1]
  refine and_congr_right fun _ => ?_
  cases (s.core h).step <;> simp

/-- Every resident step of the block waits at a comma and is asked nothing. -/
theorem oneBlockWaits_all {h : Nat} (listed : h ∈ s.residentsOf p [n.addr]) : s.atWaitComma h = true ∧ (s.core h).asked = false := by
  obtain ⟨resident, t, step, node, block⟩ := (oneBlockWaits_mem one).mp listed
  by_cases same : h = g
  · exact same ▸ one.waits
  · obtain ⟨waits, fresh, -⟩ := one.others h resident same t step node block
    exact ⟨waits, fresh⟩

theorem oneBlockWaits_oldest : s.oldest (s.residentsOf p [n.addr]) = some g := by
  refine argmax_eq_some ((oneBlockWaits_mem one).mpr ⟨one.step.2.2.2, st, one.step.1, rfl, one.step.2.1⟩) fun h listed other => ?_
  obtain ⟨resident, t, step, node, block⟩ := (oneBlockWaits_mem one).mp listed
  have younger := (one.others h resident other t step node block).2.2
  simp only [step, one.step.1]
  omega

theorem oneBlockWaits_yielderOf : s.yielderOf p [n.addr] = some (n.addr, g) := by
  have asked : ((s.residentsOf p [n.addr]).any fun h => (s.core h).asked) = false :=
    List.any_eq_false.mpr fun h listed => Bool.eq_false_iff.mp (oneBlockWaits_all one listed).2
  have waits : (s.residentsOf p [n.addr]).all s.atWaitComma = true := List.all_eq_true.mpr fun h listed => (oneBlockWaits_all one listed).1
  simp [State.yielderOf, oneBlockWaits_missingOf one, oneBlockWaits_yieldSets one, Offer.node, asked, one.fresh, waits, oneBlockWaits_oldest one]

end OneBlockWaits

theorem exec_yield (g : Nat) (s : State) : exec (.yield g) s = execYield g s := rfl

/-- The core on which a step is asked to yield. -/
def askedToYield (c : CoreSt) : CoreSt := { c with req := { c.req with yield := true } }

theorem yieldAt_of_alone {s : State} {p g : Nat} {st : StepInfo} {va : W64} (step : (s.core g).step = some st) (alone : st.member = none) :
    s.yieldAt p va g = (s.onCore g askedToYield).onPart p fun pt =>
      { pt with missing := if pt.missing.contains va then pt.missing else pt.missing ++ [va] } := by
  rw [State.yieldAt, mates_of_alone step alone]
  rfl

theorem yield_asks {s : State} {g : Nat} {st : StepInfo} {n : Node} (known : g < 288) (one : OneBlockWaits s st.part g st n)
    (may : s.mayYield st.part = true) :
    exec (.yield g) s = .next ((s.yieldAt st.part n.addr g).onPart st.part fun pt => pt.setDue [n.addr] none) := by
  rw [exec_yield, execYield, coreEvent_eq_next]
  refine ⟨known, ?_⟩
  simp [one.step.1, may, oneBlockWaits_yieldSets one, oneBlockWaits_yielderOf one]

/-! ## SLICE_END (R336) -/

theorem exec_sliceEnd (a b : Nat) (s : State) : exec (.sliceEnd a b) s = execSliceEnd a b s := rfl

/-- The state in which a partition's slice has ended: it reserves no cores, and no step of it is missing. -/
def sliceEnded (s : State) (a : Nat) : State := (s.dropReserve a).onPart a fun pt => { pt.endSlice with missing := [], yieldDue := [] }

/-- What the end of a slice leaves of a partition until its cores pass: the entry in force, its cores and its scrub. -/
def entryView (pt : Part) : Option PartEntry × BitVec 320 × Option Scrub := (pt.loaded, pt.held, pt.scrub)

theorem dropReserve_part_keeps {β : Type} (view : Part → β) (keeps : ∀ pt : Part, view { pt with reserve := none } = view pt)
    (s : State) (p q : Nat) :
    view ((s.dropReserve p).part q) = view (s.part q) := by
  by_cases held : (s.part p).reserve = none
  · rw [dropReserve_of_none held]
  · rw [dropReserve_of_some held, onPart_part_keeps view (keeps _), uncounted_part]

theorem sliceEnded_entryView (s : State) (a q : Nat) : entryView ((sliceEnded s a).part q) = entryView (s.part q) :=
  (onPart_part_keeps entryView (by rfl) q).trans (dropReserve_part_keeps entryView (fun _ => rfl) s a q)

theorem sliceEnded_core_keeps {β : Type} (view : CoreSt → β) (keeps : ∀ c : CoreSt, view { c with resvCyc := 0 } = view c)
    (s : State) (a g : Nat) :
    view ((sliceEnded s a).core g) = view (s.core g) := dropReserve_core_keeps s a view keeps g
theorem sliceEnded_ord (s : State) (a : Nat) : (sliceEnded s a).ord = s.ord := dropReserve_ord s a
theorem sliceEnded_vfOf (s : State) (a : Nat) : (sliceEnded s a).vfOf a = s.vfOf a := by
  have loaded : ((sliceEnded s a).part a).loaded = (s.part a).loaded := congrArg (fun x => x.1) (sliceEnded_entryView s a a)
  rw [State.vfOf, State.vfOf, Part.inForce, Part.inForce, loaded]

/-- A slice has ended whose cores another partition, or the same one, may take in turn. -/
structure SliceMayPass (s : State) (a b : Nat) : Prop where
  inside : a < 64
  next : s.nextSharer a = b
  ended : (s.part a).loaded ≠ none ∧ s.sliceOver a = true ∧ s.residents a = []
  quiet : (s.part a).resetting = none ∧ (s.part a).scrub = none ∧ (s.part b).resetting = none ∧ (s.part b).scrub = none

theorem sliceEnd_next {s : State} {a b : Nat} (may : SliceMayPass s a b) :
    exec (.sliceEnd a b) s = .next (
      let t := if b = a then sliceEnded s a else (sliceEnded s a).passCores a ((sliceEnded s a).vfOf a) b ((s.part a).passes (s.part b))
      t.onPart a fun pt => pt.startSlice t.time) := by
  obtain ⟨loaded, ended, residents⟩ := may.ended
  obtain ⟨q₁, q₂, q₃, q₄⟩ := may.quiet
  have inside : ¬ 64 ≤ a := by have := may.inside; omega
  have loaded' : (s.part a).loaded.isNone = false := Bool.eq_false_iff.mpr fun none => loaded (Option.isNone_iff_eq_none.mp none)
  rw [exec_sliceEnd, execSliceEnd, event_eq_next]
  simp only [inside, may.next, loaded', ended, residents, q₁, q₂, q₃, q₄, decide_false, bne_self_eq_false, Bool.or_self, Bool.not_true, ne_eq,
    not_true_eq_false, Option.isSome_none, Bool.false_eq_true, if_false]
  rfl

/-! ## The change of tenant (R336, R369) -/

/-- Where a list has only one value, a search in it that falls back to its head gives that value. -/
theorem getD_of_only {qs : List Nat} {b d : Nat} {f : Nat → Bool} (listed : b ∈ qs) (only : ∀ q ∈ qs, q = b) :
    ((qs.find? f).or qs.head?).getD d = b := by
  cases found : qs.find? f with
  | some q => exact only q (List.mem_of_find?_eq_some found)
  | none => cases qs with
    | nil => exact absurd listed List.not_mem_nil
    | cons q qs => exact only q List.mem_cons_self

section Share

variable {s : State} {a b : Nat} (share : ShareBySlice s a b)
include share

theorem share_shares : (s.part b).shares (s.part a).held = true := by
  have loaded : (s.part b).loaded.isSome = true := Option.isSome_iff_ne_none.mpr share.loaded.2
  have wants : (s.part b).inForce.want &&& (s.part a).held ≠ 0 := share.waits.2
  rw [Part.shares, loaded, decide_eq_true wants]
  rfl

theorem share_only {q : Nat} (inside : q < 64) (other : q ≠ a) (shares : (s.part q).shares (s.part a).held = true) : q = b := by
  by_contra third
  rw [Part.shares, share.alone q inside other third] at shares
  exact absurd shares Bool.false_ne_true

theorem share_nextSharer : s.nextSharer a = b := by
  obtain ⟨-, inside, distinct⟩ := share.two
  unfold State.nextSharer
  refine getD_of_only (List.mem_filter.mpr ⟨List.mem_range.mpr inside, ?_⟩) fun q listed => ?_
  · rw [share_shares share, decide_eq_true share.waits.1, bne_iff_ne.mpr distinct.symm]
    rfl
  · obtain ⟨known, sharer⟩ := List.mem_filter.mp listed
    simp only [Bool.and_eq_true, bne_iff_ne] at sharer
    obtain ⟨⟨other, shares⟩, -⟩ := sharer
    exact share_only share (List.mem_range.mp known) other shares

theorem share_passes : (s.part a).passes (s.part b) = (s.part a).held := by
  rw [Part.passes, if_neg share.sliced.1, if_neg share.sliced.2]
  exact (congrArg ((s.part a).held &&& ·) BitVec.not_zero).trans BitVec.and_allOnes

end Share

theorem share_mayPass {s : State} {a b : Nat} (share : ShareBySlice s a b) (ended : s.sliceOver a = true) (residents : s.residents a = []) :
    SliceMayPass s a b where
  inside := share.two.1
  next := share_nextSharer share
  ended := ⟨share.loaded.1, ended, residents⟩
  quiet := share.quiet

section PassCores

variable (s : State) {a b : Nat} (vf : Nat) (m : BitVec 320) (distinct : a ≠ b)
include distinct

theorem passCores_outgoing (inside : a < 64) : (s.passCores a vf b m).part a = { s.part a with held := (s.part a).held &&& ~~~m } := by
  rw [State.passCores, State.onPart_part_other _ _ _ _ distinct, State.onPart_part_same _ _ _ inside]

theorem passCores_incoming (inside : b < 64) :
    ((s.passCores a vf b m).part b).held = (s.part b).held ||| m ∧
      ((s.passCores a vf b m).part b).scrub = some { reason := .slice, cores := (List.range 288).filter m.getLsbD, cleared := false, found := [],
                                                     outgoing := some (a, vf) } := by
  rw [State.passCores, State.onPart_part_same _ _ _ inside, State.onPart_part_other _ _ _ _ distinct.symm]
  exact ⟨rfl, rfl⟩

end PassCores

theorem startSlice_of_held_zero {pt : Part} {now : W64} (empty : pt.held = 0) : pt.startSlice now = { pt with slice := none } :=
  if_pos (Or.inr empty)

theorem partCores_eq (s : State) (p : Nat) : s.partCores p = (List.range 288).filter (s.part p).held.getLsbD :=
  List.filter_congr fun g listed => by
    have inside : g < Config.nCores := List.mem_range.mp listed
    rw [State.partHas, decide_eq_true inside, Bool.true_and]
    rfl

/-- Settles O40: the branches of the requests, the oldest of the waiting steps, and the sharers that a slice's end finds. -/
theorem requestsAndSlicesPassCores : Obligations.RequestsAndSlicesPassCores := by
  refine ⟨?preempt, ?yields, ?shared, ?alone⟩
  case preempt =>
    intro s g st known step inside alone fresh ended slots
    refine ⟨_, preemptionRequest_asks known step alone fresh ended slots, ?_, ?_, fun h other => ?_, ?_⟩
    · rw [dropReserve_core_keeps _ _ (fun c => c.req) (fun _ => rfl), State.onCore_core_same _ _ _ known]
      rfl
    · rw [dropReserve_part_same _ _ inside]
    · rw [dropReserve_core_keeps _ _ (fun c => c.req) (fun _ => rfl), State.onCore_core_other _ _ _ _ other]
    · rw [dropReserve_ord, State.onCore_ord]
  case yields =>
    intro s g st n known step inside alone block resident nodes named ready offer open_ missing full waits fresh others slots young
    have one : OneBlockWaits s st.part g st n :=
      ⟨⟨step, block, named, resident⟩, ⟨nodes, ready, offer, open_⟩, ⟨missing, full⟩, ⟨waits, fresh⟩, others⟩
    have may : s.mayYield st.part = true := by
      have none : ((s.residents st.part).any s.stepExpired) = false :=
        List.any_eq_false.mpr fun h listed => Bool.eq_false_iff.mp (young h listed)
      rw [State.mayYield, decide_eq_true slots, none]
      rfl
    refine ⟨_, yield_asks known one may, ?_⟩
    rw [yieldAt_of_alone step alone]
    refine ⟨?_, ?_, fun h other => ?_, rfl⟩
    · rw [State.onPart_core, State.onPart_core, State.onCore_core_same _ _ _ known]
      rfl
    · rw [State.onPart_part_same _ _ _ inside, State.onPart_part_same _ _ _ inside, State.onCore_part, ← named]
      simp [Part.setDue, missing]
    · rw [State.onPart_core, State.onPart_core, State.onCore_core_other _ _ _ _ other]
  case shared =>
    intro s a b share ended residents
    obtain ⟨inA, inB, distinct⟩ := share.two
    have next := sliceEnd_next (share_mayPass share ended residents)
    rw [if_neg distinct.symm, share_passes share, sliceEnded_vfOf] at next
    have held (q : Nat) : ((sliceEnded s a).part q).held = (s.part q).held := congrArg (fun x => x.2.1) (sliceEnded_entryView s a q)
    obtain ⟨gains, scrub⟩ := passCores_incoming (sliceEnded s a) (s.vfOf a) (s.part a).held distinct inB
    have loses : (((sliceEnded s a).passCores a (s.vfOf a) b (s.part a).held).part a).held = 0 := by
      rw [passCores_outgoing _ _ _ distinct inA, held]
      exact BitVec.and_not_self _
    refine ⟨_, next, ?_⟩
    dsimp only
    rw [State.onPart_part_same _ _ _ inA, State.onPart_part_other _ _ _ _ distinct.symm, startSlice_of_held_zero loses, partCores_eq]
    refine ⟨loses, ?_, rfl, scrub, fun g _ => ⟨?_, ?_⟩, sliceEnded_ord s a⟩
    · rw [gains, held, share.waits.1]
      exact BitVec.zero_or
    · exact sliceEnded_core_keeps CoreSt.files (fun _ => rfl) s a g
    · exact sliceEnded_core_keeps CoreSt.step (fun _ => rfl) s a g
  case alone =>
    intro s a inside next loaded _ ended residents resets scrub
    have step := sliceEnd_next (s := s) (a := a) (b := a) ⟨inside, next, ⟨loaded, ended, residents⟩, ⟨resets, scrub, resets, scrub⟩⟩
    rw [if_pos rfl] at step
    have kept := sliceEnded_entryView s a a
    refine ⟨_, step, ?_⟩
    dsimp only
    rw [State.onPart_part_same _ _ _ inside, startSlice_kept]
    refine ⟨congrArg (fun x => x.2.1) kept, (congrArg (fun x => x.2.2) kept).trans scrub, fun g _ => ?_, sliceEnded_ord s a⟩
    exact sliceEnded_core_keeps CoreSt.files (fun _ => rfl) s a g

end Sys2Proof.Proofs
end

section
/-! The round trip of the encoding: an instruction's word under any guard, the bundle that holds it alone, and the events without words. -/

namespace Sys2Proof.Proofs

open Sys2Proof.Laws

/-! ## Words (R57 to R60, R71 to R78) -/

/-- The decoder of each slot kind reads back what the encoder writes, instruction by instruction; an event has no word. -/
theorem roundTrip (i : Instr) : RoundTrip.Statement i := by
  cases i
  any_goals exact trivial
  exacts [RoundTrip.add _ _ _, RoundTrip.sub _ _ _, RoundTrip.and _ _ _, RoundTrip.or _ _ _, RoundTrip.xor _ _ _, RoundTrip.andn _ _ _,
    RoundTrip.shl _ _ _, RoundTrip.shr _ _ _, RoundTrip.sar _ _ _, RoundTrip.min _ _ _, RoundTrip.max _ _ _, RoundTrip.minu _ _ _,
    RoundTrip.maxu _ _ _, RoundTrip.adds _ _ _, RoundTrip.subs _ _ _, RoundTrip.mul _ _ _, RoundTrip.mulh _ _ _, RoundTrip.mulhu _ _ _,
    RoundTrip.div _ _ _, RoundTrip.divu _ _ _, RoundTrip.rem _ _ _, RoundTrip.remu _ _ _, RoundTrip.addi _ _ _, RoundTrip.andi _ _ _,
    RoundTrip.ori _ _ _, RoundTrip.xori _ _ _, RoundTrip.shli _ _ _, RoundTrip.shri _ _ _, RoundTrip.sari _ _ _, RoundTrip.movq _ _ _ _,
    RoundTrip.cmpeq _ _ _, RoundTrip.cmpne _ _ _, RoundTrip.cmplt _ _ _, RoundTrip.cmple _ _ _, RoundTrip.cmpltu _ _ _,
    RoundTrip.cmpleu _ _ _, RoundTrip.cmpeqi _ _ _, RoundTrip.cmpnei _ _ _, RoundTrip.cmplti _ _ _, RoundTrip.cmplei _ _ _,
    RoundTrip.cmpltui _ _ _, RoundTrip.cmpleui _ _ _, RoundTrip.pand _ _ _, RoundTrip.por _ _ _, RoundTrip.pxor _ _ _,
    RoundTrip.pandn _ _ _, RoundTrip.movps _, RoundTrip.movsp _, RoundTrip.rdcnt _ _, RoundTrip.rdtime _, RoundTrip.rddesc _ _,
    RoundTrip.fadd _ _ _ _ _, RoundTrip.fsub _ _ _ _ _, RoundTrip.fmul _ _ _ _ _, RoundTrip.fma _ _ _ _ _, RoundTrip.fcmpeq _ _ _ _,
    RoundTrip.fcmplt _ _ _ _, RoundTrip.fcmple _ _ _ _, RoundTrip.fcmpun _ _ _ _, RoundTrip.cvtF64I64 _ _ _, RoundTrip.cvtI64F64 _ _ _,
    RoundTrip.cvtF32I64 _ _ _, RoundTrip.cvtI64F32 _ _ _, RoundTrip.cvtF32F64 _ _ _, RoundTrip.cvtF64F32 _ _, RoundTrip.br _,
    RoundTrip.call _, RoundTrip.brr _, RoundTrip.callr _, RoundTrip.ret, RoundTrip.loop _ _, RoundTrip.loopr _ _, RoundTrip.wait _,
    RoundTrip.waitph _ _ _ _, RoundTrip.waitbit _ _ _ _, RoundTrip.bar _, RoundTrip.fence _, RoundTrip.endStep, RoundTrip.trap _,
    RoundTrip.trapack, RoundTrip.tret, RoundTrip.crrd _ _, RoundTrip.crwr _ _, RoundTrip.dadd _ _ _ _, RoundTrip.dsub _ _ _ _,
    RoundTrip.dmul _ _ _ _, RoundTrip.dmin _ _ _ _, RoundTrip.dmax _ _ _ _, RoundTrip.deq _ _ _, RoundTrip.dne _ _ _,
    RoundTrip.dlt _ _ _, RoundTrip.dle _ _ _, RoundTrip.deqi _ _ _, RoundTrip.dnei _ _ _, RoundTrip.dlti _ _ _, RoundTrip.dlei _ _ _,
    RoundTrip.dgti _ _ _, RoundTrip.dgei _ _ _, RoundTrip.din _ _ _ _, RoundTrip.dnotin _ _ _ _, RoundTrip.delem _ _ _ _,
    RoundTrip.dset _ _ _ _, RoundTrip.dseti _ _ _, RoundTrip.dlab _ _ _, RoundTrip.dval _ _ _, RoundTrip.dsize _ _ _,
    RoundTrip.dlo _ _ _, RoundTrip.dhi _ _ _, RoundTrip.dsettle _, RoundTrip.dclr, RoundTrip.dopen _, RoundTrip.dclose,
    RoundTrip.vadd _ _ _ _ _ _, RoundTrip.vsub _ _ _ _ _ _, RoundTrip.vadds _ _ _ _ _ _, RoundTrip.vaddsu _ _ _ _ _ _,
    RoundTrip.vsubs _ _ _ _ _ _, RoundTrip.vsubsu _ _ _ _ _ _, RoundTrip.vmul _ _ _ _ _ _, RoundTrip.vmin _ _ _ _ _ _,
    RoundTrip.vmax _ _ _ _ _ _, RoundTrip.vminu _ _ _ _ _ _, RoundTrip.vmaxu _ _ _ _ _ _, RoundTrip.vshl _ _ _ _ _ _,
    RoundTrip.vshr _ _ _ _ _ _, RoundTrip.vsar _ _ _ _ _ _, RoundTrip.vand _ _ _ _ _, RoundTrip.vor _ _ _ _ _, RoundTrip.vxor _ _ _ _ _,
    RoundTrip.vandn _ _ _ _ _, RoundTrip.vmov _ _ _ _, RoundTrip.vsel _ _ _ _ _, RoundTrip.vperm _ _ _ _ _, RoundTrip.vbcast _ _ _ _,
    RoundTrip.vidx _ _ _, RoundTrip.vcmpeq _ _ _ _ _, RoundTrip.vcmplt _ _ _ _ _, RoundTrip.vcmple _ _ _ _ _,
    RoundTrip.vcmpltu _ _ _ _ _, RoundTrip.vcmpleu _ _ _ _ _, RoundTrip.vfcmpeq _ _ _ _ _, RoundTrip.vfcmplt _ _ _ _ _,
    RoundTrip.vfcmple _ _ _ _ _, RoundTrip.vfcmpun _ _ _ _ _, RoundTrip.kand _ _ _ _ _, RoundTrip.kor _ _ _ _ _,
    RoundTrip.kxor _ _ _ _ _, RoundTrip.kandn _ _ _ _ _, RoundTrip.vfadd _ _ _ _ _ _, RoundTrip.vfsub _ _ _ _ _ _,
    RoundTrip.vfmul _ _ _ _ _ _, RoundTrip.vfma _ _ _ _ _ _, RoundTrip.vfmin _ _ _ _ _, RoundTrip.vfmax _ _ _ _ _,
    RoundTrip.vfabs _ _ _ _, RoundTrip.vfneg _ _ _ _, RoundTrip.vrcp _ _ _ _, RoundTrip.vrsqrt _ _ _ _, RoundTrip.vexp2 _ _ _ _,
    RoundTrip.vlog2 _ _ _ _, RoundTrip.vradd _ _ _ _ _, RoundTrip.vrmax _ _ _ _ _, RoundTrip.vrmin _ _ _ _ _, RoundTrip.vxc _ _ _ _ _,
    RoundTrip.vcvt _ _ _ _ _ _, RoundTrip.afromv _ _, RoundTrip.atov _ _, RoundTrip.adot _ _ _, RoundTrip.adotm _ _ _ _,
    RoundTrip.ascl _ _, RoundTrip.ascli _ _, RoundTrip.amag _ _, RoundTrip.aneg _ _, RoundTrip.aadd _ _ _, RoundTrip.asub _ _ _,
    RoundTrip.alerp _ _ _ _, RoundTrip.azero _, RoundTrip.asetn _ _, RoundTrip.mma _ _ _ _ _ _, RoundTrip.mmaq _ _ _ _ _,
    RoundTrip.msca _ _ _ _ _, RoundTrip.mzero _ _ _, RoundTrip.mret _ _ _ _ _, RoundTrip.mrets _ _ _ _ _, RoundTrip.mcvt _ _ _ _ _ _ _,
    RoundTrip.mtr _ _ _ _, RoundTrip.mldl _ _ _ _, RoundTrip.mtrs _ _ _ _ _, RoundTrip.msetma _ _ _, RoundTrip.lds _ _ _ _,
    RoundTrip.ldv _ _ _ _, RoundTrip.ald _ _ _, RoundTrip.tld _ _ _ _, RoundTrip.tldw _ _ _, RoundTrip.sts _ _ _ _,
    RoundTrip.stv _ _ _ _, RoundTrip.ast _ _ _, RoundTrip.tst _ _ _ _, RoundTrip.amoadd _ _ _ _, RoundTrip.amoswp _ _ _ _,
    RoundTrip.amocas _ _ _ _, RoundTrip.amomin _ _ _ _, RoundTrip.amomax _ _ _ _, RoundTrip.amoand _ _ _ _, RoundTrip.amoor _ _ _ _,
    RoundTrip.binit _ _ _ _, RoundTrip.arrive _ _ _ _, RoundTrip.xtld _ _ _ _ _, RoundTrip.xtst _ _ _ _ _, RoundTrip.xcpy _ _ _ _,
    RoundTrip.pput _ _ _ _, RoundTrip.pget _ _ _ _, RoundTrip.xset _ _, RoundTrip.xgo _]

theorem encodeOp_of_kind {i : Instr} {k : SlotKind} (kind : i.kind = some k) (wf : i.wf = true) :
    ∃ p, encodeOp i = some p ∧ decodeOp k p.1 p.2 = .ok i := by
  have read := roundTrip i
  cases word : encodeOp i with
  | none => simp only [RoundTrip.Statement, kind, word] at read
  | some p =>
    simp only [RoundTrip.Statement, kind, word] at read
    exact ⟨p, rfl, read wf⟩

/-- A slot is its guard, the guard's sense, its opcode and its operands (R57). -/
theorem decodeSlot_append (k : SlotKind) (gp : BitVec 4) (gs : Bool) (o : BitVec 9) (x : BitVec 26) {i : Instr} (read : decodeOp k o x = .ok i) :
    decodeSlot k (gp ++ bit1 gs ++ o ++ x) = .ok { gp := gp, gs := gs, op := i } := by
  have guard : fld 36 4 (gp ++ bit1 gs ++ o ++ x) = gp :=
    (app_hi _ _ _ _ (by decide)).trans ((app_hi _ _ _ _ (by decide)).trans ((app_hi _ _ _ _ (by decide)).trans (fld_all _)))
  have sense : (gp ++ bit1 gs ++ o ++ x).getLsbD 35 = gs :=
    getLsbD_of ((app_hi _ _ _ _ (by decide)).trans ((app_hi _ _ _ _ (by decide)).trans ((app_lo _ _ _ _ (by decide)).trans (fld_all _))))
  have opcode : fld 26 9 (gp ++ bit1 gs ++ o ++ x) = o :=
    (app_hi _ _ _ _ (by decide)).trans ((app_lo _ _ _ _ (by decide)).trans (fld_all _))
  have operands : fld 0 26 (gp ++ bit1 gs ++ o ++ x) = x := (app_lo _ _ _ _ (by decide)).trans (fld_all _)
  rw [decodeSlot, opcode, operands, read, guard, sense]

/-- A word that the encoder writes for a well-formed slot decodes to that slot. -/
theorem decodeSlot_of_encodeSlot {y : Slot} {k : SlotKind} {x : BitVec 40} (word : encodeSlot y = some x) (kind : y.op.kind = some k)
    (wf : y.op.wf = true) : decodeSlot k x = .ok y := by
  obtain ⟨p, operation, read⟩ := encodeOp_of_kind kind wf
  rw [encodeSlot, operation] at word
  obtain rfl := Option.some.inj word
  exact decodeSlot_append k y.gp y.gs p.1 p.2 read

/-- A V operation is read alike in the slots of the four V kinds (R59). -/
theorem decodeSlot_v2 (x : BitVec 40) : decodeSlot .v2 x = decodeSlot .v0 x := rfl

theorem decodeSlot_encodeSlot {i : Instr} {k : SlotKind} (kind : i.kind = some k) (wf : i.wf = true) (gp : BitVec 4) (gs : Bool) :
    ∃ x, encodeSlot { gp := gp, gs := gs, op := i } = some x ∧ decodeSlot k x = .ok { gp := gp, gs := gs, op := i } := by
  obtain ⟨p, operation, -⟩ := encodeOp_of_kind kind wf
  have word : encodeSlot { gp := gp, gs := gs, op := i } = some (gp ++ bit1 gs ++ p.1 ++ p.2) := by rw [encodeSlot, operation]; rfl
  exact ⟨_, word, decodeSlot_of_encodeSlot word kind wf⟩

/-! ## Bundles (R50, R51) -/

/-- Consecutive bytes of a word are the bytes of a field of it. -/
theorem bytesOf_slice {k : Nat} (m a n : Nat) (y : BitVec k) (inside : a + n ≤ m) :
    ((bytesOf m y).drop a).take n = bytesOf n (fld (8 * a) (8 * n) y) := by
  apply List.ext_getElem
  · simp [bytesOf]; omega
  · intro i short _
    have within : i < n := by simp at short; omega
    ext b hb
    have byte : 8 * i + b < 8 * n := by omega
    simp [bytesOf, elem, fld, byte, Nat.mul_add, Nat.add_assoc]

/-- The field of a word that consecutive bytes hold. -/
theorem ofBytes_slice {k : Nat} (m a n : Nat) (y : BitVec k) (inside : a + n ≤ m) :
    ofBytes (8 * n) (((bytesOf m y).drop a).take n) = fld (8 * a) (8 * n) y := by
  rw [bytesOf_slice m a n y inside, ofBytes_bytesOf]

/-- The mask of one slot kind names that kind alone. -/
theorem maskKinds_one (k : SlotKind) : maskKinds (1#12 <<< k.num) = [k] := by cases k <;> rfl

/-- The header of a bundle that ends its group reads back (R51). -/
theorem headerOf_encodeHeader (k : SlotKind) : headerOf (encodeHeader 0 false false true (1#12 <<< k.num)) =
    { e := 0, window := false, comma := false, stop := true, mask := 1#12 <<< k.num, reservedZero := true } := by cases k <;> rfl

/-- A bundle of one slot, read from any bytes that hold it, its slot after its header. -/
theorem decodeBundle_one {k : SlotKind} {bs : List Byte} {x : BitVec 40}
    (header : ofBytes 32 (bs.take 4) = encodeHeader 0 false false true (1#12 <<< k.num)) (slot : ofBytes 40 ((bs.drop 4).take 5) = x) :
    (decodeBundle bs).header.reservedZero = true ∧ (decodeBundle bs).slots = [(k, decodeSlot k x)] := by
  subst slot
  simp only [decodeBundle, header, headerOf_encodeHeader, maskKinds_one]
  exact ⟨trivial, rfl⟩

theorem fld_setWidth {m : Nat} (lo w n : Nat) (y : BitVec m) (inside : lo + w ≤ n) : fld lo w (y.setWidth n) = fld lo w y := by
  ext b hb
  simp [fld, show lo + b < n by omega]

/-- A table's word is read from a string of bytes longer than any bundle of one slot. -/
theorem ofNat_word96 (y : BitVec 96) : BitVec.ofNat 512 (y.toNat % 2 ^ 96) = y.setWidth 512 := by
  rw [Nat.mod_eq_of_lt y.isLt, BitVec.ofNat_toNat]

/-- The twelve bytes of a slot after its header, read as a table's word, give the slot's operation. -/
theorem decodeTableWord_one {k : SlotKind} {x : BitVec 40} {s : Slot} (read : decodeSlot k x = .ok s) :
    decodeTableWord 96 (ofBytes 96 (bytesOf 12 (x ++ encodeHeader 0 false false true (1#12 <<< k.num)))).toNat = some s.op := by
  let h : W32 := encodeHeader 0 false false true (1#12 <<< k.num)
  let bs : List Byte := bytesOf 64 ((ofBytes 96 (bytesOf 12 (x ++ h))).setWidth 512)
  have field (a n : Nat) (inside : a + n ≤ 9) : ofBytes (8 * n) ((bs.drop a).take n) = fld (8 * a) (8 * n) (x ++ h) := by
    rw [ofBytes_slice 64 a n _ (by omega), fld_setWidth _ _ _ _ (by omega),
      show ofBytes 96 (bytesOf 12 (x ++ h)) = (x ++ h).setWidth 96 from ?_, fld_setWidth _ _ _ _ (by omega)]
    refine (ofBytes_slice 12 0 12 (x ++ h) (by decide)).trans ?_
    exact BitVec.eq_of_toNat_eq (by simp [fld])
  have header : ofBytes 32 (bs.take 4) = h := (field 0 4 (by decide)).trans ((app_lo _ _ _ _ (by decide)).trans (fld_all _))
  have slot : ofBytes 40 ((bs.drop 4).take 5) = x := (field 4 5 (by decide)).trans ((app_hi _ _ _ _ (by decide)).trans (fld_all _))
  obtain ⟨reserved, slots⟩ := decodeBundle_one header slot
  rw [decodeTableWord, ofNat_word96]
  simp only [h, bs] at reserved slots
  simp only [reserved, slots, read]

/-- Settles O53: the words by the round trip of each instruction, their bundles by the bytes of the header and of the one slot. -/
theorem decodingReadsBackTheEncoding : Obligations.DecodingReadsBackTheEncoding := by
  unfold Obligations.DecodingReadsBackTheEncoding
  refine fun i wf => ⟨fun k kind gp gs => decodeSlot_encodeSlot kind wf gp gs, fun k kind => ?bundle, fun event => ?event⟩
  case bundle =>
    obtain ⟨x, word, read⟩ := decodeSlot_encodeSlot kind wf 0 false
    exact ⟨_, by rw [encode, kind, word], by simp [bytesOf], decodeTableWord_one read⟩
  case event => rw [encode, event]

/-- Settles O54: each word is the one that the encoder writes for its slot. -/
theorem wordsDecodeAsTheManualWritesThem : Obligations.WordsDecodeAsTheManualWritesThem := by
  unfold Obligations.WordsDecodeAsTheManualWritesThem
  rw [decodeSlot_v2]
  refine ⟨?_, ?_, ?_, ?_, ?_, ?_, ?_, ?_, ?_, ?_, ?_, ?_, ?_⟩
  all_goals exact decodeSlot_of_encodeSlot rfl rfl rfl

end Sys2Proof.Proofs
end

section
/-! The issue of one instruction that meets no fault, and what each shared form of a meaning then puts in flight (R65, R233). -/

namespace Sys2Proof.Proofs

open Sys2Proof.Machine Sys2Proof.Claims Sys2Proof.Laws

/-! ## Faults of an instruction's own form (R233) -/

/-- On its own, the instruction meets none of the precise faults that its own form asks for: neither PRIV, LOOPFORM, ALIGN, PERM, ENGINE nor
the fault of a poll. -/
structure MeetsNone (c : CoreSt) (i : Instr) : Prop where
  priv : ∀ k b, c.privFaults [{ slot := k, op := i, bundle := b }] = []
  loop : ∀ a k b, c.loopFaults a [{ slot := k, op := i, bundle := b }] = []
  fits : ∀ x n al f, c.localAccess i = some (x, n, al, f) → x.toNat % al = 0 ∧ x.toNat + n ≤ Config.spadBytes
  aligned : ∀ x ∈ c.aligned i, x.1.toNat % x.2.1 = 0
  engine : ∀ k b, c.engineFaults [{ slot := k, op := i, bundle := b }] = []
  poll : ∀ p x y t, i ≠ .waitph p x y t ∧ i ≠ .waitbit p x y t

/-- An instruction that goes, and meets no fault of its own form, has its effect. -/
theorem issue_of_goes {s : State} {i : Instr} {more : Prop} {eff : State → State} (goes : Goes i s more) (own : more → MeetsNone s.cc i) :
    s.issue i eff = .next (eff s) :=
  issue_eq_next <| goes.imp_right fun ⟨unpending, alone, also⟩ =>
    have none := own also
    groupFault_solo unpending alone (none.priv _ _) (none.loop _ _ _) none.fits none.aligned (.inr none.poll) (none.engine _ _)

/-- The instructions that ask nothing of their own: no privilege, loop level, address, poll, or room in a queue but the matrix unit's, whose
commands wait for the shadow instead (R160). -/
def asksNothing (i : Instr) : Bool :=
  match i with
  | .crwr _ _ | .trapack | .tret | .loop _ _ | .loopr _ _ | .brr _ | .callr _ | .ret | .waitph _ _ _ _ | .waitbit _ _ _ _ | .lds _ _ _ _
  | .ldv _ _ _ _ | .ald _ _ _ | .sts _ _ _ _ | .stv _ _ _ _ | .ast _ _ _ | .adotm _ _ _ _ => false
  | i => i.queue == none || i.queue == some .m

theorem meetsNone_of_asksNothing {i : Instr} (c : CoreSt) (nothing : asksNothing i = true) : MeetsNone c i := by
  cases i
  all_goals cases nothing
  all_goals exact ⟨fun _ _ => rfl, fun _ _ _ => rfl, nofun, nofun, fun _ _ => rfl, fun _ _ _ _ => ⟨nofun, nofun⟩⟩

/-! ## Results in flight (R65) -/

/-- A result that reads no scratchpad is in flight as R65 says. -/
theorem fly_eq_fliesCore (c : CoreSt) (i : Instr) (lat : Nat) (ws : List Write) (fl : Flg) :
    c.fly lat (destsOf i) ws fl = fliesCore c i lat none ws fl := by
  simp [CoreSt.fly, fliesCore]

/-- An instruction that puts one result in flight at issue, and meets no fault, does nothing else. -/
theorem issue_flies {s : State} {i : Instr} {more : Prop} {lat : Nat} {eff : State → State} {ws : List Write} {fl : Flg} (goes : Goes i s more)
    (own : more → MeetsNone s.cc i) (puts : eff s = s.setCore s.cur (s.cc.fly lat (destsOf i) ws fl)) :
    s.issue i eff = .next (flies s i lat ws fl) := by
  rw [issue_of_goes goes own, puts, fly_eq_fliesCore, flies]

theorem landS_flies {s : State} {i : Instr} {lat : Nat} {d : SDst} {x : W64} {fl : Flg} {f : CoreSt → W64 × Flg} (goes : Goes i s True)
    (nothing : asksNothing i = true) (latency : i.latency s.cc.classB = lat) (value : f s.cc = (x, fl)) :
    landS i d f s = .next (flies s i lat (CoreSt.wS d x) fl) :=
  issue_flies goes (fun _ => meetsNone_of_asksNothing s.cc nothing) (by rw [State.onCur, latency, value])

end Sys2Proof.Proofs
end

section
/-! The scalar results: the integer S-slot instructions, AMAG and CRRD, and the scalar floating-point instructions and ADOT. -/

namespace Sys2Proof.Proofs

open Sys2Proof.Machine Sys2Proof.Claims Sys2Proof.Laws

/-! ## The shared functions of scalar sources (R109, R245) -/

theorem binS_apply (a b : SSrc) (f : W64 → W64 → W64 × Flg) (c : CoreSt) :
    binS a b f c = ((f (c.src a) (c.src b)).1, (f (c.src a) (c.src b)).2 ||| lost2 c a b) := by
  rw [binS, lost2, BitVec.or_assoc]

theorem binQ_apply (a b : SSrc) (f : W64 → W64 → W64) (c : CoreSt) : binQ a b f c = (f (c.src a) (c.src b), lost2 c a b) := by
  simp [binQ, binS_apply]

theorem unS_quiet (a : SSrc) (f : W64 → W64) (c : CoreSt) : unS a (fun x => (f x, 0)) c = (f (c.src a), c.srcFlag a) := by
  simp [unS]

/-! ## Signed and unsigned choices, and the nearest value (R83, R109, R141) -/

section Order

variable {w : Nat} (x y : BitVec w)

/-- A signed minimum may ask either way round: equal values are the same. -/
theorem ite_slt_min : (if x.slt y then x else y) = if x.toInt ≤ y.toInt then x else y := by
  rw [BitVec.slt_eq_decide]
  obtain below | same | above := lt_trichotomy x.toInt y.toInt
  · simp [below, below.le]
  · simp [BitVec.eq_of_toInt_eq same]
  · simp [above.not_gt, above.not_ge]

theorem ite_slt_max : (if x.slt y then y else x) = if x.toInt ≤ y.toInt then y else x := by
  rw [BitVec.slt_eq_decide]
  obtain below | same | above := lt_trichotomy x.toInt y.toInt
  · simp [below, below.le]
  · simp [BitVec.eq_of_toInt_eq same]
  · simp [above.not_gt, above.not_ge]

theorem ite_ult_min : (if x.ult y then x else y) = if x.toNat ≤ y.toNat then x else y := by
  rw [BitVec.ult_eq_decide]
  obtain below | same | above := lt_trichotomy x.toNat y.toNat
  · simp [below, below.le]
  · simp [BitVec.eq_of_toNat_eq same]
  · simp [above.not_gt, above.not_ge]

theorem ite_ult_max : (if x.ult y then y else x) = if x.toNat ≤ y.toNat then y else x := by
  rw [BitVec.ult_eq_decide]
  obtain below | same | above := lt_trichotomy x.toNat y.toNat
  · simp [below, below.le]
  · simp [BitVec.eq_of_toNat_eq same]
  · simp [above.not_gt, above.not_ge]

end Order

/-- The signed saturating form gives the nearest value of the width, with saturate where that is another (R83). -/
theorem satS_eq_nearest (w : Nat) (x : Int) : satS w x = nearest w x := by
  unfold satS nearest sMin sMax
  push_cast
  have room : (0 : Int) < 2 ^ (w - 1) := by positivity
  by_cases low : x < -2 ^ (w - 1)
  · rw [if_pos low, if_neg (by omega), min_eq_right (by omega), max_eq_left (by omega)]
  · by_cases high : 2 ^ (w - 1) - 1 < x
    · rw [if_neg low, if_pos high, if_neg (by omega), min_eq_left (by omega), max_eq_right (by omega)]
    · rw [if_neg low, if_neg high, if_pos (by omega), min_eq_right (by omega), max_eq_right (by omega)]

theorem satS_eq_clamp64 (x : Int) : satS 64 x = clamp64 x := satS_eq_nearest 64 x

/-! ## Division (R110) -/

theorem divS_eq (x y : W64) : divS x y = (if y = 0 then -1 else BitVec.ofInt 64 (x.toInt.tdiv y.toInt), if y = 0 then .divz else 0) := by
  unfold divS; split <;> rfl
theorem divU_eq (x y : W64) : divU x y = (if y = 0 then -1 else BitVec.ofNat 64 (x.toNat / y.toNat), if y = 0 then .divz else 0) := by
  unfold divU; split <;> rfl
theorem remS_eq (x y : W64) : remS x y = (if y = 0 then x else BitVec.ofInt 64 (x.toInt.tmod y.toInt), if y = 0 then .divz else 0) := by
  unfold remS; split <;> rfl
theorem remU_eq (x y : W64) : remU x y = (if y = 0 then x else BitVec.ofNat 64 (x.toNat % y.toNat), if y = 0 then .divz else 0) := by
  unfold remU; split <;> rfl

/-! ## The instructions -/

/-- Settles O1: each instruction's function of the core, with its sources' lost latches, against the table of results. -/
theorem integerInstructionsLandTheirResults : Obligations.IntegerInstructionsLandTheirResults := by
  unfold Obligations.IntegerInstructionsLandTheirResults
  intro s i d lat x fl result goes
  cases i
  case add | sub | and | or | xor | andn | shl | shr | sar | mul | mulh | mulhu =>
    cases result
    exact landS_flies goes rfl rfl (binQ_apply _ _ _ _)
  case min =>
    cases result
    exact landS_flies goes rfl rfl ((binQ_apply _ _ _ _).trans (congrArg (·, _) (ite_slt_min _ _)))
  case max =>
    cases result
    exact landS_flies goes rfl rfl ((binQ_apply _ _ _ _).trans (congrArg (·, _) (ite_slt_max _ _)))
  case minu =>
    cases result
    exact landS_flies goes rfl rfl ((binQ_apply _ _ _ _).trans (congrArg (·, _) (ite_ult_min _ _)))
  case maxu =>
    cases result
    exact landS_flies goes rfl rfl ((binQ_apply _ _ _ _).trans (congrArg (·, _) (ite_ult_max _ _)))
  case adds | subs =>
    cases result
    exact landS_flies goes rfl rfl (by rw [binS_apply, satS_eq_clamp64])
  case div | divu | rem | remu =>
    cases result
    exact landS_flies goes rfl rfl (by simp only [binS_apply, divS_eq, divU_eq, remS_eq, remU_eq])
  case addi | andi | ori | xori | shli | shri | sari =>
    cases result
    exact landS_flies goes rfl rfl (unS_quiet _ _ _)
  case movq _ _ keep _ =>
    cases keep <;> cases result <;> exact landS_flies goes rfl rfl rfl
  case movps | crrd | amag =>
    cases result
    exact landS_flies goes rfl rfl rfl
  all_goals cases result

/-- Settles O2: likewise, with the functions of floating-point values on both sides. -/
theorem floatInstructionsLandTheirResults : Obligations.FloatInstructionsLandTheirResults := by
  unfold Obligations.FloatInstructionsLandTheirResults
  intro s i d lat x fl result goes
  cases i
  case fadd | fsub | fmul =>
    cases result
    exact landS_flies goes rfl rfl (binS_apply _ _ _ _)
  case fma =>
    cases result
    exact landS_flies goes rfl rfl (by simp only [fmaS, lost2, BitVec.or_assoc]; rfl)
  case cvtF64I64 | cvtF32I64 | cvtI64F64 | cvtI64F32 | cvtF32F64 | cvtF64F32 =>
    cases result
    exact landS_flies goes rfl rfl rfl
  case adot =>
    cases result
    exact landS_flies goes rfl rfl (by simp [fres])
  all_goals cases result

end Sys2Proof.Proofs
end

section
/-! The V-slot instructions: in each cluster the lanes, whole registers and masks that they put in flight (R137, R139, R141 to R151). -/

namespace Sys2Proof.Proofs

open Sys2Proof.Machine Sys2Proof.Claims Sys2Proof.Laws

/-! ## A result in every named cluster (R137) -/

section Land

variable {s : State} {i : Instr} (goes : Goes i s True) (nothing : asksNothing i = true)
include goes nothing

theorem landV_flies {lat : Nat} {g : BitVec 4} {d : VDst} {f : CoreSt → Nat → W512 × W512 × Flg} {v : Nat → W512 × W512 × Flg}
    (latency : i.latency s.cc.classB = lat) (value : ∀ cl, f s.cc cl = v cl) : landV i g d f s =
      .next (flies s i lat ((clustersOf g).map fun cl => CoreSt.wV d cl (v cl).1 (v cl).2.1) ((clustersOf g).foldl (fun x cl => x ||| (v cl).2.2) 0)) :=
  issue_flies goes (fun _ => meetsNone_of_asksNothing s.cc nothing) (by
    simp only [State.onCur, latency, List.map_map, List.foldl_map, Function.comp_def, value])

theorem landK_flies {lat : Nat} {g : BitVec 4} {kd : BitVec 3} {f : CoreSt → Nat → W16 × Flg} {v : Nat → W16 × Flg}
    (latency : i.latency s.cc.classB = lat) (value : ∀ cl, f s.cc cl = v cl) : landK i g kd f s =
      .next (flies s i lat ((clustersOf g).map fun cl => .kreg cl kd.toNat (v cl).1) ((clustersOf g).foldl (fun x cl => x ||| (v cl).2) 0)) :=
  issue_flies goes (fun _ => meetsNone_of_asksNothing s.cc nothing) (by
    simp only [State.onCur, latency, List.map_map, List.foldl_map, Function.comp_def, value])

end Land

/-! ## Lanes (R139, R141, R142) -/

/-- What a lane instruction lands in a cluster: the enabled lanes, their bits and the flags. -/
def laneValue (c : CoreSt) (x : LaneForm) (cl : Nat) : W512 × W512 × Flg :=
  ((lanes (c.kmask cl x.k.toNat) (x.f cl)).1, maskBits (c.kmask cl x.k.toNat), (lanes (c.kmask cl x.k.toNat) (x.f cl)).2 ||| x.lost cl)

/-- Lanes that raise nothing raise nothing together. -/
theorem lanes_quiet (m : W16) (f : Nat → W32) : (lanes m fun l => (f l, 0#9)).2 = 0#9 := by
  have flags (ls : List Nat) : (ls.map fun l => if m.getLsbD l then (f l, (0 : Flg)) else (0, 0)).foldl (fun x r => x ||| r.2) 0 = 0 := by
    induction ls with
    | nil => rfl
    | cons l ls ih =>
      have quiet : (if m.getLsbD l then (f l, (0 : Flg)) else (0, 0)).2 = 0 := by split <;> rfl
      rw [List.map_cons, List.foldl_cons, quiet]
      exact ih
  exact flags _

section LaneForms

variable {s : State} {i : Instr} (goes : Goes i s True) (nothing : asksNothing i = true) {g : BitVec 4} {k : BitVec 3} {d : VDst} {lat : Nat}
  (latency : i.latency s.cc.classB = lat)
include goes nothing latency

theorem landV_lane {f : CoreSt → Nat → W512 × W512 × Flg} {h : Nat → Nat → W32 × Flg} {lost : Nat → Flg}
    (value : ∀ cl, f s.cc cl = laneValue s.cc ⟨g, k, d, lat, h, lost⟩ cl) : landV i g d f s =
      .next (flies s i lat (laneWrites s.cc ⟨g, k, d, lat, h, lost⟩) (laneFlags s.cc ⟨g, k, d, lat, h, lost⟩)) := by
  rw [landV_flies goes nothing latency value]
  rfl

variable {a b : VSrc} {x : LaneForm}

theorem landV_two {f h : W32 → W32 → W32 × Flg} (form : two s.cc g k d lat a b h = some x) (same : ∀ x y, f x y = h x y) :
    landV i g d (vbin k a b f) s = .next (flies s i x.lat (laneWrites s.cc x) (laneFlags s.cc x)) := by
  obtain rfl : f = h := funext fun x => funext (same x)
  cases form
  exact landV_lane goes nothing latency fun cl => by simp [vbin, masked, laneValue, laneOf, BitVec.or_assoc]

theorem landV_one {f h : W32 → W32 × Flg} (form : one s.cc g k d lat a h = some x) (same : ∀ x, f x = h x) :
    landV i g d (vun k a f) s = .next (flies s i x.lat (laneWrites s.cc x) (laneFlags s.cc x)) := by
  obtain rfl : f = h := funext same
  cases form
  exact landV_lane goes nothing latency fun cl => rfl

end LaneForms

/-! ## The functions of a lane (R83, R99, R141, R146, R150) -/

section Order

variable {w : Nat} (x y : BitVec w)

theorem ite_slt_swap : (if y.slt x then y else x) = if x.toInt ≤ y.toInt then x else y := by
  simp only [BitVec.slt_eq_decide, decide_eq_true_eq, ← not_le, ite_not]

theorem ite_ult_swap : (if y.ult x then y else x) = if x.toNat ≤ y.toNat then x else y := by
  simp only [BitVec.ult_eq_decide, decide_eq_true_eq, ← not_le, ite_not]

end Order

/-- The natural saturating form gives the nearest value of the width, with saturate where that is another (R83). -/
theorem satU_eq_nearestU (w : Nat) (x : Int) : satU w x = nearestU w x := by
  unfold satU nearestU
  push_cast
  have room : (0 : Int) < 2 ^ w := by positivity
  by_cases low : x < 0
  · rw [if_pos low, if_neg (by omega), min_eq_right (by omega), max_eq_left (by omega)]
    rfl
  · by_cases high : 2 ^ w ≤ x
    · rw [if_neg low, if_pos high, if_neg (by omega), min_eq_left (by omega), max_eq_right (by omega)]
      refine congrArg (·, _) (BitVec.eq_of_toNat_eq ?_)
      rw [BitVec.toNat_ofInt, Int.emod_eq_of_lt (by omega) (by push_cast; omega), BitVec.toNat_allOnes]
      exact Int.natCast_inj.mp (by simp [Nat.one_le_two_pow])
    · rw [if_neg low, if_neg high, if_pos (by omega), min_eq_right (by omega), max_eq_right (by omega)]

theorem fsign_eq_orNan (x r : W32) : fsign x r = orNan x x r := by
  simp only [fsign, orNan, Bool.or_self]
  rfl

/-- Element `j` of a packed lane, widened (R90). -/
theorem widen_of_width {f : FP.Fmt} {w : Nat} (width : f.width = w) (j : Nat) (x : W32) :
    widen f j x = fp32 (FP.roundVal FP.f32 .rne 0 (FP.unpack f (x.toNat / 2 ^ (w * j) % 2 ^ w))) := by
  rw [widen, Nat.shiftRight_eq_div_pow, width]
  rfl

/-! ## The lane instructions -/

theorem landV_vcvt_laneForm {s : State} {q : CvtForm} {g : BitVec 4} {k : BitVec 3} {d : VDst} {a b : VSrc} {x : LaneForm}
    (form : laneForm s.cc (.vcvt q g k d a b) = some x) (goes : Goes (.vcvt q g k d a b) s True) :
    landV (.vcvt q g k d a b) g d (cvtF q k d a b) s = .next (flies s (.vcvt q g k d a b) x.lat (laneWrites s.cc x) (laneFlags s.cc x)) := by
  cases q <;> simp only [laneForm, reduceCtorEq] at form <;> simp only [cvtF]
  case f32i32 | i32f32 => exact landV_one goes rfl rfl form fun _ => rfl
  case f32bf16 | f32e4m3 | f32e5m2 => exact landV_one goes rfl rfl form (widen_of_width rfl _)
  case f32q4 => exact landV_two goes rfl rfl form fun _ _ => by rw [Nat.shiftRight_eq_div_pow]; rfl

theorem exec_laneForm {s : State} {i : Instr} {x : LaneForm} (form : laneForm s.cc i = some x) (goes : Goes i s True) :
    exec i s = .next (flies s i x.lat (laneWrites s.cc x) (laneFlags s.cc x)) := by
  cases i
  case vadd | vsub | vmul | vshl | vshr | vsar | vand | vor | vxor | vandn | vfadd | vfsub | vfmul | vfmin | vfmax =>
    rw [laneForm] at form
    exact landV_two goes rfl rfl form fun _ _ => rfl
  case vadds | vsubs =>
    rw [laneForm] at form
    exact landV_two goes rfl rfl form fun _ _ => by simp only [packed, satS_eq_nearest]
  case vaddsu | vsubsu =>
    rw [laneForm] at form
    exact landV_two goes rfl rfl form fun _ _ => by simp only [packed, satU_eq_nearestU]
  case vmin | vmax | vminu | vmaxu =>
    rw [laneForm] at form
    exact landV_two goes rfl rfl form fun _ _ => by simp only [packed, quiet, ite_slt_swap, ite_slt_max, ite_ult_swap, ite_ult_max]
  case vmov | vrcp | vrsqrt | vexp2 | vlog2 =>
    rw [laneForm] at form
    exact landV_one goes rfl rfl form fun _ => rfl
  case vfabs | vfneg =>
    rw [laneForm] at form
    exact landV_one goes rfl rfl form fun _ => by rw [fsign_eq_orNan, quiet]
  case vperm | vxc =>
    cases form
    exact landV_lane goes rfl rfl fun cl => by simp [laneValue, masked, quiet, laneOf, lanes_quiet]
  case vbcast | vidx =>
    cases form
    exact landV_lane goes rfl rfl fun cl => by simp [laneValue, masked, quiet]
  case vfma =>
    cases form
    exact landV_lane goes rfl rfl fun cl => by simp [laneValue, vfmaF, masked, laneOf, BitVec.or_assoc, w32, fp32]
  case vcvt => exact landV_vcvt_laneForm form goes
  all_goals cases form

/-! ## Whole registers: VSEL, the reductions and the narrowing conversions (R99, R142, R148, R150) -/

/-- A reduction, by the identity and the node rule that its operation and type choose. -/
theorem reduce_of_node {op : Nat} {t : RedTy} {n : W32} {f : W32 → W32 → W32 × Flg} (node : redOp op t = (n, f)) (k : BitVec 3) (a : VSrc)
    (c : CoreSt) (cl : Nat) : reduce op t k a c cl = reduction c k a n f cl := by
  rw [reduce, node]
  rfl

theorem redOp_max_i32 : redOp 1 .i32 = (0x80000000, fun x y => quiet (if x.toInt ≤ y.toInt then y else x)) := by
  simp only [redOp, ite_slt_max, quiet]

theorem redOp_min_i32 : redOp 2 .i32 = (0x7FFFFFFF, fun x y => quiet (if x.toInt ≤ y.toInt then x else y)) := by
  simp only [redOp, ite_slt_swap, quiet]

theorem exec_wholeForm {s : State} {i : Instr} {x : WholeForm} (form : wholeForm s.cc i = some x) (goes : Goes i s True) :
    exec i s = .next (flies s i x.lat ((clustersOf x.g).map fun cl => CoreSt.wV x.d cl (x.x cl).1 (x.x cl).2.1)
      ((clustersOf x.g).foldl (fun f cl => f ||| (x.x cl).2.2) 0)) := by
  cases i
  case vsel =>
    cases form
    exact landV_flies goes rfl rfl fun _ => rfl
  case vradd t _ _ _ _ => cases t <;> cases form <;> exact landV_flies goes rfl rfl (reduce_of_node rfl _ _ _)
  case vrmax t _ _ _ _ =>
    cases t <;> cases form
    case f32 => exact landV_flies goes rfl rfl (reduce_of_node rfl _ _ _)
    case i32 => exact landV_flies goes rfl rfl (reduce_of_node redOp_max_i32 _ _ _)
  case vrmin t _ _ _ _ =>
    cases t <;> cases form
    case f32 => exact landV_flies goes rfl rfl (reduce_of_node rfl _ _ _)
    case i32 => exact landV_flies goes rfl rfl (reduce_of_node redOp_min_i32 _ _ _)
  case vcvt q _ _ _ _ _ => cases q <;> cases form <;> exact landV_flies goes rfl rfl fun _ => rfl
  all_goals cases form

/-! ## Masks (R143, R144) -/

theorem exec_maskForm {s : State} {i : Instr} {x : MaskForm} (form : maskForm s.cc i = some x) (goes : Goes i s True) :
    exec i s = .next (flies s i 2 ((clustersOf x.g).map fun cl => .kreg cl x.kd.toNat (x.x cl).1)
      ((clustersOf x.g).foldl (fun f cl => f ||| (x.x cl).2) 0)) := by
  cases i
  case vcmpeq | vcmplt | vcmple | vcmpltu | vcmpleu =>
    cases form
    exact landK_flies goes rfl rfl fun cl => by
      simp only [vcmp, laneOf, BitVec.slt_eq_decide, BitVec.sle_eq_decide, BitVec.ult_eq_decide, BitVec.ule_eq_decide, beq_eq_decide]
  case vfcmpeq | vfcmplt | vfcmple | vfcmpun | kand | kor | kxor | kandn =>
    cases form
    exact landK_flies goes rfl rfl fun _ => rfl
  all_goals cases form

/-! ## The V-slot instructions -/

/-- Settles O5: by the three tables of the claim, each with its shared form of a meaning. -/
theorem vectorInstructionsLandInTheirClusters : Obligations.VectorInstructionsLandInTheirClusters := by
  unfold Obligations.VectorInstructionsLandInTheirClusters
  intro s i lat ws fl result goes
  rw [vectorResult] at result
  split at result
  next x form =>
    cases result
    exact exec_laneForm form goes
  next =>
    split at result
    next x form =>
      cases result
      exact exec_wholeForm form goes
    next =>
      split at result
      next x form =>
        cases result
        exact exec_maskForm form goes
      next => cases result

end Sys2Proof.Proofs
end

section
/-! The A-slot instructions, and the small ones that write control, matrix address, copy shadow and predicate registers. -/

namespace Sys2Proof.Proofs

open Sys2Proof.Machine Sys2Proof.Claims Sys2Proof.Laws

/-! ## Axis results (R182 to R194) -/

section Land

variable {s : State} {i : Instr} (goes : Goes i s True) (nothing : asksNothing i = true) {ad : BitVec 4}
include goes nothing

theorem landA_flies {lat : Nat} {f : State → Axis.AxRes × Flg} {w : Write} {fl : Flg} (latency : i.latency s.cc.classB = lat)
    (write : .axis ad.toNat (f s).1.u (f s).1.n = w) (flags : (f s).1.fl ||| (f s).2 = fl) : landA i ad f s = .next (flies s i lat [w] fl) :=
  issue_flies goes (fun _ => meetsNone_of_asksNothing s.cc nothing) (by simp only [State.onCur, latency, write, flags])

theorem landN_flies {f : CoreSt → W32 × Flg} {n : W32} {fl : Flg} (value : f s.cc = (n, fl)) :
    landN i ad f s = .next (flies s i 1 [.norm ad.toNat n] fl) :=
  issue_flies goes (fun _ => meetsNone_of_asksNothing s.cc nothing) (by simp only [State.onCur, value])

end Land

theorem nKind_eq_ord {n : W32} (ordinary : ¬(n = 0x80000000 ∨ n = 0x80000001 ∨ n = 0x7FFFFFFF)) : Axis.nKind n = .ord := by
  obtain ⟨zero, invalid, sat⟩ := not_or.mp ordinary |>.imp_right not_or.mp
  exact (if_neg zero).trans ((if_neg invalid).trans (if_neg sat))

theorem nKind_eq_invalid_iff (n : W32) : Axis.nKind n = .invalid ↔ n = 0x80000001 := by
  by_cases special : n = 0x80000000 ∨ n = 0x80000001 ∨ n = 0x7FFFFFFF
  · obtain rfl | rfl | rfl := special <;> decide
  · rw [nKind_eq_ord special]
    exact iff_of_false nofun fun invalid => special (.inr (.inl invalid))

/-- Adding to a norm leaves the special codes, which are none of the ordinary kind (R85, R190). -/
theorem scale_eq_scaled (n : W32) (k : Int) : Axis.scale n k = scaled n k := by
  by_cases special : n = 0x80000000 ∨ n = 0x80000001 ∨ n = 0x7FFFFFFF
  · rw [scaled, if_pos special]
    obtain rfl | rfl | rfl := special <;> rfl
  · rw [scaled, if_neg special, Axis.scale, nKind_eq_ord special]
    rfl

theorem packComps_neg (u : AxisBits) : Axis.packComps ((Axis.comps u).map fun x => -x) = negated u := by
  simp only [Axis.packComps, Axis.comps, List.map_map, negated]
  rfl

/-- What ANEG lands of the axis unit: INVALID stays, and else every component is negated (R191, R194). -/
def anegResult (u : AxisBits) (n : W32) : Axis.AxRes :=
  if Axis.nKind n = .invalid then Axis.invalidRes 0 else { u := Axis.packComps ((Axis.comps u).map fun x => -x), n := n, fl := 0 }

theorem anegResult_write (ad : Nat) (u : AxisBits) (n : W32) : Write.axis ad (anegResult u n).u (anegResult u n).n =
    if n = 0x80000001 then .axis ad 0 0x80000001 else .axis ad (negated u) n := by
  simp only [anegResult, nKind_eq_invalid_iff, packComps_neg]
  split <;> rfl

theorem anegResult_fl (u : AxisBits) (n : W32) : (anegResult u n).fl = 0 := by
  unfold anegResult
  split <;> rfl

/-! ## The 128 lanes of ATOV, by cluster (R187) -/

theorem range_lanes : List.range 128 = (List.range 8).flatMap fun cl => (List.range 16).map (16 * cl + ·) := by decide

theorem foldl_lanes {α : Type} (f : α → Nat → α) (x : α) :
    (List.range 128).foldl f x = (List.range 8).foldl (fun x cl => (List.range 16).foldl (fun x l => f x (16 * cl + l)) x) x := by
  simp only [range_lanes, List.foldl_flatMap, List.foldl_map]

theorem lanes_of_cluster {α : Type} (f : Nat → α) {cl : Nat} (cluster : cl < 8) :
    (((List.range 128).map f).drop (16 * cl)).take 16 = (List.range 16).map fun l => f (16 * cl + l) := by
  refine List.ext_getElem (by simp; omega) fun l _ _ => ?_
  simp

theorem execAtov_flies {s : State} {vd : BitVec 5} {a : BitVec 4} {lat : Nat} {ws : List Write} {fl : Flg}
    (result : smallResult s (.atov vd a) = some (lat, ws, fl)) (goes : Goes (.atov vd a) s True) :
    execAtov vd a s = .next (flies s (.atov vd a) lat ws fl) := by
  cases result
  refine issue_flies goes (fun _ => meetsNone_of_asksNothing s.cc rfl) (congrArg (s.setCore s.cur) ?_)
  rw [List.foldl_map, foldl_lanes]
  refine congrArg (s.cc.fly 4 _ · _) (List.map_congr_left fun cl cluster => ?_)
  rw [lanes_of_cluster _ (List.mem_range.mp cluster), List.map_map]
  rfl

/-! ## Registers written by the other small instructions -/

/-- A write of a control register that the mode allows meets no fault of its own (R105). -/
theorem meetsNone_crwr {c : CoreSt} {n : BitVec 12} (may : writable c n.toNat) (a : SSrc) : MeetsNone c (.crwr n a) where
  priv _ _ := by
    have may : c.crPriv n.toNat = false := by
      obtain ⟨_, _, _, _, handler⟩ := may
      simp_all [CoreSt.crPriv]
    simp [CoreSt.privFaults, may]
  loop _ _ _ := rfl
  fits := nofun
  aligned := nofun
  engine _ _ := rfl
  poll _ _ _ _ := ⟨nofun, nofun⟩

/-- A matrix-slot instruction that goes issues: the shadow is free, or was free when the group was checked (R160). -/
theorem issueM_of_goes {s : State} {i : Instr} (goes : Goes i s (s.cc.shadowFull = false)) (eff : CoreSt → CoreSt) :
    s.issueM i eff = s.issue i fun s => s.onCur eff := by
  refine if_neg ?_
  obtain checked | ⟨_, _, free⟩ := goes
  · simp [checked]
  · simp [free]

theorem descWord_eq_descriptorWord (s : State) (g n : Nat) : s.descWord g n = descriptorWord s g n := by
  match n with
  | 0 | 1 => rfl
  | n + 2 => rfl

/-! ## The instructions -/

/-- Settles O7: each instruction's one result against the table; MSETMA issues once the shadow is free, CRWR where the mode may write. -/
theorem axisAndSmallInstructionsLand : Obligations.AxisAndSmallInstructionsLand := by
  unfold Obligations.AxisAndSmallInstructionsLand
  intro s i lat ws fl result goes
  cases i
  case afromv | aadd | asub =>
    cases result
    unfold exec
    exact landA_flies goes rfl rfl rfl BitVec.or_zero
  case alerp =>
    cases result
    unfold exec
    exact landA_flies goes rfl rfl rfl rfl
  case aneg =>
    cases result
    unfold exec
    exact landA_flies goes rfl rfl (anegResult_write _ _ _) (BitVec.or_zero.trans (anegResult_fl _ _))
  case azero =>
    cases result
    exact landN_flies goes rfl rfl
  case ascl | ascli =>
    cases result
    unfold exec
    exact landN_flies goes rfl (by simp only [← scale_eq_scaled])
  case atov => exact execAtov_flies result goes
  case asetn | xset | movsp =>
    cases result
    unfold exec
    exact issue_flies goes (fun _ => meetsNone_of_asksNothing s.cc rfl) rfl
  case msetma =>
    cases result
    exact (issueM_of_goes goes _).trans (issue_flies goes (fun _ => meetsNone_of_asksNothing s.cc rfl) rfl)
  case crwr =>
    cases result
    unfold exec
    exact issue_flies goes (meetsNone_crwr · _) rfl
  case rdcnt =>
    cases result
    exact landS_flies goes rfl rfl rfl
  case rddesc =>
    cases result
    exact landS_flies goes rfl rfl (by rw [descWord_eq_descriptorWord])
  all_goals cases result

end Sys2Proof.Proofs
end

section
/-! The scratchpad: its loads and stores at issue, and the landing of a store. -/

namespace Sys2Proof.Proofs

open Sys2Proof.Machine Sys2Proof.Claims Sys2Proof.Laws

/-! ## The access of a scratchpad form (R281, R282) -/

theorem loadSize_eq_ldBytes (t : LdTy) : CoreSt.loadSize t = ldBytes t := by cases t <;> rfl
theorem storeSize_eq_stBytes (t : StTy) : CoreSt.storeSize t = stBytes t := by cases t <;> rfl

/-- A scratchpad form asks for the alignment and the size of its access, and for nothing else (R233). -/
theorem meetsNone_of_fits {c : CoreSt} {i : Instr} {x : W64} (address : spadAddress c i = some x) (fits : Fits c i) : MeetsNone c i := by
  have inside := fits x address
  cases i
  case lds | sts | ald | ast | ldv | stv | adotm =>
    cases address
    refine ⟨fun _ _ => rfl, fun _ _ _ => rfl, ?_, nofun, fun _ _ => rfl, fun _ _ _ _ => ⟨nofun, nofun⟩⟩
    rintro _ _ _ _ ⟨⟩
    simp only [spadSize, ← loadSize_eq_ldBytes, ← storeSize_eq_stBytes] at inside
    exact inside
  all_goals cases address

/-! ## Loads and stores at issue (R65, R69, R70) -/

/-- A load stands in the landing order unless it is ADOTM's, whose latency R70 does not change. -/
def countedAt (c : CoreSt) : Load → Option Nat
  | .adotm _ _ _ _ _ => none
  | _ => some c.flow.steps

theorem fly_load (c : CoreSt) (i : Instr) (lat : Nat) (l : Load) (fl : Flg) :
    c.fly lat (destsOf i) [] fl (some l) = fliesCore c i lat (some (l, countedAt c l)) [] fl := by
  cases l <;> simp [CoreSt.fly, fliesCore, countedAt, CoreSt.compatible]

theorem issue_fliesLoad {s : State} {i : Instr} {x : W64} {lat : Nat} {eff : State → State} {l : Load} {at_ : Option Nat} {fl : Flg}
    (address : spadAddress s.cc i = some x) (goes : Goes i s (Fits s.cc i))
    (counted : countedAt s.cc l = at_) (puts : eff s = s.setCore s.cur (s.cc.fly lat (destsOf i) [] fl (some l))) :
    s.issue i eff = .next (fliesLoad s i lat l at_ fl) := by
  rw [issue_of_goes goes (meetsNone_of_fits address), puts, fly_load, counted, fliesLoad]

theorem exec_loadOf {s : State} {i : Instr} {x : W64} {lat : Nat} {l : Load} {counted : Bool} {fl : Flg} (address : spadAddress s.cc i = some x)
    (goes : Goes i s (Fits s.cc i)) (load : loadOf s.cc x.toNat i = some (lat, l, counted, fl)) :
    exec i s = .next (fliesLoad s i lat l (if counted then some s.cc.flow.steps else none) fl) := by
  cases i
  case lds | ldv | ald | adotm =>
    cases address
    cases load
    unfold exec
    exact issue_fliesLoad rfl goes rfl rfl
  all_goals cases load

theorem exec_storeOf {s : State} {i : Instr} {x : W64} {bs : List Byte} {fl : Flg} (address : spadAddress s.cc i = some x)
    (goes : Goes i s (Fits s.cc i)) (store : storeOf s.cc i = some (bs, fl)) : exec i s = .next (flies s i 1 [.spad x.toNat bs] fl) := by
  cases i
  case sts =>
    cases address
    cases store
    unfold exec
    exact issue_flies goes (meetsNone_of_fits rfl) (by rw [← storeSize_eq_stBytes]; rfl)
  case stv | ast =>
    cases address
    cases store
    unfold exec
    exact issue_flies goes (meetsNone_of_fits rfl) rfl
  all_goals cases store

/-- Settles O8: what a load has still to read, and what a store will write, at the address of the access. -/
theorem scratchpadFormsFly : Obligations.ScratchpadFormsFly := by
  unfold Obligations.ScratchpadFormsFly
  intro s i x fl address goes
  exact ⟨fun _ _ _ => exec_loadOf address goes, fun _ => exec_storeOf address goes⟩

/-! ## The landing of a store (R274, R282) -/

theorem spadWrite_of_fits {c : CoreSt} {x : Nat} {bs : List Byte} (fits : x + bs.length ≤ 2 ^ 21) :
    c.spadWrite x bs = { c with files := { c.files with spad := amWrite c.files.spad x bs } } := if_pos fits

theorem land_store {c : CoreSt} {f : InFlight} {x : Nat} {bs : List Byte} (store : f.writes = [.spad x bs]) (fits : x + bs.length ≤ 2 ^ 21) :
    c.land f = { c with
      files := { c.files with spad := amWrite c.files.spad x bs }
      ctrl := { c.ctrl with sticky := vset c.ctrl.sticky f.slot (stickyRaise (vget 0 c.ctrl.sticky f.slot) f.bundle f.flags) } } := by
  simp [CoreSt.land, store, CoreSt.applyWrite, spadWrite_of_fits fits, CoreSt.raise]

/-- Settles O9: a landing store writes its bytes into the scratchpad, and raises its flags. -/
theorem storeLandingWritesItsBytesOnly : Obligations.StoreLandingWritesItsBytesOnly := by
  unfold Obligations.StoreLandingWritesItsBytesOnly
  intro c f x bs wf store fits
  rw [land_store store fits]
  refine ⟨fun k inside => ?_, fun a outside => ?_, rfl⟩
  · exact (amGet_amWrite_same x k bs wf inside).trans (List.getD_eq_getElem ..).symm
  · exact amGet_amWrite_other x a bs wf (by omega)

end Sys2Proof.Proofs
end

section
/-! The entry of operations into the queues of the matrix unit, the domain unit, memory order and the copy engine (R67, R160, R211, R280, R345). -/

namespace Sys2Proof.Proofs

open Sys2Proof.Machine Sys2Proof.Claims Sys2Proof.Laws

/-! ## Matrix commands (R160, R161) -/

theorem mIssue_eq (i : Instr) (b : W64) (scales : BitVec 2048) (lost : Flg) (c : CoreSt) : CoreSt.mIssue i b scales lost c =
    if c.flow.mrun = none ∧ c.flow.mq = [] then (commanded c i b scales lost).mGo c.flow.cyc else commanded c i b scales lost := by
  unfold CoreSt.mIssue
  simp only [Bool.and_eq_true, Option.isNone_iff_eq_none, decide_eq_true_eq]
  rfl

/-- The four clusters whose registers hold MSCA's scales (R168). -/
theorem scaled_clusters (hi : Bool) (f : Nat → W512) : (if hi then [4, 5, 6, 7] else [0, 1, 2, 3]).map f =
    (List.range 4).map fun k => f (if hi then 4 + k else k) := by
  cases hi <;> simp [List.range_succ]

/-- A matrix command's meaning is its issue, once the shadow is free, with what it takes of the core. -/
theorem exec_matrixTakes {s : State} {i : Instr} {b : W64} {scales : BitVec 2048} {lost : Flg}
    (takes : matrixTakes s.cc i = some (b, scales, lost)) :
    asksNothing i = true ∧ ∃ eff, exec i s = s.issueM i eff ∧ eff s.cc = CoreSt.mIssue i b scales lost s.cc := by
  cases i
  case mma | mmaq | mzero | mret | mrets | mcvt | mtr | mldl | mtrs =>
    cases takes
    unfold exec
    refine ⟨rfl, _, rfl, ?_⟩
    rfl
  case msca =>
    simp only [matrixTakes, Option.some.injEq, Prod.mk.injEq] at takes
    obtain ⟨rfl, rfl, rfl⟩ := takes
    unfold exec
    refine ⟨rfl, _, rfl, ?_⟩
    dsimp only
    rw [scaled_clusters]
  all_goals cases takes

theorem matrixCommandEnters {s : State} {i : Instr} {b : W64} {scales : BitVec 2048} {lost : Flg}
    (takes : matrixTakes s.cc i = some (b, scales, lost)) (goes : Goes i s (s.cc.shadowFull = false)) :
    exec i s = .next (s.setCore s.cur
      (if s.cc.flow.mrun = none ∧ s.cc.flow.mq = [] then (commanded s.cc i b scales lost).mGo s.cc.flow.cyc
       else commanded s.cc i b scales lost)) := by
  obtain ⟨nothing, eff, meaning, value⟩ := exec_matrixTakes takes
  rw [meaning, issueM_of_goes goes, issue_of_goes goes fun _ => meetsNone_of_asksNothing s.cc nothing, State.onCur, value, mIssue_eq]

/-! ## Room in a queue (R211, R280, R345) -/

/-- The queue of an operation has room for it, with the operations that a trap set aside (R234). -/
def HasRoom (c : CoreSt) (i : Instr) : Prop :=
  match i.queue with
  | some .mem => c.flow.mem.length + c.flow.memHeld.length < 64
  | some .d => c.dom.ops.length + c.dom.held.length + (if c.dom.run.isSome then 1 else 0) < 64
  | some .x => c.flow.xq.length + c.flow.xheld.length < 16
  | _ => True

/-- The shadow set of the copy engine passes the checks of XGO (R347). -/
def ShadowPasses (c : CoreSt) (i : Instr) : Prop :=
  ∀ w, i = .xgo w → c.xc.kind.toNat < 2 ∧ c.xc.len.toNat < 2 ^ 32 ∧ c.xc.rows.toNat < 2 ^ 32

theorem engineFaults_of_room {c : CoreSt} {i : Instr} (room : HasRoom c i) (shadow : ShadowPasses c i) (k : Nat) (b : Addr) :
    c.engineFaults [{ slot := k, op := i, bundle := b }] = [] := by
  refine List.filterMap_eq_nil_iff.mpr fun x single => if_neg ?_
  obtain rfl := List.mem_singleton.mp single
  rw [Bool.or_eq_true, not_or]
  constructor
  · unfold HasRoom at room
    split at room <;> simp_all
  · split
    next w same =>
      obtain ⟨kind, len, rows⟩ := shadow w same
      simp only [Bool.or_eq_true, decide_eq_true_eq]
      omega
    next => exact Bool.false_ne_true

/-- An operation of the domain unit, memory order or the copy engine asks for room and for its aligned addresses (R233). -/
theorem meetsNone_of_queued {c : CoreSt} {i : Instr} {q : QueueId} (queue : i.queue = some q) (room : HasRoom c i) (shadow : ShadowPasses c i)
    (fits : ∀ z x b w, i = .delem z x b w → (c.src b).toNat % 4 = 0 ∧ (c.src b).toNat + 256 ≤ 2 ^ 21)
    (aligned : ∀ x ∈ c.aligned i, x.1.toNat % x.2.1 = 0) : MeetsNone c i := by
  have engine := engineFaults_of_room room shadow
  cases i
  case delem =>
    refine ⟨fun _ _ => rfl, fun _ _ _ => rfl, ?_, aligned, engine, fun _ _ _ _ => ⟨nofun, nofun⟩⟩
    rintro _ _ _ _ ⟨⟩
    exact fits _ _ _ _ rfl
  all_goals cases queue
  all_goals exact ⟨fun _ _ => rfl, fun _ _ _ => rfl, nofun, aligned, engine, fun _ _ _ _ => ⟨nofun, nofun⟩⟩

/-! ## Domain operations (R211, R222) -/

theorem dom_issue_cancelled {c : CoreSt} {i : Instr} (cancelled : Cancelled c i) (a b : W64) (lost : Flg) :
    Dom.issue i a b lost c = (dOpened c i).tokDone i.token := by
  obtain ⟨waits, other⟩ := cancelled
  unfold Dom.issue dOpened
  generalize i.token = tok at other ⊢
  cases tok <;> exact if_pos (by simp [CoreSt.tokOpen, CoreSt.setToken, waits, other])

theorem dom_issue_queued {c : CoreSt} {i : Instr} (live : ¬ Cancelled c i) (a b : W64) (lost : Flg) : Dom.issue i a b lost c =
    if c.dom.run = none ∧ c.dom.ops = [] then Dom.goAt (queuedD c i a b lost) c.flow.cyc else queuedD c i a b lost := by
  unfold Cancelled at live
  unfold Dom.issue queuedD dOpened
  generalize i.token = tok at live ⊢
  cases tok with
  | none =>
    refine (if_neg (by simpa using live)).trans ?_
    simp only [Bool.and_eq_true, Option.isNone_iff_eq_none, decide_eq_true_eq]
  | some w =>
    refine (if_neg (by simpa [CoreSt.tokOpen, CoreSt.setToken] using live)).trans ?_
    simp only [Bool.and_eq_true, Option.isNone_iff_eq_none, decide_eq_true_eq]
    rfl

theorem exec_domainTakes {s : State} {i : Instr} {a b : W64} {lost : Flg} (takes : domainTakes s.cc i = some (a, b, lost)) :
    i.queue = some .d ∧ ∃ eff, exec i s = s.issue i eff ∧ eff s = s.setCore s.cur (Dom.issue i a b lost s.cc) := by
  cases i
  case dadd | dsub | dmul | dmin | dmax | deq | dne | dlt | dle | deqi | dnei | dlti | dlei | dgti | dgei | din | dnotin | dseti | dlab | dval
    | dsize | dlo | dhi | dsettle | dclr | dopen | dclose =>
    cases takes
    exact ⟨rfl, fun s => s.onCur (Dom.issue _ 0 0 0), rfl, rfl⟩
  case delem | dset =>
    cases takes
    unfold exec
    dsimp only
    exact ⟨rfl, _, rfl, rfl⟩
  all_goals cases takes

/-- A domain operation asks for no alignment but that of DELEM's table, which is an access of the scratchpad (R213). -/
theorem aligned_of_domain {c : CoreSt} {i : Instr} {a b : W64} {lost : Flg} (takes : domainTakes c i = some (a, b, lost)) :
    ∀ x ∈ c.aligned i, x.1.toNat % x.2.1 = 0 := by
  cases i
  all_goals cases takes
  all_goals exact nofun

theorem exec_domainTakes_of_goes {s : State} {i : Instr} {a b : W64} {lost : Flg} (takes : domainTakes s.cc i = some (a, b, lost))
    (goes : Goes i s (domainMay s.cc i)) : exec i s = .next (s.setCore s.cur (Dom.issue i a b lost s.cc)) := by
  obtain ⟨queue, eff, meaning, value⟩ := exec_domainTakes takes
  rw [meaning, issue_of_goes goes fun ⟨room, table⟩ => meetsNone_of_queued queue (by rw [HasRoom, queue]; exact room) ?_ table ?_, value]
  · rintro w rfl
    cases queue
  · exact aligned_of_domain takes

/-- Settles O10: the entry of a matrix command, and of a domain operation, live or cancelled. -/
theorem unitOperationsEnterTheirQueues : Obligations.UnitOperationsEnterTheirQueues := by
  unfold Obligations.UnitOperationsEnterTheirQueues
  refine ⟨fun s i b scales lost takes goes => matrixCommandEnters takes goes,
    fun s i a b lost takes goes => ⟨fun live => ?_, fun cancelled => ?_⟩⟩
  · rw [exec_domainTakes_of_goes takes goes, dom_issue_queued live]
  · rw [exec_domainTakes_of_goes takes goes, dom_issue_cancelled cancelled]

end Sys2Proof.Proofs
end

section
/-! The entry of memory operations into the memory-order queue and of copy commands into the copy engine's (R280, R345). -/

namespace Sys2Proof.Proofs

open Sys2Proof.Machine Sys2Proof.Claims Sys2Proof.Laws

/-! ## Memory operations (R280) -/

theorem enqueue_eq (s : State) (i : Instr) (x : QArgs) : s.enqueue i x = (s.setCore s.cur (queuedM s.cc i x)).stampHead s.cur := rfl

theorem snapTiles_single (t : BitVec 4) (c : CoreSt) : snapTiles false t c = (c.tile t.toNat).setWidth 131072 := by
  simp [snapTiles]

theorem wordArgs_quiet (a : SSrc) (b e : W64) (c : CoreSt) :
    wordArgs a b e 0 c = { addr := c.src a, stride := 0, rows := 1, snap := 0, b := b, c := e, lost := c.srcFlag a } := by
  simp [wordArgs]

/-- A memory operation's meaning is its entry with what it takes of the core. -/
theorem exec_memoryTakes {s : State} {i : Instr} {x : QArgs} (takes : memoryTakes s.cc i = some x) :
    i.queue = some .mem ∧ ∃ f, exec i s = s.issueQ i f ∧ f s.cc = x := by
  cases i
  case tld | amoadd | amoswp | amomin | amomax | amoand | amoor | binit | xtld | xtst =>
    cases takes
    unfold exec
    exact ⟨rfl, _, rfl, rfl⟩
  case amocas =>
    cases takes
    unfold exec
    exact ⟨rfl, _, rfl, by simp only [wordArgs, lost2, BitVec.or_assoc]⟩
  case tst =>
    cases takes
    unfold exec
    exact ⟨rfl, _, rfl, by simp only [tileArgs, snapTiles_single, lost2]⟩
  case tldw =>
    cases takes
    unfold exec
    exact ⟨rfl, _, rfl, by simp [tileArgs, CoreSt.srcFlag]⟩
  case arrive =>
    cases takes
    unfold exec
    exact ⟨rfl, _, rfl, wordArgs_quiet _ _ _ _⟩
  all_goals cases takes

theorem aligned_of_memoryAligned {c : CoreSt} {i : Instr} (queue : i.queue = some .mem) (aligned : memoryAligned c i) :
    ∀ x ∈ c.aligned i, x.1.toNat % x.2.1 = 0 := by
  cases i
  all_goals cases queue
  all_goals simpa [CoreSt.aligned, memoryAligned] using aligned

theorem memoryOperationEnters {s : State} {i : Instr} {x : QArgs} (takes : memoryTakes s.cc i = some x)
    (goes : Goes i s (s.cc.flow.mem.length + s.cc.flow.memHeld.length < 64 ∧ memoryAligned s.cc i)) :
    exec i s = .next ((s.setCore s.cur (queuedM s.cc i x)).stampHead s.cur) := by
  obtain ⟨queue, f, meaning, value⟩ := exec_memoryTakes takes
  rw [meaning, State.issueQ, issue_of_goes goes fun ⟨room, aligned⟩ => meetsNone_of_queued queue (by rw [HasRoom, queue]; exact room) ?_ ?_
    (aligned_of_memoryAligned queue aligned), value, enqueue_eq]
  · rintro w rfl
    cases queue
  · rintro z x b w rfl
    cases queue

/-! ## Copy commands (R345 to R348, R350) -/

theorem exec_copyTakes {s : State} {i : Instr} {a : XArgs} (takes : copyTakes s.cc i = some a) :
    i.queue = some .x ∧ ∃ eff, exec i s = s.issue i eff ∧ eff s = s.setCore s.cur (queuedX s.cc i a) := by
  cases i
  case xcpy | pput | pget | xgo =>
    cases takes
    unfold exec
    exact ⟨rfl, _, rfl, rfl⟩
  all_goals cases takes

theorem meetsNone_of_copyMay {c : CoreSt} {i : Instr} (queue : i.queue = some .x) (may : copyMay c i) : MeetsNone c i := by
  cases i
  case xcpy | pput | pget =>
    obtain ⟨room, dst, src, len⟩ := may
    exact meetsNone_of_queued queue room nofun nofun (by simp [CoreSt.aligned, dst, src, len])
  case xgo =>
    obtain ⟨room, kind, len, rows, dst, src, lenAligned, dstride, sstride⟩ := may
    have source : (if c.xc.kind.toNat % 4 = 0 then c.xc.src else 0).toNat % 64 = 0 := by
      split
      next copy => exact src (by rw [BitVec.getLsbD, Nat.testBit_zero, decide_eq_false_iff_not]; omega)
      next => rfl
    refine meetsNone_of_queued queue room (fun _ _ => ⟨kind, len, rows⟩) nofun ?_
    simpa [CoreSt.aligned, dst, lenAligned, dstride, sstride] using source
  all_goals cases queue

/-- Settles O11: a memory operation's entry, and a copy command's. -/
theorem memoryAndCopyCommandsEnterTheirQueues : Obligations.MemoryAndCopyCommandsEnterTheirQueues := by
  unfold Obligations.MemoryAndCopyCommandsEnterTheirQueues
  refine ⟨fun s i x takes goes => memoryOperationEnters takes goes, fun s i a takes goes => ?_⟩
  obtain ⟨queue, eff, meaning, value⟩ := exec_copyTakes takes
  rw [meaning, issue_of_goes goes (meetsNone_of_copyMay queue), value]

end Sys2Proof.Proofs
end

section
/-! The control transfers (R121). -/

namespace Sys2Proof.Proofs

open Sys2Proof.Machine Sys2Proof.Claims Sys2Proof.Laws

/-- A transfer to a register asks for a target that is a multiple of 4 (R121, R233). -/
theorem meetsNone_of_target {c : CoreSt} {i : Instr} {t : W64} (transfer : target c i = some t)
    (multiple : asksNothing i = true ∨ t.toNat % 4 = 0) : MeetsNone c i := by
  obtain nothing | multiple := multiple
  · exact meetsNone_of_asksNothing c nothing
  cases i
  case br | call => exact meetsNone_of_asksNothing c rfl
  case brr | callr | ret =>
    cases transfer
    exact ⟨fun _ _ => rfl, fun _ _ _ => rfl, nofun, by simpa [CoreSt.aligned] using multiple, fun _ _ => rfl, fun _ _ _ _ => ⟨nofun, nofun⟩⟩
  all_goals cases transfer

theorem exec_target {s : State} {i : Instr} {t : W64} (transfer : target s.cc i = some t) :
    ∃ eff, exec i s = s.issue i eff ∧ eff s = s.setCore s.cur (transferred s.cc i t) := by
  cases i
  case br | brr | ret =>
    cases transfer
    unfold exec
    exact ⟨_, rfl, rfl⟩
  case call | callr =>
    cases transfer
    unfold exec
    exact ⟨_, rfl, by simp only [transferred, ← fly_eq_fliesCore]; rfl⟩
  all_goals cases transfer

/-- Settles O12: a transfer's target and link, where its target is aligned. -/
theorem branchesTransferControl : Obligations.BranchesTransferControl := by
  unfold Obligations.BranchesTransferControl
  intro s i t transfer goes
  obtain ⟨eff, meaning, value⟩ := exec_target transfer
  rw [meaning, issue_of_goes goes fun multiple => meetsNone_of_target transfer ?_, value]
  split at multiple
  exacts [.inl rfl, .inl rfl, .inr multiple]

end Sys2Proof.Proofs
end

section
/-! The landing of one result in its register (R65, R70, R101, R102, R104, R139, R239). -/

namespace Sys2Proof.Proofs

open Sys2Proof.Machine Sys2Proof.Claims Sys2Proof.Laws

/-! ## The landing of the only result in flight -/

/-- The core once its only result has left the results in flight: of a load under cr.compat that lands before its own latency ends, that latency
stays (R70). -/
def afterLanding (c : CoreSt) (f : InFlight) : CoreSt :=
  { c with flow := { c.flow with
      flight := if f.due ≤ c.flow.cyc then [] else [{ f with dests := [], writes := [], flags := 0, lag := 0 }] } }

theorem exec_resultLanding_single {s : State} {g : Nat} {f : InFlight} (known : g < 288) (alone : (s.core g).flow.flight = [f])
    (due : f.due - f.lag ≤ (s.core g).flow.cyc) (store : CoreSt.isStore f = false) (control : CoreSt.isCr f = false) :
    exec (.resultLanding g) s = .next (s.setCore g ((afterLanding (s.core g) f).land f)) := by
  have lands : CoreSt.lands (s.core g).flow.cyc f = true := by simp [CoreSt.lands, due, store]
  refine coreEvent_eq_next.mpr ⟨known, ?_⟩
  dsimp only
  rw [alone, if_pos (by simp [lands])]
  refine congrArg (fun c => some (s.setCore g c)) ?_
  rw [CoreSt.landDue, alone]
  by_cases passed : f.due ≤ (s.core g).flow.cyc <;>
    simp [lands, control, CoreSt.leftOf, passed, afterLanding]

/-- A result of one write that raises nothing of its own lands with the flags it flew with (R239). -/
theorem land_single {c : CoreSt} {f : InFlight} {w : Write} (only : f.writes = [w]) (quiet : (c.applyWrite w).2 = 0) :
    c.land f = (c.applyWrite w).1.raise f.slot f.bundle f.flags := by
  simp [CoreSt.land, only, quiet]

/-- What every landing of a register result does beside its register: it leaves the results in flight, raises its flags in the sticky record of
its slot, and changes neither memory nor the hub, the scratchpad or a tile. -/
def LandsAs (s : State) (g : Nat) (f : InFlight) (u : State) : Prop :=
  exec (.resultLanding g) s = .next u ∧ u.ord = s.ord ∧ u.hub = s.hub ∧
    (u.core g).flow.flight = (afterLanding (s.core g) f).flow.flight ∧
    (u.core g).files.spad = (s.core g).files.spad ∧ (u.core g).files.t = (s.core g).files.t ∧
    (u.core g).ctrl.sticky = vset (s.core g).ctrl.sticky f.slot (stickyRaise (vget 0 (s.core g).ctrl.sticky f.slot) f.bundle f.flags)

section

variable {s : State} {g : Nat} {f : InFlight} (known : g < 288) (alone : (s.core g).flow.flight = [f])
  (due : f.due - f.lag ≤ (s.core g).flow.cyc)
include known alone due

/-- A write that changes only register files, and of those neither the scratchpad nor the tiles, lands in them. -/
theorem landsAs_of_files {w : Write} {files : Files} (only : f.writes = [w]) (store : CoreSt.isStore f = false) (control : CoreSt.isCr f = false)
    (writes : (afterLanding (s.core g) f).applyWrite w = ({ afterLanding (s.core g) f with files := files }, 0))
    (spad : files.spad = (s.core g).files.spad) (tiles : files.t = (s.core g).files.t) :
    ∃ u, LandsAs s g f u ∧ (u.core g).files = files := by
  have lands := exec_resultLanding_single known alone due store control
  rw [land_single only (by rw [writes]), writes] at lands
  refine ⟨_, ⟨lands, rfl, rfl, ?_⟩, ?_⟩
  all_goals rw [State.setCore_core_same _ _ _ known]
  · exact ⟨rfl, spad, tiles, rfl⟩
  · rfl

end

/-! ## Register writes -/

theorem setSreg_files (c : CoreSt) (n : Nat) (x : W64) : c.setSreg n x = { c with files := { c.files with s := (c.setSreg n x).files.s } } := by
  unfold CoreSt.setSreg
  split <;> rfl

theorem sreg_of_files {c d : CoreSt} (same : d.files.s = c.files.s) (n : Nat) : d.sreg n = c.sreg n := by rw [CoreSt.sreg, CoreSt.sreg, same]

theorem pred_of_files {c d : CoreSt} (same : d.files.p = c.files.p) (n : Nat) : d.pred n = c.pred n := by rw [CoreSt.pred, CoreSt.pred, same]

theorem vreg_of_files {c d : CoreSt} (same : d.files.cl = c.files.cl) (i n : Nat) : d.vreg i n = c.vreg i n := by
  rw [CoreSt.vreg, CoreSt.vreg, CoreSt.clus, CoreSt.clus, same]

/-- Bits of a small word, shifted to a pair. -/
theorem getLsbD_shift_pair {v : W16} (two : v.toNat < 4) (k m : Nat) (reg : m < 16) :
    (v <<< (2 * k)).getLsbD m = if m = 2 * k then v.getLsbD 0 else if m = 2 * k + 1 then v.getLsbD 1 else false := by
  rw [BitVec.getLsbD_shiftLeft, decide_eq_true reg, Bool.true_and]
  split_ifs with even odd
  · simp [even]
  · simp [odd]
  · by_cases below : m < 2 * k
    · simp [below]
    · have above : v.toNat < 2 ^ (m - 2 * k) := two.trans_le (Nat.pow_le_pow_right two_pos (by omega : 2 ≤ m - 2 * k))
      simp [BitVec.getLsbD, Nat.testBit_lt_two_pow above]

/-- A pair takes a result and its complement; p0 and p1 stay as they are (R101, R104). -/
theorem setPair_pred (c : CoreSt) (k : Nat) (b : Bool) {m : Nat} (reg : m < 16) : (c.setPair k b).pred m =
    if k ≠ 0 ∧ m = 2 * k then b else if k ≠ 0 ∧ m = 2 * k + 1 then !b else c.pred m := by
  have bits : (if b then 1#16 else 2#16).toNat < 4 := by cases b <;> decide
  have bit0 : (if b then 1#16 else 2#16).getLsbD 0 = b := by cases b <;> rfl
  have bit1 : (if b then 1#16 else 2#16).getLsbD 1 = !b := by cases b <;> rfl
  simp only [CoreSt.pred, CoreSt.setPair, BitVec.getLsbD_or, BitVec.getLsbD_and, BitVec.getLsbD_not, decide_eq_true reg, Bool.true_and,
    getLsbD_shift_pair bits k m reg, getLsbD_shift_pair (v := 3#16) (by decide) k m reg, bit0, bit1]
  split_ifs <;> simp_all

theorem setVreg_vreg_same (c : CoreSt) {i n : Nat} (x mask : W512) (cluster : i < 8) (reg : n < 32) :
    (c.setVreg i n x mask).vreg i n = (c.vreg i n &&& ~~~mask) ||| (x &&& mask) := by
  simp only [CoreSt.setVreg, CoreSt.setClus, CoreSt.vreg, CoreSt.clus]
  rw [vget_vset_same _ _ _ _ cluster, vget_vset_same _ _ _ _ reg]

theorem setVreg_vreg_other (c : CoreSt) {i n j m : Nat} (x mask : W512) (other : ¬(j = i ∧ m = n)) :
    (c.setVreg i n x mask).vreg j m = c.vreg j m := by
  simp only [CoreSt.setVreg, CoreSt.setClus, CoreSt.vreg, CoreSt.clus, vget_vset _ c.files.cl]
  split
  next same =>
    obtain ⟨rfl, cluster⟩ := same
    rw [vget_vset_other _ _ _ _ _ fun reg => other ⟨rfl, reg⟩]
  next => rfl

theorem getLsbD_masked (old x mask : W512) {b : Nat} (bit : b < 512) :
    ((old &&& ~~~mask) ||| (x &&& mask)).getLsbD b = if mask.getLsbD b then x.getLsbD b else old.getLsbD b := by
  simp only [BitVec.getLsbD_or, BitVec.getLsbD_and, BitVec.getLsbD_not, decide_eq_true bit, Bool.true_and]
  cases mask.getLsbD b <;> simp

/-- Settles O31: by the landing of the only result in flight, and what its write changes. -/
theorem resultsLandInTheirRegisters : Obligations.ResultsLandInTheirRegisters := by
  unfold Obligations.ResultsLandInTheirRegisters
  intro s g f known alone due unread slot
  refine ⟨fun n x only inside => ?_, fun k b only inside => ?_, fun i n x mask only cluster inside => ?_⟩
  · obtain ⟨u, lands, files⟩ := landsAs_of_files known alone due only (by simp [CoreSt.isStore, only]) (by simp [CoreSt.isCr, only])
      (congrArg (·, 0) (setSreg_files _ n x)) rfl rfl
    refine ⟨u, lands, by rw [files]; rfl, by rw [files]; rfl, fun m _ => ?_⟩
    rw [sreg_of_files (c := (afterLanding (s.core g) f).setSreg n x) (by rw [files]), CoreSt.setSreg_sreg]
    simp only [inside, and_true]
    rfl
  · obtain ⟨u, lands, files⟩ := landsAs_of_files known alone due only (by simp [CoreSt.isStore, only]) (by simp [CoreSt.isCr, only])
      rfl rfl rfl
    refine ⟨u, lands, by rw [files]; rfl, by rw [files]; rfl, fun m reg => ?_⟩
    exact (pred_of_files (c := (afterLanding (s.core g) f).setPair k b) (by rw [files]; rfl) m).trans (setPair_pred _ k b reg)
  · obtain ⟨u, lands, files⟩ := landsAs_of_files known alone due only (by simp [CoreSt.isStore, only]) (by simp [CoreSt.isCr, only])
      rfl rfl rfl
    have clusters : (u.core g).files.cl = ((afterLanding (s.core g) f).setVreg i n x mask).files.cl := by rw [files]; rfl
    refine ⟨u, lands, by rw [files]; rfl, by rw [files]; rfl, fun b bit => ?_, fun j m _ _ other => ?_⟩
    · rw [vreg_of_files clusters, setVreg_vreg_same _ _ _ cluster inside, getLsbD_masked _ _ _ bit]
      rfl
    · exact (vreg_of_files clusters j m).trans (setVreg_vreg_other _ x mask other)

end Sys2Proof.Proofs
end

section
/-! The fetch of the group that a core has reached (R53, R123, R233, R271). -/

namespace Sys2Proof.Proofs

open Sys2Proof.Machine Sys2Proof.Claims Sys2Proof.Laws

theorem going_of_fetches {c : CoreSt} (fetches : c.fetches = true) : c.reached.stuck = false := by
  simp only [CoreSt.fetches, Bool.and_eq_true, Bool.not_eq_true'] at fetches
  exact fetches.1.1.2

section Fetch

variable {s : State} {g : Nat} (known : g < 288) (fetches : (s.core g).fetches = true)
include known fetches

theorem exec_groupFetch_owed {va : W64} {u : State} (owed : s.fetchOwed g = some va) (touched : s.touchX g va = some u) :
    exec (.groupFetch g) s = .next u :=
  coreEvent_eq_next.mpr ⟨known, by simp [fetches, owed, touched]⟩

theorem exec_groupFetch_now {u : State} (owed : s.fetchOwed g = none) (fetched : s.fetchNow g = some u) : exec (.groupFetch g) s = .next u :=
  coreEvent_eq_next.mpr ⟨known, by simp [fetches, owed, fetched]⟩

theorem exec_groupFetch_holds (owed : s.fetchOwed g = none) (holds : s.fetchNow g = none) :
    exec (.groupFetch g) s = .refused (.notEnabled "GROUP_FETCH") := by
  refine (if_pos known).trans (event_eq_refused.mpr ⟨?_, rfl⟩)
  simp [fetches, owed, holds]

end Fetch

/-! ## What a fetch now gives -/

section Outside

variable {s : State} {g : Nat} (going : (s.core g).reached.stuck = false) (outside : (s.core g).buffered (s.core g).pc = none)
include going outside

theorem fetchNow_of_fault {k : Cause} {va : Addr} {t u : State} (fault : s.fetchGroup g (s.core g).pcVa = .error (k, va))
    (pages : s.touchPages g 4 (s.core g).pcVa (va.toNat - (s.core g).pc.toNat) = some t) (touched : t.touchFault g va = some u) :
    s.fetchNow g = some (u.takeTrapOn g ((s.core g).fetchTrap k va)) := by
  simp [State.fetchNow, going, outside, fault, pages, touched]

/-- A core does not reach a group whose bytes colmer has not bound (R5). -/
theorem fetchNow_of_unbound {x : Group} (fetched : s.fetchGroup g (s.core g).pcVa = .ok x)
    (unbound : s.boundCode g (s.core g).pcVa x.len = false) : s.fetchNow g = none := by
  simp [State.fetchNow, going, outside, fetched, unbound]

end Outside

/-- A group that the loop buffer holds is not fetched, and owes no page its A bit (R123). -/
theorem fetchOwed_of_buffered {s : State} {g : Nat} {x : Group} (low : (s.core g).pcHigh = 0)
    (buffered : (s.core g).buffered (s.core g).pc = some x) : s.fetchOwed g = none := by
  simp [State.fetchOwed, low, buffered]

/-- The core that reaches a group: nothing else of it changes but what its loop levels have found. -/
theorem reach_core {s : State} {g : Nat} (known : g < 288) (x : Group) (stalls : Nat) (now : W64) :
    ((s.findBodies g x.addr).onCore g fun c => c.reach x stalls now).core g =
      { s.core g with
        flow := { (s.core g).flow with loops := ((s.findBodies g x.addr).core g).flow.loops }
        reached := { (s.core g).reached with grp := some x, since := some now, fetchLeft := stalls } } := by
  rw [State.onCore_core_same _ _ _ known, State.findBodies, State.onCore_core_same _ _ _ known]
  rfl

/-- Settles O32: a fetch by what it owes, and else by where its group lies. -/
theorem groupsAreFetched : Obligations.GroupsAreFetched := by
  unfold Obligations.GroupsAreFetched
  intro s g known fetches
  have going := going_of_fetches fetches
  refine ⟨fun va u owed touched => exec_groupFetch_owed known fetches owed touched, fun k va t u owed outside fault pages touched => ?_,
    fun x owed outside fetched unbound => ?_, fun x t owed outside fetched bound pages => ?_, fun x low buffered => ?_⟩
  · exact exec_groupFetch_now known fetches owed (fetchNow_of_fault going outside fault pages touched)
  · exact exec_groupFetch_holds known fetches owed (fetchNow_of_unbound going outside fetched unbound)
  · refine ⟨_, exec_groupFetch_now known fetches owed (fetchNow_of_memory going outside fetched bound pages), rfl, rfl, ?_⟩
    rw [reach_core known]
    exact ⟨rfl, rfl, rfl, rfl⟩
  · refine ⟨_, exec_groupFetch_now known fetches (fetchOwed_of_buffered low buffered) (fetchNow_of_buffered going low buffered), rfl, rfl, ?_⟩
    rw [reach_core known]
    exact ⟨rfl, rfl, rfl⟩

end Sys2Proof.Proofs
end

section
/-! Stops and resumes: the landing of everything in flight at a stop, breakpoints, watch hits, stop requests and resumes (R256, R258, R394). -/

namespace Sys2Proof.Proofs

open Sys2Proof.Machine Sys2Proof.Claims Sys2Proof.Laws

/-! ## Which results a landing leaves in flight (R65, R70) -/

theorem crWrite_flow (c : CoreSt) (n : Nat) (x : W64) : (c.crWrite n x).flow = c.flow := by
  unfold CoreSt.crWrite
  repeat' split
  all_goals rfl

theorem checkLanding_flow (c : CoreSt) (i : Nat) : (c.checkLanding i).flow = c.flow := by
  unfold CoreSt.checkLanding CoreSt.checkAxis
  split
  · rfl
  · split <;> rfl

/-- A write changes no field of the flow. -/
theorem applyWrite_flow (c : CoreSt) (w : Write) : (c.applyWrite w).1.flow = c.flow := by
  cases w with
  | sreg n x => simp only [CoreSt.applyWrite, CoreSt.setSreg]; split <;> rfl
  | kreg i n x => simp only [CoreSt.applyWrite, CoreSt.setK]; split <;> rfl
  | spad x bs => simp only [CoreSt.applyWrite, CoreSt.spadWrite]; split <;> rfl
  | norm i n => exact checkLanding_flow _ i
  | setn i n =>
    simp only [CoreSt.applyWrite]
    split
    · rfl
    · split
      · rfl
      · exact checkLanding_flow _ i
  | cr n x => exact crWrite_flow c n x
  | slatch | pair | preds | vreg | vlatch | axis | aload | ma | xc => rfl

theorem land_flow (c : CoreSt) (f : InFlight) : (c.land f).flow = c.flow :=
  foldl_keeps (f := fun (x : CoreSt × Flg) w => let y := x.1.applyWrite w; (y.1, x.2 ||| y.2)) (fun x => x.1.flow)
    (fun x w => applyWrite_flow x.1 w) f.writes (c, f.flags)

theorem landDue_flow (c : CoreSt) (k : Nat) :
    (c.landDue k).flow = { c.flow with flight := c.flow.flight.filterMap (CoreSt.leftOf k) } :=
  (foldl_keeps CoreSt.flow land_flow _ _).trans (foldl_keeps CoreSt.flow land_flow _ _)

theorem landStores_flow (c : CoreSt) (k : Nat) : (c.landStores k).flow =
    { c.flow with flight := c.flow.flight.filter fun f => !(decide (f.due ≤ k) && CoreSt.isStore f) } :=
  foldl_keeps CoreSt.flow land_flow _ _

/-- What is left in flight of a result after cycle k is a store, or due later. -/
theorem due_of_leftOf {k : Nat} {f r : InFlight} (left : CoreSt.leftOf k f = some r) : k < r.due ∨ CoreSt.isStore r = true := by
  unfold CoreSt.leftOf CoreSt.lands at left
  split at left
  next later =>
    cases left
    simp only [Bool.not_eq_true', Bool.and_eq_false_iff, decide_eq_false_iff_not, Bool.not_eq_false'] at later
    exact later.imp_left (by omega)
  next =>
    split at left
    next => cases left
    next later =>
      cases left
      exact .inl (not_le.mp later)

/-- After the landings and the stores of a cycle, what is in flight is due later. -/
theorem due_of_cycle (c : CoreSt) (k : Nat) : ∀ f ∈ ((c.landAt k).landStores k).flow.flight, k < f.due := by
  intro f inFlight
  rw [landStores_flow, CoreSt.landAt, landDue_flow] at inFlight
  obtain ⟨kept, unwritten⟩ := List.mem_filter.mp inFlight
  obtain ⟨r, _, left⟩ := List.mem_filterMap.mp kept
  obtain later | store := due_of_leftOf left
  · exact later
  · simpa [store] using unwritten

/-- One cycle of the landings of a stop. -/
def landCycle (c : CoreSt) (i : Nat) : CoreSt :=
  if c.flow.flight = [] then c else (c.landAt (c.flow.cyc + i)).landStores (c.flow.cyc + i)

theorem landAll_eq (c : CoreSt) : c.landAll = landCycle ((List.range 23).foldl landCycle c) 23 := by
  change (List.range 24).foldl landCycle c = _
  rw [List.range_succ, List.foldl_append]
  rfl

theorem landCycle_cyc (c : CoreSt) (i : Nat) : (landCycle c i).flow.cyc = c.flow.cyc := by
  unfold landCycle
  split
  · rfl
  · rw [landStores_flow, CoreSt.landAt, landDue_flow]
    rfl

/-- At a stop every result due within 24 cycles has landed: the last of them is the cycle before. -/
theorem due_of_landAll (c : CoreSt) : ∀ f ∈ c.landAll.flow.flight, c.flow.cyc + 24 ≤ f.due := by
  have cyc : ((List.range 23).foldl landCycle c).flow.cyc = c.flow.cyc := foldl_keeps (fun c : CoreSt => c.flow.cyc) landCycle_cyc _ c
  rw [landAll_eq, landCycle, cyc]
  split
  next landed => simp [landed]
  next => exact due_of_cycle _ _

@[simp] theorem landAll_pc (c : CoreSt) : c.landAll.pc = c.pc := by
  have kept := congrArg (fun x : CoreSt => x.pc) (landAll_resting c)
  exact kept

/-! ## Stops (R256, R394) -/

theorem stopCore_core {s : State} {g : Nat} (known : g < 288) : (s.stopCore g).core g =
    { (s.core g).landAll with dbg := { (s.core g).landAll.dbg with stopped := true }, req := { (s.core g).landAll.req with stop := false } } :=
  State.onCore_core_same _ _ _ known

theorem exec_breakpoint {s : State} {g b : Nat} {x : Group} (known : g < 288) (index : b < 8) (reached : (s.core g).atGroup = some x)
    (fresh : (s.core g).reached.broke = false) (names : (s.core g).bpAt b x.addr = true) :
    exec (.breakpoint g b) s = .next (s.breakAt g b) :=
  coreEvent_eq_next.mpr ⟨known, by simp [reached, index, fresh, names]⟩

theorem exec_watchHit {s : State} {g : Nat} {h : WatchHit} (known : g < 288) (hit : (s.core g).dbg.hit = some h)
    (running : (s.core g).status = .running) (step : (s.core g).ctrl.handler = false) (going : (s.core g).dbg.stopped = false) :
    exec (.watchHit g h.range) s = .next (s.watchActs g h) :=
  coreEvent_eq_next.mpr ⟨known, by simp [hit, running, step, going]⟩

/-- The core at a breakpoint, which does not fire again for this group. -/
def atBreak (s : State) (g : Nat) : State := s.onCore g fun c => { c with reached := { c.reached with broke := true } }

theorem atBreak_core {s : State} {g : Nat} (known : g < 288) :
    (atBreak s g).core g = { s.core g with reached := { (s.core g).reached with broke := true } } :=
  State.onCore_core_same _ _ _ known

/-- The core with its watch hit taken. -/
def hitTaken (s : State) (g : Nat) : State := s.onCore g fun c => { c with dbg := { c.dbg with hit := none } }

theorem hitTaken_core {s : State} {g : Nat} (known : g < 288) : (hitTaken s g).core g = { s.core g with dbg := { (s.core g).dbg with hit := none } } :=
  State.onCore_core_same _ _ _ known

theorem breakAt_owned {s : State} {g b : Nat} (stops : (s.core g).bpTraces b = false) (owned : (s.core g).dbg.owned = true) :
    s.breakAt g b = (atBreak s g).stopCore g := by
  simp [State.breakAt, stops, owned, atBreak]

theorem breakAt_free {s : State} {g b : Nat} (stops : (s.core g).bpTraces b = false) (free : (s.core g).dbg.owned = false) :
    s.breakAt g b = (atBreak s g).breakTrap g b := by
  simp [State.breakAt, stops, free, atBreak]

theorem watchActs_owned {s : State} {g : Nat} {h : WatchHit} (stops : (s.core g).dbg.trace = false) (owned : (s.core g).dbg.owned = true) :
    s.watchActs g h = (hitTaken s g).stopCore g := by
  simp [State.watchActs, stops, owned, hitTaken]

theorem watchActs_free {s : State} {g : Nat} {h : WatchHit} (stops : (s.core g).dbg.trace = false) (free : (s.core g).dbg.owned = false) :
    s.watchActs g h = (hitTaken s g).takeTrapOn g { CoreSt.blankTrap .watch with
      slots := h.slots, info := BitVec.ofNat 16 h.range, bundle := h.group, resume := (s.core g).pc, va := h.va, sched := h.sched
      ended := (s.core g).status == .ended } := by
  simp [State.watchActs, stops, free, hitTaken]

/-- Settles O44: breakpoints and watch hits stop an owned core once all has landed and trap on another; a request waits, and a resume goes on. -/
theorem stopsAndResumes : Obligations.StopsAndResumes := by
  unfold Obligations.StopsAndResumes
  refine ⟨fun s g b x known index reached fresh names stops => ⟨fun owned => ?_, fun free => ?_⟩,
    fun s g r h known hit range running step stops going => ⟨fun owned => ?_, fun free => ?_⟩,
    fun s g known => coreEvent_eq_next.mpr ⟨known, rfl⟩, fun s g known stopped => coreEvent_eq_next.mpr ⟨known, if_pos stopped⟩⟩
  · have stop := exec_breakpoint known index reached fresh names
    rw [breakAt_owned stops owned] at stop
    refine ⟨_, stop, ?_⟩
    rw [stopCore_core known, atBreak_core known]
    refine ⟨rfl, rfl, due_of_landAll _, rfl, landAll_pc _, fun h other => ?_⟩
    exact (State.onCore_core_other _ _ _ _ other).trans (State.onCore_core_other _ _ _ _ other)
  · have trap := exec_breakpoint known index reached fresh names
    rw [breakAt_free stops free] at trap
    refine ⟨_, _, trap, rfl, rfl, ?_⟩
    rw [State.onCore_core_same _ _ _ known, atBreak_core known]
    exact ⟨rfl, rfl, rfl⟩
  · subst range
    have stop := exec_watchHit known hit running step going
    rw [watchActs_owned stops owned] at stop
    refine ⟨_, stop, ?_⟩
    rw [stopCore_core known, hitTaken_core known]
    refine ⟨rfl, ?_, due_of_landAll _, rfl, rfl⟩
    dsimp only
    rw [landAll_dbg]
  · subst range
    have trap := exec_watchHit known hit running step going
    rw [watchActs_free stops free] at trap
    refine ⟨_, _, trap, rfl, rfl, rfl, rfl, rfl, rfl, ?_⟩
    rw [hitTaken_core known]

end Sys2Proof.Proofs
end

section
/-! The predicate pairs: the compares, the floating-point compares and the predicate logic (R104, R114, R115, R119). -/

namespace Sys2Proof.Proofs

open Sys2Proof.Machine Sys2Proof.Claims Sys2Proof.Laws

theorem landP_flies {s : State} {i : Instr} {lat : Nat} {p : BitVec 3} {b : Bool} {fl : Flg} {f : CoreSt → Bool × Flg} (goes : Goes i s True)
    (nothing : asksNothing i = true) (latency : i.latency s.cc.classB = lat) (value : f s.cc = (b, fl)) :
    landP i p f s = .next (flies s i lat [.pair p.toNat b] fl) :=
  issue_flies goes (fun _ => meetsNone_of_asksNothing s.cc nothing) (by rw [State.onCur, latency, value])

theorem cmpS_apply (a b : SSrc) (f : W64 → W64 → Bool) (c : CoreSt) : cmpS a b f c = (f (c.src a) (c.src b), lost2 c a b) := rfl

theorem cmpI_apply (a : SSrc) (k : BitVec 12) (f : W64 → W64 → Bool) (c : CoreSt) :
    cmpI a k f c = (f (c.src a) (k.signExtend 64), c.srcFlag a) := rfl

/-- A sign-extended immediate has its own signed value (R114). -/
theorem toInt_imm12 (k : BitVec 12) : (k.signExtend 64).toInt = k.toInt := BitVec.toInt_signExtend_of_le (by decide)

/-- Settles O3: each comparison's function of the core against the table of pairs. -/
theorem comparesLandTheirPair : Obligations.ComparesLandTheirPair := by
  unfold Obligations.ComparesLandTheirPair
  intro s i p lat b fl result goes
  cases i
  case cmpeq | cmpne | cmpeqi | cmpnei =>
    cases result
    exact landP_flies goes rfl rfl (by simp only [cmpS_apply, cmpI_apply, bne, beq_eq_decide, decide_not, ne_eq])
  case cmplt | cmple | cmpltu | cmpleu =>
    cases result
    exact landP_flies goes rfl rfl (by
      simp only [cmpS_apply, BitVec.slt_eq_decide, BitVec.sle_eq_decide, BitVec.ult_eq_decide, BitVec.ule_eq_decide])
  case cmplti | cmplei | cmpltui | cmpleui =>
    cases result
    exact landP_flies goes rfl rfl (by
      simp only [cmpI_apply, toInt_imm12, BitVec.slt_eq_decide, BitVec.sle_eq_decide, BitVec.ult_eq_decide, BitVec.ule_eq_decide])
  case pand | por | pandn | pxor | fcmpeq | fcmplt | fcmple | fcmpun =>
    cases result
    exact landP_flies goes rfl rfl rfl
  all_goals cases result

end Sys2Proof.Proofs
end

section
/-! RDTIME, and the dies' copies of the time counter (R116, R382, R383). -/

namespace Sys2Proof.Proofs

open Sys2Proof.Machine Sys2Proof.Claims Sys2Proof.Laws

/-- How far a die's copy stands behind a value of the time counter (R382; log entry 8). -/
def lagOf (d : Nat) (t : W64) : Nat := min (Config.freeSkew d % 3) t.toNat

/-- The elapsed times, the slices and the counter banks do not touch the clock and its copies. -/
theorem tickTime_keeps {β : Type} (view : State → β) (cores : ∀ s v, view { s with cores := v } = view s)
    (hub : ∀ s v, view { s with hub := v } = view s) (s : State) (n : Nat) : view (s.tickTime n) = view (s.runClock n) := by
  refine (hub _ _).trans ((foldl_keeps view (fun s p => ?_) _ _).trans (cores _ _))
  split
  · exact hub _ _
  · rfl

theorem tickTime_time (s : State) (n : Nat) : (s.tickTime n).time = s.time + BitVec.ofNat 64 n :=
  tickTime_keeps State.time (fun _ _ => rfl) (fun _ _ => rfl) s n

theorem tickTime_dieTime (s : State) (n : Nat) {d : Nat} (die : d < 4) :
    vget 0 (s.tickTime n).dieTime d = (s.tickTime n).time - BitVec.ofNat 64 (lagOf d (s.tickTime n).time) := by
  rw [tickTime_keeps State.dieTime (fun _ _ => rfl) (fun _ _ => rfl), tickTime_time, State.runClock]
  rw [vget_foldl_vset 0 (fun d => _ - BitVec.ofNat 64 (min (Config.freeSkew d % 3) _)) _ die, if_pos die]
  rfl

/-- Without a wrap of the counter, the copy is the counter less its lag. -/
theorem tickTime_dieTime_toNat (s : State) (n : Nat) {d : Nat} (die : d < 4) :
    (vget 0 (s.tickTime n).dieTime d).toNat = (s.tickTime n).time.toNat - lagOf d (s.tickTime n).time := by
  have behind : lagOf d (s.tickTime n).time ≤ (s.tickTime n).time.toNat := min_le_right _ _
  have small : lagOf d (s.tickTime n).time < 2 ^ 64 := behind.trans_lt (s.tickTime n).time.isLt
  rw [tickTime_dieTime s n die, BitVec.toNat_sub_of_le, BitVec.toNat_ofNat, Nat.mod_eq_of_lt small]
  rwa [BitVec.le_def, BitVec.toNat_ofNat, Nat.mod_eq_of_lt small]

theorem tickTime_time_toNat {s : State} {n : Nat} (runs : s.time.toNat + n < 2 ^ 64) : (s.tickTime n).time.toNat = s.time.toNat + n := by
  rw [tickTime_time, BitVec.toNat_add, BitVec.toNat_ofNat, Nat.add_mod_mod, Nat.mod_eq_of_lt runs]

/-- Settles O4: RDTIME by its shared form; a copy's lag of 0 to 2 ns is the same at every value of the counter that is not below it. -/
theorem timeReadsAreRecentAndRise : Obligations.TimeReadsAreRecentAndRise := by
  unfold Obligations.TimeReadsAreRecentAndRise
  refine ⟨fun s d goes => landS_flies goes rfl rfl rfl, fun s n m d die runs => ?_⟩
  intro u v
  have first : u.time.toNat = s.time.toNat + n := tickTime_time_toNat (by omega)
  have second : v.time.toNat = u.time.toNat + m := tickTime_time_toNat (by omega)
  have copy : (vget 0 u.dieTime d).toNat = u.time.toNat - lagOf d u.time := tickTime_dieTime_toNat s n die
  have later : (vget 0 v.dieTime d).toNat = v.time.toNat - lagOf d v.time := tickTime_dieTime_toNat u m die
  have skew : Config.freeSkew d % 3 < 3 := Nat.mod_lt _ (by decide)
  unfold lagOf at copy later
  omega

end Sys2Proof.Proofs
end

section
/-! Division and its edge cases, in a group whose faults have been checked (R109, R110). -/

namespace Sys2Proof.Proofs

open Sys2Proof.Machine Sys2Proof.Claims Sys2Proof.Laws

/-- In a checked group an integer instruction lands what its table says. -/
theorem lands_of_integerResult {s : State} {i : Instr} {d : SDst} {lat : Nat} {x : W64} {fl : Flg} (checked : s.cc.flow.checked = true)
    (result : integerResult s.cc i = some (d, lat, x, fl)) (latency : i.latency s.cc.classB = lat) : Lands s i d x fl := by
  rw [Lands, integerInstructionsLandTheirResults s i d lat x fl result (.inl checked), flies, ← fly_eq_fliesCore, ← latency, State.onCur]

/-- The instructions of R109 that neither divide nor saturate raise no flag of their own. -/
theorem integerResult_plain (c : CoreSt) {d : SDst} {a b : SSrc} {i : Instr} (plain : i ∈ plainInteger d a b) :
    ∃ lat z, integerResult c i = some (d, lat, z, lost2 c a b) ∧ i.latency c.classB = lat := by
  simp only [plainInteger, List.mem_cons, List.not_mem_nil, or_false] at plain
  obtain rfl | rfl | rfl | rfl | rfl | rfl | rfl | rfl | rfl | rfl | rfl | rfl | rfl | rfl | rfl | rfl := plain
  all_goals exact ⟨_, _, rfl, rfl⟩

/-- Flags joined with none. -/
theorem zero_or_flg (f : Flg) : 0 ||| f = f := BitVec.zero_or

section Division

variable {c : CoreSt} {d : SDst} {a b : SSrc}

/-- By zero: the fixed quotients, the dividend as the remainder, and divide-by-zero. -/
theorem integerResult_byZero (zero : c.src b = 0) :
    integerResult c (.div d a b) = some (d, 18, -1, .divz ||| lost2 c a b) ∧
    integerResult c (.divu d a b) = some (d, 18, -1, .divz ||| lost2 c a b) ∧
    integerResult c (.rem d a b) = some (d, 18, c.src a, .divz ||| lost2 c a b) ∧
    integerResult c (.remu d a b) = some (d, 18, c.src a, .divz ||| lost2 c a b) := by
  simp [integerResult, zero]

/-- The one quotient that is no signed 64-bit value wraps. -/
theorem integerResult_overflow (least : c.src a = BitVec.ofInt 64 (-2 ^ 63)) (minusOne : c.src b = -1) :
    integerResult c (.div d a b) = some (d, 18, BitVec.ofInt 64 (-2 ^ 63), lost2 c a b) ∧
    integerResult c (.rem d a b) = some (d, 18, 0, lost2 c a b) := by
  have divisor : c.src b ≠ 0 := by rw [minusOne]; decide
  have quotient : BitVec.ofInt 64 ((BitVec.ofInt 64 (-2 ^ 63)).toInt.tdiv (-1 : W64).toInt) = BitVec.ofInt 64 (-2 ^ 63) := by decide
  have remainder : BitVec.ofInt 64 ((BitVec.ofInt 64 (-2 ^ 63)).toInt.tmod (-1 : W64).toInt) = 0 := by decide
  simp only [integerResult, if_neg divisor]
  rw [least, minusOne, quotient, remainder, zero_or_flg]
  exact ⟨rfl, rfl⟩

/-- By anything else, no flag of its own. -/
theorem integerResult_division (divisor : c.src b ≠ 0) {i : Instr} (division : i ∈ [Instr.div d a b, .divu d a b, .rem d a b, .remu d a b]) :
    ∃ z, integerResult c i = some (d, 18, z, lost2 c a b) ∧ i.latency c.classB = 18 := by
  simp only [List.mem_cons, List.not_mem_nil, or_false] at division
  obtain rfl | rfl | rfl | rfl := division
  all_goals exact ⟨_, by rw [integerResult, if_neg divisor, if_neg divisor, zero_or_flg], rfl⟩

end Division

/-- Settles O60: by the table of integer results at each of the divisor's cases. -/
theorem divisionHasItsEdgeCases : Obligations.DivisionHasItsEdgeCases := by
  unfold Obligations.DivisionHasItsEdgeCases
  intro s d a b checked
  refine ⟨fun zero => ?_, fun least minusOne => ?_, fun divisor i division => ?_, fun i plain => ?_⟩
  · obtain ⟨div, divu, rem, remu⟩ := integerResult_byZero (d := d) (a := a) zero
    exact ⟨lands_of_integerResult checked div rfl, lands_of_integerResult checked divu rfl, lands_of_integerResult checked rem rfl,
      lands_of_integerResult checked remu rfl⟩
  · obtain ⟨div, rem⟩ := integerResult_overflow (d := d) least minusOne
    exact ⟨lands_of_integerResult checked div rfl, lands_of_integerResult checked rem rfl⟩
  · obtain ⟨z, result, latency⟩ := integerResult_division divisor division
    exact ⟨z, lands_of_integerResult checked result latency⟩
  · obtain ⟨lat, z, result, latency⟩ := integerResult_plain s.cc plain
    exact ⟨z, lands_of_integerResult checked result latency⟩

end Sys2Proof.Proofs
end

section
/-! Register 0, which reads zero and takes no result (R102). -/

namespace Sys2Proof.Proofs

open Sys2Proof.Machine Sys2Proof.Claims Sys2Proof.Laws

/-! ## No operation names s0 as a destination -/

/-- Named registers of which none is s0. -/
def SparesZero (l : List Named) : Prop := ∀ n ∈ l, n.2 ≠ .s 0

theorem sparesZero_nil : SparesZero [] := nofun

theorem sparesZero_cons {f : Nat} {d : Dest} {l : List Named} (first : d ≠ .s 0) (rest : SparesZero l) : SparesZero ((f, d) :: l) :=
  List.forall_mem_cons.mpr ⟨first, rest⟩

theorem sparesZero_append {l m : List Named} (left : SparesZero l) (right : SparesZero m) : SparesZero (l ++ m) :=
  List.forall_mem_append.mpr ⟨left, right⟩

theorem sparesZero_one (f : Nat) {d : Dest} (other : d ≠ .s 0) : SparesZero [(f, d)] := sparesZero_cons other sparesZero_nil

theorem sparesZero_map (f : Nat) {r : Nat → Dest} (other : ∀ k, r k ≠ .s 0) (ks : List Nat) : SparesZero (ks.map fun k => (f, r k)) :=
  List.forall_mem_map.mpr fun k _ => other k

theorem sparesZero_sdst (d : SDst) (f : Nat) : SparesZero (d.named f) := by
  cases d with
  | reg n =>
    simp only [SDst.named]
    split
    next => exact sparesZero_nil
    next other => exact sparesZero_one f (mt Dest.s.inj other)
  | latch k => exact sparesZero_one f nofun

theorem sparesZero_vdst (d : VDst) (f : Nat) (cs : List Nat) : SparesZero (d.named f cs) := by
  cases d with
  | reg | latch =>
    refine sparesZero_map f ?_ cs
    exact fun _ => nofun

theorem sparesZero_axis (f a : Nat) : SparesZero [(f, .a a), (f, .n a)] := sparesZero_cons nofun (sparesZero_one f nofun)

theorem sparesZero_tiles (f : Nat) (t : TOp) : SparesZero (t.named f) := by
  cases t with
  | tile n => exact sparesZero_one f nofun
  | ma k =>
    refine sparesZero_map f ?_ _
    exact fun _ => nofun

theorem sparesZero_tilePairs (f : Nat) (t : TOp) : SparesZero (t.pairNamed f) := by
  cases t with
  | tile n => exact sparesZero_cons nofun (sparesZero_one f nofun)
  | ma k =>
    refine sparesZero_map f ?_ _
    exact fun _ => nofun

/-- A scalar destination field has index 3 and names the operation's one destination. -/
theorem dests_of_scalarField {i : Instr} {d : SDst} (field : scalarField i = some d) : i.dests = d.named 3 := by
  cases i <;> cases field <;> rfl

theorem dests_sparesZero (i : Instr) : SparesZero i.dests := by
  cases i
  case add | sub | and | or | xor | andn | shl | shr | sar | min | max | minu | maxu | adds | subs | mul | mulh | mulhu | div | divu | rem
      | remu | addi | andi | ori | xori | shli | shri | sari | movq | movps | rdcnt | rdtime | rddesc | fadd | fsub | fmul | fma | cvtF64I64
      | cvtI64F64 | cvtF32I64 | cvtI64F32 | cvtF32F64 | cvtF64F32 | crrd | adot | amag | dlab | dval | dsize | dlo | dhi | lds | arrive
      | binit | amoadd | amoswp | amocas | amomin | amomax | amoand | amoor =>
    exact sparesZero_sdst _ _
  case cmpeq | cmpne | cmplt | cmple | cmpltu | cmpleu | cmpeqi | cmpnei | cmplti | cmplei | cmpltui | cmpleui | pand | por | pxor | pandn
      | fcmpeq | fcmplt | fcmple | fcmpun | waitph | waitbit | call | callr | crwr | adotm | ascl | ascli | azero | asetn | mma | mmaq | msca
      | mzero | mrets | msetma | tld | tldw | xset =>
    exact sparesZero_one _ nofun
  case vadd | vsub | vadds | vaddsu | vsubs | vsubsu | vmul | vmin | vmax | vminu | vmaxu | vshl | vshr | vsar | vand | vor | vxor | vandn
      | vmov | vsel | vperm | vbcast | vidx | vfadd | vfsub | vfmul | vfma | vfmin | vfmax | vfabs | vfneg | vrcp | vrsqrt | vexp2 | vlog2
      | vradd | vrmax | vrmin | vxc | vcvt | ldv =>
    exact sparesZero_vdst _ _ _
  case vcmpeq | vcmplt | vcmple | vcmpltu | vcmpleu | vfcmpeq | vfcmplt | vfcmple | vfcmpun | kand | kor | kxor | kandn | movsp | atov =>
    refine sparesZero_map _ ?_ _
    exact fun _ => nofun
  case afromv | aneg | aadd | asub | alerp | ald => exact sparesZero_axis _ _
  case mret => exact sparesZero_append (sparesZero_one _ nofun) (sparesZero_tilePairs _ _)
  case mcvt => exact sparesZero_append (sparesZero_one _ nofun) (sparesZero_tiles _ _)
  case mtr | mldl | mtrs => exact sparesZero_tiles _ _
  case xtld pair _ _ _ _ => cases pair with
    | true => exact sparesZero_cons nofun (sparesZero_one _ nofun)
    | false => exact sparesZero_one _ nofun
  all_goals exact sparesZero_nil

/-- Settles O57: every read and write of register 0 by its case of the definition; the destinations by the forms that name them. -/
theorem registerZeroReadsZeroAndDiscards : Obligations.RegisterZeroReadsZeroAndDiscards := by
  unfold Obligations.RegisterZeroReadsZeroAndDiscards
  refine ⟨fun c => ⟨rfl, rfl, rfl, rfl, rfl⟩, fun c x => ⟨rfl, rfl, rfl⟩, fun i n named => dests_sparesZero i n named, fun i d field => ?_,
    fun s a b checked => ?_⟩
  · rw [destsOf, dests_of_scalarField field]
    cases d with
    | reg n =>
      have index : n.toNat = 0 ↔ n = 0 := by simp [← BitVec.toNat_inj]
      simp only [SDst.named, index]
      split <;> rfl
    | latch k => rfl
  · exact lands_of_integerResult (i := .add (.reg 0) a b) (d := .reg 0) checked rfl rfl

end Sys2Proof.Proofs
end

section
/-! What the Y-slot instructions share: an update after an update of one core, flags that are none, and an instruction that names no register. -/

namespace Sys2Proof.Proofs

open Sys2Proof.Machine Sys2Proof.Claims Sys2Proof.Laws

/-! ## Two updates of the issuing core -/

theorem vset_vset_same {α : Type} {n : Nat} (v : Vector α n) (i : Nat) (x y : α) : vset (vset v i x) i y = vset v i y := by
  unfold vset
  split
  · exact Vector.set_set ..
  · rfl

theorem vset_vget_same {α : Type} {n : Nat} (d : α) (v : Vector α n) (i : Nat) : vset v i (vget d v i) = v := by
  unfold vset vget
  split
  · exact Vector.set_getElem_self _
  · rfl

theorem setCore_setCore (s : State) (g : Nat) (c d : CoreSt) : (s.setCore g c).setCore g d = s.setCore g d := by
  simp only [State.setCore, vset_vset_same]

theorem onCur_onCur (s : State) (f h : CoreSt → CoreSt) : (s.onCur f).onCur h = s.onCur fun c => h (f c) := by
  rw [State.onCur, State.onCur_cc]
  exact setCore_setCore s s.cur _ _

/-- The sticky record of the Y slot stays where no flag is raised (R238, R239). -/
theorem raisedY_quiet (c : CoreSt) : raisedY c 0 = c := by simp [raisedY, stickyRaise, vset_vget_same]

/-! ## An instruction that names no register -/

/-- It meets neither TOKHAZ nor LANDCOLL (R66, R67). -/
theorem goes_of_nameless {i : Instr} (s : State) (dests : i.dests = []) (srcs : i.srcs = []) : Goes i s True :=
  .inr ⟨by simp [Unpending, dests, srcs], by simp [LandsAlone, dests], trivial⟩

/-- A wait form that nothing holds, with no held fault to report, issues (R126 to R131, R234). -/
theorem issueWait_of_free {s : State} {i : Instr} (free : s.waitHolds s.cur i = false) (silent : s.cc.reported s.cc.flow.groupA i = none)
    (eff : State → State) : s.issueWait i eff = s.issue i eff := by
  rw [State.issueWait, free, silent]
  rfl

end Sys2Proof.Proofs
end

section
/-! The hardware loops: the level that a loop instruction opens (R123, R124, R387). -/

namespace Sys2Proof.Proofs

open Sys2Proof.Machine Sys2Proof.Claims Sys2Proof.Laws

theorem loopEff_eq (body trips : Nat) (s : State) : loopEff body trips s = s.onCur fun _ => looped s body trips := by
  unfold loopEff looped
  by_cases skips : trips = 0
  · simp only [if_pos skips]
    rfl
  · simp only [if_neg skips]
    rfl

/-- The claim's measure of a body in the enclosing one is the model's (R124). -/
theorem loopFits_of_may {c : CoreSt} {body trips : Nat} (may : loopMay c body trips) (opens : trips ≠ 0) :
    c.loopFits c.flow.groupA body = true := by
  obtain ⟨-, within⟩ := may.resolve_left opens
  rw [CoreSt.loopFits, CoreSt.bodyLeft]
  cases last : c.flow.loops.getLast? with
  | none => rfl
  | some l => exact decide_eq_true (within l last)

/-- A loop that may open makes no LOOPFORM (R124). -/
theorem loopFaults_of_may {c : CoreSt} {i : Instr} {body trips : Nat} (shape : c.trips i = some (body, trips)) (may : loopMay c body trips)
    (k : Nat) (b : Addr) : c.loopFaults c.flow.groupA [{ slot := k, op := i, bundle := b }] = [] := by
  by_cases skips : trips = 0
  · simp [CoreSt.loopFaults, shape, skips]
  · obtain ⟨levels, -⟩ := may.resolve_left skips
    simp [CoreSt.loopFaults, shape, loopFits_of_may may skips, levels]

/-- A loop instruction meets no fault of its own but LOOPFORM. -/
theorem issue_loop_of_goes {s : State} {i : Instr} {body trips : Nat} {eff : State → State} (shape : s.cc.trips i = some (body, trips))
    (goes : Goes i s (loopMay s.cc body trips)) : s.issue i eff = .next (eff s) :=
  issue_eq_next <| goes.imp_right fun ⟨unpending, alone, may⟩ => by
    have loop := loopFaults_of_may shape may
    cases i
    case loop | loopr => exact groupFault_solo unpending alone rfl (loop _ _) nofun nofun (.inr fun _ _ _ _ => ⟨nofun, nofun⟩) rfl
    all_goals cases shape

/-- The effect of LOOPR: the level, and the flags of reading its trips. -/
theorem exec_loopr (body : BitVec 6) (a : SSrc) (s : State) : exec (.loopr body a) s = s.issue (.loopr body a) fun s =>
    (loopEff (body.toNat + 1) (s.cc.src a).toNat s).onCur fun c => c.raise 11 c.flow.bundleA (s.cc.srcFlag a) := rfl

theorem exec_loop (body : BitVec 6) (count : BitVec 16) (s : State) :
    exec (.loop body count) s = s.issue (.loop body count) (loopEff (body.toNat + 1) count.toNat) := rfl

/-- Settles O13: LOOP raises no flag, LOOPR those of reading its trips. -/
theorem loopsOpenLevels : Obligations.LoopsOpenLevels := by
  unfold Obligations.LoopsOpenLevels
  intro s i body trips fl shape goes
  cases i
  case loop =>
    cases shape
    rw [exec_loop, issue_loop_of_goes rfl goes, loopEff_eq, State.onCur, raisedY_quiet]
  case loopr =>
    cases shape
    rw [exec_loopr, issue_loop_of_goes rfl goes, loopEff_eq, onCur_onCur]
    rfl
  all_goals cases shape

end Sys2Proof.Proofs
end

section
/-! The end of a poll (R127). -/

namespace Sys2Proof.Proofs

open Sys2Proof.Machine Sys2Proof.Claims Sys2Proof.Laws

/-- A poll that met no fault, at an address that is aligned, issues. -/
theorem issue_poll_of_goes {s : State} {i : Instr} {p : BitVec 3} {a b : SSrc} {n : Nat} {eff : State → State} (poll : pollOf i = some (p, a, b, n))
    (sound : s.cc.reached.pollFault = none) (goes : Goes i s ((s.cc.src a).toNat % n = 0)) : s.issue i eff = .next (eff s) :=
  issue_eq_next <| goes.imp_right fun ⟨unpending, alone, multiple⟩ => by
    cases i
    case waitph | waitbit =>
      cases poll
      exact groupFault_solo unpending alone rfl rfl nofun (by simpa [CoreSt.aligned] using multiple) (.inl sound) rfl
    all_goals cases poll

/-- A poll whose read has ended is held no more. -/
theorem exec_poll_ended {s : State} {i : Instr} {p : BitVec 3} {a b : SSrc} {n : Nat} {x : Bool} (poll : pollOf i = some (p, a, b, n))
    (ended : s.cc.reached.polled = some x) : exec i s = s.issue i (pollEnd i p a b) := by
  have core : s.core s.cur = s.cc := rfl
  cases i
  case waitph | waitbit =>
    cases poll
    exact issueWait_of_free (by simp [State.waitHolds, core, ended]) rfl _
  all_goals cases poll

theorem pollEnd_eq {s : State} {x : Bool} (ended : s.cc.reached.polled = some x) (i : Instr) (p : BitVec 3) (a b : SSrc) :
    pollEnd i p a b s = s.setCore s.cur (pollOver s.cc i p x (lost2 s.cc a b)) := by
  have truth : (s.cc.reached.polled == some true) = x := by rw [ended]; cases x <;> rfl
  rw [pollEnd, State.onCur, truth, fly_eq_fliesCore]
  rfl

/-- Settles O15: the poll is held no more, issues, and is over. -/
theorem pollsLandTheirPair : Obligations.PollsLandTheirPair := by
  unfold Obligations.PollsLandTheirPair
  intro s i p a b n x poll ended sound goes
  rw [exec_poll_ended poll ended, issue_poll_of_goes poll sound goes, pollEnd_eq ended]

end Sys2Proof.Proofs
end

section
/-! BAR, FENCE, END, TRAPACK and TRET where they issue (R125, R129 to R133, R164, R242, R243, R255, R299, R317, R407). -/

namespace Sys2Proof.Proofs

open Sys2Proof.Machine Sys2Proof.Claims Sys2Proof.Laws

/-! ## The wait forms that name no register, and END -/

/-- A form that names no register and asks nothing of its own has its effect once nothing holds it and no held fault is to be reported. -/
theorem issueWait_of_nameless {s : State} {i : Instr} (dests : i.dests = []) (srcs : i.srcs = []) (nothing : asksNothing i = true)
    (free : s.waitHolds s.cur i = false) (silent : s.cc.reported s.cc.flow.groupA i = none) (eff : State → State) :
    s.issueWait i eff = .next (eff s) := by
  rw [issueWait_of_free free silent]
  exact issue_of_goes (goes_of_nameless s dests srcs) fun _ => meetsNone_of_asksNothing s.cc nothing

/-- A BAR is not held at scope self, once released, with no step, of a step that is no member, or at `.pod` outside a pod group (R129, R407). -/
theorem waitHolds_bar {s : State} {sc : BitVec 3} (free : sc = 0 ∨ s.cc.reached.released = true ∨ s.cc.step = none ∨
      (∃ st, s.cc.step = some st ∧ st.grouped = false) ∨ (sc = 4 ∧ (s.part (s.partOf s.cur)).podgroup = 0)) :
    s.waitHolds s.cur (.bar sc) = false := by
  have core : s.core s.cur = s.cc := rfl
  simp only [State.waitHolds, core]
  obtain rfl | out | empty | ⟨st, step, lone⟩ | ⟨rfl, outside⟩ := free
  · rfl
  · simp [out]
  · simp [empty]
  · simp [step, lone]
  · simp [outside]

theorem exec_bar {s : State} {sc : BitVec 3} (free : s.waitHolds s.cur (.bar sc) = false) : exec (.bar sc) s =
    .next (s.onCur fun c => { c with reached := { c.reached with arrived := false, released := false } }) := by
  unfold exec
  exact issueWait_of_nameless rfl rfl rfl free rfl _

/-- A FENCE of scope self has nothing to reach and meets no held fault (R130). -/
theorem fence_free {s : State} {sc : BitVec 3} (free : sc = 0 ∨ (s.cc.fenceMeets sc = false ∧ s.fenceReached s.cur sc = true)) :
    s.cc.fenceMeets sc = false ∧ s.fenceReached s.cur sc = true := by
  obtain rfl | free := free
  · exact ⟨rfl, rfl⟩
  · exact free

theorem exec_fence {s : State} {sc : BitVec 3} (clear : s.cc.fenceMeets sc = false) (reached : s.fenceReached s.cur sc = true) :
    exec (.fence sc) s = .next s := by
  unfold exec
  exact issueWait_of_nameless rfl rfl rfl (by simp [State.waitHolds, reached]) (by simp [CoreSt.reported, clear]) _

theorem exec_endStep {s : State} (unheld : s.cc.heldFaults = []) : exec .endStep s = .next (s.onCur fun c =>
    { c with status := .ended, next := none, files := { c.files with openAcc := 0 },
             flow := { c.flow with loops := [], suspended := [] } }) := by
  unfold exec
  exact issueWait_of_nameless rfl rfl rfl rfl (by simp [CoreSt.reported, CoreSt.report, CoreSt.earliest, unheld]) _

/-! ## The privileged forms in handler mode (R133) -/

theorem meetsNone_of_handler {c : CoreSt} {i : Instr} (mode : c.ctrl.handler = true) (privileged : i = .trapack ∨ i = .tret) :
    MeetsNone c i := by
  obtain rfl | rfl := privileged
  all_goals exact ⟨fun _ _ => by simp [CoreSt.privFaults, mode], fun _ _ _ => rfl, nofun, nofun, fun _ _ => rfl, fun _ _ _ _ => ⟨nofun, nofun⟩⟩

theorem exec_trapack {s : State} (mode : s.cc.ctrl.handler = true) :
    exec .trapack s = .next (s.onCur fun c => { c with ctrl := { c.ctrl with frozen := false } }) := by
  unfold exec
  exact issue_of_goes (goes_of_nameless s rfl rfl) fun _ => meetsNone_of_handler mode (.inl rfl)

/-! ## The restart of a step (R255, R317) -/

/-- Evicting queues changes the hub alone (R320). -/
theorem makeRoom_keeps {β : Type} (view : State → β) (keeps : ∀ (s : State) h, view { s with hub := h } = view s) (busy need f : Nat) (s : State) :
    view (s.makeRoom busy need f) = view s := by
  induction f generalizing s with
  | zero => rfl
  | succ f ih =>
    unfold State.makeRoom
    split
    · rfl
    · split
      · rfl
      · refine (ih _).trans ((foldl_keeps view (fun s d => ?_) _ _).trans ((keeps _ _).trans (keeps _ _)))
        unfold State.dieEvent
        split
        · rfl
        · exact keeps _ _

/-- The device once the issuing core is free and its atomics are withdrawn (R255, R301). -/
def freedHere (s : State) : State := (s.setCore s.cur s.cc.freed.loseLatches).withdraw s.cur

theorem freedHere_cc (s : State) : (freedHere s).cc = s.cc.freed.loseLatches := State.onCur_cc s fun c => c.freed.loseLatches

/-- A step as it leaves its core to start again. -/
def startsAgain (s : State) (st : StepInfo) : StepInfo := { s.cc.carried s.cur st with elapsed := 0, orphan := false }

section Restart

variable {s : State}

theorem restartStep_of_empty (empty : s.cc.step = none) : s.restartStep s.cur = freedHere s := by
  simp only [State.restartStep, show (s.core s.cur).step = none from empty]
  rfl

variable {st : StepInfo} (step : s.cc.step = some st)
include step

theorem restartStep_of_full (full : (s.part st.part).readyFull = true) : s.restartStep s.cur =
    (freedHere s).onCur fun c => { c with status := .restarting, step := some (startsAgain s st) } := by
  simp only [State.restartStep, show (s.core s.cur).step = some st from step]
  exact if_pos full

theorem restartStep_of_room (room : (s.part st.part).readyFull = false) : s.restartStep s.cur =
    ((freedHere s).makeRoom Config.nQueues 16 65536).onPart st.part fun p => { p with
      restarts := p.restarts ++ [startsAgain s st], ready := .restart st.order :: p.ready } := by
  simp only [State.restartStep, show (s.core s.cur).step = some st from step]
  exact if_neg (ne_true_of_eq_false room)

theorem restartStep_cc_of_full (full : (s.part st.part).readyFull = true) : (s.restartStep s.cur).cc =
    { s.cc.freed.loseLatches with status := .restarting, step := some (startsAgain s st) } := by
  rw [restartStep_of_full step full, State.onCur_cc, freedHere_cc]

end Restart

/-- Unless the ready list is full the core is free. -/
theorem restartStep_cc_of_room {s : State} (room : ∀ st, s.cc.step = some st → (s.part st.part).readyFull = false) :
    (s.restartStep s.cur).cc = s.cc.freed.loseLatches := by
  rw [← freedHere_cc]
  cases step : s.cc.step with
  | none => rw [restartStep_of_empty step]
  | some st =>
    rw [restartStep_of_room step (room st step)]
    exact makeRoom_keeps State.cc (fun _ _ => rfl) _ _ _ _

/-! ## TRET (R243) -/

/-- What decides where a step goes on after a trap: its status, the step itself and the mode. -/
def modeView (c : CoreSt) : Status × Option StepInfo × Bool × Bool := (c.status, c.step, c.ctrl.handler, c.ctrl.frozen)

theorem modeView_eq_iff {c : CoreSt} {x : Status} {st : Option StepInfo} {h f : Bool} :
    modeView c = (x, st, h, f) ↔ c.status = x ∧ c.step = st ∧ c.ctrl.handler = h ∧ c.ctrl.frozen = f := by
  simp only [modeView, Prod.mk.injEq]

/-- The D operations that complete as they re-enter raise flags and count on their tokens alone (R239, R243). -/
theorem reenterD_step (c : CoreSt) : (c.reenterD.status, c.reenterD.step) = (c.status, c.step) :=
  foldl_keeps (fun c : CoreSt => (c.status, c.step)) (fun c o => by simp) _ c

theorem leaveHandler_modeView (c : CoreSt) : modeView c.leaveHandler = (c.status, c.step, false, false) := by
  obtain ⟨status, step⟩ := Prod.mk.inj (reenterD_step c.reenter)
  exact Prod.ext status (Prod.ext step rfl)

theorem stampHead_modeView (s : State) : modeView (s.stampHead s.cur).cc = modeView s.cc :=
  onCore_keeps modeView (fun c => by
    split
    · split <;> rfl
    · rfl) s s.cur s.cur

/-- The device once the issuing core has left the handler. -/
def leftHandler (s : State) : State := s.onCur CoreSt.leaveHandler

/-- A step that has ended stays so, with its end in the program counter (R243). -/
def endedAt (pc : Addr) (c : CoreSt) : CoreSt := { c with status := .ended, next := none, pc := pc }

theorem exec_tret {s : State} (mode : s.cc.ctrl.handler = true) : exec .tret s = .next (
    if s.cc.recRestart then (leftHandler s).restartStep s.cur
    else if s.cc.recEnded then ((leftHandler s).stampHead s.cur).onCur (endedAt s.cc.recResume)
    else ((leftHandler s).stampHead s.cur).onCur fun c => c.goto (s.cc.recResume.setWidth 64)) := by
  unfold exec
  exact issue_of_goes (goes_of_nameless s rfl rfl) fun _ => meetsNone_of_handler mode (.inr rfl)

theorem leftHandler_cc (s : State) : (leftHandler s).cc = s.cc.leaveHandler := State.onCur_cc s CoreSt.leaveHandler

/-- With the record's RESTART 0, the core that TRET leaves but for its program counter. -/
theorem leftHandler_stampHead_modeView (s : State) :
    modeView ((leftHandler s).stampHead s.cur).cc = (s.cc.status, s.cc.step, false, false) := by
  rw [← leaveHandler_modeView, ← leftHandler_cc]
  exact stampHead_modeView (leftHandler s)

/-- A freed core keeps its mode. -/
theorem freed_modeView (c : CoreSt) : modeView c.freed.loseLatches = (.free, none, c.ctrl.handler, c.ctrl.frozen) := rfl

section Tret

variable {s : State} (mode : s.cc.ctrl.handler = true)
include mode

theorem exec_tret_of_resume (stays : s.cc.recRestart = false) (goesOn : s.cc.recEnded = false) : ∃ t, exec .tret s = .next t ∧
    modeView t.cc = (s.cc.status, s.cc.step, false, false) ∧ t.cc.next = some (s.cc.recResume.setWidth 64) := by
  refine ⟨_, exec_tret mode, ?_⟩
  rw [stays, goesOn, if_neg Bool.false_ne_true, if_neg Bool.false_ne_true, State.onCur_cc]
  exact ⟨leftHandler_stampHead_modeView s, rfl⟩

theorem exec_tret_of_ended (stays : s.cc.recRestart = false) (ended : s.cc.recEnded = true) : ∃ t, exec .tret s = .next t ∧
    modeView t.cc = (.ended, s.cc.step, false, false) ∧ t.cc.pc = s.cc.recResume := by
  refine ⟨_, exec_tret mode, ?_⟩
  rw [stays, ended, if_neg Bool.false_ne_true, if_pos rfl, State.onCur_cc]
  obtain ⟨-, step, handler, frozen⟩ := modeView_eq_iff.mp (leftHandler_stampHead_modeView s)
  exact ⟨modeView_eq_iff.mpr ⟨rfl, step, handler, frozen⟩, rfl⟩

theorem exec_tret_of_room (restarts : s.cc.recRestart = true) (room : ∀ st, s.cc.step = some st → (s.part st.part).readyFull = false) :
    ∃ t, exec .tret s = .next t ∧ modeView t.cc = (.free, none, false, false) := by
  obtain ⟨-, step, handler, frozen⟩ := modeView_eq_iff.mp (leaveHandler_modeView s.cc)
  refine ⟨_, exec_tret mode, ?_⟩
  have left := restartStep_cc_of_room (s := leftHandler s) fun st resident => room st (step ▸ leftHandler_cc s ▸ resident)
  rw [restarts, if_pos rfl]
  refine (congrArg modeView left).trans ?_
  rw [freed_modeView, leftHandler_cc, handler, frozen]

theorem exec_tret_of_full {st : StepInfo} (restarts : s.cc.recRestart = true) (resident : s.cc.step = some st)
    (full : (s.part st.part).readyFull = true) :
    ∃ t, exec .tret s = .next t ∧ modeView t.cc = (.restarting, some (startsAgain (leftHandler s) st), false, false) := by
  obtain ⟨-, step, handler, frozen⟩ := modeView_eq_iff.mp (leaveHandler_modeView s.cc)
  refine ⟨_, exec_tret mode, ?_⟩
  have left := restartStep_cc_of_full (s := leftHandler s) (by rw [leftHandler_cc, step, resident]) full
  rw [restarts, if_pos rfl]
  refine (congrArg modeView left).trans (modeView_eq_iff.mpr ⟨rfl, rfl, ?_, ?_⟩)
  · exact (congrArg (fun c : CoreSt => c.ctrl.handler) (leftHandler_cc s)).trans handler
  · exact (congrArg (fun c : CoreSt => c.ctrl.frozen) (leftHandler_cc s)).trans frozen

end Tret

/-- Settles O16: each of the five instructions by its own lemmas; TRET by the bits of the record. -/
theorem barFenceEndAndTrapackIssue : Obligations.BarFenceEndAndTrapackIssue := by
  unfold Obligations.BarFenceEndAndTrapackIssue
  refine ⟨fun s sc free => exec_bar (waitHolds_bar free), fun s sc free => ?fence, fun s unheld => exec_endStep unheld,
    fun s mode => exec_trapack mode, fun s mode => ?tret⟩
  case fence =>
    obtain ⟨clear, reached⟩ := fence_free free
    exact exec_fence clear reached
  case tret =>
    cases restart : s.cc.recRestart with
    | true =>
      by_cases room : ∀ st, s.cc.step = some st → (s.part st.part).readyFull = false
      · obtain ⟨t, next, view⟩ := exec_tret_of_room mode restart room
        obtain ⟨status, step, handler, frozen⟩ := modeView_eq_iff.mp view
        refine ⟨t, next, handler, frozen, fun _ _ => ⟨status, step⟩, fun st _ resident full => ?_, nofun, nofun⟩
        cases (room st resident).symm.trans full
      · obtain ⟨st, resident, full⟩ : ∃ st, s.cc.step = some st ∧ (s.part st.part).readyFull = true := by simpa using room
        obtain ⟨t, next, view⟩ := exec_tret_of_full mode restart resident full
        obtain ⟨status, -, handler, frozen⟩ := modeView_eq_iff.mp view
        exact ⟨t, next, handler, frozen, fun _ more => (room more).elim, fun _ _ _ _ => status, nofun, nofun⟩
    | false =>
      cases ended : s.cc.recEnded with
      | true =>
        obtain ⟨t, next, view, pc⟩ := exec_tret_of_ended mode restart ended
        obtain ⟨status, -, handler, frozen⟩ := modeView_eq_iff.mp view
        exact ⟨t, next, handler, frozen, nofun, nofun, fun _ _ => ⟨status, pc⟩, nofun⟩
      | false =>
        obtain ⟨t, next, view, goesOn⟩ := exec_tret_of_resume mode restart ended
        obtain ⟨status, -, handler, frozen⟩ := modeView_eq_iff.mp view
        exact ⟨t, next, handler, frozen, nofun, nofun, nofun, fun _ _ => ⟨status, goesOn⟩⟩

end Sys2Proof.Proofs
end

section
/-! TRAP: SWTRAP pends at its issue, stays pending after its group, and is entered once the core's queues have settled (R132, R240). -/

namespace Sys2Proof.Proofs

open Sys2Proof.Machine Sys2Proof.Claims Sys2Proof.Laws

/-! ## The issue of TRAP -/

theorem exec_trap (k : BitVec 16) (s : State) : exec (.trap k) s = .next (s.onCur fun c =>
    { c with status := .trapping { CoreSt.blankTrap .swtrap with
      slots := 0x800, info := k, bundle := c.flow.groupA, resume := c.flow.groupEnd, sched := c.flow.sched } }) := by
  unfold exec
  exact issue_of_goes (goes_of_nameless s rfl rfl) fun _ => meetsNone_of_asksNothing s.cc rfl

/-! ## The end of its group -/

/-- What a pending trap needs of its core: the status, the register files and the program counter. -/
def trapView (c : CoreSt) : Status × Files × Addr := (c.status, c.files, c.pc)

/-- Counting changes the counter banks alone (R386). -/
theorem count_keeps {β : Type} (view : CoreSt → β) (keeps : ∀ (c : CoreSt) v, view { c with banks := v } = view c) (c : CoreSt) (i n : Nat) :
    view (c.count i n) = view c := by
  unfold CoreSt.count
  split
  · rfl
  · exact foldl_keeps view (fun c _ => keeps c _) _ c

theorem countEmpty_trapView (c : CoreSt) (n : Nat) : trapView (c.countEmpty n) = trapView c :=
  foldl_keeps trapView (fun c _ => count_keeps trapView (fun _ _ => rfl) c _ n) _ c

theorem countEmpties_trapView (s : State) (g n : Nat) : trapView ((s.countEmpties g n).core g) = trapView (s.core g) := by
  unfold State.countEmpties
  split
  · rfl
  · rw [State.coreDieEvent, dieEvent_core]
    exact onCore_keeps trapView (fun c => countEmpty_trapView c n) s g g

theorem countEmpties_ord (s : State) (g n : Nat) : (s.countEmpties g n).ord = s.ord := by
  unfold State.countEmpties
  split
  · rfl
  · exact dieEvent_ord _ _ _ _ _

/-- The program counter moves on; the status and the files stay (R121 to R123). -/
theorem advance_trapView (c : CoreSt) (x : Group) (tret : Bool) :
    trapView (c.advance x tret).1 = (c.status, c.files, (c.advance x tret).1.pc) := by
  unfold CoreSt.advance
  split <;> rfl

/-- With no transfer and no loop the step goes on behind the group. -/
theorem advance_pc {c : CoreSt} (x : Group) (tret : Bool) (straight : c.next = none) (unlooped : c.flow.loops = []) :
    (c.advance x tret).1.pc = x.addr + BitVec.ofNat 60 x.len := by
  simp only [CoreSt.advance, straight, unlooped]
  rfl

/-- A pending trap resumes where the core goes on (R132). -/
theorem swtrapResume_trapView {c : CoreSt} {t : TrapInfo} (trap : c.status = .trapping t) :
    trapView c.swtrapResume = (.trapping { t with resume := c.pc }, c.files, c.pc) := by
  rw [CoreSt.swtrapResume, trap]
  rfl

/-- The core once its group is reached no more. -/
def ungrouped (c : CoreSt) : CoreSt := { c with reached := .none, flow := { c.flow with checked := false } }

/-- The program counter after a core's group, with no TRET in it, and the cost of the branch that it took (R122). -/
def moved (c : CoreSt) (x : Group) : CoreSt × Nat := (ungrouped c).advance x false

theorem moved_trapView (c : CoreSt) (x : Group) : trapView (moved c x).1 = (c.status, c.files, (moved c x).1.pc) :=
  advance_trapView (ungrouped c) x false

/-- The device once a core with a trap pending has moved on from its group. -/
def trapMoved (s : State) (g : Nat) (x : Group) : State := (s.onCore g ungrouped).setCore g (moved (s.core g) x).1.swtrapResume

section AfterGroup

variable {s : State} {g : Nat} {t : TrapInfo} (known : g < 288) (trap : (s.core g).status = .trapping t) (x : Group) (h : Bool) (e : Nat)
include known trap

theorem afterGroup_of_trapping : s.afterGroup g x h false e =
    (if h then trapMoved s g x else (trapMoved s g x).countEmpties g (moved (s.core g) x).2).onCore g fun c =>
      c.scheduled h (1 + e + (moved (s.core g) x).2) := by
  have core : (s.onCore g ungrouped).core g = ungrouped (s.core g) := State.onCore_core_same s g ungrouped known
  have status : ((s.onCore g ungrouped).core g).status = .trapping t := by rw [core]; exact trap
  unfold trapMoved moved
  rw [← core]
  simp only [State.afterGroup, show ((s.onCore g fun c => { c with reached := .none, flow := { c.flow with checked := false } }).core g).status
    = .trapping t from status]
  rfl

/-- The trap stays pending, to resume where the core goes on. -/
theorem afterGroup_trapView : trapView ((s.afterGroup g x h false e).core g) =
    (.trapping { t with resume := (moved (s.core g) x).1.pc }, (s.core g).files, (moved (s.core g) x).1.pc) := by
  have kept := moved_trapView (s.core g) x
  obtain ⟨status, files, -⟩ : _ ∧ _ ∧ _ := by simpa only [trapView, Prod.mk.injEq] using kept
  rw [afterGroup_of_trapping known trap, onCore_keeps (f := fun c => c.scheduled h _) trapView fun _ => rfl]
  have counts : trapView ((if h then trapMoved s g x else (trapMoved s g x).countEmpties g (moved (s.core g) x).2).core g) =
      trapView ((trapMoved s g x).core g) := by
    cases h
    · exact countEmpties_trapView _ _ _
    · rfl
  rw [counts, trapMoved, State.setCore_core_same _ _ _ known, swtrapResume_trapView (status.trans trap), files]

theorem afterGroup_ord_of_trapping : (s.afterGroup g x h false e).ord = s.ord := by
  rw [afterGroup_of_trapping known trap, State.onCore_ord]
  cases h
  · exact countEmpties_ord _ _ _
  · rfl

end AfterGroup

/-! ## The entry of the trap -/

section Entry

variable {s : State} {g : Nat} {t : TrapInfo} (known : g < 288) (trap : (s.core g).status = .trapping t)
include known trap

theorem exec_trapEntry (settled : (s.core g).settled = true) : exec (.trapEntry g) s = .next (s.enterTrap g t) := by
  unfold exec execTrapEntry
  exact coreEvent_eq_next.mpr ⟨known, by simp only [trap, settled, if_true]⟩

/-- While its queues settle the core does nothing. -/
theorem statusCycle_of_unsettled (busy : (s.core g).settled = false) : s.statusCycle g = s := by
  have waits : s.try' (execTrapEntry g s) = s := by
    rw [execTrapEntry, coreEvent, if_pos (show g < Config.nCores from known), trap]
    simp only [busy, Bool.false_eq_true, if_false]
    rfl
  simp only [State.statusCycle, trap, waits]
  rfl

theorem statusCycle_of_settled (settled : (s.core g).settled = true) : s.statusCycle g =
    if ((s.enterTrap g t).core g).status = .running then (s.enterTrap g t).runCycle g else s.enterTrap g t := by
  have enters : s.try' (execTrapEntry g s) = s.enterTrap g t :=
    congrArg s.try' ((by unfold exec; rfl : exec (.trapEntry g) s = execTrapEntry g s).symm.trans (exec_trapEntry known trap settled))
  simp only [State.statusCycle, trap, enters, beq_iff_eq]

end Entry

/-- Settles O17: the issue of TRAP, the end of its group and the entry, each by its own lemma. -/
theorem trapTakesSwtrapAfterItsGroup : Obligations.TrapTakesSwtrapAfterItsGroup := by
  unfold Obligations.TrapTakesSwtrapAfterItsGroup
  refine ⟨fun s k => exec_trap k s, fun s g x h e t known trap => ?_, fun s g t known trap => ?_⟩
  · have after := afterGroup_trapView known trap x h e
    obtain ⟨status, files, pc⟩ : _ ∧ _ ∧ _ := by simpa only [trapView, Prod.mk.injEq] using after
    refine ⟨by rw [status, pc], files, afterGroup_ord_of_trapping known trap x h e, fun straight unlooped => pc.trans ?_⟩
    exact advance_pc x false straight unlooped
  · exact ⟨statusCycle_of_unsettled known trap, statusCycle_of_settled known trap⟩

end Sys2Proof.Proofs
end

section
/-! The privileged forms in step mode (R105, R133, R233, R237, R242). -/

namespace Sys2Proof.Proofs

open Sys2Proof.Machine Sys2Proof.Claims Sys2Proof.Laws

/-- A register that the mode may not write takes PRIV (R105). -/
theorem crPriv_of_not_writable {c : CoreSt} {n : Nat} (barred : ¬ writable c n) : c.crPriv n = true := by
  by_contra free
  refine barred ?_
  simp only [CoreSt.crPriv, Bool.not_eq_true, Bool.or_eq_false_iff, Bool.and_eq_false_iff, decide_eq_false_iff_not, Bool.not_eq_false'] at free
  obtain ⟨⟨⟨⟨mode, settled⟩, levels⟩, record⟩, handler⟩ := free
  exact ⟨mode, settled, by omega, by omega, fun rh => handler.resolve_left fun other => by simp_all⟩

/-- The slot's PRIV offence, where an operation in step mode meets one. -/
theorem privFaults_of_barred {c : CoreSt} {i : Instr} {field : Nat}
    (barred : (i = .trapack ∨ i = .tret) ∧ field = 2 ∧ c.ctrl.handler = false ∨ ∃ n a, i = .crwr n a ∧ field = 5 ∧ ¬ writable c n.toNat)
    (k : Nat) (b : Addr) : c.privFaults [{ slot := k, op := i, bundle := b }] = [{ slot := k, field := field, va := 0 }] := by
  obtain ⟨rfl | rfl, rfl, mode⟩ | ⟨n, a, rfl, rfl, may⟩ := barred
  · simp [CoreSt.privFaults, mode]
  · simp [CoreSt.privFaults, mode]
  · simp [CoreSt.privFaults, crPriv_of_not_writable may]

theorem landColl_of_alone {c : CoreSt} {i : Instr} (alone : LandsAlone i c) (k : Nat) (b : Addr) :
    c.landColl [{ slot := k, op := i, bundle := b }] = [] := by
  by_cases still : i.latency (c.classB && !c.ctrl.compat) = 0
  · simp [CoreSt.landColl, CoreSt.landings, still]
  · obtain ⟨distinct, clusters⟩ := dests_apart i _ still
    exact landColl_solo distinct clusters alone

/-- PRIV comes before every fault but TOKHAZ and LANDCOLL (R233). -/
theorem groupFault_of_priv {c : CoreSt} {a : Addr} {g : List CoreSt.Issuing} {o : CoreSt.Offence} (unpending : c.tokHaz g = [])
    (alone : c.landColl g = []) (offence : c.privFaults g = [o]) : c.groupFault a g = some (c.preciseTrap a .priv [o]) := by
  simp [CoreSt.groupFault, unpending, alone, offence]

theorem preciseTrap_one (c : CoreSt) (k : Cause) (field : Nat) (va : Addr) :
    c.preciseTrap c.flow.groupA k [{ slot := c.flow.slotIdx, field := field, va := va }] = oneSlot c k field va := by
  simp [CoreSt.preciseTrap, oneSlot]

/-- Settles O19: the group's one offence is PRIV, before its effect. -/
theorem privilegedFormsTakePriv : Obligations.PrivilegedFormsTakePriv := by
  unfold Obligations.PrivilegedFormsTakePriv
  intro s i field unchecked unpending alone barred
  have fault : s.cc.groupFault s.cc.flow.groupA (s.soloGroup i) = some (oneSlot s.cc .priv field 0) := by
    rw [← preciseTrap_one]
    exact groupFault_of_priv (tokHaz_solo unpending) (landColl_of_alone alone _ _) (privFaults_of_barred barred _ _)
  have takes (eff : State → State) : s.issue i eff = .next (s.takeTrapOn s.cur (oneSlot s.cc .priv field 0)) := by
    simp only [State.issue, unchecked, fault, Bool.false_eq_true, if_false]
  obtain ⟨rfl | rfl, -⟩ | ⟨n, a, rfl, -⟩ := barred
  all_goals
    unfold exec
    exact takes _

end Sys2Proof.Proofs
end

section
/-! The timeout of a poll and the completion of a barrier (R127, R129). -/

namespace Sys2Proof.Proofs

open Sys2Proof.Machine Sys2Proof.Claims Sys2Proof.Laws

theorem timeoutOf_poll {i : Instr} {p : BitVec 3} {a b : SSrc} {tmo : BitVec 5} (poll : i = .waitph p a b tmo ∨ i = .waitbit p a b tmo)
    (limited : tmo ≠ 0) : timeoutOf i = some (2 ^ tmo.toNat) := by
  obtain rfl | rfl := poll <;> exact if_neg limited

/-- A poll that has neither ended nor met a fault is over once its timeout has passed since it was reached. -/
theorem timedOut_of_passed {s : State} {g n : Nat} {i : Instr} {t : W64} (polling : (s.core g).reached.polling = some i)
    (since : (s.core g).reached.since = some t) (unended : (s.core g).reached.polled = none) (sound : (s.core g).reached.pollFault = none)
    (timeout : timeoutOf i = some n) (passed : n ≤ (s.time - t).toNat) : s.timedOut g = true := by
  simp only [State.timedOut, polling, since, unended, sound, timeout, decide_eq_true passed]
  rfl

theorem exec_waitTimeout {s : State} {g : Nat} (known : g < 288) (ended : s.timedOut g = true) : exec (.waitTimeout g) s =
    .next (s.onCore g fun c => { c with reached := { c.reached with polled := some false, pollAt := none, pollPort := none } }) := by
  unfold exec
  exact coreEvent_eq_next.mpr ⟨known, if_pos ended⟩

/-- The core once its barrier has released it. -/
def released (c : CoreSt) : CoreSt := { c with reached := { c.reached with released := true } }

theorem exec_barrierCompletion {s : State} {g : Nat} {sc : BitVec 3} (known : g < 288) (scope : (s.core g).barScope = some sc)
    (held : (s.core g).reached.released = false) (ready : s.barReady g sc = true) :
    exec (.barrierCompletion g) s = .next ((s.barMembers g sc).foldl (fun s h => s.onCore h released) s) := by
  unfold exec
  refine coreEvent_eq_next.mpr ⟨known, ?_⟩
  simp only [scope, held, ready]
  rfl

theorem barMembers_known (s : State) (g : Nat) (sc : BitVec 3) : ∀ h ∈ s.barMembers g sc, h < 288 := by
  unfold State.barMembers
  intro h member
  split at member
  · cases member
  · exact List.mem_range.mp (List.mem_filter.mp member).1

/-- Settles O34: the three events, each where its condition holds. -/
theorem timeoutsTrapEntriesAndBarriers : Obligations.TimeoutsTrapEntriesAndBarriers := by
  unfold Obligations.TimeoutsTrapEntriesAndBarriers
  refine ⟨?timeout, fun s g t known trap settled => exec_trapEntry known trap settled, ?barrier⟩
  case timeout =>
    rintro s g i p a b n tmo t known poll limited rfl polling since unended sound passed
    exact exec_waitTimeout known (timedOut_of_passed polling since unended sound (timeoutOf_poll poll limited) passed)
  case barrier =>
    intro s g sc known scope held ready
    have cores := core_foldl_onCore (f := released) (fun _ => rfl) (barMembers_known s g sc) s
    refine ⟨_, exec_barrierCompletion known scope held ready, ?_, ?_, fun h member => ?_, fun h apart => ?_⟩
    · rw [foldl_onCore_cores]
    · rw [foldl_onCore_cores]
    · rw [cores, if_pos member]
      rfl
    · rw [cores, if_neg apart]

end Sys2Proof.Proofs
end

section
/-! The device right after reset (R108, R201, R290, R370, R417). -/

namespace Sys2Proof.Proofs

open Sys2Proof.Machine Sys2Proof.Claims Sys2Proof.Laws

/-- An entry of a vector that holds one value throughout, which an entry outside it reads as too. -/
theorem vget_replicate {α : Type} (d : α) (n i : Nat) : vget d (Vector.replicate n d) i = d := by
  unfold vget
  split
  · exact Vector.getElem_replicate _
  · rfl

theorem reset_core (g : Nat) : State.reset.core g = .reset := vget_replicate CoreSt.reset 288 g
theorem reset_part (p : Nat) : State.reset.part p = .reset := vget_replicate Part.reset 64 p
theorem reset_view (d : Nat) : State.reset.ord.view d = [] := vget_replicate [] 4 d
theorem reset_dieClock (d : Nat) : State.reset.ord.dieClock d = clkZero := vget_replicate clkZero 4 d

/-! ## A scrubbed core (R370) -/

section Core

variable (i n : Nat)

theorem reset_sreg : CoreSt.reset.sreg n = 0 := by
  unfold CoreSt.sreg
  split
  · rfl
  · exact vget_replicate 0 64 n

/-- A lost latch reads zero, and a latch holds zero. -/
theorem reset_slatch : CoreSt.reset.slatch n = 0 := by
  unfold CoreSt.slatch
  split
  · rfl
  · exact vget_replicate 0 8 n

theorem reset_vreg : CoreSt.reset.vreg i n = 0 := by
  have cluster : CoreSt.reset.clus i = .reset := vget_replicate Cluster.reset 8 i
  rw [CoreSt.vreg, cluster]
  exact vget_replicate 0 32 n

theorem reset_tile : CoreSt.reset.tile n = 0 := vget_replicate 0 16 n
theorem reset_accMain : vget 0 CoreSt.reset.files.accMain n = 0 := vget_replicate 0 4 n
theorem reset_norm : CoreSt.reset.norm n = CoreSt.nZero := vget_replicate CoreSt.nZero 16 n
theorem reset_creg : CoreSt.reset.creg n = domZero := vget_replicate domZero 32 n
theorem reset_token : CoreSt.reset.token n = .idle := vget_replicate Token.idle 8 n

end Core

/-! ## The canonical form of an empty memory (R290) -/

theorem reset_ring (q : Nat) : amWf 0 (amGet .reset State.reset.hub.queues q).ring = true := rfl

theorem reset_canonical : CanonicalMemory State.reset := by
  obtain ⟨views, host, queues⟩ := reset_memory_wf
  exact ⟨fun d _ => views d, rfl, host, fun g _ => by rw [reset_core]; rfl, fun p _ => by rw [reset_part]; rfl, queues, reset_ring, rfl, rfl,
    rfl, rfl⟩

/-- Settles O59: each file of a core, and each table of the device, by its value at reset. -/
theorem resetLeavesAScrubbedDevice : Obligations.ResetLeavesAScrubbedDevice := by
  unfold Obligations.ResetLeavesAScrubbedDevice
  refine ⟨fun g _ => ?core, fun p => ?part, fun d _ => ⟨reset_view d, reset_dieClock d⟩, rfl, rfl, rfl, rfl, reset_canonical⟩
  case core =>
    rw [reset_core]
    exact ⟨rfl, rfl, reset_sreg, reset_slatch, rfl, reset_vreg, reset_tile, reset_accMain, fun n _ => reset_norm n, fun n _ => reset_creg n,
      fun _ => rfl, reset_token, rfl, rfl, rfl, rfl, rfl, rfl, rfl, rfl, rfl, rfl, rfl⟩
  case part =>
    rw [reset_part]
    exact ⟨rfl, rfl⟩

end Sys2Proof.Proofs
end

section
/-! Elements and lanes, each computed alone (R79, R139, R141). -/

namespace Sys2Proof.Proofs

open Sys2Proof.Machine

/-- Packing puts each number at its own digit, whatever stands at the others. -/
theorem packNat_digit (w : Nat) (xs : List Nat) (i : Nat) (inside : i < xs.length) :
    packNat w xs / 2 ^ (w * i) % 2 ^ w = xs[i] % 2 ^ w := by
  induction xs generalizing i with
  | nil => exact absurd inside (Nat.not_lt_zero i)
  | cons x xs ih =>
    cases i with
    | zero => simp [packNat]
    | succ i =>
      have upper : packNat w (x :: xs) / 2 ^ w = packNat w xs := by
        rw [packNat, Nat.add_mul_div_left _ _ (Nat.two_pow_pos w), Nat.div_eq_of_lt (Nat.mod_lt x (Nat.two_pow_pos w)), Nat.zero_add]
      rw [Nat.mul_succ, Nat.add_comm, pow_add, ← Nat.div_div_eq_div_mul, upper]
      exact ih i (Nat.lt_of_succ_lt_succ inside)

/-- An element is a digit of its word. -/
theorem elem_toNat {n : Nat} (w i : Nat) (x : BitVec n) : (elem w i x).toNat = x.toNat / 2 ^ (w * i) % 2 ^ w := by
  rw [elem, BitVec.extractLsb'_toNat, Nat.shiftRight_eq_div_pow]

/-- The cut at `n` bits leaves a digit below it as it is. -/
theorem mod_two_pow_digit {w i n : Nat} (fits : w * (i + 1) ≤ n) (x : Nat) :
    x % 2 ^ n / 2 ^ (w * i) % 2 ^ w = x / 2 ^ (w * i) % 2 ^ w := by
  obtain ⟨k, rfl⟩ := Nat.exists_eq_add_of_le fits
  rw [Nat.mul_succ, Nat.add_assoc, pow_add, Nat.mod_mul_right_div_self, Nat.mod_mod_of_dvd _ (pow_dvd_pow 2 (Nat.le_add_right w k))]

theorem elem_packElems {w n i : Nat} {xs : List (BitVec w)} (inside : i < xs.length) (fits : w * (i + 1) ≤ n) :
    elem w i (packElems n xs) = xs[i] := by
  apply BitVec.eq_of_toNat_eq
  rw [elem_toNat, packElems, BitVec.toNat_ofNat, mod_two_pow_digit fits, packNat_digit w _ i (by rwa [List.length_map]), List.getElem_map,
    Nat.mod_eq_of_lt xs[i].isLt]

/-- Element `i` of packed values depends on value `i` alone. -/
theorem elem_packElems_range {w n k i : Nat} (inside : i < k) (fits : w * k ≤ n) (f : Nat → BitVec w) :
    elem w i (packElems n ((List.range k).map f)) = f i := by
  rw [elem_packElems (by simpa using inside) ((Nat.mul_le_mul_left w inside).trans fits), List.getElem_map, List.getElem_range]

theorem elem_lanes (k : W16) (f : Nat → W32 × Flg) {l : Nat} (inside : l < 16) :
    elem 32 l (lanes k f).1 = if k.getLsbD l then (f l).1 else 0 := by
  simp only [lanes, List.map_map]
  rw [elem_packElems_range inside (by decide), Function.comp_apply]
  split <;> rfl

theorem elem_maskBits (k : W16) {l : Nat} (inside : l < 16) :
    elem 32 l (maskBits k) = if k.getLsbD l then (.allOnes 32 : W32) else 0 :=
  elem_packElems_range inside (by decide) _

theorem elem_elems {w : Nat} (f : BitVec w → BitVec w → BitVec w × Flg) (x y : W32) {j : Nat} (inside : j < 32 / w) :
    elem w j (elems w f x y).1 = (f (elem w j x) (elem w j y)).1 := by
  simp only [elems, List.map_map]
  exact elem_packElems_range inside (Nat.mul_div_le 32 w) _

/-- Settles O6: a packed word's element is the value put there, for lanes, mask bits and elements of a lane alike. -/
theorem lanesAndElementsAreAlone : Obligations.LanesAndElementsAreAlone := by
  unfold Obligations.LanesAndElementsAreAlone
  exact ⟨fun k f _ inside => ⟨elem_lanes k f inside, elem_maskBits k inside⟩, fun t f x y _ inside => elem_elems (f (ityW t)) x y inside⟩

end Sys2Proof.Proofs
end

section
/-! The matrix unit and the domain unit: the start of an execution, its end, and the token that then counts one fewer (R158, R160 to R162, R211,
R212). -/

namespace Sys2Proof.Proofs

open Sys2Proof.Machine Sys2Proof.Laws

/-! ## A core whose units have moved, and its tokens -/

theorem setUnits_core {s : State} {g : Nat} (known : g < 288) (c : CoreSt) : (s.setUnits g c).core g = c := by
  rw [State.setUnits, State.coreDieEvent, dieEvent_core, State.setCore_core_same _ _ _ known]

theorem setToken_token_same (c : CoreSt) {w : Nat} (t : Token) (inside : w < 8) : (c.setToken w t).token w = t :=
  vget_vset_same _ _ _ _ inside

theorem tokDone_token_same (c : CoreSt) {w : Nat} (inside : w < 8) :
    (c.tokDone (some w)).token w = { c.token w with out := (c.token w).out - 1 } := setToken_token_same c _ inside

theorem tokDone_mrun (c : CoreSt) (w : Option Nat) : (c.tokDone w).flow.mrun = c.flow.mrun := by
  cases w <;> rfl

theorem token_of_flow {c d : CoreSt} (same : d.flow = c.flow) (w : Nat) : d.token w = c.token w := by rw [CoreSt.token, CoreSt.token, same]

/-! ## The start of a matrix execution (R158, R160, R161) -/

/-- The core as an execution begins: the reduction that it opens is open, and a repeated command's address registers have advanced. -/
def mBegun (c : CoreSt) (i : Instr) : CoreSt :=
  let opened := match opens i with
    | some n => c.openAccum n
    | none => c
  if repOf i = 0 then opened else opened.maAdvance

/-- What the beginning of an execution leaves as it is. -/
def beginView (c : CoreSt) : Flow × Vector TileBits 16 × AMap Byte := (c.flow, c.files.t, c.files.spad)

theorem mBegun_beginView (c : CoreSt) (i : Instr) : beginView (mBegun c i) = beginView c := by
  unfold mBegun
  cases opens i <;> dsimp only <;> split <;> rfl

/-- The execution that an idle unit starts in cycle k for the command at the head of its queue. -/
def mStarted (c : CoreSt) (m : MCmd) (k : Nat) : MRun where
  cmd := { m with left := m.left - 1 }
  start := k
  a := (c.mOperands m.op).1
  b := (c.mOperands m.op).2
  tileA := c.tile (c.mOperands m.op).1

/-- The queue once an execution of its head has started: a command leaves it with its last execution. -/
def mqStarted (m : MCmd) (ms : List MCmd) : List MCmd :=
  if m.left - 1 = 0 then ms else { m with left := m.left - 1, k := m.k + 1 } :: ms

theorem mGo_of_idle {c : CoreSt} {m : MCmd} {ms : List MCmd} (k : Nat) (idle : c.flow.mrun = none) (queue : c.flow.mq = m :: ms)
    (unheld : m.fault = none) (inRange : CoreSt.mFault m.b m.op (c.mOperands m.op) = none) : c.mGo k =
    { mBegun c m.op with flow := { (mBegun c m.op).flow with mrun := some (mStarted c m k), mq := mqStarted m ms } } := by
  have fit : m.fault.isSome = false := by rw [unheld]; rfl
  simp only [CoreSt.mGo, idle, queue, fit, inRange]
  rfl

theorem mGo_beginView {c : CoreSt} {m : MCmd} {ms : List MCmd} (k : Nat) (idle : c.flow.mrun = none) (queue : c.flow.mq = m :: ms)
    (unheld : m.fault = none) (inRange : CoreSt.mFault m.b m.op (c.mOperands m.op) = none) : beginView (c.mGo k) =
    ({ c.flow with mrun := some (mStarted c m k), mq := mqStarted m ms }, c.files.t, c.files.spad) := by
  obtain ⟨flow, tiles, spad⟩ : _ ∧ _ ∧ _ := by simpa only [beginView, Prod.mk.injEq] using mBegun_beginView c m.op
  rw [mGo_of_idle k idle queue unheld inRange, beginView, flow, tiles, spad]

theorem exec_matrixCommandStart {s : State} {g : Nat} {m : MCmd} {ms : List MCmd} (known : g < 288) (idle : (s.core g).flow.mrun = none)
    (queue : (s.core g).flow.mq = m :: ms) (unheld : m.fault = none) :
    exec (.matrixCommandStart g) s = .next (s.setUnits g ((s.core g).mGo (s.core g).flow.cyc)) := by
  unfold exec
  exact coreEvent_eq_next.mpr ⟨known, by simp [idle, queue, unheld]⟩

/-! ## The end of a matrix execution (R160, R162) -/

/-- An execution writes files and PIVFLAGS, and nothing of the queues and tokens. -/
theorem mPerform_flow (c : CoreSt) (r : MRun) : (c.mPerform r).1.flow = c.flow := by
  unfold CoreSt.mPerform
  repeat' split
  all_goals simp [CoreSt.setMain, CoreSt.setPart, CoreSt.clearAccum]

theorem mFinish_idle (c : CoreSt) (r : MRun) : (c.mFinish r).flow.mrun = none := by
  unfold CoreSt.mFinish
  dsimp only
  split
  · rw [tokDone_mrun, CoreSt.raise_flow]
  · split <;> rfl

theorem mFinish_token {c : CoreSt} {r : MRun} (last : r.cmd.left = 0) (inside : r.cmd.tok < 8) :
    (c.mFinish r).token r.cmd.tok = { c.token r.cmd.tok with out := (c.token r.cmd.tok).out - 1 } := by
  have tokens : (c.mPerform r).1.token r.cmd.tok = c.token r.cmd.tok := token_of_flow (mPerform_flow c r) _
  rw [CoreSt.mFinish, if_pos last, tokDone_token_same _ inside, ← tokens]
  rfl

theorem exec_matrixCommandComplete {s : State} {g : Nat} {r : MRun} (known : g < 288) (runs : (s.core g).flow.mrun = some r)
    (passed : r.start + busyTime r.cmd.op ≤ (s.core g).flow.cyc) :
    exec (.matrixCommandComplete g) s = .next (s.setUnits g ((s.core g).mFinish r)) := by
  unfold exec
  exact coreEvent_eq_next.mpr ⟨known, by simp [runs, passed]⟩

/-! ## The domain unit (R209, R211, R212) -/

theorem exec_dOperationStart {s : State} {g : Nat} {q : DOp} {qs : List DOp} (known : g < 288) (idle : (s.core g).dom.run = none)
    (queue : (s.core g).dom.ops = q :: qs) (unheld : q.fault = none) : exec (.dOperationStart g) s =
    .next (s.setUnits g (Dom.begin1 { s.core g with dom := { (s.core g).dom with ops := qs } } q (s.core g).flow.cyc)) := by
  unfold exec
  exact coreEvent_eq_next.mpr ⟨known, by simp [Dom.goAt, idle, queue, unheld]⟩

theorem putS_flow (c : CoreSt) (d : SDst) (x : W64) : (c.putS d x).flow = c.flow := by
  cases d <;> simp [CoreSt.putS]

theorem putResult_flow (c : CoreSt) (r : DRun) : (Dom.putResult c r).flow = c.flow := by
  unfold Dom.putResult
  split
  case h_6 => rfl
  all_goals exact putS_flow _ _ _

/-- The core once the scalar of an operation is written and its unit is idle. -/
def domWritten (c : CoreSt) (r : DRun) : CoreSt := { Dom.putResult c r with dom := { c.dom with run := none } }

theorem domWritten_token (c : CoreSt) (r : DRun) (w : Nat) : (domWritten c r).token w = c.token w :=
  token_of_flow (d := domWritten c r) (putResult_flow c r) w

@[simp] theorem outcome_dom (c : CoreSt) (r : DRun) : (Dom.outcome c r).dom = c.dom := by
  unfold Dom.outcome
  split <;> rfl

/-- The outcome of an operation that has not failed leaves what its token counts and whether it has failed. -/
theorem outcome_token {c : CoreSt} {r : DRun} {w : Nat} (passes : r.failed = false) (names : r.op.tok = some w) (inside : w < 8) :
    ((Dom.outcome c r).token w).out = (c.token w).out ∧ ((Dom.outcome c r).token w).failed = (c.token w).failed := by
  simp only [Dom.outcome, names, setToken_token_same c _ inside, passes, Bool.or_false, and_self]

/-- The core once cr.unsettled says whether its propagation queue is empty. -/
def noteUnsettled (c : CoreSt) : CoreSt := { c with ctrl := { c.ctrl with unsettled := decide (c.dom.queue ≠ []) } }

section Finish

variable {c : CoreSt} {r : DRun} (sound : r.fault = none) (passes : r.failed = false) (k : Nat)
include sound passes

/-- An operation that has neither faulted nor failed completes at once. -/
theorem finish_eq : Dom.finish c r k =
    ((noteUnsettled (Dom.outcome (domWritten c r) r)).tokDone r.op.tok).raise 1 r.op.bundle (r.flags ||| .iff r.op.lost .latch) := by
  have unfailed : ¬ (r.failed && !r.restored) = true := by simp [passes]
  unfold Dom.finish
  rw [sound]
  exact if_neg unfailed

theorem finish_dom : (Dom.finish c r k).dom = { c.dom with run := none } := by
  rw [finish_eq sound passes, CoreSt.raise_dom, CoreSt.tokDone_dom]
  exact outcome_dom (domWritten c r) r

theorem finish_token {w : Nat} (names : r.op.tok = some w) (inside : w < 8) :
    ((Dom.finish c r k).token w).out = (c.token w).out - 1 ∧ ((Dom.finish c r k).token w).failed = (c.token w).failed := by
  have done := tokDone_token_same (noteUnsettled (Dom.outcome (domWritten c r) r)) inside
  obtain ⟨out, failed⟩ := outcome_token (c := domWritten c r) passes names inside
  rw [domWritten_token] at out failed
  rw [finish_eq sound passes, names, token_of_flow (CoreSt.raise_flow _ _ _ _), done]
  exact ⟨congrArg (· - 1) out, failed⟩

end Finish

theorem exec_dOperationComplete {s : State} {g : Nat} {r : DRun} (known : g < 288) (runs : (s.core g).dom.run = some r)
    (ended : r.until_ < (s.core g).flow.cyc) (last : Dom.more (s.core g) r = false) :
    exec (.dOperationComplete g) s = .next (s.setUnits g (Dom.finish (s.core g) r (s.core g).flow.cyc)) := by
  unfold exec
  exact coreEvent_eq_next.mpr ⟨known, by simp [runs, ended, last]⟩

/-- Settles O33: the start and the end of an execution in each unit, by what that event makes of the core. -/
theorem unitsStartAndComplete : Obligations.UnitsStartAndComplete := by
  unfold Obligations.UnitsStartAndComplete
  refine ⟨?matrixStart, ?matrixEnd, fun s g q qs known idle queue unheld => exec_dOperationStart known idle queue unheld, ?domainEnd⟩
  case matrixStart =>
    intro s g m ms known idle queue unheld inRange
    have after := mGo_beginView (s.core g).flow.cyc idle queue unheld inRange
    obtain ⟨flow, tiles, spad⟩ : _ ∧ _ ∧ _ := by simpa only [beginView, Prod.mk.injEq] using after
    refine ⟨_, mStarted (s.core g) m (s.core g).flow.cyc, exec_matrixCommandStart known idle queue unheld, ?_⟩
    rw [setUnits_core known, flow]
    exact ⟨rfl, rfl, rfl, rfl, tiles, spad⟩
  case matrixEnd =>
    intro s g r known runs passed
    refine ⟨_, exec_matrixCommandComplete known runs passed, ?_⟩
    rw [setUnits_core known]
    exact ⟨mFinish_idle _ r, mFinish_token⟩
  case domainEnd =>
    intro s g r known runs ended last sound passes
    refine ⟨_, exec_dOperationComplete known runs ended last, ?_⟩
    rw [setUnits_core known, finish_dom sound passes]
    exact ⟨rfl, rfl, fun w names inside => finish_token sound passes _ names inside⟩

end Sys2Proof.Proofs
end

section
/-! READ: a line of a queue operation, or of a copy command's source, from the view of the core's die (R163, R271, R293, R295). -/

namespace Sys2Proof.Proofs

open Sys2Proof.Machine Sys2Proof.Laws

/-! ## What preparing a read leaves as it is (R260, R366) -/

/-- The registers and the queues of a core. -/
def filesFlow (c : CoreSt) : Files × Flow := (c.files, c.flow)

/-- No view, no clock, no register and no queue has changed. -/
structure Prepares (s t : State) : Prop where
  ord : t.ord = s.ord
  core : ∀ h, filesFlow (t.core h) = filesFlow (s.core h)

namespace Prepares

variable {s t u : State}

theorem trans (first : Prepares s t) (then_ : Prepares t u) : Prepares s u :=
  ⟨then_.ord.trans first.ord, fun h => (then_.core h).trans (first.core h)⟩

theorem files (prepares : Prepares s t) (h : Nat) : (t.core h).files = (s.core h).files := congrArg Prod.fst (prepares.core h)

theorem flow (prepares : Prepares s t) (h : Nat) : (t.core h).flow = (s.core h).flow := congrArg Prod.snd (prepares.core h)

theorem of_cores (ord : t.ord = s.ord) (cores : t.cores = s.cores) : Prepares s t :=
  ⟨ord, fun h => by rw [State.core, State.core, cores]⟩

end Prepares

theorem enterAt_prepares (s : State) (p d : Nat) (loc : Loc) (pa : Nat) : Prepares s (s.enterAt p d loc pa) := .of_cores rfl rfl

theorem enterWalk_prepares (s : State) (p : Nat) (core die : Option Nat) (va : W64) (need : Need) :
    Prepares s (s.enterWalk p core die va need) := by
  unfold State.enterWalk
  split
  · exact .of_cores (foldl_keeps State.ord (fun _ _ => by exact rfl) _ s) (foldl_keeps State.cores (fun _ _ => by exact rfl) _ s)
  · exact .of_cores rfl rfl

theorem onCore_tlb_prepares (s : State) (g : Nat) (f : List Cached → List Cached) : Prepares s (s.onCore g fun c => { c with tlb := f c.tlb }) :=
  ⟨rfl, onCore_keeps filesFlow (fun _ => by exact rfl) s g⟩

/-- A core and a die remember a translation in their caches alone. -/
theorem remember_prepares (s : State) (p : Nat) (core die : Option Nat) (x : Xlated) : Prepares s (s.remember p core die x) := by
  unfold State.remember
  cases x.page with
  | none => exact .of_cores rfl rfl
  | some page =>
    have ticked : Prepares s { s with tick := s.tick + 1 } := .of_cores rfl rfl
    have cached (g : Nat) (e : Cached) := ticked.trans (onCore_tlb_prepares _ g fun l => addCached l e)
    cases core with
    | none => cases die <;> exact .of_cores rfl rfl
    | some g =>
      cases die with
      | none => exact cached g _
      | some d => exact (cached g _).trans (.of_cores rfl rfl)

/-- What an access that may perform now has found and left. -/
theorem accessFor_ok {s t : State} {p : Nat} {core die : Option Nat} {va : W64} {need : Need} {reach : Reach} {x : Xlated}
    (prepared : s.accessFor p core die va need reach = .ok t x) :
    t = (((if need.w then (s.enterWalk p core die va need).logAccess p va x false else s.enterWalk p core die va need).remember p core die x).enter
      p (die.getD (homeDie x.pa)) x) := by
  unfold State.accessFor at prepared
  dsimp only at prepared
  split at prepared
  · cases prepared
  · cases prepared
  · split at prepared
    · split at prepared <;> cases prepared
    · split at prepared
      · cases prepared
      · cases prepared
        rfl

theorem access_ok {s t : State} {g : Nat} {va : W64} {need : Need} {reach : Reach} {x : Xlated} (prepared : s.access g va need reach = .ok t x) :
    s.accessFor (s.partOf g) (some g) (some (Config.dieOf g)) va need reach = .ok t x := by
  unfold State.access at prepared
  split at prepared
  · split at prepared <;> cases prepared
  · cases prepared
  · cases prepared
    assumption

/-- An access that only reads logs nothing. -/
theorem access_read_prepares {s t : State} {g : Nat} {va : W64} {reach : Reach} {x : Xlated} (prepared : s.access g va needR reach = .ok t x) :
    Prepares s t := by
  rw [accessFor_ok (access_ok prepared)]
  exact ((enterWalk_prepares ..).trans (remember_prepares ..)).trans (enterAt_prepares ..)

/-! ## A queue operation's line (R163, R293) -/

/-- The request for a line has been counted, and a fence waits for the writes that placed its bytes (R265, R299). -/
def lineRequested (t : State) (g : Nat) (home : Option Nat) (pa : Nat) : State :=
  (t.countLine g home).onNeed g (t.ord.readNeed (Config.dieOf g) pa 64)

theorem countLine_ord (s : State) (g : Nat) (home : Option Nat) : (s.countLine g home).ord = s.ord := dieEvent_ord ..

theorem countLine_core (s : State) (g : Nat) (home : Option Nat) (h : Nat) : (s.countLine g home).core h = s.core h := dieEvent_core ..

theorem lineRequested_ord (t : State) (g : Nat) (home : Option Nat) (pa : Nat) : (lineRequested t g home pa).ord = t.ord :=
  countLine_ord t g home

theorem lineRequested_core (t : State) {g : Nat} (home : Option Nat) (pa : Nat) (known : g < 288) :
    ((lineRequested t g home pa).core g).files = (t.core g).files ∧ ((lineRequested t g home pa).core g).flow.mem = (t.core g).flow.mem := by
  rw [lineRequested, State.onNeed, State.onCore_core_same _ _ _ known, countLine_core]
  exact ⟨rfl, rfl⟩

theorem qSettle_ord (s : State) (g : Nat) (q : QOp) : (s.qSettle g q).ord = s.ord := by
  unfold State.qSettle
  split <;> rfl

theorem qSettle_of_more {s : State} {q : QOp} (g : Nat) (more : q.done < q.lines) : s.qSettle g q = s.setHead g q := by
  simp [State.qSettle, Nat.not_le.mpr more]

section QueueRead

variable {s t : State} {g : Nat} {q : QOp} (known : g < 288) (head : (s.core g).headOp = some q) (reads : q.reads = true)
  (left : q.done < q.lines)
include known head reads left

theorem exec_read_queue {x : Xlated} {home : Option Nat} (free : (s.core g).loadWaits q = false)
    (prepared : s.access g q.lineVa needR .scratchpads = .ok t x) (memory : x.loc = .mem home) : exec (.read g false) s =
    .next ((lineRequested t g home x.pa).qSettle g (q.take (t.ord.readView (Config.dieOf g) x.pa 64))) := by
  have going : ¬ (!q.reads || decide (q.lines ≤ q.done)) = true := by simp [reads, left]
  rw [← lineRequested_ord t g home x.pa]
  unfold exec execRead
  refine coreEvent_eq_next.mpr ⟨known, ?_⟩
  simp only [State.qRead, head, if_neg going, prepared, memory, free]
  rw [lineRequested, ← countLine_ord t g home]
  rfl

theorem exec_read_queue_updated (updated : s.access g q.lineVa needR .scratchpads = .updated t) : exec (.read g false) s = .next t := by
  have going : ¬ (!q.reads || decide (q.lines ≤ q.done)) = true := by simp [reads, left]
  unfold exec execRead
  refine coreEvent_eq_next.mpr ⟨known, ?_⟩
  simp only [State.qRead, head, if_neg going, updated, Bool.false_eq_true, if_false]

end QueueRead

/-! ## A copy command's source (R295) -/

theorem exec_read_copy {s t : State} {g : Nat} {x : XCmd} {y : Xlated} {home : Option Nat} (known : g < 288)
    (head : (s.core g).headCopy = some x) (plain : x.pipe = false) (empty : x.line = none)
    (prepared : s.access g x.srcVa needR .scratchpads = .ok t y) (memory : y.loc = .mem home) : exec (.read g true) s =
    .next (t.setCopy g (x.got (t.ord.readView (Config.dieOf g) y.pa 64))) := by
  unfold exec execRead
  refine coreEvent_eq_next.mpr ⟨known, ?_⟩
  simp [State.xRead, head, plain, empty, prepared, memory]

/-- Settles O25: a read that may perform now, from the view as preparing it has left it, and one that owes an A bit. -/
theorem readsTakeALineOfTheView : Obligations.ReadsTakeALineOfTheView := by
  unfold Obligations.ReadsTakeALineOfTheView
  refine ⟨?queue, ?copy, fun s t g q known head reads left updated => exec_read_queue_updated known head reads left updated⟩
  case queue =>
    intro s t g q x home known head reads left free prepared memory
    have prepares := access_read_prepares prepared
    obtain ⟨files, mem⟩ := lineRequested_core t home x.pa known
    refine ⟨_, exec_read_queue known head reads left free prepared memory, ?_⟩
    rw [qSettle_ord, lineRequested_ord]
    refine ⟨rfl, rfl, rfl, fun more => ?_⟩
    rw [qSettle_of_more (q := q.take _) g more, State.setHead, State.onCore_core_same _ _ _ known]
    exact ⟨files.trans (prepares.files g), by rw [mem, prepares.flow g]⟩
  case copy =>
    intro s t g x y home known head plain empty prepared memory
    have prepares := access_read_prepares prepared
    refine ⟨_, exec_read_copy known head plain empty prepared memory, rfl, ?_⟩
    rw [State.setCopy, State.onCore_core_same _ _ _ known]
    exact ⟨prepares.files g, by rw [prepares.flow g]; rfl⟩

end Sys2Proof.Proofs
end

section
/-! Errors: an uncorrectable one of a core's own state, one of an ingress buffer, and the counts of correctable ones (R164, R255, R366, R367, R381,
R415). -/

namespace Sys2Proof.Proofs

open Sys2Proof.Machine Sys2Proof.Laws

/-! ## An error of a core's own state (R255, R415) -/

theorem standInError_of_idle {s : State} (idle : s.repStatus ≠ 1) (g : Nat) : s.standInError g = false := by
  simp [State.standInError, State.repairs, idle]

theorem standInError_of_mapped {s : State} {g q : Nat} (running : s.repStatus = 1) (kind : repKind s.hub.repairRun = 0)
    (standIn : s.standIn (repDie s.hub.repairRun) = some q) (mapped : g ∈ quadCores (repDie s.hub.repairRun) q) : s.standInError g = true := by
  simp [State.standInError, State.repairs, running, kind, standIn, mapped]

theorem setRepair_repStatus (s : State) {n : Nat} (status : n < 4) : (s.setRepair n).repStatus = n := by
  have written : (((s.hub.repair &&& ~~~(0xC0000000 : W64)) ||| BitVec.ofNat 64 (n * 2 ^ 30)).extractLsb' 30 2) = BitVec.ofNat 2 n := by
    have value : ∀ m, m < 4 → (BitVec.ofNat 64 (m * 2 ^ 30)).extractLsb' 30 2 = BitVec.ofNat 2 m := by decide
    have cleared : (~~~(0xC0000000 : W64)).extractLsb' 30 2 = 0#2 := by decide
    rw [BitVec.extractLsb'_or, BitVec.extractLsb'_and, cleared, BitVec.and_zero, BitVec.zero_or, value n status]
  have read := congrArg BitVec.toNat written
  rw [BitVec.extractLsb'_toNat, Nat.shiftRight_eq_div_pow, BitVec.toNat_ofNat, Nat.mod_eq_of_lt status] at read
  exact read

theorem exec_coreError_traps {s : State} {g : Nat} {kind : BitVec 4} (unit : Byte) (row col : W16) (known : g < 288)
    (runs : (s.core g).status = .running ∨ (s.core g).status = .ended) (own : kind ≠ 6) (idle : s.repStatus ≠ 1) :
    exec (.coreUncorrectableError g kind unit row col) s = .next (s.takeTrapOn g ((s.core g).errorTrap kind unit row col)) := by
  have resident : ((s.core g).status == .running || (s.core g).status == .ended) = true := by simpa using runs
  unfold exec
  refine coreEvent_eq_next.mpr ⟨known, ?_⟩
  simp only [standInError_of_idle idle g, own, resident]
  cases s.ownerOf g <;> rfl

theorem exec_coreError_refusesRepair {s : State} {g : Nat} (kind : BitVec 4) (unit : Byte) (row col : W16) (known : g < 288)
    (standIn : s.standInError g = true) : exec (.coreUncorrectableError g kind unit row col) s = .next (s.setRepair 3) := by
  unfold exec
  exact coreEvent_eq_next.mpr ⟨known, if_pos standIn⟩

theorem errorTrap_restart (c : CoreSt) (kind : BitVec 4) (unit : Byte) (row col : W16) :
    (c.errorTrap kind unit row col).restart = true ↔ (c.files.openAcc ≠ 0 ∧ c.status ≠ .ended) ∨ c.tokenOpen = true := by
  simp [CoreSt.errorTrap]

/-! ## Bitmaps of partitions (R366) -/

theorem getLsbD_bit {p : Nat} (q : Nat) (inside : p < 64) : (1#64 <<< q).getLsbD p = decide (p = q) := by
  rw [← BitVec.twoPow_eq, BitVec.getLsbD_twoPow]
  by_cases same : p = q
  · simp [same, same ▸ inside]
  · simp [same, Ne.symm same]

theorem getLsbD_partBits {p : Nat} (inside : p < 64) (ps : List Nat) : (partBits ps).getLsbD p = decide (p ∈ ps) := by
  have from_ (m : W64) : (ps.foldl (fun m p => m ||| (1#64 <<< p)) m).getLsbD p = (m.getLsbD p || decide (p ∈ ps)) := by
    induction ps generalizing m with
    | nil => simp
    | cons q ps ih => rw [List.foldl_cons, ih, BitVec.getLsbD_or, getLsbD_bit q inside]; simp [Bool.or_assoc]
  simpa [partBits] using from_ 0

/-! ## The blast records of an error (R367) -/

/-- A partition that has taken a blast record. -/
def blastTaken (rec' : List Byte) (pt : Part) : Part :=
  let ring := if pt.blast.length < 16 then pt.blast ++ List.replicate (16 - pt.blast.length) (List.replicate 32 0) else pt.blast
  { pt with
    blast := ring.set (pt.blastcount.toNat % 16) rec', blastcount := pt.blastcount + 1, signals := pt.signals + 1
    entry := { pt.entry with state := pt.entry.state ||| 0x10 } }

theorem deliverBlast_part (s : State) {p : Nat} (q : Nat) (rec' : List Byte) (inside : p < 64) :
    (s.deliverBlast p rec').part q = if q = p then blastTaken rec' (s.part q) else s.part q := by
  split
  case isTrue same =>
    subst same
    exact State.onPart_part_same { s with hub := { s.hub with pfSignals := s.hub.pfSignals + 1 } } q (blastTaken rec') inside
  case isFalse other =>
    exact State.onPart_part_other { s with hub := { s.hub with pfSignals := s.hub.pfSignals + 1 } } p q (blastTaken rec') other

/-- A blast record goes to each partition listed whose bit is set. -/
def deliverTo (owners : W64) (rec' : List Byte) (ps : List Nat) (s : State) : State :=
  ps.foldl (fun s p => if owners.getLsbD p then s.deliverBlast p rec' else s) s

theorem deliverTo_keeps {β : Type} (view : State → β) (keeps : ∀ (s : State) p rec', view (s.deliverBlast p rec') = view s)
    (owners : W64) (rec' : List Byte) (ps : List Nat) (s : State) : view (deliverTo owners rec' ps s) = view s := by
  unfold deliverTo
  refine foldl_keeps view (fun t p => ?_) ps s
  split
  · exact keeps t p rec'
  · rfl

theorem deliverTo_part (owners : W64) (rec' : List Byte) {ps : List Nat} (inside : ∀ p ∈ ps, p < 64) (once : ps.Nodup) (s : State) (q : Nat) :
    (deliverTo owners rec' ps s).part q = if q ∈ ps ∧ owners.getLsbD q = true then blastTaken rec' (s.part q) else s.part q := by
  induction ps generalizing s with
  | nil => simp [deliverTo]
  | cons p ps ih =>
    obtain ⟨apart, rest⟩ := List.nodup_cons.mp once
    have first : (if owners.getLsbD p then s.deliverBlast p rec' else s).part q =
        if q = p ∧ owners.getLsbD q = true then blastTaken rec' (s.part q) else s.part q := by
      by_cases owns : owners.getLsbD p = true
      · rw [if_pos owns, deliverBlast_part s q rec' (inside p List.mem_cons_self)]
        by_cases same : q = p <;> simp [same, owns]
      · by_cases same : q = p <;> simp [same, owns]
    show (deliverTo owners rec' ps (if owners.getLsbD p then s.deliverBlast p rec' else s)).part q = _
    rw [ih (fun x listed => inside x (List.mem_cons_of_mem p listed)) rest, first]
    by_cases same : q = p
    · simp [same, apart]
    · simp [same]

/-! ## An error of an ingress buffer (R366, R367) -/

/-- The cores of which an error in a line of an ingress buffer meets an operation. -/
def ingressMet (s : State) (inst pa : Nat) : List Nat :=
  (List.range Config.nCores).filter fun g => depositsAt inst pa && s.isMet g (pa / 64)

/-- It meets the copy node that the hub runs. -/
def ingressHub (s : State) (inst pa : Nat) : Bool := depositsAt inst pa && s.hubMet (pa / 64)

/-- The partitions that take its blast record. -/
def ingressOwners (s : State) (inst pa : Nat) : W64 :=
  s.ownersKnown 1 inst ||| partBits ((ingressMet s inst pa).map s.partOf) |||
    (match s.hub.hubCopy with | some h => if ingressHub s inst pa then partBits [h.part] else 0 | none => 0)

/-- What it meets does not complete, and the entries of its line are never applied. -/
def ingressStuck (s : State) (inst pa : Nat) : State :=
  ((ingressMet s inst pa).foldl (fun s g => s.stick (pa / 64) g) (if ingressHub s inst pa then s.stickHub else s)).stickEntries inst (pa / 64)

theorem exec_ingressError (s : State) (inst pa : Nat) : exec (.sharedUncorrectableError 1 inst pa) s =
    .next (deliverTo (ingressOwners s inst pa) (blastRecord 1 1 inst s.time (ingressOwners s inst pa) (pa / 64 * 64)) (List.range 64)
      (ingressStuck s inst pa)) := by
  unfold exec
  rfl

/-- An operation that an error meets stays in its queue: no register of its core changes. -/
theorem stick_files (s : State) (line g h : Nat) : ((s.stick line g).core h).files = (s.core h).files := by
  unfold State.stick
  refine onCore_keeps CoreSt.files (fun c => ?_) s g h
  cases (s.meets g line).op <;> cases (s.meets g line).copy <;> cases (s.meets g line).poll || (s.meets g line).fetch <;> rfl

/-- What the operations met leave as it is: the hub and the ordering machine. -/
theorem stuckOps_hub_ord (s : State) (line : Nat) (gs : List Nat) :
    (gs.foldl (fun s g => s.stick line g) s).hub = s.hub ∧ (gs.foldl (fun s g => s.stick line g) s).ord = s.ord :=
  ⟨foldl_keeps State.hub (fun _ _ => by exact rfl) gs s, foldl_keeps State.ord (fun _ _ => by exact rfl) gs s⟩

theorem ingressStuck_part (s : State) (inst pa p : Nat) : (ingressStuck s inst pa).part p = s.part p := by
  rw [ingressStuck, State.stickEntries, State.part, State.onOrd_hub, (stuckOps_hub_ord _ _ _).1]
  split <;> rfl

theorem ingressStuck_files (s : State) (inst pa g : Nat) : ((ingressStuck s inst pa).core g).files = (s.core g).files := by
  rw [ingressStuck, State.stickEntries, State.onOrd_core]
  refine (foldl_keeps (fun u : State => (u.core g).files) (fun u h => stick_files u _ h g) _ _).trans ?_
  split <;> rfl

theorem stickEntries_ingress (s : State) {d : Nat} (line : Nat) (die : d < 4) : vget [] (s.stickEntries d line).ord.ingress d =
    (vget [] s.ord.ingress d).map fun e => if e.target / 64 = line then { e with stuck := true } else e := by
  simp only [State.stickEntries, State.onOrd_ord, vget_vset_same _ _ _ _ die, beq_iff_eq]

theorem ingressStuck_ingress (s : State) {inst : Nat} (pa : Nat) (die : inst < 4) : vget [] (ingressStuck s inst pa).ord.ingress inst =
    (vget [] s.ord.ingress inst).map fun e => if e.target / 64 = pa / 64 then { e with stuck := true } else e := by
  have hub : (if ingressHub s inst pa then s.stickHub else s).ord = s.ord := by split <;> rfl
  rw [ingressStuck, stickEntries_ingress _ _ die, (stuckOps_hub_ord _ _ _).2, hub]

/-- The owners of an entry are among those that take the record. -/
theorem owns_of_entry {s : State} {inst : Nat} {e : Entry} (pa : Nat) (entry : e ∈ vget [] s.ord.ingress inst) (inside : e.part < 64) :
    (ingressOwners s inst pa).getLsbD e.part = true := by
  have known : (s.ownersKnown 1 inst).getLsbD e.part = true :=
    (getLsbD_partBits inside _).trans (decide_eq_true (List.mem_map_of_mem entry))
  rw [ingressOwners, BitVec.getLsbD_or, BitVec.getLsbD_or, known, Bool.true_or, Bool.true_or]

section Unmet

variable {s : State} {inst pa : Nat} (unmet : ∀ g, g < 288 → s.isMet g (pa / 64) = false)
include unmet

theorem ingressMet_of_unmet : ingressMet s inst pa = [] :=
  List.filter_eq_nil_iff.mpr fun g listed => by simp [unmet g (List.mem_range.mp listed)]

variable (noCopy : s.hub.hubCopy = none)
include noCopy

theorem ingressStuck_of_unmet : ingressStuck s inst pa = s.stickEntries inst (pa / 64) := by
  have hub : ingressHub s inst pa = false := by simp [ingressHub, State.hubMet, noCopy]
  rw [ingressStuck, ingressMet_of_unmet unmet, hub]
  rfl

/-- No other partition takes the record. -/
theorem not_owns_of_unmet {p : Nat} (inside : p < 64) (apart : ∀ e ∈ vget [] s.ord.ingress inst, e.part ≠ p) :
    (ingressOwners s inst pa).getLsbD p = false := by
  have unknown : (s.ownersKnown 1 inst).getLsbD p = false :=
    (getLsbD_partBits inside _).trans (decide_eq_false fun listed => by
      obtain ⟨e, entry, part⟩ := List.mem_map.mp listed
      exact apart e entry part)
  rw [ingressOwners, ingressMet_of_unmet unmet, noCopy, BitVec.getLsbD_or, BitVec.getLsbD_or, unknown]
  simp [partBits]

end Unmet

/-! ## Correctable errors (R367, R381) -/

@[simp] theorem dieError_corrErr (s : State) (d : Nat) (owners : W64) (n : Nat) : (s.dieError d owners n).hub.corrErr = s.hub.corrErr := by
  unfold State.dieError; split <;> rfl

/-- A correctable error has been counted at its structure. -/
def errorCounted (s : State) (k : Nat) : State :=
  { s with hub := { s.hub with corrErr := amSet 0 s.hub.corrErr k (amGet 0 s.hub.corrErr k + 1) } }

theorem exec_correctableError_shared {row : Nat} (inst : Nat) (s : State) (known : row < 6) : exec (.correctableError row inst) s =
    .next ((errorCounted s (row * 1024 + inst % 1024)).dieError (structDie row inst) (s.ownersKnown row inst) 1) := by
  unfold exec
  exact event_eq_next.mpr (if_pos known)

theorem exec_correctableError_core {inst : Nat} (s : State) (known : inst < 288) : exec (.correctableError 6 inst) s = .next (s.coreErrors inst 1) := by
  unfold exec
  exact event_eq_next.mpr ((if_neg (Nat.lt_irrefl 6)).trans (if_pos ⟨rfl, known⟩))

/-- Settles O46: an error of a core, in which a repair runs or not, one of an ingress buffer, and the two counts. -/
theorem errorsTrapOrAreCounted : Obligations.ErrorsTrapOrAreCounted := by
  unfold Obligations.ErrorsTrapOrAreCounted
  refine ⟨?core, ?repair, ?ingress, ?structures, ?counts⟩
  case core =>
    intro s g kind unit row col known runs own idle
    exact ⟨_, exec_coreError_traps unit row col known runs own idle, rfl, rfl, rfl, rfl, rfl, rfl, errorTrap_restart ..⟩
  case repair =>
    intro s g q kind unit row col known running repair standIn mapped
    exact ⟨_, exec_coreError_refusesRepair kind unit row col known (standInError_of_mapped running repair standIn mapped),
      setRepair_repStatus s (by decide), rfl, rfl⟩
  case ingress =>
    intro s inst pa die
    have parts (rec' : List Byte) {p : Nat} (inside : p < 64) :
        (deliverTo (ingressOwners s inst pa) rec' (List.range 64) (ingressStuck s inst pa)).part p =
          if (ingressOwners s inst pa).getLsbD p = true then blastTaken rec' (s.part p) else s.part p := by
      rw [deliverTo_part _ _ (fun _ => List.mem_range.mp) List.nodup_range, ingressStuck_part]
      simp [inside]
    refine ⟨_, exec_ingressError s inst pa, fun g => ?_, fun e entry inside => ?_, ?_, fun unmet noCopy _ => ⟨?_, fun p inside apart => ?_⟩⟩
    · exact (deliverTo_keeps (fun u => (u.core g).files) (fun _ _ _ => rfl) _ _ _ _).trans (ingressStuck_files s inst pa g)
    · rw [parts _ inside, if_pos (owns_of_entry pa entry inside)]
      rfl
    · rw [deliverTo_keeps State.ord fun _ _ _ => rfl]
      exact ingressStuck_ingress s pa die
    · rw [deliverTo_keeps State.cores fun _ _ _ => rfl, ingressStuck_of_unmet unmet noCopy]
      rfl
    · rw [parts _ inside, not_owns_of_unmet unmet noCopy inside apart]
      rfl
  case structures =>
    intro s row inst known canonical
    refine ⟨_, exec_correctableError_shared inst s known, dieError_cores .., dieError_ord .., ?_⟩
    rw [dieError_corrErr]
    exact amGet_amSet_same _ _ canonical
  case counts =>
    intro s inst known canonical
    refine ⟨_, exec_correctableError_core s known, dieError_cores .., dieError_ord .., ?_⟩
    rw [State.coreErrors, dieError_coreErr]
    exact amGet_amSet_same _ _ canonical

end Sys2Proof.Proofs
end

section
/-! The faults of a scratchpad access (R233, R281, R282). -/

namespace Sys2Proof.Proofs

open Sys2Proof.Machine Sys2Proof.Claims Sys2Proof.Laws

/-! ## The access that a scratchpad form names -/

/-- The field index of R63 that names the address of a scratchpad form. -/
def spadField : Instr → Nat
  | .ldv _ _ _ _ | .stv _ _ _ _ | .adotm _ _ _ _ => 5
  | _ => 4

theorem localAccess_of_spadAddress {c : CoreSt} {i : Instr} {x : W64} (address : spadAddress c i = some x) :
    c.localAccess i = some (x, (spadSize i).1, (spadSize i).2, spadField i) := by
  cases i
  case lds t d a o => cases address; rw [spadSize, ← loadSize_eq_ldBytes]; rfl
  case sts t a b o => cases address; rw [spadSize, ← storeSize_eq_stBytes]; rfl
  case ald | ast | ldv | stv | adotm => cases address; rfl
  all_goals cases address

/-- A scratchpad form asks nothing of the group but its access: no privilege, no loop level, no other address and no poll. -/
structure AsksAccessOnly (c : CoreSt) (i : Instr) : Prop where
  priv : ∀ k b, c.privFaults [{ slot := k, op := i, bundle := b }] = []
  loop : ∀ a k b, c.loopFaults a [{ slot := k, op := i, bundle := b }] = []
  aligned : c.aligned i = []
  poll : ∀ p x y t, i ≠ .waitph p x y t ∧ i ≠ .waitbit p x y t

theorem asksAccessOnly_of_spadAddress {c : CoreSt} {i : Instr} {x : W64} (address : spadAddress c i = some x) : AsksAccessOnly c i := by
  cases i
  case lds | sts | ald | ast | ldv | stv | adotm =>
    exact ⟨fun _ _ => rfl, fun _ _ _ => rfl, rfl, fun _ _ _ _ => ⟨nofun, nofun⟩⟩
  all_goals cases address

theorem exec_spad {s : State} {i : Instr} {x : W64} (address : spadAddress s.cc i = some x) : ∃ eff, exec i s = s.issue i eff := by
  unfold exec
  cases i
  case lds | sts | ald | ast | ldv | stv | adotm => exact ⟨_, rfl⟩
  all_goals cases address

/-! ## The offences of one access -/

section Access

variable {c : CoreSt} {i : Instr} {x : W64} {n al f : Nat} (access : c.localAccess i = some (x, n, al, f))
include access

theorem alignFaults_of_misaligned (off : x.toNat % al ≠ 0) (k : Nat) (b : Addr) :
    c.alignFaults [{ slot := k, op := i, bundle := b }] = [{ slot := k, field := f, va := x.setWidth 60 }] := by
  simp [CoreSt.alignFaults, access, off]

theorem alignFaults_of_multiple (multiple : x.toNat % al = 0) (others : c.aligned i = []) (k : Nat) (b : Addr) :
    c.alignFaults [{ slot := k, op := i, bundle := b }] = [] := by
  simp [CoreSt.alignFaults, access, multiple, others]

theorem permFaults_of_past (beyond : Config.spadBytes < x.toNat + n) (k : Nat) (b : Addr) :
    c.permFaults [{ slot := k, op := i, bundle := b }] = [{ slot := k, field := f, va := x.setWidth 60 }] := by
  simp [CoreSt.permFaults, access, CoreSt.past, beyond]

end Access

/-! ## The fault that the group takes (R233) -/

theorem issue_of_groupFault {s : State} {i : Instr} {t : TrapInfo} (eff : State → State) (unchecked : s.cc.flow.checked = false)
    (fault : s.cc.groupFault s.cc.flow.groupA (s.soloGroup i) = some t) : s.issue i eff = .next (s.takeTrapOn s.cur t) := by
  simp [State.issue, unchecked, fault]

section Order

variable {c : CoreSt} {a : Addr} {g : List CoreSt.Issuing} {o : CoreSt.Offence} (unpending : c.tokHaz g = []) (alone : c.landColl g = [])
  (allowed : c.privFaults g = []) (nested : c.loopFaults a g = [])
include unpending alone allowed nested

/-- ALIGN comes after TOKHAZ, LANDCOLL, PRIV and LOOPFORM. -/
theorem groupFault_of_align (offence : c.alignFaults g = [o]) : c.groupFault a g = some (c.preciseTrap a .align [o]) := by
  simp [CoreSt.groupFault, unpending, alone, allowed, nested, offence]

/-- PERM comes after ALIGN and the XLATE of a poll as well. -/
theorem groupFault_of_perm (multiples : c.alignFaults g = []) (unpolled : ∀ q, c.pollFaults q g = []) (offence : c.permFaults g = [o]) :
    c.groupFault a g = some (c.preciseTrap a .perm [o]) := by
  simp [CoreSt.groupFault, unpending, alone, allowed, nested, multiples, unpolled, offence]

end Order

section Spad

variable {s : State} {i : Instr} {x : W64} (address : spadAddress s.cc i = some x) (unchecked : s.cc.flow.checked = false)
  (unpending : Unpending i s.cc) (alone : LandsAlone i s.cc)
include address unchecked unpending alone

theorem exec_spad_misaligned (off : x.toNat % (spadSize i).2 ≠ 0) :
    exec i s = .next (s.takeTrapOn s.cur (oneSlot s.cc .align (spadField i) (x.setWidth 60))) := by
  have asks := asksAccessOnly_of_spadAddress address
  have fault := groupFault_of_align (a := s.cc.flow.groupA) (tokHaz_solo unpending) (landColl_of_alone alone _ _) (asks.priv _ _)
    (asks.loop _ _ _) (alignFaults_of_misaligned (localAccess_of_spadAddress address) off s.cc.flow.slotIdx s.cc.flow.bundleA)
  obtain ⟨eff, issues⟩ := exec_spad address
  rw [issues, issue_of_groupFault eff unchecked fault, preciseTrap_one]

theorem exec_spad_past (multiple : x.toNat % (spadSize i).2 = 0) (beyond : 2 ^ 21 < x.toNat + (spadSize i).1) :
    exec i s = .next (s.takeTrapOn s.cur (oneSlot s.cc .perm (spadField i) (x.setWidth 60))) := by
  have asks := asksAccessOnly_of_spadAddress address
  have access := localAccess_of_spadAddress address
  have fault := groupFault_of_perm (a := s.cc.flow.groupA) (tokHaz_solo unpending) (landColl_of_alone alone _ _) (asks.priv _ _)
    (asks.loop _ _ _) (alignFaults_of_multiple access multiple asks.aligned s.cc.flow.slotIdx s.cc.flow.bundleA)
    (fun _ => pollFaults_solo (.inr asks.poll)) (permFaults_of_past access beyond _ _)
  obtain ⟨eff, issues⟩ := exec_spad address
  rw [issues, issue_of_groupFault eff unchecked fault, preciseTrap_one]

end Spad

/-- Settles O20: the access is the group's one offence, ALIGN before PERM. -/
theorem scratchpadFaultsAreTaken : Obligations.ScratchpadFaultsAreTaken := by
  unfold Obligations.ScratchpadFaultsAreTaken
  intro s i x address unchecked unpending alone
  exact ⟨exec_spad_misaligned address unchecked unpending alone, exec_spad_past address unchecked unpending alone⟩

end Sys2Proof.Proofs
end

section
/-! A debugger's writes at a stop (R181, R231, R257, R394). -/

namespace Sys2Proof.Proofs

open Sys2Proof.Machine Sys2Proof.Laws

/-! ## A write of the debug window (R257) -/

section Write

variable {s : State} {g ofs : Nat} {bs : List Byte}

/-- At a stop a write that does not touch the domain file takes effect at once. -/
theorem exec_debugStateWrite (known : g < 288) (stopped : (s.core g).dbg.stopped = true)
    (apart : ofs + bs.length < 0x286000 ∨ 0x286200 ≤ ofs) : exec (.debugStateWrite g ofs bs) s = .next (s.dbgWrite g ofs bs) := by
  have outside : (decide (0x286000 ≤ ofs + bs.length) && decide (ofs < 0x286200)) = false := by simp; omega
  exact coreEvent_eq_next.mpr ⟨known, by simp [stopped, outside]⟩

theorem dbgWrite_window (below : ofs < 0x1000000) :
    s.dbgWrite g ofs bs = s.onCore g fun c => (c.setWindow ofs bs).checkAxes (axesOf ofs bs.length) := if_pos below

theorem dbgWrite_pc : s.dbgWrite g 0x1005000 bs = s.onCore g fun c =>
    { c.checkAxes c.reached.touched with pc := ofBytes 60 bs, pcHigh := 0, reached := .none } := rfl

theorem dbgWrite_cr {n : Nat} (inside : n < 512) :
    s.dbgWrite g (0x1001000 + 8 * n) bs = s.onCore g fun c => c.dbgCr n (ofBytes 64 bs) := by
  have place : (0x1001000 + 8 * n - 0x1001000) / 8 = n := by omega
  rw [State.dbgWrite, if_neg (by omega), if_neg (by omega), if_pos (by omega), place]

theorem dbgCr_sticky (c : CoreSt) {n : Nat} (first : 0x30 ≤ n) (last : n ≤ 0x3B) (x : W64) : c.dbgCr n x = c := by
  rw [CoreSt.dbgCr, if_neg (by omega), if_neg (by omega), if_neg (by omega), if_pos ⟨first, last⟩]

end Write

/-! ## The latch port (R245, R394) -/

theorem getLsbD_clear_bit (x : BitVec 8) (k : Nat) : (x &&& ~~~(1#8 <<< k)).getLsbD k = false := by
  by_cases inside : k < 8
  · simp [inside]
  · exact BitVec.getLsbD_of_ge _ _ (Nat.le_of_not_lt inside)

theorem setSlatch_slatch (c : CoreSt) {k : Nat} (x : W64) (inside : k < 8) : (c.setSlatch k x).slatch k = x := by
  simp only [CoreSt.slatch, CoreSt.setSlatch, getLsbD_clear_bit, Bool.false_eq_true, if_false, vget_vset_same _ _ _ _ inside]

theorem setVlatch_vlatch (c : CoreSt) {i k : Nat} (x : W512) (cluster : i < 8) (inside : k < 8) : (c.setVlatch i k x).vlatch i k = x := by
  simp only [CoreSt.vlatch, CoreSt.setVlatch, CoreSt.setClus, CoreSt.clus, vget_vset_same _ _ _ _ cluster, getLsbD_clear_bit,
    Bool.false_eq_true, if_false, vget_vset_same _ _ _ _ inside]

section LatchPort

variable {s : State} {g : Nat} (x : W512) (known : g < 288) (stopped : (s.core g).dbg.stopped = true)
include known stopped

theorem exec_latchPortWrite_scalar (scalar : (s.core g).dbg.domain = 0) : exec (.latchPortWrite g x) s =
    .next (s.setCore g ((s.core g).setSlatch (s.core g).dbg.latch.toNat (x.setWidth 64))) :=
  coreEvent_eq_next.mpr ⟨known, by simp [stopped, scalar]⟩

theorem exec_latchPortWrite_cluster {k : Nat} (cluster : k < 8) (selected : (s.core g).dbg.domain.toNat = k + 1) :
    exec (.latchPortWrite g x) s = .next (s.setCore g ((s.core g).setVlatch k (s.core g).dbg.latch.toNat x)) :=
  coreEvent_eq_next.mpr ⟨known, by simp [stopped, selected, Nat.succ_le_of_lt cluster]⟩

end LatchPort

/-- Settles O45: the write of each place of the debug window, and of the latch that the port selects. -/
theorem debuggerWritesAtStops : Obligations.DebuggerWritesAtStops := by
  unfold Obligations.DebuggerWritesAtStops
  refine ⟨?window, ?places, ?scalar, ?cluster⟩
  case window =>
    intro s g ofs bs known stopped below
    refine ⟨_, exec_debugStateWrite known stopped (.inl below), ?_⟩
    rw [dbgWrite_window (by omega)]
    exact ⟨by rw [State.onCore_core_same _ _ _ known], rfl, rfl, fun h other => State.onCore_core_other _ _ _ _ other⟩
  case places =>
    intro s g bs known stopped
    refine ⟨⟨_, exec_debugStateWrite known stopped (.inr (by omega)), ?_⟩,
      fun n first last => ⟨_, exec_debugStateWrite known stopped (.inr (by omega)), ?_⟩⟩
    · rw [dbgWrite_pc, State.onCore_core_same _ _ _ known]
      exact ⟨rfl, rfl⟩
    · rw [dbgWrite_cr (by omega), State.onCore_core_same _ _ _ known, dbgCr_sticky _ first last]
  case scalar =>
    intro s g x known stopped scalar
    refine ⟨_, exec_latchPortWrite_scalar x known stopped scalar, ?_⟩
    rw [State.setCore_core_same _ _ _ known]
    exact ⟨setSlatch_slatch _ _ (s.core g).dbg.latch.isLt, rfl, fun h other => State.setCore_core_other _ _ _ _ other⟩
  case cluster =>
    intro s g k x known cluster stopped selected
    refine ⟨_, exec_latchPortWrite_cluster x known stopped cluster selected, ?_⟩
    rw [State.setCore_core_same _ _ _ known]
    exact setVlatch_vlatch _ _ cluster (s.core g).dbg.latch.isLt

end Sys2Proof.Proofs
end

section
/-! The words of a trap record (R235, R236). -/

namespace Sys2Proof.Proofs

open Sys2Proof.Machine Sys2Proof.Claims

/-! ## The fields of a word -/

/-- A word that holds the number x in the bits from n on. -/
def HoldsFrom (w : W64) (n x : Nat) : Prop := w.toNat = x * 2 ^ n

theorem holdsFrom_shiftLeft {w : W64} {n x k : Nat} (value : w.toNat = x) (below : x < 2 ^ k) (fits : k + n ≤ 64) : HoldsFrom (w <<< n) n x := by
  have bound : x * 2 ^ n < 2 ^ 64 := calc
    x * 2 ^ n < 2 ^ k * 2 ^ n := Nat.mul_lt_mul_of_pos_right below (Nat.two_pow_pos n)
    _ = 2 ^ (k + n) := (Nat.pow_add ..).symm
    _ ≤ 2 ^ 64 := Nat.pow_le_pow_right (by decide) fits
  rw [HoldsFrom, BitVec.toNat_shiftLeft, Nat.shiftLeft_eq, value, Nat.mod_eq_of_lt bound]

theorem holdsFrom_ofNat {x k n : Nat} (below : x < 2 ^ k) (fits : k + n ≤ 64) : HoldsFrom (BitVec.ofNat 64 x <<< n) n x :=
  holdsFrom_shiftLeft (Nat.mod_eq_of_lt (Nat.lt_of_lt_of_le below (Nat.pow_le_pow_right (by decide) (by omega)))) below fits

theorem holdsFrom_setWidth {k n : Nat} (x : BitVec k) (fits : k + n ≤ 64) : HoldsFrom (x.setWidth 64 <<< n) n x.toNat :=
  holdsFrom_shiftLeft (BitVec.toNat_setWidth_of_le (by omega)) x.isLt fits

theorem holdsFrom_low {k : Nat} (x : BitVec k) (fits : k ≤ 64) : HoldsFrom (x.setWidth 64) 0 x.toNat := by
  rw [HoldsFrom, BitVec.toNat_setWidth_of_le fits, Nat.pow_zero, Nat.mul_one]

theorem holdsFrom_bitAt (b : Bool) {n : Nat} (inside : 1 + n ≤ 64) : HoldsFrom (CoreSt.bitAt b n) n b.toNat := by
  cases b with
  | false => simp [HoldsFrom, CoreSt.bitAt]
  | true => exact holdsFrom_ofNat (x := 1) (k := 1) (by decide) inside

/-- A field of k bits takes its place below those that a word holds. -/
theorem HoldsFrom.join {w y : W64} {n x v : Nat} (k m : Nat) (upper : HoldsFrom w n x) (field : HoldsFrom y m v) (below : v < 2 ^ k)
    (adjacent : n = k + m) : HoldsFrom (w ||| y) m (x * 2 ^ k + v) := by
  have low : v * 2 ^ m < 2 ^ n := by
    rw [adjacent, Nat.pow_add]
    exact Nat.mul_lt_mul_of_pos_right below (Nat.two_pow_pos m)
  rw [HoldsFrom, BitVec.toNat_or, upper, field, Nat.mul_comm x, ← Nat.two_pow_add_eq_or_of_lt low, adjacent, Nat.pow_add]
  ring

theorem toNat_lt_two (b : Bool) : b.toNat < 2 ^ 1 := Bool.toNat_lt b

/-! ## The words -/

theorem causeCode_lt (k : Cause) : CoreSt.causeCode k < 2 ^ 8 := by cases k <;> decide

theorem bit_eq (b : Bool) (x : Nat) : (if b then x else 0) = b.toNat * x := by cases b <;> simp

theorem trapWords_cause (t : TrapInfo) (g logical : Nat) (time : W64) :
    (CoreSt.trapWords t g logical time)[0] = recordWord0 t (CoreSt.causeCode t.cause) g logical := by
  have code : HoldsFrom _ 56 (CoreSt.causeCode t.cause) := holdsFrom_ofNat (causeCode_lt t.cause) (by decide)
  have bits := ((code.join 1 55 (holdsFrom_bitAt t.hdr (by decide)) (toNat_lt_two _) rfl).join 1 54
    (holdsFrom_bitAt t.token (by decide)) (toNat_lt_two _) rfl).join 1 53 (holdsFrom_bitAt t.restart (by decide)) (toNat_lt_two _) rfl
  have small (x : Nat) : x % 512 < 2 ^ 9 := Nat.mod_lt x (by decide)
  have cores := (bits.join 9 44 (holdsFrom_ofNat (small logical) (by decide)) (small logical) rfl).join
    9 35 (holdsFrom_ofNat (small g) (by decide)) (small g) rfl
  have word := ((cores.join 12 23 (holdsFrom_setWidth t.slots (by decide)) t.slots.isLt rfl).join 1 22
    (holdsFrom_bitAt t.fetch (by decide)) (toNat_lt_two _) rfl).join 1 21 (holdsFrom_bitAt t.ended (by decide)) (toNat_lt_two _) rfl
  apply BitVec.eq_of_toNat_eq
  refine word.trans ?_
  have fits := word ▸ BitVec.isLt _
  simp only [recordWord0, bit_eq, BitVec.toNat_ofNat]
  omega

theorem trapWords_info (t : TrapInfo) (g logical : Nat) (time : W64) :
    (CoreSt.trapWords t g logical time)[1].toNat = t.info.toNat * 2 ^ 48 + t.fields.toNat :=
  ((holdsFrom_setWidth t.info (by decide)).join 48 0 (holdsFrom_low t.fields (by decide)) t.fields.isLt rfl).trans (Nat.mul_one _)

theorem trapWords_error (t : TrapInfo) (g logical : Nat) (time : W64) : (CoreSt.trapWords t g logical time)[6].toNat =
    t.kind.toNat * 2 ^ 60 + t.unit.toNat * 2 ^ 52 + t.row.toNat * 2 ^ 36 + t.col.toNat * 2 ^ 20 + t.tok.toNat := by
  have unit := (holdsFrom_setWidth (n := 60) t.kind (by decide)).join 8 52 (holdsFrom_setWidth t.unit (by decide)) t.unit.isLt rfl
  have place := (unit.join 16 36 (holdsFrom_setWidth t.row (by decide)) t.row.isLt rfl).join 16 20 (holdsFrom_setWidth t.col (by decide))
    t.col.isLt rfl
  have token : t.tok.toNat < 2 ^ 20 := Nat.lt_trans t.tok.isLt (by decide)
  refine (place.join 20 0 (holdsFrom_low t.tok (by decide)) token rfl).trans ?_
  omega

/-- Settles O21: the fields of each word joined from its top bit down. -/
theorem trapRecordsHoldTheirFields : Obligations.TrapRecordsHoldTheirFields := by
  unfold Obligations.TrapRecordsHoldTheirFields
  intro t g logical time
  have address (x : Addr) : (x.setWidth 64).toNat = x.toNat := BitVec.toNat_setWidth_of_le (by decide)
  exact ⟨trapWords_cause t g logical time, trapWords_info t g logical time, address t.bundle, address t.resume, address t.va, rfl,
    trapWords_error t g logical time, rfl⟩

end Sys2Proof.Proofs
end

section
/-! The entry of a trap: into its handler, or into the halt of the core (R240, R244, R424). -/

namespace Sys2Proof.Proofs

open Sys2Proof.Machine Sys2Proof.Claims Sys2Proof.Laws

/-! ## Lost latches (R245) -/

/-- An update of the first n places of a vector, each by its own value. -/
theorem vget_foldl_update {α : Type} (d : α) (f : α → α) {m k : Nat} (v : Vector α m) (inside : k < m) :
    ∀ n, vget d ((List.range n).foldl (fun v i => vset v i (f (vget d v i))) v) k = if k < n then f (vget d v k) else vget d v k
  | 0 => rfl
  | n + 1 => by
    have before := vget_foldl_update d f v inside n
    rw [List.range_succ, List.foldl_append, List.foldl_cons, List.foldl_nil]
    by_cases here : k = n
    · subst here
      rw [vget_vset_same _ _ _ _ inside, before, if_neg (Nat.lt_irrefl k), if_pos (Nat.lt_succ_self k)]
    · rw [vget_vset_other _ _ _ _ _ here, before]
      simp only [show k < n + 1 ↔ k < n by omega]

theorem loseLatches_clus (c : CoreSt) {k : Nat} (inside : k < 8) :
    c.loseLatches.clus k = { c.clus k with lost := .allOnes 8 } := by
  rw [CoreSt.clus, CoreSt.loseLatches]
  exact (vget_foldl_update Cluster.reset (fun x => { x with lost := .allOnes 8 }) c.files.cl inside 8).trans (if_pos inside)

/-! ## The entry (R240) -/

/-- With nothing in flight nothing is left to land. -/
theorem landAll_of_landed {c : CoreSt} (landed : c.flow.flight = []) : c.landAll = c :=
  List.foldlRecOn (motive := fun d => d = c) (List.range 24) _ rfl fun d same i _ => by
    subst same
    exact if_pos landed

section Enter

variable {s : State} {g : Nat} {t : TrapInfo} (known : g < 288)

/-- The core in its handler. -/
def inHandler (s : State) (g : Nat) (t : TrapInfo) (c : CoreSt) : CoreSt :=
  c.enterHandler (CoreSt.trapWords t g c.logical s.time) (8 + Config.freeEntry s.tick)

include known

theorem enterTrap_core_of_frozen (frozen : (s.core g).landAll.ctrl.frozen = true) : (s.enterTrap g t).core g =
    (s.core g).landAll.haltWith (CoreSt.trapWords (CoreSt.haltInfo t) g (s.core g).landAll.logical s.time) := by
  simp only [State.enterTrap, if_pos frozen]
  exact State.setCore_core_same _ _ _ known

theorem enterTrap_core_of_handler (free : (s.core g).landAll.ctrl.frozen = false) (handler : (s.core g).landAll.ctrl.tvec ≠ 0) :
    (s.enterTrap g t).core g = inHandler s g t (s.core g).landAll := by
  simp only [State.enterTrap, if_neg (ne_true_of_eq_false free), if_neg handler]
  exact State.setCore_core_same _ _ _ known

end Enter

/-- Settles O22: the entry into the handler, once nothing is left to land. -/
theorem trapEntryGoesToTheHandler : Obligations.TrapEntryGoesToTheHandler := by
  unfold Obligations.TrapEntryGoesToTheHandler
  intro s g t known free handler landed
  have same := landAll_of_landed landed
  have entered : (s.enterTrap g t).core g = inHandler s g t (s.core g) := by
    have entry := enterTrap_core_of_handler (t := t) known (same.symm ▸ free) (same.symm ▸ handler)
    rwa [same] at entry
  rw [entered]
  exact ⟨rfl, rfl, Nat.le_add_right 8 _, rfl, rfl, rfl, rfl, rfl, fun k inside => congrArg Cluster.lost (loseLatches_clus _ inside),
    rfl, rfl, rfl, rfl, rfl, rfl, rfl, rfl, rfl, rfl, rfl⟩

/-- Settles O23: with nothing left to land, the halt changes the status, the group reached and the halt record alone. -/
theorem aTrapOnAFrozenRecordHalts : Obligations.ATrapOnAFrozenRecordHalts := by
  unfold Obligations.ATrapOnAFrozenRecordHalts
  intro s g t known frozen landed
  have same := landAll_of_landed landed
  have entry := enterTrap_core_of_frozen (t := t) known (same.symm ▸ frozen)
  rwa [same] at entry

/-! ## A trap vector still in flight -/

/-- The write of cr.tvec by a CRWR that has just issued (R134). -/
def tvecWrite : InFlight where
  due := 1
  issued := 0
  slot := 11
  bundle := 0
  dests := destsOf (.crwr 0 (.reg 1))
  load := none
  loadAt := none
  lag := 0
  writes := [.cr 0 0x400]
  flags := 0

/-- A device whose core 0 is in handler mode, its trap record free again, with that write in flight and cr.tvec still 0. -/
def tvecLanding : State :=
  State.reset.setCore 0 { CoreSt.reset with
    status := .running, ctrl := { Ctrl.reset with handler := true }, flow := { Flow.reset with flight := [tvecWrite] } }

theorem tvecLanding_core : tvecLanding.core 0 = { CoreSt.reset with
    status := .running, ctrl := { Ctrl.reset with handler := true }, flow := { Flow.reset with flight := [tvecWrite] } } :=
  State.setCore_core_same _ _ _ (by decide)

theorem tvecLanding_landed : (tvecLanding.core 0).landAll.ctrl.frozen = false ∧ (tvecLanding.core 0).landAll.ctrl.tvec = 0x400 := by
  rw [tvecLanding_core]
  exact ⟨rfl, rfl⟩

/-- Refutes O24: the trap is entered after what is in flight has landed (R240 step 1), and where that writes cr.tvec, which was 0, the trap goes
to the handler and the core does not halt. -/
theorem not_haltsAreFinal : ¬ Obligations.HaltsAreFinal := by
  unfold Obligations.HaltsAreFinal
  rintro ⟨halts, -⟩
  obtain ⟨free, vector⟩ := tvecLanding_landed
  have halted := (halts tvecLanding 0 (CoreSt.blankTrap .swtrap) (by decide) (by rw [tvecLanding_core]; rfl) (by rw [tvecLanding_core]; rfl)).1
  rw [enterTrap_core_of_handler (by decide) free (by rw [vector]; decide)] at halted
  cases halted

end Sys2Proof.Proofs
end

section
/-! The return from a trap (R239, R243, R245, R255, R317). -/

namespace Sys2Proof.Proofs

open Sys2Proof.Machine Sys2Proof.Claims Sys2Proof.Laws

/-- Evicting queues leaves every partition's scheduler as it is (R320). -/
theorem makeRoom_parts (busy need f : Nat) (s : State) : (s.makeRoom busy need f).hub.parts = s.hub.parts := by
  induction f generalizing s with
  | zero => rfl
  | succ f ih =>
    unfold State.makeRoom
    split
    · rfl
    · split
      · rfl
      · refine (ih _).trans ((foldl_keeps (fun t : State => t.hub.parts) (fun t d => ?_) _ _).trans rfl)
        unfold State.dieEvent
        split <;> rfl

@[simp] theorem makeRoom_part (busy need f : Nat) (s : State) (p : Nat) : (s.makeRoom busy need f).part p = s.part p := by
  rw [State.part, State.part, makeRoom_parts]

@[simp] theorem makeRoom_cores (busy need f : Nat) (s : State) : (s.makeRoom busy need f).cores = s.cores :=
  makeRoom_keeps State.cores (fun _ _ => rfl) busy need f s

@[simp] theorem makeRoom_core (busy need f : Nat) (s : State) (g : Nat) : (s.makeRoom busy need f).core g = s.core g := by
  rw [State.core, State.core, makeRoom_cores]

@[simp] theorem makeRoom_ord (busy need f : Nat) (s : State) : (s.makeRoom busy need f).ord = s.ord :=
  makeRoom_keeps State.ord (fun _ _ => rfl) busy need f s

/-! ## The D operations that complete as they re-enter (R224, R239) -/

/-- All of a core but its tokens and its sticky records. -/
def pastTokens (c : CoreSt) : CoreSt :=
  { c with ctrl := { c.ctrl with sticky := .replicate 12 0 }, flow := { c.flow with tokens := .replicate 8 .idle } }

theorem raise_quiet (c : CoreSt) (k : Nat) (b : Addr) : c.raise k b 0 = c := by
  simp [CoreSt.raise, stickyRaise, vset_vget_same]

theorem tokDone_pastTokens (c : CoreSt) (w : Option Nat) : pastTokens (c.tokDone w) = pastTokens c := by cases w <;> rfl

/-- The domain unit once its held operations are queued again: but for those that took DOMAIN_EMPTY, which complete. -/
def domReentered (d : Domain) : Domain :=
  let done (o : DOp) : Bool := match o.fault with | some t => t.cause == .domainEmpty | none => false
  { d with ops := d.ops ++ (d.held.filter fun o => !done o).map (fun o => { o with fault := none }), held := [] }

theorem reenterD_pastTokens (c : CoreSt) : pastTokens c.reenterD = pastTokens { c with dom := domReentered c.dom } := by
  have kept (os : List DOp) := foldl_keeps pastTokens
    (f := fun (c : CoreSt) (o : DOp) => (c.tokDone o.tok).raise 1 o.bundle (.iff o.lost .latch)) (fun c o => tokDone_pastTokens c o.tok) os c
  exact congrArg (fun d : CoreSt => { d with dom := domReentered d.dom }) (kept _)

/-- None of them raises latch-lost that has lost no source. -/
theorem reenterD_sticky {c : CoreSt} (whole : ∀ o ∈ c.dom.held, o.lost = false) : c.reenterD.ctrl.sticky = c.ctrl.sticky := by
  refine List.foldlRecOn (motive := fun d : CoreSt => d.ctrl.sticky = c.ctrl.sticky) (c.dom.held.filter _) _ rfl fun d same o listed => ?_
  rw [whole o (List.mem_filter.mp listed).1, show Flg.iff false Flg.latch = 0 from rfl, raise_quiet, CoreSt.tokDone_ctrl]
  exact same

/-! ## The core that leaves the handler (R243) -/

/-- What a core has of the one that entered its handler's TRET, wherever it goes on: the record and the mode released, the latches lost, the
step's loop levels again, and the operations set aside queued again in issue order. -/
structure LeftHandler (c d : CoreSt) : Prop where
  ctrl : d.ctrl = { c.ctrl with frozen := false, handler := false, sticky := d.ctrl.sticky }
  sticky : (∀ o ∈ c.dom.held, o.lost = false) → d.ctrl.sticky = c.ctrl.sticky
  latches : ∀ f ∈ d.flow.flight, ∀ w ∈ f.writes, CoreSt.isLatch w = false
  registers : d.files.s = c.files.s ∧ d.files.p = c.files.p ∧ d.files.spad = c.files.spad
  lost : d.files.slLost = .allOnes 8 ∧ ∀ k, k < 8 → (d.clus k).lost = .allOnes 8
  loops : d.flow.loops = (c.flow.suspended.filter fun l => !l.inHandler) ∧ d.flow.suspended = []
  mem : (d.flow.mem.map fun q => q.seq) = (c.flow.mem ++ c.flow.memHeld).map fun q => q.seq
  mq : (d.flow.mq.map fun m => m.seq) = (c.flow.mq ++ c.flow.mheld).map fun m => m.seq
  xq : (d.flow.xq.map fun x => x.seq) = (c.flow.xq ++ c.flow.xheld).map fun x => x.seq
  held : d.flow.memHeld = [] ∧ d.flow.mheld = [] ∧ d.dom.held = [] ∧ d.flow.xheld = []

/-- No write of a latch is left in flight where the latches are lost (R245). -/
theorem loseLatches_flight (c : CoreSt) : ∀ f ∈ c.loseLatches.flow.flight, ∀ w ∈ f.writes, CoreSt.isLatch w = false := by
  intro f listed w write
  obtain ⟨e, -, rfl⟩ := List.mem_map.mp listed
  simpa using (List.mem_filter.mp write).2

theorem leaveHandler_left (c : CoreSt) : LeftHandler c c.leaveHandler := by
  have same := reenterD_pastTokens c.reenter
  have files : c.reenter.reenterD.files = c.files := (congrArg CoreSt.files same :)
  have flow : c.reenter.reenterD.flow = { c.reenter.flow with tokens := c.reenter.reenterD.flow.tokens } :=
    congrArg (fun d : CoreSt => { d.flow with tokens := c.reenter.reenterD.flow.tokens }) same
  exact {
    ctrl := congrArg (fun d : CoreSt => { d.ctrl with frozen := false, handler := false, sticky := c.reenter.reenterD.ctrl.sticky }) same
    sticky := reenterD_sticky (c := c.reenter)
    latches := loseLatches_flight _
    registers := ⟨(congrArg Files.s files :), (congrArg Files.p files :), (congrArg Files.spad files :)⟩
    lost := ⟨rfl, fun k inside => congrArg Cluster.lost (loseLatches_clus _ inside)⟩
    loops := ⟨(congrArg (fun f : Flow => f.suspended.filter fun l : Loop => !l.inHandler) flow :), rfl⟩
    mem := by
      refine (congrArg (fun f : Flow => f.mem.map fun q => q.seq) flow).trans ?_
      simp [CoreSt.reenter, Function.comp_def]
    mq := by
      refine (congrArg (fun f : Flow => f.mq.map fun m => m.seq) flow).trans ?_
      simp [CoreSt.reenter, Function.comp_def]
    xq := by
      refine (congrArg (fun f : Flow => f.xq.map fun x => x.seq) flow).trans ?_
      simp [CoreSt.reenter, Function.comp_def]
    held := ⟨congrArg Flow.memHeld flow, congrArg Flow.mheld flow, rfl, congrArg Flow.xheld flow⟩ }

/-- It has the same of it when only its clock stamp, its status and the place where it goes on differ. -/
theorem LeftHandler.goesOn {c d e : CoreSt} (left : LeftHandler c d) (files : e.files = d.files) (ctrl : e.ctrl = d.ctrl) (dom : e.dom = d.dom)
    (flow : e.flow = { d.flow with mem := e.flow.mem }) (mem : (e.flow.mem.map fun q => q.seq) = d.flow.mem.map fun q => q.seq) :
    LeftHandler c e := by
  refine ⟨?_, ?_, ?_, ?_, ?_, ?_, mem.trans left.mem, ?_, ?_, ?_⟩
  · rw [ctrl]
    exact left.ctrl
  · rw [ctrl]
    exact left.sticky
  · rw [flow]
    exact left.latches
  · rw [files]
    exact left.registers
  · simp only [CoreSt.clus, files]
    exact left.lost
  · rw [flow]
    exact left.loops
  · rw [flow]
    exact left.mq
  · rw [flow]
    exact left.xq
  · rw [flow, dom]
    exact left.held

/-- The operation at the head of a core's memory-order queue notes a clock where it has none (R293). -/
def headStamped (v : Clock) (c : CoreSt) : CoreSt :=
  match c.flow.mem with
  | q :: qs => if q.vc.isNone then { c with flow := { c.flow with mem := { q with vc := some v } :: qs } } else c
  | [] => c

theorem headStamped_left {c d : CoreSt} (left : LeftHandler c d) (v : Clock) : LeftHandler c (headStamped v d) := by
  unfold headStamped
  split
  case h_1 q qs mem =>
    split
    · exact left.goesOn rfl rfl rfl rfl (by simp [mem])
    · exact left
  case h_2 => exact left

theorem leftHandler_stampHead_left (s : State) : LeftHandler s.cc ((leftHandler s).stampHead s.cur).cc := by
  have stamped : ((leftHandler s).stampHead s.cur).cc = headStamped (s.ord.dieClock (Config.dieOf s.cur)) (leftHandler s).cc :=
    State.onCur_cc (leftHandler s) (headStamped (s.ord.dieClock (Config.dieOf s.cur)))
  rw [stamped, leftHandler_cc]
  exact headStamped_left (leaveHandler_left s.cc) _

/-! ## Where it goes on -/

theorem leftHandler_step {s : State} {st : StepInfo} (resident : s.cc.step = some st) : (leftHandler s).cc.step = some st := by
  obtain ⟨-, step, -⟩ := modeView_eq_iff.mp (leaveHandler_modeView s.cc)
  rw [leftHandler_cc, step, resident]

theorem leftHandler_handler (s : State) : (leftHandler s).cc.ctrl.handler = false := by
  rw [leftHandler_cc]
  rfl

section Tret

variable {s : State} (mode : s.cc.ctrl.handler = true)
include mode

theorem exec_tret_returns (stays : s.cc.recRestart = false) : ∃ t, exec .tret s = .next t ∧ LeftHandler s.cc t.cc ∧ t.ord = s.ord ∧
    (s.cc.recEnded = false → t.cc.status = s.cc.status ∧ t.cc.next = some (s.cc.recResume.setWidth 64)) ∧
    (s.cc.recEnded = true → t.cc.status = .ended ∧ t.cc.next = none ∧ t.cc.pc = s.cc.recResume) := by
  have left := leftHandler_stampHead_left s
  refine ⟨_, exec_tret mode, ?_⟩
  rw [stays, if_neg Bool.false_ne_true]
  cases s.cc.recEnded with
  | true =>
    rw [if_pos rfl, State.onCur_cc]
    exact ⟨left.goesOn rfl rfl rfl rfl rfl, rfl, nofun, fun _ => ⟨rfl, rfl, rfl⟩⟩
  | false =>
    obtain ⟨status, -⟩ := modeView_eq_iff.mp (leftHandler_stampHead_modeView s)
    rw [if_neg Bool.false_ne_true, State.onCur_cc]
    exact ⟨left.goesOn rfl rfl rfl rfl rfl, rfl, fun _ => ⟨status, rfl⟩, nofun⟩

variable {st : StepInfo} (restarts : s.cc.recRestart = true) (resident : s.cc.step = some st)
include restarts resident

theorem exec_tret_waits (full : (s.part st.part).readyFull = true) : ∃ t, exec .tret s = .next t ∧ t.cc.status = .restarting ∧
    t.cc.step = some (startsAgain (leftHandler s) st) ∧ t.cc.ctrl.handler = false ∧ ∀ p, t.part p = s.part p := by
  have restarted := restartStep_of_full (s := leftHandler s) (leftHandler_step resident) full
  refine ⟨_, exec_tret mode, ?_⟩
  rw [restarts, if_pos rfl, show (leftHandler s).restartStep s.cur = _ from restarted, State.onCur_cc, freedHere_cc]
  exact ⟨rfl, rfl, leftHandler_handler s, fun p => rfl⟩

theorem exec_tret_requeues (room : (s.part st.part).readyFull = false) (inside : st.part < 64) : ∃ t, exec .tret s = .next t ∧
    t.cc.status = .free ∧ t.cc.step = none ∧ t.cc.ctrl.handler = false ∧
    (t.part st.part).restarts = (s.part st.part).restarts ++ [startsAgain (leftHandler s) st] ∧
    (t.part st.part).ready = .restart st.order :: (s.part st.part).ready := by
  have restarted := restartStep_of_room (s := leftHandler s) (leftHandler_step resident) room
  have core : ((leftHandler s).restartStep s.cur).cc = (leftHandler s).cc.freed.loseLatches := by
    refine restartStep_cc_of_room (s := leftHandler s) fun st' resident' => ?_
    cases (leftHandler_step resident).symm.trans resident'
    exact room
  refine ⟨_, exec_tret mode, ?_⟩
  rw [restarts, if_pos rfl, core]
  refine ⟨rfl, rfl, leftHandler_handler s, ?_⟩
  rw [show (leftHandler s).restartStep s.cur = _ from restarted, State.onPart_part_same _ _ _ inside, makeRoom_part]
  exact ⟨rfl, rfl⟩

end Tret

/-- Settles O18: TRET by the RESTART bit of the record, and with it by the room in the ready list. -/
theorem tretResumesOrRestartsTheStep : Obligations.TretResumesOrRestartsTheStep := by
  unfold Obligations.TretResumesOrRestartsTheStep
  refine ⟨fun s _ mode stays => ?returns, fun s st _ _ mode restarts resident full => ?waits,
    fun s st _ inside mode restarts resident room => ?requeues⟩
  case returns =>
    obtain ⟨t, next, left, ord, resumes, ends⟩ := exec_tret_returns mode stays
    obtain ⟨scalars, preds, spad⟩ := left.registers
    obtain ⟨scalarLost, clusterLost⟩ := left.lost
    obtain ⟨loops, suspended⟩ := left.loops
    obtain ⟨memHeld, mheld, domHeld, xheld⟩ := left.held
    exact ⟨t, next, left.ctrl, left.sticky, left.latches, scalars, preds, spad, ord, scalarLost, clusterLost, loops, suspended,
      left.mem, left.mq, left.xq, memHeld, mheld, domHeld, xheld, resumes, ends⟩
  case waits =>
    obtain ⟨t, next, status, step, handler, parts⟩ := exec_tret_waits mode restarts resident full
    exact ⟨t, _, next, status, step, handler, congrArg Part.restarts (parts _), congrArg Part.ready (parts _), rfl, rfl, rfl, rfl, rfl⟩
  case requeues =>
    obtain ⟨t, next, status, step, handler, requeued, ready⟩ := exec_tret_requeues mode restarts resident room inside
    exact ⟨t, _, next, status, step, handler, requeued, ready, rfl, rfl, rfl, rfl, rfl⟩

end Sys2Proof.Proofs
end

section
/-! The save of a step at a comma, and a frame that is discarded (R248, R252, R255, R301, R339, R368). -/

namespace Sys2Proof.Proofs

open Sys2Proof.Machine Sys2Proof.Claims Sys2Proof.Laws

theorem exec_saveAtComma (g : Nat) (s : State) : exec (.saveAtComma g) s = execSaveAtComma g s := rfl

theorem exec_restore (p slot : Nat) (cores : List Nat) (err : Bool) (s : State) :
    exec (.restore p slot cores err) s = execRestore p slot cores err s := rfl

/-! ## A step that is dropped (R301, R339, R368) -/

/-- The device once a core is free and its atomics are withdrawn. -/
def freedAt (s : State) (g : Nat) : State := (s.setCore g (s.core g).freed.loseLatches).withdraw g

theorem dropStep_keeps (s : State) (g : Nat) : (s.dropStep g).cores = (freedAt s g).cores ∧ (s.dropStep g).ord = (freedAt s g).ord := by
  unfold State.dropStep
  dsimp only
  split
  · exact ⟨rfl, rfl⟩
  · split <;> exact ⟨rfl, rfl⟩

section Save

variable {s : State} {g : Nat} {st : StepInfo} (known : g < 288) (saved : (s.core g).status = .saving 0) (step : (s.core g).step = some st)
include known saved step

theorem saveAtComma_drops (drop : (s.core g).req.drop = true) : exec (.saveAtComma g) s = .next (s.dropStep g) := by
  rw [exec_saveAtComma, execSaveAtComma, coreEvent_eq_next]
  exact ⟨known, by simp only [saved, step, drop, if_true]⟩

theorem saveAtComma_saves {t : State} {slot : Nat} {slots : List Nat} (kept : (s.core g).req.drop = false)
    (room : (s.part st.part).readyFull = false) (free : (s.part st.part).slots = slot :: slots) (written : s.saveTo g slot st = .ok t) :
    exec (.saveAtComma g) s = .next t := by
  rw [exec_saveAtComma, execSaveAtComma, coreEvent_eq_next]
  exact ⟨known, by simp only [saved, step, kept, room, free, written, State.hubNext, Bool.false_eq_true, if_false]⟩

end Save

theorem readyFull_of_room {pt : Part} (room : pt.ready.length < 4096) : pt.readyFull = false := decide_eq_false (Nat.not_le.mpr room)

/-! ## The frame written (R248, R252, R387) -/

theorem physWrite_part (s : State) (p pa : Nat) (bs : List Byte) (q : Nat) : (s.physWrite p pa bs).part q = s.part q :=
  foldl_keeps (fun t : State => t.part q) (fun _ _ => by exact rfl) _ s

theorem physWrite_slotAddr (s : State) (p pa : Nat) (bs : List Byte) (q k : Nat) : (s.physWrite p pa bs).slotAddr q k = s.slotAddr q k := by
  rw [State.slotAddr, physWrite_part, State.slotAddr]

/-- A core's frame and its counter banks have been written to a save slot. -/
def frameWritten (s : State) (g slot : Nat) (st : StepInfo) : State :=
  let e := (s.part st.part).entryAt (s.core g).classB (s.core g).pc
  (s.physWrite st.part (s.slotAddr st.part slot) ((s.core g).frame st e.1 e.2)).physWrite st.part (s.slotAddr st.part slot + 0x26C00)
    (s.core g).bankBytes

theorem frameWritten_part (s : State) (g slot : Nat) (st : StepInfo) (q : Nat) : (frameWritten s g slot st).part q = s.part q :=
  (physWrite_part ..).trans (physWrite_part ..)

/-- The save of a core's step in its partition's books: the slot is taken, and the step is ready to resume. -/
def savedIn (c : CoreSt) (g slot : Nat) (st : StepInfo) (pt : Part) : Part :=
  { pt with
    slots := pt.slots.erase slot
    saved := pt.saved ++ [{ slot := slot, step := c.carried g st, yielded := c.req.yield && !c.req.preempt }] }

theorem saveTo_of_alone {s : State} {g slot : Nat} {st : StepInfo} (alone : st.member = none) (untraced : (s.core g).dbg.trtrap = false) :
    s.saveTo g slot st = .ok ((((frameWritten s g slot st).setCore g (s.core g).freed.loseLatches).onPart st.part
      (savedIn (s.core g) g slot st)).enterSaved st.part slot st ((s.core g).req.yield && !(s.core g).req.preempt)) := by
  simp only [State.saveTo, traceIf_of_off untraced, alone, State.gangOut, physWrite_slotAddr, Option.isSome_none, Bool.false_and,
    Bool.false_eq_true, if_false, frameWritten]
  rfl

/-! ## A frame that is discarded (R255) -/

theorem discardFrame_of_alone {s : State} {p slot : Nat} {x : Saved} (found : (s.part p).saved.find? (fun y => y.slot == slot) = some x)
    (alone : x.step.member = none) (room : (s.part p).ready.length < 4096) :
    s.discardFrame p slot = some ((s.makeRoom Config.nQueues 16 65536).onPart p fun pt => { pt with
      saved := pt.saved.filter fun y => y.slot != slot
      slots := pt.slots ++ [slot], restarts := pt.restarts ++ [{ x.step with elapsed := 0, orphan := false }]
      ready := .restart x.step.order :: (s.part p).ready.filter fun k => k != .saved slot }) := by
  have noMates : ((s.part p).saved.filter fun y => y.slot != slot && y.step.member.isSome && y.step.gang == x.step.gang) = [] := by
    refine List.filter_eq_nil_iff.mpr fun y _ => ?_
    cases member : y.step.member <;> simp [StepInfo.gang, alone, member]
  have kept : ((s.part p).ready.flatMap fun k => if k == .saved slot then ([] : List Key) else [k]) =
      (s.part p).ready.filter fun k => k != .saved slot := by
    induction (s.part p).ready with
    | nil => rfl
    | cons k ks ih =>
      rw [List.flatMap_cons, List.filter_cons, ih, bne]
      cases k == .saved slot <;> rfl
  have fits : ¬ 4096 < ((s.part p).ready.filter fun k => k != Key.saved slot).length + 1 := by
    have := List.length_filter_le (fun k => k != Key.saved slot) (s.part p).ready
    omega
  simp only [State.discardFrame, found, noMates, kept, List.length_cons, fits, if_false]

/-- The frame in a slot that reads back with an uncorrectable error is discarded, whichever cores are named. -/
theorem restore_discards {s t : State} {p slot : Nat} {cores : List Nat} (discards : s.discardFrame p slot = some t) :
    exec (.restore p slot cores true) s = .next t := by
  rw [exec_restore, execRestore, event_eq_next, if_pos rfl, discards]

end Sys2Proof.Proofs
end

section
/-! What a core holds of a frame that it has taken (R246, R249 to R251, R253). -/

namespace Sys2Proof.Proofs

open Sys2Proof.Machine Sys2Proof.Claims Sys2Proof.Laws

/-! ## Runs of writes -/

/-- What one write of a list sets and every other spares reads at the end as that write has set it. -/
theorem foldl_sets {σ α β : Type} {f : σ → α → σ} (view : σ → β) {x : α} {y : β}
    (sets : ∀ s, view (f s x) = y) {xs : List α} (listed : x ∈ xs)
    (spares : ∀ z ∈ xs, z ≠ x → ∀ s, view (f s z) = view s) (s : σ) : view (xs.foldl f s) = y := by
  induction xs generalizing s with
  | nil => cases listed
  | cons z zs ih =>
    have later : ∀ w ∈ zs, w ≠ x → ∀ s, view (f s w) = view s := fun w there => spares w (List.mem_cons_of_mem z there)
    by_cases again : x ∈ zs
    · exact ih again later _
    · obtain rfl : x = z := (List.mem_cons.mp listed).resolve_right again
      refine List.foldlRecOn (motive := fun s => view s = y) zs f (sets s) fun s kept w there => ?_
      exact (later w there (fun same => again (same ▸ there)) s).trans kept

/-! ## The sections of a frame (R250) -/

theorem takeSection_end (fr : List Byte) (pos n : Nat) (items : List Nat) : (takeSection fr pos n items).2 = (sectionAt pos n items.length).2 := by
  cases items <;> rfl

section Section

variable {fr : List Byte} {pos n : Nat} {items : List Nat}

theorem takeSection_listed {k i : Nat} (item : items[k]? = some i) :
    (i, (fr.drop ((sectionAt pos n items.length).1 + n * k)).take n) ∈ (takeSection fr pos n items).1 := by
  cases items with
  | nil => cases item
  | cons j js => exact List.mem_map.mpr ⟨(i, k), List.mk_mem_zipIdx_iff_getElem?.mpr item, rfl⟩

theorem takeSection_item {x : Nat × List Byte} (listed : x ∈ (takeSection fr pos n items).1) :
    ∃ k, items[k]? = some x.1 ∧ x.2 = (fr.drop ((sectionAt pos n items.length).1 + n * k)).take n := by
  cases items with
  | nil => cases listed
  | cons j js =>
    obtain ⟨⟨i, k⟩, there, rfl⟩ := List.mem_map.mp listed
    exact ⟨k, List.mk_mem_zipIdx_iff_getElem?.mp there, rfl⟩

/-- A section has one item for each place that it names. -/
theorem takeSection_once (once : items.Nodup) {i : Nat} {bs cs : List Byte} (left : (i, bs) ∈ (takeSection fr pos n items).1)
    (right : (i, cs) ∈ (takeSection fr pos n items).1) : bs = cs := by
  obtain ⟨k, item, rfl⟩ := takeSection_item left
  obtain ⟨k', item', rfl⟩ := takeSection_item right
  obtain rfl : k = k' := (List.getElem?_inj (List.getElem?_eq_some_iff.mp item).1 once).mp (item.trans item'.symm)
  rfl

end Section

theorem liveBits_nodup {n : Nat} (m : BitVec n) : (liveBits m).Nodup := List.nodup_range.filter _

theorem liveBits_lt {n k i : Nat} {m : BitVec n} (item : (liveBits m)[k]? = some i) : i < n :=
  List.mem_range.mp (List.mem_filter.mp (List.mem_of_getElem? item)).1

/-! ## The live items (R250, R253) -/

/-- A live item of a frame: the register that it names, and its bytes. -/
inductive FrameItem where
  | scalar (i : Nat) (bs : List Byte)
  | domain (i : Nat) (bs : List Byte)
  | norm (i : Nat) (bs : List Byte)
  | axis (i : Nat) (bs : List Byte)
  | vector (i : Nat) (bs : List Byte)
  | tile (i : Nat) (bs : List Byte)

/-- A core takes an item. -/
def putItem (c : CoreSt) : FrameItem → CoreSt
  | .scalar i bs => c.setSreg i (ofBytes 64 bs)
  | .domain i bs => c.setCreg i (ofBytes 128 bs)
  | .norm i bs => c.setNorm i (ofBytes 32 (bs.take 4))
  | .axis i bs => c.setAxis i (ofBytes 2048 bs)
  | .vector i bs => c.setVreg (i / 32) (i % 32) (ofBytes 512 bs) (.allOnes 512)
  | .tile i bs => c.setTile i (ofBytes 65536 bs)

/-- The live list of a frame. -/
def liveOf (b : List Byte) : CommaEntry := entryOf ((b.drop 0x20).take 64)

/-- Where the sections of a frame stand and end. -/
def scalarsAt (b : List Byte) : Nat × Nat := sectionAt 0x210 8 (liveBits (liveOf b).smask).length
def domainsAt (b : List Byte) : Nat × Nat := sectionAt (scalarsAt b).2 16 (liveBits (liveOf b).cmask).length
def normsAt (b : List Byte) : Nat × Nat := sectionAt (domainsAt b).2 8 (liveBits (liveOf b).amask).length
def axesAt (b : List Byte) : Nat × Nat := sectionAt (normsAt b).2 256 (liveBits (liveOf b).amask).length
def vectorsAt (b : List Byte) : Nat × Nat := sectionAt (axesAt b).2 64 (liveBits (liveOf b).vmask).length
def tilesAt (b : List Byte) : Nat × Nat := sectionAt (vectorsAt b).2 8192 (liveBits (liveOf b).tmask).length

/-- The live items of a frame, section after section. -/
def frameItems (b : List Byte) : List FrameItem :=
  ((takeSection b 0x210 8 (liveBits (liveOf b).smask)).1.map fun x => .scalar x.1 x.2) ++
    ((takeSection b (scalarsAt b).2 16 (liveBits (liveOf b).cmask)).1.map fun x => .domain x.1 x.2) ++
    ((takeSection b (domainsAt b).2 8 (liveBits (liveOf b).amask)).1.map fun x => .norm x.1 x.2) ++
    ((takeSection b (normsAt b).2 256 (liveBits (liveOf b).amask)).1.map fun x => .axis x.1 x.2) ++
    ((takeSection b (axesAt b).2 64 (liveBits (liveOf b).vmask)).1.map fun x => .vector x.1 x.2) ++
    ((takeSection b (vectorsAt b).2 8192 (liveBits (liveOf b).tmask)).1.map fun x => .tile x.1 x.2)

/-- A core that has taken the live items of a frame. -/
def itemsPut (b : List Byte) (c : CoreSt) : CoreSt := (frameItems b).foldl putItem c

/-- Beside the items, a frame gives the domain state alone. -/
theorem loadItems_eq (c : CoreSt) (b : List Byte) : ∃ u d, c.loadItems b =
    { itemsPut b c with ctrl := { (itemsPut b c).ctrl with unsettled := u }, dom := d } := by
  simp only [CoreSt.loadItems, itemsPut, frameItems, List.foldl_append, List.foldl_map, takeSection_end]
  split
  · exact ⟨_, _, rfl⟩
  · exact ⟨_, _, rfl⟩

/-- What no item touches. -/
theorem itemsPut_keeps {β : Type} (view : CoreSt → β) (keeps : ∀ c x, view (putItem c x) = view c) (b : List Byte) (c : CoreSt) :
    view (itemsPut b c) = view c := foldl_keeps view keeps _ c

/-- The register that an item of a section names holds what the item's bytes say. -/
theorem itemsPut_section {β : Type} {b : List Byte} {pos n k i : Nat} {items : List Nat} (mk : Nat → List Byte → FrameItem)
    (there : ∀ bs, mk i bs ∈ frameItems b ↔ (i, bs) ∈ (takeSection b pos n items).1) (once : items.Nodup) (item : items[k]? = some i)
    (view : CoreSt → β) (value : List Byte → β) (sets : ∀ c bs, view (putItem c (mk i bs)) = value bs)
    (spares : ∀ x, (∀ bs, x ≠ mk i bs) → ∀ c, view (putItem c x) = view c) (c : CoreSt) :
    view (itemsPut b c) = value ((b.drop ((sectionAt pos n items.length).1 + n * k)).take n) := by
  have listed := takeSection_listed (fr := b) (pos := pos) (n := n) item
  refine foldl_sets view (fun c => sets c _) ((there _).mpr listed) (fun x here other => spares x fun bs same => other ?_) c
  rw [same, takeSection_once once ((there bs).mp (same ▸ here)) listed]

/-! ## Clusters -/

theorem setClus_clus (c : CoreSt) (i j : Nat) (x : Cluster) : (c.setClus i x).clus j = if j = i ∧ i < 8 then x else c.clus j :=
  vget_vset ..

/-- A write under the whole mask replaces the register. -/
theorem masked_allOnes (old x : W512) : old &&& ~~~.allOnes 512 ||| x &&& .allOnes 512 = x := by
  rw [BitVec.and_allOnes, BitVec.not_allOnes, BitVec.and_zero, BitVec.zero_or]

theorem setVreg_k (c : CoreSt) (i j n : Nat) (x mask : W512) : ((c.setVreg i n x mask).clus j).k = (c.clus j).k := by
  rw [CoreSt.setVreg, setClus_clus]
  split
  next same => rw [same.1]
  next => rfl

theorem setK_k (c : CoreSt) (i j n : Nat) (x : W16) :
    ((c.setK i n x).clus j).k = if j = i ∧ i < 8 ∧ n ≠ 0 then vset (c.clus j).k n x else (c.clus j).k := by
  rw [CoreSt.setK]
  by_cases constant : n = 0
  · simp [constant]
  · rw [if_neg constant, setClus_clus]
    by_cases here : j = i ∧ i < 8
    · rw [if_pos here, if_pos ⟨here.1, here.2, constant⟩, here.1]
    · rw [if_neg here, if_neg fun there => here ⟨there.1, there.2.1⟩]

/-! ## The live registers (R250, R253) -/

section Items

variable {b : List Byte} {k n : Nat} (c : CoreSt)

theorem itemsPut_sreg (item : (liveBits (liveOf b).smask)[k]? = some n) (writable : n ≠ 0) :
    (itemsPut b c).sreg n = fldW b ((scalarsAt b).1 + 8 * k) := by
  refine itemsPut_section .scalar (fun bs => by simp [frameItems]) (liveBits_nodup _) item (fun c => c.sreg n) (ofBytes 64)
    (fun c bs => ?_) (fun x other c => ?_) c
  · exact (CoreSt.setSreg_sreg ..).trans (if_pos ⟨rfl, writable, liveBits_lt item⟩)
  · cases x with
    | scalar i bs => exact (CoreSt.setSreg_sreg ..).trans (if_neg fun same => other bs (by rw [same.1]))
    | domain | norm | axis | vector | tile => rfl

theorem itemsPut_creg (item : (liveBits (liveOf b).cmask)[k]? = some n) :
    (itemsPut b c).creg n = ofBytes 128 ((b.drop ((domainsAt b).1 + 16 * k)).take 16) := by
  refine itemsPut_section .domain (fun bs => by simp [frameItems]) (liveBits_nodup _) item (fun c => c.creg n) (ofBytes 128)
    (fun c bs => vget_vset_same _ _ _ _ (liveBits_lt item)) (fun x other c => ?_) c
  cases x with
  | domain i bs => exact vget_vset_other _ _ _ _ _ fun same => other bs (by rw [same])
  | scalar i bs => exact congrArg (fun v => vget domZero v n) (CoreSt.setSreg_files_c ..)
  | norm | axis | vector | tile => rfl

theorem itemsPut_norm (item : (liveBits (liveOf b).amask)[k]? = some n) :
    (itemsPut b c).norm n = ofBytes 32 ((b.drop ((normsAt b).1 + 8 * k)).take 4) := by
  have written : (itemsPut b c).norm n = ofBytes 32 (((b.drop ((normsAt b).1 + 8 * k)).take 8).take 4) := by
    refine itemsPut_section .norm (fun bs => by simp [frameItems]) (liveBits_nodup _) item (fun c => c.norm n)
      (fun bs => ofBytes 32 (bs.take 4)) (fun c bs => vget_vset_same _ _ _ _ (liveBits_lt item)) (fun x other c => ?_) c
    cases x with
    | norm i bs => exact vget_vset_other _ _ _ _ _ fun same => other bs (by rw [same])
    | scalar i bs => exact congrArg (fun v => vget CoreSt.nZero v n) (CoreSt.setSreg_files_n ..)
    | domain | axis | vector | tile => rfl
  rwa [List.take_take] at written

theorem itemsPut_axisHeld (item : (liveBits (liveOf b).amask)[k]? = some n) :
    (itemsPut b c).axisHeld n = ofBytes 2048 ((b.drop ((axesAt b).1 + 256 * k)).take 256) := by
  refine itemsPut_section .axis (fun bs => by simp [frameItems]) (liveBits_nodup _) item (fun c => c.axisHeld n) (ofBytes 2048)
    (fun c bs => vget_vset_same _ _ _ _ (liveBits_lt item)) (fun x other c => ?_) c
  cases x with
  | axis i bs => exact vget_vset_other _ _ _ _ _ fun same => other bs (by rw [same])
  | scalar i bs => exact congrArg (fun v => vget 0 v n) (CoreSt.setSreg_files_a ..)
  | domain | norm | vector | tile => rfl

theorem itemsPut_vreg (item : (liveBits (liveOf b).vmask)[k]? = some n) :
    (itemsPut b c).vreg (n / 32) (n % 32) = ofBytes 512 ((b.drop ((vectorsAt b).1 + 64 * k)).take 64) := by
  have inside : n / 32 < 8 := Nat.div_lt_of_lt_mul (liveBits_lt item)
  refine itemsPut_section .vector (fun bs => by simp [frameItems]) (liveBits_nodup _) item (fun c => c.vreg (n / 32) (n % 32)) (ofBytes 512)
    (fun c bs => (setVreg_vreg_same _ _ _ inside (Nat.mod_lt _ (by decide))).trans (masked_allOnes ..)) (fun x other c => ?_) c
  cases x with
  | vector i bs =>
    refine setVreg_vreg_other _ _ _ fun same => other bs ?_
    rw [← Nat.div_add_mod i 32, ← same.1, ← same.2, Nat.div_add_mod]
  | scalar i bs => exact congrArg (fun v => vget 0 (vget Cluster.reset v (n / 32)).v (n % 32)) (CoreSt.setSreg_files_cl ..)
  | domain | norm | axis | tile => rfl

theorem itemsPut_tile (item : (liveBits (liveOf b).tmask)[k]? = some n) :
    (itemsPut b c).tile n = ofBytes 65536 ((b.drop ((tilesAt b).1 + 8192 * k)).take 8192) := by
  refine itemsPut_section .tile (fun bs => by simp [frameItems]) (liveBits_nodup _) item (fun c => c.tile n) (ofBytes 65536)
    (fun c bs => vget_vset_same _ _ _ _ (liveBits_lt item)) (fun x other c => ?_) c
  cases x with
  | tile i bs => exact vget_vset_other _ _ _ _ _ fun same => other bs (by rw [same])
  | scalar i bs => exact congrArg (fun v => vget 0 v n) (CoreSt.setSreg_files_t ..)
  | domain | norm | axis | vector => rfl

/-- A scalar register that the frame does not name keeps its value. -/
theorem itemsPut_sreg_of_not_live (idle : n ∉ liveBits (liveOf b).smask) : (itemsPut b c).sreg n = c.sreg n := by
  refine List.foldlRecOn (motive := fun d => d.sreg n = c.sreg n) (frameItems b) putItem rfl fun d same x listed => ?_
  cases x with
  | scalar i bs =>
    have named : (i, bs) ∈ (takeSection b 0x210 8 (liveBits (liveOf b).smask)).1 := by simpa [frameItems] using listed
    obtain ⟨k, live, -⟩ := takeSection_item named
    refine (CoreSt.setSreg_sreg ..).trans ((if_neg fun here => idle ?_).trans same)
    exact here.1 ▸ List.mem_of_getElem? live
  | domain | norm | axis | vector | tile => exact same

/-! ## What no item touches -/

/-- What no step brings to a core: its class and its debug block. -/
def standing (c : CoreSt) : Bool × Debug := (c.classB, c.dbg)

theorem itemsPut_preds : (itemsPut b c).files.p = c.files.p :=
  itemsPut_keeps (fun c => c.files.p) (fun c x => by cases x with | scalar => exact CoreSt.setSreg_files_p .. | domain | norm | axis | vector | tile => rfl) b c

theorem itemsPut_ctrl : (itemsPut b c).ctrl = c.ctrl :=
  itemsPut_keeps (fun c => c.ctrl) (fun c x => by cases x with | scalar => exact CoreSt.setSreg_ctrl .. | domain | norm | axis | vector | tile => rfl) b c

theorem itemsPut_standing : standing (itemsPut b c) = standing c :=
  itemsPut_keeps standing (fun c x => by
    cases x with
    | scalar => exact congrArg₂ Prod.mk (CoreSt.setSreg_classB ..) (CoreSt.setSreg_dbg ..)
    | domain | norm | axis | vector | tile => rfl) b c

theorem itemsPut_kmask (i j : Nat) : (itemsPut b c).kmask i j = c.kmask i j := by
  have masks : ((itemsPut b c).clus i).k = (c.clus i).k := itemsPut_keeps (fun c => (c.clus i).k) (fun c x => by
    cases x with
    | scalar => exact congrArg (fun v => (vget Cluster.reset v i).k) (CoreSt.setSreg_files_cl ..)
    | vector => exact setVreg_k ..
    | domain | norm | axis | tile => rfl) b c
  rw [CoreSt.kmask, masks, CoreSt.kmask]

end Items

end Sys2Proof.Proofs
end

section
/-! A saved step that resumes on a core (R245, R249 to R253, R342). -/

namespace Sys2Proof.Proofs

open Sys2Proof.Machine Sys2Proof.Claims Sys2Proof.Laws

/-! ## The header of a frame (R249) -/

section Header

variable (c : CoreSt) (b : List Byte)

/-- Beside its lane masks, matrix address registers and control registers, a header gives the predicates alone. -/
theorem loadHeader_keeps {β : Type} (view : CoreSt → β) (masks : ∀ c i n x, view (c.setK i n x) = view c)
    (addresses : ∀ c i x, view (c.setMareg i x) = view c) (control : ∀ c k, view { c with ctrl := k } = view c) : view (c.loadHeader b) =
      view { c with files := { c.files with p := ofBytes 16 ((b.drop 0x60).take 2) &&& 0xFFFC#16 } } := by
  refine (control _ _).trans ((foldl_keeps view (fun c i => addresses ..) _ _).trans (foldl_keeps view (fun c i => masks ..) _ _))

theorem setK_keeps {β : Type} (view : CoreSt → β) (keeps : ∀ c i x, view (c.setClus i x) = view c) (i n : Nat) (x : W16) :
    view (c.setK i n x) = view c := by
  rw [CoreSt.setK]
  split
  · rfl
  · exact keeps ..

theorem loadHeader_preds : (c.loadHeader b).files.p = ofBytes 16 ((b.drop 0x60).take 2) &&& 0xFFFC :=
  loadHeader_keeps c b (fun c => c.files.p) (fun c => setK_keeps c (fun c => c.files.p) fun _ _ _ => rfl) (fun _ _ _ => rfl) fun _ _ => rfl

theorem loadHeader_sreg (n : Nat) : (c.loadHeader b).sreg n = c.sreg n :=
  loadHeader_keeps c b (fun c => c.sreg n) (fun c => setK_keeps c (fun c => c.sreg n) fun _ _ _ => rfl) (fun _ _ _ => rfl) fun _ _ => rfl

theorem loadHeader_standing : standing (c.loadHeader b) = standing c :=
  loadHeader_keeps c b standing (fun c => setK_keeps c standing fun _ _ _ => rfl) (fun _ _ _ => rfl) fun _ _ => rfl

theorem loadHeader_kmask {i j : Nat} (cluster : i < 8) (mask : j < 7) :
    (c.loadHeader b).kmask i (j + 1) = ofBytes 16 ((b.drop (0x68 + 14 * i + 2 * j)).take 2) := by
  have quot : (7 * i + j) / 7 = i := by omega
  have rest : (7 * i + j) % 7 = j := by omega
  have place : 0x68 + 2 * (7 * i + j) = 0x68 + 14 * i + 2 * j := by omega
  refine (foldl_keeps (fun c : CoreSt => c.kmask i (j + 1)) (fun c k => by exact rfl) _ _).trans ?_
  refine foldl_sets (fun c : CoreSt => c.kmask i (j + 1)) (x := 7 * i + j) (fun c => ?_) (List.mem_range.mpr (by omega)) (fun z inside other c => ?_) _
  · rw [CoreSt.kmask, if_neg (Nat.succ_ne_zero j), setK_k, quot, rest, if_pos ⟨rfl, cluster, Nat.succ_ne_zero j⟩,
      vget_vset_same _ _ _ _ (by omega), place]
  · rw [CoreSt.kmask, if_neg (Nat.succ_ne_zero j), setK_k, CoreSt.kmask, if_neg (Nat.succ_ne_zero j)]
    split
    next here => exact vget_vset_other _ _ _ _ _ (by omega)
    next => rfl

theorem loadHeader_control : (c.loadHeader b).ctrl.seed = fldW b 0x178 ∧ (c.loadHeader b).ctrl.solvtau = fldW b 0x1A0 ∧
    (c.loadHeader b).ctrl.solvdelta = fldW b 0x1A8 ∧ ∀ k, k < 12 → vget 0 (c.loadHeader b).ctrl.sticky k = fldW b (0x1B0 + 8 * k) := by
  refine ⟨rfl, rfl, rfl, fun k inside => ?_⟩
  have place : 0x178 + 8 * (7 + k) = 0x1B0 + 8 * k := by omega
  exact (vget_foldl_vset _ (fun i => fldW b (0x178 + 8 * (7 + i))) _ inside 12).trans (by rw [if_pos inside, place])

end Header

/-! ## The core that takes a frame (R245, R253) -/

/-- What a core's clearing does to its files. -/
def clearedFiles (fs : Files) : Files :=
  { fs with
    accMain := .replicate 4 0, accPart := .replicate 4 0, openAcc := 0, wbCodes := .replicate 124 0, wbScales := .replicate 124 0
    slLost := .allOnes 8
    cl := (List.range 8).foldl (fun v i => vset v i { vget Cluster.reset v i with lost := .allOnes 8 }) fs.cl }

/-- A core with its matrix unit zero, the counter banks given and its latches lost. -/
def clearedCore (banks : List Byte) (c : CoreSt) : CoreSt := (c.zeroMatrix.loadBanks banks).loseLatches

/-- A core's state from a frame and its counter banks. -/
def framed (b banks : List Byte) (c : CoreSt) : CoreSt := clearedCore banks ((c.landAll.loadHeader b).loadItems b)

section Framed

variable (b banks : List Byte) (c : CoreSt)

/-- What a core holds once the frame's header and items are in it, and before its matrix unit is cleared and its latches are lost. -/
def frameTaken (b : List Byte) (c : CoreSt) : CoreSt := itemsPut b (c.landAll.loadHeader b)

theorem clearedCore_files (banks : List Byte) (c : CoreSt) : (clearedCore banks c).files = clearedFiles c.files := rfl
theorem clearedCore_ctrl (banks : List Byte) (c : CoreSt) : (clearedCore banks c).ctrl = c.ctrl := rfl
theorem clearedCore_standing (banks : List Byte) (c : CoreSt) : standing (clearedCore banks c) = standing c := rfl

theorem framed_files : (framed b banks c).files = clearedFiles (frameTaken b c).files := by
  obtain ⟨u, d, same⟩ := loadItems_eq (c.landAll.loadHeader b) b
  rw [framed, clearedCore_files, same, frameTaken]

theorem framed_control : ∃ u, (framed b banks c).ctrl = { (c.landAll.loadHeader b).ctrl with unsettled := u } := by
  obtain ⟨u, d, same⟩ := loadItems_eq (c.landAll.loadHeader b) b
  exact ⟨u, by rw [framed, clearedCore_ctrl, same, itemsPut_ctrl]⟩

theorem framed_standing : standing (framed b banks c) = standing c := by
  obtain ⟨u, d, same⟩ := loadItems_eq (c.landAll.loadHeader b) b
  have items : standing (framed b banks c) = standing (itemsPut b (c.landAll.loadHeader b)) := by
    rw [framed, clearedCore_standing, same, standing, standing]
  rw [items, itemsPut_standing, loadHeader_standing]
  exact congrArg₂ Prod.mk (landAll_classB c) (landAll_dbg c)

theorem framed_classB : (framed b banks c).classB = c.classB := congrArg Prod.fst (framed_standing b banks c)

theorem framed_dbg : (framed b banks c).dbg = c.dbg := congrArg Prod.snd (framed_standing b banks c)

variable {b banks c} {d : CoreSt} (files : d.files = (framed b banks c).files)
include files

theorem framed_scalar (n : Nat) : d.sreg n = (frameTaken b c).sreg n := by rw [CoreSt.sreg, files, framed_files, clearedFiles, CoreSt.sreg]

theorem framed_clus {i : Nat} (cluster : i < 8) : d.clus i = { (frameTaken b c).clus i with lost := .allOnes 8 } := by
  rw [CoreSt.clus, files, framed_files, clearedFiles]
  exact (vget_foldl_update Cluster.reset (fun x => { x with lost := .allOnes 8 }) (frameTaken b c).files.cl cluster 8).trans (if_pos cluster)

theorem framed_masks {i j : Nat} (cluster : i < 8) : d.kmask i j = (frameTaken b c).kmask i j := by
  rw [CoreSt.kmask, framed_clus files cluster, CoreSt.kmask]

theorem framed_vreg {i j : Nat} (cluster : i < 8) : d.vreg i j = (frameTaken b c).vreg i j := by
  rw [CoreSt.vreg, framed_clus files cluster, CoreSt.vreg]

theorem framed_creg (n : Nat) : d.creg n = (frameTaken b c).creg n := by rw [CoreSt.creg, files, framed_files, clearedFiles, CoreSt.creg]

theorem framed_norm (n : Nat) : d.norm n = (frameTaken b c).norm n := by rw [CoreSt.norm, files, framed_files, clearedFiles, CoreSt.norm]

theorem framed_axisHeld (n : Nat) : d.axisHeld n = (frameTaken b c).axisHeld n := by
  rw [CoreSt.axisHeld, files, framed_files, clearedFiles, CoreSt.axisHeld]

theorem framed_tile (n : Nat) : d.tile n = (frameTaken b c).tile n := by rw [CoreSt.tile, files, framed_files, clearedFiles, CoreSt.tile]

theorem framed_preds : d.files.p = (frameTaken b c).files.p := by rw [files, framed_files, clearedFiles]

theorem framed_matrix : d.files.accMain = .replicate 4 0 ∧ d.files.accPart = .replicate 4 0 ∧ d.files.openAcc = 0 ∧
    d.files.wbCodes = .replicate 124 0 ∧ d.files.wbScales = .replicate 124 0 := by
  rw [files, framed_files]
  exact ⟨rfl, rfl, rfl, rfl, rfl⟩

end Framed

/-- The loop counts of a frame's active levels (R249). -/
theorem loopsOf_counts (s : State) (g : Nat) (b : List Byte) : (s.loopsOf g b).map (fun l => l.remain) =
    (List.range 4).filterMap fun l => if Machine.fld b (0xF0 + 32 * l) 8 % 2 = 0 then none else some (fldW b (0xE8 + 32 * l)) := by
  rw [State.loopsOf, List.map_filterMap]
  refine List.filterMap_congr fun l _ => ?_
  have flags : 0xD8 + 32 * l + 24 = 0xF0 + 32 * l := by omega
  have count : 0xD8 + 32 * l + 16 = 0xE8 + 32 * l := by omega
  rw [State.loopOf]
  dsimp only
  rw [flags, count]
  split <;> rfl

/-- A core that shows the files and the control registers that a frame gives, and the frame's loop levels, holds the frame. -/
theorem holdsFrame_of_framed {b banks : List Byte} {c d : CoreSt} {s : State} {g : Nat} (files : d.files = (framed b banks c).files)
    (ctrl : d.ctrl = (framed b banks c).ctrl) (loops : d.flow.loops = s.loopsOf g b) : HoldsFrame b d where
  preds := by rw [framed_preds files, frameTaken, itemsPut_preds, loadHeader_preds]
  masks i j cluster mask := by rw [framed_masks files cluster, frameTaken, itemsPut_kmask, loadHeader_kmask _ _ cluster mask]
  control := by
    obtain ⟨u, same⟩ := framed_control b banks c
    rw [ctrl, same]
    exact loadHeader_control c.landAll b
  loops := by rw [loops, loopsOf_counts]
  live := ⟨fun k n item writable => (framed_scalar files n).trans (itemsPut_sreg _ item writable),
    fun k n item => (framed_creg files n).trans (itemsPut_creg _ item),
    fun k n item => ⟨(framed_norm files n).trans (itemsPut_norm _ item), (framed_axisHeld files n).trans (itemsPut_axisHeld _ item)⟩,
    fun k n item => (framed_vreg files (Nat.div_lt_of_lt_mul (liveBits_lt item))).trans (itemsPut_vreg _ item),
    fun k n item => (framed_tile files n).trans (itemsPut_tile _ item)⟩
  matrix := framed_matrix files

/-! ## The group switch (R245, R253, R332) -/

theorem enterRange_part (s : State) (p pa n q : Nat) : (s.enterRange p pa n).part q = s.part q :=
  foldl_keeps (fun t : State => t.part q) (fun _ _ => by exact rfl) _ s

theorem enterRange_core (s : State) (p pa n g : Nat) : (s.enterRange p pa n).core g = s.core g :=
  foldl_keeps (fun t : State => t.core g) (fun _ _ => by exact rfl) _ s

/-- The frame that a saved step takes to a core. -/
def frameOn (s : State) (x : Saved) (g : Nat) : List Byte :=
  (s.part x.step.part).frameFor (s.core g).classB (s.physRead (s.slotAddr x.step.part x.slot) 158600)

/-- A saved step leaves its slot and its place in the ready list. -/
def slotFreed (x : Saved) (pt : Part) : Part :=
  { pt with
    saved := pt.saved.filter fun y => y.slot != x.slot
    slots := pt.slots ++ [x.slot], orders := pt.orders + 1, ready := pt.ready.filter fun k => k != .saved x.slot }

/-- The core that takes a saved step, but for its loop levels. -/
def resumed (pt : Part) (b banks : List Byte) (gang g : Nat) (x : Saved) (c : CoreSt) : CoreSt :=
  let c := framed b banks c
  { (c.addCounter 0 cGang gang) with
    status := .restoring (CoreSt.saveCycles (frameLen b)), step := some { x.step with order := pt.orders, place := g }
    pc := pt.mapAddr c.classB ((fldW b 8).setWidth 60), pcHigh := 0, next := none, reached := .none, req := .none, resvCyc := 0
    flow := { Flow.reset with cyc := c.flow.cyc, portQ := c.flow.portQ, sched := fldW b 0x10, before := c.flow.before } }

/-- The device once a core has taken a saved step, but for the step's loop levels and the trace of it. -/
def switched (s : State) (x : Saved) (g : Nat) : State :=
  let p := x.step.part
  let gang := if (s.part p).reserve.isSome then (s.core g).resvCyc else 0
  let left := s.onPart p (slotFreed x)
  (((left.dieEvent (Config.dieOf g) p 4 gang).enterRange p (left.slotAddr p x.slot) (frameLen (frameOn s x g))).enterRange p
    (left.slotAddr p x.slot + 0x26C00) 1280).onCore g
      (resumed (s.part p) (frameOn s x g) (s.physRead (s.slotAddr p x.slot + 0x26C00) 1280) gang g x)

/-- A core's step goes on in the loop levels given. -/
def withLoops (loops : List Loop) (c : CoreSt) : CoreSt := { c with flow := { c.flow with loops := loops } }

/-- The device once a core has taken a saved step, but for the trace of it. -/
def resumedAt (s : State) (x : Saved) (g : Nat) : State :=
  (switched s x g).onCore g (withLoops ((switched s x g).loopsOf g (frameOn s x g)))

theorem resumeOn_eq (s : State) (x : Saved) (g : Nat) : s.resumeOn x g =
    (resumedAt s x g).traceIf g ((resumedAt s x g).core g).dbg.trtrap 5 0 ((resumedAt s x g).core g).pc := rfl

theorem switched_part (s : State) (x : Saved) (g q : Nat) : (switched s x g).part q = (s.onPart x.step.part (slotFreed x)).part q := by
  rw [switched]
  rw [State.onCore_part, enterRange_part, enterRange_part, dieEvent_part]

theorem resumedAt_part (s : State) (x : Saved) (g q : Nat) : (resumedAt s x g).part q = (s.onPart x.step.part (slotFreed x)).part q :=
  (State.onCore_part ..).trans (switched_part s x g q)

theorem switched_core {s : State} {x : Saved} {g : Nat} (known : g < 288) : ∃ banks gang, (switched s x g).core g =
    resumed (s.part x.step.part) (frameOn s x g) banks gang g x (s.core g) := by
  rw [switched]
  rw [State.onCore_core_same _ _ _ known, enterRange_core, enterRange_core, dieEvent_core, State.onPart_core]
  exact ⟨_, _, rfl⟩

theorem resumedAt_core {s : State} {x : Saved} {g : Nat} (known : g < 288) : ∃ banks gang, (resumedAt s x g).core g =
    withLoops ((switched s x g).loopsOf g (frameOn s x g)) (resumed (s.part x.step.part) (frameOn s x g) banks gang g x (s.core g)) := by
  obtain ⟨banks, gang, core⟩ := switched_core (s := s) (x := x) known
  exact ⟨banks, gang, by rw [resumedAt, State.onCore_core_same _ _ _ known, core]⟩

theorem resumed_dbg (loops : List Loop) (pt : Part) (b banks : List Byte) (gang g : Nat) (x : Saved) (c : CoreSt) :
    (withLoops loops (resumed pt b banks gang g x c)).dbg = c.dbg := framed_dbg b banks c

/-- A core that takes a saved step has it as its frame says (R253). -/
theorem restored_holds {t : State} {x : Saved} {g : Nat} {pt : Part} {b banks : List Byte} {gang : Nat} {c d : CoreSt}
    (core : d = withLoops (t.loopsOf g b) (resumed pt b banks gang g x c)) :
    d.status = .restoring (16 + (frameLen b + 511) / 512) ∧ d.step = some { x.step with order := pt.orders, place := g } ∧
      d.files.slLost = .allOnes 8 ∧ d.pc = pt.mapAddr c.classB ((fldW b 8).setWidth 60) ∧ d.flow.sched = fldW b 0x10 ∧ HoldsFrame b d ∧
      (c.flow.flight = [] → ∀ n, n < 64 → n ∉ liveBits (entryOf ((b.drop 0x20).take 64)).smask → d.sreg n = c.sreg n) := by
  subst core
  have files : (withLoops (t.loopsOf g b) (resumed pt b banks gang g x c)).files = (framed b banks c).files := rfl
  refine ⟨rfl, rfl, rfl, ?_, rfl, holdsFrame_of_framed files rfl rfl, fun landed n _ idle => ?_⟩
  · exact congrArg (fun k => pt.mapAddr k ((fldW b 8).setWidth 60)) (framed_classB b banks c)
  · rw [framed_scalar files, frameTaken, itemsPut_sreg_of_not_live _ idle, loadHeader_sreg, landAll_of_landed landed]

/-- A step that resumes untraced is on its core as its frame says, and its save slot is free. -/
theorem resumeOn_restores {s : State} {x : Saved} {g : Nat} (known : g < 288) (inside : x.step.part < 64)
    (untraced : (s.core g).dbg.trtrap = false) :
    let c := (s.resumeOn x g).core g
    let b := (s.part x.step.part).frameFor (s.core g).classB (s.physRead (s.slotAddr x.step.part x.slot) 158600)
    c.status = .restoring (16 + (frameLen b + 511) / 512) ∧
      c.step = some { x.step with order := (s.part x.step.part).orders, place := g } ∧ c.files.slLost = .allOnes 8 ∧
      c.pc = (s.part x.step.part).mapAddr (s.core g).classB ((fldW b 8).setWidth 60) ∧ c.flow.sched = fldW b 0x10 ∧ HoldsFrame b c ∧
      ((s.core g).flow.flight = [] → ∀ n, n < 64 → n ∉ liveBits (entryOf ((b.drop 0x20).take 64)).smask → c.sreg n = (s.core g).sreg n) ∧
      x.slot ∈ ((s.resumeOn x g).part x.step.part).slots := by
  obtain ⟨banks, gang, core⟩ := resumedAt_core (s := s) (x := x) known
  have quiet : ((resumedAt s x g).core g).dbg.trtrap = false := by
    rw [core, resumed_dbg, untraced]
  rw [resumeOn_eq, traceIf_of_off quiet]
  obtain ⟨status, step, latches, pc, sched, holds, idle⟩ := restored_holds core
  refine ⟨status, step, latches, pc, sched, holds, idle, ?_⟩
  rw [resumedAt_part, State.onPart_part_same _ _ _ inside]
  exact List.mem_append_right _ List.mem_cons_self

end Sys2Proof.Proofs
end

section
/-! The reservations of cores for gangs, which no trace, no access of the hub and no group switch touches (R47, R271, R375, R394). -/

namespace Sys2Proof.Proofs

open Sys2Proof.Machine Sys2Proof.Claims Sys2Proof.Laws

/-- What reservations there are, and what the cores have counted of them. -/
def reservations (s : State) : (Nat → Option (W64 × W64)) × (Nat → Nat) := (fun q => (s.part q).reserve, fun h => (s.core h).resvCyc)

theorem onPart_reservations (s : State) (p : Nat) {f : Part → Part} (keeps : (f (s.part p)).reserve = (s.part p).reserve) :
    reservations (s.onPart p f) = reservations s :=
  congrArg₂ Prod.mk (funext fun q => onPart_part_keeps Part.reserve keeps q) rfl

theorem onCore_reservations (s : State) (g : Nat) {f : CoreSt → CoreSt} (keeps : ∀ c, (f c).resvCyc = c.resvCyc) :
    reservations (s.onCore g f) = reservations s :=
  congrArg₂ Prod.mk rfl (funext fun h => onCore_keeps CoreSt.resvCyc keeps s g h)

theorem enterAt_reservations (s : State) (p d : Nat) (loc : Loc) (pa : Nat) : reservations (s.enterAt p d loc pa) = reservations s := by
  cases loc <;> rfl

theorem hubWriteOf_reservations (s : State) (p d pa : Nat) (bs : List Byte) : reservations (s.hubWriteOf p d pa bs) = reservations s :=
  enterAt_reservations (s.hubWrite d pa bs) p d (.mem (if inTier1 pa then some (tierDie pa) else none)) pa

/-! ## The dirty log (R375 to R377) -/

theorem blastTaken_reserve (rec' : List Byte) (pt : Part) : (blastTaken rec' pt).reserve = pt.reserve := rfl

theorem deliverBlast_reservations (s : State) (p : Nat) (rec' : List Byte) : reservations (s.deliverBlast p rec') = reservations s := by
  have signalled : reservations { s with hub := { s.hub with pfSignals := s.hub.pfSignals + 1 } } = reservations s := rfl
  exact (onPart_reservations _ p (blastTaken_reserve rec' _)).trans signalled

theorem setCoarse_reservations (s : State) (p pa : Nat) : reservations (s.setCoarse p pa) = reservations s := by
  unfold State.setCoarse
  dsimp only
  split
  · exact deliverBlast_reservations ..
  · exact hubWriteOf_reservations ..

theorem logPage_reservations (s : State) (p vpage pa : Nat) : reservations (s.logPage p vpage pa) = reservations s := by
  have listed : reservations (s.setPart p { s.part p with logPages := (s.part p).logPages ++ [(vpage, pa)] }) = reservations s :=
    onPart_reservations s p (f := fun pt => { pt with logPages := pt.logPages ++ [(vpage, pa)] }) rfl
  unfold State.logPage
  dsimp only
  split
  · exact (setCoarse_reservations ..).trans listed
  · split
    · refine (foldl_keeps reservations (fun t y => setCoarse_reservations ..) _ _).trans ?_
      exact (onPart_reservations _ p rfl).trans listed
    · exact (onPart_reservations _ p rfl).trans ((hubWriteOf_reservations ..).trans listed)

theorem logAccess_reservations (s : State) (p : Nat) (va : W64) (x : Xlated) (setsD : Bool) :
    reservations (s.logAccess p va x setsD) = reservations s := by
  have logged := logPage_reservations s p (va.toNat / 4096) x.pa
  unfold State.logAccess
  dsimp only
  split
  · rfl
  · split
    · split
      · rfl
      · exact logged
    · split
      · exact logged
      · rfl

/-! ## The accesses of the hub (R271, R296) -/

theorem enterWalk_reservations (s : State) (p : Nat) (core die : Option Nat) (va : W64) (need : Need) :
    reservations (s.enterWalk p core die va need) = reservations s := by
  unfold State.enterWalk
  split
  · exact foldl_keeps reservations (fun _ _ => by exact rfl) _ s
  · rfl

theorem remember_reservations (s : State) (p : Nat) (core die : Option Nat) (x : Xlated) :
    reservations (s.remember p core die x) = reservations s := by
  unfold State.remember
  cases x.page with
  | none => rfl
  | some page =>
    cases core with
    | none => cases die <;> rfl
    | some g =>
      have cached (e : Cached) : reservations (({ s with tick := s.tick + 1 } : State).onCore g fun k => { k with tlb := addCached k.tlb e }) =
        reservations s := onCore_reservations _ g fun _ => rfl
      cases die <;> exact cached _

theorem payPte_reservations {s t : State} {w : PteOwed} (paid : s.payPte w = some t) : reservations t = reservations s := by
  unfold State.payPte State.pteUpdate at paid
  obtain ⟨u, updated, rfl⟩ := Option.map_eq_some_iff.mp paid
  have base : reservations u = reservations s := by
    dsimp only at updated
    split at updated
    · cases updated
      exact enterWalk_reservations ..
    · cases updated
  split
  · refine (remember_reservations ..).trans ?_
    split
    · exact (logAccess_reservations ..).trans base
    · exact base
  · exact base

theorem accessFor_reservations {s t : State} {p : Nat} {core die : Option Nat} {va : W64} {need : Need} {reach : Reach} {x : Xlated}
    (prepared : s.accessFor p core die va need reach = .ok t x) : reservations t = reservations s := by
  rw [accessFor_ok prepared]
  refine (enterAt_reservations ..).trans ((remember_reservations ..).trans ?_)
  split
  · exact (logAccess_reservations ..).trans (enterWalk_reservations ..)
  · exact enterWalk_reservations ..

theorem accessFor_fault {s t : State} {p : Nat} {core die : Option Nat} {va : W64} {need : Need} {reach : Reach} {k : Cause}
    (prepared : s.accessFor p core die va need reach = .fault t k) : t = s.enterWalk p core die va need := by
  unfold State.accessFor at prepared
  dsimp only at prepared
  split at prepared
  · cases prepared
  · cases prepared
    rfl
  · split at prepared
    · split at prepared <;> cases prepared
      rfl
    · split at prepared <;> cases prepared

theorem locWrite_reservations (s : State) (die : Option Nat) (x : Xlated) (bs : List Byte) :
    reservations (s.locWrite die x bs) = reservations s := by
  unfold State.locWrite
  split <;> rfl

/-- Whether a write of the hub, performed or faulted, has left the reservations as they were. -/
def LeavesReservations (s : State) : Except HubStop State → Prop
  | .ok t | .error (.fault t _) => reservations t = reservations s
  | .error _ => True

theorem hubPut_reservations (p : Nat) (die : Option Nat) : ∀ (f : Nat) (s : State) (va : W64) (bs : List Byte),
    LeavesReservations s (s.hubPut p die f va bs)
  | 0, _, _, _ => rfl
  | f + 1, s, va, bs => by
    unfold State.hubPut
    split
    · rfl
    · dsimp only
      split
      next => trivial
      next t k prepared => exact (congrArg reservations (accessFor_fault prepared)).trans (enterWalk_reservations ..)
      next t x prepared =>
        have base (cs : List Byte) : reservations (t.locWrite die x cs) = reservations s :=
          (locWrite_reservations ..).trans (accessFor_reservations prepared)
        have later := hubPut_reservations p die f (t.locWrite die x (bs.take (min bs.length (64 - va.toNat % 64))))
          (va + BitVec.ofNat 64 (min bs.length (64 - va.toNat % 64))) (bs.drop (min bs.length (64 - va.toNat % 64)))
        unfold LeavesReservations at later ⊢
        split <;> simp_all

/-! ## Traces (R394) -/

theorem settleOwed_reservations : ∀ (n : Nat) (s : State), reservations (s.settleOwed n) = reservations s
  | 0, _ => rfl
  | n + 1, s => by
    unfold State.settleOwed
    split
    · rfl
    next w ws _ =>
      have taken (t : State) : reservations (({ t with hub := { t.hub with owed := ws } } : State).onPart w.part
        fun pt => { pt with trhead := pt.trhead + 1 }) = reservations t := onPart_reservations _ w.part rfl
      have written := hubPut_reservations w.part (some w.die) 2 s w.va w.bytes
      dsimp only
      split
      next t done =>
        rw [done] at written
        exact (settleOwed_reservations n _).trans ((taken t).trans written)
      next t k faulted =>
        rw [faulted] at written
        exact (settleOwed_reservations n _).trans ((taken t).trans written)
      next u _ =>
        cases paid : s.payPte u with
        | none => rfl
        | some t => exact payPte_reservations paid
      next => rfl

theorem trace_reservations (s : State) (g kind index : Nat) (bundle : Addr) : reservations (s.trace g kind index bundle) = reservations s := by
  unfold State.trace
  dsimp only
  split
  · exact onPart_reservations s (s.partOf g) (f := fun pt => { pt with trdrop := pt.trdrop + 1 }) rfl
  · exact settleOwed_reservations ..

theorem traceIf_reservations (s : State) (g : Nat) (on : Bool) (kind index : Nat) (bundle : Addr) :
    reservations (s.traceIf g on kind index bundle) = reservations s := by
  unfold State.traceIf
  split
  · exact trace_reservations ..
  · rfl

end Sys2Proof.Proofs
end

section
/-! The restore of a step whose turn it is (R253, R254, R332), and O38. -/

namespace Sys2Proof.Proofs

open Sys2Proof.Machine Sys2Proof.Claims Sys2Proof.Laws

/-! ## Reservations and group switches (R47, R391) -/

section Resumed

variable {s : State} {x : Saved} {g : Nat}

theorem resumeOn_reservations : reservations (s.resumeOn x g) = reservations (resumedAt s x g) := by
  rw [resumeOn_eq, traceIf_reservations]

/-- A group switch reserves no cores. -/
theorem resumeOn_reserve (q : Nat) : ((s.resumeOn x g).part q).reserve = (s.part q).reserve := by
  have switch := congrFun (congrArg Prod.fst (resumeOn_reservations (s := s) (x := x) (g := g))) q
  refine switch.trans ?_
  show ((resumedAt s x g).part q).reserve = (s.part q).reserve
  rw [resumedAt_part]
  exact onPart_part_keeps Part.reserve (by exact rfl) q

/-- The core that takes a step has no cycle of a reservation left to count. -/
theorem resumeOn_resvCyc (known : g < 288) : ((s.resumeOn x g).core g).resvCyc = 0 := by
  have switch := congrFun (congrArg Prod.snd (resumeOn_reservations (s := s) (x := x) (g := g))) g
  refine switch.trans ?_
  obtain ⟨banks, gang, core⟩ := resumedAt_core (s := s) (x := x) known
  exact congrArg CoreSt.resvCyc core

end Resumed

/-- A core that has counted no cycle of a reservation is as it was when the reservation ends. -/
theorem dropReserve_core_of_uncounted {s : State} {p g : Nat} (none : (s.core g).resvCyc = 0) : (s.dropReserve p).core g = s.core g := by
  have same : ({ s.core g with resvCyc := 0 } : CoreSt) = s.core g := by rw [← none]
  by_cases held : (s.part p).reserve = Option.none
  · rw [dropReserve_of_none held]
  · rw [dropReserve_of_some held, State.onPart_core]
    refine List.foldlRecOn (motive := fun t : State => t.core g = s.core g) _ _ rfl fun t kept h listed => ?_
    by_cases here : g = h
    · subst here
      rw [State.onCore_core_same _ _ _ (mem_partCores_lt listed), kept, same]
    · rw [State.onCore_core_other _ _ _ _ here, kept]

/-! ## The choice of the only saved step (R332) -/

section OneSaved

variable {s : State} {p slot : Nat} {x : Saved} (static : (s.part p).staticRun = true) (ready : (s.part p).ready = [.saved slot])
  (saved : (s.part p).saved = [x]) (slotted : x.slot = slot) (alone : x.step.member = none) (noBlock : s.node? p x.step.node = none)

include saved slotted alone in
theorem oneSaved_offer : (s.part p).offer (.saved slot) = some (.resume [x]) := by
  have named : (s.part p).savedOf slot = [x] := by simp [Part.savedOf, saved, slotted, StepInfo.gang, alone]
  rw [Part.offer, named]

include noBlock in
theorem oneSaved_queue : s.offerQueue p (.resume [x]) = none := by simp [State.offerQueue, Offer.node, noBlock]

include static noBlock in
theorem oneSaved_offerable : s.offerable p (.resume [x]) = true := by
  have offered : s.offered p (.resume [x]) = true := by rw [State.offered, oneSaved_queue noBlock, static]
  have waits : s.tileWaits p (.resume [x]) = false := by simp [State.tileWaits, Offer.node, noBlock]
  rw [State.offerable, offered, waits]
  rfl

include static ready saved slotted alone noBlock

theorem oneSaved_heads : s.heads p (s.part p).ready [] = [(none, .saved slot, .resume [x])] := by
  simp [ready, State.heads, oneSaved_offer saved slotted alone, oneSaved_queue noBlock, oneSaved_offerable static noBlock]

theorem oneSaved_choose (reserve : (s.part p).reserve = none) (missing : (s.part p).missing = []) :
    s.choose p = (s, some (.saved slot, .resume [x])) := by
  have young : ¬ 20000 < s.reserveAge p := by rw [reserveAge_of_none reserve]; omega
  unfold State.choose
  simp [young, oneSaved_heads static ready saved slotted alone noBlock, missing, reserve, dropReserve_of_none reserve, static, headWith]

end OneSaved

/-! ## The restore (R253, R254, R332) -/

/-- The saved step that the scheduler chooses resumes on the core named, and its partition's reservation ends. -/
theorem restore_resumes {s t : State} {p slot g : Nat} {x : Saved} (places : s.placesNow p = true)
    (chosen : s.choose p = (t, some (.saved slot, .resume [x]))) (free : t.coresOk p [g] = true) (alone : x.step.member = none)
    (noQueue : t.offerQueue p (.resume [x]) = none) :
    exec (.restore p slot [g] false) s = .next ((t.resumeOn x g).dropReserve p) := by
  rw [exec_restore, execRestore, event_eq_next]
  simp [places, chosen, free, noQueue, State.gangIn, alone, State.hubNext]

/-! ## The clauses of O38 -/

/-- A step that is dropped leaves its core free and withdraws its atomic, and no other core and no memory changes (R301, R339, R368). -/
theorem save_drops {s : State} {g : Nat} {st : StepInfo} (known : g < 288) (saved : (s.core g).status = .saving 0)
    (step : (s.core g).step = some st) (drop : (s.core g).req.drop = true) : ∃ u, exec (.saveAtComma g) s = .next u ∧
      u.ord = { s.ord with waiting := s.ord.waiting.filter fun w => w.dec.isSome || w.core != g } ∧ (u.core g).status = .free ∧
      (u.core g).step = none ∧ (u.core g).flow.mem = [] ∧ (u.core g).files.slLost = .allOnes 8 ∧ (∀ h, h ≠ g → u.core h = s.core h) := by
  obtain ⟨cores, ord⟩ := dropStep_keeps s g
  have core (h : Nat) : (s.dropStep g).core h = (s.setCore g (s.core g).freed.loseLatches).core h := by
    rw [State.core, cores]
    rfl
  refine ⟨_, saveAtComma_drops known saved step drop, ord, ?_⟩
  rw [core g, State.setCore_core_same _ _ _ known]
  refine ⟨rfl, rfl, rfl, rfl, fun h other => ?_⟩
  rw [core h, State.setCore_core_other _ _ _ _ other]

/-- A core that is written, and a step that enters its partition's books as the first of the ready list (R317), and no memory changes. -/
theorem entered_eq {t : State} {g p slot : Nat} {c : CoreSt} {f : Part → Part} {st : StepInfo} (known : g < 288) (inside : p < 64) :
    let u := ((t.setCore g c).onPart p f).enterSaved p slot st false
    u.core g = c ∧ u.ord = t.ord ∧ u.part p = { f (t.part p) with ready := .saved slot :: (f (t.part p)).ready } := by
  refine ⟨?_, ?_, ?_⟩
  · rw [State.enterSaved, State.onPart_core, makeRoom_core, State.onPart_core, State.setCore_core_same _ _ _ known]
  · rw [State.enterSaved, State.onPart_ord, makeRoom_ord, State.onPart_ord, State.setCore_ord]
  · rw [State.enterSaved, State.onPart_part_same _ _ _ inside, makeRoom_part, State.onPart_part_same _ _ _ inside, State.setCore_part]
    rfl

/-- A step without a gang is saved in the first free slot, and its core is free (R248, R252). -/
theorem save_writes {s : State} {g slot : Nat} {slots : List Nat} {st : StepInfo} (known : g < 288) (saved : (s.core g).status = .saving 0)
    (step : (s.core g).step = some st) (inside : st.part < 64) (kept : (s.core g).req.drop = false) (waits : (s.core g).req.yield = false)
    (alone : st.member = none) (untraced : (s.core g).dbg.trtrap = false) (room : (s.part st.part).ready.length < 4096)
    (free : (s.part st.part).slots = slot :: slots) : ∃ u, exec (.saveAtComma g) s = .next u ∧ (u.core g).status = .free ∧
      (u.core g).step = none ∧ (u.core g).files.slLost = .allOnes 8 ∧ u.ord = (frameWritten s g slot st).ord ∧
      (u.part st.part).slots = slots ∧ (u.part st.part).ready = .saved slot :: (s.part st.part).ready ∧
      (u.part st.part).saved = (s.part st.part).saved ++ [{ slot := slot, step := (s.core g).carried g st, yielded := false }] := by
  have asked : ((s.core g).req.yield && !(s.core g).req.preempt) = false := by rw [waits, Bool.false_and]
  have written := saveTo_of_alone (slot := slot) alone untraced
  rw [asked] at written
  obtain ⟨core, ord, part⟩ := entered_eq (t := frameWritten s g slot st) (slot := slot) (c := (s.core g).freed.loseLatches)
    (f := savedIn (s.core g) g slot st) (st := st) known inside
  refine ⟨_, saveAtComma_saves known saved step kept (readyFull_of_room room) free written, ?_⟩
  rw [core, ord, part, frameWritten_part, savedIn, asked, free, List.erase_cons_head]
  exact ⟨rfl, rfl, rfl, rfl, rfl, rfl, rfl⟩

/-- A step of a static launch whose turn it is resumes on the core named (R253, R332). -/
theorem restore_static {s : State} {p slot g : Nat} {x : Saved} (places : s.placesNow p = true) (static : (s.part p).staticRun = true)
    (reserve : (s.part p).reserve = none) (missing : (s.part p).missing = []) (ready : (s.part p).ready = [.saved slot])
    (saved : (s.part p).saved = [x]) (slotted : x.slot = slot) (alone : x.step.member = none) (noBlock : s.node? p x.step.node = none)
    (free : g ∈ s.freeCores p) : exec (.restore p slot [g] false) s = .next (s.resumeOn x g) := by
  have chosen := oneSaved_choose static ready saved slotted alone noBlock reserve missing
  rw [restore_resumes places chosen (coresOk_singleton free) alone (oneSaved_queue noBlock),
    dropReserve_of_none ((resumeOn_reserve p).trans reserve)]

/-- A frame that reads back with an error costs the step its progress, not the partition its slot (R255). -/
theorem restore_restarts {s : State} {p slot : Nat} {x : Saved} (inside : p < 64)
    (found : (s.part p).saved.find? (fun y => y.slot == slot) = some x) (alone : x.step.member = none) (room : (s.part p).ready.length < 4096)
    (cores : List Nat) : ∃ u, exec (.restore p slot cores true) s = .next u ∧ u.ord = s.ord ∧ u.cores = s.cores ∧
      (u.part p).saved = (s.part p).saved.filter (fun y => y.slot != slot) ∧
      (u.part p).restarts = (s.part p).restarts ++ [{ x.step with elapsed := 0, orphan := false }] ∧
      (u.part p).ready = .restart x.step.order :: (s.part p).ready.filter (fun k => k != .saved slot) := by
  refine ⟨_, restore_discards (discardFrame_of_alone found alone room), ?_, ?_, ?_⟩
  · rw [State.onPart_ord, makeRoom_ord]
  · exact makeRoom_cores ..
  · rw [State.onPart_part_same _ _ _ inside, makeRoom_part]
    exact ⟨rfl, rfl, rfl⟩

/-- Settles O38: the save and its drop, the choice and the restore of a saved step, the frame that its core then holds, and a frame that is lost. -/
theorem stepsAreSavedAndRestored : Obligations.StepsAreSavedAndRestored := by
  unfold Obligations.StepsAreSavedAndRestored
  refine ⟨fun s g st known saved step drop => save_drops known saved step drop, ?_, ?_, ?_, ?_, ?_⟩
  · intro s g slot slots st known saved step inside kept waits alone untraced room free
    exact save_writes known saved step inside kept waits alone untraced room free
  · intro s p slot g x _ _ places static reserve missing ready saved slotted _ alone noBlock free
    exact restore_static places static reserve missing ready saved slotted alone noBlock free
  · intro s t p slot g x known inside places chosen free _ _ alone noQueue
    refine ⟨_, restore_resumes places chosen free alone noQueue, dropReserve_ord _ p, ?_, ?_⟩
    · exact dropReserve_core_of_uncounted (resumeOn_resvCyc known)
    · rw [dropReserve_part_same _ p inside]
  · intro s x g known inside untraced
    exact resumeOn_restores known inside untraced
  · intro s p slot cores x inside found alone room
    exact restore_restarts inside found alone room cores

end Sys2Proof.Proofs
end

section
/-! SEND and ARBITRATE: an atomic goes before the arbiter of its line, and performs there (R284, R293). -/

namespace Sys2Proof.Proofs

open Sys2Proof.Machine Sys2Proof.Claims Sys2Proof.Laws

/-! ## What preparing a write leaves as it is (R375, R377) -/

theorem hubWriteOf_cores (s : State) (p d pa : Nat) (bs : List Byte) : (s.hubWriteOf p d pa bs).cores = s.cores := rfl

theorem deliverBlast_cores (s : State) (p : Nat) (rec' : List Byte) : (s.deliverBlast p rec').cores = s.cores := rfl

theorem setCoarse_cores (s : State) (p pa : Nat) : (s.setCoarse p pa).cores = s.cores := by
  unfold State.setCoarse
  dsimp only
  split
  · exact deliverBlast_cores ..
  · exact hubWriteOf_cores ..

theorem logPage_cores (s : State) (p vpage pa : Nat) : (s.logPage p vpage pa).cores = s.cores := by
  unfold State.logPage
  dsimp only
  split
  · exact setCoarse_cores ..
  · split
    · refine (foldl_keeps State.cores (fun t y => setCoarse_cores ..) _ _).trans ?_
      rw [State.onPart_cores, State.setPart_cores]
    · rw [State.onPart_cores, hubWriteOf_cores, State.setPart_cores]

/-- The dirty log is kept in memory and in the partition's entry alone. -/
theorem logAccess_cores (s : State) (p : Nat) (va : W64) (x : Xlated) (setsD : Bool) : (s.logAccess p va x setsD).cores = s.cores := by
  have logged := logPage_cores s p (va.toNat / 4096) x.pa
  unfold State.logAccess
  dsimp only
  split
  · rfl
  · split
    · split
      · rfl
      · exact logged
    · split
      · exact logged
      · rfl

/-- An access that may perform has changed no register and no queue, whether it reads or writes. -/
theorem access_ok_filesFlow {s t : State} {g : Nat} {va : W64} {need : Need} {reach : Reach} {x : Xlated}
    (prepared : s.access g va need reach = .ok t x) (h : Nat) : filesFlow (t.core h) = filesFlow (s.core h) := by
  have walked := (enterWalk_prepares s (s.partOf g) (some g) (some (Config.dieOf g)) va need).core h
  rw [accessFor_ok (access_ok prepared)]
  refine ((enterAt_prepares ..).core h).trans (((remember_prepares ..).core h).trans ?_)
  split
  · rw [State.core, logAccess_cores]
    exact walked
  · exact walked

/-! ## SEND -/

/-- An atomic or barrier operation has one line. -/
theorem lines_of_word {q : QOp} (noRead : q.reads = false) (noWrite : q.writes = false) : q.lines = 1 := by
  unfold QOp.lines
  split
  next load => simp [QOp.reads, load] at noRead
  · simp [noRead, noWrite]

/-- The operation waits before the arbiter of its line. -/
def beforeArbiter (t : State) (g : Nat) (q : QOp) (pa : Nat) : State :=
  (t.setHead g { q with sent := true }).onOrd fun o => { o with waiting := o.waiting ++ [{ core := g, line := pa / 64, dec := none }] }

theorem exec_send {s t : State} {g : Nat} {q : QOp} {x : Xlated} {home : Option Nat} (known : g < 288) (head : (s.core g).headOp = some q)
    (noRead : q.reads = false) (noWrite : q.writes = false) (unsent : q.sent = false) (fresh : q.done = 0)
    (prepared : s.access g q.lineVa needRW .scratchpads = .ok t x) (memory : x.loc = .mem home) :
    exec (.send g) s = .next (beforeArbiter t g q x.pa) := by
  have going : ¬ (q.reads || q.writes || q.sent || decide (q.lines ≤ q.done)) = true := by
    simp [noRead, noWrite, unsent, fresh, lines_of_word noRead noWrite]
  unfold exec execSend
  refine coreEvent_eq_next.mpr ⟨known, ?_⟩
  simp only [head, if_neg going, prepared, memory]
  rfl

/-! ## The end of an operation (R239, R293) -/

theorem setSlatch_slatch_same (c : CoreSt) {k : Nat} (x : W64) (inside : k < 8) : (c.setSlatch k x).slatch k = x := by
  have found : (c.files.slLost &&& ~~~(1#8 <<< k)).getLsbD k = false := by simp [inside]
  simp only [CoreSt.slatch, CoreSt.setSlatch, found, Bool.false_eq_true, if_false]
  exact vget_vset_same _ _ _ _ inside

theorem putS_old_same (c : CoreSt) {d : SDst} (x : W64) (writable : d ≠ .reg 0) : (c.putS d x).old d = x := by
  cases d with
  | reg n =>
    have other : n.toNat ≠ 0 := fun zero => writable (congrArg SDst.reg (BitVec.eq_of_toNat_eq zero))
    exact (CoreSt.setSreg_sreg ..).trans (if_pos ⟨rfl, other, n.isLt⟩)
  | latch k => exact setSlatch_slatch_same c x k.isLt

theorem old_of_files {c d : CoreSt} (same : d.files = c.files) (r : SDst) : d.old r = c.old r := by
  cases r <;> simp only [CoreSt.old, CoreSt.sreg, CoreSt.slatch, same]

/-- Of an atomic or barrier operation, the destination takes the low word of what it got. -/
theorem qWrite_word (c : CoreSt) {q : QOp} {d : SDst} (dst : wordDst q.op = some d) : (c.qWrite q).1 = c.putS d (q.got.extractLsb' 0 64) := by
  unfold CoreSt.qWrite
  generalize q.op = i at dst ⊢
  cases i
  case amoadd | amoswp | amocas | amomin | amomax | amoand | amoor | binit | arrive =>
    cases dst
    rfl
  all_goals cases dst

theorem headStamped_files (v : Clock) (c : CoreSt) : (headStamped v c).files = c.files := by
  unfold headStamped
  split
  · split <;> rfl
  · rfl

theorem headStamped_length (v : Clock) (c : CoreSt) : (headStamped v c).flow.mem.length = c.flow.mem.length := by
  unfold headStamped
  split
  next mem =>
    split
    · simp [mem]
    · rfl
  next => rfl

theorem stampHead_core (s : State) {g : Nat} (known : g < 288) :
    (s.stampHead g).core g = headStamped (s.ord.dieClock (Config.dieOf g)) (s.core g) :=
  State.onCore_core_same s g (headStamped (s.ord.dieClock (Config.dieOf g))) known

theorem qWrite_flow (c : CoreSt) {q : QOp} {d : SDst} (dst : wordDst q.op = some d) : (c.qWrite q).1.flow = c.flow := by
  rw [qWrite_word c dst, putS_flow]

theorem qComplete_ord (s : State) (g : Nat) (q : QOp) : (s.qComplete g q).ord = s.ord := rfl

theorem tokDone_mem (c : CoreSt) (w : Option Nat) : (c.tokDone w).flow.mem = c.flow.mem := by cases w <;> rfl

theorem qComplete_length (s : State) {g : Nat} {q : QOp} {d : SDst} (known : g < 288) (dst : wordDst q.op = some d) :
    ((s.qComplete g q).core g).flow.mem.length = (s.core g).flow.mem.tail.length := by
  rw [State.qComplete, stampHead_core _ known, headStamped_length, State.onCore_core_same _ _ _ known]
  refine congrArg (fun l : List QOp => l.tail.length) ((tokDone_mem ..).trans ?_)
  rw [CoreSt.raise_flow, qWrite_flow _ dst]

theorem qComplete_files (s : State) {g : Nat} (q : QOp) (known : g < 288) :
    ((s.qComplete g q).core g).files = ((s.core g).qWrite q).1.files := by
  rw [State.qComplete, stampHead_core _ known, headStamped_files, State.onCore_core_same _ _ _ known]
  exact CoreSt.tokDone_files ..

/-! ## ARBITRATE -/

/-- The operation with the word and the flags that its line gave back. -/
def answered (q : QOp) (x : W64) (f : Flg) : QOp := { q with got := x.setWidth 131072 ||| (f.setWidth 131072 <<< 64), done := 1 }

theorem answered_low (q : QOp) (x : W64) (f : Flg) : (answered q x f).got.extractLsb' 0 64 = x := by
  ext b bit
  have inside : b < 131072 := Nat.lt_trans bit (by decide)
  simp [answered, bit, inside]

/-- The state in which the result of an atomic is written: its words stand in the view, and it has left the arbiter. -/
def wordPerformed (s : State) (i g pa n : Nat) (new : List Byte) : State :=
  (s.onNeed g (s.ord.readNeed (Config.dieOf g) pa n)).onOrd fun o =>
    { o.arbitrated (Config.dieOf g) pa new with waiting := o.waiting.eraseIdx i }

theorem exec_arbitrate {s : State} {i g line : Nat} {q : QOp} {qs : List QOp}
    (waits : s.ord.waiting[i]? = some { core := g, line := line, dec := none }) (queue : (s.core g).flow.mem = q :: qs)
    (sent : q.sent = true) (whole : q.stuck = false)
    (covers : clkGe (s.ord.dieClock (Config.dieOf g)) (s.ord.lineClock line) = true) :
    let pa := 64 * line + q.addr.toNat % 64
    let r := wordOp q (s.ord.readView (Config.dieOf g) pa (wordSize q.op)) s.time
    let t := wordPerformed s i g pa (wordSize q.op) r.1
    exec (.arbitrate i) s = .next ((t.onNeed g (ownNeed t.ord (Config.dieOf g))).qComplete g (answered q r.2.1 r.2.2)) := by
  unfold exec execArbitrate
  refine event_eq_next.mpr ?_
  simp only [waits, State.arbitrateCore, queue, sent, whole, covers]
  rfl

theorem onNeed_mem (s : State) (g : Nat) (f : Clock → Clock) (h : Nat) : ((s.onNeed g f).core h).flow.mem = (s.core h).flow.mem :=
  onCore_keeps (fun c => c.flow.mem) (fun _ => by exact rfl) s g h

theorem wordPerformed_mem (s : State) (i g pa n : Nat) (new : List Byte) :
    ((wordPerformed s i g pa n new).core g).flow.mem = (s.core g).flow.mem := by
  rw [wordPerformed, State.onOrd_core, onNeed_mem]

end Sys2Proof.Proofs
end

section
/-! What an atomic, BINIT and ARRIVE make of the words they work on (R284 to R287), and O27. -/

namespace Sys2Proof.Proofs

open Sys2Proof.Machine Sys2Proof.Claims

/-! ## Atomics (R284) -/

/-- Of two equal values either is the greater. -/
theorem max_comm_of_toInt (x y : W64) : (if y.toInt ≤ x.toInt then x else y) = if x.toInt ≤ y.toInt then y else x := by
  split_ifs with above below below
  · exact BitVec.eq_of_toInt_eq (Int.le_antisymm below above)
  · rfl
  · rfl
  · omega

theorem wordOp_atomic {q : QOp} {old : List Byte} {n : W64} (time : W64) (word : atomicWord (ofBytes 64 (old.take 8)) q.b q.c q.op = some n) :
    wordOp q old time = (bytesOf 8 n, ofBytes 64 (old.take 8), 0) := by
  unfold wordOp
  generalize q.op = i at word ⊢
  cases i
  case amoadd | amoswp | amocas | amomin | amoand | amoor =>
    cases word
    rfl
  case amomax =>
    cases word
    exact congrArg (fun x : W64 => (bytesOf 8 x, (ofBytes 64 (old.take 8) : W64), (0 : Flg))) (max_comm_of_toInt _ _)
  all_goals cases word

/-! ## Barrier objects (R285 to R287) -/

/-- The object that BINIT makes: it is valid where it expects anyone. -/
theorem binitWord_eq_fields (b : W64) :
    ((b &&& 0xFFFF#64) ||| (((b >>> 16) &&& 0xF#64) <<< 32) ||| CoreSt.bitAt (decide (b &&& 0xFFFF#64 ≠ 0)) 37 : W64) =
      (BitVec.ofNat 64 (b.toNat % 2 ^ 16 + 2 ^ 32 * (b.toNat / 2 ^ 16 % 16) + (if b.toNat % 2 ^ 16 = 0 then 0 else 2 ^ 37)) : W64) := by
  have low : (b &&& 0xFFFF#64).toNat = b.toNat % 2 ^ 16 := by
    rw [BitVec.toNat_and]
    exact Nat.and_two_pow_sub_one_eq_mod b.toNat 16
  have phase : ((b >>> 16) &&& 0xF#64).toNat = b.toNat / 2 ^ 16 % 2 ^ 4 := by
    rw [BitVec.toNat_and, BitVec.toNat_ushiftRight, Nat.shiftRight_eq_div_pow]
    exact Nat.and_two_pow_sub_one_eq_mod _ 4
  have expects : decide (b &&& 0xFFFF#64 ≠ 0) = decide (b.toNat % 2 ^ 16 ≠ 0) := by
    rw [← low]
    exact decide_eq_decide.mpr (not_congr ⟨fun zero => by rw [zero]; rfl, fun zero => BitVec.eq_of_toNat_eq zero⟩)
  have lowest : HoldsFrom (b &&& 0xFFFF#64) 0 (b.toNat % 2 ^ 16) := by rw [HoldsFrom, low, Nat.pow_zero, Nat.mul_one]
  have middle : HoldsFrom (((b >>> 16) &&& 0xF#64) <<< 32) 32 (b.toNat / 2 ^ 16 % 2 ^ 4) :=
    holdsFrom_shiftLeft phase (Nat.mod_lt _ (by decide)) (by decide)
  have word := ((holdsFrom_bitAt (decide (b &&& 0xFFFF#64 ≠ 0)) (n := 37) (by decide)).join
    5 32 middle (by omega) rfl).join 32 0 lowest (by omega) rfl
  apply BitVec.eq_of_toNat_eq
  rw [BitVec.or_comm, BitVec.or_comm (b &&& 0xFFFF#64), ← BitVec.or_assoc, word, expects, BitVec.toNat_ofNat]
  by_cases idle : b.toNat % 2 ^ 16 = 0
  · simp only [idle, ne_eq, not_true_eq_false, decide_false, Bool.toNat_false, if_true]
    omega
  · simp only [idle, ne_eq, not_false_eq_true, decide_true, Bool.toNat_true, if_false]
    omega

/-- The fields of a barrier object that is valid (R285). -/
structure HoldsBarrier (o : W64) (expected count phase ovr overruns : Nat) : Prop where
  expected : o.toNat % 2 ^ 16 = expected
  count : o.toNat / 2 ^ 16 % 2 ^ 16 = count
  phase : o.toNat / 2 ^ 32 % 16 = phase
  ovr : o.toNat / 2 ^ 36 % 2 = ovr
  overruns : o.toNat / 2 ^ 40 % 256 = overruns
  valid : o.getLsbD 37 = true

theorem barrierWord_holds {expected count phase ovr overruns : Nat} (expects : expected < 2 ^ 16) (counts : count < 2 ^ 16) (phases : phase < 16)
    (overrun : ovr < 2) (times : overruns < 256) :
    HoldsBarrier (barrierWord expected count phase ovr overruns) expected count phase ovr overruns := by
  have value : (barrierWord expected count phase ovr overruns).toNat =
      expected + 2 ^ 16 * count + 2 ^ 32 * phase + 2 ^ 36 * ovr + 2 ^ 37 + 2 ^ 40 * overruns := by
    rw [barrierWord, BitVec.toNat_ofNat]
    omega
  have bit : (barrierWord expected count phase ovr overruns).getLsbD 37 = true := by
    rw [BitVec.getLsbD, Nat.testBit_eq_decide_div_mod_eq, value]
    exact decide_eq_true (by omega)
  constructor
  case valid => exact bit
  all_goals
    rw [value]
    omega

/-- ARRIVE on a valid object: it counts, ends the phase, or ends it and reports the overrun. -/
theorem wordOp_arrive {q : QOp} {d : SDst} {a : SSrc} {n : BitVec 4} {w : BitVec 3} {old : List Byte} {expected count phase ovr overruns : Nat}
    (time : W64) (op : q.op = .arrive d a n w) (arrivals : q.b = n.setWidth 64)
    (object : HoldsBarrier (ofBytes 64 (old.take 8)) expected count phase ovr overruns) :
    wordOp q old time =
      if count + n.toNat < expected then (bytesOf 8 (barrierWord expected (count + n.toNat) phase ovr overruns) ++ old.drop 8,
        BitVec.ofNat 64 (phase + 16 + 2 ^ 16 * (count + n.toNat)), 0)
      else if count + n.toNat = expected then
        (bytesOf 8 (barrierWord expected 0 ((phase + 1) % 16) ovr overruns) ++ bytesOf 8 time, BitVec.ofNat 64 (phase + 16 + 32), 0)
      else (bytesOf 8 (barrierWord expected 0 ((phase + 1) % 16) 1 (min (overruns + 1) 255)) ++ bytesOf 8 time,
        BitVec.ofNat 64 (phase + 32), .bovr) := by
  have number : q.b.toNat = n.toNat := by rw [arrivals, BitVec.toNat_setWidth_of_le (by decide)]
  obtain ⟨rfl, rfl, rfl, rfl, rfl, valid⟩ := object
  simp only [wordOp, op, number, valid, Bool.true_eq_false, if_false]
  rfl

/-- Settles O27: SEND and ARBITRATE by the states they leave, and each word by what its operation makes of the old one. -/
theorem atomicsAreSentArbitratedAndPerformed : Obligations.AtomicsAreSentArbitratedAndPerformed := by
  unfold Obligations.AtomicsAreSentArbitratedAndPerformed
  refine ⟨?send, ?arbitrate, fun q old time n word => wordOp_atomic time word, ?binit, ?arrive⟩
  case send =>
    intro s t g q x home known head noRead noWrite unsent fresh prepared memory
    refine ⟨_, exec_send known head noRead noWrite unsent fresh prepared memory, rfl, ?_⟩
    rw [beforeArbiter, State.onOrd_core, State.setHead, State.onCore_core_same _ _ _ known]
    exact congrArg (fun f : Files × Flow => { q with sent := true } :: f.2.mem.tail) (access_ok_filesFlow prepared g)
  case arbitrate =>
    intro s i g line q qs dst known waits queue sent whole covers word
    refine ⟨_, exec_arbitrate waits queue sent whole covers, qComplete_ord _ _ _, ?_, fun writable => ?_⟩
    · rw [qComplete_length (q := answered q _ _) _ known word, onNeed_mem, wordPerformed_mem, queue, List.tail_cons]
    · rw [old_of_files (qComplete_files _ _ known), qWrite_word (q := answered q _ _) _ word, putS_old_same _ _ writable, answered_low]
  case binit =>
    intro q d a b w old time op
    simp only [wordOp, op]
    exact congrArg (fun x : W64 => (bytesOf 8 x ++ bytesOf 8 time, (ofBytes 64 (old.take 8) : W64), (0 : Flg))) (binitWord_eq_fields q.b)
  case arrive =>
    intro q d a n w old time expected count phase ovr overruns op arrivals expects counts phases overrun times object
    have holds := barrierWord_holds expects counts phases overrun times
    rw [← object] at holds
    rw [wordOp_arrive time op arrivals holds]
    refine ⟨fun below => if_pos below, fun full => ?_, fun above => ?_⟩
    · rw [if_neg full.not_lt, if_pos full]
    · rw [if_neg above.not_gt, if_neg above.ne']

end Sys2Proof.Proofs
end

section
/-! The host's accesses: memory through the decoders, the hub region, the register blocks and a function's memory (R279, R298, R359, R363 to
R365, R405). -/

namespace Sys2Proof.Proofs

open Sys2Proof.Machine Sys2Proof.Laws

/-! ## Registers (R364, R365) -/

/-- Up to 8 bytes from a register's offset are that register's own. -/
theorem regBytes_of_one (f : Nat → W64) {o n : Nat} (aligned : o % 8 = 0) (one : n ≤ 8) : regBytes f o n = (bytesOf 8 (f o)).take n := by
  rw [bytesOf, ← List.map_take, List.take_range, Nat.min_eq_left one]
  refine List.map_congr_left fun i listed => ?_
  have below : i < n := List.mem_range.mp listed
  have register : (o + i) / 8 * 8 = o := by omega
  have place : (o + i) % 8 = i := by omega
  rw [register, place, byteAt]

theorem blockWord_trbase (s : State) (fn : Option Nat) (p : Nat) : s.blockWord fn p 0x40 = (s.part p).trbase := rfl

theorem pfWord_status (s : State) : s.pfWord 0 = BitVec.ofNat 64 ((if s.hub.ready then 1 else 0) + if s.hub.holdover then 2 else 0) := rfl

/-! ## HOST_READ (R298, R405) -/

theorem exec_hostRead_memory (s : State) (pa n : Nat) :
    exec (.hostRead { via := .memory, addr := pa } n) s = .next (s.gave ((List.range n).map fun i => s.hostByte (pa + i))) := rfl

section Block

variable {s : State} {fn : Nat} (function : fn < 64)
include function

theorem exec_hostRead_unserved {a : Nat} (inside : a < 2 ^ 20) (unserved : s.partOfVf fn = none) (n : Nat) :
    exec (.hostRead { via := .block fn, addr := a } n) s = .next (s.gave (List.replicate n 0)) := by
  have reaches : ¬ (64 ≤ fn ∨ 2 ^ 20 ≤ a) := by omega
  unfold exec
  refine event_eq_next.mpr ?_
  simp only [if_neg reaches, unserved]

/-- A function's read below the counter banks changes nothing. -/
theorem exec_hostRead_served {a p : Nat} (plain : a < 0x10000) (serves : s.partOfVf fn = some p) (n : Nat) :
    exec (.hostRead { via := .block fn, addr := a } n) s = .next (s.gave (regBytes (s.blockWord (some fn) p) a n)) := by
  have reaches : ¬ (64 ≤ fn ∨ 2 ^ 20 ≤ a) := by omega
  have noBank : ¬ (0x10000 ≤ a ∧ a < 0x14000) := by omega
  unfold exec
  refine event_eq_next.mpr ?_
  simp only [if_neg reaches, serves, if_neg noBank]

end Block

theorem exec_hostRead_pfRegs (s : State) {a : Nat} (inside : a < 2 ^ 16) (n : Nat) :
    exec (.hostRead { via := .pfRegs, addr := a } n) s = .next (s.gave (regBytes s.pfWord a n)) := by
  unfold exec
  exact event_eq_next.mpr (if_neg inside.not_ge)

theorem hostByte_of_device {pa : Nat} (s : State) (noRegion : hubRegion pa = false) (noHost : inHost pa = false) :
    s.hostByte pa = if inMemory pa then amGet 0 (s.ord.view (homeDie pa)) pa else 0xFF := by
  simp [State.hostByte, noRegion, noHost]

/-! ## HOST_WRITE (R279, R298, R359) -/

/-- What no change of a partition's entry touches, a write of the hub region keeps. -/
theorem regionWrite_keeps {β : Type} (view : State → β) (keeps : ∀ s p f, view (s.onPart p f) = view s) (bs : List Byte) (s : State) (o : Nat) :
    view (s.regionWrite o bs) = view s := by
  induction bs generalizing s o with
  | nil => rfl
  | cons b bs rest =>
    rw [State.regionWrite, rest]
    split
    · exact keeps s _ _
    · rfl

/-- Some bytes of one line are not split. -/
theorem splitLines_of_line {a : Nat} {bs : List Byte} (nonempty : bs ≠ []) (line : a % 64 + bs.length ≤ 64) (n : Nat) :
    splitLines (n + 2) a bs = [(a, bs)] := by
  obtain ⟨b, cs, rfl⟩ := List.exists_cons_of_ne_nil nonempty
  have whole : (b :: cs).length ≤ 64 - a % 64 := by omega
  rw [splitLines, List.take_of_length_le whole, List.drop_of_length_le whole, splitLines]
  · exact nofun
  · exact nofun

section Write

variable {s : State} {pa : Nat} (p : Nat) (h : Bool) (bs : List Byte)

theorem exec_hostWrite_region (region : hubRegion pa = true) :
    exec (.hostWrite p pa h bs) s = .next (s.regionWrite (pa - 0x100000000000) bs) := by
  unfold exec
  exact event_eq_next.mpr (if_pos region)

variable (noRegion : hubRegion pa = false)
include noRegion

theorem exec_hostWrite_host (host : inHost pa = true) :
    exec (.hostWrite p pa h bs) s = .next (s.onOrd fun o => { o with host := amWrite o.host pa bs }) := by
  unfold exec
  refine event_eq_next.mpr ?_
  simp [noRegion, host]

theorem exec_hostWrite_memory {t : State} (noHost : inHost pa = false) (memory : inMemory pa = true)
    (lines : s.hostLines p h (splitLines (bs.length / 64 + 2) pa bs) = some t) : exec (.hostWrite p pa h bs) s = .next t := by
  unfold exec
  refine event_eq_next.mpr ?_
  simpa [noRegion, noHost, memory] using lines

end Write

section Unmapped

variable {s : State} (unloaded : ∀ q, q < 64 → (s.part q).loaded = none)
include unloaded

theorem pagesAt_of_unloaded {q : Nat} (inside : q < 64) (pa : Nat) : s.pagesAt q pa = [] := by
  simp [State.pagesAt, unloaded q inside]

/-- A line that no loaded partition maps is written at its home die (log entry 90). -/
theorem hostMem_of_unloaded (p pa : Nat) (h : Bool) (bs : List Byte) : s.hostMem p pa h bs = some (s.hubWrite (homeDie pa) pa bs) := by
  have own : (if p < 64 then s.pagesAt p pa else []) = [] := ite_eq_right_iff.mpr fun inside => pagesAt_of_unloaded unloaded inside pa
  have unmapped : ¬ ((List.range 64).any fun q => s.pagesAt q pa ≠ []) = true := by
    simpa using fun q inside => pagesAt_of_unloaded unloaded inside pa
  rw [State.hostMem, own, List.find?_nil]
  exact if_neg unmapped

end Unmapped

/-! ## VF_MEMORY_ACCESS (R363) -/

theorem barRead_of_ok {s t : State} {p : Nat} {va : W64} {x : Xlated} (n : Nat) (translated : s.accessFor p none none va needR .memory = .ok t x) :
    s.barRead p va n = some ((List.range n).map fun i => t.hostByte (x.pa + i), t) := by
  simp [State.barRead, translated]

section Function

variable {s : State} {fn va : Nat} {bs : List Byte} (function : fn < 64) (inside : va + bs.length ≤ 2 ^ 46)
include function inside

theorem exec_vfMemoryAccess_unserved (unserved : s.partOfVf fn = none) (wr : Bool) :
    exec (.vfMemoryAccess fn va wr bs) s = .next (if wr then s else s.gave (List.replicate bs.length 0xFF)) := by
  have reaches : ¬ (64 ≤ fn ∨ 2 ^ 46 < va + bs.length) := by omega
  unfold exec
  refine event_eq_next.mpr ?_
  simp only [if_neg reaches, unserved]

theorem exec_vfMemoryAccess_served {p : Nat} {wr : Bool} {r : List Byte × State} (serves : s.partOfVf fn = some p)
    (lines : s.barLines p wr (splitLines (bs.length / 64 + 2) va bs) [] = some r) :
    exec (.vfMemoryAccess fn va wr bs) s = .next (if wr then r.2 else r.2.gave r.1) := by
  have reaches : ¬ (64 ≤ fn ∨ 2 ^ 46 < va + bs.length) := by omega
  unfold exec
  refine event_eq_next.mpr ?_
  simp only [if_neg reaches, serves, lines, Option.map_some]

end Function

/-- Settles O47: each access by the branch of its event that it takes, and one within a line by that line alone. -/
theorem hostAccessesReachTheirTargets : Obligations.HostAccessesReachTheirTargets := by
  unfold Obligations.HostAccessesReachTheirTargets
  refine ⟨exec_hostRead_memory, ?unserved, ?block, ?registers, fun s pa noRegion noHost => hostByte_of_device s noRegion noHost, ?host, ?region,
    ?memory, ?noFunction, ?function⟩
  case unserved =>
    intro s fn a n function inside unserved
    exact exec_hostRead_unserved function inside unserved n
  case block =>
    intro s fn p n function one serves
    rw [exec_hostRead_served function (by decide) serves n, regBytes_of_one _ (by decide) one, blockWord_trbase, State.gave]
  case registers =>
    intro s n one
    rw [exec_hostRead_pfRegs s (by decide) n, regBytes_of_one _ (by decide) one, pfWord_status, State.gave]
  case host =>
    intro s p pa h bs noRegion host
    exact exec_hostWrite_host p h bs noRegion host
  case region =>
    intro s p pa h bs region
    exact ⟨_, exec_hostWrite_region p h bs region, regionWrite_keeps State.cores State.onPart_cores bs s _,
      regionWrite_keeps State.ord State.onPart_ord bs s _, regionWrite_keeps State.time State.onPart_time bs s _⟩
  case memory =>
    intro s p pa h bs noRegion noHost memory unloaded nonempty line
    refine exec_hostWrite_memory p h bs noRegion noHost memory ?_
    simp only [splitLines_of_line nonempty line, State.hostLines, hostMem_of_unloaded unloaded]
  case noFunction =>
    intro s fn va bs function inside unserved
    exact ⟨exec_vfMemoryAccess_unserved function inside unserved true, exec_vfMemoryAccess_unserved function inside unserved false⟩
  case function =>
    intro s t fn va p bs x function inside serves nonempty line translated
    refine exec_vfMemoryAccess_served (wr := false) (r := (_, t)) function inside serves ?_
    simp only [splitLines_of_line nonempty line, State.barLines, barRead_of_ok bs.length translated, List.nil_append, Bool.false_eq_true, if_false]

end Sys2Proof.Proofs
end

section
/-! DELIVER and APPLY: what placing a write's bytes leaves in a view, and the application of a write from an apply buffer (R291 to R293). -/

namespace Sys2Proof.Proofs

open Sys2Proof.Machine Sys2Proof.Laws

/-! ## The bytes of a write in a view (R293) -/

/-- One byte placed in a view and its keys, where its key is the greater. -/
def placeByte (k : ByteKey) (v : AMap Byte × AMap ByteKey) (c : Nat × Byte) : AMap Byte × AMap ByteKey :=
  if Order.keyLt (amGet Order.keyZero v.2 c.1) k then (amSet 0 v.1 c.1 c.2, amSet Order.keyZero v.2 c.1 k) else v

theorem place_cons (k : ByteKey) (c : Nat × Byte) (bs : List (Nat × Byte)) (v : AMap Byte × AMap ByteKey) :
    Order.place k (c :: bs) v = Order.place k bs (placeByte k v c) := rfl

section PlaceByte

variable {k : ByteKey} {v : AMap Byte × AMap ByteKey} {c : Nat × Byte} {a : Nat}

theorem placeByte_wf (bytes : amWf 0 v.1 = true) : amWf 0 (placeByte k v c).1 = true := by
  unfold placeByte
  split
  · exact amWf_amSet _ _ bytes
  · exact bytes

theorem placeByte_keys_wf (keys : amWf Order.keyZero v.2 = true) : amWf Order.keyZero (placeByte k v c).2 = true := by
  unfold placeByte
  split
  · exact amWf_amSet _ _ keys
  · exact keys

theorem placeByte_other (bytes : amWf 0 v.1 = true) (other : a ≠ c.1) : amGet 0 (placeByte k v c).1 a = amGet 0 v.1 a := by
  unfold placeByte
  split
  · exact amGet_amSet_other _ _ _ bytes other
  · rfl

theorem placeByte_keys_other (keys : amWf Order.keyZero v.2 = true) (other : a ≠ c.1) :
    amGet Order.keyZero (placeByte k v c).2 a = amGet Order.keyZero v.2 a := by
  unfold placeByte
  split
  · exact amGet_amSet_other _ _ _ keys other
  · rfl

end PlaceByte

/-- What a view holds at an address: the byte and its key. -/
def heldAt (v : AMap Byte × AMap ByteKey) (a : Nat) : Byte × ByteKey := (amGet 0 v.1 a, amGet Order.keyZero v.2 a)

theorem heldAt_placeByte_same {k : ByteKey} {v : AMap Byte × AMap ByteKey} (c : Nat × Byte) (bytes : amWf 0 v.1 = true)
    (keys : amWf Order.keyZero v.2 = true) :
    heldAt (placeByte k v c) c.1 = if Order.keyLt (amGet Order.keyZero v.2 c.1) k then (c.2, k) else heldAt v c.1 := by
  unfold placeByte
  split
  · exact Prod.ext (amGet_amSet_same _ _ bytes) (amGet_amSet_same _ _ keys)
  · rfl

/-- A write leaves every byte that it does not list. -/
theorem place_unlisted (k : ByteKey) {bs : List (Nat × Byte)} {v : AMap Byte × AMap ByteKey} {a : Nat} (bytes : amWf 0 v.1 = true)
    (unlisted : ∀ c ∈ bs, c.1 ≠ a) : amGet 0 (Order.place k bs v).1 a = amGet 0 v.1 a := by
  induction bs generalizing v with
  | nil => rfl
  | cons c bs rest =>
    rw [place_cons, rest (placeByte_wf bytes) fun x listed => unlisted x (List.mem_cons_of_mem c listed)]
    exact placeByte_other bytes (unlisted c List.mem_cons_self).symm

theorem place_keys_unlisted (k : ByteKey) {bs : List (Nat × Byte)} {v : AMap Byte × AMap ByteKey} {a : Nat}
    (keys : amWf Order.keyZero v.2 = true) (unlisted : ∀ c ∈ bs, c.1 ≠ a) :
    amGet Order.keyZero (Order.place k bs v).2 a = amGet Order.keyZero v.2 a := by
  induction bs generalizing v with
  | nil => rfl
  | cons c bs rest =>
    rw [place_cons, rest (placeByte_keys_wf keys) fun x listed => unlisted x (List.mem_cons_of_mem c listed)]
    exact placeByte_keys_other keys (unlisted c List.mem_cons_self).symm

/-- Each byte that a write lists once is placed, with its key, where that key is the greater, and else stays as it is. -/
theorem place_listed (k : ByteKey) {bs : List (Nat × Byte)} {v : AMap Byte × AMap ByteKey} {a : Nat} {b : Byte}
    (distinct : (bs.map Prod.fst).Nodup) (bytes : amWf 0 v.1 = true) (keys : amWf Order.keyZero v.2 = true) (listed : (a, b) ∈ bs) :
    heldAt (Order.place k bs v) a = if Order.keyLt (amGet Order.keyZero v.2 a) k then (b, k) else heldAt v a := by
  induction bs generalizing v with
  | nil => cases listed
  | cons c bs rest =>
    obtain ⟨once, distinct⟩ := List.nodup_cons.mp distinct
    rw [place_cons]
    cases listed with
    | head =>
      have unlisted : ∀ x ∈ bs, x.1 ≠ a := fun x later same => once (List.mem_map.mpr ⟨x, later, same⟩)
      rw [← heldAt_placeByte_same (a, b) bytes keys]
      exact Prod.ext (place_unlisted k (placeByte_wf bytes) unlisted) (place_keys_unlisted k (placeByte_keys_wf keys) unlisted)
    | tail _ later =>
      have other : a ≠ c.1 := fun same => once (List.mem_map.mpr ⟨(a, b), later, same⟩)
      rw [rest distinct (placeByte_wf bytes) (placeByte_keys_wf keys) later, placeByte_keys_other keys other, heldAt, heldAt,
        placeByte_other bytes other, placeByte_keys_other keys other]

/-! ## A write taken into a view -/

/-- The key of a write (R291). -/
def keyOf (w : Wr) : ByteKey := { sum := clkSum w.stamp, die := w.die, own := clk w.stamp w.die }

section IntoView

variable (o : Order) (w : Wr) {j : Nat}

theorem intoView_view_same (inside : j < 4) : (o.intoView j w).view j = (Order.place (keyOf w) w.bytes (o.view j, o.viewKeys j)).1 :=
  vget_vset_same _ _ _ _ inside

theorem intoView_viewKeys_same (inside : j < 4) :
    (o.intoView j w).viewKeys j = (Order.place (keyOf w) w.bytes (o.view j, o.viewKeys j)).2 :=
  vget_vset_same _ _ _ _ inside

theorem intoView_view_other {i : Nat} (other : i ≠ j) : (o.intoView j w).view i = o.view i := vget_vset_other _ _ _ _ _ other

theorem intoView_viewKeys_other {i : Nat} (other : i ≠ j) : (o.intoView j w).viewKeys i = o.viewKeys i := vget_vset_other _ _ _ _ _ other

theorem intoView_unlisted (inside : j < 4) (bytes : amWf 0 (o.view j) = true) {a : Nat} (unlisted : ∀ c ∈ w.bytes, c.1 ≠ a) :
    amGet 0 ((o.intoView j w).view j) a = amGet 0 (o.view j) a := by
  rw [intoView_view_same o w inside]
  exact place_unlisted (v := (o.view j, o.viewKeys j)) _ bytes unlisted

theorem intoView_listed (inside : j < 4) (distinct : (w.bytes.map Prod.fst).Nodup) (bytes : amWf 0 (o.view j) = true)
    (keys : amWf Order.keyZero (o.viewKeys j) = true) {a : Nat} {b : Byte} (listed : (a, b) ∈ w.bytes) :
    heldAt ((o.intoView j w).view j, (o.intoView j w).viewKeys j) a =
      if Order.keyLt (amGet Order.keyZero (o.viewKeys j) a) (keyOf w) then (b, keyOf w) else heldAt (o.view j, o.viewKeys j) a := by
  rw [intoView_view_same o w inside, intoView_viewKeys_same o w inside]
  exact place_listed (v := (o.view j, o.viewKeys j)) _ distinct bytes keys listed

end IntoView

/-! ## DELIVER and APPLY (R292) -/

theorem exec_deliver {s : State} {i j : Nat} {w : Wr} {ws : List Wr} (source : i < 4) (target : j < 4) (apart : i ≠ j)
    (oldest : vget [] s.ord.chan (4 * i + j) = w :: ws) : exec (.deliver i j) s = .next { s with ord := { s.ord with
      chan := vset s.ord.chan (4 * i + j) ws, buf := vset s.ord.buf j (vget [] s.ord.buf j ++ [w]) } } := by
  unfold exec execDeliver
  refine event_eq_next.mpr ?_
  simp only [Order.deliver, source, target, apart, oldest, ne_eq, not_false_eq_true, and_self, if_true, Option.map_some]

/-- A write is deliverable where its own entry is the next of its die and every other entry is covered. -/
theorem deliverable_iff (o : Order) (j : Nat) {w : Wr} (inside : w.die < 4) : o.deliverable j w = true ↔
    clk w.stamp w.die = clk (o.dieClock j) w.die + 1 ∧ ∀ i, i < 4 → i ≠ w.die → clk w.stamp i ≤ clk (o.dieClock j) i := by
  simp only [Order.deliverable, List.all_eq_true, List.mem_range]
  constructor
  · intro all
    refine ⟨by simpa using all w.die inside, fun i known other => by simpa [other] using all i known⟩
  · intro ⟨own, others⟩ k known
    by_cases same : k = w.die
    · simp [same, own]
    · simp [same, others k known same]

/-- The state of the ordering machine after an application. -/
def applied (o : Order) (j k : Nat) (w : Wr) : Order :=
  ({ o with buf := vset o.buf j ((vget [] o.buf j).eraseIdx k)
            vc := vset o.vc j (clkPut (o.dieClock j) w.die (clk w.stamp w.die)) } : Order).intoView j w

theorem applyAt_eq {o : Order} {j k : Nat} {w : Wr} (inside : j < 4) (waits : (vget [] o.buf j)[k]? = some w) :
    o.applyAt j k = if o.deliverable j w then some (applied o j k w) else none := by
  simp only [Order.applyAt, if_pos inside, waits]
  rfl

theorem exec_apply {s : State} {j k : Nat} {w : Wr} (inside : j < 4) (waits : (vget [] s.ord.buf j)[k]? = some w) :
    exec (.apply j k) s =
      event "APPLY" ((if s.ord.deliverable j w then some (applied s.ord j k w) else none).map fun o => { s with ord := o }) := by
  rw [← applyAt_eq inside waits]
  rfl

theorem clkPut_entry (v w : Clock) (k : Nat) : clkPut v k (clk w k) = vset v k (vget 0 w k) := by
  rw [clkPut, clk, BitVec.ofNat_toNat, BitVec.setWidth_eq]

/-- Settles O29: DELIVER by its one branch; APPLY by whether the write is deliverable, and then by what its bytes leave in the die's view. -/
theorem deliverAndApplyTakeWritesInOrder : Obligations.DeliverAndApplyTakeWritesInOrder := by
  unfold Obligations.DeliverAndApplyTakeWritesInOrder
  refine ⟨fun s i j w ws source target apart oldest => exec_deliver source target apart oldest, ?_⟩
  intro s j k w inside waits die
  have may := deliverable_iff s.ord j die
  have outcome := exec_apply inside waits
  refine ⟨fun early => ?_, fun next => ⟨applied s.ord j k w, ?_, ?_, ?_, ?_, ?_, ?_⟩⟩
  · rw [outcome, if_neg (mt may.mp early)]
    rfl
  · rw [outcome, if_pos (may.mpr next)]
    rfl
  · exact vget_vset_same _ _ _ _ inside
  · exact (vget_vset_same _ _ _ _ inside).trans (clkPut_entry ..)
  · exact fun i _ other => ⟨intoView_view_other _ _ other, vget_vset_other _ _ _ _ _ other⟩
  · exact fun bytes a unlisted => intoView_unlisted _ w inside bytes unlisted
  · intro distinct bytes keys a b listed
    refine (congrArg Prod.fst (intoView_listed _ w inside distinct bytes keys listed)).trans ?_
    by_cases greater : Order.keyLt (amGet Order.keyZero (s.ord.viewKeys j) a) (keyOf w) = true
    · exact (congrArg Prod.fst (if_pos greater)).trans (if_pos greater).symm
    · exact (congrArg Prod.fst (if_neg greater)).trans (if_neg greater).symm

end Sys2Proof.Proofs
end

section
/-! WRITE: a line of a queue operation or of a copy command performs at the die of its core, and what performing a write changes and stamps (R291,
R293, R295). -/

namespace Sys2Proof.Proofs

open Sys2Proof.Machine Sys2Proof.Laws

/-! ## Performing a write (R291) -/

/-- The stamp of the next write of a die: its clock with its own entry advanced by one. -/
def nextStamp (o : Order) (d : Nat) : Clock := clkPut (o.dieClock d) d (clk (o.dieClock d) d + 1)

/-- The write that a die performs next. -/
def nextWrite (o : Order) (d : Nat) (bs : List (Nat × Byte)) : Wr := { die := d, stamp := nextStamp o d, bytes := bs }

/-- The write stamped, noted in the log and taken into the view of its die, before it is on a channel. -/
def stamped (o : Order) (d : Nat) (bs : List (Nat × Byte)) : Order :=
  ({ o with vc := vset o.vc d (nextStamp o d), log := vset o.log d (vget [] o.log d ++ [nextWrite o d bs]) } : Order).intoView d (nextWrite o d bs)

/-- A copy of a write on the channel from its die to another. -/
def onChannel (d : Nat) (w : Wr) (o : Order) (j : Nat) : Order :=
  if j = d then o else { o with chan := vset o.chan (4 * d + j) (vget [] o.chan (4 * d + j) ++ [w]) }

theorem perform_eq (o : Order) (d : Nat) (bs : List (Nat × Byte)) :
    o.perform d bs = (List.range 4).foldl (onChannel d (nextWrite o d bs)) (stamped o d bs) := rfl

/-- What the channels do not hold, performing a write leaves as the stamping has made it. -/
theorem perform_keeps {β : Type} (part : Order → β) (apart : ∀ o c, part { o with chan := c } = part o) (o : Order) (d : Nat)
    (bs : List (Nat × Byte)) : part (o.perform d bs) = part (stamped o d bs) := by
  rw [perform_eq]
  refine foldl_keeps part (fun p j => ?_) _ _
  unfold onChannel
  split
  · rfl
  · exact apart ..

theorem chan_onChannel_other {d i j k : Nat} {w : Wr} (o : Order) (other : 4 * i + j ≠ 4 * d + k) :
    vget [] (onChannel d w o k).chan (4 * i + j) = vget [] o.chan (4 * i + j) := by
  unfold onChannel
  split
  · rfl
  · exact vget_vset_other _ _ _ _ _ other

theorem chan_onChannel_same {d j : Nat} {w : Wr} (o : Order) (die : d < 4) (inside : j < 4) (other : j ≠ d) :
    vget [] (onChannel d w o j).chan (4 * d + j) = vget [] o.chan (4 * d + j) ++ [w] := by
  rw [onChannel, if_neg other]
  exact vget_vset_same _ _ _ _ (by omega)

/-- A run over channels leaves those that it does not list. -/
theorem chan_foldl_other {d i j : Nat} {w : Wr} {ks : List Nat} (o : Order) (other : ∀ k ∈ ks, 4 * i + j ≠ 4 * d + k) :
    vget [] (ks.foldl (onChannel d w) o).chan (4 * i + j) = vget [] o.chan (4 * i + j) := by
  induction ks generalizing o with
  | nil => rfl
  | cons k ks rest =>
    rw [List.foldl_cons, rest _ fun x listed => other x (List.mem_cons_of_mem k listed)]
    exact chan_onChannel_other o (other k List.mem_cons_self)

/-- A run over channels appends the write once to each that it lists once. -/
theorem chan_foldl_listed {d j : Nat} {w : Wr} {ks : List Nat} (o : Order) (die : d < 4) (inside : j < 4) (other : j ≠ d) (once : ks.Nodup)
    (listed : j ∈ ks) : vget [] (ks.foldl (onChannel d w) o).chan (4 * d + j) = vget [] o.chan (4 * d + j) ++ [w] := by
  induction ks generalizing o with
  | nil => cases listed
  | cons k ks rest =>
    obtain ⟨fresh, once⟩ := List.nodup_cons.mp once
    rw [List.foldl_cons]
    by_cases same : k = j
    · subst same
      rw [chan_foldl_other _ fun x later => by have : k ≠ x := fun same => fresh (same ▸ later); omega]
      exact chan_onChannel_same o die inside other
    · rw [rest _ once ((List.mem_cons.mp listed).resolve_left (Ne.symm same)), chan_onChannel_other o (by omega)]

section Perform

variable (o : Order) {d : Nat} (bs : List (Nat × Byte))

theorem perform_chan_same {j : Nat} (die : d < 4) (inside : j < 4) (other : j ≠ d) :
    vget [] (o.perform d bs).chan (4 * d + j) = vget [] o.chan (4 * d + j) ++ [nextWrite o d bs] := by
  rw [perform_eq, chan_foldl_listed _ die inside other List.nodup_range (List.mem_range.mpr inside)]
  rfl

theorem perform_chan_other {i j : Nat} (inside : j < 4) (other : i ≠ d) :
    vget [] (o.perform d bs).chan (4 * i + j) = vget [] o.chan (4 * i + j) := by
  rw [perform_eq, chan_foldl_other _ fun k listed => by have := List.mem_range.mp listed; omega]
  rfl

theorem perform_dieClock_same (die : d < 4) : (o.perform d bs).dieClock d = nextStamp o d :=
  (perform_keeps (fun p => p.dieClock d) (fun _ _ => by exact rfl) o d bs).trans (vget_vset_same _ _ _ _ die)

theorem perform_dieClock_other {j : Nat} (other : j ≠ d) : (o.perform d bs).dieClock j = o.dieClock j :=
  (perform_keeps (fun p => p.dieClock j) (fun _ _ => by exact rfl) o d bs).trans (vget_vset_other _ _ _ _ _ other)

theorem perform_log_same (die : d < 4) : vget [] (o.perform d bs).log d = vget [] o.log d ++ [nextWrite o d bs] :=
  (perform_keeps (fun p => vget [] p.log d) (fun _ _ => by exact rfl) o d bs).trans (vget_vset_same _ _ _ _ die)

theorem perform_log_other {j : Nat} (other : j ≠ d) : vget [] (o.perform d bs).log j = vget [] o.log j :=
  (perform_keeps (fun p => vget [] p.log j) (fun _ _ => by exact rfl) o d bs).trans (vget_vset_other _ _ _ _ _ other)

theorem perform_view (j : Nat) : (o.perform d bs).view j = (o.intoView d (nextWrite o d bs)).view j :=
  perform_keeps (fun p => p.view j) (fun _ _ => by exact rfl) o d bs

theorem perform_viewKeys (j : Nat) : (o.perform d bs).viewKeys j = (o.intoView d (nextWrite o d bs)).viewKeys j :=
  perform_keeps (fun p => p.viewKeys j) (fun _ _ => by exact rfl) o d bs

end Perform

/-! ## Keys (R291) -/

theorem keyLt_iff (a b : ByteKey) : Order.keyLt a b = true ↔ a.sum < b.sum ∨ (a.sum = b.sum ∧ a.die < b.die) := by
  simp [Order.keyLt]

/-- A stamp that is at least another in every entry, and greater in one, has the greater sum. -/
theorem clkSum_lt {a b : Clock} (least : ∀ k, k < 4 → clk a k ≤ clk b k) (greater : ∃ k, k < 4 ∧ clk a k < clk b k) : clkSum a < clkSum b := by
  obtain ⟨k, inside, greater⟩ := greater
  have h0 := least 0 (by decide)
  have h1 := least 1 (by decide)
  have h2 := least 2 (by decide)
  have h3 := least 3 (by decide)
  unfold clkSum
  interval_cases k <;> omega

theorem clk_le_clkSum (v : Clock) {k : Nat} (inside : k < 4) : clk v k ≤ clkSum v := by
  unfold clkSum
  interval_cases k <;> omega

theorem nextStamp_eq (o : Order) (d : Nat) : nextStamp o d = vset (o.dieClock d) d (vget 0 (o.dieClock d) d + 1) := by
  rw [nextStamp, clkPut, clk, BitVec.ofNat_add, BitVec.ofNat_toNat, BitVec.setWidth_eq]
  rfl

/-- The own entry of a stamp is positive as long as it does not wrap. -/
theorem nextStamp_positive {o : Order} {d : Nat} (die : d < 4) (fits : clk (o.dieClock d) d + 1 < 2 ^ 64) : 0 < clkSum (nextStamp o d) := by
  have own : clk (nextStamp o d) d = clk (o.dieClock d) d + 1 := by
    rw [nextStamp, clkPut, clk, vget_vset_same _ _ _ _ die, BitVec.toNat_ofNat, Nat.mod_eq_of_lt fits]
  exact Nat.lt_of_lt_of_le (own ▸ Nat.succ_pos _) (clk_le_clkSum _ die)

/-! ## WRITE (R293, R295) -/

/-- A store has no register to write. -/
theorem qWrite_store (c : CoreSt) {q : QOp} (writes : q.writes = true) : (c.qWrite q).1 = c := by
  unfold QOp.writes at writes
  unfold CoreSt.qWrite
  generalize q.op = i at writes ⊢
  cases i
  case tst | xtst => rfl
  all_goals cases writes

theorem qSettle_files {s : State} {g : Nat} {q : QOp} (known : g < 288) (writes : q.writes = true) :
    ((s.qSettle g q).core g).files = (s.core g).files := by
  unfold State.qSettle
  split
  · rw [qComplete_files s q known, qWrite_store _ writes]
  · rw [State.setHead, State.onCore_core_same _ _ _ known]

/-- The line of a queue operation has been counted and has performed, and a fence waits for it (R265, R299). -/
def linePerformed (t : State) (g : Nat) (home : Option Nat) (cells : List (Nat × Byte)) : State :=
  let t := (t.countLine g home).onOrd fun o => o.perform (Config.dieOf g) cells
  t.onNeed g (ownNeed t.ord (Config.dieOf g))

theorem linePerformed_ord (t : State) (g : Nat) (home : Option Nat) (cells : List (Nat × Byte)) :
    (linePerformed t g home cells).ord = t.ord.perform (Config.dieOf g) cells :=
  congrArg (fun o : Order => o.perform (Config.dieOf g) cells) (countLine_ord t g home)

theorem linePerformed_core (t : State) {g : Nat} (home : Option Nat) (cells : List (Nat × Byte)) (known : g < 288) :
    ((linePerformed t g home cells).core g).files = (t.core g).files ∧
      ((linePerformed t g home cells).core g).flow.mem = (t.core g).flow.mem := by
  rw [linePerformed, State.onNeed, State.onCore_core_same _ _ _ known, State.onOrd_core, countLine_core]
  exact ⟨rfl, rfl⟩

theorem exec_write_queue {s t : State} {g : Nat} {q : QOp} {x : Xlated} {home : Option Nat} (known : g < 288)
    (head : (s.core g).headOp = some q) (writes : q.writes = true) (left : q.done < q.lines)
    (prepared : s.access g q.lineVa needW .windows = .ok t x) (memory : x.loc = .mem home) : exec (.write g false) s =
    .next ((linePerformed t g home (cellsAt x.pa q.lineBytes)).qSettle g { q with done := q.done + 1, portAt := none }) := by
  have going : ¬ (!q.writes || decide (q.lines ≤ q.done)) = true := by simp [writes, left]
  unfold exec execWrite
  refine coreEvent_eq_next.mpr ⟨known, ?_⟩
  simp only [State.qStore, head, if_neg going, prepared, memory]
  rfl

theorem exec_write_copy {s t : State} {g : Nat} {x : XCmd} {y : Xlated} {l : W512} {home : Option Nat} (known : g < 288)
    (head : (s.core g).headCopy = some x) (plain : x.pipe = false) (line : x.line = some l) (covers : s.covered g x.served = true)
    (prepared : s.access g x.dstVa needW .windows = .ok t y) (memory : y.loc = .mem home) : exec (.write g true) s =
    .next (((t.onOrd fun o => o.perform (Config.dieOf g) (cellsAt y.pa (bytesOf 64 l))).onXneed g).setCopy g x.put) := by
  unfold exec execWrite
  refine coreEvent_eq_next.mpr ⟨known, ?_⟩
  simp [State.xStore, head, plain, line, State.mayPut, covers, prepared, memory]

theorem onXneed_core (s : State) {g : Nat} (known : g < 288) :
    ((s.onXneed g).core g).files = (s.core g).files ∧ ((s.onXneed g).core g).flow.xq = (s.core g).flow.xq := by
  rw [State.onXneed, State.onCore_core_same _ _ _ known]
  exact ⟨rfl, rfl⟩

/-- Settles O26: the lines of the two queues by what WRITE makes of them, and the write performed by its parts: clock, log, channels, view and key. -/
theorem writesPerformAtTheirDieAndAreStamped : Obligations.WritesPerformAtTheirDieAndAreStamped := by
  unfold Obligations.WritesPerformAtTheirDieAndAreStamped
  refine ⟨?queue, ?copy, ?perform, keyLt_iff, fun a b c d least greater => (keyLt_iff ..).mpr (.inl (clkSum_lt least greater))⟩
  case queue =>
    intro s t g q x home known head writes left prepared memory
    have same := access_ok_filesFlow prepared g
    obtain ⟨files, mem⟩ := linePerformed_core t home (cellsAt x.pa q.lineBytes) known
    refine ⟨_, exec_write_queue known head writes left prepared memory, ?_, ?_, fun more => ?_⟩
    · rw [qSettle_ord, linePerformed_ord]
    · exact (qSettle_files (q := { q with done := q.done + 1, portAt := none }) known writes).trans (files.trans (congrArg Prod.fst same))
    · rw [qSettle_of_more (q := { q with done := q.done + 1, portAt := none }) g more, State.setHead, State.onCore_core_same _ _ _ known]
      exact congrArg _ (congrArg List.tail (mem.trans (congrArg (fun p => p.2.mem) same)))
  case copy =>
    intro s t g x y l home known head plain line covers prepared memory
    have same := access_ok_filesFlow prepared g
    refine ⟨_, exec_write_copy known head plain line covers prepared memory, rfl, ?_⟩
    obtain ⟨files, xq⟩ := onXneed_core (t.onOrd fun o => o.perform (Config.dieOf g) (cellsAt y.pa (bytesOf 64 l))) known
    rw [State.setCopy, State.onCore_core_same _ _ _ known]
    exact ⟨files.trans (congrArg Prod.fst same), congrArg _ (congrArg List.tail (xq.trans (congrArg (fun p => p.2.xq) same)))⟩
  case perform =>
    intro o d bs die
    dsimp only
    rw [← nextStamp_eq]
    refine ⟨perform_dieClock_same o bs die, perform_log_same o bs die, fun j inside other => ?_, fun i j _ inside other =>
      perform_chan_other o bs inside other, ?_, ?_, ?_, ?_, ?_, ?_, fun bytes a unlisted => ?_, fun distinct bytes keys a b listed greater => ?_,
      fun fits => ?_⟩
    · exact ⟨perform_dieClock_other o bs other, perform_log_other o bs other,
        (perform_view o bs j).trans (intoView_view_other _ _ other), (perform_viewKeys o bs j).trans (intoView_viewKeys_other _ _ other),
        perform_chan_same o bs die inside other⟩
    · exact perform_keeps Order.buf (fun _ _ => by exact rfl) o d bs
    · exact perform_keeps Order.lclock (fun _ _ => by exact rfl) o d bs
    · exact perform_keeps Order.waiting (fun _ _ => by exact rfl) o d bs
    · exact perform_keeps Order.ingress (fun _ _ => by exact rfl) o d bs
    · exact perform_keeps Order.host (fun _ _ => by exact rfl) o d bs
    · exact perform_keeps Order.sent (fun _ _ => by exact rfl) o d bs
    · rw [perform_view]
      exact intoView_unlisted o (nextWrite o d bs) die bytes unlisted
    · rw [perform_view, perform_viewKeys]
      have placed := (intoView_listed o (nextWrite o d bs) die distinct bytes keys listed).trans (if_pos greater)
      exact ⟨congrArg Prod.fst placed, congrArg Prod.snd placed⟩
    · exact (keyLt_iff ..).mpr (.inl (nextStamp_positive die fits))

end Sys2Proof.Proofs
end

section
/-! The copy engines: the start and the completion of a command, the next line of the copy node that the hub runs, and the resumption of a parked one
(R293, R295, R328, R346, R351). -/

namespace Sys2Proof.Proofs

open Sys2Proof.Machine Sys2Proof.Claims Sys2Proof.Laws

/-! ## The start of a command (R295) -/

theorem pipe_of_plainCopy {x : XCmd} (plain : plainCopy x.op) : x.pipe = false := by
  unfold plainCopy at plain
  unfold XCmd.pipe
  generalize x.op = i at plain ⊢
  cases i
  case xcpy | xgo => rfl
  all_goals exact plain.elim

/-- No queue operation that a command has to wait for is left. -/
theorem none_earlier {c : CoreSt} {x : XCmd} (earlier : EarlierDone c x) : (c.flow.mem.any fun q => q.seq < x.seq) = false := by
  simpa [EarlierDone] using earlier

theorem exec_copyCommandStart {s : State} {g : Nat} {x : XCmd} {xs : List XCmd} (known : g < 288) (queue : (s.core g).flow.xq = x :: xs)
    (fresh : x.started = false) (sound : x.fault = none) (plain : plainCopy x.op) (fits : x.len < 2 ^ 32)
    (earlier : EarlierDone (s.core g) x) : exec (.copyCommandStart g) s =
    .next (s.setCopy g { x with started := true, vc := some (s.ord.dieClock (Config.dieOf g)) }) := by
  have going : ¬ (x.started || x.fault.isSome || (s.core g).flow.mem.any fun q => q.seq < x.seq) = true := by
    simp only [fresh, sound, none_earlier earlier, Option.isSome_none, Bool.or_self, Bool.false_eq_true, not_false_eq_true]
  unfold exec execCopyCommandStart
  refine coreEvent_eq_next.mpr ⟨known, ?_⟩
  simp only [queue, if_neg going]
  unfold plainCopy at plain
  split
  next put => exact (put ▸ plain).elim
  next get => exact (get ▸ plain).elim
  next => exact if_neg (Nat.not_le.mpr fits)

/-! ## The completion of a command (R346, R351) -/

/-- The core that a command has left: its lost latches raised, its token counting one less. -/
def copyLeft (x : XCmd) (c : CoreSt) : CoreSt :=
  let c := (c.raise 10 x.bundle (.iff x.lost .latch)).tokDone (some x.tok)
  { c with flow := { c.flow with xq := c.flow.xq.tail } }

/-- The queue whose block a command's step runs, or the first queue of the partition (log entry 17). -/
def copyQueue (s : State) (g : Nat) : Nat :=
  match (s.core g).step.bind fun st => s.node? st.part st.node with
  | some n => n.queue
  | none => (s.part (s.partOf g)).inForce.qfirst.toNat

/-- The decrement of a command's NODE goes before the arbiter. -/
def decremented (s : State) (g : Nat) (node : W64) : State :=
  s.onOrd fun o => { o with waiting := o.waiting ++
    [{ core := 288, line := 0, dec := some { part := s.partOf g, node := node, queue := copyQueue s g, die := Config.dieOf g, pred := none } }] }

theorem copyDone_eq (s : State) (g : Nat) (x : XCmd) : s.copyDone g x =
    if x.node = 0 then s.onCore g (copyLeft x) else decremented (s.onCore g (copyLeft x)) g x.node := rfl

section CopyLeft

variable (s : State) {g : Nat} (x : XCmd)

theorem copyLeft_step (c : CoreSt) : (copyLeft x c).step = c.step := by
  show ((c.raise 10 x.bundle (.iff x.lost .latch)).tokDone (some x.tok)).step = c.step
  rw [CoreSt.tokDone_step, CoreSt.raise_step]

theorem onCore_copyLeft_step : ((s.onCore g (copyLeft x)).core g).step = (s.core g).step :=
  onCore_keeps CoreSt.step (copyLeft_step x) s g g

theorem onCore_copyLeft_partOf : (s.onCore g (copyLeft x)).partOf g = s.partOf g := by
  rw [State.partOf, onCore_copyLeft_step, State.partOf]

theorem onCore_copyLeft_copyQueue : copyQueue (s.onCore g (copyLeft x)) g = copyQueue s g := by
  unfold copyQueue
  rw [onCore_copyLeft_step, onCore_copyLeft_partOf]
  rfl

theorem copyLeft_xq (c : CoreSt) : (copyLeft x c).flow.xq = c.flow.xq.tail := rfl

theorem copyLeft_out (c : CoreSt) (inside : x.tok < 8) : ((copyLeft x c).token x.tok).out = (c.token x.tok).out - 1 := by
  have counted := tokDone_token_same (c.raise 10 x.bundle (.iff x.lost .latch)) inside
  rw [show (copyLeft x c).token x.tok = ((c.raise 10 x.bundle (.iff x.lost .latch)).tokDone (some x.tok)).token x.tok from rfl, counted]
  rfl

theorem copyDone_core (known : g < 288) : (s.copyDone g x).core g = copyLeft x (s.core g) := by
  rw [copyDone_eq]
  split
  · exact State.onCore_core_same _ _ _ known
  · rw [decremented, State.onOrd_core, State.onCore_core_same _ _ _ known]

end CopyLeft

theorem exec_copyCommandComplete {s : State} {g : Nat} {x : XCmd} {xs : List XCmd} (known : g < 288) (queue : (s.core g).flow.xq = x :: xs)
    (started : x.started = true) (sound : x.fault = none) (plain : plainCopy x.op) (moved : x.rows * x.len ≤ x.bytes)
    (read : s.covered g x.served = true) (wrote : s.covered g x.wrote = true) :
    exec (.copyCommandComplete g) s = .next (s.copyDone g x) := by
  have noPipe := pipe_of_plainCopy plain
  have going : ¬ (!x.started || x.fault.isSome || decide (x.bytes < x.total) || !s.covered g x.served) = true := by
    simp [started, sound, read, XCmd.total, Nat.not_lt.mpr moved]
  have whole : s.copyOver g x = true := by simp [State.copyOver, XCmd.total, moved, noPipe, read, wrote]
  unfold exec execCopyCommandComplete
  refine coreEvent_eq_next.mpr ⟨known, ?_⟩
  simp only [queue, if_neg going, noPipe, whole, Bool.false_and, Bool.false_eq_true, if_false, if_true]

/-! ## The hub copy engine (R328, R351) -/

section HubCopyEngine

variable {s t : State} {h : HubCopy} {n : Node} {y : Xlated} {home : Option Nat}

/-- The engine reads the next line of its node, a plain copy whose buffer is empty, from memory. -/
theorem copyLine_read (copies : (nodeCmd n).fill = false) (empty : h.buf = none)
    (prepared : s.accessFor h.part none (some (s.nodeDie h.part h.node)) (nodeCmd n).srcVa needR .scratchpads = .ok t y)
    (memory : y.loc = .mem home) : s.copyLine h n =
    .ok (t.setHubCopy (some { h with buf := some (ofBytes 512 (t.ord.readView (s.nodeDie h.part h.node) y.pa 64)) })) := by
  have source : ({ nodeCmd n with buf := h.buf } : XCmd).line = none := by simp [XCmd.line, copies, empty]
  unfold State.copyLine
  simp only [source]
  rw [show ({ nodeCmd n with buf := h.buf } : XCmd).srcVa = (nodeCmd n).srcVa from rfl]
  simp only [prepared, memory, State.locRead]
  rfl

theorem exec_copyNodeRun_read (runs : s.hub.hubCopy = some h) (node : s.node? h.part h.node = some n)
    (left : n.progress < (nodeCmd n).total) (copies : (nodeCmd n).fill = false) (empty : h.buf = none) (whole : h.stuck = false)
    (prepared : s.accessFor h.part none (some (s.nodeDie h.part h.node)) (nodeCmd n).srcVa needR .scratchpads = .ok t y)
    (memory : y.loc = .mem home) : exec (.copyNodeRun h.part) s =
    .next (t.setHubCopy (some { h with buf := some (ofBytes 512 (t.ord.readView (s.nodeDie h.part h.node) y.pa 64)) })) := by
  unfold exec execCopyNodeRun
  refine event_eq_next.mpr ?_
  simp only [runs, if_true, State.copyAdvance, node, whole, Bool.false_eq_true, if_false, left, copyLine_read copies empty prepared memory,
    State.hubNext]

theorem exec_copyNodeResume {p : Nat} {node : W64} (found : s.node? p node = some n) (parked : n.parked = true)
    (ready : s.setStatus p none node stReady = .ok t) :
    exec (.copyNodeResume p node) s = .next (t.onNode p node fun m => { m with parked := false }) := by
  unfold exec execCopyNodeResume
  refine event_eq_next.mpr ?_
  simp only [found, parked, ready, if_true, Except.map, State.hubNext]

end HubCopyEngine

/-- Settles O30: the start, the completion by the core and the arbiter's queue that it leaves, the line read and the resumption. -/
theorem copyEnginesStartRunAndComplete : Obligations.CopyEnginesStartRunAndComplete := by
  unfold Obligations.CopyEnginesStartRunAndComplete
  refine ⟨?start, ?complete, ?run, fun s t p node n _ found parked ready => exec_copyNodeResume found parked ready⟩
  case start =>
    intro s g x xs known queue fresh sound plain fits earlier
    refine ⟨_, exec_copyCommandStart known queue fresh sound plain fits earlier, rfl, ?_⟩
    rw [State.setCopy, State.onCore_core_same _ _ _ known, queue]
    rfl
  case complete =>
    intro s g x xs known queue started sound plain moved read wrote inside
    refine ⟨_, exec_copyCommandComplete known queue started sound plain moved read wrote, ?_, ?_, ?_⟩
    · rw [copyDone_core s x known, copyLeft_xq, queue]
      rfl
    · rw [copyDone_core s x known, copyLeft_out x _ inside]
    · by_cases noNode : x.node = 0
      · rw [copyDone_eq, if_pos noNode]
        exact (if_pos noNode).symm
      · rw [copyDone_eq, if_neg noNode, decremented, onCore_copyLeft_partOf, onCore_copyLeft_copyQueue]
        exact (if_neg noNode).symm
  case run =>
    intro s t h n y home runs node left copies empty whole prepared memory
    exact exec_copyNodeRun_read runs node left copies empty whole prepared memory

end Sys2Proof.Proofs
end

section
/-! Power states and device reset (R290, R300, R382, R416, R417). -/

namespace Sys2Proof.Proofs

open Sys2Proof.Machine Sys2Proof.Laws

/-! ## POWER_STATE_CHANGE (R416) -/

theorem exec_powerStateChange_p0 {s : State} (p1 : s.pkg.power = .p1) :
    exec (.powerStateChange .p0) s = .next { s with pkg := { s.pkg with power := .p0 } } := by
  unfold exec execPowerStateChange
  refine event_eq_next.mpr ?_
  simp only [p1, beq_self_eq_true, if_true]
  rfl

theorem exec_powerStateChange_p1 {s : State} (p0 : s.pkg.power = .p0) (idle : ∀ g, g < 288 → (s.core g).status = .free) :
    exec (.powerStateChange .p1) s = .next { s with pkg := { s.pkg with power := .p1 } } := by
  have free : ((List.range Config.nCores).all fun g => (s.core g).status == .free) = true :=
    List.all_eq_true.mpr fun g listed => beq_iff_eq.mpr (idle g (List.mem_range.mp listed))
  unfold exec execPowerStateChange
  refine event_eq_next.mpr ?_
  simp only [p0, free, beq_self_eq_true, Bool.and_self, if_true]
  rfl

/-! ## DEVICE_RESET (R417) -/

theorem exec_deviceReset_verified {s : State} (verifies : s.pkg.firmwareOk = true) : exec (.deviceReset false) s = .next s.broughtUp := by
  unfold exec execDeviceReset
  refine event_eq_next.mpr ?_
  simp only [Bool.false_eq_true, if_false, verifies, if_true]

/-- The device that a reset acts on: at power-on the time counter and memory begin anew. -/
def poweredOn (powerOn : Bool) (s : State) : State :=
  if powerOn then { s with time := 0, dieTime := .replicate 4 0, ord := { Order.reset with host := s.ord.host } } else s

theorem exec_deviceReset_halted {s : State} (fails : s.pkg.firmwareOk = false) (powerOn : Bool) :
    exec (.deviceReset powerOn) s = .next (poweredOn powerOn s).heldDown := by
  unfold exec execDeviceReset
  refine event_eq_next.mpr ?_
  cases powerOn <;> simp [poweredOn, fails]

/-- A table of partitions with none defined. -/
theorem part_of_reset {s : State} (tables : s.hub.parts = .replicate 64 .reset) (p : Nat) : s.part p = .reset := by
  rw [State.part, tables]
  exact vget_replicate Part.reset 64 p

theorem core_map {s : State} {f : CoreSt → CoreSt} {cores : Vector CoreSt 288} (mapped : s.cores = cores.map f) {g : Nat} (known : g < 288) :
    s.core g = f (vget .reset cores g) := by
  simp [State.core, mapped, vget, known]

theorem broughtUp_core (s : State) {g : Nat} (known : g < 288) : s.broughtUp.core g = { CoreSt.reset with classB := (s.core g).classB } :=
  core_map (s := s.broughtUp) rfl known

theorem heldDown_core (s : State) {g : Nat} (known : g < 288) :
    s.heldDown.core g = { (s.core g).freed with flow := .reset, req := .none, tlb := [] } := core_map (s := s.heldDown) rfl known

theorem broughtUp_view (s : State) {d : Nat} (die : d < 4) : s.broughtUp.ord.view d = s.ord.settledMem := by
  show vget [] (Vector.replicate 4 s.ord.settledMem) d = s.ord.settledMem
  simp [vget, die]

/-- Settles O51: the changes of power state, the device that bring-up leaves and the one that it halts in, and a core's turn while READY is clear. -/
theorem powerStatesAndDeviceReset : Obligations.PowerStatesAndDeviceReset := by
  unfold Obligations.PowerStatesAndDeviceReset
  refine ⟨fun s p0 idle => exec_powerStateChange_p1 p0 idle, fun s p1 => exec_powerStateChange_p0 p1, fun s => rfl, fun s verifies => ?verified,
    fun s b fails => ?halted, fun s g ts known notReady coming => ?turn⟩
  case verified =>
    refine ⟨_, exec_deviceReset_verified verifies, rfl, rfl, fun g known => ?_, fun d die => broughtUp_view s die, part_of_reset rfl, rfl⟩
    rw [broughtUp_core s known]
    exact ⟨rfl, rfl, rfl⟩
  case halted =>
    refine ⟨_, exec_deviceReset_halted fails b, rfl, part_of_reset rfl, fun g known => ?_⟩
    rw [heldDown_core _ known]
    exact ⟨rfl, rfl⟩
  case turn =>
    simp only [step, State.nextTurn, coming, State.turn, dif_pos known, notReady, Bool.false_eq_true, if_false]

end Sys2Proof.Proofs
end

section
/-! The canonical form of the device's sparse memories as an invariant: what it says of a core, of the ordering machine, of the hub and of what an
operation answers, and the updates of the state that keep it (R289, R291; log entry 2). -/

namespace Sys2Proof.Proofs

open Sys2Proof.Machine Sys2Proof.Claims Sys2Proof.Laws

/-! ## The invariant -/

/-- The scratchpad of a core is in canonical form. -/
def SpadCanonical (c : CoreSt) : Prop := amWf 0 c.files.spad = true

/-- The noted code of a partition is in canonical form. -/
def CodeCanonical (pt : Part) : Prop := amWf 0 pt.code = true

/-- The ring of a queue is in canonical form. -/
def RingCanonical (q : Queue) : Prop := amWf 0 q.ring = true

/-- The queue descriptors and the ring of each are in canonical form. -/
def QueuesCanonical (m : AMap Queue) : Prop := amWf .reset m = true ∧ ∀ q, RingCanonical (amGet .reset m q)

/-- The memories of the ordering machine are in canonical form. -/
def OrderCanonical (o : Order) : Prop := ViewsWf o ∧ amWf clkZero o.lclock = true ∧ amWf 0 o.host = true

/-- The tables of the hub are in canonical form. -/
def HubCanonical (h : Hub) : Prop :=
  (∀ p, CodeCanonical (vget .reset h.parts p)) ∧ QueuesCanonical h.queues ∧ amWf 0 h.corrErr = true ∧ amWf 0 h.coreErr = true ∧
  amWf [] h.copies = true ∧ amWf 0 h.chanOwn = true

/-- Every memory of the device is in canonical form. -/
def Canonical (s : State) : Prop := (∀ g, SpadCanonical (s.core g)) ∧ OrderCanonical s.ord ∧ HubCanonical s.hub

/-- What is said of the four dies, the 288 cores and the 64 partitions is said of every number: what lies outside reads as after reset. -/
theorem canonical_iff {s : State} : CanonicalMemory s ↔ Canonical s := by
  unfold CanonicalMemory Canonical OrderCanonical HubCanonical QueuesCanonical
  constructor
  · intro ⟨views, lclock, host, spads, code, queues, rings, corrErr, coreErr, copies, chanOwn⟩
    refine ⟨fun g => ?_, ⟨fun d => ?_, lclock, host⟩, fun p => ?_, ⟨queues, rings⟩, corrErr, coreErr, copies, chanOwn⟩
    · by_cases known : g < 288
      · exact spads g known
      · rw [SpadCanonical, State.core, vget, dif_neg known]; rfl
    · by_cases known : d < 4
      · exact views d known
      · rw [Order.view, Order.viewKeys, vget, vget, dif_neg known, dif_neg known]; exact ⟨rfl, rfl⟩
    · by_cases known : p < 64
      · exact code p known
      · rw [CodeCanonical, vget, dif_neg known]; rfl
  · intro ⟨spads, ⟨views, lclock, host⟩, code, ⟨queues, rings⟩, corrErr, coreErr, copies, chanOwn⟩
    exact ⟨fun d _ => views d, lclock, host, fun g _ => spads g, fun p _ => code p, queues, rings, corrErr, coreErr, copies, chanOwn⟩

/-! ## Entries of a vector -/

/-- A property of every entry of a vector is kept where one entry is replaced by another that has it. -/
theorem vget_vset_all {α : Type} {n : Nat} {d : α} {P : α → Prop} {v : Vector α n} {x : α} (i : Nat) (all : ∀ j, P (vget d v j)) (new : P x)
    (j : Nat) : P (vget d (vset v i x) j) := by
  rw [vget_vset]
  split
  · exact new
  · exact all j

/-- A property of every entry is kept by a map that keeps it. -/
theorem vget_map_all {α β : Type} {n : Nat} {d : α} {e : β} {P : α → Prop} {Q : β → Prop} {v : Vector α n} {f : α → β} (default : Q e)
    (keeps : ∀ x, P x → Q (f x)) (all : ∀ j, P (vget d v j)) (j : Nat) : Q (vget e (v.map f) j) := by
  by_cases inside : j < n
  · have kept := keeps _ (all j)
    simpa [vget, inside] using kept
  · simpa [vget, inside] using default

/-! ## Updates of the state -/

namespace Canonical

variable {s : State}

theorem core (h : Canonical s) (g : Nat) : SpadCanonical (s.core g) := h.1 g
theorem cc (h : Canonical s) : SpadCanonical s.cc := h.1 s.cur
theorem order (h : Canonical s) : OrderCanonical s.ord := h.2.1
theorem host (h : Canonical s) : amWf 0 s.ord.host = true := h.2.1.2.2
theorem hub (h : Canonical s) : HubCanonical s.hub := h.2.2
theorem part (h : Canonical s) (p : Nat) : CodeCanonical (s.part p) := h.2.2.1 p
theorem queues (h : Canonical s) : QueuesCanonical s.hub.queues := h.2.2.2.1
theorem queue (h : Canonical s) (q : Nat) : RingCanonical (s.queue q) := h.2.2.2.1.2 q

theorem setCore {g : Nat} {c : CoreSt} (h : Canonical s) (new : SpadCanonical c) : Canonical (s.setCore g c) :=
  ⟨vget_vset_all g h.1 new, h.order, h.hub⟩

theorem onCore {g : Nat} {f : CoreSt → CoreSt} (h : Canonical s) (keeps : ∀ c, SpadCanonical c → SpadCanonical (f c)) :
    Canonical (s.onCore g f) := h.setCore (keeps _ (h.core g))

theorem onCur {f : CoreSt → CoreSt} (h : Canonical s) (keeps : ∀ c, SpadCanonical c → SpadCanonical (f c)) : Canonical (s.onCur f) :=
  h.setCore (keeps _ h.cc)

theorem mapCores {f : CoreSt → CoreSt} (h : Canonical s) (keeps : ∀ c, SpadCanonical c → SpadCanonical (f c)) :
    Canonical { s with cores := s.cores.map f } :=
  ⟨vget_map_all (P := SpadCanonical) (by rfl) keeps h.1, h.order, h.hub⟩

theorem onOrd {f : Order → Order} (h : Canonical s) (keeps : OrderCanonical s.ord → OrderCanonical (f s.ord)) : Canonical (s.onOrd f) :=
  ⟨h.1, keeps h.order, h.hub⟩

theorem onPkg {f : Package → Package} (h : Canonical s) : Canonical (s.onPkg f) := h

theorem setPart {p : Nat} {x : Part} (h : Canonical s) (new : CodeCanonical x) : Canonical (s.setPart p x) :=
  ⟨h.1, h.order, vget_vset_all p h.2.2.1 new, h.2.2.2⟩

theorem onPart {p : Nat} {f : Part → Part} (h : Canonical s) (keeps : ∀ pt, CodeCanonical pt → CodeCanonical (f pt)) :
    Canonical (s.onPart p f) := h.setPart (keeps _ (h.part p))

end Canonical

/-- Replacing one queue by another with its ring in canonical form keeps the table. -/
theorem QueuesCanonical.set {m : AMap Queue} (h : QueuesCanonical m) (q : Nat) {x : Queue} (new : RingCanonical x) :
    QueuesCanonical (amSet .reset m q x) := by
  refine ⟨amWf_amSet q x h.1, fun r => ?_⟩
  by_cases same : r = q
  · rw [same, amGet_amSet_same q x h.1]
    exact new
  · rw [amGet_amSet_other q r x h.1 same]
    exact h.2 r

namespace Canonical

variable {s : State}

theorem onQueue {q : Nat} {f : Queue → Queue} (h : Canonical s) (keeps : ∀ x, RingCanonical x → RingCanonical (f x)) :
    Canonical (s.onQueue q f) :=
  ⟨h.1, h.order, h.2.2.1, h.queues.set q (keeps _ (h.queue q)), h.2.2.2.2⟩

/-- A run of updates that keep the invariant keeps it. -/
theorem foldl {α : Type} {f : State → α → State} {xs : List α} (h : Canonical s) (keeps : ∀ t x, Canonical t → Canonical (f t x)) :
    Canonical (xs.foldl f s) :=
  List.foldlRecOn (motive := Canonical) xs f h fun t kept x _ => keeps t x kept

end Canonical

/-- A run of updates of a core that keep its scratchpad in canonical form keeps it. -/
theorem SpadCanonical.foldl {α : Type} {c : CoreSt} {f : CoreSt → α → CoreSt} {xs : List α} (h : SpadCanonical c)
    (keeps : ∀ c x, SpadCanonical c → SpadCanonical (f c x)) : SpadCanonical (xs.foldl f c) :=
  List.foldlRecOn (motive := SpadCanonical) xs f h fun c kept x _ => keeps c x kept

/-! ## What an operation answers -/

/-- Every state that may be answered is canonical. -/
def CanonicalOpt (r : Option State) : Prop := ∀ t, r = some t → Canonical t

/-- Every next state that is answered is canonical. -/
def CanonicalOut (r : Host.Outcome State Fault Refusal) : Prop := ∀ t, r = .next t → Canonical t

/-- The state in which an access of the hub faults is canonical. -/
def CanonicalStop : HubStop → Prop
  | .fault t _ => Canonical t
  | _ => True

/-- The state that an operation of the hub leaves, done or faulting, is canonical. -/
def CanonicalRun {β : Type} (state : β → State) : Except HubStop β → Prop
  | .ok b => Canonical (state b)
  | .error e => CanonicalStop e

/-- An operation of the hub that gives its state alone. -/
abbrev CanonicalEx (r : Except HubStop State) : Prop := CanonicalRun id r

/-- One that gives a value too. -/
abbrev CanonicalHub {α : Type} (r : HubRes α) : Prop := CanonicalRun Prod.snd r

theorem CanonicalOpt.none : CanonicalOpt none := fun _ e => nomatch e
theorem CanonicalOpt.some {t : State} (h : Canonical t) : CanonicalOpt (some t) := fun _ e => Option.some.inj e ▸ h
theorem CanonicalOpt.get {r : Option State} {t : State} (h : CanonicalOpt r) (e : r = Option.some t) : Canonical t := h t e
theorem CanonicalOpt.map {r : Option State} {f : State → State} (h : CanonicalOpt r) (keeps : ∀ t, Canonical t → Canonical (f t)) :
    CanonicalOpt (r.map f) := by
  cases r with
  | none => exact .none
  | some t => exact .some (keeps t (h t rfl))
theorem CanonicalOpt.getD {r : Option State} {s : State} (h : CanonicalOpt r) (otherwise : Canonical s) : Canonical (r.getD s) := by
  cases r with
  | none => exact otherwise
  | some t => exact h t rfl

namespace CanonicalRun

variable {β γ : Type} {state : β → State} {state' : γ → State} {r : Except HubStop β}

theorem done {r : Except HubStop State} {t : State} (h : CanonicalEx r) (e : r = .ok t) : Canonical t := by rw [e] at h; exact h
theorem left {α : Type} {r : HubRes α} {a : α} {t : State} (h : CanonicalHub r) (e : r = .ok (a, t)) : Canonical t := by rw [e] at h; exact h
theorem stop {x : HubStop} (h : CanonicalRun state r) (e : r = .error x) : CanonicalStop x := by rw [e] at h; exact h
theorem fault {t : State} {k : Cause} (h : CanonicalRun state r) (e : r = .error (.fault t k)) : Canonical t := h.stop e
theorem map {f : β → γ} (h : CanonicalRun state r) (keeps : ∀ b, Canonical (state b) → Canonical (state' (f b))) :
    CanonicalRun state' (r.map f) := by
  cases r with
  | ok b => exact keeps b h
  | error e => exact h

end CanonicalRun

theorem CanonicalOut.event {n : String} {r : Option State} (h : CanonicalOpt r) : CanonicalOut (event n r) :=
  fun t e => h t (event_eq_next.mp e)
theorem CanonicalOut.coreEvent {n : String} {g : Nat} {r : Option State} (h : CanonicalOpt r) : CanonicalOut (coreEvent n g r) :=
  fun t e => h t (coreEvent_eq_next.mp e).2
theorem CanonicalOut.next {t : State} (h : Canonical t) : CanonicalOut (.next t) := fun _ e => Host.Outcome.next.inj e ▸ h

theorem Canonical.try' {s : State} {r : Host.Outcome State Fault Refusal} (h : Canonical s) (may : CanonicalOut r) : Canonical (s.try' r) := by
  unfold State.try'
  split
  next t => exact may t rfl
  all_goals exact h

end Sys2Proof.Proofs
end

section
/-! The canonical form of memory: the register files and landings of a core, the writes of the ordering machine, and the accesses of cores and of the
hub (R65, R263, R271, R291 to R296, R366, R375). -/

namespace Sys2Proof.Proofs

open Sys2Proof.Machine Sys2Proof.Claims Sys2Proof.Laws

/-! ## The files of a core -/

namespace SpadCanonical

variable {c : CoreSt}

theorem setSreg {n : Nat} {x : W64} (h : SpadCanonical c) : SpadCanonical (c.setSreg n x) := by
  unfold CoreSt.setSreg
  split
  · exact h
  · exact h

theorem setK {i n : Nat} {x : W16} (h : SpadCanonical c) : SpadCanonical (c.setK i n x) := by
  unfold CoreSt.setK
  dsimp only
  split
  · exact h
  · exact h

theorem checkAxis {i : Nat} (h : SpadCanonical c) : SpadCanonical (c.checkAxis i) := by
  unfold CoreSt.checkAxis
  split
  · exact h
  · exact h

theorem checkAxes {m : W16} (h : SpadCanonical c) : SpadCanonical (c.checkAxes m) :=
  h.foldl fun c i kept => by
    split
    · exact kept.checkAxis
    · exact kept

theorem checkLanding {i : Nat} (h : SpadCanonical c) : SpadCanonical (c.checkLanding i) := by
  unfold CoreSt.checkLanding
  split
  · exact h
  · exact h.checkAxis

theorem spadWrite {x : Nat} {bs : List Byte} (h : SpadCanonical c) : SpadCanonical (c.spadWrite x bs) := amWf_spadWrite c x bs h

theorem setWindow {off : Nat} {bs : List Byte} (h : SpadCanonical c) : SpadCanonical (c.setWindow off bs) := amWf_setWindow c off bs h

theorem crWrite {n : Nat} {x : W64} (h : SpadCanonical c) : SpadCanonical (c.crWrite n x) := by
  rw [SpadCanonical, CoreSt.crWrite_files]
  exact h

/-- Of the writes of a landing result only that of a store reaches the scratchpad. -/
theorem applyWrite {w : Write} (h : SpadCanonical c) : SpadCanonical (c.applyWrite w).1 := by
  cases w
  case sreg => exact h.setSreg
  case kreg => exact h.setK
  case norm i n => exact checkLanding (c := c.setNorm i n) h
  case setn i n =>
    simp only [CoreSt.applyWrite]
    split
    · exact h
    · split
      · exact h
      · exact checkLanding (c := c.setNorm i n) h
  case cr => exact h.crWrite
  case spad => exact h.spadWrite
  all_goals exact h

theorem land {f : InFlight} (h : SpadCanonical c) : SpadCanonical (c.land f) :=
  List.foldlRecOn (motive := fun r : CoreSt × Flg => SpadCanonical r.1) f.writes _ h fun _ kept _ _ => applyWrite kept

/-! ## Counts (R386, R387) -/

theorem count {i n : Nat} (h : SpadCanonical c) : SpadCanonical (c.count i n) := by
  unfold CoreSt.count
  split
  · exact h
  · exact h.foldl fun _ _ kept => kept

theorem countIssue {m : BitVec 12} (h : SpadCanonical c) : SpadCanonical (c.countIssue m) := h.foldl fun _ _ kept => kept.count

theorem countEmpty {n : Nat} (h : SpadCanonical c) : SpadCanonical (c.countEmpty n) := h.foldl fun _ _ kept => kept.count

end SpadCanonical

/-! ## The ordering machine (R291 to R293) -/

namespace OrderCanonical

variable {o : Order}

theorem perform {d : Nat} {bs : List (Nat × Byte)} (h : OrderCanonical o) : OrderCanonical (o.perform d bs) := by
  refine ⟨viewsWf_perform o d bs h.1, ?_, ?_⟩
  · rw [perform_keeps Order.lclock (fun _ _ => by exact rfl)]
    exact h.2.1
  · rw [perform_keeps Order.host (fun _ _ => by exact rfl)]
    exact h.2.2

theorem arbitrated {d pa : Nat} {bs : List Byte} (h : OrderCanonical o) : OrderCanonical (o.arbitrated d pa bs) :=
  ⟨h.perform.1, amWf_amSet _ _ h.perform.2.1, h.perform.2.2⟩

theorem deliver {i j : Nat} {p : Order} (h : OrderCanonical o) (e : o.deliver i j = some p) : OrderCanonical p := by
  refine ⟨viewsWf_deliver h.1 e, ?_⟩
  unfold Order.deliver at e
  split at e
  · split at e
    · cases e
    · cases e
      exact h.2
  · cases e

theorem applyAt {j k : Nat} {p : Order} (h : OrderCanonical o) (e : o.applyAt j k = some p) : OrderCanonical p := by
  refine ⟨viewsWf_applyAt h.1 e, ?_⟩
  unfold Order.applyAt at e
  split at e
  · split at e
    · cases e
    · split at e
      · cases e
        exact h.2
      · cases e
  · cases e

theorem hostWrite {pa : Nat} {bs : List Byte} (h : OrderCanonical o) : OrderCanonical { o with host := amWrite o.host pa bs } :=
  ⟨h.1, h.2.1, amWf_amWrite pa bs h.2.2⟩

theorem hostPut {bs : List (Nat × Byte)} (h : OrderCanonical o) : OrderCanonical { o with host := amPut o.host bs } :=
  ⟨h.1, h.2.1, amWf_amPut bs h.2.2⟩

end OrderCanonical

/-- A sparse memory of which some entries are left out stays in canonical form. -/
theorem amAbove_filter {α : Type} [DecidableEq α] {d : α} {b : Nat} (p : Nat × α → Bool) {m : AMap α} (h : amWf d m = true)
    (above : amAbove b m = true) : amAbove b (m.filter p) = true := by
  induction m with
  | nil => rfl
  | cons x m rest =>
    obtain ⟨⟨_, past⟩, tail⟩ : (x.2 ≠ d ∧ amAbove x.1 m = true) ∧ amWf d m = true := by simpa [amWf] using h
    have below : b < x.1 := by simpa [amAbove] using above
    rw [List.filter_cons]
    split
    · simpa [amAbove] using below
    · exact rest tail (amAbove_of_le past (Nat.le_of_lt below))

theorem amWf_filter {α : Type} [DecidableEq α] {d : α} (p : Nat × α → Bool) {m : AMap α} (h : amWf d m = true) : amWf d (m.filter p) = true := by
  induction m with
  | nil => rfl
  | cons x m rest =>
    obtain ⟨⟨listed, past⟩, tail⟩ : (x.2 ≠ d ∧ amAbove x.1 m = true) ∧ amWf d m = true := by simpa [amWf] using h
    rw [List.filter_cons]
    split
    · simpa [amWf, listed] using And.intro (amAbove_filter p tail past) (rest tail)
    · exact rest tail

/-! ## Requests, and the writes of the hub (R296, R366) -/

namespace Canonical

variable {s : State}

theorem remember {p : Nat} {core die : Option Nat} {x : Xlated} (h : Canonical s) : Canonical (s.remember p core die x) := by
  have ticked : Canonical { s with tick := s.tick + 1 } := h
  unfold State.remember
  cases x.page with
  | none => exact ticked
  | some page =>
    cases core with
    | none => cases die <;> exact h
    | some g =>
      have cached (f : CoreSt → List Cached) := ticked.onCore (g := g) (f := fun c => { c with tlb := f c }) fun _ kept => kept
      cases die <;> exact cached fun k => addCached k.tlb _

theorem enterAt {p d : Nat} {loc : Loc} {pa : Nat} (h : Canonical s) : Canonical (s.enterAt p d loc pa) := by
  obtain ⟨spads, order, code, queues, corrErr, coreErr, copies, chanOwn⟩ := h
  cases loc
  case mem => exact ⟨spads, order, code, queues, corrErr, coreErr, copies, amWf_amSet _ _ chanOwn⟩
  all_goals exact ⟨spads, order, code, queues, corrErr, coreErr, copies, chanOwn⟩

theorem enterMem {p d pa : Nat} (h : Canonical s) : Canonical (s.enterMem p d pa) := h.enterAt
theorem enter {p d : Nat} {x : Xlated} (h : Canonical s) : Canonical (s.enter p d x) := h.enterAt
theorem enterRange {p pa n : Nat} (h : Canonical s) : Canonical (s.enterRange p pa n) := h.foldl fun _ _ kept => kept.enterMem

theorem enterWalk {p : Nat} {core die : Option Nat} {va : W64} {need : Need} (h : Canonical s) : Canonical (s.enterWalk p core die va need) := by
  unfold State.enterWalk
  split
  · exact h.foldl fun _ _ kept => kept.enterMem
  · exact h

theorem pteUpdate {p : Nat} {die : Option Nat} {u : Option (Nat × W64)} (h : Canonical s) : CanonicalOpt (s.pteUpdate p die u) := by
  unfold State.pteUpdate
  split
  · exact .some h
  · dsimp only
    split
    · exact .some (h.onOrd fun kept => kept.arbitrated).enterMem
    · exact .none

theorem ingressPush {e : Entry} (h : Canonical s) : Canonical (s.ingressPush e) := h
theorem hubWrite {d pa : Nat} {bs : List Byte} (h : Canonical s) : Canonical (s.hubWrite d pa bs) := h.onOrd fun kept => kept.perform
theorem hubWriteOf {p d pa : Nat} {bs : List Byte} (h : Canonical s) : Canonical (s.hubWriteOf p d pa bs) := h.hubWrite.enterMem

/-! ## Blast records and the dirty log (R367, R375 to R377) -/

theorem deliverBlast {p : Nat} {rec : List Byte} (h : Canonical s) : Canonical (s.deliverBlast p rec) :=
  Canonical.onPart (s := { s with hub := { s.hub with pfSignals := s.hub.pfSignals + 1 } }) h fun _ kept => kept

theorem setRepair {st : Nat} (h : Canonical s) : Canonical (s.setRepair st) := h

theorem setCoarse {p pa : Nat} (h : Canonical s) : Canonical (s.setCoarse p pa) := by
  unfold State.setCoarse
  dsimp only
  split
  · exact h.deliverBlast
  · exact h.hubWriteOf

theorem logPage {p vpage pa : Nat} (h : Canonical s) : Canonical (s.logPage p vpage pa) := by
  unfold State.logPage
  extract_lets pt listed full a written
  have kept : Canonical listed := h.setPart (h.part p)
  split
  · exact kept.setCoarse
  · split
    · have marked : Canonical full := kept.onPart fun _ kept => kept
      exact marked.foldl fun _ _ kept => kept.setCoarse
    · have logged : Canonical written := kept.hubWriteOf
      exact logged.onPart fun _ kept => kept

theorem logAccess {p : Nat} {va : W64} {x : Xlated} {setsD : Bool} (h : Canonical s) : Canonical (s.logAccess p va x setsD) := by
  unfold State.logAccess
  dsimp only
  split
  · exact h
  · split
    · split
      · exact h
      · exact h.logPage
    · split
      · exact h.logPage
      · exact h

theorem logHost {p : Nat} {va : W64} (h : Canonical s) : CanonicalOpt (s.logHost p va) := by
  unfold State.logHost
  split
  · exact .some h
  · exact h.pteUpdate.map fun _ kept => kept.logAccess

theorem leave (h : Canonical s) : Canonical s.leave := by
  obtain ⟨spads, order, code, queues, corrErr, coreErr, copies, chanOwn⟩ := h
  refine ⟨spads, order, code, queues, corrErr, coreErr, copies, ?_⟩
  show amWf 0 (if s.ord.waiting = [] then [] else _) = true
  split
  · rfl
  · exact amWf_filter _ chanOwn

/-! ## Accesses (R263, R271, R272) -/

theorem payPte {w : PteOwed} (h : Canonical s) : CanonicalOpt (s.payPte w) := by
  unfold State.payPte
  refine h.enterWalk.pteUpdate.map fun t kept => ?_
  split
  · split
    · exact kept.logAccess.remember
    · exact kept.remember
  · exact kept

/-- What preparing an access leaves, where it may perform. -/
theorem accessFor_ok {p : Nat} {core die : Option Nat} {va : W64} {need : Need} {reach : Reach} {t : State} {x : Xlated} (h : Canonical s)
    (e : s.accessFor p core die va need reach = .ok t x) : Canonical t := by
  rw [Proofs.accessFor_ok e]
  split
  · exact h.enterWalk.logAccess.remember.enter
  · exact h.enterWalk.remember.enter

/-- And where it faults. -/
theorem accessFor_fault {p : Nat} {core die : Option Nat} {va : W64} {need : Need} {reach : Reach} {t : State} {k : Cause} (h : Canonical s)
    (e : s.accessFor p core die va need reach = .fault t k) : Canonical t := by
  unfold State.accessFor at e
  dsimp only at e
  split at e
  · cases e
  · cases e
    exact h.enterWalk
  · split at e
    · split at e
      · cases e
      · cases e
        exact h.enterWalk
    · split at e <;> cases e

theorem access_ok {g : Nat} {va : W64} {need : Need} {reach : Reach} {t : State} {x : Xlated} (h : Canonical s)
    (e : s.access g va need reach = .ok t x) :
    Canonical t := h.accessFor_ok (Proofs.access_ok e)

theorem access_updated {g : Nat} {va : W64} {need : Need} {reach : Reach} {t : State} (h : Canonical s) (e : s.access g va need reach = .updated t) :
    Canonical t := by
  unfold State.access at e
  split at e
  · split at e
    · next paid =>
      cases e
      exact h.payPte.get paid
    · cases e
  · cases e
  · cases e

theorem access_fault {g : Nat} {va : W64} {need : Need} {reach : Reach} {t : State} {k : Cause} (h : Canonical s)
    (e : s.access g va need reach = .fault t k) :
    Canonical t := by
  unfold State.access at e
  split at e
  · split at e <;> cases e
  · next faults =>
    cases e
    exact h.accessFor_fault faults
  · cases e

theorem touchX {g : Nat} {va : W64} (h : Canonical s) : CanonicalOpt (s.touchX g va) := by
  unfold State.touchX
  dsimp only
  split
  · exact h.enterWalk.pteUpdate
  · exact h.enterWalk.pteUpdate.map fun _ kept => kept.remember.enter

/-! ## Accesses of the hub (R296) -/

theorem sendHost {g : Nat} {copy : Bool} {pa : Nat} {bs : List Byte} (h : Canonical s) : Canonical (s.sendHost g copy pa bs) := h

theorem hubNext {r : Except HubStop State} (h : Canonical s) (done : CanonicalEx r) : CanonicalOpt (s.hubNext r) := by
  unfold State.hubNext
  split
  · exact .some done
  · exact h.payPte
  · exact .none

theorem locRead {die : Option Nat} {x : Xlated} {n : Nat} (h : Canonical s) : CanonicalHub (s.locRead die x n) := by
  unfold State.locRead
  split <;> exact h

theorem locWrite {die : Option Nat} {x : Xlated} {bs : List Byte} (h : Canonical s) : Canonical (s.locWrite die x bs) := by
  unfold State.locWrite
  split
  · exact h.hubWrite
  all_goals exact h

end Canonical

theorem Canonical.hubGet {s : State} {p : Nat} {die : Option Nat} {f : Nat} {va : W64} {n : Nat} (h : Canonical s) :
    CanonicalHub (s.hubGet p die f va n) := by
  induction f generalizing s va n with
  | zero => exact h
  | succ f rest =>
    unfold State.hubGet
    split
    · exact h
    · extract_lets k
      split
      · trivial
      · next faults => exact h.accessFor_fault faults
      · next prepared =>
        have began := h.accessFor_ok prepared
        split
        · next stops => exact began.locRead.stop stops
        · next read =>
          have kept := began.locRead.left read
          split
          · next stops => exact (rest kept).stop stops
          · next got => exact (rest kept).left got

theorem Canonical.hubPut {s : State} {p : Nat} {die : Option Nat} {f : Nat} {va : W64} {bs : List Byte} (h : Canonical s) :
    CanonicalEx (s.hubPut p die f va bs) := by
  induction f generalizing s va bs with
  | zero => exact h
  | succ f rest =>
    unfold State.hubPut
    split
    · exact h
    · dsimp only
      split
      · trivial
      · next faults => exact h.accessFor_fault faults
      · next prepared => exact rest (h.accessFor_ok prepared).locWrite

namespace Canonical

variable {s : State}

theorem hubAtomic {p : Nat} {die : Option Nat} {va : W64} {n : Nat} {f : List Byte → List Byte} (h : Canonical s) :
    CanonicalHub (s.hubAtomic p die va n f) := by
  unfold State.hubAtomic
  split
  · trivial
  · next faults => exact h.accessFor_fault faults
  · next prepared =>
    have began := h.accessFor_ok prepared
    dsimp only
    split
    · next stops => exact began.locRead.stop stops
    · next read =>
      have kept := began.locRead.left read
      split
      · split
        · exact kept.onOrd fun kept => kept.arbitrated
        · trivial
      · exact kept.onOrd fun kept => kept.hostWrite
      · exact kept.locWrite

/-! ## Counters, traces owed and stalls (R386, R391, R393) -/

theorem dieEvent {d p ev n : Nat} (h : Canonical s) : Canonical (s.dieEvent d p ev n) := by
  unfold State.dieEvent
  split <;> exact h

theorem dieError {d : Nat} {owners : W64} {n : Nat} (h : Canonical s) : Canonical (s.dieError d owners n) := by
  unfold State.dieError
  split <;> exact h

theorem coreErrors {g n : Nat} (h : Canonical s) : Canonical (s.coreErrors g n) := by
  obtain ⟨spads, order, code, queues, corrErr, coreErr, copies, chanOwn⟩ := h
  have counted : Canonical { s with hub := { s.hub with coreErr := amSet 0 s.hub.coreErr g (amGet 0 s.hub.coreErr g + BitVec.ofNat 64 n) } } :=
    ⟨spads, order, code, queues, corrErr, amWf_amSet _ _ coreErr, copies, chanOwn⟩
  exact counted.dieError

theorem coreDieEvent {g ev n : Nat} (h : Canonical s) : Canonical (s.coreDieEvent g ev n) := h.dieEvent

theorem stall {g i : Nat} (h : Canonical s) : Canonical (s.stall g i) := by
  unfold State.stall
  split
  · exact h
  · extract_lets t
    have counted : Canonical t := (h.onCore fun _ kept => kept.count).coreDieEvent
    split
    · exact counted.coreDieEvent
    · exact counted

end Canonical

theorem Canonical.settleOwed {s : State} {f : Nat} (h : Canonical s) : Canonical (s.settleOwed f) := by
  induction f generalizing s with
  | zero => exact h
  | succ f rest =>
    unfold State.settleOwed
    split
    · exact h
    · next w ws _ =>
      extract_lets take
      have taken {t : State} (kept : Canonical t) : Canonical (take t) :=
        onPart (s := { t with hub := { t.hub with owed := ws } }) kept fun _ kept => kept
      split
      · next put => exact rest (taken (h.hubPut.done put))
      · next faults => exact rest (taken (h.hubPut.fault faults))
      · exact h.payPte.getD h
      · exact h

theorem Canonical.owe {s : State} {p die : Nat} {va : W64} {bs : List Byte} (h : Canonical s) : Canonical (s.owe p die va bs) :=
  settleOwed (s := { s with hub := { s.hub with owed := s.hub.owed ++ [{ part := p, die := die, va := va, bytes := bs }] } }) h

end Sys2Proof.Proofs
end

section
/-! The canonical form of memory: landings, the domain and the matrix unit of a core, traps, holds and the shared forms of an instruction's meaning
(R65, R160, R201 to R231, R233 to R245, R320). -/

namespace Sys2Proof.Proofs

open Sys2Proof.Machine Sys2Proof.Claims Sys2Proof.Laws

/-! ## Landings, tokens and handlers (R65, R67, R240, R243) -/

namespace SpadCanonical

variable {c : CoreSt}

theorem lands {fs : List InFlight} (h : SpadCanonical c) : SpadCanonical (fs.foldl CoreSt.land c) := h.foldl fun _ _ kept => kept.land

theorem landDue {k : Nat} (h : SpadCanonical c) : SpadCanonical (c.landDue k) := by
  have begun : SpadCanonical { c with flow := { c.flow with flight := c.flow.flight.filterMap (CoreSt.leftOf k) } } := h
  exact begun.lands.lands

theorem landAt {k : Nat} (h : SpadCanonical c) : SpadCanonical (c.landAt k) := landDue (c := c.readLoads k) h

theorem landStores {k : Nat} (h : SpadCanonical c) : SpadCanonical (c.landStores k) := by
  unfold CoreSt.landStores
  extract_lets now
  have begun : SpadCanonical { c with flow := { c.flow with flight := c.flow.flight.filter fun f => !now f } } := h
  exact begun.lands

theorem landAll (h : SpadCanonical c) : SpadCanonical c.landAll :=
  h.foldl fun _ _ kept => by
    split
    · exact kept
    · exact kept.landAt.landStores

theorem raise {slot : Nat} {bundle : Addr} {f : Flg} (h : SpadCanonical c) : SpadCanonical (c.raise slot bundle f) := h

theorem haltWith {r : Vector W64 8} (h : SpadCanonical c) : SpadCanonical (c.haltWith r) := h

theorem enterHandler {r : Vector W64 8} {wait : Nat} (h : SpadCanonical c) : SpadCanonical (c.enterHandler r wait) := h

theorem tokDone {w : Option Nat} (h : SpadCanonical c) : SpadCanonical (c.tokDone w) := by
  rw [SpadCanonical, CoreSt.tokDone_files]
  exact h

theorem tokRelease {w : Nat} (h : SpadCanonical c) : SpadCanonical (c.tokRelease w) := by
  rw [SpadCanonical, CoreSt.tokRelease_files]
  exact h

theorem putS {d : SDst} {x : W64} (h : SpadCanonical c) : SpadCanonical (c.putS d x) := by
  cases d
  case reg => exact h.setSreg
  case latch => exact h

theorem takeTrap {t : TrapInfo} (h : SpadCanonical c) : SpadCanonical (c.takeTrap t) := h.checkAxes

theorem reenterD (h : SpadCanonical c) : SpadCanonical c.reenterD := by
  unfold CoreSt.reenterD
  extract_lets done d
  have kept : SpadCanonical d := h.foldl fun c o kept => kept.tokDone (w := o.tok)
  exact kept

theorem leaveHandler (h : SpadCanonical c) : SpadCanonical c.leaveHandler := reenterD (c := c.reenter) h

/-! ## The domain unit (R201 to R231) -/

theorem runClause {cl : W64} (h : SpadCanonical c) : SpadCanonical (Dom.runClause c cl).1 := by
  unfold Dom.runClause
  extract_lets rs sets cons per news
  split
  · exact h
  · exact h.foldl fun _ _ kept => kept

theorem fail {r : DRun} {reg j : Nat} (h : SpadCanonical c) : SpadCanonical (Dom.fail c r reg j).1 := by
  unfold Dom.fail
  extract_lets d
  split <;> exact h

theorem again {r : DRun} {k : Nat} (h : SpadCanonical c) : SpadCanonical (Dom.again c r k) := by
  unfold Dom.again
  split
  · exact h
  · next j q _ =>
    extract_lets _ d r e
    have ran : SpadCanonical e.1 := runClause (c := d) h
    split
    · exact ran.fail
    · exact ran

theorem begin1 {op : DOp} {k : Nat} (h : SpadCanonical c) : SpadCanonical (Dom.begin1 c op k) := by
  unfold Dom.begin1
  extract_lets rd r0 put j
  have puts {d : CoreSt} (r : DRun) (busy : Nat) (kept : SpadCanonical d) : SpadCanonical (put d r busy) := kept
  clear_value put
  split
  · split
    · exact puts _ _ h
    · next cl _ _ =>
      extract_lets d e
      have noted : SpadCanonical e.1 := runClause (c := d) h
      split
      · exact puts _ _ noted.fail
      · exact puts _ _ noted
  · generalize op.op = i
    cases i
    case dset | dlab =>
      dsimp only
      split
      · exact puts _ _ h.fail
      · exact puts _ _ h
    case dopen | dclose =>
      dsimp only
      split <;> exact puts _ _ h
    case dsettle =>
      dsimp only
      split
      · exact puts _ _ h
      · exact h.again
    all_goals exact puts _ _ h

theorem cancelQueued {tok : Option Nat} (h : SpadCanonical c) : SpadCanonical (Dom.cancelQueued c tok) := by
  unfold Dom.cancelQueued
  extract_lets gone d
  have kept : SpadCanonical d := h.foldl fun _ _ kept => kept.tokDone
  exact kept

theorem restoreSnap (h : SpadCanonical c) : SpadCanonical (Dom.restoreSnap c) := by
  unfold Dom.restoreSnap
  split <;> exact h

theorem putResult {r : DRun} (h : SpadCanonical c) : SpadCanonical (Dom.putResult c r) := by
  unfold Dom.putResult
  generalize r.op.op = i
  cases i
  case dlab | dval | dsize | dlo | dhi => exact h.putS
  all_goals exact h

theorem outcome {r : DRun} (h : SpadCanonical c) : SpadCanonical (Dom.outcome c r) := by
  unfold Dom.outcome
  split <;> exact h

theorem finish {r : DRun} {k : Nat} (h : SpadCanonical c) : SpadCanonical (Dom.finish c r k) := by
  unfold Dom.finish
  split
  · extract_lets d
    have kept : SpadCanonical d := by
      unfold d
      split
      · exact h.putResult
      · exact h
    exact kept
  · split
    · exact restoreSnap (h.cancelQueued)
    · extract_lets _ _ written _ noted d
      have kept : SpadCanonical written := outcome h.putResult
      have done : SpadCanonical d := tokDone (c := noted) kept
      exact done

theorem domEndAt {k : Nat} (h : SpadCanonical c) : SpadCanonical (Dom.endAt c k) := by
  unfold Dom.endAt
  split
  · exact h
  · split
    · exact h.finish
    · exact h

theorem domGoAt {k : Nat} (h : SpadCanonical c) : SpadCanonical (Dom.goAt c k) := by
  unfold Dom.goAt
  split
  · split
    · exact h.again
    · exact h
  · split
    · exact h
    · next op rest _ =>
      split
      · exact h
      · exact begin1 (c := { c with dom := { c.dom with ops := rest } }) h

theorem domIssue {i : Instr} {a b : W64} {f : Flg} (h : SpadCanonical c) : SpadCanonical (Dom.issue i a b f c) := by
  unfold Dom.issue
  extract_lets tok d op idle _ _ e
  have opened : SpadCanonical d := by
    unfold d tok
    split <;> exact h
  have queued : SpadCanonical e := opened
  split
  · exact opened.tokDone
  · split
    · exact queued.domGoAt
    · exact queued

/-! ## The matrix unit (R158 to R176) -/

theorem setTile {n : Nat} {t : TileBits} (h : SpadCanonical c) : SpadCanonical (c.setTile n t) := h
theorem setMain {n : Nat} {p : PlaneBits} (h : SpadCanonical c) : SpadCanonical (c.setMain n p) := h
theorem setPart {n : Nat} {p : PlaneBits} (h : SpadCanonical c) : SpadCanonical (c.setPart n p) := h
theorem clearAccum {n : Nat} (h : SpadCanonical c) : SpadCanonical (c.clearAccum n) := h

/-- Of the matrix commands only MRETS writes the scratchpad (R167). -/
theorem mPerform {r : MRun} (h : SpadCanonical c) : SpadCanonical (c.mPerform r).1 := by
  unfold CoreSt.mPerform
  generalize r.cmd.op = i
  cases i
  case mma f _ _ _ _ _ =>
    cases f
    case f64 => exact h.setMain.setPart
    all_goals exact h.setMain
  case mzero => exact h.clearAccum
  case mret _ _ _ part _ =>
    dsimp only
    split
    · exact setTile (setTile h)
    · exact clearAccum (setTile (setTile h))
  case mrets _ _ part _ _ =>
    dsimp only
    split
    · exact spadWrite h
    · exact clearAccum (spadWrite h)
  case mcvt => exact h.setTile.clearAccum
  case mmaq => exact h.setPart
  case msca => exact h.setMain
  case mtr | mtrs => exact h.setTile
  case mldl => exact h.setTile
  all_goals exact h

theorem mFinish {r : MRun} (h : SpadCanonical c) : SpadCanonical (c.mFinish r) := by
  unfold CoreSt.mFinish
  extract_lets x fl _ _ d
  have performed : SpadCanonical d := h.mPerform
  split
  · exact tokDone performed.raise
  · split <;> exact performed

theorem mEnd {k : Nat} (h : SpadCanonical c) : SpadCanonical (c.mEnd k) := by
  unfold CoreSt.mEnd
  split
  · split
    · exact h.mFinish
    · exact h
  · exact h

theorem mGo {k : Nat} (h : SpadCanonical c) : SpadCanonical (c.mGo k) := by
  unfold CoreSt.mGo
  split
  · split
    · exact h
    · extract_lets o _ m r opened advanced
      have began : SpadCanonical opened := by
        unfold opened
        split <;> exact h
      have moved : SpadCanonical advanced := by
        unfold advanced
        split <;> exact began
      split
      · exact h
      · exact moved
  · exact h

theorem mIssue {i : Instr} {b : W64} {scales : BitVec 2048} {f : Flg} (h : SpadCanonical c) : SpadCanonical (c.mIssue i b scales f) := by
  unfold CoreSt.mIssue
  extract_lets w m opened idle _ queued
  have entered : SpadCanonical queued := h
  split
  · exact entered.mGo
  · exact entered

theorem units {k : Nat} (h : SpadCanonical c) : SpadCanonical (c.units k) := domGoAt (mGo (landAt (domEndAt h.mEnd)))

end SpadCanonical

/-! ## Traps, traces and holds (R126 to R130, R240, R392) -/

namespace Canonical

variable {s : State}

theorem findBodies {g : Nat} {pc : Addr} (h : Canonical s) : Canonical (s.findBodies g pc) := h.onCore fun _ kept => kept

theorem setUnits {g : Nat} {c : CoreSt} (h : Canonical s) (moved : SpadCanonical c) : Canonical (s.setUnits g c) := coreDieEvent (h.setCore moved)

theorem trace {g kind index : Nat} {bundle : Addr} (h : Canonical s) : Canonical (s.trace g kind index bundle) := by
  unfold State.trace
  extract_lets c p pt head line
  split
  · exact h.setPart (h.part p)
  · exact h.owe

theorem traceIf {g : Nat} {on : Bool} {kind index : Nat} {bundle : Addr} (h : Canonical s) : Canonical (s.traceIf g on kind index bundle) := by
  unfold State.traceIf
  split
  · exact h.trace
  · exact h

theorem deliverHalt {g : Nat} (h : Canonical s) : Canonical (s.deliverHalt g) := h.deliverBlast

theorem enterTrap {g : Nat} {t : TrapInfo} (h : Canonical s) : Canonical (s.enterTrap g t) := by
  unfold State.enterTrap
  extract_lets c words handler ticked traced
  have landed : SpadCanonical c := (h.core g).landAll
  have entered : SpadCanonical handler := landed.enterHandler
  have noted : Canonical traced := traceIf (s := ticked) h
  split
  · exact deliverHalt (h.setCore landed.haltWith)
  · split
    · exact deliverHalt (noted.setCore entered.haltWith)
    · exact noted.setCore entered

theorem takeTrapOn {g : Nat} {t : TrapInfo} (h : Canonical s) : Canonical (s.takeTrapOn g t) := by
  unfold State.takeTrapOn
  extract_lets u
  have taken : Canonical u := h.onCore fun _ kept => kept.takeTrap
  split
  · exact taken.enterTrap
  · exact taken

theorem stampHead {g : Nat} (h : Canonical s) : Canonical (s.stampHead g) :=
  h.onCore fun _ kept => by
    split
    · split <;> exact kept
    · exact kept

theorem waitBegin {g : Nat} {i : Instr} (h : Canonical s) : Canonical (s.waitBegin g i) :=
  h.onCore fun _ kept => by
    extract_lets since
    split <;> exact kept

theorem waitHeld {g : Nat} {i : Instr} (h : Canonical s) : Canonical (s.waitHeld g i) := h.waitBegin.stall

/-! ## Issue (R233) -/

theorem issue {i : Instr} {eff : State → State} (h : Canonical s) (keeps : Canonical s → Canonical (eff s)) : CanonicalOut (s.issue i eff) := by
  obtain goes | ⟨t, _, _, traps⟩ := issue_cases s i eff
  · rw [goes]
    exact .next (keeps h)
  · rw [traps]
    exact .next h.takeTrapOn

theorem issueWait {i : Instr} {eff : State → State} (h : Canonical s) (keeps : Canonical s → Canonical (eff s)) :
    CanonicalOut (s.issueWait i eff) := by
  obtain ⟨_, held⟩ | ⟨_, t, _, told⟩ | ⟨_, _, goes⟩ := issueWait_cases s i eff
  · rw [held]
    exact .next h.waitHeld
  · rw [told]
    exact .next h.takeTrapOn
  · rw [goes]
    exact h.issue keeps

theorem issueM {i : Instr} {eff : CoreSt → CoreSt} (h : Canonical s) (keeps : ∀ c, SpadCanonical c → SpadCanonical (eff c)) :
    CanonicalOut (s.issueM i eff) := by
  unfold State.issueM
  split
  · exact .next h.stall
  · exact h.issue fun h => h.onCur keeps

end Canonical

/-! ## Queues, and the restart of a step (R255, R317, R320) -/

/-- The eviction of a queue keeps the tables. -/
theorem Canonical.evicted {s : State} {q : Nat} {copy : List Byte} {evictions : Vector W64 64} (h : Canonical s) :
    Canonical { s with hub := { s.hub with copies := amSet [] s.hub.copies q copy, evictions := evictions } } := by
  obtain ⟨spads, order, code, queues, corrErr, coreErr, copies, chanOwn⟩ := h
  exact ⟨spads, order, code, queues, corrErr, coreErr, amWf_amSet _ _ copies, chanOwn⟩

theorem Canonical.makeRoom {s : State} {busy need f : Nat} (h : Canonical s) : Canonical (s.makeRoom busy need f) := by
  induction f generalizing s with
  | zero => exact h
  | succ f rest =>
    unfold State.makeRoom
    split
    · exact h
    · split
      · exact h
      · next v _ =>
        extract_lets p marked _ copied
        have kept : Canonical marked := h.onQueue fun _ kept => kept
        have swapped : Canonical copied := kept.evicted
        exact rest (swapped.foldl fun _ _ kept => kept.dieEvent)

namespace Canonical

variable {s : State}

theorem swapIn {q : Nat} (h : Canonical s) : Canonical (s.swapIn q) := by
  unfold State.swapIn
  split
  · extract_lets t
    have roomy : Canonical t := h.makeRoom.onQueue fun _ kept => kept
    exact roomy.evicted (evictions := t.hub.evictions)
  · exact h

theorem withdraw {g : Nat} (h : Canonical s) : Canonical (s.withdraw g) := h

theorem restartStep {g : Nat} (h : Canonical s) : Canonical (s.restartStep g) := by
  unfold State.restartStep
  extract_lets c t
  have freed : Canonical t := withdraw (h.setCore (h.core g))
  split
  · exact freed
  · extract_lets st
    split
    · exact freed.onCore fun _ kept => kept
    · exact freed.makeRoom.onPart fun _ kept => kept

theorem loopEff {n trips : Nat} (h : Canonical s) : Canonical (loopEff n trips s) :=
  h.onCur fun _ kept => by split <;> exact kept

theorem pollEnd {i : Instr} {p : BitVec 3} {a b : SSrc} (h : Canonical s) : Canonical (pollEnd i p a b s) := h.onCur fun _ kept => kept

end Canonical

end Sys2Proof.Proofs
end

section
/-! The canonical form of memory: lines and ports, the ingress buffers, and the nodes of launch graphs (R225, R276 to R278, R326 to R349). -/

namespace Sys2Proof.Proofs

open Sys2Proof.Machine Sys2Proof.Claims Sys2Proof.Laws

/-! ## Lines, ports and ingress (R67, R225, R276 to R278) -/

namespace SpadCanonical

variable {c : CoreSt}

theorem deposit {off : Nat} {bs : List Byte} (h : SpadCanonical c) : SpadCanonical (c.deposit off bs) := h.setWindow

theorem drained1 {n : Nat} (h : SpadCanonical c) : SpadCanonical (c.drained1 n) := by
  unfold CoreSt.drained1
  extract_lets _ d
  have counted : SpadCanonical d := h
  split
  · exact counted.checkAxes
  · exact counted

end SpadCanonical

namespace Canonical

variable {s : State}

theorem enqueue {i : Instr} {x : QArgs} (h : Canonical s) : Canonical (s.enqueue i x) := by
  unfold State.enqueue
  extract_lets t
  have entered : Canonical t := h.onCur fun _ kept => kept
  exact entered.stampHead

theorem issueQ {i : Instr} {f : CoreSt → QArgs} (h : Canonical s) : CanonicalOut (s.issueQ i f) := h.issue enqueue

theorem countLine {g : Nat} {home : Option Nat} (h : Canonical s) : Canonical (s.countLine g home) := by
  unfold State.countLine
  extract_lets d p row k near counted
  exact coreDieEvent (s := { s with hub := { s.hub with counts := vset s.hub.counts d (vset row p counted) } }) h

theorem portTry {who p off : Nat} {served : Bool} {t : State} (h : Canonical s) (e : s.portTry who p off = some (served, t)) : Canonical t := by
  unfold State.portTry at e
  extract_lets c bank l put first taken at e
  have puts (f : Machine.Flow → Machine.Flow) : Canonical (put f) := h.onCore fun _ kept => kept
  clear_value put
  split at e
  · cases e
    exact puts _
  · split at e
    · cases e
      exact puts _
    · split at e
      · cases e
        exact puts _
      · cases e

theorem ingressAdd {e : Entry} (h : Canonical s) : Canonical (s.ingressAdd e) := by
  unfold State.ingressAdd
  split
  · exact h
  · dsimp only
    split
    · exact h.ingressPush
    · exact h.ingressPush

theorem entryWrite {g : Nat} {e : Entry} (h : Canonical s) : Canonical (s.entryWrite g e) := by
  unfold State.entryWrite
  dsimp only
  split
  · split
    · exact enterAt (h.onCore fun _ kept => kept.spadWrite)
    · split
      · exact h.sendHost.enterAt
      · exact h.hubWriteOf
  · exact h.onCore fun _ kept => kept.deposit

theorem drainOne {g : Nat} (h : Canonical s) : CanonicalOpt (s.drainOne g) := by
  unfold State.drainOne
  extract_lets d q t
  split
  · exact .none
  · split
    · exact .none
    · have popped : Canonical t := h.onOrd fun kept => kept
      refine CanonicalOpt.map ?_ fun _ kept => kept.entryWrite.dieEvent
      split
      · exact popped.logHost
      · exact .some popped

end Canonical

/-! ## Reading nodes (R328, R341 to R349) -/

namespace Canonical

variable {s : State}

theorem xlTry {p : Nat} {va : W64} {need : Need} (h : Canonical s) : CanonicalHub (s.xlTry p va need) := by
  unfold State.xlTry
  dsimp only
  split
  · split
    · trivial
    · exact h.enterWalk
  · trivial
  · exact h.enterWalk

end Canonical

theorem Canonical.xlAll {s : State} {p : Nat} {need : Need} {vas : List W64} (h : Canonical s) : CanonicalHub (s.xlAll p need vas) := by
  induction vas generalizing s with
  | nil => exact h
  | cons va vas rest =>
    unfold State.xlAll
    split
    · next e => exact h.xlTry.stop e
    · next e => exact h.xlTry.left e
    · next e => exact rest (h.xlTry.left e)

theorem Canonical.extension {s : State} {p f n : Nat} {va : W64} (h : Canonical s) : CanonicalHub (s.extension p f n va) := by
  induction f generalizing s n va with
  | zero => exact h
  | succ f rest =>
    unfold State.extension
    split
    · exact h
    · split
      · exact h
      · split
        · next e => exact h.hubGet.fault e
        · next e => exact h.hubGet.stop e
        · next e =>
          have kept := h.hubGet.left e
          extract_lets here
          split
          · next e => exact (rest kept).stop e
          · next e => exact (rest kept).left e

namespace Canonical

variable {s : State}

theorem successors {p : Nat} {b : List Byte} (h : Canonical s) : CanonicalHub (s.successors p b) := by
  unfold State.successors
  extract_lets n
  split
  · exact h
  · split
    · next e => exact h.extension.stop e
    · next e => exact h.extension.left e

theorem hubTry {p : Nat} {va : W64} {n : Nat} (h : Canonical s) : CanonicalHub (s.hubTry p va n) := by
  unfold State.hubTry
  split
  · next e => exact h.hubGet.left e
  · next e => exact h.hubGet.fault e
  · next e => exact h.hubGet.stop e

theorem blockCheck {p : Nat} {b : List Byte} (h : Canonical s) : CanonicalHub (s.blockCheck p b) := by
  unfold State.blockCheck
  extract_lets d addr
  split
  · next e => exact h.successors.stop e
  · next e =>
    have read := h.successors.left e
    split
    · next e => exact read.xlAll.stop e
    · next e =>
      have reached := read.xlAll.left e
      extract_lets succBad
      split
      · exact reached
      · split
        · next e => exact reached.hubTry.stop e
        · next e =>
          have gang := reached.hubTry.left e
          split
          · next e => exact gang.hubTry.stop e
          · next e =>
            have history := gang.hubTry.left e
            split
            · next e => exact history.hubTry.stop e
            · next e =>
              have token := history.hubTry.left e
              split
              · next e => exact token.xlAll.stop e
              · next e =>
                have places := token.xlAll.left e
                split
                · next e => exact places.xlTry.stop e
                · next e => exact places.xlTry.left e

/-! ## Ending nodes -/

theorem setStatus {p : Nat} {die : Option Nat} {va : W64} {w : Nat} (h : Canonical s) : CanonicalEx (s.setStatus p die va w) := by
  unfold State.setStatus
  split
  · next e => exact h.hubPut.fault e
  · exact h.hubPut

theorem completion {q : Nat} {va : W64} {status : Nat} (h : Canonical s) : Canonical (s.completion q va status) := by
  unfold State.completion
  extract_lets x a
  split
  · exact h
  · exact enterAt (onQueue h.sendHost fun _ kept => kept)

theorem dropNode {p : Nat} {va : W64} (h : Canonical s) : Canonical (s.dropNode p va) := h.onPart fun _ kept => kept

theorem onNode {p : Nat} {va : W64} {f : Node → Node} (h : Canonical s) : Canonical (s.onNode p va f) := h.onPart fun _ kept => kept

theorem isFinal {p : Nat} {va : W64} (h : Canonical s) : CanonicalHub (s.isFinal p va) := by
  unfold State.isFinal
  split
  · exact h
  · exact h.hubTry.map fun _ kept => kept

theorem noteFinal {p : Nat} {va : W64} (h : Canonical s) : CanonicalEx (s.noteFinal p va) :=
  h.hubTry.map fun _ kept => kept.onPart fun _ kept => kept

theorem endNode {p q : Nat} {die : Option Nat} {va : W64} {status : Nat} (h : Canonical s) : CanonicalEx (s.endNode p q die va status) := by
  unfold State.endNode
  split
  · next e => exact h.setStatus.stop e
  · next e => exact (h.setStatus.done e).completion.dropNode.noteFinal

end Canonical

theorem Canonical.cancelAll {s : State} {p q f : Nat} {seen vas : List W64} (h : Canonical s) : CanonicalEx (s.cancelAll p q f seen vas) := by
  induction f generalizing s seen vas with
  | zero => exact h
  | succ f rest =>
    cases vas with
    | nil => exact h
    | cons va vas =>
      unfold State.cancelAll
      split
      · exact rest h
      · split
        · next e => exact h.isFinal.stop e
        · next e => exact rest (h.isFinal.left e)
        · next e =>
          have kept := h.isFinal.left e
          split
          · split
            · next e => exact kept.endNode.stop e
            · next e => exact rest (kept.endNode.done e)
          · split
            · next e => exact kept.hubTry.stop e
            · next e => exact rest (kept.hubTry.left e)
            · next e =>
              have read := kept.hubTry.left e
              split
              · next e => exact read.successors.stop e
              · next e =>
                have followed := read.successors.left e
                split
                · next e => exact followed.endNode.stop e
                · next e => exact rest (followed.endNode.done e)

theorem Canonical.tileDep {s : State} {p : Nat} {va : W64} (h : Canonical s) : CanonicalHub (s.tileDep p va) := by
  unfold State.tileDep
  split
  · next e => exact h.hubTry.stop e
  · next e => exact h.hubTry.left e

theorem Canonical.decSuccs {s : State} {p q die : Nat} {pred : W64} {dep : Bool} {vas : List W64} (h : Canonical s) :
    CanonicalEx (s.decSuccs p q die pred dep vas) := by
  induction vas generalizing s with
  | nil => exact h
  | cons va vas rest =>
    unfold State.decSuccs
    split
    · next e => exact h.tileDep.stop e
    · next t e =>
      have kept := h.tileDep.left e
      extract_lets u
      refine rest ?_
      unfold u
      split
      · exact kept.onOrd fun kept => kept
      · exact kept

namespace Canonical

variable {s : State}

theorem finishNode {n : Node} {die : Option Nat} {st detail : Nat} {subst : Bool} (h : Canonical s) :
    CanonicalEx (s.finishNode n die st detail subst) := by
  unfold State.finishNode
  split
  · next e => exact h.endNode.stop e
  · next e =>
    have ended := h.endNode.done e
    split
    · extract_lets d
      split
      · next e => exact ended.decSuccs.stop e
      · next e =>
        have counted := ended.decSuccs.done e
        split
        · exact counted.decSuccs
        · exact counted
    · exact ended.cancelAll

theorem joinReady {p : Nat} {va : W64} {busy : Nat} (h : Canonical s) : CanonicalEx (s.joinReady p va busy) := by
  unfold State.joinReady
  split
  · exact h
  · split
    · exact h.finishNode
    · split
      · next e => exact h.setStatus.stop e
      · next e => exact onPart (h.setStatus.done e).makeRoom fun _ kept => kept

theorem tryToken {p : Nat} {va : W64} (h : Canonical s) : CanonicalEx (s.tryToken p va) := by
  unfold State.tryToken
  split
  · exact h
  · split
    · exact h
    · extract_lets tk
      split
      · exact h
      · split
        · next e => exact h.hubPut.stop e
        · next e => exact onNode (h.hubPut.done e)

theorem takeNode {p q : Nat} {va : W64} {released : Bool} (h : Canonical s) : CanonicalEx (s.takeNode p q va released) := by
  have block : CanonicalHub (if va.toNat % 256 ≠ 0 then (.error (.fault s .xlate) : HubRes (List Byte)) else s.hubGet p none 5 va 256) := by
    split
    · exact h
    · exact h.hubGet
  unfold State.takeNode
  split
  · next e => exact completion (block.fault e)
  · next e => exact block.stop e
  · next e =>
    have read := block.left e
    split
    · next e => exact read.setStatus.stop e
    · next e =>
      have waits := read.setStatus.done e
      split
      · next e => exact waits.blockCheck.stop e
      · next e =>
        have checked := waits.blockCheck.left e
        extract_lets nonce
        have given : CanonicalHub nonce := by
          unfold nonce
          split
          · exact checked.hubTry
          · exact checked
        clear_value nonce
        split
        · exact given
        · next t =>
          have noted : Canonical t := given
          extract_lets n listed
          split
          · exact noted.finishNode
          · have kept : Canonical listed := noted.onPart fun _ kept => kept
            split
            · next e => exact kept.tryToken.stop e
            · next e =>
              have tried := kept.tryToken.done e
              split
              · exact tried.joinReady
              · exact tried

theorem decrement {d : HubDec} (h : Canonical s) : CanonicalEx (s.decrement d) := by
  unfold State.decrement
  split
  · next e => exact h.hubAtomic.fault e
  · next e => exact h.hubAtomic.stop e
  · next e =>
    have counted := h.hubAtomic.left e
    split
    · exact counted
    · split
      · next e => exact counted.isFinal.stop e
      · next e => exact (counted.isFinal.left e).onPart fun _ kept => kept
      · next e =>
        have unfinished := counted.isFinal.left e
        split
        · trivial
        · split
          · split
            · exact unfinished
            · refine joinReady ?_
              split
              · exact unfinished.onNode
              · exact unfinished
          · split
            · exact unfinished.takeNode
            · exact unfinished

end Canonical

end Sys2Proof.Proofs
end

section
/-! The canonical form of memory: the events of the ordering machine (R291 to R296, R276, R253 to R257). -/

namespace Sys2Proof.Proofs

open Sys2Proof.Machine Sys2Proof.Claims Sys2Proof.Laws

/-! ## The heads of a core's queues (R65, R67, R240, R253 to R258) -/

/-- What a queue operation writes at its completion is in registers. -/
theorem SpadCanonical.qWrite {c : CoreSt} {q : QOp} (h : SpadCanonical c) : SpadCanonical (c.qWrite q).1 := by
  unfold CoreSt.qWrite
  extract_lets tile
  generalize q.op = i
  cases i
  case tld => exact h.setTile
  case xtld pair _ _ _ _ =>
    cases pair
    · exact h.setTile
    · exact setTile (setTile h)
  case amoadd | amoswp | amocas | amomin | amomax | amoand | amoor | binit | arrive => exact h.putS
  all_goals exact h

namespace Canonical

variable {s : State} {g : Nat}

theorem setHead {q : QOp} (h : Canonical s) : Canonical (s.setHead g q) := h.onCore fun _ kept => kept
theorem onNeed {f : Clock → Clock} (h : Canonical s) : Canonical (s.onNeed g f) := h.onCore fun _ kept => kept
theorem setCopy {x : XCmd} (h : Canonical s) : Canonical (s.setCopy g x) := h.onCore fun _ kept => kept
theorem onXneed (h : Canonical s) : Canonical (s.onXneed g) := h.onCore fun _ kept => kept
theorem pollGot {bs : List Byte} (h : Canonical s) : Canonical (s.pollGot g bs) := h.onCore fun _ kept => kept
theorem pollFaulted {k : Cause} {va : W64} (h : Canonical s) : Canonical (s.pollFaulted g k va) := h.onCore fun _ kept => kept
theorem qFault {q : QOp} {k : Cause} {va : W64} (h : Canonical s) : Canonical (s.qFault g q k va) := h.coreDieEvent.setHead
theorem xFault {x : XCmd} {k : Cause} {va : W64} (h : Canonical s) : Canonical (s.xFault g x k va) := h.coreDieEvent.setCopy

theorem qComplete {q : QOp} (h : Canonical s) : Canonical (s.qComplete g q) := by
  unfold State.qComplete
  extract_lets t
  have completed : Canonical t := h.onCore fun c kept => by
    extract_lets r d
    have done : SpadCanonical d := SpadCanonical.tokDone (SpadCanonical.raise kept.qWrite)
    exact done
  exact completed.stampHead

theorem qSettle {q : QOp} (h : Canonical s) : Canonical (s.qSettle g q) := by
  unfold State.qSettle
  split
  · exact h.qComplete
  · exact h.setHead

/-! ## READ and WRITE (R291, R293) -/

theorem qRead (h : Canonical s) : CanonicalOpt (s.qRead g) := by
  unfold State.qRead
  dsimp only
  split
  · split
    · exact .none
    · split
      · exact .none
      · next e => exact .some (h.access_updated e)
      · next e => exact .some (h.access_fault e).qFault
      · next e =>
        have began := h.access_ok e
        split
        · split
          · exact .none
          · exact .some began.countLine.onNeed.qSettle
        · exact .none
  · split
    · exact .none
    · split
      · exact .none
      · split
        · exact .none
        · next e => exact .some (h.access_updated e)
        · next e => exact .some (h.access_fault e).pollFaulted
        · next e =>
          have began := h.access_ok e
          split
          · exact .some began.onNeed.pollGot
          · exact .none

theorem xRead (h : Canonical s) : CanonicalOpt (s.xRead g) := by
  unfold State.xRead
  split
  · split
    · exact .none
    · split
      · exact .none
      · next e => exact .some (h.access_updated e)
      · next e => exact .some (h.access_fault e).xFault
      · next e =>
        have began := h.access_ok e
        split
        · exact .some began.setCopy
        · exact .none
  · exact .none

theorem performAt {d : Nat} {bs : List (Nat × Byte)} (h : Canonical s) : Canonical (s.onOrd fun o => o.perform d bs) :=
  h.onOrd fun kept => kept.perform

theorem qStore (h : Canonical s) : CanonicalOpt (s.qStore g) := by
  unfold State.qStore
  dsimp only
  split
  · split
    · exact .none
    · split
      · exact .none
      · next e => exact .some (h.access_updated e)
      · next e => exact .some (h.access_fault e).qFault
      · next e =>
        have began := h.access_ok e
        split
        · exact .some began.countLine.performAt.onNeed.qSettle
        · exact .none
  · exact .none

theorem xStore (h : Canonical s) : CanonicalOpt (s.xStore g) := by
  unfold State.xStore
  split
  · split
    · exact .none
    · split
      · exact .none
      · split
        · exact .none
        · next e => exact .some (h.access_updated e)
        · next e => exact .some (h.access_fault e).xFault
        · next e =>
          have began := h.access_ok e
          split
          · exact .some began.performAt.onXneed.setCopy
          · exact .none
  · exact .none

theorem execRead {x : Bool} (h : Canonical s) : CanonicalOut (execRead g x s) := by
  refine .coreEvent ?_
  cases x
  · exact h.qRead
  · exact h.xRead

theorem execWrite {x : Bool} (h : Canonical s) : CanonicalOut (execWrite g x s) := by
  refine .coreEvent ?_
  cases x
  · exact h.qStore
  · exact h.xStore

/-! ## Atomics at their die (R257, R294) -/

theorem execSend (h : Canonical s) : CanonicalOut (execSend g s) := by
  refine .coreEvent ?_
  split
  · split
    · exact .none
    · split
      · exact .none
      · next e => exact .some (h.access_updated e)
      · next e => exact .some (h.access_fault e).qFault
      · next e =>
        have began := h.access_ok e
        split
        · exact .some (onOrd began.setHead fun kept => kept)
        · exact .none
  · exact .none

theorem arbitratedAt {d pa i : Nat} {bs : List Byte} (h : Canonical s) :
    Canonical (s.onOrd fun o => { (o.arbitrated d pa bs) with waiting := o.waiting.eraseIdx i }) := h.onOrd fun kept => kept.arbitrated

theorem arbitrateCore {i : Nat} {w : Waiting} (h : Canonical s) : CanonicalOpt (s.arbitrateCore i w) := by
  unfold State.arbitrateCore
  dsimp only
  split
  · split
    · exact .some h.onNeed.arbitratedAt.onNeed.qComplete
    · exact .none
  · exact .none

theorem arbitrateDec {i : Nat} {d : HubDec} (h : Canonical s) : CanonicalOpt (s.arbitrateDec i d) := by
  have left : Canonical (s.onOrd fun o => { o with waiting := o.waiting.eraseIdx i }) := h.onOrd fun kept => kept
  unfold State.arbitrateDec
  split
  · exact .none
  · exact h.hubNext left.decrement

theorem execArbitrate {i : Nat} (h : Canonical s) : CanonicalOut (execArbitrate i s) := by
  refine .event ?_
  split
  · exact .none
  · split
    · exact h.arbitrateDec
    · exact h.arbitrateCore

/-! ## Ports (R276) -/

theorem portWrite {p off : Nat} {bs : List Byte} (h : Canonical s) : Canonical (s.onCore p fun c => c.spadWrite off bs) :=
  h.onCore fun _ kept => kept.spadWrite

theorem qPort (h : Canonical s) : CanonicalOpt (s.qPort g) := by
  unfold State.qPort
  dsimp only
  split
  · exact .none
  · split
    · split
      · exact .some h.qComplete
      · exact .none
    · split
      · next e => exact .some (h.access_updated e)
      · next e =>
        have began := h.access_ok e
        split
        · split
          · exact .none
          · split
            · exact .none
            · split
              · exact .none
              · next e => exact .some (began.portTry e).setHead
              · next e =>
                have served := began.portTry e
                split
                · exact .some served.qSettle
                · split
                  · exact .some served.portWrite.qSettle
                  · exact .some served.portWrite.qSettle
        · exact .none
      · exact .none

theorem pollSeen {f : Reached → Reached} (h : Canonical s) : Canonical (s.onCore g fun c => { c with reached := f c.reached }) :=
  h.onCore fun _ kept => kept

theorem pollPort (h : Canonical s) : CanonicalOpt (s.pollPort g) := by
  unfold State.pollPort
  dsimp only
  split
  · next b v _ =>
    split
    · exact .some (h.pollSeen (f := fun r => { r with polled := some b, pollAt := none, pollPort := .none }))
    · exact .none
  · split
    · exact .none
    · split
      · exact .none
      · split
        · next e => exact .some (h.access_updated e)
        · next e =>
          have began := h.access_ok e
          split
          · next p off _ =>
            split
            · exact .none
            · next e => exact .some ((began.portTry e).pollSeen (f := fun r => { r with pollPort := some p }))
            · next e =>
              have served := began.portTry e
              split
              · exact .some served.pollGot
              · split
                · next b _ => exact .some (served.pollSeen (f := fun r => { r with pollAt := some (b, _), pollPort := .none }))
                · exact .some served.pollGot
          · exact .none
        · exact .none

theorem xPortAt {x : XCmd} {p off : Nat} (h : Canonical s) : CanonicalOpt (s.xPortAt g x p off) := by
  unfold State.xPortAt
  split
  · exact .none
  · split
    · exact .none
    · next e => exact .some (h.portTry e).setCopy
    · next e =>
      have served := h.portTry e
      split
      · exact .some served.portWrite.setCopy
      · exact .some served.setCopy

theorem xPort (h : Canonical s) : CanonicalOpt (s.xPort g) := by
  unfold State.xPort
  split
  · exact .none
  · extract_lets wr
    split
    · exact h.xPortAt
    · split
      · next e => exact .some (h.access_updated e)
      · next e =>
        have began := h.access_ok e
        split
        · exact began.xPortAt
        · exact .none
      · exact .none

end Canonical

/-- The first of two answers, or the second. -/
theorem CanonicalOpt.or {a b : Option State} (first : CanonicalOpt a) (second : CanonicalOpt b) : CanonicalOpt (a.or b) := by
  cases a with
  | none => exact second
  | some t => exact first

namespace Canonical

variable {s : State} {g : Nat}

theorem execPort {x : Bool} (h : Canonical s) : CanonicalOut (execPort g x s) := by
  refine .coreEvent ?_
  cases x
  · exact h.qPort.or h.pollPort
  · exact h.xPort

/-! ## The ingress buffers (R277, R278) -/

theorem depositLine {part p off : Nat} {bs : List Byte} (h : Canonical s) : CanonicalOpt (s.depositLine part p off bs) := by
  unfold State.depositLine
  split
  · exact .some h.ingressAdd
  · exact .none

theorem execDeposit {x : Bool} (h : Canonical s) : CanonicalOut (execDeposit g x s) := by
  refine .coreEvent ?_
  cases x
  · simp only [Bool.false_eq_true, if_false]
    split
    · split
      · exact .none
      · split
        · next e => exact .some (h.access_updated e)
        · next e =>
          have began := h.access_ok e
          split
          · exact began.depositLine.map fun _ kept => kept.qSettle
          · exact .none
        · exact .none
    · exact .none
  · simp only [if_true]
    split
    · split
      · exact .none
      · split
        · exact .none
        · split
          · next e => exact .some (h.access_updated e)
          · next e =>
            have began := h.access_ok e
            split
            · exact began.depositLine.map fun _ kept => kept.setCopy
            · exact .none
          · exact .none
    · exact .none

theorem execDrain (h : Canonical s) : CanonicalOut (execDrain g s) := by
  refine .coreEvent ?_
  split
  · exact h.drainOne.map fun _ kept => kept.onCore fun _ kept => kept.drained1
  · exact .none

/-! ## Host memory (R296, R293) -/

theorem hostPutAt {pa : Nat} {bs : List Byte} (h : Canonical s) : Canonical (s.onOrd fun o => { o with host := amWrite o.host pa bs }) :=
  h.onOrd fun kept => kept.hostWrite

theorem qHost (h : Canonical s) : CanonicalOpt (s.qHost g) := by
  unfold State.qHost
  dsimp only
  split
  · split
    · exact .none
    · split
      · next e => exact .some (h.access_updated e)
      · next e =>
        have began := h.access_ok e
        split
        · split
          · exact .none
          · split
            · exact .some began.countLine.qSettle
            · split
              · exact .some began.countLine.sendHost.qSettle
              · exact .some began.hostPutAt.qSettle
        · exact .none
      · exact .none
  · split
    · exact .none
    · split
      · exact .none
      · split
        · next e => exact .some (h.access_updated e)
        · next e =>
          have began := h.access_ok e
          split
          · exact .some began.pollGot
          · exact .none
        · exact .none

theorem xHost (h : Canonical s) : CanonicalOpt (s.xHost g) := by
  unfold State.xHost
  split
  · exact .none
  · split
    · exact .none
    · split
      · split
        · next e => exact .some (h.access_updated e)
        · next e =>
          have began := h.access_ok e
          split
          · exact .some began.setCopy
          · exact .none
        · exact .none
      · split
        · exact .none
        · split
          · next e => exact .some (h.access_updated e)
          · next e =>
            have began := h.access_ok e
            split
            · exact .some began.sendHost.setCopy
            · exact .none
          · exact .none

theorem execHostop {x : Bool} (h : Canonical s) : CanonicalOut (execHostop g x s) := by
  refine .coreEvent ?_
  cases x
  · exact h.qHost
  · exact h.xHost

theorem execObserve {i : Nat} (h : Canonical s) : CanonicalOut (execObserve i s) := by
  refine .event ?_
  split
  · exact .none
  · next w _ =>
    split
    · exact .none
    · exact .some (h.onOrd fun kept => kept.hostPut (bs := w.bytes))

/-! ## DELIVER and APPLY (R292) -/

theorem setOrd {o : Order} (h : Canonical s) (new : OrderCanonical o) : Canonical { s with ord := o } := ⟨h.1, new, h.hub⟩

theorem execDeliver {i j : Nat} (h : Canonical s) : CanonicalOut (execDeliver i j s) := by
  refine .event fun t e => ?_
  obtain ⟨o, delivered, rfl⟩ := Option.map_eq_some_iff.mp e
  exact h.setOrd (h.order.deliver delivered)

theorem execApply {j k : Nat} (h : Canonical s) : CanonicalOut (execApply j k s) := by
  refine .event fun t e => ?_
  obtain ⟨o, applied, rfl⟩ := Option.map_eq_some_iff.mp e
  exact h.setOrd (h.order.applyAt applied)

end Canonical

end Sys2Proof.Proofs
end

section
/-! The canonical form of memory: copy commands, the hub copy engine, group fetch, landings, waits, barriers and doorbells (R254 to R258, R276,
R295, R302, R351). -/

namespace Sys2Proof.Proofs

open Sys2Proof.Machine Sys2Proof.Claims Sys2Proof.Laws

namespace Canonical

variable {s : State} {g : Nat}

/-! ## Copy commands (R295, R346) -/

theorem submit {i : Instr} {w : BitVec 3} {f : CoreSt → XArgs} (h : Canonical s) : Canonical (s.submit i w f) := h.onCur fun _ kept => kept

theorem memberCore {p : Nat} {node : W64} {inst m : Nat} (h : Canonical s) : CanonicalHub (s.memberCore p node inst m) := by
  unfold State.memberCore
  split
  · exact h
  · extract_lets ga
    split
    · next e => exact h.hubGet.stop e
    · next e =>
      have read := h.hubGet.left e
      split
      · next e => exact read.hubGet.stop e
      · next e => exact read.hubGet.left e

theorem descRead {x : XCmd} (h : Canonical s) : CanonicalHub (s.descRead g x) := by
  unfold State.descRead
  split
  · trivial
  · next e => exact h.access_updated e
  · next e => exact h.access_fault e
  · next e =>
    have began := h.access_ok e
    split
    · split
      · trivial
      · next e => exact (began.portTry e).setCopy
      · next e => exact (began.portTry e).setCopy
    · split
      · next e => exact began.locRead.stop e
      · next e => exact began.locRead.left e

theorem startPipe {x : XCmd} {put : Bool} (h : Canonical s) : CanonicalOpt (s.startPipe g x put) := by
  unfold State.startPipe
  extract_lets p
  split
  · exact .none
  · exact h.payPte
  · next e => exact .some (h.descRead.fault e).xFault
  · next e => exact .some (h.descRead.left e)
  · next e =>
    have read := h.descRead.left e
    dsimp only
    split
    · exact .some read.xFault
    · refine iteInduction (motive := CanonicalOpt) (fun _ => .some read.xFault) fun _ => ?_
      · split
        · exact .none
        · exact h.payPte
        · next e => exact .some (read.memberCore.fault e).xFault
        · next e => exact .some (read.memberCore.left e).xFault
        · next e =>
          have found := read.memberCore.left e
          refine iteInduction (motive := CanonicalOpt) (fun _ => .some found.xFault) fun _ => ?_
          refine iteInduction (motive := CanonicalOpt) (fun _ => ?_) fun _ => .some found.setCopy
          split
          · exact .some found
          · exact .none

theorem execCopyCommandStart (h : Canonical s) : CanonicalOut (execCopyCommandStart g s) := by
  refine .coreEvent ?_
  dsimp only
  split
  · exact .none
  · next x _ _ =>
    split
    · exact .none
    · have other (y z : XCmd) : CanonicalOpt (if 2 ^ 32 ≤ x.len then some (s.xFault g y .engine 0) else some (s.setCopy g z)) := by
        split
        · exact .some h.xFault
        · exact .some h.setCopy
      generalize x.op = i
      cases i
      case pput | pget => exact h.startPipe
      all_goals exact other _ _

theorem pipeAtomic {x : XCmd} {put : Bool} (h : Canonical s) : CanonicalEx (s.pipeAtomic g x put) := by
  unfold State.pipeAtomic
  extract_lets d
  split
  · trivial
  · next e => exact h.access_updated e
  · next e => exact h.access_fault e
  · next e =>
    have began := h.access_ok e
    extract_lets
    split
    · split
      · exact setCopy (onXneed (began.onOrd fun kept => kept.arbitrated))
      · trivial
    · exact setCopy began.hostPutAt
    · split
      · trivial
      · split
        · trivial
        · next e => exact (began.portTry e).setCopy
        · next e => exact setCopy (began.portTry e).portWrite
    · exact began

theorem copyDone {x : XCmd} (h : Canonical s) : Canonical (s.copyDone g x) := by
  unfold State.copyDone
  extract_lets t
  have completed : Canonical t := h.onCore fun c kept => by
    extract_lets d
    have done : SpadCanonical d := SpadCanonical.tokDone kept.raise
    exact done
  split
  · exact completed
  · exact completed.onOrd fun kept => kept

theorem execCopyCommandComplete (h : Canonical s) : CanonicalOut (execCopyCommandComplete g s) := by
  refine .coreEvent ?_
  split
  · exact .none
  · next x _ _ =>
    split
    · exact .none
    · split
      · generalize (match x.op with | .pput _ _ _ _ => true | _ => false) = put
        split
        · next e => exact .some (h.pipeAtomic.fault e).xFault
        · exact .none
        · next e =>
          have moved := h.pipeAtomic.done e
          split
          · refine .some ?_
            split
            · exact moved.copyDone
            · exact moved
          · exact .some moved
      · split
        · exact .some h.copyDone
        · exact .none

/-! ## The hub copy engine (R328, R351) -/

theorem setHubCopy {x : Option HubCopy} (h : Canonical s) : Canonical (s.setHubCopy x) := h

theorem copyTake {p : Nat} (h : Canonical s) : CanonicalOpt (s.copyTake p) := by
  unfold State.copyTake
  split
  · exact .none
  · split
    · exact h.hubNext h.finishNode
    · exact h.hubNext (h.setStatus.map fun _ kept => kept)

theorem putProgress {n : Node} {k : Nat} (h : Canonical s) : CanonicalEx (s.putProgress n k) := by
  unfold State.putProgress
  split
  · next e => exact h.hubPut.fault e
  · exact h.hubPut

theorem copyPark {x : HubCopy} {n : Node} {k : Cause} {va : W64} (h : Canonical s) : CanonicalEx (s.copyPark x n k va) := by
  unfold State.copyPark
  split
  · next e => exact h.setStatus.stop e
  · next e =>
    exact (h.setStatus.done e).putProgress.map fun u kept => setHubCopy (onPart (onNode (s := u) kept) fun _ kept => kept)

theorem copyLine {x : HubCopy} {n : Node} (h : Canonical s) : CanonicalEx (s.copyLine x n) := by
  unfold State.copyLine
  extract_lets d _ cmd at_ put
  have puts {t : State} (wrote : Option Clock) (kept : Canonical t) : CanonicalEx (put t wrote) :=
    kept.putProgress.map fun u kept => setHubCopy (onNode (s := u) kept)
  clear_value put at_
  split
  · split
    · trivial
    · next e => exact (h.accessFor_fault e).copyPark
    · next e =>
      have began := h.accessFor_ok e
      split
      · split
        · trivial
        · next e => exact (began.portTry e).setHubCopy
        · next e => exact (began.portTry e).setHubCopy
      · split
        · next e => exact (began.locRead.left e).setHubCopy
        · exact began.copyPark
  · split
    · trivial
    · split
      · trivial
      · next e => exact (h.accessFor_fault e).copyPark
      · next e =>
        have began := h.accessFor_ok e
        split
        · split
          · trivial
          · next e => exact puts _ (began.depositLine.get e)
        · split
          · trivial
          · split
            · trivial
            · next e => exact (began.portTry e).setHubCopy
            · next e => exact puts _ (began.portTry e).portWrite
        · exact puts _ began.locWrite

theorem copyAdvance {x : HubCopy} (h : Canonical s) : CanonicalOpt (s.copyAdvance x) := by
  unfold State.copyAdvance
  split
  · exact .some h.setHubCopy
  · split
    · exact .none
    · split
      · exact h.hubNext h.copyLine
      · split
        · exact h.hubNext (h.finishNode.map fun u kept => setHubCopy (s := u) kept)
        · exact .none

theorem execCopyNodeRun {p : Nat} (h : Canonical s) : CanonicalOut (execCopyNodeRun p s) := by
  refine .event ?_
  split
  · exact h.copyTake
  · split
    · exact h.copyAdvance
    · exact .none

theorem execCopyNodeResume {p : Nat} {node : W64} (h : Canonical s) : CanonicalOut (execCopyNodeResume p node s) := by
  refine .event ?_
  split
  · split
    · exact h.hubNext (h.setStatus.map fun u kept => onNode (s := u) kept)
    · exact .none
  · exact .none

end Canonical

/-! ## Group fetch (R90, R91, R302) -/

theorem Canonical.touchPages {s : State} {g f : Nat} {va : W64} {n : Nat} (h : Canonical s) : CanonicalOpt (s.touchPages g f va n) := by
  induction f generalizing s va n with
  | zero => exact .some h
  | succ f rest =>
    unfold State.touchPages
    split
    · exact .some h
    · split
      · exact .none
      · next e => exact rest (h.touchX.get e)

/-- An answer that goes on from another. -/
theorem CanonicalOpt.bind {r : Option State} {f : State → Option State} (h : CanonicalOpt r) (keeps : ∀ t, Canonical t → CanonicalOpt (f t)) :
    CanonicalOpt (r.bind f) := by
  cases r with
  | none => exact .none
  | some t => exact keeps t (h.get rfl)

theorem SpadCanonical.reach {c : CoreSt} {x : Group} {stalls : Nat} {now : W64} (h : SpadCanonical c) : SpadCanonical (c.reach x stalls now) := h

namespace Canonical

variable {s : State} {g : Nat}

theorem touchFault {va : Addr} (h : Canonical s) : CanonicalOpt (s.touchFault g va) := by
  unfold State.touchFault
  split
  · exact .some h
  · exact h.touchX

theorem reachAt {x : Group} {stalls : Nat} {now : W64} (h : Canonical s) : Canonical (s.onCore g fun c => c.reach x stalls now) :=
  h.onCore fun _ kept => kept.reach

theorem fetchNow (h : Canonical s) : CanonicalOpt (s.fetchNow g) := by
  unfold State.fetchNow
  extract_lets c
  split
  · exact .none
  · split
    · exact .some h.findBodies.reachAt
    · split
      · exact (h.touchPages.bind fun _ kept => kept.touchFault).map fun _ kept => kept.takeTrapOn
      · split
        · exact .none
        · exact h.touchPages.map fun _ kept => kept.findBodies.reachAt

theorem execGroupFetch (h : Canonical s) : CanonicalOut (execGroupFetch g s) := by
  refine .coreEvent ?_
  split
  · exact .none
  · split
    · exact h.touchX
    · exact h.fetchNow

theorem execResultLanding (h : Canonical s) : CanonicalOut (execResultLanding g s) := by
  refine .coreEvent ?_
  dsimp only
  split
  · exact .some (h.setCore (h.core g).landDue)
  · exact .none

theorem execWaitTimeout (h : Canonical s) : CanonicalOut (execWaitTimeout g s) := by
  refine .coreEvent ?_
  split
  · exact .some (h.pollSeen (f := fun r => { r with polled := some false, pollAt := none, pollPort := .none }))
  · exact .none

theorem execBarrierCompletion (h : Canonical s) : CanonicalOut (execBarrierCompletion g s) := by
  refine .coreEvent ?_
  split
  · exact .none
  · split
    · exact .none
    · exact .some (h.foldl fun _ _ kept => kept.onCore fun _ kept => kept)

end Canonical

/-! ## Doorbells (R325 to R328) -/

/-- Filling a ring keeps it in canonical form. -/
theorem amWf_ringFill {ring : AMap W64} (size : Nat) (es : List W64) (t : Nat) (h : amWf 0 ring = true) :
    amWf 0 (ringFill ring size t es) = true := by
  induction es generalizing ring t with
  | nil => exact h
  | cons e es rest => exact rest (t + 1) (amWf_amSet _ _ h)

namespace Canonical

variable {s : State} {g : Nat}

theorem doorbell {q : Nat} {tail : W32} (h : Canonical s) : Canonical (s.doorbell q tail) := h.onQueue fun _ kept => kept

theorem rung {q : Nat} {entries : List W64} (h : Canonical s) :
    Canonical (s.onQueue q fun x => { x with ring := ringFill x.ring x.size.toNat x.tail.toNat entries }) :=
  h.onQueue fun x kept => amWf_ringFill x.size.toNat entries x.tail.toNat kept

theorem execHostDoorbell {q : Nat} {tail : W32} {entries : List W64} (h : Canonical s) : CanonicalOut (execHostDoorbell q tail entries s) := by
  refine .event ?_
  split
  · exact .some h.rung.doorbell
  · exact .none

theorem execDequeue {q : Nat} (h : Canonical s) : CanonicalOut (execDequeue q s) := by
  refine .event ?_
  extract_lets _ x p t va u
  split
  · exact .none
  · have advanced : Canonical u := h.swapIn.onQueue fun _ kept => kept
    exact h.hubNext advanced.takeNode

end Canonical

end Sys2Proof.Proofs
end

section
/-! The canonical form of memory: the round of a partition's queues, launch, dispatch and preemption requests (R331 to R340, R351 to R360). -/

namespace Sys2Proof.Proofs

open Sys2Proof.Machine Sys2Proof.Claims Sys2Proof.Laws

/-! ## Every entry of a sparse map -/

/-- What holds of every entry, and of what an unlisted address reads as, holds of every read. -/
theorem amGet_all {α : Type} {d : α} {P : α → Prop} {m : AMap α} (default : P d) (all : ∀ x ∈ m, P x.2) (k : Nat) : P (amGet d m k) := by
  induction m with
  | nil => exact default
  | cons x m rest =>
    have tail := rest fun y listed => all y (List.mem_cons_of_mem x listed)
    unfold amGet
    split
    · exact all x List.mem_cons_self
    · split
      · exact default
      · exact tail

/-- An entry above the first of a map is above it in address. -/
theorem lt_of_amAbove {α : Type} [DecidableEq α] {d : α} {b : Nat} {m : AMap α} {x : Nat × α} (h : amWf d m = true) (above : amAbove b m = true)
    (listed : x ∈ m) : b < x.1 := by
  induction m generalizing b with
  | nil => cases listed
  | cons y m rest =>
    obtain ⟨⟨_, past⟩, tail⟩ : (y.2 ≠ d ∧ amAbove y.1 m = true) ∧ amWf d m = true := by simpa [amWf] using h
    have below : b < y.1 := by simpa [amAbove] using above
    obtain rfl | later := List.mem_cons.mp listed
    · exact below
    · exact below.trans (rest tail past later)

/-- An entry of a map in canonical form is what a read of its address gives. -/
theorem amGet_of_mem {α : Type} [DecidableEq α] {d : α} {m : AMap α} {x : Nat × α} (h : amWf d m = true) (listed : x ∈ m) :
    amGet d m x.1 = x.2 := by
  induction m with
  | nil => cases listed
  | cons y m rest =>
    obtain ⟨⟨_, past⟩, tail⟩ : (y.2 ≠ d ∧ amAbove y.1 m = true) ∧ amWf d m = true := by simpa [amWf] using h
    obtain rfl | later := List.mem_cons.mp listed
    · exact (amGet_head h).1
    · have above := lt_of_amAbove tail past later
      rw [amGet, if_neg (by omega), if_neg (by omega)]
      exact rest tail later

/-- The ring of every listed queue is in canonical form. -/
theorem QueuesCanonical.listed {m : AMap Queue} (h : QueuesCanonical m) {x : Nat × Queue} (listed : x ∈ m) : RingCanonical x.2 :=
  amGet_of_mem h.1 listed ▸ h.2 x.1

/-! ## The round of the queues (R333) -/

namespace Canonical

variable {s : State} {g : Nat}

theorem setQueues {m : AMap Queue} (h : Canonical s) (new : QueuesCanonical m) : Canonical { s with hub := { s.hub with queues := m } } :=
  ⟨h.1, h.order, h.2.2.1, new, h.2.2.2.2⟩

theorem endRound {p prio : Nat} {qs : List Nat} (h : Canonical s) : Canonical (s.endRound p prio qs) := by
  refine h.setQueues ⟨amWf_endRound s p prio qs h.queues.1, amGet_all rfl fun x listed => ?_⟩
  obtain ⟨y, was, rfl⟩ := List.mem_map.mp (List.mem_filter.mp listed).1
  have ring := h.queues.listed was
  dsimp only
  split <;> exact ring

end Canonical

theorem Canonical.drr {s : State} {p prio : Nat} {qs : List Nat} {f : Nat} {pos : Option Nat} (h : Canonical s) :
    Canonical (s.drr p prio qs f pos).1 := by
  induction f generalizing s pos with
  | zero => exact h
  | succ f rest =>
    unfold State.drr
    extract_lets serve
    split
    · exact h
    · split
      · exact rest (h.onQueue fun _ kept => kept)
      · exact rest h.endRound

/-! ## The core that a step enters (R316, R318, R321) -/

namespace SpadCanonical

variable {c : CoreSt}

theorem loseLatches (h : SpadCanonical c) : SpadCanonical c.loseLatches := h

theorem withStatus {st : Status} (h : SpadCanonical c) : SpadCanonical { c with status := st } := h

theorem loadAbi {st : StepInfo} (h : SpadCanonical c) : SpadCanonical (c.loadAbi st) :=
  SpadCanonical.foldl (setSreg (setSreg (SpadCanonical.foldl h.setSreg fun _ _ kept => kept.setSreg))) fun _ _ kept => kept.setSreg

end SpadCanonical

namespace Canonical

variable {s : State} {g : Nat}

/-! ## The choice of a dispatch (R331 to R337) -/

theorem dropReserve {p : Nat} (h : Canonical s) : Canonical (s.dropReserve p) := by
  unfold State.dropReserve
  split
  · exact h
  · exact onPart (h.foldl fun _ _ kept => kept.onCore fun _ kept => kept) fun _ kept => kept

theorem expireReserve {p : Nat} (h : Canonical s) : Canonical (s.expireReserve p) := by
  unfold State.expireReserve
  split
  · exact h
  · exact h.dropReserve.onPart fun _ kept => kept

theorem choose {p : Nat} (h : Canonical s) : Canonical (s.choose p).1 := by
  unfold State.choose
  extract_lets t pt hs top kept u
  have began : Canonical t := by
    unfold t
    split
    · exact h.expireReserve
    · exact h
  clear_value t
  split
  · show Canonical (if _ then t else t.dropReserve p)
    split
    · exact began
    · exact began.dropReserve
  · clear_value kept
    split
    · exact began
    · have dropped : Canonical u := began.dropReserve
      split
      · exact dropped
      · exact dropped.drr.onPart fun _ kept => kept

/-! ## Launch (R316, R318) -/

theorem launch {st : StepInfo} (h : Canonical s) : Canonical (s.launch g st) := by
  unfold State.launch
  extract_lets p pt gang t _ u
  have ordered : Canonical t := dieEvent (h.onPart fun _ kept => kept)
  have entered : Canonical u := ordered.onCore fun c kept => by
    extract_lets d
    have cleared : SpadCanonical d := kept.landAll
    exact cleared
  exact entered.traceIf

theorem launchAll {α : Type} {cores : List α} {place : α → Nat} {st : State → α → StepInfo} (h : Canonical s) :
    Canonical (cores.foldl (fun t x => t.launch (place x) (st t x)) s) := h.foldl fun _ _ kept => kept.launch

theorem execLaunchAbiLoadEnd (h : Canonical s) : CanonicalOut (execLaunchAbiLoadEnd g s) := by
  refine .coreEvent ?_
  dsimp only
  split
  · next st _ _ =>
    split
    · exact .some (h.setCore (SpadCanonical.withStatus (h.core g).loadAbi))
    · exact .none
  · exact .none

theorem writeCores {n : Node} {inst : Nat} {logical : List (Nat × Nat)} (h : Canonical s) : CanonicalEx (s.writeCores n inst logical) := by
  unfold State.writeCores
  split
  · exact h
  · extract_lets bs
    split
    · next e => exact h.hubPut.fault e
    · exact h.hubPut

theorem placeBlock {n : Node} {cores : List Nat} (h : Canonical s) : CanonicalEx (s.placeBlock n cores) := by
  unfold State.placeBlock
  extract_lets p k inst gd logical first
  have started : CanonicalEx first := by
    unfold first
    split
    · exact h
    · split
      · next e => exact h.setStatus.stop e
      · next e => exact (h.setStatus.done e).onNode.decSuccs
  clear_value first
  split
  · exact started
  · next t =>
    have begun : Canonical t := started
    extract_lets named
    have wrote : CanonicalEx named := by
      unfold named
      split
      · exact begun.writeCores
      · exact begun
    clear_value named
    split
    · exact wrote
    · next u =>
      have kept : Canonical u := wrote
      extract_lets noted charged placed
      have paid : Canonical charged := kept.onNode.onQueue fun _ kept => kept
      have launched : Canonical placed := paid.launchAll
      exact launched.dropReserve.onPart fun _ kept => kept

theorem placeRestart {st : StepInfo} (h : Canonical s) : CanonicalEx (s.placeRestart st g) := by
  unfold State.placeRestart
  extract_lets p t u v
  have taken : Canonical t := h.onPart fun _ kept => kept
  have charged : Canonical u := by
    unfold u
    split
    · exact taken.onQueue fun _ kept => kept
    · exact taken
  have launched : Canonical v := charged.launch
  split
  · exact launched.writeCores
  · exact launched

theorem reserveFor {p : Nat} {o : Offer} (h : Canonical s) : Canonical (s.reserveFor p o) := h.onPart fun _ kept => kept

theorem execDispatch {p : Nat} {cores : List Nat} (h : Canonical s) : CanonicalOut (execDispatch p cores s) := by
  refine .event ?_
  split
  · exact .none
  · split
    · exact .none
    · next chosen =>
      have began := h.choose (p := p)
      rw [chosen] at began
      dsimp only at began ⊢
      split
      · split
        · exact .some began.reserveFor
        · exact .none
      · split
        · exact .none
        · split
          · exact h.hubNext began.placeBlock
          · exact h.hubNext began.placeRestart
          · exact .none

theorem execGangReservationExpiry {p : Nat} (h : Canonical s) : CanonicalOut (execGangReservationExpiry p s) := by
  refine .event ?_
  split
  · exact .some h.expireReserve
  · exact .none

/-! ## Start vectors (R338) -/

theorem startVector {p : Nat} {va : W64} (h : Canonical s) : CanonicalEx (s.startVector p va) := by
  unfold State.startVector
  extract_lets pt n set busy
  have sets {t : State} (st : Nat) (kept : Canonical t) : Canonical (set st t) := kept.onPart fun _ kept => kept
  have busies {t : State} (kept : Canonical t) : Canonical (busy t) := kept.onPart fun _ kept => kept
  clear_value set busy
  split
  · trivial
  · split
    · exact busies h
    · split
      · exact sets _ h
      · split
        · next e => exact h.hubTry.stop e
        · next e => exact sets _ (h.hubTry.left e)
        · next e =>
          have read := h.hubTry.left e
          split
          · exact sets _ read
          · split
            · exact busies read
            · extract_lets u
              have running : Canonical u := (sets 1 read).onPart fun _ kept => kept
              exact running.launchAll (place := id)

theorem execStartVectorWrite {p : Nat} {va : W64} (h : Canonical s) : CanonicalOut (execStartVectorWrite p va s) := by
  refine .event ?_
  split
  · exact h.hubNext h.startVector
  · exact .none

/-! ## Requests to save and to yield, and tokens (R352 to R360, R373) -/

theorem request {cores : List Nat} {f : Requests → Requests} (h : Canonical s) :
    Canonical (cores.foldl (fun t g => t.onCore g fun c => { c with req := f c.req }) s) := h.foldl fun _ _ kept => kept.onCore fun _ kept => kept

theorem askSave {cores : List Nat} (h : Canonical s) : Canonical (s.askSave cores) := h.request (f := fun r => { r with preempt := true })

theorem execPreemptionRequest (h : Canonical s) : CanonicalOut (execPreemptionRequest g s) := by
  refine .coreEvent ?_
  split
  · exact .none
  · dsimp only
    split
    · exact .none
    · have asked := h.request (cores := s.mates g) (f := fun r => { r with preempt := true })
      exact iteInduction (motive := CanonicalOpt) (fun _ => .some asked.dropReserve) fun _ => .none

theorem yieldAt {p : Nat} {va : W64} (h : Canonical s) : Canonical (s.yieldAt p va g) :=
  onPart (h.request (f := fun r => { r with yield := true })) fun _ kept => kept

theorem execYield (h : Canonical s) : CanonicalOut (execYield g s) := by
  refine .coreEvent ?_
  split
  · exact .none
  · dsimp only
    split
    · exact .none
    · intro t e
      obtain ⟨x, _, rfl⟩ := Option.map_eq_some_iff.mp e
      exact h.yieldAt.onPart fun _ kept => kept

theorem execTokenDelivery {p : Nat} {node : W64} (h : Canonical s) : CanonicalOut (execTokenDelivery p node s) := by
  refine .event ?_
  split
  · exact .none
  · split
    · exact .none
    · split
      · exact .none
      · split
        · next e =>
          have tried := h.tryToken.done e
          split
          · exact .some tried
          · exact .none
        · exact h.hubNext h.tryToken

end Canonical

end Sys2Proof.Proofs
end

section
/-! The canonical form of memory: frames saved and restored, gangs, and the retirement of steps (R316 to R324, R339 to R350, R361). -/

namespace Sys2Proof.Proofs

open Sys2Proof.Machine Sys2Proof.Claims Sys2Proof.Laws

/-! ## The ready list of a partition -/

namespace CodeCanonical

variable {pt : Machine.Part}

theorem enterSaved {slot : Nat} {st : StepInfo} {yielded : Bool} (h : CodeCanonical pt) : CodeCanonical (pt.enterSaved slot st yielded) := by
  unfold Part.enterSaved
  dsimp only
  split
  · exact h
  · exact h

theorem endSlice (h : CodeCanonical pt) : CodeCanonical pt.endSlice := h

theorem startSlice {now : W64} (h : CodeCanonical pt) : CodeCanonical (pt.startSlice now) := by
  unfold Part.startSlice
  dsimp only
  split
  · exact h
  · exact h

end CodeCanonical

/-! ## Leaving a core (R318, R319) -/

namespace SpadCanonical

variable {c : CoreSt}

theorem freed (h : SpadCanonical c) : SpadCanonical c.freed := h
theorem setMareg {i : Nat} {x : MaReg} (h : SpadCanonical c) : SpadCanonical (c.setMareg i x) := h
theorem setCreg {i : Nat} {x : W128} (h : SpadCanonical c) : SpadCanonical (c.setCreg i x) := h
theorem setNorm {i : Nat} {x : W32} (h : SpadCanonical c) : SpadCanonical (c.setNorm i x) := h
theorem setAxis {i : Nat} {x : AxisBits} (h : SpadCanonical c) : SpadCanonical (c.setAxis i x) := h
theorem setVreg {i n : Nat} {x m : W512} (h : SpadCanonical c) : SpadCanonical (c.setVreg i n x m) := h
theorem zeroMatrix (h : SpadCanonical c) : SpadCanonical c.zeroMatrix := h
theorem loadDom {b : List Byte} (h : SpadCanonical c) : SpadCanonical (c.loadDom b) := h

theorem setKs {α : Type} {xs : List α} {i n : α → Nat} {x : α → W16} (h : SpadCanonical c) :
    SpadCanonical (xs.foldl (fun c a => c.setK (i a) (n a) (x a)) c) := h.foldl fun _ _ kept => kept.setK

theorem setMaregs {xs : List Nat} {x : Nat → MaReg} (h : SpadCanonical c) :
    SpadCanonical (xs.foldl (fun c i => c.setMareg i (x i)) c) := h.foldl fun _ _ kept => kept.setMareg

theorem loadHeader {b : List Byte} (h : SpadCanonical c) : SpadCanonical (c.loadHeader b) := by
  unfold CoreSt.loadHeader
  extract_lets _ d e f cr
  have preds : SpadCanonical d := h
  have masks : SpadCanonical e := preds.setKs
  have addresses : SpadCanonical f := masks.setMaregs
  exact addresses

theorem loadItems {b : List Byte} (h : SpadCanonical c) : SpadCanonical (c.loadItems b) := by
  unfold CoreSt.loadItems
  extract_lets e s d n a v t c1 c2 c3 c4 c5 c6
  have scalars : SpadCanonical c1 := h.foldl fun _ _ kept => kept.setSreg
  have domains : SpadCanonical c2 := scalars.foldl fun _ _ kept => kept.setCreg
  have norms : SpadCanonical c3 := domains.foldl fun _ _ kept => kept.setNorm
  have axes : SpadCanonical c4 := norms.foldl fun _ _ kept => kept.setAxis
  have vectors : SpadCanonical c5 := axes.foldl fun _ _ kept => kept.setVreg
  have tiles : SpadCanonical c6 := vectors.foldl fun _ _ kept => kept.setTile
  split
  · exact tiles.loadDom
  · exact tiles

end SpadCanonical

/-! ## Frames and gangs (R319, R322, R343) -/

namespace Canonical

variable {s : State} {g : Nat}

theorem physWrite {p pa : Nat} {bs : List Byte} (h : Canonical s) : Canonical (s.physWrite p pa bs) := h.foldl fun _ _ kept => kept.hubWriteOf

theorem enterSaved {p slot : Nat} {st : StepInfo} {yielded : Bool} (h : Canonical s) : Canonical (s.enterSaved p slot st yielded) :=
  h.makeRoom.onPart fun _ kept => kept.enterSaved

end Canonical

theorem Canonical.rings {s : State} {n : Node} {gd : List Byte} {inst f ofs : Nat} (h : Canonical s) : CanonicalHub (s.rings n gd inst f ofs) := by
  induction f generalizing s ofs with
  | zero => exact h
  | succ f rest =>
    unfold State.rings
    extract_lets k va
    split
    · trivial
    · split
      · next e => exact h.hubTry.stop e
      · next e => exact rest (h.hubTry.left e)
      · next e =>
        have read := h.hubTry.left e
        split
        · trivial
        · trivial
        · next e => exact rest (read.memberCore.fault e)
        · next e =>
          have found := read.memberCore.left e
          split
          · next e => exact (rest found).stop e
          · next e => exact (rest found).left e

theorem Canonical.ringSum {s : State} {n : Node} {gd : List Byte} {f : Nat} (h : Canonical s) : CanonicalHub (s.ringSum n gd f) := by
  induction f generalizing s with
  | zero => exact h
  | succ f rest =>
    unfold State.ringSum
    split
    · next e => exact h.hubTry.stop e
    · next e =>
      have read := h.hubTry.left e
      split
      · next e => exact (rest read).stop e
      · next e => exact (rest read).left e

theorem Canonical.moveRing {s : State} {p : Nat} {out : Bool} {r : RingAt} {js : List Nat} (h : Canonical s) :
    CanonicalEx (s.moveRing p out r js) := by
  induction js generalizing s with
  | nil => exact h
  | cons j js rest =>
    unfold State.moveRing
    extract_lets size off va
    split
    · split
      · trivial
      · trivial
      · next e => exact rest (h.hubPut.fault e)
      · next e => exact rest (h.hubPut.done e)
    · split
      · next e => exact h.hubTry.stop e
      · next e => exact rest (h.hubTry.left e)
      · next e => exact rest ((h.hubTry.left e).portWrite)

theorem Canonical.moveRings {s : State} {p : Nat} {out : Bool} {rs : List RingAt} (h : Canonical s) : CanonicalEx (s.moveRings p out rs) := by
  induction rs generalizing s with
  | nil => exact h
  | cons r rs rest =>
    unfold State.moveRings
    split
    · next e => exact h.moveRing.stop e
    · next e => exact rest (h.moveRing.done e)

namespace Canonical

variable {s : State} {g : Nat}

theorem gangRings {n : Node} {inst : Nat} {out : Bool} (h : Canonical s) : CanonicalEx (s.gangRings n inst out) := by
  unfold State.gangRings
  split
  · exact h
  · split
    · next e => exact h.ringSum.stop e
    · next e =>
      have summed := h.ringSum.left e
      split
      · next e => exact summed.rings.stop e
      · next e => exact (summed.rings.left e).moveRings

theorem gangOut {st : StepInfo} (h : Canonical s) : CanonicalEx (s.gangOut st) := by
  unfold State.gangOut
  split
  · exact h.gangRings
  · exact h

theorem freeCore (h : Canonical s) : Canonical (s.setCore g (s.core g).freed.loseLatches) := h.setCore (h.core g).freed.loseLatches

theorem saveTo {slot : Nat} {st : StepInfo} (h : Canonical s) : CanonicalEx (s.saveTo g slot st) := by
  unfold State.saveTo
  extract_lets c p e traced framed banked left listed more
  have written : Canonical banked := h.traceIf.physWrite.physWrite
  have out : Canonical left := written.setCore (h.core g).freed.loseLatches
  have kept : Canonical listed := out.onPart fun _ kept => kept
  split
  · exact kept
  · split
    · next e => exact kept.gangOut.stop e
    · next e => exact (kept.gangOut.done e).enterSaved

theorem dropStep (h : Canonical s) : Canonical (s.dropStep g) := by
  unfold State.dropStep
  extract_lets c t
  have left : Canonical t := h.freeCore.withdraw
  split
  · exact left
  · extract_lets x
    split
    · exact left.onPart fun _ kept => kept
    · exact left.onNode

theorem execSaveAtComma (h : Canonical s) : CanonicalOut (execSaveAtComma g s) := by
  refine .coreEvent ?_
  split
  · split
    · exact .some h.dropStep
    · split
      · exact .none
      · split
        · exact .none
        · exact h.hubNext h.saveTo
  · exact .none

theorem resumeOn {x : Saved} (h : Canonical s) : Canonical (s.resumeOn x g) := by
  unfold State.resumeOn
  extract_lets p pt b banks gang t u _ _ v w
  have listed : Canonical t := h.onPart fun _ kept => kept
  have entered : Canonical u := listed.dieEvent.enterRange.enterRange
  have loaded : Canonical v := entered.onCore fun c kept => by
    extract_lets d e
    have items : SpadCanonical d := kept.landAll.loadHeader.loadItems
    have whole : SpadCanonical e := items.zeroMatrix
    exact whole
  have looped : Canonical w := loaded.onCore fun _ kept => kept
  exact looped.traceIf

theorem gangIn {p : Nat} {x : Saved} (h : Canonical s) : CanonicalEx (s.gangIn p x) := by
  unfold State.gangIn
  split
  · extract_lets members
    split
    · next e => exact h.writeCores.stop e
    · next e => exact (h.writeCores.done e).gangRings
  · exact h

theorem discardFrame {p slot : Nat} (h : Canonical s) : CanonicalOpt (s.discardFrame p slot) := by
  unfold State.discardFrame
  split
  · exact .none
  · refine iteInduction (motive := CanonicalOpt) (fun _ => .none) fun _ => .some ?_
    exact h.makeRoom.onPart fun _ kept => kept

theorem resumed {xs : List (Saved × Nat)} (h : Canonical s) : Canonical (xs.foldl (fun t x => t.resumeOn x.1 x.2) s) :=
  h.foldl fun _ _ kept => kept.resumeOn

theorem execRestore {p slot : Nat} {cores : List Nat} {err : Bool} (h : Canonical s) : CanonicalOut (execRestore p slot cores err s) := by
  refine .event ?_
  split
  · exact h.discardFrame
  · split
    · exact .none
    · split
      · next t k xs chosen =>
        have began : Canonical t := by
          have kept := h.choose (p := p)
          rwa [chosen] at kept
        extract_lets _ _ q u v w
        have moved : Canonical u := began.resumed
        have charged : Canonical v := by
          unfold v q
          split
          · exact moved.onQueue fun _ kept => kept
          · exact moved
        split
        · exact .none
        · split
          · exact .none
          · exact h.hubNext charged.dropReserve.gangIn
      · exact .none

/-! ## Retirement (R324, R347) -/

theorem completeStep {n : Node} {k d : Nat} (h : Canonical s) : CanonicalEx (s.completeStep n k d) := by
  unfold State.completeStep
  extract_lets bit
  have marked : CanonicalEx bit := by
    unfold bit
    split
    · next e => exact h.hubAtomic.left e
    · next e => exact h.hubAtomic.fault e
    · next e => exact h.hubAtomic.stop e
  clear_value bit
  split
  · exact marked
  · next t =>
    have kept : Canonical t := marked
    split
    · next e => exact kept.hubAtomic.fault e
    · next e => exact kept.hubAtomic.stop e
    · next e =>
      have counted := kept.hubAtomic.left e
      split
      · split
        · exact counted.finishNode
        · trivial
      · exact counted

theorem endInstance {n : Node} {inst : Nat} (h : Canonical s) : CanonicalEx (s.endInstance n inst) := by
  unfold State.endInstance
  split
  · next e => exact h.writeCores.stop e
  · next e => exact onNode (h.writeCores.done e)

theorem retireBlock {st : StepInfo} (h : Canonical s) : CanonicalEx (s.retireBlock g st) := by
  unfold State.retireBlock
  split
  · exact h
  · split
    · exact h
    · extract_lets ended
      have gone : CanonicalEx ended := by
        unfold ended
        split
        · exact h.endInstance
        · exact h
      clear_value ended
      split
      · exact gone
      · next t =>
        have kept : Canonical t := gone
        split
        · exact kept
        · exact kept.completeStep

theorem gangLeft {st : StepInfo} (h : Canonical s) : CanonicalEx (s.gangLeft st) := by
  unfold State.gangLeft
  extract_lets p
  refine iteInduction (motive := CanonicalEx) (fun _ => h) fun _ => ?_
  split
  · exact h
  · split
    · next e => exact h.gangOut.stop e
    · next e =>
      split
      · trivial
      · exact (h.gangOut.done e).enterSaved

theorem launchOver {st : StepInfo} (h : Canonical s) : Canonical (s.launchOver st) := by
  unfold State.launchOver
  split
  · exact h.onPart fun _ kept => kept
  · exact h

theorem freeAt (h : Canonical s) : Canonical (s.onCore g CoreSt.freed) := h.onCore fun _ kept => kept.freed

end Canonical

/-- An operation of the hub that goes on from another. -/
theorem CanonicalRun.bind {β γ : Type} {state : β → State} {state' : γ → State} {r : Except HubStop β} {f : β → Except HubStop γ}
    (h : CanonicalRun state r) (keeps : ∀ b, Canonical (state b) → CanonicalRun state' (f b)) : CanonicalRun state' (r.bind f) := by
  cases r with
  | ok b => exact keeps b h
  | error e => exact h

namespace Canonical

variable {s : State} {g : Nat}

theorem execStepRetirement (h : Canonical s) : CanonicalOut (execStepRetirement g s) := by
  refine .coreEvent ?_
  split
  · exact .none
  · split
    · exact .none
    · next st _ _ =>
      extract_lets done
      have retired : CanonicalEx done := by
        unfold done
        split
        · exact h
        · exact h.retireBlock
      refine h.hubNext (retired.bind fun t kept => ?_)
      exact (gangLeft (freeAt (traceIf (s := t) kept))).map fun u kept => launchOver (s := u) kept

end Canonical

end Sys2Proof.Proofs
end

section
/-! The canonical form of memory: substitution, resets and purges, slices and scrubs, and the commands of a partition (R350, R355 to R372). -/

namespace Sys2Proof.Proofs

open Sys2Proof.Machine Sys2Proof.Claims Sys2Proof.Laws

/-! ## Substitution at a deadline (R349, R350) -/

namespace Canonical

variable {s : State} {g : Nat}

/-- New requests for each of a list of cores. -/
theorem requests {cores : List Nat} {f : CoreSt → Requests} (h : Canonical s) :
    Canonical (cores.foldl (fun t g => t.onCore g fun c => { c with req := f c }) s) := h.foldl fun _ _ kept => kept.onCore fun _ kept => kept

theorem substDrop {n : Node} (h : Canonical s) : Canonical (s.substDrop n) := by
  unfold State.substDrop
  extract_lets p pt gone t carry u v
  have dropped : Canonical t := by
    unfold t
    split
    · exact h.dropReserve
    · exact h
  have noted : Canonical v := dropped.onNode.onPart fun _ kept => kept
  exact noted.requests (f := fun c => { c.req with drop := true, preempt := false, yield := false })

end Canonical

theorem Canonical.substCopy {s : State} {p : Nat} {out prev : W64} {size count shift f : Nat} (h : Canonical s) :
    CanonicalEx (s.substCopy p out prev size count shift f) := by
  induction f generalizing s with
  | zero => exact h
  | succ f rest =>
    unfold State.substCopy
    extract_lets i
    split
    · next e => exact h.hubTry.stop e
    · next e => exact rest (h.hubTry.left e)
    · next e =>
      have read := h.hubTry.left e
      split
      · trivial
      · trivial
      · next e => exact rest (read.hubPut.fault e)
      · next e => exact rest (read.hubPut.done e)

theorem Canonical.endInstances {s : State} {p : Nat} {va : W64} {is : List (Nat × Nat)} (h : Canonical s) :
    CanonicalEx (s.endInstances p va is) := by
  induction is generalizing s with
  | nil => exact h
  | cons i is rest =>
    unfold State.endInstances
    split
    · exact h
    · split
      · next e => exact h.endInstance.stop e
      · next e => exact rest (h.endInstance.done e)

theorem Canonical.setBits {s : State} {p : Nat} {va : W64} {n f : Nat} (h : Canonical s) : CanonicalEx (s.setBits p va n f) := by
  induction f generalizing s with
  | zero => exact h
  | succ f rest =>
    unfold State.setBits
    extract_lets m
    split
    · trivial
    · trivial
    · next e => exact rest (h.hubAtomic.fault e)
    · next e => exact rest (h.hubAtomic.left e)

namespace Canonical

variable {s : State} {g : Nat}

theorem substWrite {n : Node} (h : Canonical s) : CanonicalEx (s.substWrite n) := by
  unfold State.substWrite
  split
  · next e => exact h.endInstances.stop e
  · next e =>
    have ended := h.endInstances.done e
    split
    · next e => exact ended.hubTry.stop e
    · next e =>
      have read := ended.hubTry.left e
      extract_lets b
      split
      · next e => exact read.substCopy.stop e
      · next e => exact onNode (read.substCopy.done e)

theorem substStep {n : Node} (h : Canonical s) : CanonicalOpt (s.substStep n) := by
  unfold State.substStep
  split
  · exact .some h.substDrop
  · split
    · exact .none
    · split
      · exact h.hubNext h.substWrite
      · split
        · exact .none
        · exact h.hubNext (h.setBits.bind fun t kept => finishNode (s := t) kept)

theorem execDeadlineExpiry {p : Nat} {node : W64} (h : Canonical s) : CanonicalOut (execDeadlineExpiry p node s) := by
  refine .event ?_
  split
  · exact .none
  · split
    · exact .none
    · exact h.substStep

/-! ## Resets of a partition (R361 to R364) -/

theorem startReset {p : Nat} {why : ScrubReason} (h : Canonical s) : Canonical (s.startReset p why) := by
  unfold State.startReset
  extract_lets t
  have began : Canonical t := h.dropReserve.onPart fun _ kept => kept
  exact began.requests (f := fun c => { c.req with drop := true, preempt := false, yield := false })

theorem execWatchdogExpiry (h : Canonical s) : CanonicalOut (execWatchdogExpiry g s) := by
  refine .coreEvent ?_
  split
  · exact .none
  · extract_lets p pt
    split
    · exact .none
    · have listed : Canonical (s.onPart p fun pt => { pt with expired := s.expiredNodes p }) := h.onPart fun _ kept => kept
      exact .some listed.startReset

theorem execHardCoreReset (h : Canonical s) : CanonicalOut (execHardCoreReset g s) := by
  refine .coreEvent ?_
  split
  · exact .none
  · dsimp only
    split
    · exact .none
    · split
      · exact .some h.dropStep
      · exact .none

end Canonical

theorem Canonical.endAll {s : State} {p : Nat} {xs : List (Nat × W64 × Nat)} (h : Canonical s) : CanonicalEx (s.endAll p xs) := by
  induction xs generalizing s with
  | nil => exact h
  | cons x xs rest =>
    unfold State.endAll
    split
    · next e => exact h.endNode.stop e
    · next e => exact rest (h.endNode.done e)

theorem Canonical.succsOf {s : State} {p : Nat} {xs : List (Nat × W64)} (h : Canonical s) : CanonicalHub (s.succsOf p xs) := by
  induction xs generalizing s with
  | nil => exact h
  | cons x xs rest =>
    obtain ⟨q, va⟩ := x
    have block : CanonicalHub (if va.toNat % 256 ≠ 0 then (.ok (none, s) : HubRes (Option (List Byte))) else s.hubTry p va 256) := by
      split
      · exact h
      · exact h.hubTry
    unfold State.succsOf
    extract_lets one
    have first : CanonicalHub one := by
      unfold one
      split
      · exact h
      · split
        · next e => exact block.stop e
        · next e => exact block.left e
        · next e => exact (successors (block.left e)).map fun _ kept => kept
    exact first.bind fun r kept => (rest kept).map fun _ kept => kept

theorem Canonical.cancelRest {s : State} {p : Nat} {seen : List W64} {xs : List (Nat × List W64)} (h : Canonical s) :
    CanonicalEx (s.cancelRest p seen xs) := by
  induction xs generalizing s seen with
  | nil => exact h
  | cons x xs rest => exact h.cancelAll.bind fun t kept => rest (s := t) kept

theorem Canonical.endGangs {s : State} {p : Nat} {ns : List Node} (h : Canonical s) : CanonicalEx (s.endGangs p ns) := by
  induction ns generalizing s with
  | nil => exact h
  | cons n ns rest => exact h.endInstances.bind fun t kept => rest (s := t) kept

namespace Canonical

variable {s : State} {g : Nat}

theorem purge {p : Nat} {why : ScrubReason} (h : Canonical s) : CanonicalEx (s.purge p why) := by
  unfold State.purge
  extract_lets pt wd base status nodes qs rings all
  split
  · trivial
  · split
    · next e => exact h.succsOf.stop e
    · next e =>
      have read := h.succsOf.left e
      split
      · next e => exact read.endGangs.stop e
      · next e =>
        have gangs := read.endGangs.done e
        split
        · next e => exact gangs.endAll.stop e
        · next e =>
          have ended := gangs.endAll.done e
          split
          · next e => exact ended.cancelRest.stop e
          · next e =>
            extract_lets t cores u _ v
            have emptied : Canonical t := (ended.cancelRest.done e).foldl fun _ _ kept => kept.onQueue fun _ kept => kept
            have left : Canonical u := emptied.onOrd fun kept => kept
            have idle : Canonical v := left
            exact idle.onPart fun _ kept => kept

/-! ## Binding (R365, R370) -/

theorem bindCores {p : Nat} (h : Canonical s) : Canonical (s.bindCores p) := by
  unfold State.bindCores
  extract_lets cs was ks kept loose now
  split
  · exact h
  · exact foldl (h.onPart fun _ kept => kept) fun t k kept => by
      split
      · exact kept.onCore fun _ kept => kept
      · exact kept

theorem homePage {p : Nat} {x : LocalPage} (h : Canonical s) : Canonical (s.homePage p x) := by
  unfold State.homePage
  extract_lets rd
  split
  · extract_lets d
    split
    · exact h
    · split
      · exact h.physWrite
      · exact h
  · exact h

theorem fillScratch {p : Nat} {x : Nat × List Byte} (h : Canonical s) : Canonical (s.fillScratch p x) := by
  unfold State.fillScratch
  split
  · split
    · exact h
    · exact h.portWrite
  · exact h

theorem bindOn {p : Nat} {i : Image} (h : Canonical s) : Canonical (s.bindOn p i) :=
  (h.bindCores.foldl fun _ _ kept => kept.homePage).foldl fun _ _ kept => kept.fillScratch

/-! ## Slices and scrubs (R336, R369 to R374) -/

theorem dropBanks {vf : Nat} (h : Canonical s) : Canonical (s.dropBanks vf) := h

theorem passCores {a vf b : Nat} {m : BitVec 320} (h : Canonical s) : Canonical (s.passCores a vf b m) :=
  onPart (h.onPart fun _ kept => kept) fun _ kept => kept

theorem startSlice {p : Nat} {now : W64} (h : Canonical s) : Canonical (s.onPart p fun pt => pt.startSlice now) :=
  h.onPart fun _ kept => kept.startSlice

theorem execSliceEnd {outgoing incoming : Nat} (h : Canonical s) : CanonicalOut (execSliceEnd outgoing incoming s) := by
  refine .event ?_
  extract_lets a b t u
  split
  · exact .none
  · split
    · exact .none
    · have ended : Canonical t := h.dropReserve.onPart fun _ kept => kept
      have passed : Canonical u := by
        unfold u
        split
        · exact ended
        · exact ended.passCores
      exact .some passed.startSlice

end Canonical

/-- A scrub clears the scratchpad of a core. -/
theorem SpadCanonical.scrubbed {c : CoreSt} : SpadCanonical c.scrubbed := rfl

namespace Canonical

variable {s : State} {g : Nat}

theorem scrubCores {r : Scrub} (h : Canonical s) : Canonical (s.scrubCores r) := by
  unfold State.scrubCores
  extract_lets t u
  have cleared : Canonical t := h.foldl fun _ _ kept => kept.onCore fun _ _ => .scrubbed
  have emptied : Canonical u := cleared.onOrd fun kept => kept
  split
  · exact emptied
  · exact emptied.dropBanks

theorem readBack {found : List (Nat × Nat × Nat)} (h : Canonical s) : Canonical (s.readBack found) := h.foldl fun _ _ kept => kept.coreErrors

theorem bindRegs {p : Nat} (h : Canonical s) : Canonical (s.bindRegs p) := by
  unfold State.bindRegs
  split
  · exact h
  · exact h.foldl fun t x kept => by
      split
      · exact kept
      · exact kept.onCore fun _ kept => kept

theorem numberAgain {p : Nat} (h : Canonical s) : Canonical (s.numberAgain p) := by
  unfold State.numberAgain
  extract_lets pt
  split
  · exact h.bindCores
  · split
    · exact h.bindOn
    · exact h

theorem storeToken {p : Nat} {r : Scrub} (h : Canonical s) : Canonical (s.storeToken p r) := by
  unfold State.storeToken
  extract_lets seq _ t own starts u v
  have counted : Canonical t := h
  have noted : Canonical u := counted.onPart fun _ kept => kept
  have started : Canonical v := by
    unfold v
    split
    · exact noted.startSlice
    · exact noted
  exact started.numberAgain.bindRegs

theorem takeFromOthers {p : Nat} {cores : List Nat} (h : Canonical s) : Canonical (s.takeFromOthers p cores) := h.foldl fun t q kept => by
  split
  · exact kept
  · exact kept.onPart fun pt kept => by
      extract_lets held chosen
      have slice : CodeCanonical chosen := by
        unfold chosen
        split
        · exact kept.endSlice
        · exact kept
      exact slice

theorem execElisionScrub {a : ScrubTurn} (h : Canonical s) : CanonicalOut (execElisionScrub a s) := by
  refine .event ?_
  split
  · exact .none
  · split
    · next r _ =>
      split
      · exact .some h.storeToken
      · split
        · exact .none
        · extract_lets t
          have taken : Canonical t := by
            unfold t
            split
            · exact h.takeFromOthers
            · exact h
          exact .some (taken.scrubCores.readBack.onPart fun _ kept => kept)
    · split
      · split
        · exact .none
        · exact h.hubNext h.purge
      · exact .none

/-! ## Commands (R359, R366, R375 to R377) -/

theorem command {p : Nat} {f : State → Option State} (h : Canonical s) (goes : Canonical s → CanonicalOpt (f s)) : CanonicalOpt (s.command p f) := by
  unfold State.command
  split
  · exact .none
  · split
    · exact .some (h.onPart fun _ kept => kept)
    · exact goes h

theorem cmdDone {p st : Nat} (h : Canonical s) : Canonical (s.cmdDone p st) := h.onPart fun _ kept => kept

end Canonical

/-- A partition that goes out of force forgets its code. -/
theorem CodeCanonical.reloaded {pt : Machine.Part} {e : PartEntry} {changed : Bool} (h : CodeCanonical pt) :
    CodeCanonical (pt.reloaded e changed) := by
  unfold Part.reloaded
  extract_lets on old kept
  have before : CodeCanonical kept := h
  split
  · exact before
  · rfl

namespace Canonical

variable {s : State} {g : Nat}

theorem giveBack {p vf : Nat} (h : Canonical s) : Canonical (s.giveBack p vf) := h.foldl fun t q kept => by
  extract_lets mine
  split
  · exact kept
  · exact kept.passCores

theorem reloadNow {p : Nat} (h : Canonical s) : Canonical (s.reloadNow p) := by
  unfold State.reloadNow
  extract_lets pt e old delta vf on t u runsOn
  have entered : Canonical t := h.onPart fun _ kept => kept.reloaded
  have given : Canonical u := by
    unfold u
    split
    · exact entered
    · exact entered.giveBack
  split
  · refine cmdDone ?_
    split
    · exact given
    · exact given.onPart fun _ kept => kept.endSlice.startSlice
  · exact given.askSave.onPart fun _ kept => kept

theorem reloadTry {p : Nat} (h : Canonical s) : Canonical (s.reloadTry p) := by
  unfold State.reloadTry
  split
  · exact h.cmdDone
  · exact h.reloadNow

theorem deferCommand {p code : Nat} (h : Canonical s) : Canonical (s.deferCommand p code) := h.onPart fun _ kept => kept

theorem cmdReload {p : Nat} (h : Canonical s) : CanonicalOpt (s.cmdReload p) := h.command fun h => by
  refine .some ?_
  split
  · exact h.deferCommand
  · exact h.reloadTry

theorem flushNow {p : Nat} (h : Canonical s) : Canonical (s.flushNow p) := by
  unfold State.flushNow
  extract_lets keep t
  have renewed : Canonical t := h.onPart fun _ kept => kept
  exact renewed.mapCores (f := fun c => { c with tlb := keep c.tlb }) fun _ kept => kept

theorem pendCommand {p code : Nat} {round : Option LogRound} (h : Canonical s) : Canonical (s.pendCommand p code round) := h.onPart fun _ kept => kept

theorem scrubTry {p : Nat} (h : Canonical s) : Canonical (s.scrubTry p) := by
  unfold State.scrubTry
  split
  · exact h.cmdDone
  · exact h.onPart fun _ kept => kept

theorem settlePart {p : Nat} (h : Canonical s) : Canonical (s.settlePart p) := by
  unfold State.settlePart
  split
  · exact h
  · extract_lets free
    have freed : Canonical (free s) := h.onPart fun _ kept => kept
    split
    · split
      · exact h
      · exact freed.reloadTry
    · split
      · split
        · exact h
        · exact freed.scrubTry
      · split
        · exact h
        · exact h.flushNow.onPart fun _ kept => kept

theorem settle (h : Canonical s) : Canonical s.settle := h.settleOwed.foldl fun _ _ kept => kept.settlePart

theorem cmdFlush {p : Nat} (h : Canonical s) : CanonicalOpt (s.cmdFlush p) := h.command fun h => .some h.pendCommand.settlePart

theorem cmdReset {p : Nat} (h : Canonical s) : CanonicalOpt (s.cmdReset p) := h.command fun h => .some (startReset (h.onPart fun _ kept => kept))

theorem cmdScrub {p : Nat} (h : Canonical s) : CanonicalOpt (s.cmdScrub p) := h.command fun h => by
  refine .some ?_
  split
  · exact h.scrubTry
  · exact h.deferCommand

/-! ## The rounds of the dirty log (R375, R376) -/

theorem clearLeaf {p addr : Nat} (h : Canonical s) : Canonical (s.clearLeaf p addr) := by
  unfold State.clearLeaf
  dsimp only
  split
  · exact h
  · exact enterMem (h.onOrd fun kept => kept.arbitrated)

end Canonical

theorem CanonicalOpt.overTable {f : Nat → State → Option State} (keeps : ∀ i t, Canonical t → CanonicalOpt (f i t)) {is : List Nat} {s : State}
    (h : Canonical s) : CanonicalOpt (overTable f is s) := by
  induction is generalizing s with
  | nil => exact .some h
  | cons i is rest =>
    unfold Machine.overTable
    split
    · next e => exact rest ((keeps i s h).get e)
    · exact .none

theorem CanonicalOpt.clearTables {p : Nat} {ls : List (Nat × Nat)} {l table : Nat} {s : State} (h : Canonical s) :
    CanonicalOpt (clearTables p ls l table s) := by
  induction ls generalizing l table s with
  | nil => exact .some h
  | cons x ls rest =>
    unfold Machine.clearTables
    refine CanonicalOpt.overTable (fun i t kept => ?_) h
    extract_lets addr u e
    have entered : Canonical u := by
      unfold u
      split
      · exact kept.enterMem
      · exact kept
    split
    · exact .some kept
    · split
      · exact .none
      · split
        · exact .some entered
        · split
          · refine .some ?_
            split
            · exact entered.clearLeaf
            · exact entered
          · exact rest entered

namespace Canonical

variable {s : State} {g : Nat}

theorem clearD {p : Nat} (h : Canonical s) : CanonicalOpt (s.clearD p) := CanonicalOpt.clearTables h

theorem openRound {p : Nat} (h : Canonical s) : CanonicalOpt (s.openRound p) := clearD (h.enterRange.physWrite.onPart fun _ kept => kept)

theorem cmdLogstart {p : Nat} (h : Canonical s) : CanonicalOpt (s.cmdLogstart p) := h.command fun h =>
  h.openRound.map fun _ kept => settlePart (pendCommand (kept.onPart fun _ kept => kept))

theorem cmdLoground {p : Nat} (h : Canonical s) : CanonicalOpt (s.cmdLoground p) := h.command fun h =>
  h.openRound.map fun _ kept => kept.pendCommand.settlePart

theorem cmdLogstop {p : Nat} (h : Canonical s) : CanonicalOpt (s.cmdLogstop p) := h.command fun h =>
  h.openRound.map fun _ kept => kept.pendCommand.settlePart

theorem setBank {d b : Nat} {x : Bank} (h : Canonical s) : Canonical (s.setBank d b x) := h

end Canonical

end Sys2Proof.Proofs
end

section
/-! The canonical form of memory: counter banks, trap entry, memory errors, and the debugger (R240, R378 to R381, R366, R367, R394 to R403). -/

namespace Sys2Proof.Proofs

open Sys2Proof.Machine Sys2Proof.Claims Sys2Proof.Laws

/-! ## Writes of the debugger (R396 to R403) -/

namespace SpadCanonical

variable {c : CoreSt}

theorem setSlatch {k : Nat} {x : W64} (h : SpadCanonical c) : SpadCanonical (c.setSlatch k x) := h
theorem setVlatch {i k : Nat} {x : W512} (h : SpadCanonical c) : SpadCanonical (c.setVlatch i k x) := h
theorem setXc {n : Nat} {x : W64} (h : SpadCanonical c) : SpadCanonical (c.setXc n x) := by
  unfold CoreSt.setXc
  split <;> exact h

theorem dbgCr {n : Nat} {x : W64} (h : SpadCanonical c) : SpadCanonical (c.dbgCr n x) := by
  unfold CoreSt.dbgCr
  split
  · exact h
  · split
    · exact h
    · split
      · exact h
      · split
        · exact h
        · exact h.crWrite

end SpadCanonical

namespace Canonical

variable {s : State} {g : Nat}

theorem stopCore (h : Canonical s) : Canonical (s.stopCore g) := h.onCore fun _ kept => by
  extract_lets d
  have landed : SpadCanonical d := kept.landAll
  exact landed

theorem breakTrap {index : Nat} (h : Canonical s) : Canonical (s.breakTrap g index) := by
  unfold State.breakTrap
  exact takeTrapOn (h.onCore fun _ kept => kept)

theorem breakAt {b : Nat} (h : Canonical s) : Canonical (s.breakAt g b) := by
  unfold State.breakAt
  extract_lets c t
  have broke : Canonical t := h.pollSeen (f := fun r => { r with broke := true })
  split
  · exact broke.traceIf
  · split
    · exact broke.stopCore
    · exact broke.breakTrap

theorem execBreakpoint {b : Nat} (h : Canonical s) : CanonicalOut (execBreakpoint g b s) := by
  refine .coreEvent ?_
  dsimp only
  split
  · split
    · exact .some h.breakAt
    · exact .none
  · exact .none

theorem watchActs {w : WatchHit} (h : Canonical s) : Canonical (s.watchActs g w) := by
  unfold State.watchActs
  extract_lets c t
  have taken : Canonical t := h.onCore fun _ kept => kept
  split
  · exact taken.trace
  · split
    · exact taken.stopCore
    · exact taken.takeTrapOn

theorem execWatchHit {r : Nat} (h : Canonical s) : CanonicalOut (execWatchHit g r s) := by
  refine .coreEvent ?_
  split
  · split
    · exact .some h.watchActs
    · exact .none
  · exact .none

theorem execStopreq (h : Canonical s) : CanonicalOut (execStopreq g s) :=
  .coreEvent (.some (h.onCore fun _ kept => kept))

theorem stopNow (h : Canonical s) : CanonicalOpt (s.stopNow g) := by
  unfold State.stopNow
  dsimp only
  split
  · exact .none
  · split
    · exact .some h.stopCore
    · split
      · exact .none
      · exact .some h.breakTrap

theorem execDebuggerResume (h : Canonical s) : CanonicalOut (execDebuggerResume g s) := by
  refine .coreEvent ?_
  split
  · exact .some (h.onCore fun _ kept => kept)
  · exact .none

theorem dbgLoops {o : Nat} {data : List Byte} (h : Canonical s) : Canonical (s.dbgLoops g o data) := h.onCore fun _ kept => kept

theorem dbgWrite {ofs : Nat} {data : List Byte} (h : Canonical s) : Canonical (s.dbgWrite g ofs data) := by
  unfold State.dbgWrite
  split
  · exact h.onCore fun _ kept => kept.setWindow.checkAxes
  · split
    · exact h.onCore fun _ kept => kept.setK
    · split
      · exact h.onCore fun _ kept => kept.dbgCr
      · split
        · exact h
        · split
          · exact h.onCore fun _ kept => kept.setXc
          · split
            · exact h.dbgLoops
            · split
              · exact h.onCore fun _ kept => kept.checkAxes
              · exact h

theorem execDebugStateWrite {ofs : Nat} {data : List Byte} (h : Canonical s) : CanonicalOut (execDebugStateWrite g ofs data s) := by
  refine .coreEvent ?_
  dsimp only
  split
  · exact .none
  · exact .some h.dbgWrite

theorem execLatchPortWrite {data : W512} (h : Canonical s) : CanonicalOut (execLatchPortWrite g data s) := by
  refine .coreEvent ?_
  dsimp only
  split
  · exact .none
  · refine .some (h.setCore ?_)
    split
    · exact (h.core g).setSlatch
    · split
      · exact (h.core g).setVlatch
      · exact h.core g

/-! ## Counter banks (R378 to R380) -/

theorem gave {bs : List Byte} (h : Canonical s) : Canonical (s.gave bs) := h.onOrd fun kept => kept

theorem execBankClaim {d b : Nat} {fn : Option Nat} (h : Canonical s) : CanonicalOut (execBankClaim d b fn s) := by
  refine .event ?_
  split
  · exact .some h.setBank
  · exact .none

theorem execBankRelease {d b : Nat} {fn : Option Nat} (h : Canonical s) : CanonicalOut (execBankRelease d b fn s) := by
  refine .event ?_
  split
  · exact .some h.setBank
  · exact .none

theorem execCounterLoRead {fn d b c : Nat} (h : Canonical s) : CanonicalOut (execCounterLoRead fn d b c s) := by
  refine .event ?_
  split
  · dsimp only
    split
    · exact .some (gave (s := { s with hub := { s.hub with hiLatch := vset s.hub.hiLatch fn _ } }) h)
    · exact .some h.gave
  · exact .none

theorem execCounterBankControlRead {fn d b : Nat} (h : Canonical s) : CanonicalOut (execCounterBankControlRead fn d b s) := by
  refine .event ?_
  split
  · extract_lets x t
    have given : Canonical t := h.gave
    refine .some ?_
    split
    · exact given.setBank
    · exact given
  · exact .none

/-! ## Trap entry, and memory errors (R240, R366 to R368) -/

theorem execTrapEntry (h : Canonical s) : CanonicalOut (execTrapEntry g s) := by
  refine .coreEvent ?_
  split
  · split
    · exact .some h.enterTrap
    · exact .none
  · exact .none

theorem stick {line : Nat} (h : Canonical s) : Canonical (s.stick line g) := by
  unfold State.stick
  extract_lets m
  refine h.onCore fun c kept => ?_
  extract_lets _ d _ e
  have operation : SpadCanonical d := by
    unfold d
    split <;> exact kept
  have copy : SpadCanonical e := by
    unfold e
    split <;> exact operation
  split <;> exact copy

theorem stickHub (h : Canonical s) : Canonical s.stickHub := h.setHubCopy

theorem stickAll {cores : List Nat} {line : Nat} {hub : Prop} [Decidable hub] (h : Canonical s) :
    Canonical (cores.foldl (fun t g => t.stick line g) (if hub then s.stickHub else s)) := by
  refine Canonical.foldl ?_ fun _ _ kept => kept.stick
  split
  · exact h.stickHub
  · exact h

theorem execCoreUncorrectableError {kind : BitVec 4} {unit : Byte} {row col : W16} (h : Canonical s) :
    CanonicalOut (execCoreUncorrectableError g kind unit row col s) := by
  refine .coreEvent ?_
  extract_lets c pa hit hub met runs t u
  have stuck : Canonical t := h.stickAll
  have told : Canonical u := by
    unfold u
    split
    · split
      · exact stuck.deliverBlast
      · exact stuck
    · exact stuck
  split
  · exact .some h.setRepair
  · split
    · exact .none
    · refine .some ?_
      split
      · exact told.takeTrapOn
      · exact told

theorem stickEntries {d line : Nat} (h : Canonical s) : Canonical (s.stickEntries d line) := h.onOrd fun kept => kept

theorem execSharedUncorrectableError {row inst pa : Nat} (h : Canonical s) : CanonicalOut (execSharedUncorrectableError row inst pa s) := by
  refine .event ?_
  split
  · exact .none
  · extract_lets near passes hit hubDie hub owners t u rec'
    have stuck : Canonical t := h.stickAll
    have entries : Canonical u := by
      unfold u
      split
      · exact stuck.stickEntries
      · exact stuck
    refine .some (entries.foldl fun t p kept => ?_)
    split
    · exact kept.deliverBlast
    · exact kept

/-- A correctable error of a shared structure is counted. -/
theorem corrected {k : Nat} {x : W64} (h : Canonical s) : Canonical { s with hub := { s.hub with corrErr := amSet 0 s.hub.corrErr k x } } := by
  obtain ⟨spads, order, code, queues, corrErr, rest⟩ := h
  exact ⟨spads, order, code, queues, amWf_amSet _ _ corrErr, rest⟩

theorem execCorrectableError {row inst : Nat} (h : Canonical s) : CanonicalOut (execCorrectableError row inst s) := by
  refine .event ?_
  split
  · exact .some h.corrected.dieError
  · split
    · exact .some h.coreErrors
    · exact .none

end Canonical

end Sys2Proof.Proofs
end

section
/-! The canonical form of memory: host accesses, registers, the binding of images, and the package (R290, R300, R340, R367, R382 to R390, R404 to
R417). -/

namespace Sys2Proof.Proofs

open Sys2Proof.Machine Sys2Proof.Claims Sys2Proof.Laws

/-! ## Host accesses (R366, R375, R404 to R410) -/

theorem Canonical.regionWrite {s : State} {o : Nat} {bs : List Byte} (h : Canonical s) : Canonical (s.regionWrite o bs) := by
  induction bs generalizing s o with
  | nil => exact h
  | cons b bs rest =>
    unfold State.regionWrite
    refine rest ?_
    split
    · exact h.onPart fun _ kept => kept
    · exact h

namespace Canonical

variable {s : State} {g : Nat}

theorem hostFault {p kind addr : Nat} (h : Canonical s) : Canonical (s.hostFault p kind addr) := h.deliverBlast

theorem hostLine {p : Nat} {va : W64} {pa : Nat} {atomic : Bool} {bs : List Byte} (h : Canonical s) :
    CanonicalOpt (s.hostLine p va pa atomic bs) := by
  unfold State.hostLine
  extract_lets entry write
  have entries {t : State} (core off : Nat) (page : Option W64) (kept : Canonical t) : CanonicalOpt (entry core off page t) := by
    unfold entry
    split
    · exact .some kept.ingressAdd.enterAt
    · exact .none
  have writes {t : State} (kept : Canonical t) : Canonical (write t) := by
    unfold write
    split
    · exact kept.portWrite.enterAt
    · split
      · exact kept.hostPutAt.enterAt
      · exact kept.hubWriteOf
  have through : CanonicalOpt (match vget none (s.part p).bound 0 with | some k => entry k pa (some va) s | none => some s) := by
    split
    · exact entries _ _ _ h
    · exact .some h
  have plain : CanonicalOpt (if s.partIdle p then (s.logHost p va).map write else some (s.hostFault p 3 (pa / 64 * 64))) := by
    split
    · exact h.logHost.map fun _ kept => writes kept
    · exact .some h.hostFault
  clear_value entry write
  split
  · split
    · exact h.logHost.bind fun _ kept => entries _ _ _ kept
    · split
      · exact through
      · exact plain
  · split
    · exact through
    · exact plain

theorem hostMem {p pa : Nat} {atomic : Bool} {bs : List Byte} (h : Canonical s) : CanonicalOpt (s.hostMem p pa atomic bs) := by
  unfold State.hostMem
  split
  · exact h.hostLine
  · split
    · exact .none
    · exact .some h.hubWrite

end Canonical

theorem Canonical.hostLines {s : State} {p : Nat} {atomic : Bool} {xs : List (Nat × List Byte)} (h : Canonical s) :
    CanonicalOpt (s.hostLines p atomic xs) := by
  induction xs generalizing s with
  | nil => exact .some h
  | cons x xs rest =>
    unfold State.hostLines
    split
    · next e => exact rest (h.hostMem.get e)
    · exact .none

namespace Canonical

variable {s : State} {g : Nat}

theorem execHostWrite {p pa : Nat} {atomic : Bool} {data : List Byte} (h : Canonical s) : CanonicalOut (execHostWrite p pa atomic data s) := by
  refine .event ?_
  split
  · exact .some h.regionWrite
  · split
    · exact .some h.hostPutAt
    · split
      · exact .some h
      · exact h.hostLines

theorem barWrite {p : Nat} {va : W64} {bs : List Byte} (h : Canonical s) : CanonicalOpt (s.barWrite p va bs) := by
  unfold State.barWrite
  extract_lets w faulted
  have walked : Canonical w := h.enterWalk
  have faults (u : Option (Nat × W64)) : CanonicalOpt (faulted u) := walked.pteUpdate.map fun t kept => by
    split
    · split
      · exact kept.hostFault
      · exact kept.hostFault
    · exact kept.hostFault
  clear_value faulted
  split
  · exact faults _
  · split
    · exact faults _
    · exact walked.pteUpdate.bind fun t kept => hostLine (enter kept)

theorem barRead {p n : Nat} {va : W64} {bs : List Byte} {t : State} (h : Canonical s) (e : s.barRead p va n = some (bs, t)) : Canonical t := by
  unfold State.barRead at e
  extract_lets read at e
  have reads {u : State} (kept : Canonical u) (e : read u = some (bs, t)) : Canonical t := by
    unfold read at e
    split at e
    · cases e
    · next faults =>
      cases e
      exact (kept.accessFor_fault faults).hostFault
    · next performs =>
      cases e
      exact kept.accessFor_ok performs
  clear_value read
  split at e
  · obtain ⟨u, paid, e⟩ := Option.bind_eq_some_iff.mp e
    exact reads (h.payPte.get paid) e
  · exact reads h e

end Canonical

theorem Canonical.barLines {s : State} {p : Nat} {wr : Bool} {xs : List (Nat × List Byte)} {got bs : List Byte} {t : State} (h : Canonical s)
    (e : s.barLines p wr xs got = some (bs, t)) : Canonical t := by
  induction xs generalizing s got with
  | nil =>
    cases e
    exact h
  | cons x xs rest =>
    unfold State.barLines at e
    split at e
    · split at e
      · next wrote => exact rest (h.barWrite.get wrote) e
      · cases e
    · split at e
      · next was => exact rest (h.barRead was) e
      · cases e

namespace Canonical

variable {s : State} {g : Nat}

theorem execVfMemoryAccess {fn va : Nat} {wr : Bool} {data : List Byte} (h : Canonical s) : CanonicalOut (execVfMemoryAccess fn va wr data s) := by
  refine .event ?_
  split
  · exact .none
  · split
    · refine .some ?_
      split
      · exact h
      · exact h.gave
    · intro t e
      obtain ⟨⟨bs, u⟩, lines, rfl⟩ := Option.map_eq_some_iff.mp e
      have kept := h.barLines lines
      split
      · exact kept
      · exact kept.gave

/-! ## Registers (R327, R378, R394, R411 to R415) -/

theorem seatQueue {q : Nat} (h : Canonical s) : Canonical (s.seatQueue q) := by
  unfold State.seatQueue
  dsimp only
  split
  · exact h.makeRoom.onQueue fun _ kept => kept
  · exact h

theorem queueWrite {pf : Bool} {q o : Nat} {v : W64} (h : Canonical s) : Canonical (s.queueWrite pf q o v) := by
  unfold State.queueWrite
  split
  · extract_lets x size more
    refine onQueue ?_ fun _ kept => kept
    split
    · exact h
    · exact h.makeRoom
  · exact h.doorbell
  · exact seatQueue (h.onQueue fun _ kept => kept)
  · exact h.onQueue fun _ kept => kept
  · exact h.onQueue fun _ kept => kept
  · exact h

theorem bankWrite {fn : Option Nat} {d b o : Nat} {v : W64} (h : Canonical s) : Canonical (s.bankWrite fn d b o v) := by
  unfold State.bankWrite
  extract_lets x mine k w
  split
  · split
    · exact h.setBank
    · exact h
  · split
    · split
      · exact h.setBank
      · exact h.setBank
      · exact h
    · split
      · exact h.setBank
      · exact h

theorem debugWrite {o : Nat} {v : W64} (h : Canonical s) : Canonical (s.debugWrite g o v) := by
  unfold State.debugWrite
  extract_lets c free t r k d w
  have owned : Canonical t := h.onCore fun _ kept => kept
  split
  · split
    · exact owned.onCore fun _ kept => kept
    · exact owned
  · split
    · exact h
    · split
      · exact h.onCore fun _ kept => kept
      · split
        · split
          · exact h.onCore fun _ kept => kept
          · exact h.onCore fun _ kept => kept
        · split
          · exact h.onCore fun _ kept => kept
          · split
            · split
              · split
                · exact h.onCore fun _ kept => kept.setSlatch
                · exact h
              · split
                · exact h.onCore fun _ kept => kept.setVlatch
                · exact h
            · exact h

theorem commandWrite {pf : Bool} {p : Nat} {v : W64} (h : Canonical s) : CanonicalOpt (s.commandWrite pf p v) := by
  unfold State.commandWrite
  split
  · exact h.cmdReload
  · exact h.cmdFlush
  · exact h.cmdReset
  · exact h.cmdScrub
  · exact h.cmdLogstart
  · exact h.cmdLoground
  · exact h.cmdLogstop
  · exact h.command fun h => .some h.cmdDone

theorem blockWrite {fn : Option Nat} {p o : Nat} {v : W64} (h : Canonical s) : CanonicalOpt (s.blockWrite fn p o v) := by
  have parts (f : Machine.Part → Machine.Part) (keeps : ∀ pt, CodeCanonical pt → CodeCanonical (f pt)) : CanonicalOpt (some (s.onPart p f)) :=
    .some (h.onPart keeps)
  have queue : CanonicalOpt (some (match s.queueOf p (s.part p).qsel.toNat with | some q => s.queueWrite fn.isNone q (o - 0x400) v | none => s)) := by
    refine .some ?_
    split
    · exact h.queueWrite
    · exact h
  unfold State.blockWrite
  refine iteInduction (motive := CanonicalOpt) (fun _ => .some h) fun _ => ?_
  refine iteInduction (motive := CanonicalOpt) (fun _ => h.commandWrite) fun _ => ?_
  refine iteInduction (motive := CanonicalOpt) (fun _ => h.hubNext h.startVector) fun _ => ?_
  refine iteInduction (motive := CanonicalOpt) (fun _ => parts _ fun _ kept => kept) fun _ => ?_
  refine iteInduction (motive := CanonicalOpt) (fun _ => parts _ fun _ kept => kept) fun _ => ?_
  refine iteInduction (motive := CanonicalOpt) (fun _ => parts _ fun _ kept => kept) fun _ => ?_
  refine iteInduction (motive := CanonicalOpt) (fun _ => parts _ fun _ kept => kept) fun _ => ?_
  refine iteInduction (motive := CanonicalOpt) (fun _ => parts _ fun _ kept => kept) fun _ => ?_
  refine iteInduction (motive := CanonicalOpt) (fun _ => queue) fun _ => ?_
  refine iteInduction (motive := CanonicalOpt) (fun _ => .some ?_) fun _ => ?_
  · split
    · exact h
    · exact h.bankWrite
  refine iteInduction (motive := CanonicalOpt) (fun _ => .some ?_) fun _ => ?_
  · split
    · exact h.debugWrite
    · exact h
  refine iteInduction (motive := CanonicalOpt) (fun _ => .some ?_) fun _ => .some h
  split
  · exact h.doorbell
  · exact h

theorem bankTouched {f d b o : Nat} (h : Canonical s) : Canonical (s.bankTouched f d b o) := by
  unfold State.bankTouched
  dsimp only
  split
  · exact h
  · split
    · exact h.setBank
    · exact h

theorem execHostRead {x : HostPlace} {n : Nat} (h : Canonical s) : CanonicalOut (execHostRead x n s) := by
  refine .event ?_
  dsimp only
  split
  · exact .some h.gave
  · split
    · exact .none
    · split
      · exact .some h.gave
      · refine .some ?_
        split
        · exact h.gave.bankTouched
        · exact h.gave
  · split
    · exact .none
    · exact .some h.gave
  · split
    · exact .none
    · exact .some h.gave

/-! ## Binding of images (R340) -/

theorem placeLine {p : Nat} {y : Nat × List Byte} (h : Canonical s) : CanonicalOpt (s.placeLine p y) := by
  unfold State.placeLine
  extract_lets va
  split
  · split
    · exact h.enterWalk.logHost.map fun _ kept => kept.hubWriteOf
    · exact .some h
  · exact .some h

end Canonical

/-- A run of updates that may wait. -/
theorem CanonicalOpt.foldlM {α : Type} {f : State → α → Option State} (keeps : ∀ t x, Canonical t → CanonicalOpt (f t x)) {xs : List α} {s : State}
    (h : Canonical s) : CanonicalOpt (xs.foldlM f s) := by
  induction xs generalizing s with
  | nil => exact .some h
  | cons x xs rest => exact (keeps s x h).bind fun t kept => rest kept

/-- Noting code keeps what is noted in canonical form. -/
theorem amWf_noteCode {m : AMap (BitVec 9)} {a : Nat} {bs : List Byte} (h : amWf 0 m = true) : amWf 0 (noteCode m a bs) = true := by
  induction bs generalizing m a with
  | nil => exact h
  | cons b bs rest => exact rest (amWf_amSet _ _ h)

theorem amWf_noteCodes {m : AMap (BitVec 9)} {xs : List (Nat × List Byte)} (h : amWf 0 m = true) :
    amWf 0 (xs.foldl (fun m x => noteCode m x.1 x.2) m) = true :=
  List.foldlRecOn (motive := fun m => amWf 0 m = true) xs _ h fun _ kept _ _ => amWf_noteCode kept

namespace Canonical

variable {s : State} {g : Nat}

theorem place {p : Nat} {x : Nat × List Byte} (h : Canonical s) : CanonicalOpt (s.place p x) := CanonicalOpt.foldlM (fun _ _ kept => kept.placeLine) h

theorem bindImage {p : Nat} {i : Image} (h : Canonical s) : CanonicalOpt (s.bindImage p i) := by
  unfold State.bindImage
  extract_lets i code
  exact (CanonicalOpt.foldlM (fun _ _ kept => kept.place) h.bindOn).map fun t kept =>
    bindRegs (kept.onPart fun pt kept => amWf_noteCodes (m := pt.code) kept)

theorem execColmerBind {p : Nat} {i : Image} (h : Canonical s) : CanonicalOut (execColmerBind p i s) := by
  refine .event ?_
  split
  · exact .none
  · split
    · exact .some (h.onPart fun _ kept => kept)
    · exact h.bindImage

/-! ## Time (R382 to R390) -/

theorem setBanks {banks : Vector (Vector Bank 16) 4} (h : Canonical s) : Canonical { s with hub := { s.hub with banks := banks } } := h

theorem tickTime {n : Nat} (h : Canonical s) : Canonical (s.tickTime n) := by
  unfold State.tickTime
  extract_lets _ t u
  have aged : Canonical t := mapCores (s := s.runClock n) h fun c kept => by
    unfold CoreSt.ages
    split <;> exact kept
  have sliced : Canonical u := aged.foldl fun v p kept => by
    split
    · exact kept.onPart fun _ kept => kept
    · exact kept
  exact sliced.setBanks

end Canonical

theorem SpadCanonical.loseNs {c : CoreSt} {n : Nat} (h : SpadCanonical c) : SpadCanonical (c.loseNs n) := by
  unfold CoreSt.loseNs
  extract_lets t
  split
  · exact h
  · exact h.count

namespace Canonical

variable {s : State} {g : Nat}

theorem passTime {n : Nat} (h : Canonical s) : Canonical (s.passTime n) := by
  unfold State.passTime
  extract_lets t u
  have passed : Canonical t := h.mapCores fun _ kept => kept
  have lost : Canonical u := passed.foldl fun v g kept => by
    split
    · exact kept.onCore fun _ kept => kept.loseNs
    · exact kept
  exact lost.tickTime

theorem stepTime {n : W64} (h : Canonical s) : Canonical (s.stepTime n) := by
  unfold State.stepTime
  split
  · exact h.tickTime
  · exact h

theorem execTimestep {n : W64} (h : Canonical s) : CanonicalOut (execTimestep n s) := .event (.some h.stepTime)

theorem execPtpMessage {port : Nat} {k : PtpKind} (h : Canonical s) : CanonicalOut (execPtpMessage port k s) := by
  refine .event ?_
  split
  · exact .none
  · cases k
    case followUp | delayResp => exact .some h
    all_goals exact .some h.onPkg

theorem execParentClockLoss (h : Canonical s) : CanonicalOut (execParentClockLoss s) := .event (.some h)

/-! ## Power, lanes and modules (R412 to R417) -/

theorem execClockStepDown {die temp : Nat} (h : Canonical s) : CanonicalOut (execClockStepDown die temp s) := by
  refine .event ?_
  split
  · exact .none
  · exact .some h.onPkg

theorem execClockStepUp {die temp : Nat} (h : Canonical s) : CanonicalOut (execClockStepUp die temp s) := by
  refine .event ?_
  dsimp only
  split
  · exact .none
  · split
    · exact .some h.onPkg
    · split
      · exact .some h.onPkg
      · split
        · exact .some h
        · exact .some h.onPkg

theorem setPower {w : Nat} (h : Canonical s) : Canonical (s.setPower w) := h

theorem execPowerlimit {w : W64} (h : Canonical s) : CanonicalOut (execPowerlimit w s) := .event (.some h.setPower)

theorem execPowerStateChange {st : PowerState} (h : Canonical s) : CanonicalOut (execPowerStateChange st s) := by
  refine .event ?_
  cases st
  case p0 =>
    dsimp only
    split
    · exact .some h.onPkg
    · exact .none
  case p1 =>
    dsimp only
    split
    · exact .some h.onPkg
    · exact .none
  case p3 => exact .some h

theorem execLaneFailure {port lane : Nat} (h : Canonical s) : CanonicalOut (execLaneFailure port lane s) := by
  refine .event ?_
  split
  · exact .some h.onPkg
  · exact .none

theorem execModuleRemoval {m : Removal} (h : Canonical s) : CanonicalOut (execModuleRemoval m s) := by
  refine .event ?_
  split
  · exact .none
  · refine .some (Canonical.foldl h.onPkg fun t g kept => ?_)
    split
    · exact kept.onCore fun _ kept => kept
    · exact kept

/-! ## Repairs (R383 to R385) -/

theorem repairWrite {v : W64} (h : Canonical s) : Canonical (s.repairWrite v) := by
  unfold State.repairWrite
  extract_lets w t
  have noted : Canonical t := h
  split
  · exact noted
  · split
    · exact noted.setRepair
    · exact noted.setRepair (st := 1)

theorem replaceCore {a b : Nat} (h : Canonical s) : Canonical (s.replaceCore a b) := by
  unfold State.replaceCore
  extract_lets moved t
  have parts : Canonical t := h.foldl fun _ _ kept => kept.onPart fun _ kept => kept
  exact parts.onCore fun _ kept => kept

/-- The registers of the partitions bound again. -/
theorem rebind {ps : List Nat} {again : State → Nat → Bool} (h : Canonical s) :
    Canonical (ps.foldl (fun t p => if again t p then t.bindRegs p else t) s) := h.foldl fun t p kept => by
  split
  · exact kept.bindRegs
  · exact kept

theorem mapQuad {d q r : Nat} (h : Canonical s) : Canonical (s.mapQuad d q r) := by
  unfold State.mapQuad
  extract_lets t row u
  have replaced : Canonical t := h.foldl fun _ _ kept => kept.replaceCore
  have mapped : Canonical u := replaced.onPkg
  exact mapped.rebind (again := fun s p => (s.part p).loaded.isSome)

theorem execQuadRepair {die quad : Nat} (h : Canonical s) : CanonicalOut (execQuadRepair die quad s) := by
  refine .event ?_
  extract_lets cs busy
  refine iteInduction (motive := CanonicalOpt) (fun _ => .none) fun _ => ?_
  refine iteInduction (motive := CanonicalOpt) (fun _ => .none) fun _ => ?_
  refine iteInduction (motive := CanonicalOpt) (fun _ => .some h.askSave) fun _ => ?_
  refine iteInduction (motive := CanonicalOpt) (fun _ => .none) fun _ => ?_
  split
  · exact .some h.mapQuad.setRepair
  · exact .some h.setRepair

theorem dropCore {p : Nat} (h : Canonical s) : Canonical (s.dropCore p g) := h.onPart fun _ kept => kept

theorem execBankRepair (h : Canonical s) : CanonicalOut (execBankRepair g s) := by
  refine .coreEvent ?_
  extract_lets c t
  have marked : Canonical t := setRepair (h.setCore (c := { s.core g with classB := true }) (h.core g))
  clear_value t
  refine iteInduction (motive := CanonicalOpt) (fun _ => .none) fun _ => ?_
  refine iteInduction (motive := CanonicalOpt) (fun _ => .none) fun _ => ?_
  refine iteInduction (motive := CanonicalOpt) (fun _ => ?_) fun _ => ?_
  · split
    · exact .none
    · exact .some h.askSave
  refine iteInduction (motive := CanonicalOpt) (fun _ => .none) fun _ => .some (marked.foldl fun t p kept => ?_)
  split
  · exact kept
  · split
    · exact kept.bindRegs
    · exact kept.dropCore.bindCores.bindRegs

theorem execChannelRepair {die unit : Nat} (h : Canonical s) : CanonicalOut (execChannelRepair die unit s) := by
  refine .event ?_
  split
  · exact .none
  · exact .some h.onPkg.setRepair

theorem podgroups {ks : List Nat} {p : Nat → Nat} {v : Nat → W16} (h : Canonical s) :
    Canonical (ks.foldl (fun t k => t.onPart (p k) fun pt => { pt with podgroup := v k }) s) := h.foldl fun _ _ kept => kept.onPart fun _ kept => kept

theorem pfWrite {o : Nat} {v : W64} (h : Canonical s) : Canonical (s.pfWrite o v) := by
  unfold State.pfWrite
  refine iteInduction (motive := Canonical) (fun _ => h.repairWrite) fun _ => ?_
  refine iteInduction (motive := Canonical) (fun _ => h) fun _ => ?_
  refine iteInduction (motive := Canonical) (fun _ => h.setPower) fun _ => ?_
  refine iteInduction (motive := Canonical) (fun _ => h) fun _ => ?_
  refine iteInduction (motive := Canonical) (fun _ => h.stepTime) fun _ => ?_
  refine iteInduction (motive := Canonical) (fun _ => h) fun _ => ?_
  refine iteInduction (motive := Canonical) (fun _ => h.podgroups.onPkg) fun _ => ?_
  exact iteInduction (motive := Canonical) (fun _ => h.bankWrite) fun _ => h

theorem execRegisterWrite {fn : Option Nat} {ofs : Nat} {v : W64} (h : Canonical s) : CanonicalOut (execRegisterWrite fn ofs v s) := by
  refine .event ?_
  split
  · exact .none
  · split
    · split
      · split
        · exact h.blockWrite
        · exact .some h
      · exact .some h
    · split
      · exact .some h.pfWrite
      · split
        · exact .some h
        · exact h.blockWrite

end Canonical

/-! ## Device reset (R290, R300, R416) -/

/-- Every entry of a vector of equal entries, and what lies outside, has a property that both have. -/
theorem vget_replicate_all {α : Type} {n : Nat} {d x : α} {P : α → Prop} (default : P d) (all : P x) (j : Nat) :
    P (vget d (Vector.replicate n x) j) := by
  unfold vget
  split
  · simpa using all
  · exact default

theorem hubCanonical_reset : HubCanonical .reset :=
  ⟨vget_replicate_all (P := CodeCanonical) rfl rfl, ⟨rfl, fun _ => rfl⟩, rfl, rfl, rfl, rfl⟩

theorem spadCanonical_reset : SpadCanonical .reset := rfl

/-- Memory that every die reads alike, with no key. -/
theorem orderCanonical_reset {mem : AMap Byte} {host : AMap Byte} {bs : List Byte} (memory : amWf 0 mem = true) (kept : amWf 0 host = true) :
    OrderCanonical { Order.reset with mem := .replicate 4 mem, host := host, hostRead := bs } :=
  ⟨fun d => ⟨vget_replicate_all (P := fun m => amWf 0 m = true) rfl memory d,
    vget_replicate_all (P := fun m => amWf Order.keyZero m = true) rfl rfl d⟩, rfl, kept⟩

namespace Canonical

variable {s : State} {g : Nat}

theorem broughtUp (h : Canonical s) : Canonical s.broughtUp :=
  ⟨vget_map_all (P := SpadCanonical) spadCanonical_reset (fun _ _ => spadCanonical_reset) h.1, orderCanonical_reset (amWf_settledMem s.ord) h.host,
    hubCanonical_reset⟩

theorem heldDown (h : Canonical s) : Canonical s.heldDown :=
  ⟨vget_map_all (P := SpadCanonical) spadCanonical_reset (fun _ kept => kept.freed) h.1, h.broughtUp.order, hubCanonical_reset⟩

theorem poweredOn (h : Canonical s) : Canonical { s with time := 0, dieTime := .replicate 4 0, ord := { Order.reset with host := s.ord.host } } :=
  ⟨h.1, ⟨viewsWf_reset, rfl, h.host⟩, h.hub⟩

theorem execDeviceReset {powerOn : Bool} (h : Canonical s) : CanonicalOut (execDeviceReset powerOn s) := by
  refine .event ?_
  extract_lets _ t
  have began : Canonical t := by
    unfold t
    split
    · exact h.poweredOn
    · exact h
  refine .some ?_
  split
  · exact began.broughtUp
  · exact began.heldDown

end Canonical

end Sys2Proof.Proofs
end

section
/-! The canonical form of memory: every instruction and every event. -/

namespace Sys2Proof.Proofs

open Sys2Proof.Machine Sys2Proof.Claims Sys2Proof.Laws

/-! ## The shared forms of an instruction's meaning (R233) -/

namespace SpadCanonical

variable {c : CoreSt}

theorem fly {n : Nat} {ds : List Dest} {ws : List Write} {f : Flg} {ld : Option Load} (h : SpadCanonical c) : SpadCanonical (c.fly n ds ws f ld) := h
theorem goto {t : W64} (h : SpadCanonical c) : SpadCanonical (c.goto t) := h
theorem link {f : Flg} (h : SpadCanonical c) : SpadCanonical (c.link f) := h

end SpadCanonical

namespace Canonical

variable {s : State} {g : Nat} {i : Instr}

/-- An instruction whose effect is on the core that issues it. -/
theorem issueCore {f : State → CoreSt → CoreSt} (h : Canonical s) (keeps : ∀ t c, SpadCanonical c → SpadCanonical (f t c)) :
    CanonicalOut (s.issue i fun t => t.onCur (f t)) := h.issue fun kept => kept.onCur (keeps s)

theorem landS {d : SDst} {f : CoreSt → W64 × Flg} (h : Canonical s) : CanonicalOut (landS i d f s) := h.issueCore fun _ _ kept => kept.fly
theorem landP {p : BitVec 3} {f : CoreSt → Bool × Flg} (h : Canonical s) : CanonicalOut (landP i p f s) := h.issueCore fun _ _ kept => kept.fly
theorem landD (h : Canonical s) : CanonicalOut (landD i s) := h.issueCore fun _ _ kept => kept.domIssue
theorem landA {ad : BitVec 4} {f : State → Axis.AxRes × Flg} (h : Canonical s) : CanonicalOut (landA i ad f s) :=
  h.issue fun kept => kept.onCur fun _ kept => kept.fly
theorem landN {ad : BitVec 4} {f : CoreSt → W32 × Flg} (h : Canonical s) : CanonicalOut (landN i ad f s) := h.issueCore fun _ _ kept => kept.fly
theorem landV {cl : BitVec 4} {d : VDst} {f : CoreSt → Nat → W512 × W512 × Flg} (h : Canonical s) : CanonicalOut (landV i cl d f s) :=
  h.issueCore fun _ _ kept => kept.fly
theorem landK {cl : BitVec 4} {kd : BitVec 3} {f : CoreSt → Nat → W16 × Flg} (h : Canonical s) : CanonicalOut (landK i cl kd f s) :=
  h.issueCore fun _ _ kept => kept.fly

/-! ## Instructions with an effect of their own -/

theorem execTret (h : Canonical s) : CanonicalOut (execTret s) := h.issue fun kept => by
  extract_lets c t u
  have left : Canonical t := kept.setCore kept.cc.leaveHandler
  have stamped : Canonical u := left.stampHead
  split
  · exact left.restartStep
  · split
    · exact stamped.onCur fun _ kept => kept
    · exact stamped.onCur fun _ kept => kept.goto

theorem execWait {w : BitVec 3} (h : Canonical s) : CanonicalOut (execWait w s) := h.issueWait fun kept => kept.onCur fun c kept => by
  extract_lets t d _ e
  have branches : SpadCanonical d := by
    unfold d
    split
    · exact kept.goto
    · exact kept
  have cancels : SpadCanonical e := by
    unfold e
    split
    · exact branches
    · exact branches
  exact cancels.tokRelease

theorem execTrap {imm : BitVec 16} (h : Canonical s) : CanonicalOut (execTrap imm s) := h.issueCore fun _ _ kept => kept

theorem execLoopr {body : BitVec 6} {a : SSrc} (h : Canonical s) : CanonicalOut (execLoopr body a s) :=
  h.issue fun kept => kept.loopEff.onCur fun _ kept => kept.raise

theorem execLoop {body : BitVec 6} {count : BitVec 16} (h : Canonical s) : CanonicalOut (execLoop body count s) := h.issue loopEff

theorem execAtov {vd : BitVec 5} {as : BitVec 4} (h : Canonical s) : CanonicalOut (execAtov vd as s) := h.issue fun kept => kept.setCore kept.cc.fly

/-! ## The units of a core as events (R158, R201) -/

theorem execMatrixCommandStart (h : Canonical s) : CanonicalOut (execMatrixCommandStart g s) := by
  refine .coreEvent ?_
  split
  · split
    · exact .some (h.setUnits (h.core g).mGo)
    · exact .none
  · exact .none

theorem execMatrixCommandComplete (h : Canonical s) : CanonicalOut (execMatrixCommandComplete g s) := by
  refine .coreEvent ?_
  split
  · split
    · exact .some (h.setUnits (h.core g).mFinish)
    · exact .none
  · exact .none

theorem execDOperationStart (h : Canonical s) : CanonicalOut (execDOperationStart g s) := by
  refine .coreEvent ?_
  refine iteInduction (motive := CanonicalOpt) (fun _ => ?_) fun _ => .none
  exact .some (h.setUnits (h.core g).domGoAt)

theorem execDOperationComplete (h : Canonical s) : CanonicalOut (execDOperationComplete g s) := by
  refine .coreEvent ?_
  split
  · split
    · exact .some (h.setUnits (h.core g).finish)
    · exact .none
  · exact .none

end Canonical

/-! ## Every meaning -/

/-- What an instruction or an event answers is canonical: instructions by the form of their meaning, events each by its own lemma. -/
theorem Canonical.exec {s : State} {i : Instr} (h : Canonical s) : CanonicalOut (exec i s) := by
  unfold Machine.exec
  cases i
  case add | sub | and | or | xor | andn | shl | shr | sar | min | max | minu | maxu | adds | subs | mul | mulh | mulhu | div | divu | rem
      | remu | addi | andi | ori | xori | shli | shri | sari | movq | movps | rdcnt | rdtime | rddesc | fadd | fsub | fmul | fma | cvtF64I64
      | cvtI64F64 | cvtF32I64 | cvtI64F32 | cvtF32F64 | cvtF64F32 | crrd | adot | amag =>
    exact h.landS
  case cmpeq | cmpne | cmplt | cmple | cmpltu | cmpleu | cmpeqi | cmpnei | cmplti | cmplei | cmpltui | cmpleui | pand | por | pxor | pandn
      | fcmpeq | fcmplt | fcmple | fcmpun =>
    exact h.landP
  case dadd | dsub | dmul | dmin | dmax | deq | dne | dlt | dle | deqi | dnei | dlti | dlei | dgti | dgei | din | dnotin | dseti | dlab
      | dval | dsize | dlo | dhi | dsettle | dclr | dopen | dclose =>
    exact h.landD
  case vadd | vsub | vadds | vaddsu | vsubs | vsubsu | vmul | vmin | vmax | vminu | vmaxu | vshl | vshr | vsar | vand | vor | vxor | vandn
      | vmov | vsel | vperm | vbcast | vidx | vfadd | vfsub | vfmul | vfma | vfmin | vfmax | vfabs | vfneg | vrcp | vrsqrt | vexp2 | vlog2
      | vradd | vrmax | vrmin | vxc | vcvt =>
    exact h.landV
  case vcmpeq | vcmplt | vcmple | vcmpltu | vcmpleu | vfcmpeq | vfcmplt | vfcmple | vfcmpun | kand | kor | kxor | kandn => exact h.landK
  case afromv | aneg | aadd | asub | alerp => exact h.landA
  case ascl | ascli | azero => exact h.landN
  case mma | mmaq | msca | mzero | mret | mrets | mcvt | mtr | mldl | mtrs => exact h.issueM fun _ kept => kept.mIssue
  case msetma => exact h.issueM fun _ kept => kept.fly
  case tld | tldw | tst | amoadd | amoswp | amocas | amomin | amomax | amoand | amoor | binit | arrive | xtld | xtst => exact h.issueQ
  case movsp | crwr | adotm | asetn | lds | ldv | ald | sts | stv | ast | xset => exact h.issueCore fun _ _ kept => kept.fly
  case brr => exact h.issueCore fun _ _ kept => SpadCanonical.raise (SpadCanonical.goto kept)
  case br | ret => exact h.issueCore fun _ _ kept => kept.goto
  case call | callr => exact h.issueCore fun _ _ kept => kept.link.goto
  case delem | dset => exact h.issueCore fun _ _ kept => kept.domIssue
  case xcpy | pput | pget | xgo => exact h.issue submit
  case waitph | waitbit => exact h.issueWait pollEnd
  case bar | endStep => exact h.issueWait fun kept => kept.onCur fun _ kept => kept
  case fence => exact h.issueWait fun kept => kept
  case wait => exact h.execWait
  case loop => exact h.execLoop
  case loopr => exact h.execLoopr
  case trap => exact h.execTrap
  case trapack => exact h.issueCore fun _ _ kept => kept
  case tret => exact h.execTret
  case atov => exact h.execAtov
  case read => exact h.execRead
  case write => exact h.execWrite
  case send => exact h.execSend
  case arbitrate => exact h.execArbitrate
  case port => exact h.execPort
  case deposit => exact h.execDeposit
  case hostop => exact h.execHostop
  case observe => exact h.execObserve
  case deliver => exact h.execDeliver
  case apply => exact h.execApply
  case drain => exact h.execDrain
  case copyCommandStart => exact h.execCopyCommandStart
  case copyCommandComplete => exact h.execCopyCommandComplete
  case copyNodeRun => exact h.execCopyNodeRun
  case barrierCompletion => exact h.execBarrierCompletion
  case dequeue => exact h.execDequeue
  case dispatch => exact h.execDispatch
  case gangReservationExpiry => exact h.execGangReservationExpiry
  case preemptionRequest => exact h.execPreemptionRequest
  case yield => exact h.execYield
  case restore => exact h.execRestore
  case sliceEnd => exact h.execSliceEnd
  case deadlineExpiry => exact h.execDeadlineExpiry
  case watchdogExpiry => exact h.execWatchdogExpiry
  case hardCoreReset => exact h.execHardCoreReset
  case elisionScrub => exact h.execElisionScrub
  case tokenDelivery => exact h.execTokenDelivery
  case quadRepair => exact h.execQuadRepair
  case bankRepair => exact h.execBankRepair
  case channelRepair => exact h.execChannelRepair
  case groupFetch => exact h.execGroupFetch
  case resultLanding => exact h.execResultLanding
  case matrixCommandStart => exact h.execMatrixCommandStart
  case matrixCommandComplete => exact h.execMatrixCommandComplete
  case dOperationStart => exact h.execDOperationStart
  case dOperationComplete => exact h.execDOperationComplete
  case waitTimeout => exact h.execWaitTimeout
  case launchAbiLoadEnd => exact h.execLaunchAbiLoadEnd
  case stepRetirement => exact h.execStepRetirement
  case saveAtComma => exact h.execSaveAtComma
  case trapEntry => exact h.execTrapEntry
  case breakpoint => exact h.execBreakpoint
  case watchHit => exact h.execWatchHit
  case coreUncorrectableError => exact h.execCoreUncorrectableError
  case sharedUncorrectableError => exact h.execSharedUncorrectableError
  case correctableError => exact h.execCorrectableError
  case stopreq => exact h.execStopreq
  case debuggerResume => exact h.execDebuggerResume
  case debugStateWrite => exact h.execDebugStateWrite
  case latchPortWrite => exact h.execLatchPortWrite
  case hostDoorbell => exact h.execHostDoorbell
  case startVectorWrite => exact h.execStartVectorWrite
  case copyNodeResume => exact h.execCopyNodeResume
  case hostRead => exact h.execHostRead
  case hostWrite => exact h.execHostWrite
  case vfMemoryAccess => exact h.execVfMemoryAccess
  case reload => exact .event h.cmdReload
  case flush => exact .event h.cmdFlush
  case reset => exact .event h.cmdReset
  case scrub => exact .event h.cmdScrub
  case logstart => exact .event h.cmdLogstart
  case loground => exact .event h.cmdLoground
  case logstop => exact .event h.cmdLogstop
  case bankClaim => exact h.execBankClaim
  case bankRelease => exact h.execBankRelease
  case counterLoRead => exact h.execCounterLoRead
  case timestep => exact h.execTimestep
  case powerlimit => exact h.execPowerlimit
  case registerWrite => exact h.execRegisterWrite
  case clockStepDown => exact h.execClockStepDown
  case clockStepUp => exact h.execClockStepUp
  case laneFailure => exact h.execLaneFailure
  case moduleRemoval => exact h.execModuleRemoval
  case parentClockLoss => exact h.execParentClockLoss
  case ptpMessage => exact h.execPtpMessage
  case deviceReset => exact h.execDeviceReset
  case colmerBind => exact h.execColmerBind
  case counterBankControlRead => exact h.execCounterBankControlRead
  case powerStateChange => exact h.execPowerStateChange

end Sys2Proof.Proofs
end

section
/-! The canonical form of memory: the cycle of a core, the agents of the hub, and every step of the device (R44, R52 to R56, R122, R291). -/

namespace Sys2Proof.Proofs

open Sys2Proof.Machine Sys2Proof.Claims Sys2Proof.Laws

/-! ## The ports of a core (R276) -/

namespace Canonical

variable {s : State} {g : Nat}

theorem portServe {who : Nat} (h : Canonical s) : Canonical (s.portServe who) := by
  unfold State.portServe
  split
  · split
    · exact h.try' h.execCopyNodeRun
    · exact h
  · extract_lets g
    split
    · exact h.qPort.getD h
    · exact h.pollPort.getD h
    · split
      · next e => exact h.xPort.get e
      · split
        · next e => exact h.execCopyCommandStart _ e
        · exact h.try' h.execCopyCommandComplete

end Canonical

theorem Canonical.servePort {p n : Nat} {s : State} (h : Canonical s) : Canonical (State.servePort p n s) := by
  induction n generalizing s with
  | zero => exact h
  | succ n rest =>
    unfold State.servePort
    split
    · exact h
    · extract_lets t
      have served : Canonical t := h.portServe
      split
      · exact served.foldl fun _ _ kept => kept.portServe
      · exact rest served

/-! ## The issue of a group (R52, R54, R122 to R125, R233) -/

namespace SpadCanonical

variable {c : CoreSt}

theorem advance {x : Group} {tret : Bool} (h : SpadCanonical c) : SpadCanonical (c.advance x tret).1 := by
  unfold CoreSt.advance
  split
  · exact h
  · exact h

theorem swtrapResume (h : SpadCanonical c) : SpadCanonical c.swtrapResume := by
  unfold CoreSt.swtrapResume
  split
  · exact h
  · exact h

theorem scheduled {handler : Bool} {n : Nat} (h : SpadCanonical c) : SpadCanonical (c.scheduled handler n) := h
theorem holdCompat (h : SpadCanonical c) : SpadCanonical c.holdCompat := h

end SpadCanonical

namespace Canonical

variable {s : State} {g : Nat} {x : Group}

theorem issueSlot {y : SlotKind × Slot × Addr} (h : Canonical s) : Canonical (s.issueSlot x y) := by
  unfold State.issueSlot
  extract_lets t
  have placed : Canonical t := h.onCur fun _ kept => kept
  exact placed.try' placed.exec

theorem issueSlots {ys : List (SlotKind × Slot × Addr)} (h : Canonical s) : Canonical (ys.foldl (fun t y => t.issueSlot x y) s) :=
  h.foldl fun _ _ kept => kept.issueSlot

theorem countEmpties {n : Nat} (h : Canonical s) : Canonical (s.countEmpties g n) := by
  unfold State.countEmpties
  split
  · exact h
  · exact coreDieEvent (h.onCore fun _ kept => kept.countEmpty)

theorem scheduledAt {handler : Bool} {n : Nat} (h : Canonical s) : Canonical (s.onCore g fun c => c.scheduled handler n) :=
  h.onCore fun _ kept => kept.scheduled

theorem afterGroup {handler tret : Bool} {e : Nat} (h : Canonical s) : Canonical (s.afterGroup g x handler tret e) := by
  unfold State.afterGroup
  extract_lets t r u v
  have left : Canonical t := h.onCore fun _ kept => kept
  have advanced : Canonical u := left.setCore (left.core g).advance.swtrapResume
  have counted : Canonical v := by
    unfold v
    split
    · exact advanced
    · exact advanced.countEmpties
  split
  · exact counted.scheduledAt
  · exact counted.scheduledAt
  · exact left
  · exact left
  · exact left.scheduledAt

theorem setLoops {ls : List Loop} (h : Canonical s) : Canonical (s.onCore g fun c => { c with flow := { c.flow with loops := ls } }) :=
  h.onCore fun _ kept => kept

theorem countIssueAt {m : BitVec 12} (h : Canonical s) : Canonical (s.onCore g fun c => c.countIssue m) := h.onCore fun _ kept => kept.countIssue

theorem countGroup {levels : List Loop} {e : Nat} (h : Canonical s) : Canonical (s.countGroup g x levels e) := by
  unfold State.countGroup
  dsimp only
  split
  · exact h
  · exact h.setLoops.countIssueAt.coreDieEvent.countEmpties.setLoops

theorem issueGroup (h : Canonical s) : Canonical (s.issueGroup g x) := by
  unfold State.issueGroup
  extract_lets c ys handler y tret e hit before isFirst levels noted first others counted last
  have begun : Canonical noted := h.onCore fun _ kept => kept
  have issued : Canonical others := begun.issueSlots.issueSlots
  have tallied : Canonical counted := issued.coreDieEvent.countGroup
  exact tallied.issueSlots.afterGroup

theorem goGroup (h : Canonical s) : Canonical (s.goGroup g x) := by
  unfold State.goGroup
  extract_lets c ys
  split
  · exact h.takeTrapOn
  · split
    · exact h.takeTrapOn
    · exact h.issueGroup

/-! ## The group that a core has reached (R53 to R56, R126 to R130, R318) -/

theorem holdGroup (h : Canonical s) : Canonical (s.holdGroup g x) := by
  unfold State.holdGroup
  extract_lets t c ys is waits u
  have timed : Canonical t := by
    unfold t
    split
    · exact h.try' h.execWaitTimeout
    · exact h
  have began : Canonical u := by
    unfold u
    split
    · split
      · exact timed.waitBegin
      · exact timed
    · exact timed
  clear_value u
  split
  · exact stall (began.onCore fun _ kept => kept.holdCompat)
  · split
    · exact stall (began.onCore fun _ kept => kept)
    · split
      · exact began.stall
      · split
        · exact began.stall
        · exact began.goGroup

theorem windowDrain (h : Canonical s) : CanonicalOpt (s.windowDrain g) := by
  unfold State.windowDrain
  dsimp only
  split
  · exact .none
  · split
    · next e => exact .some ((h.drainOne.get e).onCore fun _ kept => kept.drained1)
    · exact .some (h.onCore fun _ kept => kept)

theorem commaServe (h : Canonical s) : CanonicalOpt (s.commaServe g) := by
  unfold State.commaServe
  extract_lets c t
  have atComma : Canonical t := h.onCore fun _ kept => kept
  split
  · exact .some h.takeTrapOn
  · split
    · exact .none
    · split
      · exact .some (atComma.onCore fun _ kept => kept.withStatus)
      · split
        · exact .some atComma
        · split
          · next e => exact .some (atComma.windowDrain.get e)
          · exact .some (atComma.onCore fun _ kept => kept.withStatus)

theorem serveGroup (h : Canonical s) : Canonical (s.serveGroup g x) := by
  have comma : CanonicalOpt (if x.comma && !(s.core g).ctrl.handler then s.commaServe g else none) := by
    split
    · exact h.commaServe
    · exact .none
  have window : CanonicalOpt (if x.window then s.windowDrain g else none) := by
    split
    · exact h.windowDrain
    · exact .none
  unfold State.serveGroup
  dsimp only
  split
  · next e => exact comma.get e
  · split
    · exact h.takeTrapOn
    · split
      · next e => exact (window.get e).stall
      · exact holdGroup (h.onCore fun _ kept => kept)

theorem breakpoints (h : Canonical s) : Canonical (s.breakpoints g) := by
  unfold State.breakpoints
  split
  · exact h
  · split
    · exact h
    · refine h.foldl fun t b kept => ?_
      split
      · exact kept.breakAt
      · exact kept

theorem groupCycle (h : Canonical s) : Canonical (s.groupCycle g x) := by
  unfold State.groupCycle
  split
  · exact stall (h.onCore fun _ kept => kept)
  · extract_lets t
    have broke : Canonical t := h.breakpoints
    split
    · exact broke.serveGroup
    · exact broke

/-! ## One cycle (R44, R386, R388) -/

theorem runCycle (h : Canonical s) : Canonical (s.runCycle g) := by
  unfold State.runCycle
  extract_lets c t
  have watched : Canonical t := by
    unfold t
    split
    · split
      · exact h
      · exact h.watchActs
    · exact h
  have fetched : CanonicalOpt (if (t.core g).reached.grp.isSome then some t else t.fetchNow g) := by
    split
    · exact .some watched
    · exact watched.fetchNow
  clear_value t
  split
  · exact h
  · split
    · exact h.onCore fun _ kept => kept
    · split
      · exact watched
      · split
        · next e => exact watched.stopNow.get e
        · split
          · exact watched.stall
          · next e =>
            have reached := fetched.get e
            split
            · exact reached.groupCycle
            · exact reached

theorem endedCycle (h : Canonical s) : Canonical (s.endedCycle g) := by
  unfold State.endedCycle
  split
  · exact h
  · extract_lets t c
    have watched : Canonical t := by
      unfold t
      split
      · exact h.watchActs
      · exact h
    clear_value t
    split
    · exact watched
    · split
      · exact watched.takeTrapOn
      · exact watched.try' watched.execStepRetirement

theorem statusCycle (h : Canonical s) : Canonical (s.statusCycle g) := by
  unfold State.statusCycle
  split
  · extract_lets reserved
    exact h.onCore fun _ kept => kept
  · extract_lets t
    have loading : Canonical t := h.onCore fun _ kept => kept.withStatus
    split
    · exact loading.try' loading.execLaunchAbiLoadEnd
    · exact loading
  · exact h.onCore fun _ kept => kept.withStatus
  · extract_lets t
    have saving : Canonical t := h.onCore fun _ kept => kept.withStatus
    split
    · exact saving.try' saving.execSaveAtComma
    · exact saving
  · extract_lets t
    have entered : Canonical t := h.try' h.execTrapEntry
    split
    · exact entered.runCycle
    · exact entered
  · exact h.endedCycle
  · exact h.runCycle
  · split
    · exact h.dropStep
    · exact h.restartStep
  · exact h

theorem throttleCycle (h : Canonical s) : Canonical (s.throttleCycle g) := by
  unfold State.throttleCycle
  dsimp only
  split
  · exact h
  · exact h.onCore fun _ kept => kept.count

theorem coreCycle {g : Fin 288} (h : Canonical s) : Canonical (s.coreCycle g) := by
  unfold State.coreCycle
  split
  · exact h
  · extract_lets a b c d e
    have current : Canonical a := h
    have served : Canonical b := current.servePort
    have moved : Canonical c := served.setUnits (served.core g).units
    have counted : Canonical d := by
      unfold d
      split
      · exact moved.dieEvent
      · exact moved
    have ran : Canonical e := counted.throttleCycle.statusCycle
    refine ran.onCore fun c kept => ?_
    extract_lets landed
    have stores : SpadCanonical landed := kept.landStores
    exact stores

end Canonical

/-! ## Time and the limits that the hub keeps (R333, R349, R354, R361, R364) -/

theorem CodeCanonical.setDue {pt : Machine.Part} {us : List W64} {t : Option W64} (h : CodeCanonical pt) : CodeCanonical (pt.setDue us t) := h

namespace Canonical

variable {s : State} {g : Nat}

theorem setDueAt {p : Nat} {us : List W64} {t : Option W64} (h : Canonical s) : Canonical (s.onPart p fun pt => pt.setDue us t) :=
  h.onPart fun _ kept => kept.setDue

theorem keepYieldOf {p n : Nat} {us : List W64} (h : Canonical s) : Canonical (s.keepYieldOf p n us) := by
  unfold State.keepYieldOf
  split
  · exact h.setDueAt
  · dsimp only
    split
    · exact h.yieldAt.setDueAt
    · exact h.setDueAt

theorem keepYield {p n : Nat} (h : Canonical s) : Canonical (s.keepYield p n) := by
  unfold State.keepYield
  split
  · exact h
  · extract_lets sets t
    have filtered : Canonical t := h.onPart fun _ kept => kept
    exact filtered.foldl fun _ _ kept => kept.keepYieldOf

theorem keepReserve {p n : Nat} (h : Canonical s) : Canonical (s.keepReserve p n) := by
  unfold State.keepReserve
  split
  · exact h.expireReserve
  · exact h

theorem keepCore {n : Nat} (h : Canonical s) : Canonical (s.keepCore n g) := by
  unfold State.keepCore
  split
  · exact h
  · extract_lets t
    have watched : Canonical t := by
      unfold t
      split
      · exact h.try' h.execWatchdogExpiry
      · exact h
    split
    · split
      · exact watched.try' watched.execHardCoreReset
      · exact watched
    · exact watched

theorem keepLimits {n : Nat} (h : Canonical s) : Canonical (s.keepLimits n) := by
  unfold State.keepLimits
  extract_lets t
  have parts : Canonical t := h.foldl fun _ _ kept => kept.keepYield.keepReserve
  exact parts.foldl fun _ _ kept => kept.keepCore

end Canonical

theorem Canonical.elapse {f n : Nat} {s : State} (h : Canonical s) : Canonical (State.elapse f n s) := by
  induction f generalizing n s with
  | zero => exact h
  | succ f rest =>
    unfold State.elapse
    split
    · exact h
    · exact rest h.keepLimits.passTime.leave

/-! ## Turns and steps -/

namespace Canonical

variable {s : State} {g : Nat}

theorem coreTurn {g : Fin 288} (h : Canonical s) : Canonical (s.coreTurn g) := by
  unfold State.coreTurn
  split
  · exact h
  · exact h.coreCycle.onCore fun _ kept => kept

/-- The turn of a core, of an instruction or event, and of time. -/
theorem turn {t : Turn} (h : Canonical s) : CanonicalOut (s.turn t) := by
  cases t with
  | core g =>
    rw [State.turn]
    split
    · refine .next ?_
      split
      · exact h.coreTurn.settle
      · exact h
    · exact fun _ e => nomatch e
  | act i =>
    rw [State.turn]
    split
    · exact .next h
    · split
      · next e => exact .next (h.exec _ e).settle
      · exact fun _ e => nomatch e
      · exact .next h
  | elapse n =>
    rw [State.turn]
    refine .next ?_
    split
    · exact h.elapse.settle
    · exact h

theorem nextTurn (h : Canonical s) : Canonical s.nextTurn.2 := by
  unfold State.nextTurn
  split
  · exact h
  · exact h

theorem step (h : Canonical s) : CanonicalOut (step s) := h.nextTurn.turn

end Canonical

/-- Settles O58: every update of the state writes its memories through the operations that keep the canonical form. -/
theorem everyStepKeepsTheCanonicalMemory : Obligations.EveryStepKeepsTheCanonicalMemory := by
  unfold Obligations.EveryStepKeepsTheCanonicalMemory
  intro s t canonical steps
  exact canonical_iff.mpr ((canonical_iff.mp canonical).step t steps)

end Sys2Proof.Proofs
end

section
/-! The counter banks: a bank that a guest claims, the hypervisor's take-over and its release, and what a guest's reads leave (R378 to R380). -/

namespace Sys2Proof.Proofs

open Sys2Proof.Machine Sys2Proof.Laws

variable {d b : Nat} (die : d < 4) (inside : b < 16)
include die inside

theorem setBank_bank (s : State) (x : Bank) : (s.setBank d b x).bank d b = x := by
  rw [State.bank, State.setBank, vget_vset_same _ _ _ _ die, vget_vset_same _ _ _ _ inside]

theorem exec_bankClaim (f : Option Nat) (s : State) :
    exec (.bankClaim d b f) s = .next (s.setBank d b (bankClaimed (s.bank d b) f)) :=
  event_eq_next.mpr (if_pos ⟨die, inside⟩)

theorem exec_bankRelease (f : Option Nat) (s : State) :
    exec (.bankRelease d b f) s = .next (s.setBank d b (bankReleased (s.bank d b) f)) :=
  event_eq_next.mpr (if_pos ⟨die, inside⟩)

/-- A read of LO by the guest that holds the bank gives the counter's lower half, and its HI latch takes the upper one (R380). -/
theorem exec_counterLoRead_held {fn c : Nat} {s : State} (function : fn < 64) (counter : c < 8) (held : (s.bank d b).heldBy fn = true) :
    exec (.counterLoRead fn d b c) s = .next (State.gave
      { s with hub := { s.hub with hiLatch := vset s.hub.hiLatch fn (((s.bank d b).value c).extractLsb' 32 32) } }
      (bytesOf 4 ((s.bank d b).value c))) := by
  refine event_eq_next.mpr ((if_pos ⟨function, die, inside, counter⟩).trans ?_)
  simp only [held, ↓reduceIte]

/-- A bank that the function does not hold reads zero (R364). -/
theorem exec_counterLoRead_unheld {fn c : Nat} {s : State} (function : fn < 64) (counter : c < 8) (unheld : (s.bank d b).heldBy fn = false) :
    exec (.counterLoRead fn d b c) s = .next (s.gave (natBytes 4 0)) := by
  refine event_eq_next.mpr ((if_pos ⟨function, die, inside, counter⟩).trans ?_)
  simp only [unheld, Bool.false_eq_true, ↓reduceIte]

/-- A read of the control register by the guest that holds the bank clears STOLEN (R379). -/
theorem exec_counterBankControlRead_guest {fn : Nat} {s : State} (function : fn < 64) (holder : (s.bank d b).holder = 1)
    (guest : (s.bank d b).guest = fn) : exec (.counterBankControlRead fn d b) s =
      .next ((s.gave (bytesOf 8 (s.bank d b).control)).setBank d b { s.bank d b with stolen := false }) := by
  refine event_eq_next.mpr ((if_pos ⟨function, die, inside⟩).trans ?_)
  simp only [holder, guest, and_self, ↓reduceIte]

end Sys2Proof.Proofs

open Sys2Proof Sys2Proof.Machine Sys2Proof.Proofs

/-- Settles O49: each act by the bank that it leaves; a take-over and the release after it by the two banks in turn. -/
theorem counterBanksAreHeld : Obligations.CounterBanksAreHeld := by
  unfold Obligations.CounterBanksAreHeld
  refine ⟨?claim, ?takeOver, ?lowRead, ?controlRead⟩
  case claim =>
    intro s d b f die inside free
    refine ⟨_, exec_bankClaim die inside (some f) s, rfl, rfl, ?_⟩
    simp [setBank_bank die inside, bankClaimed, free]
  case takeOver =>
    intro s d b die inside guest
    refine ⟨_, exec_bankClaim die inside none s, ?_, ?_, ?_, ?_, rfl, _, exec_bankRelease die inside none _, ?_⟩
    all_goals simp [setBank_bank die inside, bankClaimed, bankReleased, guest]
  case lowRead =>
    intro s fn d b c function die inside counter
    constructor
    · intro holder guest
      have held : (s.bank d b).heldBy fn = true := by simp [Bank.heldBy, holder, guest]
      have value : (s.bank d b).value c = vget 0 (s.bank d b).cnt c + vget 0 (s.bank d b).ofs c := by simp [Bank.value, holder]
      refine ⟨_, exec_counterLoRead_held die inside function counter held, congrArg (bytesOf 4) value, ?_, rfl, rfl⟩
      exact (vget_vset_same _ _ _ _ function).trans (congrArg _ value)
    · intro other
      have unheld : (s.bank d b).heldBy fn = false := by simp [Bank.heldBy, other]
      exact ⟨_, exec_counterLoRead_unheld die inside function counter unheld, rfl, rfl⟩
  case controlRead =>
    intro s fn d b function die inside holder guest
    refine ⟨_, exec_counterBankControlRead_guest die inside function holder guest, rfl, ?_⟩
    simp [setBank_bank die inside]
end

section
/-! The token of a scrub, field by field, and its delivery to a block that asks for one (R373, R374). -/

namespace Sys2Proof.Proofs

open Sys2Proof.Machine Sys2Proof.Laws

/-! ## Fields of joined bytes -/

/-- Of some parts joined, each lies where the lengths of those before it end. -/
theorem part_of_flatten {parts : List (List Byte)} {lens : List Nat} {k o n : Nat} {x : List Byte} (lengths : parts.map List.length = lens)
    (field : parts[k]? = some x) (start : (lens.take k).sum = o) (size : lens[k]? = some n) : (parts.flatten.drop o).take n = x := by
  subst lengths start
  obtain ⟨inside, rfl⟩ := List.getElem?_eq_some_iff.mp field
  obtain rfl : parts[k].length = n := by simpa [inside] using size
  have begins : (parts.take k).flatten.length = ((parts.map List.length).take k).sum := by rw [List.length_flatten, List.map_take]
  have joined : parts.flatten = (parts.take k).flatten ++ (parts[k] ++ (parts.drop (k + 1)).flatten) := by
    rw [← List.flatten_cons, List.getElem_cons_drop, ← List.flatten_append, List.take_append_drop]
  rw [joined, ← begins, List.drop_left, List.take_left]

theorem bytesOf_length {k : Nat} (n : Nat) (x : BitVec k) : (bytesOf n x).length = n := by simp [bytesOf]

theorem natBytes_length (n x : Nat) : (natBytes n x).length = n := bytesOf_length n _

/-- A field in which a number has been written reads as that number. -/
theorem fld_of_natBytes {bs : List Byte} {o n x : Nat} (written : (bs.drop o).take n = natBytes n x) (fits : x < 2 ^ (8 * n)) :
    Machine.fld bs o n = x := by
  rw [Machine.fld, written, natBytes, ofBytes_bytesOf, BitVec.toNat_ofNat, Nat.mod_eq_of_lt fits]

theorem fldW_of_bytesOf {bs : List Byte} {o : Nat} {x : W64} (written : (bs.drop o).take 8 = bytesOf 8 x) : fldW bs o = x := by
  rw [fldW, written]
  exact ofBytes_bytesOf (n := 8) x

/-! ## The lengths of a digest and of a signature (R373) -/

theorem shaRound_length {v : List W64} (eight : v.length = 8) (x : W64 × W64) : (shaRound v x).length = 8 := by
  unfold shaRound
  split
  · rfl
  · exact eight

theorem shaBlock_length {h : List W64} (eight : h.length = 8) (bs : List Byte) : (shaBlock h bs).length = 8 := by
  unfold shaBlock
  extract_lets words
  have rounds : ((shaK.zip words).foldl shaRound h).length = 8 :=
    List.foldlRecOn (motive := fun v : List W64 => v.length = 8) _ shaRound eight fun _ kept x _ => shaRound_length kept x
  simp [eight, rounds]

theorem shaBlocks_length (n : Nat) {h : List W64} (eight : h.length = 8) (bs : List Byte) : (shaBlocks n h bs).length = 8 := by
  induction n generalizing h bs with
  | zero => exact eight
  | succ n rest => exact rest (shaBlock_length eight _) _

theorem shaInit_length : shaInit.length = 8 := by
  rw [shaInit, List.length_map]
  decide +kernel

theorem sha384_length (bs : List Byte) : (sha384 bs).length = 48 := by
  have words : ∀ w : W64, (beBytes w).length = 8 := fun w => by simp [beBytes]
  rw [sha384, List.length_flatMap, List.map_congr_left fun w _ => words w]
  simp [shaBlocks_length _ shaInit_length]

theorem be48_length (x : Nat) : (be48 x).length = 48 := by simp [be48]

theorem signFrom_length (x h f : Nat) (kv : List Byte × List Byte) : (signFrom x h f kv).length = 96 := by
  induction f generalizing kv with
  | zero => simp [signFrom, be48_length]
  | succ f rest =>
    simp only [signFrom, apply_ite List.length, rest, List.length_append, be48_length, Nat.reduceAdd, ite_self]

theorem ecdsaSign_length (x : Nat) (msg : List Byte) : (ecdsaSign x msg).length = 96 := signFrom_length ..

/-! ## The token (R373) -/

/-- The fields of a token before its signature. -/
def tokenBody (p : Nat) (r : Scrub) (seq time : W64) (nonce : BitVec 256) : List (List Byte) :=
  [natBytes 2 1, natBytes 1 p, natBytes 1 (reasonCode r.reason), natBytes 2 r.cores.length,
    natBytes 2 (if r.cores.any (fun g => decide ((r.foundOn g).2 ≠ 0)) then 1 else 0), bytesOf 8 seq, bytesOf 8 time,
    sha384 (coreBitmap r.cores), bytesOf 32 nonce, sha384 (scrubLog r)]

/-- All of its fields. -/
def tokenParts (p : Nat) (r : Scrub) (seq time : W64) (nonce : BitVec 256) : List (List Byte) :=
  tokenBody p r seq time nonce ++ [ecdsaSign Config.deviceKey (tokenBody p r seq time nonce).flatten, natBytes 8 0]

section Token

variable (p : Nat) (r : Scrub) (seq time : W64) (nonce : BitVec 256)

theorem scrubToken_eq : scrubToken p r seq time nonce = (tokenParts p r seq time nonce).flatten := by
  simp [scrubToken, tokenParts, tokenBody]

theorem tokenBody_lengths : (tokenBody p r seq time nonce).map List.length = [2, 1, 1, 2, 2, 8, 8, 48, 32, 48] := by
  simp only [tokenBody, List.map_cons, List.map_nil, natBytes_length, bytesOf_length, sha384_length]

theorem tokenParts_lengths : (tokenParts p r seq time nonce).map List.length = [2, 1, 1, 2, 2, 8, 8, 48, 32, 48, 96, 8] := by
  rw [tokenParts, List.map_append, tokenBody_lengths]
  simp [ecdsaSign_length, natBytes_length]

theorem scrubToken_length : (scrubToken p r seq time nonce).length = 256 := by
  rw [scrubToken_eq, List.length_flatten, tokenParts_lengths]
  rfl

theorem scrubToken_body : (scrubToken p r seq time nonce).take 0x98 = (tokenBody p r seq time nonce).flatten := by
  have length : (tokenBody p r seq time nonce).flatten.length = 0x98 := by
    rw [List.length_flatten, tokenBody_lengths]
    rfl
  rw [scrubToken_eq, tokenParts, List.flatten_append, ← length, List.take_left]

variable {p r seq time nonce} in
/-- Each field stands at its offset. -/
theorem scrubToken_part {k o n : Nat} {x : List Byte} (field : (tokenParts p r seq time nonce)[k]? = some x)
    (start : ([2, 1, 1, 2, 2, 8, 8, 48, 32, 48, 96, 8].take k).sum = o) (size : [2, 1, 1, 2, 2, 8, 8, 48, 32, 48, 96, 8][k]? = some n) :
    ((scrubToken p r seq time nonce).drop o).take n = x := by
  rw [scrubToken_eq]
  exact part_of_flatten (tokenParts_lengths p r seq time nonce) field start size

end Token

theorem reasonCode_lt (why : ScrubReason) : reasonCode why < 5 := by cases why <;> decide

/-! ## TOKEN_DELIVERY (R374) -/

/-- A node with the stamps of the writes of its token. -/
def tokenSent (gt : Gate) (v : Clock) (n : Node) : Node := { n with gate := some { gt with sent := some v } }

theorem tokenSent_node? {t : State} {p : Nat} {va : W64} {n : Node} (inside : p < 64) (kept : t.node? p va = some n) (gt : Gate) (v : Clock) :
    (t.onNode p va (tokenSent gt v)).node? p va = some (tokenSent gt v n) :=
  (onNode_node? (f := tokenSent gt v) inside fun _ => rfl).trans (congrArg (Option.map _) kept)

section Delivery

variable {s t : State} {p : Nat} {va : W64} {n : Node} {gt : Gate} (found : s.node? p va = some n) (gate : n.gate = some gt)
  (unsent : gt.sent = none) (stored : (s.part p).token ≠ []) (asked : ofBytes 256 (((s.part p).token.drop 0x48).take 32) = gt.nonce)
  (put : s.hubPut p none 5 (fldW n.block 0xF0 + 64) (s.part p).token = .ok t)
include found gate unsent stored asked put

/-- A token whose nonce is the block's is written for it, and the block notes the stamps of the writes. -/
theorem tryToken_writes : s.tryToken p va = .ok (t.onNode p va (tokenSent gt (gained s.ord t.ord))) := by
  have matching : (gt.sent.isSome || decide ((s.part p).token = []) ||
      decide (ofBytes 256 (((s.part p).token.drop 0x48).take 32) ≠ gt.nonce)) = false := by simp [unsent, stored, asked]
  simp only [State.tryToken, found, gate, matching, put]
  rfl

theorem exec_tokenDelivery (inside : p < 64) (kept : t.node? p va = some n) :
    exec (.tokenDelivery p va) s = .next (t.onNode p va (tokenSent gt (gained s.ord t.ord))) := by
  refine event_eq_next.mpr ?_
  simp [found, gate, unsent, tryToken_writes found gate unsent stored asked put, tokenSent_node? inside kept, tokenSent]

end Delivery

end Sys2Proof.Proofs

open Sys2Proof Sys2Proof.Machine Sys2Proof.Proofs

/-- Settles O43: a token's fields by their lengths, and the delivery by the node that it leaves. -/
theorem tokensHoldTheirFieldsAndAreDelivered : Obligations.TokensHoldTheirFieldsAndAreDelivered := by
  unfold Obligations.TokensHoldTheirFieldsAndAreDelivered
  refine ⟨?fields, ?delivery⟩
  case fields =>
    intro p r seq time nonce inside few
    have reason := reasonCode_lt r.reason
    refine ⟨scrubToken_length p r seq time nonce, ?version, ?part, ?why, ?count, ?differs, ?seq, ?time, ?bitmap, ?nonce, ?log, ?signature⟩
    case version => exact fld_of_natBytes (scrubToken_part (k := 0) rfl rfl rfl) (by decide)
    case part => exact fld_of_natBytes (scrubToken_part (k := 1) rfl rfl rfl) (by omega)
    case why => exact fld_of_natBytes (scrubToken_part (k := 2) rfl rfl rfl) (by omega)
    case count => exact fld_of_natBytes (scrubToken_part (k := 3) rfl rfl rfl) (by omega)
    case differs => exact fld_of_natBytes (scrubToken_part (k := 4) rfl rfl rfl) (by split <;> decide)
    case seq => exact fldW_of_bytesOf (scrubToken_part (k := 5) rfl rfl rfl)
    case time => exact fldW_of_bytesOf (scrubToken_part (k := 6) rfl rfl rfl)
    case bitmap => exact scrubToken_part (k := 7) rfl rfl rfl
    case nonce => exact scrubToken_part (k := 8) rfl rfl rfl
    case log => exact scrubToken_part (k := 9) rfl rfl rfl
    case signature =>
      rw [scrubToken_body]
      exact scrubToken_part (k := 10) rfl rfl rfl
  case delivery =>
    intro s t p va n gt inside found gate unsent stored asked put kept
    exact ⟨_, exec_tokenDelivery found gate unsent stored asked put inside kept, rfl, _, _, tokenSent_node? inside kept gt _, rfl⟩
end

section
/-! Doorbells and dequeues: the ring and TAIL that a doorbell leaves, and the block that a dequeue takes and holds (R318, R319, R322, R326). -/

namespace Sys2Proof.Proofs

open Sys2Proof.Machine Sys2Proof.Laws

/-! ## Doorbells (R318) -/

theorem onQueue_queue_same {s : State} (canonical : amWf .reset s.hub.queues = true) (q : Nat) (f : Queue → Queue) :
    (s.onQueue q f).queue q = f (s.queue q) := amGet_amSet_same q _ canonical

theorem exec_hostDoorbell {q : Nat} (inside : q < 65536) (tail : W32) (es : List W64) (s : State) : exec (.hostDoorbell q tail es) s =
    .next ((s.onQueue q fun x => { x with ring := ringFill x.ring x.size.toNat x.tail.toNat es }).doorbell q tail) :=
  event_eq_next.mpr (if_pos inside)

theorem doorbell_queue {s : State} (canonical : amWf .reset s.hub.queues = true) (q : Nat) (tail : W32) : (s.doorbell q tail).queue q =
    { s.queue q with tail := tail, state := if (s.queue q).size < tail - (s.queue q).head then (s.queue q).state ||| 8 else (s.queue q).state } :=
  onQueue_queue_same canonical q _

/-! ## Dequeues (R319) -/

/-- A queue with an entry to take, of a partition that may be dequeued from and has room in its ready list (R317, R318, R368). -/
structure Dequeues (s : State) (q : Nat) : Prop where
  enabled : (s.queue q).enabled = true
  sound : (s.queue q).faulted = false
  entry : (s.queue q).count ≠ 0
  unpurged : (s.part (s.queue q).part).purged = false
  running : (s.part (s.queue q).part).resetting = none
  room : (s.part (s.queue q).part).ready.length < 4096

/-- The address in the entry at HEAD. -/
def headEntry (x : Queue) : W64 := amGet 0 x.ring (x.head.toNat % max 1 x.size.toNat)
/-- The queue, swapped in, once that entry has been taken. -/
def entryTaken (s : State) (q : Nat) : State := (s.swapIn q).onQueue q fun x => { x with head := x.head + 1, lastuse := (s.swapIn q).time }

theorem exec_dequeue {s t : State} {q : Nat} (may : Dequeues s q)
    (takes : (entryTaken s q).takeNode (s.queue q).part q (headEntry (s.queue q)) false = .ok t) : exec (.dequeue q) s = .next t := by
  have free : (!(s.queue q).enabled || (s.queue q).faulted || (s.queue q).count == 0 || !(s.part (s.queue q).part).dequeues ||
      (s.part (s.queue q).part).readyFull) = false := by
    simp [may.enabled, may.sound, may.entry, Part.dequeues, may.unpurged, may.running, readyFull_of_room may.room]
  refine event_eq_next.mpr ((if_neg (by simp [free])).trans ?_)
  exact congrArg s.hubNext takes

/-! ## The node taken (R319, R322, R326) -/

/-- A block as a dequeue takes it from a queue, none of its steps dispatched. -/
def blockNode (p q : Nat) (va : W64) (b : List Byte) (succs : List W64) : Node where
  addr := va
  part := p
  queue := q
  block := b
  succs := succs
  copy := false
  next := 0
  total := blkTotal b
  instances := []
  gate := none
  progress := 0
  parked := false
  subst := none
  need := clkZero
  prior := []

/-- A partition that holds a node, in place of one at its address. -/
def nodeHeld (n : Node) (pt : Part) : Part :=
  { pt with nodes := (pt.nodes.filter fun m => m.addr != n.addr) ++ [n], finals := pt.finals.filter fun a => a != n.addr }

theorem nodeHeld_node? {s : State} {p : Nat} (inside : p < 64) (n : Node) : (s.onPart p (nodeHeld n)).node? p n.addr = some n := by
  rw [State.node?, State.onPart_part_same _ _ _ inside]
  have replaced : ((s.part p).nodes.filter fun m => m.addr != n.addr).find? (fun m => m.addr == n.addr) = none := by simp
  simp only [nodeHeld, List.find?_append, replaced, List.find?_singleton, beq_self_eq_true, ↓reduceIte, Option.none_or]

/-- A well-formed block that waits for predecessors and asks for no token is held, and does not join the ready list. -/
theorem takeNode_holds {s t u v : State} {p q : Nat} {va : W64} {b : List Byte} {succs : List W64} (inside : p < 64)
    (aligned : va.toNat % 256 = 0) (read : s.hubGet p none 5 va 256 = .ok (b, t)) (waiting : t.setStatus p none va stWaiting = .ok u)
    (checked : u.blockCheck p b = .ok ((0, succs), v)) (tokenless : blkFlag b 1 = false) (block : blkCopy b = false) (preds : Machine.fld b 4 2 ≠ 0) :
    s.takeNode p q va false = .ok (v.onPart p (nodeHeld (blockNode p q va b succs))) := by
  have held := nodeHeld_node? (s := v) inside (blockNode p q va b succs)
  have untokened : (v.onPart p (nodeHeld (blockNode p q va b succs))).tryToken p va = .ok (v.onPart p (nodeHeld (blockNode p q va b succs))) := by
    rw [State.tryToken, show State.node? _ p va = _ from held]
    rfl
  simp only [State.takeNode, aligned, read, waiting, checked, tokenless, block, ne_eq, not_true_eq_false, ↓reduceIte, Bool.false_and,
    Bool.false_eq_true, Option.map_none]
  unfold nodeHeld blockNode at untokened ⊢
  rw [untokened]
  simp [preds]

end Sys2Proof.Proofs

open Sys2Proof Sys2Proof.Machine Sys2Proof.Proofs Sys2Proof.Laws

/-- Settles O35: the queue that a doorbell leaves, and a dequeue by the node that its entry names. -/
theorem doorbellsFillAndDequeuesTake : Obligations.DoorbellsFillAndDequeuesTake := by
  unfold Obligations.DoorbellsFillAndDequeuesTake
  refine ⟨?doorbell, ?dequeue, ?held⟩
  case doorbell =>
    intro s q tail es inside canonical
    refine ⟨_, exec_hostDoorbell inside tail es s, ?_, rfl, rfl, fun _ => rfl⟩
    rw [doorbell_queue (amWf_onQueue s q _ canonical), onQueue_queue_same canonical]
  case dequeue =>
    intro s t q enabled sound entry unpurged running room _ _ takes
    exact exec_dequeue ⟨enabled, sound, entry, unpurged, running, room⟩ takes
  case held =>
    intro s t u v q b succs enabled sound entry inside unpurged running room _ p va aligned read waiting checked tokenless block preds
    have taken := takeNode_holds (q := q) inside aligned read waiting checked tokenless block preds
    refine ⟨_, blockNode p q va b succs, exec_dequeue ⟨enabled, sound, entry, unpurged, running, room⟩ taken,
      nodeHeld_node? inside (blockNode p q va b succs), rfl, rfl, rfl, rfl, rfl, rfl, rfl, rfl, ?_⟩
    rw [State.onPart_part_same _ _ _ inside]
    rfl
end

section
/-! Deadlines, watchdogs and hard resets: the steps that a substitution and a partition reset ask to stop, and the core that a reset frees
(R259, R301, R339, R368, R395 to R397). -/

namespace Sys2Proof.Proofs

open Sys2Proof.Machine Sys2Proof.Laws

/-! ## Steps that are asked to stop (R339, R368) -/

/-- The core on which a step is asked to stop without a frame. -/
def askedToDrop (c : CoreSt) : CoreSt := { c with req := { c.req with drop := true, preempt := false, yield := false } }

/-- A step on each of some cores is asked to stop. -/
def allAskedToDrop (gs : List Nat) (s : State) : State := gs.foldl (fun s g => s.onCore g askedToDrop) s

theorem allAskedToDrop_core {gs : List Nat} (known : ∀ g ∈ gs, g < 288) (s : State) (h : Nat) :
    (allAskedToDrop gs s).core h = if h ∈ gs then askedToDrop (s.core h) else s.core h :=
  core_foldl_onCore (f := askedToDrop) (fun _ => rfl) known s h

theorem allAskedToDrop_ord (gs : List Nat) (s : State) : (allAskedToDrop gs s).ord = s.ord := by
  rw [allAskedToDrop, foldl_onCore_cores]

theorem allAskedToDrop_part (gs : List Nat) (s : State) (p : Nat) : (allAskedToDrop gs s).part p = s.part p := by
  rw [allAskedToDrop, foldl_onCore_cores]
  rfl

section Residents

variable {s t : State} {p : Nat} (held : (t.part p).held = (s.part p).held) (steps : ∀ g, (t.core g).step = (s.core g).step)
include held steps

/-- The steps that are resident depend on the cores that the partition holds and on their steps alone. -/
theorem residents_of_same : t.residents p = s.residents p := by
  rw [State.residents, State.residents, partCores_eq, partCores_eq, held]
  exact List.filter_congr fun g _ => by rw [steps]

theorem blockCores_of_same (va : W64) : t.blockCores p va = s.blockCores p va := by
  rw [State.blockCores, State.blockCores, residents_of_same held steps]
  exact List.filter_congr fun g _ => by rw [steps]

end Residents

theorem mem_residents_lt {s : State} {p g : Nat} (listed : g ∈ s.residents p) : g < 288 := mem_partCores_lt (mem_residents.mp listed).1

/-! ## Substitution at a deadline (R339) -/

/-- A partition once a substitution has dropped the steps of a block that are waiting or saved. -/
def blockDropped (va : W64) (gone : List Nat) (pt : Part) : Part :=
  { pt with
    ready := pt.ready.filter fun k => !pt.blockKey va k
    saved := (pt.saved.filter fun x => x.step.node != va), restarts := (pt.restarts.filter fun x => x.node != va)
    slots := pt.slots ++ gone
    missing := pt.missing.filter fun x => x != va }

/-- The states before a substitution's requests: a reservation of the block may have ended, its node notes what the steps have written, and what
waits or is saved is dropped. -/
theorem substDrop_stages (s : State) (n : Node) : ∃ (r : State) (f : Node → Node) (gone : List Nat),
    (r = s ∨ r = s.dropReserve n.part) ∧ (∀ m, (f m).addr = m.addr) ∧
      s.substDrop n =
        let t := (r.onNode n.part n.addr f).onPart n.part (blockDropped n.addr gone)
        allAskedToDrop (t.blockCores n.part n.addr) t := by
  refine ⟨_, _, _, ite_eq_or_eq _ _ _ |>.symm, fun m => ?_, rfl⟩
  exact foldl_keeps Node.addr (fun m x => by split <;> rfl) _ m

/-- What such a reservation's end leaves: the memory, the steps and requests of the cores, and the partition but for its reservation. -/
theorem reservation_ended {s r : State} {p : Nat} (ended : r = s ∨ r = s.dropReserve p) : r.ord = s.ord ∧
    (∀ g, ((r.core g).step, (r.core g).req) = ((s.core g).step, (s.core g).req)) ∧
    ((r.part p).held, (r.part p).nodes) = ((s.part p).held, (s.part p).nodes) := by
  obtain rfl | rfl := ended
  · exact ⟨rfl, fun _ => rfl, rfl⟩
  · exact ⟨dropReserve_ord s p, dropReserve_core_keeps s p (fun c => (c.step, c.req)) fun _ => rfl,
      dropReserve_part_keeps (fun pt => (pt.held, pt.nodes)) (fun _ => rfl) s p p⟩

theorem not_mem_ready_blockDropped {va : W64} {gone : List Nat} {pt : Part} {n : Node} (offers : pt.offer (.node va) = some (.block n))
    (named : n.addr = va) : .node va ∉ (blockDropped va gone pt).ready := by
  have key : pt.blockKey va (.node va) = true := by simp [Part.blockKey, offers, Offer.node, named]
  simp [blockDropped, key]

/-- A substitution's first act: what waits or is saved is gone, and each resident step is asked to stop. -/
theorem substDrop_drops {s : State} {n : Node} (inside : n.part < 64) (found : s.node? n.part n.addr = some n) :
    (s.substDrop n).ord = s.ord ∧ (∀ x ∈ ((s.substDrop n).part n.part).saved, x.step.node ≠ n.addr) ∧
      (∀ x ∈ ((s.substDrop n).part n.part).restarts, x.node ≠ n.addr) ∧ .node n.addr ∉ ((s.substDrop n).part n.part).ready ∧
      ∀ g, ((s.substDrop n).core g).req =
        if g ∈ s.blockCores n.part n.addr then (askedToDrop (s.core g)).req else (s.core g).req := by
  obtain ⟨r, f, gone, ended, addr, e⟩ := substDrop_stages s n
  obtain ⟨ord, cores, part⟩ := reservation_ended ended
  obtain ⟨held, nodes⟩ := Prod.mk.inj part
  have step (g : Nat) : (r.core g).step = (s.core g).step := congrArg Prod.fst (cores g)
  have req (g : Nat) : (r.core g).req = (s.core g).req := congrArg Prod.snd (cores g)
  have noted : (r.onNode n.part n.addr f).node? n.part n.addr = some (f n) := by
    rw [onNode_node? inside addr, State.node?, nodes, ← State.node?, found]
    rfl
  let t := (r.onNode n.part n.addr f).onPart n.part (blockDropped n.addr gone)
  have dropped : t.part n.part = blockDropped n.addr gone ((r.onNode n.part n.addr f).part n.part) := State.onPart_part_same _ _ _ inside
  have tHeld : (t.part n.part).held = (s.part n.part).held := by
    rw [dropped, ← held]
    exact onPart_part_keeps Part.held (by rfl) n.part
  have same : t.blockCores n.part n.addr = s.blockCores n.part n.addr := blockCores_of_same tHeld step n.addr
  have known : ∀ g ∈ t.blockCores n.part n.addr, g < 288 := fun g listed => mem_residents_lt (List.mem_filter.mp listed).1
  rw [e]
  dsimp only
  rw [allAskedToDrop_ord, allAskedToDrop_part, dropped]
  refine ⟨ord, fun x listed => ?_, fun x listed => ?_, not_mem_ready_blockDropped (offer_node noted) (addr n), fun g => ?_⟩
  · simpa using (List.mem_filter.mp listed).2
  · simpa using (List.mem_filter.mp listed).2
  · rw [allAskedToDrop_core known, same, apply_ite CoreSt.req]
    refine ite_congr rfl (fun _ => ?_) fun _ => req g
    exact congrArg (fun x : Requests => { x with drop := true, preempt := false, yield := false }) (req g)

theorem exec_deadlineExpiry {s : State} {p : Nat} {va : W64} {n : Node} (found : s.node? p va = some n) (due : s.deadlineDue n = true)
    (running : (s.part p).resetting = none) (pending : s.substPending n = true) :
    exec (.deadlineExpiry p va) s = .next (s.substDrop n) := by
  refine event_eq_next.mpr ?_
  simp [found, due, running, State.substStep, pending]

/-! ## Watchdogs (R395 to R397) -/

theorem stepExpired_of_owned {s : State} {g : Nat} (stopped : (s.core g).dbg.stopped = true) (owned : (s.core g).dbg.owned = true) :
    s.stepExpired g = false := by simp [State.stepExpired, stopped, owned]

theorem stepExpired_of_elapsed {s : State} {g : Nat} {st : StepInfo} (step : (s.core g).step = some st) (limited : st.limit ≠ 0)
    (late : 1000 * st.limit ≤ st.elapsed) (unheld : ¬((s.core g).dbg.stopped = true ∧ (s.core g).dbg.owned = true)) :
    s.stepExpired g = true := by
  have reached : st.limit ≤ st.elapsed / 1000 := by omega
  have free : ((s.core g).dbg.stopped && (s.core g).dbg.owned) = false := by simpa using unheld
  simp [State.stepExpired, step, StepInfo.expired, limited, reached, free]

theorem exec_watchdogExpiry_refused {s : State} {g : Nat} {st : StepInfo} (known : g < 288) (step : (s.core g).step = some st)
    (unexpired : s.stepExpired g = false) : exec (.watchdogExpiry g) s = .refused (.notEnabled "WATCHDOG_EXPIRY") := by
  refine (if_pos known).trans (event_eq_refused.mpr ⟨?_, rfl⟩)
  simp [step, unexpired]

theorem exec_watchdogExpiry {s : State} {g : Nat} {st : StepInfo} (known : g < 288) (step : (s.core g).step = some st)
    (expired : s.stepExpired g = true) (running : (s.part st.part).resetting = none) (quiet : (s.part st.part).scrub = none)
    (undue : ∀ n ∈ (s.part st.part).nodes, s.deadlineDue n = false) : exec (.watchdogExpiry g) s =
      .next ((s.onPart st.part fun pt => { pt with expired := s.expiredNodes st.part }).startReset st.part .watchdog) := by
  have none : ((s.part st.part).nodes.any (s.substFirst g)) = false :=
    List.any_eq_false.mpr fun n listed => by simp [State.substFirst, undue n listed]
  refine coreEvent_eq_next.mpr ⟨known, ?_⟩
  simp [step, expired, running, quiet, none]

/-! ## Partition resets (R368) -/

/-- A partition whose reset begins. -/
def resetBegun (why : ScrubReason) (now : W64) (pt : Part) : Part :=
  { pt with
    resetting := some why, resetAt := now, purged := false, missing := [], yieldDue := [], resetNeed := clkZero, resetPrior := [] }

section StartReset

variable {s : State} {p : Nat} (why : ScrubReason)

theorem startReset_eq : s.startReset p why =
    let t := (s.dropReserve p).onPart p (resetBegun why s.time)
    allAskedToDrop (t.residents p) t := rfl

theorem startReset_ord : (s.startReset p why).ord = s.ord := by
  rw [startReset_eq]
  exact (allAskedToDrop_ord _ _).trans (dropReserve_ord s p)

theorem startReset_part (inside : p < 64) :
    (s.startReset p why).part p = resetBegun why s.time { s.part p with reserve := none } := by
  rw [startReset_eq]
  dsimp only
  rw [allAskedToDrop_part, State.onPart_part_same _ _ _ inside, dropReserve_part_same s p inside]

/-- Every resident step is asked to stop, and no other core receives a request. -/
theorem startReset_req (g : Nat) : ((s.startReset p why).core g).req =
    if g ∈ s.residents p then (askedToDrop (s.core g)).req else (s.core g).req := by
  rw [startReset_eq]
  let t := (s.dropReserve p).onPart p (resetBegun why s.time)
  have cores (h : Nat) : ((t.core h).step, (t.core h).req) = ((s.core h).step, (s.core h).req) :=
    dropReserve_core_keeps s p (fun c => (c.step, c.req)) (fun _ => rfl) h
  have held : (t.part p).held = (s.part p).held :=
    (onPart_part_keeps Part.held (by rfl) p).trans (dropReserve_part_keeps Part.held (fun _ => rfl) s p p)
  have same : t.residents p = s.residents p := residents_of_same held fun h => congrArg Prod.fst (cores h)
  have req : (t.core g).req = (s.core g).req := congrArg Prod.snd (cores g)
  dsimp only
  rw [allAskedToDrop_core fun h listed => mem_residents_lt listed, same, apply_ite CoreSt.req]
  refine ite_congr rfl (fun _ => ?_) fun _ => req
  exact congrArg (fun x : Requests => { x with drop := true, preempt := false, yield := false }) req

end StartReset

/-! ## Hard resets of a core (R259, R301, R368) -/

theorem exec_hardCoreReset {s : State} {g : Nat} {st : StepInfo} (known : g < 288) (step : (s.core g).step = some st)
    (resets : (s.part st.part).resetting ≠ none)
    (due : (s.core g).status = .halted ∨ 8000 ≤ (s.time - (s.part st.part).resetAt).toNat) :
    exec (.hardCoreReset g) s = .next (s.dropStep g) := by
  have running : (s.part st.part).resetting.isNone = false := by simpa [Option.isNone_eq_false_iff, Option.isSome_iff_ne_none] using resets
  have late : ((s.core g).status == .halted || decide (8000 ≤ (s.time - (s.part st.part).resetAt).toNat)) = true := by simpa using due
  refine coreEvent_eq_next.mpr ⟨known, ?_⟩
  simp only [step, running, late, Bool.false_eq_true, ↓reduceIte]

theorem dropStep_core_same {s : State} {g : Nat} (known : g < 288) : (s.dropStep g).core g = (s.core g).freed.loseLatches := by
  rw [State.core, (dropStep_keeps s g).1]
  exact State.setCore_core_same s g _ known

theorem dropStep_core_other {s : State} {g h : Nat} (other : h ≠ g) : (s.dropStep g).core h = s.core h := by
  rw [State.core, (dropStep_keeps s g).1]
  exact State.setCore_core_other s g h _ other

end Sys2Proof.Proofs

open Sys2Proof Sys2Proof.Machine Sys2Proof.Proofs

/-- Settles O41: the first act of a substitution, the reset that a watchdog begins, and the step that a hard reset drops. -/
theorem deadlinesWatchdogsAndHardResets : Obligations.DeadlinesWatchdogsAndHardResets := by
  unfold Obligations.DeadlinesWatchdogsAndHardResets
  refine ⟨?deadline, ?watchdog, ?held, ?hardReset⟩
  case deadline =>
    rintro s p va n inside found rfl rfl due running pending
    obtain ⟨ord, saved, restarts, ready, req⟩ := substDrop_drops inside found
    refine ⟨_, exec_deadlineExpiry found due running pending, ord, saved, restarts, ready, fun g listed => ?_, fun g other => ?_⟩
    · rw [req, if_pos listed]
      exact ⟨rfl, rfl⟩
    · rw [req, if_neg other]
  case watchdog =>
    intro s g st known inside step limited late unheld running quiet undue
    refine ⟨_, exec_watchdogExpiry known step (stepExpired_of_elapsed step limited late unheld) running quiet undue, ?_⟩
    have same : (s.onPart st.part fun pt => { pt with expired := s.expiredNodes st.part }).residents st.part = s.residents st.part :=
      residents_of_same (onPart_part_keeps Part.held (by rfl) st.part) fun _ => rfl
    rw [startReset_ord, startReset_part _ inside, State.onPart_part_same _ _ _ inside]
    refine ⟨rfl, rfl, rfl, rfl, fun h listed => ?_, fun h other => ?_⟩
    · rw [startReset_req, same, if_pos listed]
      rfl
    · rw [startReset_req, same, if_neg other]
      rfl
  case held =>
    intro s g st known step stopped owned
    exact exec_watchdogExpiry_refused known step (stepExpired_of_owned stopped owned)
  case hardReset =>
    intro s g st known step resets due
    refine ⟨_, exec_hardCoreReset known step resets due, ?_⟩
    rw [dropStep_core_same known, (dropStep_keeps s g).2]
    exact ⟨rfl, rfl, rfl, rfl, fun h other => dropStep_core_other other, rfl⟩
end

section
/-! ## A binding whose second page update has to wait (R293, R340)

O52 takes that every page update of an image may perform when the binding begins; that does not hold of the lines placed later, since the
clock of a die has 64 bits: a line placed at a die whose entry stands at 2^64 - 1 takes that entry back to zero, and a line clock that the
die covered before is above it. -/
namespace Sys2Proof.Proofs
open Sys2Proof Sys2Proof.Machine Sys2Proof.Laws

/-- Range entries of which the first maps the page at 0x4000 onto itself; every other page is walked. -/
def onePageMapped : Vector W64 256 := vset (vset (.replicate 256 0) 0 0x4001) 1 0x4000

/-- The ordering machine when each die's clock stands at the greatest value of die 0's entry, the line at address 0 has been updated at clock 5,
and memory holds at address 0 a page entry that is valid and points at its own table. -/
def orderAboutToWrap : Order :=
  { Order.reset with
    vc := .replicate 4 (clkPut clkZero 0 (2 ^ 64 - 1)), lclock := [(0, clkPut clkZero 0 5)], mem := vset Order.reset.mem 0 [(0, 1)] }

/-- Partition 0 is loaded, with its table root at address 0, and the clocks are about to wrap. -/
def aboutToWrap : State :=
  { (State.reset.onPart 0 fun pt => { pt with loaded := some PartEntry.reset, ranges := onePageMapped }) with ord := orderAboutToWrap }

/-- An image without code, with a byte at an address that the range entry maps, and then one at an address of a page whose entry owes A and D. -/
def twoByteImage : Image :=
  { cores := 0, classB := false, policyCompat := false, own := { code := [], commas := [], entries := [] }, other := none
    handlerImage := false, tvec := 0, pages := [], data := [(0x4000, [0]), (0, [0])], scratch := [] }

theorem homeDie_lt (pa : Nat) : homeDie pa < 4 := by
  have low : ∀ n : Nat, n % 4 < 2 ^ 2 := fun n => Nat.mod_lt n (by decide)
  unfold homeDie
  split
  · exact Nat.xor_lt_two_pow (Nat.xor_lt_two_pow (low _) (low _)) (low _)
  · decide

/-- The lines of that state have two clocks: that of address 0, and zero. -/
theorem aboutToWrap_lineClock (line : Nat) :
    aboutToWrap.ord.lineClock line = clkZero ∨ aboutToWrap.ord.lineClock line = clkPut clkZero 0 5 := by
  have one : aboutToWrap.ord.lclock = [(0, clkPut clkZero 0 5)] := rfl
  unfold Order.lineClock
  rw [one]
  by_cases first : line = 0
  · right; rw [first]; rfl
  · left; simp only [amGet, if_neg (Ne.symm first), ite_self]

/-- Each update may perform when the binding begins: every die's clock covers every line clock. -/
theorem aboutToWrap_mayArbitrate (pa : Nat) : aboutToWrap.ord.mayArbitrate (homeDie pa) pa = true := by
  have covers : ∀ d < 4, clkGe (aboutToWrap.ord.dieClock d) clkZero = true ∧
      clkGe (aboutToWrap.ord.dieClock d) (clkPut clkZero 0 5) = true := by decide +kernel
  obtain ⟨zero, five⟩ := covers (homeDie pa) (homeDie_lt pa)
  unfold Order.mayArbitrate
  obtain line | line := aboutToWrap_lineClock (pa / 64) <;> rw [line]
  · exact zero
  · exact five

theorem twoByteImage_admitted : aboutToWrap.bindRefusal 0 twoByteImage = none := by decide +kernel

theorem twoByteImage_waits : aboutToWrap.bindImage 0 twoByteImage = none := by decide +kernel

/-- The image is admitted, and still its binding is no event of that state. -/
theorem twoByteImage_not_bound (u : State) : exec (.colmerBind 0 twoByteImage) aboutToWrap ≠ .next u := by
  have waits : execColmerBind 0 twoByteImage aboutToWrap = .refused (.notEnabled "COLMER_BIND") := by
    unfold execColmerBind
    rw [twoByteImage_admitted, twoByteImage_waits]
    rfl
  change execColmerBind 0 twoByteImage aboutToWrap ≠ .next u
  simp only [waits, ne_eq, reduceCtorEq, not_false_eq_true]

end Sys2Proof.Proofs

open Sys2Proof Sys2Proof.Machine Sys2Proof.Proofs
/-- Refutes O52: the byte placed first takes die 0's clock entry from 2^64 - 1 to 0, so that the A and D update of the second byte's page, which
might perform when the binding began, has to wait, and the admitted image is not bound. -/
theorem not_repairsMapTheSparesAndImagesBind : ¬ Obligations.RepairsMapTheSparesAndImagesBind := by
  unfold Obligations.RepairsMapTheSparesAndImagesBind
  rintro ⟨-, -, -, binds⟩
  have loaded : (aboutToWrap.part 0).loaded ≠ none := by decide +kernel
  obtain ⟨-, admitted⟩ := binds aboutToWrap 0 twoByteImage (by decide) loaded
  obtain ⟨u, bound, -⟩ := admitted twoByteImage_admitted rfl aboutToWrap_mayArbitrate
  exact twoByteImage_not_bound u bound
end

section
/-! ## Time, power, clocks and registers (R364, R365, R382 to R384, R395, R406, R408, R416) -/
namespace Sys2Proof.Proofs
open Sys2Proof Sys2Proof.Machine Sys2Proof.Laws Sys2Proof.Claims

/-! ### Register writes (R364, R365) -/

section
variable {s : State} {f p : Nat} {v : W64}

/-- A write below 64 KiB of the physical function is one of its own block. -/
theorem registerWrite_own {ofs : Nat} (aligned : ofs % 8 = 0) (own : ofs < 2 ^ 16) :
    exec (.registerWrite none ofs v) s = .next (s.pfWrite ofs v) := by
  change execRegisterWrite none ofs v s = _
  unfold execRegisterWrite
  rw [if_neg (by omega), if_pos own]
  rfl

theorem registerWrite_unserved {ofs : Nat} (aligned : ofs % 8 = 0) (unserved : s.partOfVf f = none) :
    exec (.registerWrite (some f) ofs v) s = .next s := by
  change execRegisterWrite (some f) ofs v s = _
  simp only [execRegisterWrite, aligned, ne_eq, not_true_eq_false, if_false, unserved]
  rfl

/-- A write of a function is one of its partition's block. -/
theorem registerWrite_block {ofs : Nat} (aligned : ofs % 8 = 0) (inside : ofs < 2 ^ 20) (serves : s.partOfVf f = some p) :
    exec (.registerWrite (some f) ofs v) s = event "REGISTER_WRITE" (s.blockWrite (some f) p ofs v) := by
  change execRegisterWrite (some f) ofs v s = _
  simp only [execRegisterWrite, aligned, ne_eq, not_true_eq_false, if_false, serves, if_pos inside]

variable (known : p < 64)
include known

theorem blockWrite_trbase : s.blockWrite (some f) p 0x40 v = some (s.onPart p fun pt => { pt with trbase := v }) := by
  rw [State.blockWrite, if_neg (by omega)]; rfl
theorem blockWrite_trsize : s.blockWrite (some f) p 0x48 v = some (s.onPart p fun pt => { pt with trsize := v }) := by
  rw [State.blockWrite, if_neg (by omega)]; rfl
theorem blockWrite_trtail : s.blockWrite (some f) p 0x58 v = some (s.onPart p fun pt => { pt with trtail := v }) := by
  rw [State.blockWrite, if_neg (by omega)]; rfl
theorem blockWrite_qsel : s.blockWrite (some f) p 0x78 v = some (s.onPart p fun pt => { pt with qsel := v }) := by
  rw [State.blockWrite, if_neg (by omega)]; rfl
theorem blockWrite_command : s.blockWrite (some f) p 0 v = s.commandWrite false p v := by
  rw [State.blockWrite, if_neg (by omega)]; rfl
theorem blockWrite_startVector : s.blockWrite (some f) p 0x10 v = s.hubNext (s.startVector p v) := by
  rw [State.blockWrite, if_neg (by omega)]; rfl

theorem blockWrite_nonce {k : Nat} (word : k < 4) : s.blockWrite (some f) p (0x20 + 8 * k) v =
    some (s.onPart p fun pt => { pt with entry := { pt.entry with nonce := setElem 64 k pt.entry.nonce v } }) := by
  have index : (0x20 + 8 * k - 0x20) / 8 = k := by omega
  rw [State.blockWrite, if_neg (by omega), if_neg (by omega), if_neg (by omega), if_pos (by omega), index]

theorem blockWrite_doorbell {k q : Nat} (small : k < 65536) (queue : s.queueOf p k = some q) :
    s.blockWrite (some f) p (0x80000 + 8 * k) v = some (s.doorbell q (v.setWidth 32)) := by
  have index : (0x80000 + 8 * k - 0x80000) / 8 = k := by omega
  unfold State.blockWrite
  iterate 11 rw [if_neg (by omega)]
  rw [if_pos (by omega), index, queue]

/-- The registers of a partition's block that are only read. -/
theorem blockWrite_readOnly {ofs : Nat} (readOnly : ofs ∈ [0x8, 0x18, 0x50, 0x60, 0x68, 0x70]) :
    s.blockWrite (some f) p ofs v = some s := by
  rw [State.blockWrite, if_neg (by omega)]
  simp only [List.mem_cons, List.not_mem_nil, or_false] at readOnly
  obtain rfl | rfl | rfl | rfl | rfl | rfl := readOnly <;> rfl

end

/-- The commands that a function may give (R362). -/
theorem commandWrite_flush {s : State} {p : Nat} {v : W64} (code : v.toNat % 256 = 2) : s.commandWrite false p v = s.cmdFlush p := by
  simp only [State.commandWrite, code]
theorem commandWrite_reset {s : State} {p : Nat} {v : W64} (code : v.toNat % 256 = 3) : s.commandWrite false p v = s.cmdReset p := by
  simp only [State.commandWrite, code]
theorem commandWrite_scrub {s : State} {p : Nat} {v : W64} (code : v.toNat % 256 = 4) : s.commandWrite false p v = s.cmdScrub p := by
  simp only [State.commandWrite, code]

/-- The registers of the physical function (R365). -/
theorem pfWrite_hiLatch (s : State) (v : W64) {f : Nat} (guest : f < 64) :
    s.pfWrite (0x100 + 8 * f) v = { s with hub := { s.hub with hiLatch := vset s.hub.hiLatch f (v.setWidth 32) } } := by
  have index : (0x100 + 8 * f - 0x100) / 8 = f := by omega
  unfold State.pfWrite
  iterate 5 rw [if_neg (by omega)]
  rw [if_pos (by omega), index]
  rfl

/-! ### Time (R336, R382, R383, R395) -/

/-- The slices and the counter banks lie in the hub. -/
theorem tickTime_keeps_hubless {β : Type} (view : State → β) (hub : ∀ s v, view { s with hub := v } = view s) (s : State) (n : Nat) :
    view (s.tickTime n) = view { s.runClock n with cores := s.cores.map fun (c : CoreSt) => c.ages n } := by
  refine (hub _ _).trans (foldl_keeps view (fun s p => ?_) _ _)
  split
  · exact hub _ _
  · rfl

theorem ages_reset (n : Nat) : CoreSt.reset.ages n = CoreSt.reset := by
  unfold CoreSt.ages; split <;> rfl

theorem tickTime_core (s : State) (n g : Nat) : (s.tickTime n).core g = (s.core g).ages n :=
  (congrArg (fun v => vget CoreSt.reset v g) (tickTime_keeps_hubless State.cores (fun _ _ => rfl) s n)).trans
    (vget_map s.cores g (ages_reset n))

theorem tickTime_ord (s : State) (n : Nat) : (s.tickTime n).ord = s.ord :=
  tickTime_keeps State.ord (fun _ _ => rfl) (fun _ _ => rfl) s n

theorem ages_files (c : CoreSt) (n : Nat) : (c.ages n).files = c.files := by
  unfold CoreSt.ages; split <;> rfl

theorem ages_held {c : CoreSt} (n : Nat) (held : c.dbg.stopped = true ∧ c.dbg.owned = true) : c.ages n = c := by
  obtain ⟨stopped, owned⟩ := held
  rw [CoreSt.ages, stopped, owned]
  rfl

theorem ages_step {c : CoreSt} {st : StepInfo} (n : Nat) (free : ¬ (c.dbg.stopped = true ∧ c.dbg.owned = true))
    (runs : c.status ≠ .restarting) (step : c.step = some st) : (c.ages n).step = some { st with elapsed := st.elapsed + n } := by
  have goes : ¬ (((c.dbg.stopped && c.dbg.owned) || c.status == .restarting) = true) := by
    simpa [runs] using free
  rw [CoreSt.ages, if_neg goes, step]
  rfl

theorem stepTime_above {s : State} {n : W64} (above : 1000000 < n.toNat) (parent : s.hub.holdover = false) :
    s.stepTime n = s.tickTime n.toNat := by
  rw [State.stepTime, if_pos (by simp [above, parent])]

theorem stepTime_none {s : State} {n : W64} (stays : n.toNat ≤ 1000000 ∨ s.hub.holdover = true) : s.stepTime n = s := by
  refine if_neg fun steps => ?_
  simp only [Bool.and_eq_true, decide_eq_true_eq, Bool.not_eq_true'] at steps
  obtain ⟨above, parent⟩ := steps
  obtain small | held := stays
  · omega
  · rw [parent] at held; cases held

/-! ### The fabric's ports (R406) -/

/-- Of the five lanes of a port each has failed or works. -/
theorem failed_add_workingLanes (s : State) (port : Nat) :
    ((List.range 5).filter fun l => (vget 0 s.pkg.lanes port).getLsbD l).length + s.workingLanes port = 5 := by
  have parts := List.length_eq_length_filter_add (l := List.range 5) fun l => (vget 0 s.pkg.lanes port).getLsbD l
  rw [List.length_range] at parts
  exact parts.symm

theorem portWidth_eq_zero_iff (s : State) (port : Nat) : s.portWidth port = 0 ↔ s.workingLanes port < 3 := by
  unfold State.portWidth
  split <;> omega

/-! ### The removal of a module and barriers (R129, R408) -/

/-- A core whose step, if it has one, is noted as waiting for a member that never comes. -/
def orphaned (c : CoreSt) : CoreSt := { c with step := c.step.map fun st => { st with orphan := true } }

theorem waitsFor_iff (s : State) (r : Removal) (g : Nat) : s.waitsFor r g = true ↔ WaitsForModule s r g := by
  unfold State.waitsFor WaitsForModule
  simp only [Bool.and_eq_true, beq_iff_eq, Bool.not_eq_true', decide_eq_true_eq, Bool.or_eq_true, List.contains_iff_mem,
    List.any_eq_true, and_assoc, ne_eq]
  refine and_congr_right fun _ => and_congr_right fun _ => and_congr_right fun _ => or_congr_right ?_
  refine exists_congr fun x => and_congr_right fun _ => and_congr_right fun _ => ?_
  cases (s.core g).reached.since <;> simp

/-- Of a core, whether it waits for a module reads the group reached and the step's partition. -/
theorem waitsFor_of_same {s t : State} {g : Nat} (r : Removal) (reached : (t.core g).reached = (s.core g).reached)
    (part : t.partOf g = s.partOf g) (hub : t.hub = s.hub) : t.waitsFor r g = s.waitsFor r g := by
  unfold State.waitsFor CoreSt.barScope State.part
  rw [reached, part, hub]

theorem waitsFor_orphaned (s : State) (r : Removal) (g h : Nat) : (s.onCore g orphaned).waitsFor r h = s.waitsFor r h := by
  refine waitsFor_of_same r (onCore_keeps (f := orphaned) CoreSt.reached (fun _ => rfl) s g h) ?_ rfl
  refine onCore_keeps (fun c => match c.step with | some st => st.part | none => 0) (fun c => ?_) s g h
  unfold orphaned
  cases c.step <;> rfl

/-- A fold that updates the cores which meet a condition, where the updates leave the condition of every core as it is. -/
theorem foldl_onCore_if {f : CoreSt → CoreSt} {cond : State → Nat → Bool} (stays : ∀ s g h, cond (s.onCore g f) h = cond s h)
    (gs : List Nat) (s : State) : gs.foldl (fun s g => if cond s g then s.onCore g f else s) s =
      (gs.filter (cond s)).foldl (fun s g => s.onCore g f) s := by
  induction gs generalizing s with
  | nil => rfl
  | cons g gs ih =>
    rw [List.foldl_cons, ih, List.filter_cons]
    split
    · rw [List.foldl_cons, funext (stays s g)]
    · rfl

/-- The state in which a module has left the pod, before the steps that wait for it are noted. -/
def moduleLeft (s : State) (r : Removal) : State :=
  s.onPkg fun k => { k with removed := k.removed ++ [r.module], lost := k.lost ++ r.groups.filter fun x => x != 0 }

/-- The cores whose steps wait for the module are orphaned. -/
theorem moduleRemoval_eq {s : State} {r : Removal} (idle : r.idle = true) (present : r.module ∉ s.pkg.removed) :
    exec (.moduleRemoval r) s =
      .next (((List.range 288).filter ((moduleLeft s r).waitsFor r)).foldl (fun s g => s.onCore g orphaned) (moduleLeft s r)) := by
  change execModuleRemoval r s = _
  rw [← foldl_onCore_if (cond := fun s g => s.waitsFor r g) (fun s g h => waitsFor_orphaned s r g h)]
  unfold execModuleRemoval
  rw [if_neg (by simp [idle, present])]
  rfl

theorem orphaned_step {c : CoreSt} {st : StepInfo} (step : c.step = some st) :
    (orphaned c).step = some { st with orphan := true } := by
  rw [orphaned, step]; rfl

/-- A barrier of the pod that waits for a removed module, or is begun in a group it was not cleared from, is not ready. -/
theorem barReady_orphan {s : State} {g : Nat} {st : StepInfo} (step : (s.core g).step = some st)
    (waits : st.orphan = true ∧ g ∈ s.barMembers g 4 ∨ (s.part st.part).podgroup ∈ s.pkg.lost) : s.barReady g 4 = false := by
  have part : s.partOf g = st.part := by rw [State.partOf, step]
  refine Bool.eq_false_iff.mpr fun ready => ?_
  simp only [State.barReady, beq_self_eq_true, Bool.true_and, Bool.and_eq_true, Bool.not_eq_true', Bool.or_eq_false_iff,
    List.any_eq_false, part] at ready
  obtain ⟨-, present, complete⟩ := ready
  obtain ⟨orphan, member⟩ | lost := waits
  · have whole := complete g member
    rw [step] at whole
    exact whole orphan
  · rw [List.contains_iff_mem.mpr lost] at present
    cases present

/-! ### The clauses of O50 -/

theorem timestep_effect (s : State) (n : W64) :
    (1000000 < n.toNat → s.hub.holdover = false → ∃ u, exec (.timestep n) s = .next u ∧ u.time = s.time + n ∧ u.ord = s.ord ∧
      (∀ g, g < 288 → (u.core g).files = (s.core g).files ∧
        (¬ ((s.core g).dbg.stopped = true ∧ (s.core g).dbg.owned = true) → (s.core g).status ≠ .restarting →
          ∀ st, (s.core g).step = some st → (u.core g).step = some { st with elapsed := st.elapsed + n.toNat }) ∧
        ((s.core g).dbg.stopped = true ∧ (s.core g).dbg.owned = true → (u.core g).step = (s.core g).step))) ∧
    (n.toNat ≤ 1000000 ∨ s.hub.holdover = true → exec (.timestep n) s = .next s) := by
  refine ⟨fun above parent => ⟨s.tickTime n.toNat, ?_, ?_, tickTime_ord s _, fun g _ => ?_⟩, fun stays => ?_⟩
  · exact congrArg (fun t => event "TIMESTEP" (some t)) (stepTime_above above parent)
  · rw [tickTime_time, BitVec.ofNat_toNat, BitVec.setWidth_eq]
  · rw [tickTime_core]
    exact ⟨ages_files _ _, fun free runs st step => ages_step _ free runs step, fun held => congrArg CoreSt.step (ages_held _ held)⟩
  · exact congrArg (fun t => event "TIMESTEP" (some t)) (stepTime_none stays)

theorem powerlimit_effect (s : State) (w : W64) : ∃ u, exec (.powerlimit w) s = .next u ∧
    u.hub.powerlimit = max 1000 (min 2800 (w.toNat % 4096)) ∧ u.pkg.powerStep < 5 ∧ u.cores = s.cores ∧ u.ord = s.ord ∧ u.time = s.time :=
  ⟨s.setPower (w.toNat % 4096), rfl, rfl, Nat.mod_lt _ (by decide), rfl, rfl, rfl⟩

theorem ptpMessage_up {s : State} {port : Nat} (known : port < 12)
    (up : ((List.range 5).filter fun l => (vget 0 s.pkg.lanes port).getLsbD l).length ≤ 2) :
    exec (.ptpMessage port .sync) s = .next { s with pkg := { s.pkg with ptpStamps := s.pkg.ptpStamps ++ [(port, s.time)] } } := by
  have lanes := failed_add_workingLanes s port
  have width : ¬ s.portWidth port = 0 := by rw [portWidth_eq_zero_iff]; omega
  change execPtpMessage port .sync s = _
  rw [execPtpMessage, if_neg (by rw [not_or]; exact ⟨by omega, width⟩)]
  rfl

theorem ptpMessage_down {s : State} {port : Nat}
    (down : 3 ≤ ((List.range 5).filter fun l => (vget 0 s.pkg.lanes port).getLsbD l).length) :
    exec (.ptpMessage port .sync) s = .refused (.notEnabled "PTP_MESSAGE") := by
  have lanes := failed_add_workingLanes s port
  have width : s.portWidth port = 0 := by rw [portWidth_eq_zero_iff]; omega
  change execPtpMessage port .sync s = _
  rw [execPtpMessage, if_pos (Or.inr width)]
  rfl

theorem clockStepDown_effect {s : State} {d t : Nat} (known : d < 4) (hot : vget 0 s.pkg.clockStep d < stepForTemp t) :
    ∃ u, exec (.clockStepDown d t) s = .next u ∧ vget 0 u.pkg.clockStep d = stepForTemp t ∧ u.cores = s.cores ∧ u.ord = s.ord ∧
      (∀ e, e ≠ d → vget 0 u.pkg.clockStep e = vget 0 s.pkg.clockStep e) := by
  refine ⟨_, event_eq_next.mpr (if_neg (by omega)), vget_vset_same _ _ _ _ known, rfl, rfl, fun e other => vget_vset_other _ _ _ _ _ other⟩

theorem clockStepUp_effect {s : State} {d temp : Nat} {t : W64} (known : d < 4) (slow : vget 0 s.pkg.clockStep d ≠ 0)
    (cool : temp < leaveTemp (vget 0 s.pkg.clockStep d)) (since : vget none s.pkg.coolSince d = some t) :
    ((s.time - t).toNat < 1000000 → exec (.clockStepUp d temp) s = .next s) ∧
    (1000000 ≤ (s.time - t).toNat → ∃ u, exec (.clockStepUp d temp) s = .next u ∧
      vget 0 u.pkg.clockStep d = vget 0 s.pkg.clockStep d - 1 ∧ u.cores = s.cores ∧ u.ord = s.ord) := by
  have may : ¬ (4 ≤ d ∨ vget 0 s.pkg.clockStep d = 0) := by omega
  refine ⟨fun early => event_eq_next.mpr ?_, fun late => ⟨s.onPkg fun x =>
      { x with clockStep := vset x.clockStep d (vget 0 s.pkg.clockStep d - 1), coolSince := vset x.coolSince d none },
    event_eq_next.mpr ?_, vget_vset_same _ _ _ _ known, rfl, rfl⟩⟩
  · simp only [if_neg may, if_neg (Nat.not_le.mpr cool), since, if_pos early]
  · simp only [if_neg may, if_neg (Nat.not_le.mpr cool), since, if_neg (Nat.not_lt.mpr late)]

theorem laneFailure_effect {s : State} {port lane : Nat} (known : port < 12) (one : lane < 5)
    (works : (vget 0 s.pkg.lanes port).getLsbD lane = false) :
    ∃ u, exec (.laneFailure port lane) s = .next u ∧ vget 0 u.pkg.lanes port = vget 0 s.pkg.lanes port ||| (1#5 <<< lane) ∧
      u.cores = s.cores ∧ u.hub = s.hub :=
  ⟨_, event_eq_next.mpr (if_pos ⟨known, one, works⟩), vget_vset_same _ _ _ _ known, rfl, rfl⟩

theorem moduleRemoval_effect {s : State} {r : Removal} (idle : r.idle = true) (present : r.module ∉ s.pkg.removed) :
    ∃ u, exec (.moduleRemoval r) s = .next u ∧ u.ord = s.ord ∧ u.hub = s.hub ∧ u.time = s.time ∧
      u.pkg = { s.pkg with removed := s.pkg.removed ++ [r.module], lost := s.pkg.lost ++ r.groups.filter fun x => x != 0 } ∧
      (∀ g, g < 288 → (u.core g).files = (s.core g).files ∧
        (∀ st, (s.core g).step = some st → ∃ x, (u.core g).step = some x ∧ (x.orphan = true ↔ st.orphan = true ∨ WaitsForModule s r g))) := by
  refine ⟨_, moduleRemoval_eq idle present, ?_⟩
  rw [foldl_onCore_cores]
  refine ⟨rfl, rfl, rfl, rfl, fun g known => ?_⟩
  have waiting : g ∈ (List.range 288).filter ((moduleLeft s r).waitsFor r) ↔ WaitsForModule s r g := by
    rw [List.mem_filter, List.mem_range, ← waitsFor_iff]
    exact and_iff_right known
  have core := core_foldl_onCore (f := orphaned) (gs := (List.range 288).filter ((moduleLeft s r).waitsFor r))
    (fun c => by unfold orphaned; cases c.step <;> rfl) (fun g listed => List.mem_range.mp (List.mem_filter.mp listed).1) (moduleLeft s r) g
  change (vget CoreSt.reset _ g).files = _ ∧ ∀ st, _ → ∃ x, (vget CoreSt.reset _ g).step = _ ∧ _
  rw [show vget CoreSt.reset _ g = _ from core]
  by_cases waits : WaitsForModule s r g
  · rw [if_pos (waiting.mpr waits)]
    exact ⟨rfl, fun st step => ⟨_, orphaned_step step, by simp [waits]⟩⟩
  · rw [if_neg (waiting.not.mpr waits)]
    exact ⟨rfl, fun st step => ⟨st, step, by simp [waits]⟩⟩

/-- The writes of the physical function's own block. -/
theorem ownRegisters_written (s : State) (v : W64) :
    exec (.registerWrite none 0x20 v) s = .next { s with hub := { s.hub with lanethresh := v.setWidth 32 } } ∧
    (∃ u, exec (.registerWrite none 0x18 v) s = .next u ∧ u.hub.powerlimit = max 1000 (min 2800 (v.toNat % 4096))) ∧
    exec (.registerWrite none 0x10 v) s = .next { s with hub := { s.hub with ptpdomain := v.toNat % 128 } } ∧
    exec (.registerWrite none 0x28 v) s = exec (.timestep v) s ∧ exec (.registerWrite none 0 v) s = .next s ∧
    (∀ f, f < 64 → exec (.registerWrite none (0x100 + 8 * f) v) s =
      .next { s with hub := { s.hub with hiLatch := vset s.hub.hiLatch f (v.setWidth 32) } }) := by
  refine ⟨registerWrite_own rfl (by decide), ⟨_, registerWrite_own rfl (by decide), rfl⟩, registerWrite_own rfl (by decide),
    registerWrite_own rfl (by decide), registerWrite_own rfl (by decide), fun f guest => ?_⟩
  rw [registerWrite_own (by omega) (by omega), pfWrite_hiLatch s v guest]

/-- The writes of a partition's block by its function. -/
theorem blockRegisters_written {s : State} {f p : Nat} (v : W64) (serves : s.partOfVf f = some p) (known : p < 64) :
    exec (.registerWrite (some f) 0x40 v) s = .next (s.onPart p fun pt => { pt with trbase := v }) ∧
    exec (.registerWrite (some f) 0x48 v) s = .next (s.onPart p fun pt => { pt with trsize := v }) ∧
    exec (.registerWrite (some f) 0x58 v) s = .next (s.onPart p fun pt => { pt with trtail := v }) ∧
    exec (.registerWrite (some f) 0x78 v) s = .next (s.onPart p fun pt => { pt with qsel := v }) ∧
    (∀ k, k < 4 → exec (.registerWrite (some f) (0x20 + 8 * k) v) s =
      .next (s.onPart p fun pt => { pt with entry := { pt.entry with nonce := setElem 64 k pt.entry.nonce v } })) ∧
    (∀ k q, k < 65536 → s.queueOf p k = some q →
      exec (.registerWrite (some f) (0x80000 + 8 * k) v) s = .next (s.doorbell q (v.setWidth 32))) ∧
    (∀ t, v.toNat % 256 = 2 → exec (.flush p) s = .next t → exec (.registerWrite (some f) 0 v) s = .next t) ∧
    (∀ t, v.toNat % 256 = 3 → exec (.reset p) s = .next t → exec (.registerWrite (some f) 0 v) s = .next t) ∧
    (∀ t, v.toNat % 256 = 4 → exec (.scrub p) s = .next t → exec (.registerWrite (some f) 0 v) s = .next t) ∧
    (∀ t, exec (.startVectorWrite p v) s = .next t → exec (.registerWrite (some f) 0x10 v) s = .next t) ∧
    (∀ ofs, ofs ∈ [0x8, 0x18, 0x50, 0x60, 0x68, 0x70] → exec (.registerWrite (some f) ofs v) s = .next s) := by
  have written {ofs : Nat} {t : State} (aligned : ofs % 8 = 0) (inside : ofs < 2 ^ 20) (block : s.blockWrite (some f) p ofs v = some t) :
      exec (.registerWrite (some f) ofs v) s = .next t :=
    (registerWrite_block aligned inside serves).trans (event_eq_next.mpr block)
  have commanded {t : State} (command : s.commandWrite false p v = some t) : exec (.registerWrite (some f) 0 v) s = .next t :=
    written rfl (by decide) ((blockWrite_command known).trans command)
  refine ⟨?trbase, ?trsize, ?trtail, ?qsel, ?nonce, ?doorbell, ?flush, ?reset, ?scrub, ?startVector, ?readOnly⟩
  case trbase => exact written rfl (by decide) (blockWrite_trbase known)
  case trsize => exact written rfl (by decide) (blockWrite_trsize known)
  case trtail => exact written rfl (by decide) (blockWrite_trtail known)
  case qsel => exact written rfl (by decide) (blockWrite_qsel known)
  case nonce => exact fun k word => written (by omega) (by omega) (blockWrite_nonce known word)
  case doorbell => exact fun k q small queue => written (by omega) (by omega) (blockWrite_doorbell known small queue)
  case flush => exact fun t code done => commanded ((commandWrite_flush code).trans (event_eq_next.mp done))
  case reset => exact fun t code done => commanded ((commandWrite_reset code).trans (event_eq_next.mp done))
  case scrub => exact fun t code done => commanded ((commandWrite_scrub code).trans (event_eq_next.mp done))
  case startVector =>
    intro t done
    have started := event_eq_next.mp done
    rw [if_pos known] at started
    exact written rfl (by decide) ((blockWrite_startVector known).trans started)
  case readOnly =>
    intro ofs readOnly
    have aligned : ∀ o ∈ [0x8, 0x18, 0x50, 0x60, 0x68, 0x70], o % 8 = 0 ∧ o < 2 ^ 20 := by decide
    obtain ⟨eight, inside⟩ := aligned ofs readOnly
    exact written eight inside (blockWrite_readOnly known readOnly)

end Sys2Proof.Proofs

open Sys2Proof Sys2Proof.Machine Sys2Proof.Proofs
/-- Settles O50: each register's write reaches its own branch of the block, and each event has one line of effect; the fold of a module's removal
reads in every core what it has not changed. -/
theorem timePowerClocksAndRegisters : Obligations.TimePowerClocksAndRegisters := by
  unfold Obligations.TimePowerClocksAndRegisters
  refine ⟨timestep_effect, powerlimit_effect, ownRegisters_written, ?unserved, ?block, ?holdover, ?ports, ?down, ?up, ?lane, ?removal, ?barrier⟩
  case unserved => exact fun s f ofs v aligned unserved => registerWrite_unserved aligned unserved
  case block => exact fun s f p v serves known => blockRegisters_written v serves known
  case holdover => exact fun s => rfl
  case ports => exact fun s port known => ⟨ptpMessage_up known, ptpMessage_down⟩
  case down => exact fun s d t known hot => clockStepDown_effect known hot
  case up => exact fun s d temp t known slow cool since => clockStepUp_effect known slow cool since
  case lane => exact fun s port lane known one works => laneFailure_effect known one works
  case removal => exact fun s r idle present => moduleRemoval_effect idle present
  case barrier => exact fun s g st step waits => barReady_orphan step waits
end

section
/-! ## The commands of a partition (R273, R361, R362, R368, R369, R375, R376, R397, R399) -/
namespace Sys2Proof.Proofs
open Sys2Proof Sys2Proof.Machine Sys2Proof.Laws Sys2Proof.Claims

/-! ### Commands that take effect, and that are BUSY (R362, R397) -/

theorem command_busy {s : State} {p : Nat} (inside : p < 64) (busy : (s.part p).cmdRun = true ∨ (s.part p).resetting ≠ none)
    (f : State → Option State) : s.command p f = some (s.onPart p fun pt => { pt with cmdstat := 2 }) := by
  have runs : ((s.part p).cmdRun || (s.part p).resetting.isSome) = true := by
    rw [Bool.or_eq_true, Option.isSome_iff_ne_none]
    exact busy
  rw [State.command, if_neg (by omega), if_pos runs]

theorem command_taken {s : State} {p : Nat} (inside : p < 64) (idle : (s.part p).cmdRun = false) (runs : (s.part p).resetting = none)
    (f : State → Option State) : s.command p f = f s := by
  rw [State.command, if_neg (by omega), if_neg (by simp [idle, runs])]

/-! ### Commands that wait for the writes performed (R273, R362, R399) -/

/-- A command waits for every write performed: it is over at once exactly where all of them have been applied. -/
theorem appliedAll_stampsNow (s : State) : s.ord.appliedAll s.stampsNow = true ↔ AllApplied s := by
  have stamp (d : Nat) (known : d < 4) : clk s.stampsNow d = clk (s.ord.dieClock d) d := by
    unfold State.stampsNow clkPut
    rw [clk, vget_foldl_vset 0 (fun d => BitVec.ofNat 64 (clk (s.ord.dieClock d) d)) clkZero known, if_pos known]
    simp [clk]
  unfold AllApplied Order.appliedAll
  simp only [List.all_eq_true, List.mem_range, decide_eq_true_eq]
  exact ⟨fun all d j die seen => stamp d die ▸ all j seen d die, fun all j seen d die => (stamp d die).symm ▸ all d j die seen⟩

/-- A partition whose accesses use the current entries alone. -/
def entriesTaken (pt : Part) : Part := { pt with newRanges := none, ranges := pt.inForce.ranges, ptroot := pt.inForce.ptroot }

/-- A partition whose waiting command, a FLUSH or one with a FLUSH, is over; LOGSTOP has the code 7. -/
def waitOver (code : Nat) (round : Option LogRound) (pt : Part) : Part :=
  { pt with
    cmdRun := false, cmdstat := 1, pend := none, handed := if round.isSome then round else pt.handed
    entry := { pt.entry with state := if code = 7 then pt.entry.state &&& ~~~(4 : W64) else pt.entry.state } }

/-- The cached translations of other partitions. -/
def ofOthers (p : Nat) (l : List Cached) : List Cached := l.filter fun e => e.part != p

theorem mem_ofOthers {p : Nat} {l : List Cached} {e : Cached} (listed : e ∈ ofOthers p l) : e.part ≠ p := by
  simpa using (List.mem_filter.mp listed).2

/-- A core without the cached translations of a partition. -/
def flushedCore (p : Nat) (c : CoreSt) : CoreSt := { c with tlb := ofOthers p c.tlb }

theorem flushNow_eq (s : State) (p : Nat) : s.flushNow p =
    { s.onPart p entriesTaken with cores := s.cores.map (flushedCore p), dieTlb := s.dieTlb.map (ofOthers p) } := rfl

section
variable {s : State} {p : Nat} {code : Nat} (round : Option LogRound) (inside : p < 64)
include inside

theorem pendCommand_part : (s.pendCommand p code round).part p =
    { s.part p with cmdRun := true, cmdstat := 0, pend := some { code := code, need := s.stampsNow, round := round } } :=
  State.onPart_part_same _ _ _ inside

variable (flushes : code ≠ 1 ∧ code ≠ 4)
include flushes

theorem pended_waits (waits : ¬ AllApplied s) : (s.pendCommand p code round).settlePart p = s.pendCommand p code round := by
  obtain ⟨noReload, noScrub⟩ := flushes
  have waiting : s.ord.appliedAll s.stampsNow = false := Bool.eq_false_iff.mpr fun all => waits ((appliedAll_stampsNow s).mp all)
  unfold State.settlePart
  rw [pendCommand_part round inside]
  dsimp only
  rw [if_neg noReload, if_neg noScrub, if_pos (by rw [Bool.not_eq_true']; exact waiting)]

theorem pended_settled (applied : AllApplied s) : (s.pendCommand p code round).settlePart p =
    ((s.pendCommand p code round).flushNow p).onPart p (waitOver code round) := by
  obtain ⟨noReload, noScrub⟩ := flushes
  unfold State.settlePart
  rw [pendCommand_part round inside]
  dsimp only
  rw [if_neg noReload, if_neg noScrub, if_neg (by rw [Bool.not_eq_true', Bool.not_eq_false]; exact (appliedAll_stampsNow s).mpr applied)]
  rfl

/-- A FLUSH that completes leaves memory as it is. -/
theorem pended_settled_ord (applied : AllApplied s) : ((s.pendCommand p code round).settlePart p).ord = s.ord := by
  rw [pended_settled round inside flushes applied]
  rfl

theorem pended_settled_part (applied : AllApplied s) :
    ((s.pendCommand p code round).settlePart p).part p = waitOver code round (entriesTaken (s.part p)) := by
  have flushed : ((s.pendCommand p code round).flushNow p).part p = entriesTaken ((s.pendCommand p code round).part p) :=
    State.onPart_part_same (s.pendCommand p code round) p entriesTaken inside
  rw [pended_settled round inside flushes applied, State.onPart_part_same _ _ _ inside, flushed, pendCommand_part round inside]
  rfl

theorem pended_settled_core (applied : AllApplied s) (g : Nat) :
    ((s.pendCommand p code round).settlePart p).core g = flushedCore p (s.core g) := by
  rw [pended_settled round inside flushes applied]
  exact vget_map (f := flushedCore p) s.cores g rfl

theorem pended_settled_dieTlb (applied : AllApplied s) (d : Nat) :
    vget [] ((s.pendCommand p code round).settlePart p).dieTlb d = ofOthers p (vget [] s.dieTlb d) := by
  rw [pended_settled round inside flushes applied]
  exact vget_map (f := ofOthers p) s.dieTlb d rfl

end

/-! ### RESET, SCRUB and RELOAD (R361, R362, R368, R369) -/

section
variable {s : State} {p : Nat} (inside : p < 64) (idle : (s.part p).cmdRun = false) (runs : (s.part p).resetting = none)
include inside idle runs

theorem exec_flush : exec (.flush p) s = .next ((s.pendCommand p 2 none).settlePart p) :=
  event_eq_next.mpr (command_taken inside idle runs _)

theorem exec_reset : exec (.reset p) s =
    .next ((s.onPart p fun pt => { pt with cmdRun := true, cmdstat := 0 }).startReset p .reset) :=
  event_eq_next.mpr (command_taken inside idle runs _)

theorem exec_scrub_now (now : s.occupied p = true ∨ s.busyBlocks p = true ∨ (s.part p).scrub = none) :
    exec (.scrub p) s = .next (s.scrubTry p) := by
  refine event_eq_next.mpr ((command_taken inside idle runs _).trans (congrArg some (if_pos ?_)))
  simp only [Bool.or_eq_true, Option.isNone_iff_eq_none]
  tauto

theorem exec_scrub_deferred (free : s.occupied p = false) (quiet : s.busyBlocks p = false) (held : (s.part p).scrub ≠ none) :
    exec (.scrub p) s = .next (s.deferCommand p 4) := by
  refine event_eq_next.mpr ((command_taken inside idle runs _).trans (congrArg some (if_neg ?_)))
  simp only [free, quiet, Bool.false_or, Option.isNone_iff_eq_none]
  exact held

theorem exec_reload_deferred (waits : s.reloadWaits p = true) : exec (.reload p) s = .next (s.deferCommand p 1) :=
  event_eq_next.mpr ((command_taken inside idle runs _).trans (congrArg some (if_pos waits)))

theorem exec_reload_now (free : s.reloadWaits p = false) : exec (.reload p) s = .next (s.reloadTry p) :=
  event_eq_next.mpr ((command_taken inside idle runs _).trans (congrArg some (if_neg (by rw [free]; decide))))

end

theorem scrubTry_busy {s : State} {p : Nat} (busy : s.occupied p = true ∨ s.busyBlocks p = true) : s.scrubTry p = s.cmdDone p 2 := by
  rw [State.scrubTry, if_pos (by rw [Bool.or_eq_true]; exact busy)]

theorem scrubTry_starts {s : State} {p : Nat} (free : s.occupied p = false) (quiet : s.busyBlocks p = false) :
    s.scrubTry p = s.onPart p fun pt => { pt with
      cmdRun := true, cmdstat := 0, scrub := some { reason := .scrub, cores := s.partCores p, cleared := false, found := [], outgoing := some (p, s.vfOf p) } } := by
  rw [State.scrubTry, if_neg (by simp [free, quiet])]

theorem reloadTry_refused {s : State} {p k : Nat} (refused : s.reloadRefused p = some k) : s.reloadTry p = s.cmdDone p k := by
  rw [State.reloadTry, refused]

theorem held_of_same_want (held want : BitVec 320) : (held &&& ~~~(want &&& ~~~want)) ||| (want &&& ~~~want) = held := by
  rw [BitVec.and_not_self]
  change held &&& ~~~0#320 ||| 0#320 = held
  rw [BitVec.not_zero, BitVec.and_allOnes, BitVec.or_zero]

section
variable {pt : Part} (changed : Bool) (defined : pt.entry.state.getLsbD 0 = true) (same : pt.entry.cores = wantOf pt)
include defined same

theorem want_of_same : pt.entry.want = pt.inForce.want := by
  rw [PartEntry.want, if_pos defined, same]
  rfl

/-- A defined entry that names the cores it named when last loaded is loaded, and the partition holds what it held. -/
theorem reloaded_sameCores : let x := pt.reloaded pt.entry changed
    x.loaded = some pt.entry ∧ x.held = pt.held ∧ x.cmdRun = pt.cmdRun := by
  dsimp only
  unfold Part.reloaded
  simp only [defined, if_true, want_of_same defined same, held_of_same_want, and_self]

end

theorem startSlice_held (pt : Part) (now : W64) : (pt.endSlice.startSlice now).loaded = pt.loaded ∧
    (pt.endSlice.startSlice now).held = pt.held ∧ (pt.endSlice.startSlice now).cmdRun = pt.cmdRun := by
  rw [startSlice_kept]
  exact ⟨rfl, rfl, rfl⟩

/-- An entry with the cores it had when last loaded is put in force at once, with no scrub. -/
theorem reloadTry_sameCores {s : State} {p : Nat} (inside : p < 64) (accepted : s.reloadRefused p = none)
    (defined : (s.part p).entry.state.getLsbD 0 = true) (same : (s.part p).entry.cores = wantOf (s.part p)) :
    ((s.reloadTry p).part p).loaded = some (s.part p).entry ∧ ((s.reloadTry p).part p).held = (s.part p).held ∧
      ((s.reloadTry p).part p).cmdstat = 1 ∧ ((s.reloadTry p).part p).cmdRun = (s.part p).cmdRun ∧ (s.reloadTry p).cores = s.cores := by
  have delta : ((List.range Config.nCores).filter fun g => (s.part p).entry.want.getLsbD g != (s.part p).inForce.want.getLsbD g) = [] :=
    List.filter_eq_nil_iff.mpr fun g _ => by simp [want_of_same defined same]
  obtain ⟨loaded, held, run⟩ := reloaded_sameCores false defined same
  rw [State.reloadTry, accepted]
  dsimp only
  unfold State.reloadNow
  simp only [delta, defined, if_true, Bool.true_and, ne_eq, not_true_eq_false, decide_false]
  split
  · rw [State.cmdDone, State.onPart_part_same _ _ _ inside, State.onPart_part_same _ _ _ inside]
    exact ⟨loaded, held, rfl, run, rfl⟩
  · obtain ⟨sameLoaded, sameHeld, sameRun⟩ := startSlice_held ((s.part p).reloaded (s.part p).entry false) s.time
    rw [State.cmdDone, State.onPart_part_same _ _ _ inside, State.onPart_part_same _ _ _ inside, State.onPart_part_same _ _ _ inside]
    exact ⟨sameLoaded.trans loaded, sameHeld.trans held, rfl, sameRun.trans run, rfl⟩

/-! ### The rounds of the dirty log (R375, R376) -/

theorem enterMem_part (s : State) (p d pa q : Nat) : (s.enterMem p d pa).part q = s.part q := rfl

theorem clearLeaf_part (s : State) (p addr q : Nat) : (s.clearLeaf p addr).part q = s.part q := by
  unfold State.clearLeaf
  dsimp only
  split <;> rfl

theorem overTable_keeps {β : Type} (view : State → β) {f : Nat → State → Option State} (keeps : ∀ i s t, f i s = some t → view t = view s)
    {is : List Nat} {s t : State} (all : overTable f is s = some t) : view t = view s := by
  induction is generalizing s with
  | nil => exact congrArg view (Option.some.inj all).symm
  | cons i is rest =>
    unfold overTable at all
    split at all
    · next e => exact (rest all).trans (keeps i s _ e)
    · cases all

/-- The clearing of D in the tables leaves every partition's registers as they are. -/
theorem clearTables_part {p q : Nat} {ls : List (Nat × Nat)} {l table : Nat} {s t : State} (done : clearTables p ls l table s = some t) :
    t.part q = s.part q := by
  induction ls generalizing l table s t with
  | nil => exact congrArg (State.part · q) (Option.some.inj done).symm
  | cons x ls rest =>
    unfold clearTables at done
    refine overTable_keeps (fun s : State => s.part q) (fun i s t one => ?_) done
    extract_lets addr u e at one
    have entered : u.part q = s.part q := by
      unfold u
      split <;> rfl
    split at one
    · exact congrArg (State.part · q) (Option.some.inj one).symm
    · split at one
      · cases one
      · split at one
        · exact (congrArg (State.part · q) (Option.some.inj one).symm).trans entered
        · split at one
          · refine (congrArg (State.part · q) (Option.some.inj one).symm).trans ?_
            split
            · exact (clearLeaf_part _ _ _ _).trans entered
            · exact entered
          · exact (rest one).trans entered

/-- A partition whose new round is open. -/
def roundOpened (pt : Part) : Part :=
  { pt with entry := { pt.entry with logcount := 0, state := pt.entry.state &&& ~~~(8 : W64) }, logPages := [] }

theorem openRound_part {s t : State} {p : Nat} (inside : p < 64) (opened : s.openRound p = some t) :
    t.part p = roundOpened (s.part p) := by
  refine (clearTables_part opened).trans ((State.onPart_part_same _ _ _ inside).trans ?_)
  rw [physWrite_part, enterRange_part]
  rfl

theorem roundOpened_state (pt : Part) : (roundOpened pt).entry.state.getLsbD 3 = false := by
  simp [roundOpened]

/-- A partition that logs from now on. -/
def loggingOn (pt : Part) : Part := { pt with entry := { pt.entry with state := pt.entry.state ||| 4 } }

section
variable {s t : State} {p : Nat} (inside : p < 64) (idle : (s.part p).cmdRun = false) (runs : (s.part p).resetting = none)
  (opened : s.openRound p = some t)
include inside idle runs opened

theorem exec_logstart : exec (.logstart p) s = .next (((t.onPart p loggingOn).pendCommand p 5 none).settlePart p) :=
  event_eq_next.mpr ((command_taken inside idle runs _).trans (by rw [opened]; rfl))

theorem exec_loground : exec (.loground p) s = .next ((t.pendCommand p 6 (some (s.logRound p))).settlePart p) :=
  event_eq_next.mpr ((command_taken inside idle runs _).trans (by rw [opened]; rfl))

theorem exec_logstop : exec (.logstop p) s = .next ((t.pendCommand p 7 (some (s.logRound p))).settlePart p) :=
  event_eq_next.mpr ((command_taken inside idle runs _).trans (by rw [opened]; rfl))

end

/-! ### The effects of the commands -/

section
variable {s : State} {p : Nat} (inside : p < 64) (idle : (s.part p).cmdRun = false) (runs : (s.part p).resetting = none)
include inside idle runs

theorem flush_completes (applied : AllApplied s) : ∃ u, exec (.flush p) s = .next u ∧ (∀ g, g < 288 → ∀ e ∈ (u.core g).tlb, e.part ≠ p) ∧
    (∀ d, d < 4 → ∀ e ∈ vget [] u.dieTlb d, e.part ≠ p) ∧ (u.part p).ranges = (s.part p).inForce.ranges ∧
    (u.part p).newRanges = none ∧ (u.part p).ptroot = (s.part p).inForce.ptroot ∧ (u.part p).cmdstat = 1 ∧
    (u.part p).cmdRun = false ∧ (∀ g, g < 288 → (u.core g).files = (s.core g).files) ∧ u.ord = s.ord := by
  have kind : 2 ≠ 1 ∧ 2 ≠ 4 := by decide
  refine ⟨_, exec_flush inside idle runs, ?_⟩
  rw [pended_settled_part none inside kind applied]
  refine ⟨fun g _ e listed => ?_, fun d _ e listed => ?_, rfl, rfl, rfl, rfl, rfl, fun g _ => ?_,
    pended_settled_ord none inside kind applied⟩
  · rw [pended_settled_core none inside kind applied] at listed
    exact mem_ofOthers listed
  · rw [pended_settled_dieTlb none inside kind applied] at listed
    exact mem_ofOthers listed
  · rw [pended_settled_core none inside kind applied]
    rfl

theorem flush_runs (waits : ¬ AllApplied s) : ∃ u, exec (.flush p) s = .next u ∧ (u.part p).cmdRun = true ∧ (u.part p).cmdstat = 0 ∧
    (u.part p).ranges = (s.part p).ranges ∧ u.cores = s.cores ∧ u.ord = s.ord := by
  refine ⟨_, exec_flush inside idle runs, ?_⟩
  rw [pended_waits none inside (by decide) waits, pendCommand_part none inside]
  exact ⟨rfl, rfl, rfl, rfl, rfl⟩

theorem reset_begins : ∃ u, exec (.reset p) s = .next u ∧ (u.part p).cmdRun = true ∧ (u.part p).resetting = some .reset ∧ u.ord = s.ord ∧
    (∀ g ∈ s.residents p, (u.core g).req.drop = true) := by
  have same : (s.onPart p fun pt => { pt with cmdRun := true, cmdstat := 0 }).residents p = s.residents p :=
    residents_of_same (onPart_part_keeps Part.held (by rfl) p) fun _ => rfl
  refine ⟨_, exec_reset inside idle runs, ?_⟩
  rw [startReset_part _ inside, State.onPart_part_same _ _ _ inside, startReset_ord]
  refine ⟨rfl, rfl, rfl, fun g listed => ?_⟩
  rw [startReset_req, same, if_pos listed]
  rfl

variable {t : State} (opened : s.openRound p = some t) (applied : AllApplied t)
include opened applied

theorem logstart_completes : ∃ u, exec (.logstart p) s = .next u ∧ u.ord = t.ord ∧ (u.part p).entry.state = (t.part p).entry.state ||| 4 ∧
    (u.part p).cmdstat = 1 ∧ (u.part p).cmdRun = false := by
  have kind : 5 ≠ 1 ∧ 5 ≠ 4 := by decide
  have logged : AllApplied (t.onPart p loggingOn) := applied
  refine ⟨_, exec_logstart inside idle runs opened, pended_settled_ord none inside kind logged, ?_⟩
  rw [pended_settled_part none inside kind logged, State.onPart_part_same _ _ _ inside]
  exact ⟨rfl, rfl, rfl⟩

theorem loground_completes : ∃ u, exec (.loground p) s = .next u ∧ u.ord = t.ord ∧ (u.part p).entry = (t.part p).entry ∧
    (u.part p).cmdstat = 1 ∧ (u.part p).cmdRun = false ∧ (u.part p).handed = some (s.logRound p) := by
  have kind : 6 ≠ 1 ∧ 6 ≠ 4 := by decide
  refine ⟨_, exec_loground inside idle runs opened, pended_settled_ord _ inside kind applied, ?_⟩
  rw [pended_settled_part _ inside kind applied]
  exact ⟨rfl, rfl, rfl, rfl⟩

theorem logstop_completes : ∃ u, exec (.logstop p) s = .next u ∧ u.ord = t.ord ∧
    (u.part p).entry.state = (t.part p).entry.state &&& ~~~(4 : W64) ∧ (u.part p).cmdstat = 1 ∧ (u.part p).cmdRun = false ∧
    (u.part p).handed = some (s.logRound p) := by
  have kind : 7 ≠ 1 ∧ 7 ≠ 4 := by decide
  refine ⟨_, exec_logstop inside idle runs opened, pended_settled_ord _ inside kind applied, ?_⟩
  rw [pended_settled_part _ inside kind applied]
  exact ⟨rfl, rfl, rfl, rfl⟩

end

/-- Each command is BUSY while another of its partition runs. -/
theorem commands_busy {s : State} {p : Nat} {i : Instr} (inside : p < 64) (busy : (s.part p).cmdRun = true ∨ (s.part p).resetting ≠ none)
    (one : i ∈ [Instr.reload p, .flush p, .reset p, .scrub p, .logstart p, .loground p, .logstop p]) :
    exec i s = .next (s.onPart p fun pt => { pt with cmdstat := 2 }) := by
  have taken (name : String) (f : State → Option State) : event name (s.command p f) = .next (s.onPart p fun pt => { pt with cmdstat := 2 }) :=
    event_eq_next.mpr (command_busy inside busy f)
  simp only [List.mem_cons, List.not_mem_nil, or_false] at one
  obtain rfl | rfl | rfl | rfl | rfl | rfl | rfl := one <;> exact taken _ _

end Sys2Proof.Proofs

open Sys2Proof Sys2Proof.Machine Sys2Proof.Proofs
/-- Settles O48: a command is BUSY, or its own function runs; what FLUSH and the log's commands wait for is that every write performed is
applied, and the clearing of D keeps the partition's registers. -/
theorem commandsWaitTheirTurnOrTakeEffect : Obligations.CommandsWaitTheirTurnOrTakeEffect := by
  unfold Obligations.CommandsWaitTheirTurnOrTakeEffect
  refine ⟨fun s p i inside busy one => commands_busy inside busy one, fun s p inside idle runs => ?_⟩
  refine ⟨flush_completes inside idle runs, flush_runs inside idle runs, reset_begins inside idle runs, ?busy, ?scrub, ?scrubWaits, ?reloadWaits,
    ?refused, ?reload, ?opened, ?rounds⟩
  case busy =>
    intro busy
    rw [exec_scrub_now inside idle runs (busy.imp_right Or.inl), scrubTry_busy busy]
    rfl
  case scrub =>
    intro free quiet none
    refine ⟨_, exec_scrub_now inside idle runs (Or.inr (Or.inr none)), ?_⟩
    rw [scrubTry_starts free quiet, State.onPart_part_same _ _ _ inside]
    exact ⟨rfl, rfl, rfl⟩
  case scrubWaits => exact fun free quiet held => exec_scrub_deferred inside idle runs free quiet held
  case reloadWaits => exact fun waits => exec_reload_deferred inside idle runs waits
  case refused =>
    intro k free refused
    rw [exec_reload_now inside idle runs free, reloadTry_refused refused]
    rfl
  case reload =>
    intro free accepted defined same
    obtain ⟨loaded, held, status, run, cores⟩ := reloadTry_sameCores inside accepted defined same
    exact ⟨_, exec_reload_now inside idle runs free, loaded, held, status, run.trans idle, cores⟩
  case opened =>
    intro t opened
    rw [openRound_part inside opened]
    exact ⟨rfl, roundOpened_state _, rfl⟩
  case rounds => exact fun t opened applied => ⟨logstart_completes inside idle runs opened applied,
      loground_completes inside idle runs opened applied, logstop_completes inside idle runs opened applied⟩
end

section
/-! ## Lines of scratchpads, windows and the host (R56, R181, R263, R276 to R278, R288, R293, R367) -/
namespace Sys2Proof.Proofs
open Sys2Proof Sys2Proof.Machine Sys2Proof.Laws Sys2Proof.Claims

/-! ### Loads and stores of the queue -/

theorem reads_of_writes {q : QOp} (writes : q.writes = true) : q.reads = false := by
  unfold QOp.writes at writes
  unfold QOp.reads
  generalize q.op = i at writes ⊢
  cases i
  case tst | xtst => rfl
  all_goals cases writes

theorem writes_of_reads {q : QOp} (reads : q.reads = true) : q.writes = false :=
  Bool.eq_false_iff.mpr fun writes => by
    rw [reads_of_writes writes] at reads
    cases reads

theorem need_of_writes {q : QOp} (writes : q.writes = true) : q.need = needW := by
  rw [QOp.need, reads_of_writes writes, writes]; rfl
theorem reach_of_writes {q : QOp} (writes : q.writes = true) : q.reach = .windows := by
  rw [QOp.reach, writes]; rfl
theorem need_of_reads {q : QOp} (reads : q.reads = true) : q.need = needR := by
  rw [QOp.need, reads]; rfl
theorem reach_of_reads {q : QOp} (reads : q.reads = true) : q.reach = .scratchpads := by
  rw [QOp.reach, writes_of_reads reads]; rfl

theorem loadWaits_of_writes {c : CoreSt} {q : QOp} (writes : q.writes = true) : c.loadWaits q = false := by
  rw [CoreSt.loadWaits, reads_of_writes writes]
  rfl

/-- Only the last line of a load waits for earlier readers. -/
theorem loadWaits_of_more {c : CoreSt} {q : QOp} (more : q.done + 1 < q.lines) : c.loadWaits q = false := by
  rw [CoreSt.loadWaits, decide_eq_false (Nat.not_le.mpr more), Bool.and_false, Bool.false_and]

theorem setHead_files (s : State) (g : Nat) (q : QOp) (h : Nat) : ((s.setHead g q).core h).files = (s.core h).files :=
  onCore_keeps CoreSt.files (fun _ => by rfl) s g h

theorem setHead_mem {s : State} {g : Nat} (q : QOp) (known : g < 288) : ((s.setHead g q).core g).flow.mem = q :: (s.core g).flow.mem.tail := by
  rw [State.setHead, State.onCore_core_same _ _ _ known]

theorem qWrite_of_writes (c : CoreSt) {q : QOp} (writes : q.writes = true) : c.qWrite q = (c, 0) := by
  unfold QOp.writes at writes
  unfold CoreSt.qWrite
  generalize q.op = i at writes ⊢
  cases i
  case tst | xtst => rfl
  all_goals cases writes

/-- What a store's line leaves to be done writes no register. -/
theorem qSettle_files_of_writes {s : State} {q : QOp} (g : Nat) (writes : q.writes = true) (h : Nat) :
    ((s.qSettle g q).core h).files = (s.core h).files := by
  unfold State.qSettle
  split
  · refine (onCore_keeps (f := headStamped _) CoreSt.files (headStamped_files _) _ g h).trans (onCore_keeps CoreSt.files (fun c => ?_) s g h)
    rw [qWrite_of_writes c writes]
    exact CoreSt.tokDone_files ..
  · exact setHead_files s g q h

/-! ### A scratchpad's port (R276) -/

/-- A core whose port has served an access: the bank is busy, and no access waits. -/
def portTaken (off : Nat) (c : CoreSt) : CoreSt :=
  { c with flow := { c.flow with
      portQ := [], portBusy := c.flow.portBusy ||| (1#16 <<< (off / 64 % 16)), bankClaim := c.flow.bankClaim &&& ~~~(1#16 <<< (off / 64 % 16)) } }

theorem portTry_of_free {t : State} {p off : Nat} (free : PortFree t p off) (who : Nat) :
    t.portTry who p off = some (true, t.onCore p (portTaken off)) := by
  obtain ⟨alone, idle, unneeded⟩ := free
  unfold State.portTry
  simp only [alone, idle, List.contains_eq_mem, unneeded, decide_false, Bool.not_false, Bool.and_true, if_true]
  rfl

theorem portTaken_files (t : State) (p off h : Nat) : ((t.onCore p (portTaken off)).core h).files = (t.core h).files :=
  onCore_keeps (f := portTaken off) CoreSt.files (fun _ => rfl) t p h
theorem portTaken_mem (t : State) (p off h : Nat) : ((t.onCore p (portTaken off)).core h).flow.mem = (t.core h).flow.mem :=
  onCore_keeps (f := portTaken off) (fun c => c.flow.mem) (fun _ => rfl) t p h
theorem portTaken_xq (t : State) (p off h : Nat) : ((t.onCore p (portTaken off)).core h).flow.xq = (t.core h).flow.xq :=
  onCore_keeps (f := portTaken off) (fun c => c.flow.xq) (fun _ => rfl) t p h

theorem spadWrite_of_files {c d : CoreSt} (same : c.files = d.files) (off : Nat) (bs : List Byte) :
    (c.spadWrite off bs).files = (d.spadWrite off bs).files := by
  unfold CoreSt.spadWrite
  split
  · rw [same]
  · exact same

/-- The state in which a port has taken a line's bytes. -/
def portWritten (t : State) (p off : Nat) (bs : List Byte) : State :=
  (t.onCore p (portTaken off)).onCore p fun c => c.spadWrite off bs

theorem portWritten_same {t : State} {p : Nat} (known : p < 288) (off : Nat) (bs : List Byte) :
    ((portWritten t p off bs).core p).files = ((t.core p).spadWrite off bs).files := by
  rw [portWritten, State.onCore_core_same _ _ _ known]
  exact spadWrite_of_files (portTaken_files t p off p) off bs

theorem portWritten_other {t : State} {p h : Nat} (other : h ≠ p) (off : Nat) (bs : List Byte) :
    ((portWritten t p off bs).core h).files = (t.core h).files := by
  rw [portWritten, State.onCore_core_other _ _ _ _ other, portTaken_files]

theorem portWritten_xq (t : State) (p off : Nat) (bs : List Byte) (h : Nat) :
    ((portWritten t p off bs).core h).flow.xq = (t.core h).flow.xq :=
  (onCore_keeps (fun c => c.flow.xq) (fun c => by rw [CoreSt.spadWrite_flow]) _ p h).trans (portTaken_xq t p off h)

section
variable {s t : State} {g p off : Nat}

/-- An access that is prepared leaves every core's files and queues. -/
theorem access_ok_files {va : W64} {need : Need} {reach : Reach} {x : Xlated} (prepared : s.access g va need reach = .ok t x) (h : Nat) :
    (t.core h).files = (s.core h).files := congrArg Prod.fst (access_ok_filesFlow prepared h)
theorem access_ok_flow {va : W64} {need : Need} {reach : Reach} {x : Xlated} (prepared : s.access g va need reach = .ok t x) (h : Nat) :
    (t.core h).flow = (s.core h).flow := congrArg Prod.snd (access_ok_filesFlow prepared h)

/-- The rights of R263 hold over the place of an access that is prepared. -/
theorem accessFor_ok_allowed {part : Nat} {core die : Option Nat} {va : W64} {need : Need} {reach : Reach} {x : Xlated}
    (prepared : s.accessFor part core die va need reach = .ok t x) : s.allowed part need.w reach x.loc = true := by
  unfold State.accessFor at prepared
  dsimp only at prepared
  split at prepared
  · cases prepared
  · cases prepared
  · split at prepared
    · split at prepared <;> cases prepared
    · next allowed =>
      split at prepared
      · cases prepared
      · cases prepared
        simpa using allowed

/-- A window that an access may reach is one of the 288 cores'. -/
theorem access_ok_window {va : W64} {need : Need} {reach : Reach} {x : Xlated} (prepared : s.access g va need reach = .ok t x)
    (window : x.loc = .reg p off) : p < 288 := by
  have allowed := accessFor_ok_allowed (access_ok prepared)
  rw [window, State.allowed, State.partHas] at allowed
  simp only [Bool.and_eq_true, decide_eq_true_eq] at allowed
  exact allowed.1.1.1

variable (known : g < 288)
include known

/-! ### PORT (R276, R293) -/

theorem exec_port_store {q : QOp} {x : Xlated} {v : Clock} (head : (s.core g).headOp = some q) (left : q.done < q.lines)
    (writes : q.writes = true) (clock : q.vc = some v) (covered : clkGe (s.ord.dieClock (Config.dieOf p)) v = true)
    (prepared : s.access g q.lineVa needW .windows = .ok t x) (port : x.loc = .port p off) (free : PortFree t p off) :
    exec (.port g false) s = .next ((portWritten t p off q.lineBytes).qSettle g
      { q with done := q.done + 1, portAt := .none, served := t.servedAt p q.served }) := by
  have may : s.portClock g p q.vc = true := by rw [clock]; exact covered
  refine coreEvent_eq_next.mpr ⟨known, ?_⟩
  rw [if_neg Bool.false_ne_true, Option.or_eq_some_iff]
  left
  unfold State.qPort
  simp only [head, if_neg (Nat.not_le.mpr left), need_of_writes writes, reach_of_writes writes, prepared, port, may, Bool.not_true, Bool.and_false,
    loadWaits_of_writes writes, portTry_of_free free, reads_of_writes writes, writes, Bool.false_eq_true, if_false, if_true]
  rfl

theorem exec_port_load {q : QOp} {x : Xlated} (head : (s.core g).headOp = some q) (reads : q.reads = true) (more : q.done + 1 < q.lines)
    (prepared : s.access g q.lineVa needR .scratchpads = .ok t x) (port : x.loc = .port p off) (free : PortFree t p off) :
    exec (.port g false) s = .next ((t.onCore p (portTaken off)).setHead g
      { q.take ((t.core p).spadRead off 64) with served := t.servedAt p q.served }) := by
  have bytes : ((t.onCore p (portTaken off)).core p).spadRead off 64 = (t.core p).spadRead off 64 := by
    rw [CoreSt.spadRead, portTaken_files, CoreSt.spadRead]
  refine coreEvent_eq_next.mpr ⟨known, ?_⟩
  rw [if_neg Bool.false_ne_true, Option.or_eq_some_iff]
  left
  unfold State.qPort
  simp only [head, if_neg (show ¬ q.lines ≤ q.done by omega), need_of_reads reads, reach_of_reads reads, prepared, port,
    loadWaits_of_more more, portTry_of_free free, reads, Bool.not_true, Bool.false_and, Bool.false_eq_true, if_false, if_true, bytes]
  exact congrArg some (qSettle_of_more g more)

theorem exec_port_copy {x : XCmd} {l : W512} {y : Xlated} (head : (s.core g).headCopy = some x) (plain : x.pipe = false)
    (line : x.line = some l) (prepared : s.access g x.dstVa needW .windows = .ok t y) (port : y.loc = .port p off)
    (clock : t.portClock g p x.vc = true) (covered : t.covered g x.served = true) (free : PortFree t p off) :
    exec (.port g true) s = .next ((portWritten t p off (bytesOf 64 l)).setCopy g { x.put with wrote := t.servedAt p x.wrote }) := by
  have may : t.mayPut g x = true := covered
  refine coreEvent_eq_next.mpr ⟨known, ?_⟩
  rw [if_pos rfl, State.xPort, head]
  simp only [plain, line, Option.isSome_some, Bool.false_eq_true, if_false, if_true, prepared, port, State.xPortAt, clock, may, Bool.not_true,
    Bool.or_false, Bool.and_false, portTry_of_free free]
  rfl

end

/-! ### DEPOSIT and DRAIN (R56, R181, R277, R278) -/

/-- The entry that a store's line makes at a window. -/
def depositEntry (part p off : Nat) (bs : List Byte) : Entry :=
  { core := p, host := false, addr := off, bytes := bs, part := part, va := none, stuck := false }

theorem ingressAdd_of_unscrubbed {s : State} {e : Entry} (quiet : s.underScrub e.core = false) :
    (s.ingressAdd e).ord = (s.ingressPush e).ord ∧ (s.ingressAdd e).cores = s.cores := by
  unfold State.ingressAdd
  rw [if_neg (by rw [quiet]; decide)]
  dsimp only
  split <;> exact ⟨rfl, rfl⟩

theorem ingressPush_ingress {s : State} {e : Entry} (known : e.core < 288) :
    vget [] (s.ingressPush e).ord.ingress (Config.dieOf e.core) = vget [] s.ord.ingress (Config.dieOf e.core) ++ [e] :=
  vget_vset_same _ _ _ _ (Nat.div_lt_of_lt_mul known)

theorem exec_deposit_store {s t : State} {g p off : Nat} {q : QOp} {x : Xlated} (known : g < 288) (head : (s.core g).headOp = some q)
    (writes : q.writes = true) (more : q.done + 1 < q.lines) (prepared : s.access g q.lineVa needW .windows = .ok t x)
    (window : x.loc = .reg p off) (room : t.ingressRoom p = true) :
    exec (.deposit g false) s = .next ((t.ingressAdd (depositEntry (s.partOf g) p off q.lineBytes)).qSettle g
      { q with done := q.done + 1, portAt := .none }) := by
  have going : ¬ (!q.writes || decide (q.lines ≤ q.done)) = true := by simp [writes]; omega
  refine coreEvent_eq_next.mpr ⟨known, ?_⟩
  rw [if_neg Bool.false_ne_true]
  simp only [head, if_neg going, prepared, window, State.depositLine, room, if_true, Option.map_some]
  rfl

theorem checkAxis_reached (c : CoreSt) (r : Reached) (i : Nat) :
    ({ c with reached := r } : CoreSt).checkAxis i = { c.checkAxis i with reached := r } := by
  by_cases sound : CoreSt.axisOk (c.axisHeld i) (c.norm i) = true
  · rw [show c.checkAxis i = c from if_pos sound]
    exact if_pos sound
  · rw [show c.checkAxis i = c.setNorm i CoreSt.nInvalid from if_neg sound]
    exact if_neg sound

/-- The check of the axis registers does not read what a window bundle has noted. -/
theorem checkAxes_reached (c : CoreSt) (r : Reached) (m : W16) :
    ({ c with reached := r } : CoreSt).checkAxes m = { c.checkAxes m with reached := r } := by
  refine List.foldl_hom (fun c : CoreSt => { c with reached := r }) fun c i => ?_
  split
  · exact checkAxis_reached c r i
  · rfl

theorem drained1_files (c : CoreSt) (n : Nat) :
    (c.drained1 n).files = if n = 0 then (c.checkAxes c.reached.touched).files else c.files := by
  unfold CoreSt.drained1
  dsimp only
  split
  · rw [checkAxes_reached]
  · rfl

theorem drained1_drain (c : CoreSt) (n : Nat) : (c.drained1 n).reached.drain = some n := by
  unfold CoreSt.drained1
  dsimp only
  split
  · rw [checkAxes_reached]
  · rfl

/-- The state in which the first entry of a core has left its die's buffer, and its bytes are in the core's window. -/
def entryDeposited (s : State) (g : Nat) (e : Entry) : State :=
  (s.onOrd fun o => { o with ingress := vset o.ingress (Config.dieOf g) ((vget [] s.ord.ingress (Config.dieOf g)).eraseP fun x => x.core == g) }).onCore g
    fun c => c.deposit e.addr e.bytes

theorem exec_drain {s : State} {g n : Nat} {e : Entry} {es : List Entry} (known : g < 288) (drain : (s.core g).reached.drain = some (n + 1))
    (first : s.ingressOf g = e :: es) (may : (s.core g).mayApply e = true) (whole : e.stuck = false) (deposit : e.host = false)
    (plain : e.va = none) : exec (.drain g) s =
      .next (((entryDeposited s g e).dieEvent (Config.dieOf g) e.part 7 1).onCore g fun c => c.drained1 n) := by
  refine coreEvent_eq_next.mpr ⟨known, ?_⟩
  rw [drain]
  simp only [State.drainOne, first, whole, may, Bool.not_true, Bool.or_false, Bool.false_eq_true, if_false, plain, State.entryWrite, deposit,
    Option.map_some]
  rfl

/-! ### HOSTOP and OBSERVE (R288, R293) -/

section
variable {s t : State} {g : Nat} {q : QOp} {x : Xlated} (known : g < 288) (head : (s.core g).headOp = some q)
include known head

theorem exec_hostop_store (writes : q.writes = true) (left : q.done < q.lines) (prepared : s.access g q.lineVa needW .windows = .ok t x)
    (host : x.loc = .host) : exec (.hostop g false) s =
      .next (((t.countLine g none).sendHost g false x.pa q.lineBytes).qSettle g { q with done := q.done + 1, portAt := .none }) := by
  refine coreEvent_eq_next.mpr ⟨known, ?_⟩
  rw [if_neg Bool.false_ne_true]
  simp only [State.qHost, head, if_neg (Nat.not_le.mpr left), need_of_writes writes, reach_of_writes writes, prepared, host,
    loadWaits_of_writes writes, reads_of_writes writes, writes, Bool.false_eq_true, if_false, if_true]

theorem exec_hostop_load (reads : q.reads = true) (more : q.done + 1 < q.lines) (prepared : s.access g q.lineVa needR .scratchpads = .ok t x)
    (host : x.loc = .host) : exec (.hostop g false) s =
      .next ((t.countLine g none).setHead g (q.take (amRead s.ord.host x.pa 64))) := by
  refine coreEvent_eq_next.mpr ⟨known, ?_⟩
  rw [if_neg Bool.false_ne_true]
  simp only [State.qHost, head, if_neg (show ¬ q.lines ≤ q.done by omega), need_of_reads reads, reach_of_reads reads, prepared, host,
    loadWaits_of_more more, reads, Bool.false_eq_true, if_false, if_true]
  exact congrArg some (qSettle_of_more g more)

end

theorem exec_observe {s : State} {i : Nat} {w : Sent} (sent : s.ord.sent[i]? = some w)
    (first : ∀ e ∈ s.ord.sent.take i, ¬ (e.core = w.core ∧ e.line = w.line)) : exec (.observe i) s =
      .next { s with ord := { s.ord with sent := s.ord.sent.eraseIdx i, host := amPut s.ord.host w.bytes } } := by
  have none : ¬ ((s.ord.sent.take i).any fun e => e.core == w.core && e.line == w.line) = true := by
    simp only [List.any_eq_true, Bool.and_eq_true, beq_iff_eq, not_exists, not_and]
    exact fun e listed core line => first e listed ⟨core, line⟩
  refine event_eq_next.mpr ?_
  rw [sent]
  exact if_neg none

end Sys2Proof.Proofs

open Sys2Proof Sys2Proof.Machine Sys2Proof.Proofs Sys2Proof.Claims
/-- Settles O28: what each event makes of the line that its access has prepared, of which no file and no queue has changed. -/
theorem portsDepositsDrainsAndHostLines : Obligations.PortsDepositsDrainsAndHostLines := by
  unfold Obligations.PortsDepositsDrainsAndHostLines
  refine ⟨?store, ?load, ?copy, ?deposit, ?drain, ?hostStore, ?hostLoad, fun s i w sent first => exec_observe sent first⟩
  case store =>
    intro s t g p off q x v known inside head left writes clock covered prepared port free
    refine ⟨_, exec_port_store known head left writes clock covered prepared port free, qSettle_ord _ _ _, ?_, fun h other => ?_⟩
    · refine (congrArg Files.spad (qSettle_files_of_writes g (by exact writes) p)).trans ?_
      rw [portWritten_same inside, spadWrite_of_files (access_ok_files prepared p)]
    · refine (congrArg Files.spad (qSettle_files_of_writes g (by exact writes) h)).trans ?_
      rw [portWritten_other other, access_ok_files prepared h]
  case load =>
    intro s t g p off q x known inside head reads more prepared port free
    have bytes : (t.core p).spadRead off 64 = (s.core p).spadRead off 64 := by
      rw [CoreSt.spadRead, access_ok_files prepared p, CoreSt.spadRead]
    refine ⟨_, exec_port_load known head reads more prepared port free, rfl, fun h => ?_, ?_⟩
    · rw [setHead_files, portTaken_files, access_ok_files prepared h]
    · rw [setHead_mem _ known, portTaken_mem, access_ok_flow prepared g, bytes]
  case copy =>
    intro s t g p off x l y known inside head plain line prepared port clock covered free
    have files (h : Nat) (z : XCmd) : (((portWritten t p off (bytesOf 64 l)).setCopy g z).core h).files =
        ((portWritten t p off (bytesOf 64 l)).core h).files := onCore_keeps CoreSt.files (fun _ => by rfl) _ g h
    refine ⟨_, exec_port_copy known head plain line prepared port clock covered free, rfl, ?_, fun h other => ?_, ?_⟩
    · rw [files, portWritten_same inside, spadWrite_of_files (access_ok_files prepared p)]
    · rw [files, portWritten_other other, access_ok_files prepared h]
    · rw [State.setCopy, State.onCore_core_same _ _ _ known]
      dsimp only
      rw [portWritten_xq, access_ok_flow prepared g]
      rfl
  case deposit =>
    intro s t g p off q x known head writes more prepared window room quiet
    obtain ⟨ord, cores⟩ := ingressAdd_of_unscrubbed (e := depositEntry (s.partOf g) p off q.lineBytes) quiet
    refine ⟨_, exec_deposit_store known head writes more prepared window room, ?_, fun h => ?_⟩
    · rw [qSettle_ord, ord]
      exact ingressPush_ingress (access_ok_window prepared window)
    · refine (qSettle_files_of_writes g (by exact writes) h).trans ?_
      rw [State.core, cores]
      exact access_ok_files prepared h
  case drain =>
    intro s g n e es known drain first may whole deposit plain d
    have core : ((entryDeposited s g e).dieEvent (Config.dieOf g) e.part 7 1).core g = d := by
      rw [dieEvent_core, entryDeposited, State.onCore_core_same _ _ _ known]
      rfl
    refine ⟨_, exec_drain known drain first may whole deposit plain, ?_⟩
    rw [State.onCore_core_same _ _ _ known, core, drained1_drain, drained1_files]
    refine ⟨rfl, fun more => if_neg more, fun last => if_pos last, ?_⟩
    rw [State.onCore_ord, dieEvent_ord]
    exact vget_vset_same _ _ _ _ (Nat.div_lt_of_lt_mul known)
  case hostStore =>
    intro s t g q x known head writes left prepared host w
    refine ⟨_, exec_hostop_store known head writes left prepared host, ?_⟩
    rw [qSettle_ord]
    exact congrArg (fun o : Order => { o with sent := o.sent ++ [w] }) (countLine_ord t g none)
  case hostLoad =>
    intro s t g q x known head reads more prepared host
    refine ⟨_, exec_hostop_load known head reads more prepared host, countLine_ord t g none, ?_, ?_⟩
    · rw [setHead_files, countLine_core, access_ok_files prepared g]
    · rw [setHead_mem _ known, countLine_core, access_ok_flow prepared g]
end
